-- ==== Sys2Proof/Word.lean ====
section
/-! DEFINITION. Words, bytes and the plain data types that commands carry as operands. -/

namespace Sys2Proof

/-- A 32-bit register value (R13). -/
abbrev Word := BitVec 32

/-- One byte. -/
abbrev Byte := BitVec 8

/-- A 64-byte command descriptor, byte b at bits [8b+7:8b] (R72). -/
abbrev Desc := BitVec 512

/-- A memory: cells of (address, byte), addresses strictly rising, none equal to what an unlisted address reads as. -/
abbrev Memory := List Host.Cell

/-- The strap lands as sampled 2 ms after the power-on threshold (R402, R403). -/
structure Straps where
  notx : Bool := false
  master : Bool := false
  flaskId : BitVec 4 := 0
  bootband : BitVec 3 := 0
  deriving DecidableEq, Repr

/-- The causes of a control-port reset (R62, R432). -/
inductive PortReset where
  | flr | hotReset | linkDown | perst
  deriving DecidableEq, Repr

/-- Reference sources by their source codes 0–4 (10). -/
inductive Source where
  | none | refIn | bypassIn | synce | cascade
  deriving DecidableEq, Repr

/-- The source code of SYN_REF_CFG and SYN_REF_STAT (10). -/
def Source.code : Source → Nat
  | .none => 0 | .refIn => 1 | .bypassIn => 2 | .synce => 3 | .cascade => 4

/-- The source of a code; codes above 4 name no source (10). -/
def Source.ofCode : Nat → Source
  | 1 => .refIn | 2 => .bypassIn | 3 => .synce | 4 => .cascade | _ => .none

/-- A descriptor's place: its command ring and its index there (R78). -/
structure CmdRef where
  ring : Fin 16
  index : Word
  deriving DecidableEq, Repr

/-- A layer of one carrier. -/
structure LayerRef where
  cc : Fin 2
  layer : Nat
  deriving DecidableEq, Repr

/-- One 16-bit complex value of an antenna's subcarrier k of a carrier, as the FFT delivers it (R273). -/
structure AntVal where
  cc : Fin 2
  k : Nat
  ant : Fin 64
  i : Int
  q : Int
  deriving DecidableEq, Repr

/-- A complex sample or value. -/
structure Sample where
  i : Int
  q : Int
  deriving DecidableEq, Repr

/-- One captured 4-byte element: its byte offset in the capture, and I low, Q high (R287); `old` is what the coefficients before a
change give, for a sample inside the cross-fade (R274). -/
structure CapWord where
  off : Nat
  word : Word
  old : Option Word := none
  deriving DecidableEq, Repr

/-- One BAR 0 request: the requester, direction, byte offset, length in bytes, and write data (R94, R426). -/
structure BusReq where
  req : BitVec 16 := 0
  write : Bool := false
  off : BitVec 24 := 0
  len : Nat := 4
  value : BitVec 64 := 0
  deriving DecidableEq, Repr

/-- The spaces a host request may go to: BAR 0, BAR 2, the MSI-X control word, and in configuration space the word at offset 0x00, the
Device Serial Number and Advanced Error Reporting (R61, R90, R424). -/
inductive Space where
  | bar0 | bar2 | msixControl | configId | serialNumber | aer
  deriving DecidableEq, Repr

/-- A fronthaul port: 25GBASE-R port n, or four-lane port k (R106, R136). -/
inductive Port where
  | single (n : Fin 16)
  | four (k : Fin 4)
  deriving DecidableEq, Repr

/-- The PORT encoding of R136. -/
def Port.code : Port → Nat
  | .single n => n.val
  | .four k => 0x80 + k.val

/-- The lowest lane of a port (R106). -/
def Port.lane : Port → Fin 40
  | .single n => ⟨n.val, by omega⟩
  | .four k => ⟨4 * k.val, by omega⟩

/-- What the device finds at an air tick and the state does not determine: whether the placement table of the slot that begins is
not complete (R31), and the parts saturated on each path in the symbol that ends, in the receive chain and the FFT (R271,
R273). -/
structure TickSeen where
  late : Bool := false
  rxSat : List (Fin 64 × Nat) := []
  deriving DecidableEq, Repr

/-- A received Ethernet frame from destination address to the end of its MAC client data, and what the MAC
found (R146); `corrected` RS-FEC codewords were corrected on the port since the frame before it (R107). -/
structure FhFrame where
  bytes : List Byte
  fcsBad : Bool := false
  fecBad : Bool := false
  corrected : Nat := 0
  deriving DecidableEq, Repr

/-- A received eCPRI one-way delay message (R160): sender, measurement ID, action type, timestamp, compensation. -/
structure OwdMsg where
  src : BitVec 48
  mid : Byte
  action : Byte
  sec : BitVec 48
  ns : Word
  comp : BitVec 64 := 0
  deriving DecidableEq, Repr

/-- The PTP messages the engine distinguishes (R309). -/
inductive PtpKind where
  | announce | sync | followUp | delayResp | other
  deriving DecidableEq, Repr

/-- A received PTP frame: its kind, domain, sequence number, two-step flag, origin or receive timestamp in 1/16 ns,
clockClass, and whether the alternate BMCA selects its sender (R309). -/
structure PtpMsg where
  kind : PtpKind
  domain : Byte := 24
  seq : Nat := 0
  twoStep : Bool := false
  stamp : Int := 0
  clockClass : Byte := 0
  best : Bool := true
  deriving DecidableEq, Repr

/-- A received Pour frame: 12-byte header, payload, FCRC, whether a block code was wrong or LEN disagreed (R206, R209), and the part
of a count, in 0.5 ps, by which its first bit came after the count of its row (R211). -/
structure PourFrame where
  hdr : BitVec 96
  payload : List Byte := []
  fcrc : Word := 0
  codeErr : Bool := false
  phase : Nat := 0
  deriving DecidableEq, Repr

/-- One tap request of a Clause 72 coefficient update (R110). -/
inductive TapStep where
  | hold | inc | dec
  deriving DecidableEq, Repr

/-- What a Clause 72 status report says of one tap (R110). -/
inductive TapStatus where
  | notUpdated | updated | minimum | maximum
  deriving DecidableEq, Repr

/-- A received Clause 72 training frame: the partner's requests, its receiver status, and whether the device's own
receiver has found its eye metric to have stopped improving (R110). -/
structure TrainFrame where
  pre : TapStep := .hold
  main : TapStep := .hold
  post : TapStep := .hold
  partnerReady : Bool := false
  eyeDone : Bool := false
  deriving DecidableEq, Repr

/-- The lane detectors of R113. -/
inductive Detector where
  | los | lol | blockLock | hiBer | align | pour
  deriving DecidableEq, Repr

/-- LAST_FAULT code of a detector (04). -/
def Detector.code : Detector → Nat
  | .los => 1 | .lol => 2 | .blockLock => 3 | .hiBer => 4 | .align => 5 | .pour => 6

/-- One path of a survey report: RSSI and its 256 bins, 1/64 dB (R59). -/
structure SurveyPath where
  rssi : BitVec 16 := 0x8000
  bins : List (BitVec 16) := []
  deriving DecidableEq, Repr

/-- What a Temper solve delivers: predicted NMSE (1/64 dB), coefficient set (I low, Q high), quadrature corrections (R243, R246). -/
structure TemperSol where
  nmse : Int
  coef : List (BitVec 64) := []
  qecPhase : Int := 0
  qecGain : Int := 0
  lolI : Int := 0
  lolQ : Int := 0
  deriving DecidableEq, Repr

/-- One measurement's result for a path: phase 1/1024°, amplitude 1/4096 dB, delay 1/16 ps, each direction (R321, R322). -/
structure AnlMeas where
  txPhase : Int := 0
  txAmp : Int := 0
  txDly : Int := 0
  rxPhase : Int := 0
  rxAmp : Int := 0
  rxDly : Int := 0
  deriving DecidableEq, Repr

/-- The two measurements of a path, and its other solved quantities (R317, R321, R322); loTrim are the new delay trims of
synthesiser outputs that the path's quad-crossing pairs give. -/
structure AnlResult where
  path : Fin 64
  m1 : AnlMeas := {}
  m2 : AnlMeas := {}
  dac : Byte := 0
  adc : Byte := 0
  irrPhase : Int := 0
  irrGain : Int := 0
  orxDly : Option (BitVec 16) := none
  edge : Option (Fin 8 × Word) := none
  loTrim : List (Fin 5 × Fin 4 × BitVec 10) := []
  deriving DecidableEq, Repr

end Sys2Proof
end

