-- ==== Sys2Proof/Syntax.lean ====
section
/-! DEFINITION. The commands of the XK6464: one constructor per row of spec/opcode_table.json, in its order.
dt counts the CK_TB cycles since the command before it; ref and d are a command's ring place and its descriptor. -/

namespace Sys2Proof

/-- A command: one of the part's steps. -/
inductive Instr where
  /-- POWER_ON_RESET (R403). VIN rising through 4.3 V starts power-on: AUX1V8 comes up, straps and fuses are latched, bias outputs go safe, fans run at 255, rails come up and PGOOD is released. -/
  | powerOnReset (dt : Nat) (straps : Straps)
  /-- POWER_FAIL (R404). VIN falls below 4.1 V or an internal rail leaves regulation, and PGOOD goes low within 10 µs while the gate bias outputs hold and then fall. -/
  | powerFail (dt : Nat)
  /-- CONTROL_PORT_RESET (R62). An FLR, hot reset, link-down or PERST_N assertion disables the rings, resets the MSI-X table, RNG registers and LDL_CH_CFG, and withdraws Ladle moves. -/
  | controlPortReset (dt : Nat) (kind : PortReset)
  /-- FUSE_PROGRAM (R395). The Kizal Fuse Writer programs fuses through the IEEE 1149.1 port, and the device ignores fields whose closing fuse is blown. -/
  | fuseProgram (dt : Nat) (bits : List (Fin 4096))
  /-- OUT_OF_RESET (R57). When SYN is first on after power-on reset, the device enters its default state: CC0 in AST SURVEY, the fronthaul lanes training and transmit disabled. -/
  | outOfReset (dt : Nat)
  /-- SOURCE_QUALIFIED (R290). A reference source has stayed within ±10 ppm for 1 s and qualifies; the cleaner may switch to it, or recover from REF_LOST. -/
  | sourceQualified (dt : Nat) (src : Source)
  /-- SOURCE_LOST (R290). The active reference source shows no edge for 1 µs or leaves ±20 ppm, so the cleaner switches source or starts holdover. -/
  | sourceLost (dt : Nat) (src : Source)
  /-- REF_LOST (R293). Holdover expires after 10 ms with no qualified source; the synthesisers are gated, the reference-locked domains lose their clocks and REF_LOST is posted. -/
  | refLost
  /-- SAMPLE_PLL_UNLOCK (R295). The sample-clock PLL loses lock; the converters are gated, the sample clocks are fed in bypass and SYN_UNLOCK is posted with INSTANCE 5. -/
  | samplePllUnlock (dt : Nat)
  /-- SAMPLE_PLL_RELOCK (R376). The sample-clock PLL relock attempt ends within 1 ms, in lock or as a further fault. -/
  | samplePllRelock (dt : Nat) (ok : Bool)
  /-- SYN_UNLOCK (R300). A synthesiser's phase error exceeds ±30° for 4 reference cycles, so its outputs are gated and fed in bypass and SYN_UNLOCK is posted. -/
  | synUnlock (dt : Nat) (n : Fin 5)
  /-- RELOCK_START (R300). 100 µs after a loss of lock or a failed attempt, the synthesiser starts a band search and relock attempt. -/
  | relockStart (n : Fin 5)
  /-- SYN_LOCK (R298). A band search finds lock and the synthesiser reports lock. -/
  | synLock (dt : Nat) (n : Fin 5) (band : BitVec 8)
  /-- RELOCK_FAIL (R298). An attempt that is still without lock 1 ms after its first search fails and counts as a synthesiser fault. -/
  | relockFail (n : Fin 5)
  /-- AIR_SYMBOL_TICK (R7). The timebase reaches a symbol tick, and the changes, records and frames due at that symbol tick are applied. -/
  | airSymbolTick (seen : TickSeen)
  /-- AIR_SLOT_TICK (R7). The timebase reaches a slot tick, and the mode, carrier, placement, lane-join and compensation changes due at that slot tick are applied. -/
  | airSlotTick (seen : TickSeen)
  /-- AIR_FRAME_TICK (R7). The timebase reaches a frame tick, and steps, grid changes, alignment steps and the TICK_ERR record are applied. -/
  | airFrameTick (seen : TickSeen)
  /-- DL_WORK_TICK (R26). The downlink work tick W_DL(s) opens symbol s's downlink window and closes the window of the previous symbol. -/
  | dlWorkTick (unfinished : Nat) (unreleased : List Nat)
  /-- UL_WORK_TICK (R26). The uplink work tick W_UL(s) opens symbol s's uplink window and closes the window of the previous symbol. -/
  | ulWorkTick (unfinished : List LayerRef) (rx : List AntVal)
  /-- WEIGHT_FILL (R178). At W(s−1) + 1,024 counts the fill of symbol s starts writing the inactive half, in the order of its steps and within the DRAM budget. -/
  | weightFill (dir : Fin 2)
  /-- UPLINK_ASSEMBLY (R157). A finished uplink layer is compressed and split into messages that leave on the port the placement assigns. -/
  | uplinkAssembly (dt : Nat) (cc : Fin 2) (kind1 : Bool) (id : Nat) (samples : List Sample)
  /-- PSUM_RECORD_SEND (R216). Once its blocks are combined, a partial-sum record is sent toward the end member as a CLASS 1 Pour frame. -/
  | psumRecordSend (dt : Nat) (cc : Fin 2) (layer : Nat)
  /-- LOCK_CHECK (R256). At T(s) − 1,024 counts, the device checks synthesiser lock, the duty budget and the coexistence grants for symbol s and mutes accordingly. -/
  | lockCheck (grants : BitVec 4)
  /-- NOP (R88). NOP completes with status DONE and serves as a barrier with FENCE. -/
  | nop (dt : Nat) (ref : CmdRef) (d : Desc)
  /-- MODE_SET (R41). Requests carrier mode sets and LTS lane masks; the command is accepted or refused whole and bound to a slot tick. -/
  | modeSet (dt : Nat) (ref : CmdRef) (d : Desc)
  /-- CARRIER_CFG (R302). Sets the span centre, the carrier blocks and the TDD pattern at a slot tick. -/
  | carrierCfg (dt : Nat) (ref : CmdRef) (d : Desc)
  /-- SYN_CFG (R304). Sets synthesiser output enables and the MON divider, substitutes or releases the spare, or forces a relock. -/
  | synCfg (dt : Nat) (ref : CmdRef) (d : Desc)
  /-- TB_CFG (R314). Sets the timebase source, frequency and phase adjustments, limits, grid, PPS, INC or PTP settings on acceptance. -/
  | tbCfg (dt : Nat) (ref : CmdRef) (d : Desc)
  /-- TB_STEP (R315). Steps the time of day at a frame tick and opens a void interval. -/
  | tbStep (dt : Nat) (ref : CmdRef) (d : Desc)
  /-- TX_CTRL (R261). Enables, disables, mutes or unmutes paths at a symbol tick. -/
  | txCtrl (dt : Nat) (ref : CmdRef) (d : Desc)
  /-- LO_TIMEOUT (R256). A TX_CTRL ENABLE or UNMUTE whose quads have not passed a lock check 1 s after its tick completes with cause LO_TIMEOUT. -/
  | loTimeout (ref : CmdRef)
  /-- POWER_SET (R262). Sets path power setpoints at a symbol tick, with EFF settled by the token batch. -/
  | powerSet (dt : Nat) (ref : CmdRef) (d : Desc)
  /-- DPD_CFG (R263). Sets the linearisation model, adaptation, coefficient load or save, identity, or CFR settings at a symbol tick. -/
  | dpdCfg (dt : Nat) (ref : CmdRef) (d : Desc)
  /-- COX_CFG (R264). Configures a coexistence pair at a symbol tick. -/
  | coxCfg (dt : Nat) (ref : CmdRef) (d : Desc)
  /-- RX_CFG (R285). Sets the receive chain, gain, FIR, protect, line timing or ORx attenuation at a slot tick. -/
  | rxCfg (dt : Nat) (ref : CmdRef) (d : Desc)
  /-- CAPTURE (R286). Captures ADC, ALIGN, FFT or ORx samples into an on-die capture buffer from a symbol tick. -/
  | capture (dt : Nat) (ref : CmdRef) (d : Desc)
  /-- CAPTURE_END (R288). A capture has its last sample in the target and writes its completion record. -/
  | captureEnd (dt : Nat) (ref : CmdRef) (data : List CapWord)
  /-- CAPTURE_NO_GRANT (R288). An ORx capture with no grant 1 s after TICK ends with cause NO_GRANT. -/
  | captureNoGrant (ref : CmdRef)
  /-- WEIGHT_LOAD (R181). Binds host weight rows staged in DRAM to a work tick of one direction. -/
  | weightLoad (dt : Nat) (ref : CmdRef) (d : Desc)
  /-- PATTERN_WRITE (R189). Moves a range of Pattern Store vectors or stream-set rows into the commit buffer for later commit. -/
  | patternWrite (dt : Nat) (ref : CmdRef) (d : Desc)
  /-- SOUNDING_CAPTURE (R198). Copies the FFT output of up to four uplink symbols into DRAM. -/
  | soundingCapture (dt : Nat) (ref : CmdRef) (d : Desc)
  /-- SOUNDING_CAPTURE_END (R198). A sounding capture finishes writing and its record carries the bytes written and the settling mask. -/
  | soundingCaptureEnd (dt : Nat) (ref : CmdRef) (data : List CapWord)
  /-- LAYER_SET (R219). Admits, changes or removes layers, taking effect in a later placement table. -/
  | layerSet (dt : Nat) (ref : CmdRef) (d : Desc)
  /-- FH_CFG (R166). Sets one carrier's fronthaul message settings and pools at a slot tick. -/
  | fhCfg (dt : Nat) (ref : CmdRef) (d : Desc)
  /-- ASSAY_CTX (R164). Reads, writes or resets one Assay context on acceptance. -/
  | assayCtx (dt : Nat) (ref : CmdRef) (d : Desc)
  /-- LANE_CTRL (R129). Retrains lanes, or sets their training mode, taps, grouping, FEC, patterns, loopbacks or counter clears. -/
  | laneCtrl (dt : Nat) (ref : CmdRef) (d : Desc)
  /-- ANL_RUN (R336). Requests an Anneal run, abort, load, baseline, save or edge offset. -/
  | anlRun (dt : Nat) (ref : CmdRef) (d : Desc)
  /-- DOMAIN_SET (R340). Sets power domains on, to retention or off, subject to dependency and use checks. -/
  | domainSet (dt : Nat) (ref : CmdRef) (d : Desc)
  /-- HLD_CFG (R354). Sets the Holding taps, filter, wake actions, dark set or dark check. -/
  | hldCfg (dt : Nat) (ref : CmdRef) (d : Desc)
  /-- THM_CFG (R373). Forces fan duty, or enters or leaves the converter test mode. -/
  | thmCfg (dt : Nat) (ref : CmdRef) (d : Desc)
  /-- FAN_FORCE_END (R365). A fan force's HOLD time expires and the fan curve resumes. -/
  | fanForceEnd (f : Fin 4)
  /-- BIAS_QUEUE (R374). Appends codes or span entries to bias queues, or flushes them, at a symbol tick. -/
  | biasQueue (dt : Nat) (ref : CmdRef) (d : Desc)
  /-- UNIT_CTRL (R381). Retires or re-enables paths, pots, lanes, synthesisers or sensors at a slot tick. -/
  | unitCtrl (dt : Nat) (ref : CmdRef) (d : Desc)
  /-- HB_READ (R388). Copies Heat Book records or the last-gasp file to host memory, or requests a snapshot. -/
  | hbRead (dt : Nat) (ref : CmdRef) (d : Desc)
  /-- HB_CLEAR (R390). With a valid tag, logs a CLEAR record, erases the record area and resets the histograms. -/
  | hbClear (dt : Nat) (ref : CmdRef) (d : Desc)
  /-- HB_CLEAR_ERASE_END (R390). The record-area erase ends, HB_CLEARED is posted and the completion record is written. -/
  | hbClearEraseEnd (dt : Nat) (failed : Option (Fin 2))
  /-- LADLE_MOVE (R97). Requests a data move on a Ladle channel. -/
  | ladleMove (dt : Nat) (ref : CmdRef) (d : Desc)
  /-- LADLE_WITHDRAW (R102). Withdraws the move of a Ladle channel at the withdrawal point. -/
  | ladleWithdraw (dt : Nat) (ref : CmdRef) (d : Desc)
  /-- LADLE_ENGINE_START (R100). When the engine is free, it starts the pending move of the next channel in cyclic order. -/
  | ladleEngineStart (dt : Nat)
  /-- LADLE_MOVE_END (R101). A move ends; EOC is set, the channel vector is signalled and the completion record carries the valid count. -/
  | ladleMoveEnd (dt : Nat) (read : Nat) (hostErr : Option Nat) (writeErr : List (Nat × Nat))
  /-- COMMAND_DOORBELL (R70). A 4-byte doorbell write to a command ring is checked and, if accepted, advances the host's producer index. -/
  | commandDoorbell (dt : Nat) (ring : Fin 16) (width : Nat) (value : BitVec 32) (stores : List Host.Cell)
  /-- CONSUMER_DOORBELL (R70). A doorbell write to a completion or event ring hands consumed slots back, resuming stalled fetches and posting any OVERFLOW event. -/
  | consumerDoorbell (dt : Nat) (ring : Fin 20) (width : Nat) (value : BitVec 32) (stores : List Host.Cell)
  /-- DESCRIPTOR_FETCH (R71). The device fetches up to 8 descriptors of a ring, advances its consumer index and starts or refuses the commands. -/
  | descriptorFetch (dt : Nat) (ring : Fin 16) (n : Nat) (errs : List Nat)
  /-- HELD_COMMAND_START (R74). A command held by FENCE or by flask formation starts, and is accepted or refused, when what holds it ends. -/
  | heldCommandStart (dt : Nat) (ref : CmdRef)
  /-- RING_ENABLE (R66). A write that changes RNG_CFG.EN from 0 to 1 resets the ring's indices and errors. -/
  | ringEnable (dt : Nat) (r : Fin 36) (value : BitVec 32) (stores : List Host.Cell)
  /-- RING_DISABLE (R104). A write of RNG_CFG.EN = 0 stops the ring, refuses or aborts its commands and withdraws its Ladle moves. -/
  | ringDisable (dt : Nat) (r : Fin 36) (value : BitVec 32)
  /-- COALESCE_TIMER (R91). COAL_TIME elapses after the first unsignalled record, and the ring's MSI-X vector is signalled. -/
  | coalesceTimer (r : Fin 36)
  /-- MSIX_UNMASK (R90). Clearing an MSI-X mask sends the vector's pending message. -/
  | msixUnmask (dt : Nat) (vector : Option (Fin 64))
  /-- LOW_WORD_READ (R94). A 4-byte read of the low word of a 64-bit quantity latches the high word into the requester's shadow. -/
  | lowWordRead (dt : Nat) (req : BitVec 16) (off : BitVec 24)
  /-- HIGH_WORD_READ (R94). A 4-byte read of the high word returns and consumes the shadow, or returns the live word and sets SPLIT_MISS. -/
  | highWordRead (dt : Nat) (req : BitVec 16) (off : BitVec 24)
  /-- LOW_WORD_WRITE (R96). A 4-byte write to the low word of a 64-bit RW quantity is held, replacing any earlier held word. -/
  | lowWordWrite (dt : Nat) (req : BitVec 16) (off : BitVec 24) (value : BitVec 32)
  /-- HIGH_WORD_WRITE (R96). A 4-byte write to the high word sets both words with the held low word, or drops a mismatched one. -/
  | highWordWrite (dt : Nat) (req : BitVec 16) (off : BitVec 24) (value : BitVec 32)
  /-- HKA_QPOP_READ (R359). A read of HKA_QPOP returns and removes the oldest housekeeping result. -/
  | hkaQpopRead (dt : Nat)
  /-- ACCESS_DARK (R92). An access to a dark block returns 0x0BAD_00nn or discards the write, and is logged. -/
  | accessDark (dt : Nat) (req : BusReq)
  /-- COMPLETER_ABORT (R426). A BAR 0 request of illegal size or alignment completes with Completer Abort. -/
  | completerAbort (dt : Nat) (req : BusReq)
  /-- REGISTER_WRITE (R429). A write to a register with no row of its own sets its RW fields and acts on its W1C fields, or is discarded and recorded in GEN_WR_REJ. -/
  | registerWrite (dt : Nat) (space : Space) (req : BusReq)
  /-- CTL_WAKE_REQUEST (R346). A host request while CTL is in retention starts CTL's exit and is answered when the exit ends. -/
  | ctlWakeRequest (dt : Nat) (req : BusReq)
  /-- FH_FRAME_RX (R146). A fronthaul frame is received whole; each message is checked, snooped by Assay, taken against the credit book, and held or discarded into Slag. -/
  | fhFrameRx (dt : Nat) (port : Port) (frame : FhFrame)
  /-- OWD_MESSAGE_RX (R160). An eCPRI one-way delay request, follow-up, remote request or response is received and answered, or its result is recorded. -/
  | owdMessageRx (dt : Nat) (port : Port) (msg : OwdMsg)
  /-- PTP_FRAME_RX (R309). A PTP timing frame is received on the PTP port and feeds the slave clock, or is dropped as foreign. -/
  | ptpFrameRx (dt : Nat) (port : Port) (msg : PtpMsg)
  /-- PPS_EDGE (R308). A 1PPS rising edge is stamped and steers the timebase, or acquires it. -/
  | ppsEdge (dt : Nat)
  /-- TIME_SOURCE_LOST (R308). The timing source misses 3 edges or Sync intervals, so the timebase enters HOLDOVER and TIME_SRC is posted. -/
  | timeSourceLost (dt : Nat)
  /-- POUR_FRAME_RX (R209). A Pour frame is received on a cascade lane; it is checked, then filed, forwarded or acted on by class and subtype. -/
  | pourFrameRx (dt : Nat) (side : Fin 2) (lane : Fin 12) (frame : PourFrame)
  /-- NO_MASTER_TIMEOUT (R204). No master is found within 1 s of the chain being known, giving conflict NO_MASTER. -/
  | noMasterTimeout (dt : Nat)
  /-- MODE_ACK_TIMEOUT (R46). The master's 1 ms wait for MODE_ACK answers ends, and members that have not answered count as refusing. -/
  | modeAckTimeout (dt : Nat)
  /-- FLK_READY_TIMEOUT (R46). The issuing member is not READY and in service 2 s after accepting its FLK MODE_SET, which is refused with FLK_MASTER. -/
  | flkReadyTimeout (dt : Nat)
  /-- TRAINING_FRAME_RX (R110). A Clause 72 training frame is received, and the device adjusts its taps and reports its receiver status. -/
  | trainingFrameRx (dt : Nat) (l : Fin 40) (f : TrainFrame)
  /-- TRAINING_FALLBACK (R111). An AUTO lane that receives no training frame within 500 ms falls back to PRESET taps. -/
  | trainingFallback (l : Fin 40)
  /-- LANE_UP (R112). A lane has held CDR lock, block lock, clear HI_BER and alignment for 1 ms and becomes UP. -/
  | laneUp (dt : Nat) (l : Fin 40)
  /-- DETECTOR_ASSERT (R113). A lane detector (LOS, LOL, block lock, HI_BER, ALIGN or POUR) asserts. -/
  | detectorAssert (dt : Nat) (l : Fin 40) (det : Detector)
  /-- DETECTOR_CLEAR (R113). A lane detector clears; on a DOWN fronthaul lane a LOS clear starts a new first training. -/
  | detectorClear (dt : Nat) (l : Fin 40) (det : Detector)
  /-- RETRY_START (R116). 1 ms after a fault or a failed attempt, a lane starts a retrain attempt. -/
  | retryStart (l : Fin 40)
  /-- ATTEMPT_FAIL (R116). A training attempt's time limit expires without the lane UP; it counts as a fault or ends a first training. -/
  | attemptFail (l : Fin 40)
  /-- PRBS_SYNC_LOST (R125). The PRBS checker sees more than 32 errors in 128 bits, loses sync and re-seeds itself. -/
  | prbsSyncLost (dt : Nat) (l : Fin 40) (errs : Nat) (nbits : Nat)
  /-- SURVEY_PERIOD_END (R59). At every tenth frame tick the survey period ends, the report is mirrored in MOD registers and it is sent on the up ports. -/
  | surveyPeriodEnd (powers : List SurveyPath)
  /-- POT_FAULT (R195). A pot's residue check mismatches; the pot stops and its units are dealt to the other pots. -/
  | potFault (dt : Nat) (pot : Fin 8) (residue : Bool)
  /-- POT_RETEST_END (R376). A pot's 1 ms built-in test ends, re-admitting the pot or counting a further fault. -/
  | potRetestEnd (dt : Nat) (pot : Fin 8) (pass : Bool)
  /-- POWER_DETECTOR_REPORT (R253). 512 counts after a symbol the drive-stage detector reports its mean, which mutes the path for overpower if it is too high. -/
  | powerDetectorReport (dt : Nat) (path : Fin 64) (mean : Int)
  /-- TEMPER_SOLVE_END (R243). A Temper solve ends and is rejected or accepted for the next coefficient set, with divergence checked. -/
  | temperSolveEnd (dt : Nat) (path : Fin 64) (sol : TemperSol)
  /-- DIVERGE_RETRY (R376). 1 s after a divergence, the path takes the identity set and restarts adaptation. -/
  | divergeRetry (path : Fin 64)
  /-- TEMPER_REFRESH_DUE (R242). A path's refresh timer passes REFRESH / 2 or REFRESH and raises its Temper request. -/
  | temperRefreshDue (dt : Nat) (path : Fin 64)
  /-- DPD_STALE (R242). A radiating path with no accepted update for 4 × REFRESH is marked stale. -/
  | dpdStale (dt : Nat) (path : Fin 64)
  /-- RX_OVERLOAD (R281). ADC codes exceed the threshold for N_OVL samples; the LNA protect line is set and the path output is zeroed. -/
  | rxOverload (dt : Nat) (path : Fin 64) (code : BitVec 16)
  /-- ANL_GUARD_PERIOD (R319). A guard period granted to Anneal starts; the preconditions are checked and the quiet interval and injection frames are measured. -/
  | anlGuardPeriod (dt : Nat) (noise : Int) (grants : BitVec 4)
  /-- ANL_SOLVE_END (R323). The Anneal solve of two measurements ends, with corrections scheduled or the run failed. -/
  | anlSolveEnd (dt : Nat) (res : List AnlResult)
  /-- ANL_REPEAT_TIMEOUT (R322). No granted guard period within 100 ms for measurement 2, so measurement 1 is taken again. -/
  | anlRepeatTimeout (dt : Nat)
  /-- NO_GUARD (R328). No granted guard period comes within 1 s of the trigger, and the run is blocked. -/
  | noGuard (dt : Nat)
  /-- ANL_AGE_TRIGGER (R325). MAX_AGE passes since the last accepted run and triggers a run. -/
  | anlAgeTrigger (dt : Nat)
  /-- HK_CONVERSION_DONE (R359). A housekeeping conversion completes; its result is written to HKA_LAST and the queue and the next conversion starts. -/
  | hkConversionDone (dt : Nat) (code : BitVec 24)
  /-- HK_ROUND (R361). Every 100 ms a round checks sensors, runs the thermal model and ceilings, fans, heater, compensation and Anneal triggers. -/
  | hkRound (dt : Nat)
  /-- COMPARATOR_CROSSING (R360). A window comparator's input stays beyond a threshold for 1 ms, which may wake the device or start a conversion. -/
  | comparatorCrossing (dt : Nat) (k : Fin 16) (above : Bool)
  /-- QUENCH (R368). A thermal limit is reached; Quench latches, bias outputs go safe, the quads, TMP and CRU go off and the fans run full. -/
  | quench (dt : Nat) (cause : Nat) (sensor : Fin 24) (temp : Int)
  /-- BIAS_UPDATE_TICK (R370). Every 256,000 counts each non-empty bias queue releases its head entry. -/
  | biasUpdateTick (dt : Nat)
  /-- DOMAIN_ENTRY_DONE (R341). A domain completes its entry to retention or off, and DOMAIN_STATE is posted. -/
  | domainEntryDone (dt : Nat) (dom : Fin 14) (sigs : List (BitVec 32))
  /-- DOMAIN_EXIT_START (R342). A domain begins its exit once every domain it needs is on. -/
  | domainExitStart (dt : Nat) (dom : Fin 14)
  /-- DOMAIN_EXIT_DONE (R342). A domain completes its exit, with its banks checked and restored, and DOMAIN_STATE is posted. -/
  | domainExitDone (dt : Nat) (dom : Fin 14) (sigs : List (BitVec 32))
  /-- CTL_ENTRY_START (R340). 100 µs after a DOMAIN_SET record, CTL begins its entry to retention or off. -/
  | ctlEntryStart
  /-- PWAKE_EDGE (R344). A rising edge held 10 µs on PWAKE applies its configured wake action. -/
  | pwakeEdge (dt : Nat)
  /-- HOLDING_WINDOW_END (R347). A Holding window ends with one vote per tap, and the decision state machine advances. -/
  | holdingWindowEnd (dt : Nat) (hits : BitVec 8)
  /-- DARK_CHECK (R351). Once per second Holding observes a dark path through the ORx and posts DARK_FAIL on excess power. -/
  | darkCheck (dt : Nat) (orx : Fin 8) (level : Int)
  /-- HB_SNAPSHOT_DUE (R386). INTERVAL operating hours pass and a snapshot of 130 records is started. -/
  | hbSnapshotDue (dt : Nat)
  /-- HB_SNAPSHOT (R386). A snapshot's records are programmed and verified, and HB_SNAPSHOT is posted. -/
  | hbSnapshot (dt : Nat) (failAt : Option Nat)
  /-- HOUR_COMPLETE (R383). A completed operating hour programs one more hour-counter bit and samples the lane-error histograms. -/
  | hourComplete (dt : Nat) (ok : Bool)
  /-- HB_FREE_SCAN (R386). Once CTL is on after power-on, the device finds the first free Heat Book record within 200 ms. -/
  | hbFreeScan (dt : Nat)
  /-- CHECKER_SYNC (R125). The PRBS checker of a lane in LTS declares sync after 64 consecutive matching bits, sets CHK_SYNC and starts counting errors and bits. -/
  | checkerSync (dt : Nat) (l : Fin 40)
  /-- COMPARATOR_REARM (R360). A housekeeping window comparator's input comes back inside its window by the re-arm margin, so the comparator re-arms and its STATE returns to inside. -/
  | comparatorRearm (dt : Nat) (k : Fin 16)
  /-- ANL_SAVE_END (R334). The flash write and verify of an ANL_RUN SAVE into the older calibration-record copy end, and the command completes, or completes with NVM_FAIL. -/
  | anlSaveEnd (dt : Nat) (ok : Bool)
  deriving DecidableEq, Repr

end Sys2Proof
end

