-- ==== Sys2Proof/Decode.lean ====
section
/-! DEFINITION. The spec's table gives no row any bits (a descriptor is 64 bytes in host memory, R72, and every other command is an
event), so no word of the table spells a command. -/

namespace Sys2Proof

/-- The command that a word of the table's bits spells: the table gives no row bits, so none. -/
def decodeTableWord (_nbits _w : Nat) : Option Instr := none

end Sys2Proof
end

