-- ==== Sys2Proof/Config.lean ====
section
/-! DEFINITION. The free values: what the spec leaves open although the machine goes on. Each is an opaque constant, so no
proof can see its value (log 10). -/

namespace Sys2Proof.Config

/-- The value HBK_NONCE takes when it is replaced for the n-th time (R389). -/
opaque nonce : Nat → BitVec 32

/-- RXP_GD's group delay of a chain: decimation code, CIC order, FIR length code, custom (R270). -/
opaque groupDelay : Nat → Nat → Nat → Bool → BitVec 32

/-- The error, in ppm and limited to ±20,000, of the interval CK_AON measures between two counts (R294). -/
opaque aonPpm : Nat → Nat → Int

/-- The attenuation in dB that Temper or Anneal chooses at a moment for an observation receiver (R283); limited to 30. -/
opaque orxAtt : Nat → Nat → Nat

/-- The FTRIM target that the tracking of the offset trend gives: old target, last offset, new offset (R308); limited to ±50 ppm. -/
opaque servoTrim : Int → Int → Int → Int

/-- The byte that flash reads at an offset after a write there at a count failed its verify (R391). -/
opaque nvmByte : Nat → Nat → BitVec 8

/-- The current in µA of a PA group whose SHUNT is 0, by the code of its channel (R363 states no quotient). -/
opaque shuntCurrent : Nat → Nat

/-- Counts that the stages with a stated maximum leave unused in a direction (0 downlink, 1 uplink), by the configuration in force
(R33–R35 state only the allowances). -/
opaque stageSlack : Nat → List Nat → Nat

/-- What the finite precision of the IFFT adds to a part of a sample before it is rounded, in units of 2^-64 of 2^-23 of full scale,
by the moment and the part's place (R235 states only the precision). -/
opaque ifftSlack : Nat → Nat → Int

/-- The predicted NMSE of a loaded coefficient set, 1/64 dB, by the moment and the path (R243 states none). -/
opaque setNmse : Nat → Nat → Int

/-- The time in 0.5 ps from the receipt of an alignment request to the sending of its answer, by the moment (R211). -/
opaque alignTurn : Nat → Nat

/-- The tap request (0 hold, 1 increment, 2 decrement) a lane's receiver adaptation makes at a moment, by lane and tap (R110). -/
opaque tapAsk : Nat → Nat → Nat → Nat

/-- Bit errors and compared bits of a pattern checker in sync since its counters last stood still, by moment and lane (R125). -/
opaque prbsErrs : Nat → Nat → Nat
opaque prbsBits : Nat → Nat → Nat

/-- The element of a capture that was pre-empted, by the moment and the element's place: no row carries it (R54, R287). -/
opaque cutSample : Nat → Nat → BitVec 32

end Sys2Proof.Config
end

