-- ==== Sys2Proof/Machine/State.lean ====
section
/-! DEFINITION. The state of the machine as plain data, its faults and refusals, and the state after reset.
Every field names the rule of spec/ that gives it, its width and its reset value; a default value is the reset value. -/

namespace Sys2Proof.Machine

/-- TB_STAT.STATE (10). -/
inductive TbState where
  | freerun | acquiring | locked | holdover | flask | invalid
  deriving DecidableEq, Repr

/-- TB_STAT.SOURCE (R308). -/
inductive TbSource where
  | none | pps | ptp | external
  deriving DecidableEq, Repr

/-- SYN_STAT.STATE (10). -/
inductive SynState where
  | off | search | locking | locked | gated | retired
  deriving DecidableEq, Repr

/-- SYN_REF_STAT.STATE (10). -/
inductive RefState where
  | locked | acquiring | searching | lost
  deriving DecidableEq, Repr

/-- Lane states; RETIRED and LTS are shown from Lane.retired and the LTS masks (R112–R118). -/
inductive LaneState where
  | down | training | up | retryWait
  deriving DecidableEq, Repr

/-- Training modes (R111). -/
inductive TrainMode where
  | auto | on | fixed
  deriving DecidableEq, Repr

/-- RUN_FLK_STAT.STATE (07). -/
inductive FlkState where
  | off | discovering | aligning | inService | suspended | conflict
  deriving DecidableEq, Repr

/-- ANL_STAT.STATE (11). -/
inductive AnlState where
  | idle | waiting | meas1 | meas2 | applying | blocked
  deriving DecidableEq, Repr

/-- PWR_DOM_STATE codes 0–3 (12). -/
inductive DomState where
  | off | retention | on | moving
  deriving DecidableEq, Repr

/-- HLD_STAT.STATE (R347). -/
inductive HldState where
  | disarmed | blind | watch | decided | waking
  deriving DecidableEq, Repr

/-- The tick kinds a command may be bound to (R28, R87). -/
inductive TickKind where
  | none | symbol | slot | frame | dlWork | ulWork
  deriving DecidableEq, Repr

/-- Where a fetched command stands: held before its start, bound to a tick (by its number), or running with
its effect done or begun; `due` is the count of a timeout that ends the wait (R71, R74, R256). -/
inductive Stage where
  | held
  | bound (kind : TickKind) (tick : Nat) (late : Bool)
  | running (due : Option Nat)
  deriving DecidableEq, Repr

/-- A command fetched and not yet completed (R71–R78). -/
structure Cmd where
  ref : CmdRef
  d : Desc
  seq : Nat := 0
  acceptAt : Nat := 0
  stage : Stage := .held
  /-- LIMITED flag its record will carry (R21). -/
  limited : Bool := false
  /-- LATE flag its record will carry (R74). -/
  late : Bool := false
  /-- cause of settings discarded at its tick: 0 none, 15 PRECEDENCE, 16 SAME_RANK (R76). -/
  lostTo : Nat := 0
  /-- cause its record will carry. -/
  cause : Nat := 0
  /-- RESULT bytes 24–31. -/
  result : BitVec 64 := 0
  /-- EFFECT_TICK's symbol and EFFECT_SEC once the change took effect. -/
  effect : Option (BitVec 19 × Word) := none
  /-- progress of the command, as its family uses it (lanes still training, bytes captured). -/
  note : BitVec 64 := 0
  /-- its record is written, or lost with its ring, and what it set in motion goes on (R104, R62). -/
  silent : Bool := false
  deriving DecidableEq, Repr

/-- A completion record before PHASE is set, and its IRQ_NOW flag (R74, R78). -/
structure Record where
  bits : BitVec 256
  irqNow : Bool := false
  deriving DecidableEq, Repr

/-- An event before it is posted (R82); `more` are the 28-byte bodies of its continuation slots (R83). -/
structure Event where
  code : Nat
  cls : Nat
  inst : Nat
  block : Nat
  data : BitVec 128 := 0
  more : List (BitVec 224) := []
  deriving DecidableEq, Repr

/-- A request for an observation receiver: its user as ORX_HOLDER codes it, path, time, attenuation (R53). -/
structure OrxReq where
  user : Nat
  path : Nat
  since : Nat
  att : Nat := 0
  deriving DecidableEq, Repr

/-- A split-access word of a requester: the quantity's low offset and the word (R94, R96). -/
structure Shadow where
  req : BitVec 16
  off : Nat
  word : Word
  deriving DecidableEq, Repr

/-- What a PCI Express request is answered with (R16, R92, R426). -/
inductive Resp where
  | none | written | data (v : BitVec 64) | abort
  deriving DecidableEq, Repr

/-- Which command a Ladle move serves (R97, R189, R388). -/
inductive MoveKind where
  | ladle | pattern | hbRead
  deriving DecidableEq, Repr

/-- A move a Ladle channel holds (R97–R103). -/
structure Move where
  ref : CmdRef
  /-- acceptance number of its command, which a later command at the same ring place does not share. -/
  seq : Nat := 0
  kind : MoveKind := .ladle
  srcSp : Nat := 0
  dstSp : Nat := 0
  src : Nat := 0
  dst : Nat := 0
  len : Nat := 0
  shuffle : Nat := 0
  elem : Nat := 0
  rows : Nat := 0
  cols : Nat := 0
  asy : Option (Fin 8) := none
  tag : BitVec 16 := 0
  started : Bool := false
  withdrawn : Bool := false
  /-- withdrawn by a control-port reset: nothing more reaches host memory (R102). -/
  silent : Bool := false
  deriving DecidableEq, Repr

/-- A moved PATTERN_WRITE waiting for its commit tick: its command's number, DRAM address, bytes, and the count it is due from (R189). -/
structure Commit where
  seq : Nat
  addr : Nat
  len : Nat
  due : Nat
  deriving DecidableEq, Repr

/-- What a training attempt is: a first training, a counted retry, a retrain that is not counted, one in LTS, or one with kept
taps (R114, R116, R118, R123, R342). -/
inductive AttemptKind where
  | first | retry | plain | lts | kept
  deriving DecidableEq, Repr

/-- A training attempt in progress (R110, R111, R116). -/
structure Attempt where
  kind : AttemptKind
  startAt : Nat
  mode : TrainMode
  /-- a training frame has been received. -/
  got : Bool := false
  /-- fell back to PRESET. -/
  fell : Bool := false
  /-- both sides report receiver ready. -/
  ready : Bool := false
  deriving DecidableEq, Repr

/-- One section of a type 0 message (R138). -/
structure Section where
  comp : Nat
  start : Nat
  num : Nat
  wsrc : Nat := 0
  psidx : Nat := 0
  data : List Byte := []
  deriving DecidableEq, Repr

/-- A held downlink message (R148): carrier, KIND, ID, symbol by its number, sections, whether it occupies a slot of a credit book,
and the lane domain that received it, whose direct stream buffer holds a message of KIND 1 (R37, R145). -/
structure HeldMsg where
  cc : Nat
  kind : Nat := 0
  id : Nat
  sym : Nat
  secs : List Section := []
  credited : Bool := false
  dom : Nat := 4
  deriving DecidableEq, Repr

/-- One WEIGHT_BLOCK or BEAM_MAP block (R185, R186): data are its rows or entries. -/
structure WBlock where
  dir : Nat
  id : Nat
  first : Nat
  count : Nat
  data : List Byte := []
  deriving DecidableEq, Repr

/-- A type 2 message held in a control pool (R148, R180, R187). -/
structure CtrlMsg where
  cc : Nat
  sym : Nat
  ctype : Nat
  blocks : List WBlock := []
  doneDl : Bool := false
  doneUl : Bool := false
  credited : Bool := false
  deriving DecidableEq, Repr

/-- An assembled uplink message (R157, R158). -/
structure UlMsg where
  port : Port
  cc : Nat
  sym : Nat
  bytes : List Byte
  deriving DecidableEq, Repr

/-- An accepted WEIGHT_LOAD: its command, direction, granularity (0 4-PRB, 1 2-PRB), slots, bundles, symbol of its work tick,
and the rows as read at acceptance, by byte offset in the source (R181, R182). -/
structure Load where
  ref : CmdRef
  dir : Nat
  gran : Nat
  l0 : Nat
  ln : Nat
  b0 : Nat
  bn : Nat
  sym : Nat
  rows : Memory
  deriving DecidableEq, Repr

/-- An open one-way delay exchange on a port (R160). -/
structure OwdReq where
  port : Port
  mid : Byte
  /-- the device sent the request: it waits for the response; else a two-step request waits for its follow-up. -/
  own : Bool
  /-- t1 of an own request, t2 of a received one, in ns. -/
  stamp : Int
  src : BitVec 48 := 0
  deriving DecidableEq, Repr

/-- One Assay context (R162): CRC state, next expected number, gaps, repeats. -/
structure AssayCtx where
  crc : Word := 0xFFFFFFFF
  next : Option Nat := none
  gaps : Nat := 0
  repeats : Nat := 0
  deriving DecidableEq, Repr

/-- A partial-sum record expanded to 24-bit values (R191, R192). -/
structure Psum where
  cc : Nat
  layer : Nat
  sym : Nat
  start : Nat
  num : Nat
  contrib : BitVec 16
  stl : Bool := false
  vals : List Sample := []
  deriving DecidableEq, Repr

/-- Units dealt to a pot: consecutive bundles of one layer's slot in one direction (R194, R223). -/
structure PotRun where
  dir : Nat
  slot : Nat
  first : Nat
  num : Nat
  deriving DecidableEq, Repr

/-- Samples of a path that are zero in the uplink window's symbol, as counts from its tick, and whether they were settling (R278,
R280). -/
structure ZeroSpan where
  path : Nat
  stl : Bool
  lo : Nat
  hi : Nat
  deriving DecidableEq, Repr

/-- What one symbol of a running capture held: the paths retired and settling in it, the samples that are zero, and the fades, as paths
with their length (R198, R274, R277, R288). -/
structure CapMark where
  seq : Nat
  sym : Nat
  retired : BitVec 64 := 0
  stl : BitVec 64 := 0
  zero : List ZeroSpan := []
  fades : List (Nat × Nat) := []
  deriving DecidableEq, Repr

/-- A flask-wide mode change (R45, R46, R210): its command here, its originator, payload bytes 16–24, when the master took it
up, members that accepted it, the slot tick it applies at, and whether it is a return from HLD that waits for the members
to be ready (R47). -/
structure FlkReq where
  ref : Option CmdRef := none
  origin : Nat := 0
  payload : BitVec 72 := 0
  since : Nat := 0
  acks : BitVec 16 := 0
  sym : Option Nat := none
  back : Bool := false
  /-- this member has sent it to the master. -/
  sent : Bool := false
  /-- at the master: the members that were in service or READY at the announcement, which must answer it (R46). -/
  asked : BitVec 16 := 0
  deriving DecidableEq, Repr

/-- An accepted Temper solve in the inactive coefficient bank (R243). -/
structure CoefPend where
  coef : List (BitVec 64)
  due : Nat
  nmse : Int
  qecPhase : Int := 0
  qecGain : Int := 0
  lolI : Int := 0
  lolQ : Int := 0
  deriving DecidableEq, Repr

/-- Transmit state at measurement 1, for the precondition TX_STATE (R327). -/
structure AnlSnap where
  en : BitVec 64 := 0
  eff : List Int := []
  models : List (Nat × Nat × Nat) := []
  cox : BitVec 4 := 0
  deriving DecidableEq, Repr

/-- An Anneal run in progress (R319–R329). -/
structure AnlRun where
  refs : List CmdRef := []
  trigger : Nat := 0
  baseline : Bool := false
  edge : Option (Fin 2) := none
  quads : BitVec 4 := 0
  paths : BitVec 64 := 0
  meas : Nat := 1
  frames : Nat := 0
  since : Nat := 0
  m1End : Nat := 0
  meas1At : Nat := 0
  snap : AnlSnap := {}
  tref : List (BitVec 16) := []
  quant : BitVec 8 := 0
  deriving DecidableEq, Repr

/-- An entry of a bias queue, or the second step of a span entry (R370, R371). -/
inductive BiasEntry where
  | code (c : BitVec 12)
  | span (n : Nat)
  | spanSwitch (n : Nat)
  deriving DecidableEq, Repr

/-- A last-gasp entry (R392). -/
structure LgEntry where
  heat : Nat
  hours : Nat
  kind : Nat
  code : Nat := 0
  off : Nat := 0
  data : BitVec 128 := 0
  deriving DecidableEq, Repr

/-- A snapshot due or being written: its CAUSE and the HB_READ that asked for it (R386). -/
structure SnapReq where
  cause : Nat
  ref : Option CmdRef := none
  deriving DecidableEq, Repr

/-- A change of domains in progress: DOMAIN_SET's command, or a dark set or wake of the device (R340, R344, R349). -/
structure DomCmd where
  ref : Option CmdRef := none
  names : BitVec 14 := 0
  target : BitVec 28 := 0
  reached : BitVec 14 := 0
  cold : BitVec 14 := 0
  quenched : Bool := false
  deriving DecidableEq, Repr

/-- One thing the device sends or signals outward: a frame on a fronthaul port, an MSI-X message, a Pour frame, a Clause
72 training frame of a lane: the status of its PRE, MAIN and POST taps, the requests for the partner's, and receiver ready (R110);
an error that Advanced Error Reporting reports, of a write or a read (R103, R434); or n pulses on a FAN land assigned to Link Test
(R56). -/
inductive Out where
  | frame (port : Port) (bytes : List Byte)
  | msix (vector : Nat) (addr : BitVec 64) (data : Word)
  | pour (side : Nat) (lane : Nat) (hdr : BitVec 96) (payload : List Byte) (fcrcBad : Bool := false)
  | train (lane : Nat) (status : List TapStatus) (ask : List TapStep) (ready : Bool)
  | aer (write : Bool)
  | pulse (fan : Nat) (n : Nat)
  deriving DecidableEq, Repr

/-- The timebase (10, 01): count, time of day, grid, servo. -/
structure Tb where
  /-- 64-bit count of CK_TB cycles (R305, 10); counts since power-on, also the model's clock while TB is stopped (log 1); reset 0 -/
  now : Nat := 0
  /-- time of day in units of 2^-32/3 ns (R305, 10: seconds, ns, 32-bit fraction, and the third-count carry); reset 0 -/
  tod : Nat := 0
  /-- INC 32.32 ns, 64 bits (R305, 10); reset NOMINAL 0x0000_0002_08D5_5555 -/
  inc : BitVec 64 := 0x208D55555
  /-- number of the symbol at gridAt, a multiple of 280 (the model's numbering of symbols, log 2); DESIGN CHOICE 0 (log 14) -/
  gridK : Nat := 0
  /-- count of the frame tick of symbol gridK (R7, R8, R306; 00, 10); DESIGN CHOICE 0 (log 14) -/
  gridAt : Nat := 0
  /-- frame number of symbol gridK, 0–1023 (R306, 10); DESIGN CHOICE 0 (log 14) -/
  gridFrame : Nat := 0
  /-- number of the next air symbol tick (R7, R25; 00, 01); DESIGN CHOICE 0 (log 14) -/
  airNext : Nat := 0
  /-- number of the next downlink work tick (R26, 01); DESIGN CHOICE 0 (log 14) -/
  dlNext : Nat := 0
  /-- number of the next uplink work tick (R26, 01); DESIGN CHOICE 0 (log 14) -/
  ulNext : Nat := 0
  /-- length in counts of the void interval now open, 0 for none (R311, 10); reset 0 -/
  voidCounts : Nat := 0
  /-- TB_STAT.STATE (10); live; FREERUN at reset (R57, 02) -/
  state : TbState := .freerun
  /-- TB_STAT.VALID (R294, R308; 10); reset 0 -/
  valid : Bool := false
  /-- TB_STAT.SOURCE (R308, 10); reset 1 PPS -/
  source : TbSource := .pps
  /-- the next offset is an acquisition (R308, 10); set at reset and at a source change -/
  acquire : Bool := true
  /-- TB_JUMP.LIM, 24 bits, ns (R307, 10); reset 1,000 -/
  jumpLim : Nat := 1000
  /-- TB_JUMP.REFUSED W1C (R307, 10); reset 0 -/
  jumpRefused : Bool := false
  /-- TB_REFUSED, signed 32 bits, ns (R307, 10); reset 0 -/
  refused : Int := 0
  /-- TB_SRC_OFS, signed, 1/16 ns (10); reset 0 -/
  srcOfs : Int := 0
  /-- TB_TICK_ERR E, ps (R306, 10); reset 0 -/
  tickErr : Int := 0
  /-- GRID_OFS, 24 bits, ns (R306, 10); reset 0 -/
  gridOfs : Nat := 0
  /-- FN_OFS, 10 bits (R306, 10); reset 0 -/
  fnOfs : Nat := 0
  /-- a GRID change waiting for the next frame tick (R314, 10); reset none -/
  gridPend : Option (Nat × Nat) := none
  /-- SLEW ppb, 1–1000 (R307, 10); reset 100 -/
  slew : Nat := 100
  /-- phase correction still to be slewed, in counts × 1/16 ppb: 1/16 ns is 491,520,000 (R307, 10); reset 0 -/
  phaseLeft : Int := 0
  /-- FTRIM target, 1/16 ppb (R292, R314; 10); reset 0 -/
  ftrimTarget : Int := 0
  /-- last source offset, for the offset trend that steers FTRIM (R308, 10); reset none -/
  prevOffset : Option Int := none
  /-- an acquisition or alignment step to be applied at the next frame tick, units of tod (R308, R212; 10, 07); reset none -/
  stepDue : Option Int := none
  /-- TB_PPS_IN.PRESENT (10); live -/
  ppsPresent : Bool := false
  /-- TB_PPS_IN.DELAY, signed 24 bits, 1/4 ns (10); reset 0 -/
  ppsInDelay : Int := 0
  /-- TB_PPS_OUT.EN (10); reset 0 -/
  ppsOutEn : Bool := false
  /-- TB_PPS_OUT.DELAY, signed 24 bits, 1/4 ns (10); reset 0 -/
  ppsOutDelay : Int := 0
  /-- TB_PTP.PORT (R309, 10); reset 0x00 -/
  ptpPort : BitVec 8 := 0
  /-- TB_PTP.DOMAIN (10); reset 24 -/
  ptpDomain : BitVec 8 := 24
  /-- TB_PTP.ADDR (10); reset 0 -/
  ptpAddr : Bool := false
  /-- TB_PTP.LOCAL_PRIO (10); reset 128 -/
  ptpPrio : BitVec 8 := 128
  /-- TB_PTP_STAT.SELECTED (10); reset 0 -/
  ptpSelected : Bool := false
  /-- TB_PTP_STAT.SYNC_OK (10); live -/
  ptpSyncOk : Bool := false
  /-- TB_PTP_STAT.CLASS (10); reset 0xFF -/
  ptpClass : BitVec 8 := 0xFF
  /-- TB_PTP_STAT.FOREIGN, saturates at 0xFF (R309, 10); reset 0 -/
  ptpForeign : Nat := 0
  /-- the open Delay_Req: sequence and send stamp, 1/16 ns (R309, 10); reset none -/
  ptpReq : Option (Nat × Int) := none
  /-- sequence number of the next Delay_Req (R309, 10); DESIGN CHOICE 0 (log 14) -/
  ptpSeq : Nat := 0
  /-- a two-step Sync waiting for its Follow_Up: sequence and receive stamp (R309, 10); reset none -/
  ptpSync : Option (Nat × Int) := none
  /-- last master-to-slave difference, 1/16 ns (R309, 10); reset none -/
  ptpMs : Option Int := none
  /-- mean path delay in use, 1/16 ns (R309, 10); reset 0 -/
  ptpDelay : Int := 0
  /-- TB_PORT_ADJ(n), RW (R312, 10); reset 0 -/
  portAdj : Vector (BitVec 32) 16 := Vector.replicate 16 0
  deriving DecidableEq, Repr

/-- One LO synthesiser SYN0–SYN4 (R296–R301, 10). -/
structure Synth where
  /-- SYN_STAT.STATE (10); live; off until SYN is on (R437) -/
  state : SynState := .off
  /-- SYN_STAT.BAND (R298); live; DESIGN CHOICE 0 until a search (log 14) -/
  band : BitVec 8 := 0
  /-- SYN_STAT.N integer divider 58–118 (R296); DESIGN CHOICE 0 until tuned (log 14) -/
  n : Nat := 0
  /-- SYN_FRAC.FRAC, 17 bits (R296); reset 0 -/
  frac : Nat := 0
  /-- SYN_STAT.RELOCKS, saturates at 0xFF; reset 0 -/
  relocks : Nat := 0
  /-- SYN_OUT(n,k).EN, bit k: TX RX ORX MON; reset 1 each -/
  outEn : BitVec 4 := 0xF
  /-- divider k of TX, RX and ORX (R296), 1–4; DESIGN CHOICE 0 until tuned (log 14) -/
  kDiv : Nat := 0
  /-- MON divider k set by SYN_CFG OUTPUTS, 1–6, none: the TX output's k (R296); reset none -/
  monK : Option Nat := none
  /-- SYN_OUT.TRIM, 10 bits, 0.5 ps, set by Anneal (R296, R317); DESIGN CHOICE 0 (log 14) -/
  trim : Vector Nat 4 := Vector.replicate 4 0
  /-- count at which the first search of the running attempt began (R298); reset none -/
  attemptAt : Option Nat := none
  /-- count at which the next relock attempt starts (R300); reset none -/
  retryAt : Option Nat := none
  /-- counts of the faults in the trailing 60 s (R377, 14); reset none -/
  faults : List Nat := []
  /-- made permanent (R378, 14); reset 0 -/
  retired : Bool := false
  deriving DecidableEq, Repr

/-- The SYN domain: reference cleaner, sample-clock PLL, spare (10). -/
structure Syn where
  /-- SYN0–SYN4 (R296) -/
  synth : Vector Synth 5 := Vector.replicate 5 {}
  /-- SYN_REF_CFG (RW): PRIO0..3, REF_IN_10M, REFOUT_EN, REFOUT_10M; reset PRIO0 1, PRIO1 2 -/
  refCfg : BitVec 32 := 0x00000021
  /-- SYN_REF_STAT.STATE; live; ACQUIRING before the first source qualifies (R437) -/
  refState : RefState := .acquiring
  /-- SYN_REF_STAT.ACTIVE; live; none at power-on (R437) -/
  active : Source := .none
  /-- SYN_REF_STAT.QUAL, bit n: source code n qualified (R290); live; none at power-on -/
  qual : BitVec 5 := 0
  /-- last active source, for REF_LOST (R316); reset none -/
  lastActive : Source := .none
  /-- count at which the 10 ms search began (R291); reset none -/
  holdoverAt : Option Nat := none
  /-- REF_LOST declared (R293); reset 0 -/
  refLost : Bool := false
  /-- SYN has been on since power-on reset (R437, R57); reset 0 -/
  everOn : Bool := false
  /-- count of the last REF_LOST, for the CK_AON interval of R294; reset 0 -/
  lostAt : Nat := 0
  /-- SYN_FTRIM, signed 24 bits, 1/16 ppb (R292); reset 0 -/
  ftrim : Int := 0
  /-- SYN_SPARE.AUTO RW (R301); reset 1 -/
  spareAuto : Bool := true
  /-- SYN_SPARE.SERVES, 4 none (R301); reset 4 -/
  serves : Nat := 4
  /-- sample-clock PLL lock (R295, R437); not locked at power-on -/
  pllLocked : Bool := false
  /-- its faults in the trailing 60 s (R377); none -/
  pllFaults : List Nat := []
  /-- made permanent (R376); reset 0 -/
  pllRetired : Bool := false
  deriving DecidableEq, Repr

/-- One carrier block of CARRIER_CFG (R302, 10). -/
structure Carrier where
  /-- OFS_KHZ signed; DESIGN CHOICE 0 until configured (R58 gives OFS_KHZ 0 on the BOOTBAND band) -/
  ofsKhz : Int := 0
  /-- OFF span PRB 0–1,092 (R169); DESIGN CHOICE 0 until configured (log 14) -/
  off : Nat := 0
  /-- NPRB 0–1,092, 0 unconfigured (R303) -/
  nprb : Nat := 0
  /-- BW_MHZ; DESIGN CHOICE 0 until configured (log 14) -/
  bwMhz : Nat := 0
  /-- KIND 1 sample rate code 0–3 (R139; R58: 0 is 491.52 MS/s) -/
  sr : Nat := 0
  deriving DecidableEq, Repr

/-- Span, carriers and TDD pattern (R302, R303, 10). -/
structure Air where
  /-- span centre once a CARRIER_CFG set it (R58, 02) -/
  spanKhz : Option Nat := none
  /-- CC0, CC1 -/
  cc : Vector Carrier 2 := Vector.replicate 2 {}
  /-- PERIOD; 0: no pattern, from power-on reset (R303) -/
  period : Nat := 0
  /-- S_DL; DESIGN CHOICE 0 while no pattern (log 14) -/
  sDl : Nat := 0
  /-- S_GP; DESIGN CHOICE 0 while no pattern (log 14) -/
  sGp : Nat := 0
  /-- S_UL; DESIGN CHOICE 0 while no pattern (log 14) -/
  sUl : Nat := 0
  /-- SLOTS, 2 bits per pattern slot; DESIGN CHOICE 0 while no pattern (log 14) -/
  slots : BitVec 80 := 0
  deriving DecidableEq, Repr

/-- MOD_CC_STATE of one carrier (02). -/
structure ModCc where
  /-- the mode set in force, bits AST STREAM BFS FLK ANL HLD; reset 0x01 for CC0 and 0x00 for CC1 (R57) -/
  set : BitVec 6 := 0
  /-- LAST_CAUSE; reset 0 -/
  lastCause : BitVec 4 := 0
  /-- RESUME; reset 0 -/
  resume : BitVec 6 := 0
  deriving DecidableEq, Repr

/-- One observation receiver's arbitration (R53, R54, 02; R283, 09). -/
structure OrxArb where
  /-- MOD_ARB.ORX_HOLDER code 0–5; live; 0 free -/
  holder : Nat := 0
  /-- TMP_ORX.COUPLER; live; DESIGN CHOICE 0 (log 14) -/
  coupler : Nat := 0
  /-- TMP_ORX.ATT dB; live; DESIGN CHOICE 0 (log 14) -/
  att : Nat := 0
  /-- TMP_ORX.HOST_ATT; reset 0 -/
  hostAtt : Nat := 0
  /-- open requests, oldest first (R53); none -/
  reqs : List OrxReq := []
  /-- count from which the next dark check through it is due (R351); 0 -/
  darkAt : Nat := 0
  deriving DecidableEq, Repr

/-- Service modes (02). -/
structure ModS where
  /-- MOD_CC_STATE(c); CC0 in set 2, CC1 in set 1 (R57) -/
  cc : Vector ModCc 2 := #v[(ModCc.mk 1 0 0), (ModCc.mk 0 0 0)]
  /-- MOD_LTS_FH.LANES; reset 0 -/
  ltsFh : BitVec 16 := 0
  /-- MOD_LTS_CX DRAG and COPE; reset 0 -/
  ltsCx : BitVec 24 := 0
  /-- MOD_PINFN (RW, LOCK) (R56); reset 0 -/
  pinfn : BitVec 32 := 0
  /-- MOD_ARB.GP_HOLDER per quad (R55); live; none -/
  gpHolder : Vector Nat 4 := Vector.replicate 4 0
  /-- holder of the present guard period, by quad and code (R55); none -/
  gpNow : Vector Nat 4 := Vector.replicate 4 0
  /-- MOD_SURVEY_STAT.SEQ modulo 256; reset 0 -/
  surveySeq : Nat := 0
  /-- MOD_SURVEY_STAT.SEL RW; reset 0 -/
  surveySel : Nat := 0
  /-- frame ticks since the survey began, less those of periods reported (R59); reset 0 -/
  surveyFrames : Nat := 0
  /-- MOD_SURVEY_RSSI(p); reset 0x8000 -/
  rssi : Vector (BitVec 16) 64 := Vector.replicate 64 0x8000
  /-- MOD_SURVEY_BIN, bins 0–255 of path SEL; reset 0x8000 -/
  bins : Vector (BitVec 16) 256 := Vector.replicate 256 0x8000
  /-- mode set of each carrier before its last change: uplink work of the slot before ends under it (R44); 0 -/
  setOld : Vector (BitVec 6) 2 := Vector.replicate 2 0
  /-- number of the symbol from which the present set holds (R44); 0 -/
  setFrom : Vector Nat 2 := Vector.replicate 2 0
  /-- carriers wait to resume after REF_LOST (R294); no -/
  refHeld : Bool := false
  deriving DecidableEq, Repr

/-- One ring r = 0–35 (R64–R70, 03). -/
structure Ring where
  /-- RNG_BASE_LO; reset 0 -/
  baseLo : BitVec 32 := 0
  /-- RNG_BASE_HI; reset 0 -/
  baseHi : BitVec 32 := 0
  /-- RNG_CFG.EN; reset 0 -/
  en : Bool := false
  /-- RNG_CFG.CPL_RING; reset r for r < 16, else 0 -/
  cplRing : Nat := 0
  /-- RNG_CFG.VECTOR 6 bits; reset r − 16 for r ≥ 16, 0 for r < 16 -/
  vector : Nat := 0
  /-- RNG_CFG.COAL_CNT 8 bits; reset 1 -/
  coalCnt : Nat := 1
  /-- RNG_CFG.COAL_TIME 4 bits; reset 0 -/
  coalTime : Nat := 0
  /-- RNG_CFG.SIZE_LOG2 4 bits; reset 6 -/
  sizeLog2 : Nat := 6
  /-- RNG_STAT.ERR; reset 0 -/
  err : Nat := 0
  /-- RNG_STAT.LOST, saturates at 0xFF; reset 0 -/
  lost : Nat := 0
  /-- producer index (R65); 0 at enable (R66) -/
  prod : BitVec 32 := 0
  /-- consumer index (R65); 0 at enable -/
  cons : BitVec 32 := 0
  /-- last accepted doorbell value (R66); 0 -/
  lastDb : BitVec 32 := 0
  /-- completion records not yet written, at most 16 (R77); none -/
  held : List Record := []
  /-- records written and not yet signalled (R91); 0 -/
  unsig : Nat := 0
  /-- count at which COAL_TIME elapses (R91); none -/
  timerAt : Option Nat := none
  /-- count at which the first unsignalled record was written (R91); 0 -/
  unsigAt : Nat := 0
  /-- events lost since the last OVERFLOW event (R85); 0 -/
  overflow : Nat := 0
  deriving DecidableEq, Repr

/-- One MSI-X table entry (R90, 03). -/
structure MsixEntry where
  /-- message address; DESIGN CHOICE 0 (log 14: PCI Express leaves it undefined) -/
  addr : BitVec 64 := 0
  /-- message data; DESIGN CHOICE 0 (log 14) -/
  data : BitVec 32 := 0
  /-- vector control mask bit; PRESUMED set (PCI Express; log 14) -/
  masked : Bool := true
  /-- pending bit; 0 -/
  pending : Bool := false
  deriving DecidableEq, Repr

/-- Control port, rings, split accesses (03). -/
structure HostIf where
  /-- rings 0–35 (R64) -/
  rings : Vector Ring 36 := Vector.ofFn fun (r : Fin 36) => { cplRing := if r.val < 16 then r.val else 0, vector := if r.val < 16 then 0 else r.val - 16 }
  /-- RNG_HOST_STAT.DARK_WR; reset 0 -/
  darkWr : Bool := false
  /-- RNG_HOST_STAT.SPLIT_MISS W1C (R94, R96); reset 0 -/
  splitMiss : Bool := false
  /-- RNG_HOST_STAT.RING_ERR W1C (R70); reset 0 -/
  ringErr : Bool := false
  /-- RNG_HOST_STAT.ACCESS_DARK W1C (R93); reset 0 -/
  accessDark : Bool := false
  /-- RNG_DARK_LOG.COUNT; reset 0 -/
  darkCount : Nat := 0
  /-- RNG_DARK_LOG.OFFSET; reset 0 -/
  darkOffset : BitVec 24 := 0
  /-- RNG_PCI_OPT (RW); reset 0 -/
  pciOpt : BitVec 32 := 0
  /-- RNG_EVT_MASK(e); resets as listed -/
  evtMask : Vector (BitVec 16) 4 := #v[0x0603, 0x0004, 0x0838, 0x01C0]
  /-- MSI-X table and pending bits (R90) -/
  msix : Vector MsixEntry 64 := Vector.replicate 64 {}
  /-- MSI-X Enable of the capability (R90); 0 -/
  msixEn : Bool := false
  /-- MSI-X function mask; PRESUMED 0 (PCI Express; log 14) -/
  msixFnMask : Bool := false
  /-- 64-bit read shadows, at most 8, most recently used first (R94, R95); none -/
  shadows : List Shadow := []
  /-- held low words of split writes (R96); none -/
  heldLow : List Shadow := []
  /-- last command ring served by the fetch (R75); DESIGN CHOICE 15 (log 14) -/
  lastRing : Nat := 15
  /-- commands fetched and not yet completed: held, bound to a tick, or running, in order of acceptance (R71–R74); none -/
  cmds : List Cmd := []
  /-- acceptance counter that orders commands (R76); 0 -/
  nextSeq : Nat := 0
  /-- host requests waiting for CTL's exit or entry (R346, 12); none -/
  waiting : List BusReq := []
  /-- Advanced Error Reporting: a read of host memory has failed (R103, R434); DESIGN CHOICE no (log 64) -/
  aerRead : Bool := false
  /-- Advanced Error Reporting: a write to host memory has failed (R103); DESIGN CHOICE no (log 64) -/
  aerWrite : Bool := false
  /-- what the last PCI Express request was answered with (R92–R96, R426); none -/
  resp : Resp := .none
  /-- host memory as the device's requests find it (R64, R98); unlisted bytes read 0: DESIGN CHOICE (log 3) -/
  mem : Memory := []
  deriving DecidableEq, Repr

/-- One Ladle channel (R97–R103, 03). -/
structure LdlCh where
  /-- LDL_CH_CFG.VECTOR; reset 20 + c -/
  vector : Nat := 0
  /-- LDL_CH_STAT.TRUNC; reset 0 -/
  trunc : Bool := false
  /-- LDL_CH_STAT.EOC W1C; reset 0 -/
  eoc : Bool := false
  /-- LDL_CH_STAT.CAUSE; reset 0 -/
  cause : BitVec 8 := 0
  /-- LDL_CH_STAT.TAG; reset 0 -/
  tag : BitVec 16 := 0
  /-- LDL_CH_COUNT.VALID; reset 0 -/
  count : BitVec 32 := 0
  /-- the move it holds (BUSY); none -/
  move : Option Move := none
  deriving DecidableEq, Repr

/-- One Assay fall-back channel (R165, 05). -/
structure AsyFb where
  /-- ASY_FB_CRC; reset 0 -/
  crc : BitVec 32 := 0
  /-- ASY_FB_STAT.BUSY; reset 0 -/
  busy : Bool := false
  /-- ASY_FB_STAT.DONE W1C; reset 0 -/
  done : Bool := false
  /-- ASY_FB_STAT.TRUNC; reset 0 -/
  trunc : Bool := false
  /-- ASY_FB_STAT.LADLE; reset 0 -/
  ladle : Nat := 0
  /-- ASY_FB_STAT.TAG; reset 0 -/
  tag : BitVec 16 := 0
  deriving DecidableEq, Repr

/-- The Ladle and the addressed memories (03, 06, 09, 14). -/
structure Ladle where
  /-- channels 0–7 -/
  ch : Vector LdlCh 8 := Vector.ofFn fun (c : Fin 8) => { vector := 20 + c.val }
  /-- last channel served (R100); DESIGN CHOICE 7 (log 14) -/
  lastServed : Nat := 7
  /-- channel whose move the engine is moving (R100); none -/
  running : Option Nat := none
  /-- fall-back channels 0–7 (R165) -/
  fb : Vector AsyFb 8 := Vector.replicate 8 {}
  /-- 4 GiB on-module DRAM (R98, R188): Pattern Store, stream sets, staging; unlisted bytes read 0 (R188 for the regions; the rest DESIGN CHOICE, log 3) -/
  dram : Memory := []
  /-- receive capture buffer, 8 MiB (R286); unlisted 0: DESIGN CHOICE (log 3) -/
  rxCap : Memory := []
  /-- ORx capture buffer, 1 MiB (R286); unlisted 0: DESIGN CHOICE (log 3) -/
  orxCap : Memory := []
  /-- 256 KiB commit buffer (R189); unlisted 0: DESIGN CHOICE (log 3) -/
  commit : Memory := []
  /-- moved PATTERN_WRITE ranges waiting for their commit tick (R189); none -/
  commits : List Commit := []
  deriving DecidableEq, Repr

/-- One serial lane l = 0–39 (04). -/
structure Lane where
  /-- FHL_LANE_STAT.STATE (LTS shown from the LTS masks); live; not training before SYN is on (R437) -/
  state : LaneState := .down
  /-- start counts of the retrain attempts in the trailing 60 s (R116); reset 0 -/
  retries : List Nat := []
  /-- LAST_FAULT; reset 0 -/
  lastFault : Nat := 0
  /-- detector HI_BER; live -/
  hiBer : Bool := false
  /-- block lock held; live -/
  blockLock : Bool := false
  /-- detector LOL; live -/
  lol : Bool := false
  /-- detector LOS; live -/
  los : Bool := false
  /-- detector ALIGN asserted (R113); live -/
  align : Bool := false
  /-- detector POUR asserted (R113, R209); live -/
  pour : Bool := false
  /-- IN_DIST: lane carries traffic; live -/
  inDist : Bool := false
  /-- UP and waiting for the next air slot tick to join (R112); no -/
  joinDue : Bool := false
  /-- air symbol ticks until the lane leaves the distribution, 0 not leaving (R115); 0 -/
  leaveIn : Nat := 0
  /-- TRAIN_MODE bits; reset AUTO, ON for cascade lanes (R111) -/
  mode : TrainMode := .auto
  /-- PRESET: came up after AUTO fallback; reset 0 -/
  preset : Bool := false
  /-- FHL_LANE_TAPS.PRE; live; DESIGN CHOICE INITIALIZE (log 14; R109, R111) -/
  pre : Nat := 4
  /-- FHL_LANE_TAPS.POST; live; DESIGN CHOICE INITIALIZE (log 14); MAIN = 64 − PRE − POST (R109) -/
  post : Nat := 10
  /-- taps last written by TAPS_SET (R111); never written -/
  setTaps : Option (Nat × Nat) := none
  /-- the training attempt in progress (R111, R114, R116); none -/
  attempt : Option Attempt := none
  /-- count at which the next retrain attempt starts (R116); none -/
  retryAt : Option Nat := none
  /-- retired (R117); reset 0 -/
  retired : Bool := false
  /-- waits to retrain because another lane of its four-lane port faulted: its attempt is not counted (R114); no -/
  peer : Bool := false
  /-- never trained since power-on (R112, cascade lanes); set -/
  untrained : Bool := true
  /-- FHL_LANE_TEST.GEN; reset 0 -/
  gen : Nat := 0
  /-- GEN_INV; reset 0 -/
  genInv : Bool := false
  /-- CHK; reset 0 -/
  chk : Nat := 0
  /-- CHK_INV; reset 0 -/
  chkInv : Bool := false
  /-- CHK_SYNC; live -/
  chkSync : Bool := false
  /-- LOOPBACK; reset 0 -/
  loopback : Nat := 0
  /-- TX_SQUELCH; reset 0 -/
  squelch : Bool := false
  /-- FHL_PRBS_ERR, saturates at 0xFFFF_FFFF; reset 0 -/
  prbsErr : Nat := 0
  /-- FHL_PRBS_BITS; reset 0 -/
  prbsBits : BitVec 64 := 0
  /-- FHL_FEC_CORR, saturating; reset 0 -/
  fecCorr : Nat := 0
  /-- FHL_FEC_UNC, saturating; reset 0 -/
  fecUnc : Nat := 0
  /-- FHL_LANE_CFG.RX_INV RW; reset 0 -/
  rxInv : Bool := false
  /-- FHL_LANE_CFG.TX_INV RW; reset 0 -/
  txInv : Bool := false
  /-- polarities in force since the last training (RX, TX); reset 0 -/
  inv : Bool × Bool := (false, false)
  /-- FEC setting waiting for the lane's next training (R129); none -/
  fecPend : Option Bool := none
  /-- held in electrical idle with its taps kept (R350, 12); no -/
  sidle : Bool := false
  /-- lane errors of the running operating hour (R385, 14); 0 -/
  hourErr : Nat := 0
  /-- consecutive discarded Pour frames (R209); 0 -/
  badPour : Nat := 0
  /-- consecutive valid Pour frames (R209); 0 -/
  goodPour : Nat := 0
  /-- air symbol periods without a valid Pour frame (R209); 0 -/
  quietSyms : Nat := 0
  deriving DecidableEq, Repr

/-- Lanes, ports and Synchronous Ethernet (04). -/
structure Lanes where
  /-- lanes 0–39 -/
  lane : Vector Lane 40 := Vector.ofFn fun (l : Fin 40) => { mode := if l.val < 16 then .auto else .on }
  /-- FHL_GRP_STAT.FOUR_LANE; reset 0 -/
  four : BitVec 4 := 0
  /-- FHL_PORT_FEC.ON; reset 0 -/
  portFec : BitVec 16 := 0
  /-- FHL_SYNCE.EN RW; reset 0 -/
  synceEn : Bool := false
  /-- FHL_SYNCE.SRC RW; reset 0 -/
  synceSrc : Nat := 0
  /-- FHL_SYNCE.VALID; live -/
  synceValid : Bool := false
  /-- FHL_LOS_CFG.DEASSERT RW; reset 110 -/
  losDeassert : Nat := 110
  /-- FHL_LOS_CFG.ASSERT RW; reset 80 -/
  losAssert : Nat := 80
  deriving DecidableEq, Repr

/-- FH_CFG settings of one carrier (R166, 05). -/
structure FhCc where
  /-- COMP; reset 2 -/
  comp : Nat := 2
  /-- MTU; DESIGN CHOICE 9,000 (log 14: no reset stated) -/
  mtu : Nat := 9000
  /-- ADV; reset 245,760 -/
  adv : Nat := 245760
  /-- BB_ADDR; DESIGN CHOICE 0 (log 14) -/
  bbAddr : BitVec 48 := 0
  /-- TAG VID; DESIGN CHOICE 0 (log 14) -/
  vid : Nat := 0
  /-- TAG PCP; DESIGN CHOICE 0 (log 14) -/
  pcp : Nat := 0
  /-- TAG enabled; DESIGN CHOICE off (log 14) -/
  tagEn : Bool := false
  /-- POOL; reset 64 -/
  pool : Nat := 64
  /-- AST_PORT; DESIGN CHOICE 0 (log 14) -/
  astPort : Nat := 0
  deriving DecidableEq, Repr

/-- One credit book (R150–R156, 05). -/
structure Book where
  /-- carrier -/
  cc : Nat := 0
  /-- control flow -/
  ctrl : Bool := false
  /-- layer -/
  id : Nat := 0
  /-- POOL -/
  pool : Nat := 0
  /-- LIMIT; POOL at opening -/
  limit : BitVec 32 := 0
  /-- ARRIVED; 0 at opening -/
  arrived : BitVec 32 := 0
  /-- OCCUPIED -/
  occupied : Nat := 0
  /-- next expected sequence number; that of the first message (R155) -/
  nextSeq : Option Nat := none
  /-- 0 open, 1 closing until the next slot tick, 2 closed and draining (R155) -/
  closing : Nat := 0
  /-- count at which the last messages arrived, and by how much they advanced ARRIVED and LIMIT (R153); 0 -/
  arrAt : Nat := 0
  arrN : BitVec 32 := 0
  limN : BitVec 32 := 0
  deriving DecidableEq, Repr

/-- Fronthaul, Tundish and Assay (05). -/
structure Fh where
  /-- settings of CC0, CC1 -/
  cc : Vector FhCc 2 := Vector.replicate 2 {}
  /-- FHM_SLAG(c) W1C saturating; reset 0 -/
  slag : Vector Nat 19 := Vector.replicate 19 0
  /-- FHM_DL_MISS(c) W1C; reset 0 -/
  dlMiss : Vector Nat 2 := Vector.replicate 2 0
  /-- FHM_TUN_OCC.PEAK W1C; reset 0 -/
  peak : Nat := 0
  /-- downlink messages held in the downlink store, 4,096 slots (R148); none -/
  held : List HeldMsg := []
  /-- type 2 messages held in the control pools, 32 slots a carrier (R148); none -/
  ctrl : List CtrlMsg := []
  /-- KIND 1 downlink messages in the direct stream buffers (R145); none -/
  direct : List HeldMsg := []
  /-- credit books (R150); none -/
  books : List Book := []
  /-- next sequence number to send, by flow key (R135); none: DESIGN CHOICE 0 first (log 14) -/
  txSeq : List (BitVec 16 × Nat) := []
  /-- assembled uplink messages not yet sent (R157, R158); none -/
  ulQueue : List UlMsg := []
  /-- FHM_OWD(n); reset 0xFFFF_FFFF -/
  owd : Vector (BitVec 32) 16 := Vector.replicate 16 0xFFFFFFFF
  /-- open one-way delay exchanges (R160); none -/
  owdReq : List OwdReq := []
  /-- Assay contexts not in reset state, by index 0x0000–0x21FF, ascending (R162); all reset -/
  assay : List (Nat × AssayCtx) := []
  deriving DecidableEq, Repr

/-- One pot (R194, R195, R376; 06, 14). -/
structure Pot where
  /-- CRU_POT_STAT.STATE; live; 3 idle with no units placed -/
  state : Nat := 3
  /-- faults in the trailing 60 s (R377); none -/
  faults : List Nat := []
  /-- retests in the trailing 60 s (CRU_POT_STAT.RETRIES); none -/
  retests : List Nat := []
  /-- built-in test running (R376); no -/
  testing : Bool := false
  /-- permanent (R378); reset 0 -/
  retired : Bool := false
  /-- passed its test and waiting for the next placement table (R376); no -/
  passed : Bool := false
  deriving DecidableEq, Repr

/-- One half of the weight bank, 2,236,416 bytes (R176, 06). -/
structure Half where
  /-- rows by byte offset (l × NB + b) × 256; unlisted bytes 0: all zero after CRU comes up cold (R177) -/
  mem : Memory := []
  /-- retirement gain code of the rows, by l × NB + b, where it is not 16,384 (R178, R196); 16,384 each -/
  gain : List (Nat × Nat) := []
  deriving DecidableEq, Repr

/-- The Crucible (06). -/
structure Cru where
  /-- downlink halves A, B (R176) -/
  dl : Vector Half 2 := Vector.replicate 2 {}
  /-- uplink halves A, B (R176) -/
  ul : Vector Half 2 := Vector.replicate 2 {}
  /-- CRU_BANK_STAT.ACT_DL, ACT_UL; reset 0 -/
  act : Vector Nat 2 := Vector.replicate 2 0
  /-- CRU_BANK_STAT.GRAN_DL, GRAN_UL; reset 0 -/
  gran : Vector Nat 2 := Vector.replicate 2 0
  /-- CRU_SWAP_LAST(d); reset VALID 0 -/
  swapLast : Vector (Option (BitVec 19)) 2 := Vector.replicate 2 none
  /-- the fill of the coming symbol wrote to the inactive half (R177); no -/
  wrote : Vector Bool 2 := Vector.replicate 2 false
  /-- granularity the fill in the inactive half sets at its swap (R182); none -/
  granNext : Vector (Option Nat) 2 := Vector.replicate 2 none
  /-- CRU_SCALE(c).UL_SHIFT RW; reset 6 -/
  ulShift : Vector Nat 2 := Vector.replicate 2 6
  /-- CRU_SCALE(c).DL_SHIFT RW; reset 5 -/
  dlShift : Vector Nat 2 := Vector.replicate 2 5
  /-- UL_SHIFT that the next slot tick applies: its value 2,048 counts before (R431); reset 6 -/
  ulShiftArm : Vector Nat 2 := Vector.replicate 2 6
  /-- DL_SHIFT likewise (R431); reset 5 -/
  dlShiftArm : Vector Nat 2 := Vector.replicate 2 5
  /-- UL_SHIFT in force since the last slot tick (R175); reset 6 -/
  ulShiftNow : Vector Nat 2 := Vector.replicate 2 6
  /-- DL_SHIFT in force since the last slot tick (R175); reset 5 -/
  dlShiftNow : Vector Nat 2 := Vector.replicate 2 5
  /-- UL_SHIFT of the slot of the uplink symbol in work, which may outlast its slot (R26, R175); reset 6 -/
  ulShiftWork : Vector Nat 2 := Vector.replicate 2 6
  /-- CRU_RET_CFG.GMAX RW (R196); reset 0x47CF -/
  gmax : Nat := 0x47CF
  /-- retirement mask in force in the Crucible, downlink and uplink (R196, R197); no path retired at reset -/
  retMask : Vector (BitVec 64) 2 := Vector.replicate 2 0
  /-- the next fill recomputes every gain and always swaps (R197); no -/
  regain : Vector Bool 2 := Vector.replicate 2 false
  /-- pots 0–7 -/
  pot : Vector Pot 8 := Vector.replicate 8 {}
  /-- units dealt to each pot for the present symbol (R223); none -/
  units : Vector (List PotRun) 8 := Vector.replicate 8 []
  /-- pots among which the units of the slot are dealt (R223); none -/
  dealPots : BitVec 8 := 0
  /-- by direction, pots that have faulted in the slot and whose units are dealt to the others since a work tick (R195); none -/
  redealt : Vector (BitVec 8) 2 := Vector.replicate 2 0
  /-- units of faulted pots that fit no other pot (R195); none -/
  unfit : List PotRun := []
  /-- CRU_SAT_DL W1C saturating; reset 0 -/
  satDl : Nat := 0
  /-- CRU_SAT_UL; reset 0 -/
  satUl : Nat := 0
  /-- CRU_FILL_OVER; reset 0 -/
  fillOver : Nat := 0
  /-- CRU_SKIP; reset 0 -/
  skip : Nat := 0
  /-- CRU_PSUM_MISS; reset 0 -/
  psumMiss : Nat := 0
  /-- the inactive half as the fill in progress found it (R178); none: no fill in progress -/
  filling : Vector (Option Half) 2 := Vector.replicate 2 none
  /-- the DRAM as that fill reads it, once a PATTERN_WRITE has committed since its start (R189); none -/
  fillDram : Vector (Option Memory) 2 := Vector.replicate 2 none
  /-- WEIGHT_LOADs accepted, with the rows read at acceptance (R182); none -/
  loads : List Load := []
  /-- layers of the open uplink window already assembled (R157); none -/
  ulSent : List LayerRef := []
  /-- sections released to the Crucible for the open downlink window (R27, R31); none -/
  dlWork : List HeldMsg := []
  /-- number of the symbol whose downlink window is open (R26); DESIGN CHOICE 0 (log 14) -/
  dlSym : Nat := 0
  /-- FFT outputs r_a[k] of the open uplink window's symbol, non-zero values (R174, R273); none -/
  ulRx : List AntVal := []
  /-- number of the symbol whose uplink window is open (R26); DESIGN CHOICE 0 (log 14) -/
  ulSym : Nat := 0
  /-- paths settling in that symbol (R277); none -/
  ulStl : BitVec 64 := 0
  /-- zero samples of the open uplink window's symbol (R278, R280); none -/
  ulZero : List ZeroSpan := []
  /-- records sent so far of each layer of the open uplink window that this member does not finish (R216); none -/
  ulParts : List (LayerRef × Nat) := []
  /-- partial-sum records received for open uplink symbols (R192); none -/
  psums : List Psum := []
  deriving DecidableEq, Repr

/-- One layer as LAYER_SET states it (R219, 07). -/
structure Layer where
  /-- 0 downlink, 1 uplink -/
  dir : Nat := 0
  /-- LOCAL -/
  isLocal : Bool := false
  /-- flask layer 0–511, or layer 0–31 -/
  id : Nat := 0
  /-- carriers -/
  ccs : BitVec 2 := 0
  /-- PRIORITY -/
  prio : Nat := 0
  /-- SPAN -/
  span : BitVec 16 := 0
  /-- ALLOW -/
  allow : BitVec 16 := 0
  /-- pinned end member -/
  pin : Option Nat := none
  /-- BUDGET_COMP -/
  comp : Nat := 0
  deriving DecidableEq, Repr

/-- One placement table entry (R227, 07). -/
structure Entry where
  /-- LAYER -/
  layer : Nat := 0
  /-- DIR -/
  dir : Nat := 0
  /-- CC -/
  ccs : BitVec 2 := 0
  /-- SLOT -/
  slot : Nat := 0
  /-- SHED -/
  shed : Bool := false
  /-- END -/
  isEnd : Bool := false
  /-- END_MEMBER -/
  endMember : Nat := 0
  /-- PORT; 0xFF if SHED -/
  port : Nat := 0xFF
  /-- port of the layer's CC1 flow where it differs (R222) -/
  port1 : Nat := 0xFF
  /-- COPE_CC0, COPE_CC1 -/
  cope : Nat × Nat := (0xF, 0xF)
  /-- DRAG_CC0, DRAG_CC1 -/
  drag : Nat × Nat := (0xF, 0xF)
  /-- PRIORITY -/
  prio : Nat := 0
  /-- span members in service -/
  span : BitVec 16 := 0
  /-- a LOCAL layer of this member -/
  isLocal : Bool := false
  deriving DecidableEq, Repr

/-- One placement table (R224–R226, 07). -/
structure Table where
  /-- FLASK_ID of the member whose table it is -/
  member : Nat := 0
  /-- slot that it governs, as symbol number / 14 (log 2) -/
  slotAbs : Nat := 0
  /-- TABLE_SEQ -/
  seq : Nat := 0
  /-- REPUBLISHED, REVISED, INTERIM, LOCAL only -/
  flags : BitVec 8 := 0
  /-- FLASK_ID of the master, 0xFF without FLK -/
  master : BitVec 8 := 0xFF
  /-- members in service -/
  inSvc : BitVec 16 := 0
  /-- entries -/
  entries : List Entry := []
  /-- at the master: the lane of each Pour flow on each link, by ((DIR × 512 + LAYER) × 32 + link) × 2 + carrier, also on links
  between members outside the span (R222) -/
  lanes : List (Nat × Nat) := []
  /-- at another member: entries that the master's TABLE frames announce, once one has come (R224, R31) -/
  want : Option Nat := none
  deriving DecidableEq, Repr

/-- One cascade side, 0 Cope, 1 Drag (07). -/
structure Side where
  /-- a neighbour is known to be there (R202); unknown -/
  connected : Option Bool := none
  /-- FLASK_ID of the neighbour from its BEAT (R203) -/
  nbId : Option Nat := none
  /-- neighbour's position (R203) -/
  nbPos : Nat := 0
  /-- devices beyond on this side, 0x1F unknown (R203, R210) -/
  beyond : Nat := 0x1F
  /-- a master lies on this side (R203) -/
  masterBeyond : Bool := false
  /-- RUN_ASYM RW, signed, 0.25 ps; reset 0 -/
  asym : Int := 0
  /-- RUN_ALIGN.LANES; reset 0 -/
  alignLanes : Nat := 0
  /-- RUN_ALIGN.THETA; reset 0x8000 -/
  theta : BitVec 16 := 0x8000
  /-- RUN_POUR_DISC W1C; reset 0 -/
  disc : Nat := 0
  /-- θ of each lane of the running exchange, 0.25 ps (R211) -/
  thetas : List Int := []
  /-- send stamps of open alignment requests by lane, 0.5 ps (R211) -/
  t1 : List (Nat × Int) := []
  /-- its lanes were in the distribution at the last symbol tick (R228, R229); no -/
  linked : Bool := false
  deriving DecidableEq, Repr

/-- Runner and the flask (07). -/
structure Run where
  /-- RUN_FLK_CFG.EXPECT RW; reset 0 -/
  expect : BitVec 16 := 0
  /-- RUN_FLK_STAT.STATE; live; OFF (R57) -/
  state : FlkState := .off
  /-- CHAIN_LEN; reset 0 -/
  chainLen : Nat := 0
  /-- POSITION; reset 0 -/
  position : Nat := 0
  /-- MASTER_ID; reset 0 -/
  masterId : Nat := 0
  /-- FLASK_IDs heard in BEAT and STATUS with their positions (R203, R204); none -/
  members : List (Nat × Nat) := []
  /-- members in service, as far as this member decides or is told it (R205, R228); none -/
  inSvc : BitVec 16 := 0
  /-- RUN_CONFLICT.CAUSE; reset 0 -/
  conflict : Nat := 0
  /-- RUN_CONFLICT.ID; reset 0 -/
  conflictId : Nat := 0
  /-- Cope, Drag -/
  side : Vector Side 2 := Vector.replicate 2 {}
  /-- table in force (R226); none (R224) -/
  table : Option Table := none
  /-- table published for a later slot (R226); none -/
  next : Option Table := none
  /-- every table kept, from the slot before the present one to the last computed; at the master the members' too (R222, R224); none -/
  computed : List Table := []
  /-- RUN_TABLE: slot of the last published table; reset VALID 0 -/
  pubSlot : Option (BitVec 19) := none
  /-- RUN_TABLE_SEQ; reset 0 -/
  pubSeq : Nat := 0
  /-- TABLE_SEQ of the last computed table (R225); 0 -/
  seq : Nat := 0
  /-- RUN_SHED.SHED_UL; live; 0 -/
  shedUl : Nat := 0
  /-- RUN_SHED.SHED_DL; live; 0 -/
  shedDl : Nat := 0
  /-- RUN_RSV_DL; reset 0 -/
  rsvDl : BitVec 32 := 0
  /-- RUN_RSV_UL; reset 0 -/
  rsvUl : BitVec 32 := 0
  /-- admitted layers (R219); none -/
  layers : List Layer := []
  /-- consecutive frames with |θ| ≤ 10 ps (R212); 0 -/
  goodAligns : Nat := 0
  /-- consecutive frames with |θ| > 250 ps (R212); 0 -/
  badAligns : Nat := 0
  /-- this member reported READY (R205); no -/
  ready : Bool := false
  /-- at the master: members that reported READY and when (R205); none -/
  readyAt : List (Nat × Nat) := []
  /-- flask-wide mode changes, the first of them in progress (R45, R46); none -/
  modeReqs : List FlkReq := []
  /-- count at which the chain became known (R203, R204); none -/
  knownAt : Option Nat := none
  /-- members lost since they were last in service (R228); none -/
  lost : BitVec 16 := 0
  /-- RESOURCES last reported to the master (R210; log 12); none -/
  resSent : BitVec 1184 := 0
  /-- slot tick at which this member joins (R205); none -/
  joinSym : Option Nat := none
  /-- slot ticks since the last TICK frame (R229); 0 -/
  missedTicks : Nat := 0
  /-- next SEQ of each Pour stream sent, by stream index (R207); none: DESIGN CHOICE 0 first (log 14) -/
  seqTx : List (Nat × Nat) := []
  /-- at the master: members asking for a guard period, oldest first (R230); none -/
  anlReqs : List (Nat × Nat) := []
  /-- members granted the coming guard period (R230); none -/
  granted : BitVec 16 := 0
  /-- symbol of the guard period of the last GRANT (R230); none -/
  grantSym : Option Nat := none
  /-- symbol and mask of a GRANT whose slot has not begun (R230, 07); none -/
  grantNext : Option (Nat × BitVec 16) := none
  /-- at the master: the last STATUS RESOURCES of each member (R210); none -/
  resources : List (Nat × BitVec 1184) := []
  deriving DecidableEq, Repr

/-- One transmit path (08). -/
structure TxPath where
  /-- TXP_CTRL.EN; reset 0 -/
  en : Bool := false
  /-- TXP_CTRL.MUTE; reset 0 -/
  mute : Bool := false
  /-- TXP_CTRL LNAP_POL, TRSW_POL, PAEN_POL RW; reset 0 -/
  pol : BitVec 3 := 0
  /-- TXP_PWR.SET, 1/64 dBm; reset 0xF600 -/
  set : Int := -2560
  /-- TXP_PWR.EFF; reset 0xF600 -/
  eff : Int := -2560
  /-- TXP_COMP_T RW; reset TREF 25 -/
  compT : BitVec 32 := 0x19000000
  /-- TXP_COMP_V RW; reset HK_CH 0xFF, VREF 0x300 -/
  compV : BitVec 32 := 0xFF300000
  /-- COMP in force in units of 1/1024 dB, limited to ±4.0 dB (R251; TXP_COMP_NOW.COMP shows 1/64 dB); live; DESIGN CHOICE 0 (log 14) -/
  comp : Int := 0
  /-- COMP* of the last housekeeping round, 1/1024 dB (R251); DESIGN CHOICE 0 (log 14) -/
  compTgt : Int := 0
  /-- TXP_METER.OUT, 1/64 dBm; live; DESIGN CHOICE −32,768 before any radiated symbol (log 14) -/
  meterOut : Int := -32768
  /-- TXP_METER.LIMITED W1C saturating 16 bits; reset 0 -/
  limited : Nat := 0
  /-- permanent (R378, 14); reset 0 -/
  retired : Bool := false
  /-- its retirement is in effect, since a slot tick (R379, 14); reset 0 -/
  retiredNow : Bool := false
  /-- overpower mute in force (R253); no -/
  regOver : Bool := false
  /-- WHY bit DUTY of the last symbol (R232); 0 -/
  duty : Bool := false
  /-- WHY bit LATE_LO of the last symbol; 0 -/
  lateLo : Bool := false
  /-- WHY bit COX of the last symbol; 0 -/
  cox : Bool := false
  /-- the path radiates in the present symbol (R232); no -/
  radiating : Bool := false
  /-- inside a run of downlink symbols (R259); no -/
  inRun : Bool := false
  /-- PAEN is driven active in the present symbol (R259, R260); idle -/
  paen : Bool := false
  /-- TRSW is in the transmit position in the present symbol (R259, R260); idle -/
  trswTx : Bool := false
  /-- count until which PAEN stays active after it was last driven (R259); 0 -/
  paenOff : Nat := 0
  /-- count until which TRSW stays in the transmit position after it was last driven (R259, R260); 0 -/
  trswOff : Nat := 0
  /-- path faults in the trailing 60 s (R377, 14); none -/
  faults : List Nat := []
  /-- sum of detector means in units of 2^-20 mW and symbols radiated since the last housekeeping round (R363, R385); 0 -/
  rnd : Nat × Nat := (0, 0)
  deriving DecidableEq, Repr

/-- Linearisation of one path (R238–R246, 08). -/
structure Dpd where
  /-- DPD_MODEL.K; reset 1 -/
  k : Nat := 1
  /-- DPD_MODEL.M; reset 1 -/
  m : Nat := 1
  /-- DPD_MODEL.MC; reset 0 -/
  mc : Nat := 0
  /-- NBR_A; reset 0xFF -/
  nbrA : Nat := 0xFF
  /-- NBR_B; reset 0xFF -/
  nbrB : Nat := 0xFF
  /-- DPD_STAT.STATE; reset 0 -/
  state : Nat := 0
  /-- STALE; reset 0 -/
  stale : Bool := false
  /-- DUE: refresh due (R242); live -/
  due : Bool := false
  /-- past REFRESH / 2: Temper not due requested (R242); no -/
  half : Bool := false
  /-- REJECTS saturating; reset 0 -/
  rejects : Nat := 0
  /-- UPDATES saturating; reset 0 -/
  updates : Nat := 0
  /-- DPD_NMSE.NMSE, 1/64 dB; reset 0 -/
  nmse : Int := 0
  /-- DPD_LAST; reset VALID 0 -/
  last : Option (BitVec 19) := none
  /-- count of the last accepted update (R242); DESIGN CHOICE 0 (log 14) -/
  lastAt : Nat := 0
  /-- coefficient set in force, entries I low Q high, later entries zero (R239); the identity -/
  coef : List (BitVec 64) := [0x0000000001000000]
  /-- MU: μ = 2^−MU (R243, R263); DESIGN CHOICE 0 (log 14: no reset stated) -/
  mu : Nat := 0
  /-- an accepted set in the inactive bank with the count it is due from (R243); none -/
  pend : Option CoefPend := none
  /-- consecutive accepted solves worse than −DIV_THR (R244); 0 -/
  poor : Nat := 0
  /-- the set in force before the first of them (R244); none -/
  before : List (BitVec 64) := []
  /-- restore `before` at the next air symbol tick (R244); no -/
  restore : Bool := false
  /-- count of the divergence retry (R376); none -/
  retryAt : Option Nat := none
  /-- DPD_QEC.PHASE; reset 0 -/
  qecPhase : Int := 0
  /-- DPD_QEC.GAIN; reset 0 -/
  qecGain : Int := 0
  /-- DPD_LOL.Q; reset 0 -/
  lolQ : Int := 0
  /-- DPD_LOL.I; reset 0 -/
  lolI : Int := 0
  /-- EFF at the last update (R242); DESIGN CHOICE −2,560 (log 14) -/
  effAt : Int := -2560
  /-- COMP at the last update, 1/1024 dB (R242); DESIGN CHOICE 0 (log 14) -/
  compAt : Int := 0
  /-- NMSE of the set held in `before` (R243, R244); 0 -/
  beforeNmse : Int := 0
  /-- end of the last symbol that Temper observed and whose solve is still to come (R241, R243); none -/
  obs : Option Nat := none
  deriving DecidableEq, Repr

/-- One coexistence pair (R257, R264, 08). -/
structure Cox where
  /-- CXG_CFG.EN; reset 0 -/
  en : Bool := false
  /-- REQ_POL; reset 0 -/
  reqPol : Bool := false
  /-- GNT_POL; reset 0 -/
  gntPol : Bool := false
  /-- REQ_LEAD; reset 0x6000 -/
  reqLead : Nat := 24576
  /-- CXG_CNT W1C saturating; reset 0 -/
  cnt : Nat := 0
  /-- CXG_PATHS; reset 0 -/
  paths : BitVec 64 := 0
  /-- level of the COX_GNT land (R257); DESIGN CHOICE low (log 14) -/
  grantLand : Bool := false
  deriving DecidableEq, Repr

/-- Transmit (08). -/
structure Tx where
  /-- paths 0–63 -/
  path : Vector TxPath 64 := Vector.replicate 64 {}
  /-- linearisation of each path -/
  dpd : Vector Dpd 64 := Vector.replicate 64 {}
  /-- DPD_TEMPER.REFRESH ×10 ms; reset 20 -/
  refresh : Nat := 20
  /-- DPD_TEMPER.DIV_THR; reset 30 -/
  divThr : Nat := 30
  /-- TXP_CFR.STAGES; reset 2 -/
  stages : Nat := 2
  /-- TXP_CFR.PAPR 1/64 dB; reset 0x0200 -/
  papr : Nat := 512
  /-- TXP_LINES RW: T_TR_OFF 24, T_PA_OFF 8, T_TR 48, T_PA 32; reset -/
  lines : BitVec 32 := 0x18083020
  /-- line timing in force since the last run edge; reset -/
  linesNow : BitVec 32 := 0x18083020
  /-- TXP_LATE_LO(q) W1C; reset 0 -/
  lateLo : Vector Nat 4 := Vector.replicate 4 0
  /-- an unbroken run of late symbols is open (R256); no -/
  lateRun : Vector Bool 4 := Vector.replicate 4 false
  /-- coexistence pairs 0–3 -/
  cox : Vector Cox 4 := Vector.replicate 4 {}
  /-- quad's synthesiser passed the last lock check (R256); no -/
  lockOk : Vector Bool 4 := Vector.replicate 4 false
  /-- paths of the batch of compensation and ceiling changes due at this slot tick (R249); none -/
  stepped : BitVec 64 := 0
  /-- groups whose new CEIL enters the batch at the next slot tick (R364); none -/
  ceilDue : BitVec 8 := 0
  /-- symbol of the last lock check (R256); none -/
  checkedSym : Option Nat := none
  /-- that check found the symbol outside the duty budget or not a downlink symbol (R232, R255); no -/
  dutyCut : Bool := false
  /-- paths a withheld grant mutes for that symbol (R257); none -/
  coxCut : BitVec 64 := 0
  /-- a housekeeping round has set new compensation targets since the last slot tick (R251); no -/
  compDue : Bool := false
  /-- the symbol whose downlink signal the limiters measured last (R236); none -/
  levelSym : Option Nat := none
  /-- paths whose mean of that symbol exceeds REF (R236); none -/
  levelHigh : BitVec 64 := 0
  /-- paths whose mean of that symbol is below REF − 20 dB (R241); none -/
  levelLow : BitVec 64 := 0
  /-- the same for the symbol at the antenna ports (R241); none -/
  lowNow : BitVec 64 := 0
  /-- quads whose synthesiser has lost lock since the symbol tick (R256, R282); none -/
  retuned : BitVec 4 := 0
  deriving DecidableEq, Repr

/-- One receive path (09). -/
structure RxPath where
  /-- RXP_CHAIN.XF code; reset 2 -/
  xf : Nat := 2
  /-- FIR_LEN code; reset 2 -/
  firLen : Nat := 2
  /-- CUSTOM; reset 0 -/
  custom : Bool := false
  /-- host FIR coefficients from the centre tap outward (R285); none -/
  fir : List (BitVec 16) := []
  /-- CIC_DEC code; reset 0 (D = 2) -/
  cicDec : Nat := 0
  /-- CIC_ORDER N; reset 4 -/
  cicOrder : Nat := 4
  /-- IF_SIDE; reset 0 -/
  ifSide : Nat := 0
  /-- RXP_GAIN.DGAIN; reset 0 -/
  dgain : Int := 0
  /-- RXP_GAIN.MODE; reset 1 COMPENSATED -/
  gmode : Nat := 1
  /-- RXP_GAIN.ATT code; reset 0 -/
  att : Nat := 0
  /-- RXP_PROT.EN; reset 1 -/
  protEn : Bool := true
  /-- N_OVL; reset 8 -/
  nOvl : Nat := 8
  /-- THR; reset 4 -/
  thr : Nat := 4
  /-- LNA protect line active for a transmit run (R279); idle -/
  lnap : Bool := false
  /-- RXP_PROT.OVL: held by the overload watch (R281); live -/
  ovl : Bool := false
  /-- the overload condition was met again in this symbol (R281); no -/
  ovlAgain : Bool := false
  /-- an unbroken run of symbols with triggers is open (R281); no -/
  ovlRun : Bool := false
  /-- port times, first and end, between which samples are zero and settling (R275–R277, R281, R282); none -/
  settles : List (Nat × Nat) := []
  /-- length of the fade that began at the last symbol tick, counts (R274); 0 none -/
  fade : Nat := 0
  /-- settling interval that starts at the first symbol tick with lock (R275); 0 -/
  settlePend : Nat := 0
  /-- RXP_STAT.SETTLED_LAST; reset 0 -/
  settledLast : Bool := false
  /-- RXP_STAT.LATE_LO; reset 0 -/
  lateLo : Bool := false
  /-- RXP_STAT.BLANKED; reset 0 -/
  blanked : Bool := false
  /-- port time to which stage 8 is blanked by the last run (R280); 0 -/
  blankUntil : Nat := 0
  /-- RXP_IRR.PHASE; reset 0 -/
  irrPhase : Int := 0
  /-- RXP_IRR.GAIN; reset 0 -/
  irrGain : Int := 0
  /-- RXP_OVL W1C; reset 0 -/
  ovlCnt : Nat := 0
  /-- RXP_SAT W1C; reset 0 -/
  satCnt : Nat := 0
  /-- count of the last RX_CFG GAIN in effect (R327); 0 -/
  gainAt : Nat := 0
  deriving DecidableEq, Repr

/-- Receive (09). -/
structure Rx where
  /-- paths 0–63 -/
  path : Vector RxPath 64 := Vector.replicate 64 {}
  /-- RXP_LINES.WIN_ADV; reset 128 -/
  winAdv : Nat := 128
  /-- RECOV ×16; reset 4 -/
  recov : Nat := 4
  /-- LP_LAG ×16; reset 4 -/
  lpLag : Nat := 4
  /-- LP_LEAD ×16; reset 4 -/
  lpLead : Nat := 4
  /-- RXP_CAP_STAT.BYTES; reset 0 -/
  capBytes : Nat := 0
  /-- RXP_LATE_LO(q) W1C; reset 0 -/
  lateLo : Vector Nat 4 := Vector.replicate 4 0
  /-- open run of lost uplink symbols (R282); no -/
  lateRun : Vector Bool 4 := Vector.replicate 4 false
  /-- quad's receive output passed the last lock check (R282); no -/
  lockOk : Vector Bool 4 := Vector.replicate 4 false
  /-- zero samples of the symbol that ended at the last symbol tick (R277, R280); none -/
  zeros : List ZeroSpan := []
  /-- ORx0–ORx7: holder, switch, attenuator, requests -/
  orx : Vector OrxArb 8 := Vector.replicate 8 {}
  /-- what the symbols of running captures held (R198, R288); none -/
  marks : List CapMark := []
  /-- TMP_ORX_DLY(p); reset 0 -/
  orxDly : Vector (BitVec 16) 64 := Vector.replicate 64 0
  deriving DecidableEq, Repr

/-- Anneal corrections of one path (R317, 11). -/
structure AnlCorr where
  /-- ANL_TX_CORR.PHASE; reset 0 -/
  txPhase : BitVec 16 := 0
  /-- ANL_TX_CORR.AMP; reset 0 -/
  txAmp : BitVec 16 := 0
  /-- ANL_TX_DLY.CELLS; reset 256 -/
  txDly : BitVec 9 := 256
  /-- ANL_RX_CORR.PHASE; reset 0 -/
  rxPhase : BitVec 16 := 0
  /-- ANL_RX_CORR.AMP; reset 0 -/
  rxAmp : BitVec 16 := 0
  /-- ANL_RX_DLY.CELLS; reset 256 -/
  rxDly : BitVec 9 := 256
  /-- ANL_ELEM.DAC; reset 0 -/
  dac : BitVec 8 := 0
  /-- ANL_ELEM.ADC; reset 0 -/
  adc : BitVec 8 := 0
  deriving DecidableEq, Repr

/-- One coupling baseline (R333, 11). -/
structure Baseline where
  /-- its span centre -/
  spanKhz : Nat := 0
  /-- sides with edge pairs -/
  edges : BitVec 2 := 0
  /-- count of its measurement, standing for the m0 values it holds (log 11) -/
  since : Nat := 0
  deriving DecidableEq, Repr

/-- One copy of the calibration record (R333, 11). -/
structure CalRecord where
  /-- correction set of R317 -/
  corr : Vector AnlCorr 64 := Vector.replicate 64 {}
  /-- up to 8 baselines -/
  bases : List Baseline := []
  deriving DecidableEq, Repr

/-- Corrections of one direction class waiting for their tick (R330, 11). -/
structure AnlApply where
  /-- transmit class -/
  isTx : Bool := false
  /-- count from which a slot tick may apply them -/
  due : Nat := 0
  /-- count at which waiting fails with NO_GUARD (R328) -/
  limit : Nat := 0
  /-- corrections that replace those of the direction -/
  set : List (Fin 64 × AnlCorr) := []
  /-- ORx path delays (receive class) -/
  orxDly : List (Fin 64 × BitVec 16) := []
  /-- image rejection corrections (receive class) -/
  irr : List (Fin 64 × (Int × Int)) := []
  /-- ANL_RUN commands whose record waits for the last tick -/
  refs : List CmdRef := []
  /-- synthesiser output delay trims of the class (R296, R317) -/
  trims : List (Fin 5 × Fin 4 × BitVec 10) := []
  /-- they end a run -/
  ofRun : Bool := false
  /-- RESULT of the run's record (R336) -/
  result : BitVec 64 := 0
  /-- paths corrected, for ANL_DONE (R337) -/
  npaths : Nat := 0
  /-- paths whose Temper refresh falls due (R331) -/
  dueRefresh : BitVec 64 := 0
  deriving DecidableEq, Repr

/-- Anneal (11). -/
structure Anl where
  /-- ANL_CFG RW: INJ_LVL 0xE2, MAX_AGE 60, T_STEP 16; reset -/
  cfg : BitVec 32 := 0xE23C0010
  /-- ANL_TOL RW: AGREE_DLY 8, AGREE_AMP 20, AGREE_PH 51; reset -/
  tol : BitVec 32 := 0x00081433
  /-- ANL_STAT.STATE; reset 0 -/
  state : AnlState := .idle
  /-- ANL_STAT.ATTEMPT; reset 0 -/
  attempt : Nat := 0
  /-- ANL_STAT.PENDING; reset 0 -/
  pending : Bool := false
  /-- trigger code latched (R325, R48, R328); 0 -/
  latched : Nat := 0
  /-- ANL_STAT.TRIGGER; reset 0 -/
  trigger : Nat := 0
  /-- ANL_STAT.LAST_CAUSE; reset 0 -/
  lastCause : Nat := 0
  /-- ANL_RUNS.FAILED saturating; reset 0 -/
  failed : Nat := 0
  /-- ANL_RUNS.DONE saturating; reset 0 -/
  done : Nat := 0
  /-- ANL_LAST; reset VALID 0 -/
  last : Option (BitVec 19) := none
  /-- count of the last accepted run (R325); 0 -/
  lastAt : Nat := 0
  /-- ANL_TREF(q); reset 0x8000 -/
  tref : Vector (BitVec 16) 4 := Vector.replicate 4 0x8000
  /-- ANL_STALE; reset 0 -/
  stale : BitVec 64 := 0
  /-- ANL_EDGE(s) RW 64-bit; reset 0 -/
  edge : Vector (BitVec 64) 2 := Vector.replicate 2 0
  /-- ANL_EDGE_RES(s, k) at 8s + k; reset 0 -/
  edgeRes : Vector (BitVec 32) 16 := Vector.replicate 16 0
  /-- corrections in force -/
  corr : Vector AnlCorr 64 := Vector.replicate 64 {}
  /-- the run in progress (R322); none -/
  run : Option AnlRun := none
  /-- the run a latched trigger starts when the run in progress ends (R325, R336); none -/
  next : Option AnlRun := none
  /-- the master has been asked for a guard period for the run in progress (R230); no -/
  asked : Bool := false
  /-- corrections waiting for their tick (R330); none -/
  apply : List AnlApply := []
  /-- the two flash copies of the calibration record, none: no good CRC (R333); DESIGN CHOICE none (log 14) -/
  copies : Vector (Option CalRecord) 2 := Vector.replicate 2 none
  /-- which copy is the newest (R333); DESIGN CHOICE 0 (log 14) -/
  newest : Nat := 0
  /-- baselines held in RAM, by span centre (R333, R334); none -/
  bases : List Baseline := []
  /-- neither copy was good at the last cold start of TMP (R333); no -/
  noRecord : Bool := false
  /-- sensor readings at the block, 1/8 °C (R329); 0 -/
  blockTemp : Vector Int 4 := Vector.replicate 4 0
  /-- the SAVE whose flash write runs (R334); none -/
  saving : Option CmdRef := none
  /-- T(g) of the guard period last used for measuring (R319); 0 -/
  gpAt : Nat := 0
  /-- end of that guard period (R319); 0 -/
  gpEnd : Nat := 0
  /-- number of its first injection frame in the measurement (R319); 0 -/
  gpFrom : Nat := 0
  /-- injection frames in that guard period (R319); 0 -/
  gpN : Nat := 0
  /-- paths that an ORx has observed in the run in progress (R324); 0 -/
  obs : BitVec 64 := 0
  /-- runs begun, the rotation of the paths that an ORx observes (R324); 0 -/
  orxRot : Nat := 0
  /-- side of the neighbour whose edge run this device takes part in, 0 Cope, 1 Drag (R335); none -/
  partner : Option (Fin 2) := none
  deriving DecidableEq, Repr

/-- Power domains (12). -/
structure PwrS where
  /-- PWR_DOM_STATE; reset 0x0AAA_AAAA, SYN in transition until a source qualifies (R437; log 4) -/
  dom : Vector DomState 14 := Vector.ofFn fun (d : Fin 14) => if d.val = 3 then .moving else .on
  /-- the state each domain in transition is going to (R341, R342); on -/
  target : Vector DomState 14 := Vector.replicate 14 .on
  /-- the state it left: from retention banks are checked (R342); off -/
  origin : Vector DomState 14 := Vector.replicate 14 .off
  /-- the domain in retention holds kept state (R436); no -/
  kept : Vector Bool 14 := Vector.replicate 14 false
  /-- PWR_SPOILED W1C; reset 0 -/
  spoiled : BitVec 32 := 0
  /-- PWR_BANK_STAT.BANK_SPOILED W1C; reset 0 -/
  bankSpoiled : Bool := false
  /-- PWR_BANK_STAT.INDEX; reset 0 -/
  spoilIndex : Nat := 0
  /-- PWR_BANK_STAT.COUNT saturating; reset 0 -/
  spoilCount : Nat := 0
  /-- PWR_WAKE_LATCH.SRC; live -/
  wakeLatch : BitVec 4 := 0
  /-- POWER events held while CTL is not on, at most 16 (R346); none -/
  evtq : List Event := []
  /-- PWR_EVTQ.LOST saturating; reset 0 -/
  evtqLost : Nat := 0
  /-- the DOMAIN_SET, dark set or wake in progress (R340); none -/
  cmd : Option DomCmd := none
  /-- count at which CTL's entry begins and its target (R340); none -/
  ctlEntryAt : Option (Nat × DomState) := none
  /-- bank signatures stored in AON (R341); DESIGN CHOICE 0 until stored (log 14) -/
  sign : Vector (BitVec 32) 32 := Vector.replicate 32 0
  /-- carriers whose return from HLD waits for domains and lock (R47); none -/
  resumeSet : BitVec 2 := 0
  /-- VIN above its threshold and PGOOD high (R403, R404); on after power-on -/
  powered : Bool := true
  deriving DecidableEq, Repr

/-- One Holding tap (R347, 12). -/
structure Tap where
  /-- HLD_TAP.EN; reset 0 -/
  en : Bool := false
  /-- PATH; reset 0 -/
  path : Nat := 0
  /-- THRESH; reset −60 -/
  thresh : BitVec 8 := 0xC4
  /-- the last N voting windows, newest first (R347); none -/
  votes : List Bool := []
  deriving DecidableEq, Repr

/-- Holding (12). -/
structure Hld where
  /-- HLD_STAT.STATE; live; DISARMED -/
  state : HldState := .disarmed
  /-- LAST_SRC; reset 0 -/
  lastSrc : Nat := 0
  /-- taps 0–7 -/
  tap : Vector Tap 8 := Vector.replicate 8 {}
  /-- HLD_FILT: BLIND 8, N 4, K 3, M 2, WIN 250; reset -/
  filt : BitVec 32 := 0x084320FA
  /-- HLD_WAKE_CFG: PWAKE 2, SENSOR 1, SUPPLY 1, ENVELOPE 2; reset -/
  wakeCfg : BitVec 8 := 0x96
  /-- HLD_DARK_SET; reset 0x0FFF_FFFF -/
  darkSet : BitVec 28 := 0xFFFFFFF
  /-- a change that takes effect at the next window (R354); none -/
  pend : List (BitVec 384) := []
  /-- windows left in BLIND (R347); 0 -/
  blindLeft : Nat := 0
  /-- HLD_DARK.EN; reset 1 -/
  darkEn : Bool := true
  /-- DARK_LVL; reset −50 -/
  darkLvl : BitVec 8 := 0xCE
  /-- FAILS saturating; reset 0 -/
  fails : Nat := 0
  /-- HLD_WAKES.DECISIONS; reset 0 -/
  decisions : Nat := 0
  /-- REPLAYED; reset 0 -/
  replayed : Nat := 0
  /-- the dark set waits for its slot tick (R349); no -/
  darkDue : Bool := false
  /-- rotation of the dark check of each octant (R351); DESIGN CHOICE 0 (log 14) -/
  rot : Vector Nat 8 := Vector.replicate 8 0
  deriving DecidableEq, Repr

/-- One sensor s = 0–23 (R361, R362, 13). -/
structure Sensor where
  /-- THM_SENSE.TYPE; reset 0 for s < 16, 3 otherwise -/
  type : Nat := 0
  /-- THM_SENSE.NBR RW; reset 0 -/
  nbr : BitVec 24 := 0
  /-- THM_SENSE_CAL RW (s < 16); reset 0x4052_0000 -/
  cal : BitVec 32 := 0x40520000
  /-- THM_TEMP.BROKEN; reset 0 -/
  broken : Bool := false
  /-- REPLACED; reset 0 -/
  replaced : Bool := false
  /-- NO_REPL; reset 0 -/
  noRepl : Bool := false
  /-- DISAGREE; reset 0 -/
  disagree : Nat := 0
  /-- TEMP value after R362, 1/8 °C; reset 0x8000 none -/
  temp : Option Int := none
  /-- declared broken by the range check, which blanks its comparator (R367); reset 0 -/
  byRange : Bool := false
  /-- rounds since it was declared broken (R376, 14); 0 -/
  brokenRounds : Nat := 0
  /-- consecutive good rounds toward re-admission (R376); 0 -/
  goodRounds : Nat := 0
  /-- faults in the trailing 60 s (R377); none -/
  faults : List Nat := []
  /-- permanent (R378); reset 0 -/
  retired : Bool := false
  deriving DecidableEq, Repr

/-- One PA group (R363, R364, 13). -/
structure Group where
  /-- THM_GRP_CFG RW: V_CH 89, I_CH 24; reset -/
  cfg : BitVec 32 := 0x00005918
  /-- THM_GRP_R RW; reset 0 -/
  r : BitVec 32 := 0
  /-- THM_GRP_TAU RW; reset -/
  tau : BitVec 32 := 0x04B007D0
  /-- THM_GRP_GAIN RW; reset 0 -/
  gain : BitVec 16 := 0
  /-- THM_GRP_STAT.T_PRED; reset 0x8000 -/
  tPred : BitVec 16 := 0x8000
  /-- THM_GRP_STAT.T_J; reset 0x8000 -/
  tJ : BitVec 16 := 0x8000
  /-- THM_GRP_PWR.CEIL; reset 0x7FFF none -/
  ceil : Int := 32767
  /-- the ceiling its paths are under, since a slot tick (R249, R364); reset none -/
  ceilNow : Int := 32767
  /-- THM_GRP_PWR.P 1/16 W; reset 0 -/
  p : Nat := 0
  /-- ΔT1 in 2^-32 °C (R363); 0 at power-on reset -/
  dT1 : Int := 0
  /-- ΔT2 in 2^-32 °C (R363); 0 at power-on reset -/
  dT2 : Int := 0
  deriving DecidableEq, Repr

/-- One fan output (R365, 13). -/
structure Fan where
  /-- THM_FAN.T_HI; reset 70 -/
  tHi : Int := 70
  /-- T_LO; reset 35 -/
  tLo : Int := 35
  /-- MIN; reset 64 -/
  min : Nat := 64
  /-- DUTY in force; live; 255 during start-up -/
  duty : Nat := 255
  /-- THM_FAN_SRC.MASK; reset -/
  src : BitVec 24 := 0xFFFFFF
  /-- forced duty and the count its HOLD ends (R365); none -/
  force : Option (Nat × Nat) := none
  deriving DecidableEq, Repr

/-- Thermal plant (13). -/
structure Thm where
  /-- sensors 0–23 -/
  sense : Vector Sensor 24 := Vector.ofFn fun (i : Fin 24) => { type := if i.val < 16 then 0 else 3 }
  /-- PA groups 0–7 -/
  group : Vector Group 8 := Vector.replicate 8 {}
  /-- THM_MODEL RW: HYST 16, LOOK 10; reset -/
  model : BitVec 32 := 0x0010000A
  /-- fans 0–3 -/
  fan : Vector Fan 4 := Vector.replicate 4 {}
  /-- THM_HEAT RW fields: EN 1, H_OFF −20, H_ON −30; reset -/
  heat : BitVec 32 := 0x8000ECE2
  /-- THM_HEAT.ON; live -/
  heatOn : Bool := false
  /-- THM_QUENCH.LATCHED (R368); reset 0 -/
  quench : Bool := false
  /-- CAUSE; reset 0 -/
  qCause : Nat := 0
  /-- SENSOR; reset 0 -/
  qSensor : Nat := 0
  /-- TEMP; reset 0 -/
  qTemp : BitVec 16 := 0
  /-- count of the last housekeeping round (R361, R363); 0 -/
  roundAt : Nat := 0
  /-- rounds since power-on (R359 AGE); 0 -/
  rounds : Nat := 0
  deriving DecidableEq, Repr

/-- One window comparator (R360, 13). -/
structure Cmp where
  /-- HKA_CMP_CFG.EN; reset 1 for k = 0 -/
  en : Bool := false
  /-- WAKE; reset 0 -/
  wake : Bool := false
  /-- START; reset 1 for k = 0 -/
  start : Bool := false
  /-- STATE; live; inside -/
  state : Nat := 0
  /-- CH; reset 88 for k = 0 -/
  ch : Nat := 0
  /-- HKA_CMP_THR HI; reset 18,000 for k = 0 -/
  hi : BitVec 16 := 0
  /-- HKA_CMP_THR LO; reset 4,500 for k = 0 -/
  lo : BitVec 16 := 0
  /-- its conversion waits (R360); no -/
  waits : Bool := false
  deriving DecidableEq, Repr

/-- Housekeeping converter (13). -/
structure Hka where
  /-- HKA_CFG.TINT RW; reset 250 -/
  tint : Nat := 250
  /-- in the converter test mode (R358); no -/
  test : Bool := false
  /-- HKA_QSTAT.LOST W1C saturating; reset 0 -/
  lost : Nat := 0
  /-- results queue of 512 entries, oldest first (R359); empty -/
  queue : List (BitVec 32) := []
  /-- a result was lost since the queue was last empty (R359); no -/
  lostSince : Bool := false
  /-- HKA_DISC saturating; reset 0 -/
  disc : Nat := 0
  /-- HKA_SCAN(w) RW; resets as listed -/
  scan : Vector (BitVec 32) 5 := #v[0x00FFFFFF, 0, 0x01000000, 0, 0]
  /-- comparators 0–15 -/
  cmp : Vector Cmp 16 := Vector.ofFn fun (k : Fin 16) => if k.val = 0 then { en := true, start := true, ch := 88, hi := 18000, lo := 4500 } else {}
  /-- HKA_LAST(c): code, and the round count at the conversion (R359 AGE); reset 0 -/
  last : Vector (Option (BitVec 24 × Nat)) 160 := Vector.replicate 160 none
  /-- channel being converted (R358); the first of HKA_SCAN once PGOOD ends start-up: DESIGN CHOICE 0 (log 14) -/
  busy : Option Nat := some 0
  deriving DecidableEq, Repr

/-- One bias output (R369–R372, 13). -/
structure BiasOut where
  /-- BIA_OUT.DL_HOLD RW; reset 1 for o < 64, 0 otherwise -/
  dlHold : Bool := true
  /-- SPAN in force; reset 0 for o < 64, 1 otherwise -/
  span : Nat := 0
  /-- CODE stored; reset 0 -/
  code : BitVec 12 := 0
  /-- queue of 16 places (R370); empty -/
  queue : List BiasEntry := []
  /-- a released entry waiting for its symbol tick (R370); none -/
  released : Option BiasEntry := none
  /-- code at the output: 0 while forced (R372); 0 -/
  shown : BitVec 12 := 0
  /-- count at which a code last left the queue (R327); 0 -/
  last : Nat := 0
  deriving DecidableEq, Repr

/-- PA bias (13). -/
structure Bias where
  /-- outputs 0–127 -/
  out : Vector BiasOut 128 := Vector.ofFn fun (o : Fin 128) => if o.val < 64 then {} else { dlHold := false, span := 1 }
  deriving DecidableEq, Repr

/-- One Heat Book histogram (R384, 14). -/
structure Hist where
  /-- bins 0–15 saturating 32 bits, missing ones 0; 0 -/
  bins : List Nat := []
  /-- MIN; 0x7FFF no sample -/
  min : Int := 32767
  /-- MAX; 0x8000 no sample -/
  max : Int := -32768
  /-- samples; 0 -/
  n : Nat := 0
  deriving DecidableEq, Repr

/-- Heat Book and authorisation (14). -/
structure Hb where
  /-- HBK_HEAT: bits programmed in the heat counter, saturates at 524,288 (R383); DESIGN CHOICE 1: the first power-on of a new flash (log 14) -/
  heat : Nat := 1
  /-- bits programmed in the hour counter (R383); DESIGN CHOICE 0 (log 14) -/
  hours : Nat := 0
  /-- count at which the running operating hour began (R383); 0 -/
  hourFrom : Nat := 0
  /-- HBK_STAT.HB_FAIL; live -/
  fail : Bool := false
  /-- HBK_STAT.CAUSE; reset 0 -/
  cause : Nat := 0
  /-- HBK_STAT.FULL; live; 0 -/
  full : Bool := false
  /-- the first free record has been found since power-on (R386); no -/
  scanned : Bool := false
  /-- HBK_STAT.NEXT; live; DESIGN CHOICE 0: empty record area (log 14) -/
  next : Nat := 0
  /-- HBK_CFG.INTERVAL RW; reset 168 -/
  interval : Nat := 168
  /-- operating hours at the last interval snapshot (R386); 0 -/
  lastSnapHours : Nat := 0
  /-- the model's own counter of nonces drawn: HBK_NONCE is a free value of it (R389; log 10); DESIGN CHOICE 0 -/
  nonceCtr : Nat := 0
  /-- HBK_AUTH.FAILS; reset 0 -/
  authFails : Nat := 0
  /-- HBK_AUTH.LOCKED; reset 0 -/
  authLocked : Bool := false
  /-- last-gasp file, at most 16 entries (R392); empty -/
  lg : List LgEntry := []
  /-- HBK_LG.LOST saturating; reset 0 -/
  lgLost : Nat := 0
  /-- HBK_FAULTN_EN RW; reset -/
  faultnEn : BitVec 32 := 0x0000027F
  /-- QTY 1 output power (R385); empty -/
  hPow : Vector Hist 64 := Vector.replicate 64 {}
  /-- QTY 2 temperature; empty -/
  hTemp : Vector Hist 24 := Vector.replicate 24 {}
  /-- QTY 3 VIN; empty -/
  hVin : Hist := {}
  /-- QTY 4 lane errors per hour; empty -/
  hLane : Vector Hist 40 := Vector.replicate 40 {}
  /-- COUNTS words (R384); 0 -/
  counts : Vector Nat 19 := Vector.replicate 19 0
  /-- SNAP snapshot number (R384); DESIGN CHOICE 0 (log 14) -/
  snap : Nat := 0
  /-- snapshots due or being written, in order (R386); none -/
  snaps : List SnapReq := []
  /-- record area, 85,333 records of 96 bytes (R382); unlisted bytes 0xFF (erased); DESIGN CHOICE erased (log 14) -/
  recs : Memory := []
  /-- clear log, 682 records (R382); unlisted bytes 0xFF; DESIGN CHOICE erased (log 14) -/
  clearLog : Memory := []
  /-- next free clear-log entry; DESIGN CHOICE 0 (log 14) -/
  clearNext : Nat := 0
  /-- the HB_CLEAR whose erase runs (R390); none -/
  clearing : Option CmdRef := none
  /-- records in use before that clear (R390, R396); 0 -/
  erased : Nat := 0
  /-- hour bits whose programming waits for CTL (R382); 0 -/
  flashWait : Nat := 0
  deriving DecidableEq, Repr

/-- Fuse array (R393–R395, 14). -/
structure Fus where
  /-- the fuse array as programmed; DESIGN CHOICE blank (log 5) -/
  array : BitVec 4096 := 0
  /-- the values loaded at the last power-on reset (R17, R395); DESIGN CHOICE blank (log 5) -/
  loaded : BitVec 4096 := 0
  deriving DecidableEq, Repr

/-- GEN block, straps and lands (16, 15, 01). -/
structure Gen where
  /-- GEN_SCRATCH RW; reset 0 -/
  scratch : BitVec 32 := 0
  /-- GEN_WR_REJ.FLAG W1C; reset 0 -/
  wrRej : Bool := false
  /-- COUNT saturates at 0x7F; reset 0 -/
  wrRejCount : Nat := 0
  /-- OFFSET; reset 0 -/
  wrRejOffset : BitVec 24 := 0
  /-- GEN_RST W1C: CTL_COLD, HOT, FLR, POR; reset POR 1 -/
  rst : BitVec 4 := 1
  /-- GEN_WORK_LATE.RUN_LATE W1C; reset 0 -/
  runLate : Bool := false
  /-- TUN_LATE; reset 0 -/
  tunLate : Bool := false
  /-- CRU_LATE; reset 0 -/
  cruLate : Bool := false
  /-- COUNT saturates at 0xFFFF; reset 0 -/
  lateCount : Nat := 0
  /-- NOTX strap latched (R402); DESIGN CHOICE low (log 5) -/
  notx : Bool := false
  /-- MASTER strap; DESIGN CHOICE low (log 5) -/
  master : Bool := false
  /-- FLASK_ID[3:0]; DESIGN CHOICE 0 (log 5) -/
  flaskId : Nat := 0
  /-- BOOTBAND[2:0]; DESIGN CHOICE 0 (log 5) -/
  bootband : Nat := 0
  /-- PGOOD land (R403, R404); released at the end of power-on -/
  pgood : Bool := true
  /-- QUENCH_N land, low when Quench is latched (R368); high -/
  quenchN : Bool := true
  deriving DecidableEq, Repr

/-- No command of the XK6464 stops the machine with a fault: errors are answered in completion records, events and bus
completions. The one fault is the model's own guard; no meaning raises it (safe). -/
inductive Fault where
  /-- Raised by no meaning: kept so that the type has a name to refuse by (safe). -/
  | unused
  deriving DecidableEq, Repr

/-- Refusals of the model. -/
inductive Refusal where
  /-- Raised by an arm of Dispatch whose command has no meaning yet (safe). -/
  | notModelled (mnemonic : String)
  deriving DecidableEq, Repr

/-- The whole machine. -/
structure State where
  /-- timebase (R305–R315, 10) -/
  tb : Tb
  /-- reference, synthesisers, sample-clock PLL (R290–R301, 10) -/
  syn : Syn
  /-- span, carriers and TDD pattern (R302, R303, 10) -/
  air : Air
  /-- service modes and survey (R39–R60, 02) -/
  mod : ModS
  /-- control port, rings, events, MSI-X, host memory (R61–R96, 03) -/
  host : HostIf
  /-- the Ladle and the addressed memories (R97–R103, 03; R188, 06) -/
  ldl : Ladle
  /-- serial lanes (R105–R130, 04) -/
  lanes : Lanes
  /-- fronthaul messages, Tundish, Assay (R131–R167, 05) -/
  fh : Fh
  /-- Crucible (R168–R199, 06) -/
  cru : Cru
  /-- Runner and flask (R200–R231, 07) -/
  run : Run
  /-- transmit (R232–R265, 08) -/
  tx : Tx
  /-- receive and observation (R266–R289, 09) -/
  rx : Rx
  /-- Anneal (R317–R337, 11) -/
  anl : Anl
  /-- power domains (R338–R346, R436, 12) -/
  pwr : PwrS
  /-- Holding (R347–R354, 12) -/
  hld : Hld
  /-- thermal plant (R361–R368, 13) -/
  thm : Thm
  /-- housekeeping converter (R356–R360, 13) -/
  hka : Hka
  /-- PA bias (R369–R372, 13) -/
  bias : Bias
  /-- Heat Book and authorisation (R382–R392, 14) -/
  hb : Hb
  /-- fuse array (R393–R395, 14) -/
  fus : Fus
  /-- GEN block, straps and lands (R432, 16; R402, R403, 15) -/
  gen : Gen
  /-- what the last command made the device send or signal: frames, MSI-X messages, Pour frames (the model's own field, log 6); empty at reset -/
  out : List Out
  /-- the commands that wait, first in first out (the model's own field, log 7); empty at reset -/
  pending : List Instr
  deriving DecidableEq, Repr

/-- The machine right after power-on reset, before SYN is first on (R17, R57, R432, R437): every field at its default,
which is its reset value. -/
def State.reset : State where
  tb := {}
  syn := {}
  air := {}
  mod := {}
  host := {}
  ldl := {}
  lanes := {}
  fh := {}
  cru := {}
  run := {}
  tx := {}
  rx := {}
  anl := {}
  pwr := {}
  hld := {}
  thm := {}
  hka := {}
  bias := {}
  hb := {}
  fus := {}
  gen := {}
  out := []
  pending := []

end Sys2Proof.Machine
end

