-- ==== Sys2Proof/Machine/Ops.lean ====
section
/-! DEFINITION. The operations every family shares: bit fields, memories, time and ticks, domains and clocks, MSI-X
signals, completion records, events, and the life of a command from its start to its record. -/

namespace Sys2Proof.Machine

/-! ### Numbers and bit fields -/

/-- Bits [hi:lo] of a number (R12). -/
def bits (v hi lo : Nat) : Nat := (v >>> lo) % 2 ^ (hi + 1 - lo)

/-- Bit i of a number. -/
def bit (v i : Nat) : Bool := v.testBit i

/-- A truth value as a bit. -/
def b2n (b : Bool) : Nat := if b then 1 else 0

/-- The signed value of a w-bit field (two's complement). -/
def sx (w v : Nat) : Int := if v % 2 ^ w < 2 ^ (w - 1) then (v % 2 ^ w : Nat) else (v % 2 ^ w : Nat) - (2 ^ w : Nat)

/-- The w-bit field that holds a signed value. -/
def tc (w : Nat) (i : Int) : Nat := (i % (2 ^ w : Nat)).toNat

/-- A value limited to a range. -/
def clampI (lo hi i : Int) : Int := max lo (min hi i)

/-- A saturating count. -/
def satTo (m n : Nat) : Nat := min m n

/-- The Nat list of the set bits of a mask below n. -/
def setBits (n mask : Nat) : List Nat := (List.range n).filter fun i => mask.testBit i

/-- The mask of a list of bit numbers. -/
def maskOf (l : List Nat) : Nat := l.foldl (fun m i => m ||| (1 <<< i)) 0

/-- A quotient rounded to nearest, halves away from zero. -/
def divRound (a : Int) (b : Nat) : Int :=
  if a < 0 then -(((-a).toNat * 2 + b) / (2 * b) : Nat) else ((a.toNat * 2 + b) / (2 * b) : Nat)

/-! ### Vectors -/

/-- One element changed; an index outside changes nothing. -/
def vmod {α : Type} {n : Nat} (v : Vector α n) (i : Nat) (f : α → α) : Vector α n :=
  if h : i < n then v.set i (f v[i]) h else v

/-- Every element changed. -/
def vall {α : Type} {n : Nat} (v : Vector α n) (f : Nat → α → α) : Vector α n :=
  Vector.ofFn fun i => f i.val v[i]

/-- An element, or a stand-in outside the vector. -/
def vget {α : Type} {n : Nat} (v : Vector α n) (i : Nat) (d : α) : α := if h : i < n then v[i] else d

/-! ### Memories -/

/-- The byte of a memory at an address; dflt is what an unlisted address reads as. -/
def memRead (dflt : Byte) : Memory → Nat → Byte
  | [], _ => dflt
  | c :: cs, a => if c.1 = a then c.2 else memRead dflt cs a

/-- A byte written, keeping the canonical form. -/
def memWrite (dflt : Byte) : Memory → Nat → Byte → Memory
  | [], a, b => if b = dflt then [] else [(a, b)]
  | c :: cs, a, b =>
    if a < c.1 then (if b = dflt then c :: cs else (a, b) :: c :: cs)
    else if a = c.1 then (if b = dflt then cs else (a, b) :: cs)
    else c :: memWrite dflt cs a b

/-- Cells written one after another. -/
def memPaste (dflt : Byte) (m : Memory) (cells : List Host.Cell) : Memory :=
  cells.foldl (fun m c => memWrite dflt m c.1 c.2) m

/-- Cells at consecutive addresses. -/
def cellsAt : Nat → List Byte → List Host.Cell
  | _, [] => []
  | a, b :: bs => (a, b) :: cellsAt (a + 1) bs

/-- Bytes written from an address upward. -/
def memWriteBytes (dflt : Byte) (m : Memory) (a : Nat) (bs : List Byte) : Memory := memPaste dflt m (cellsAt a bs)

/-- n bytes from an address upward. -/
def memReadBytes (dflt : Byte) (m : Memory) (a n : Nat) : List Byte := (List.range n).map fun i => memRead dflt m (a + i)

/-- A range made to read as the unlisted value again. -/
def memClear (m : Memory) (a n : Nat) : Memory := m.filter fun c => c.1 < a ∨ a + n ≤ c.1

/-- The cells of a range, moved to start at dst. -/
def memSlice (m : Memory) (a n dst : Nat) : List Host.Cell :=
  (m.filter fun c => a ≤ c.1 ∧ c.1 < a + n).map fun c => (c.1 - a + dst, c.2)

/-- Addresses strictly rising from a lower bound, no cell equal to the unlisted value. -/
def memWfFrom (dflt : Byte) : Nat → Memory → Bool
  | _, [] => true
  | lo, c :: cs => decide (lo ≤ c.1) && !(c.2 == dflt) && memWfFrom dflt (c.1 + 1) cs

/-- The canonical form of a memory. -/
def Memory.wf (dflt : Byte) (m : Memory) : Bool := memWfFrom dflt 0 m

/-- The n low bytes of a number, little-endian (R13). -/
def bytesLE : Nat → Nat → List Byte
  | 0, _ => []
  | n + 1, v => BitVec.ofNat 8 v :: bytesLE n (v / 256)

/-- The number a little-endian byte list holds (R13). -/
def leNat : List Byte → Nat
  | [] => 0
  | b :: bs => b.toNat + 256 * leNat bs

/-- The n low bytes of a number in network byte order. -/
def bytesBE (n v : Nat) : List Byte := (bytesLE n v).reverse

/-- The number a byte list holds in network byte order. -/
def beNat (bs : List Byte) : Nat := bs.foldl (fun a b => a * 256 + b.toNat) 0

/-! ### Domains and clocks -/

/-- A domain is on, by its bit of R79. -/
def domOn (s : State) (d : Nat) : Bool := decide (vget s.pwr.dom d .off = .on)

/-- Bits of R79 of a domain list that are not on. -/
def missing (s : State) (ds : List Nat) : Nat := maskOf (ds.filter fun d => !domOn s d)

/-- CK_HK and the other reference-locked clocks run: SYN is on and no REF_LOST holds (R293, R437). -/
def clkOn (s : State) : Bool := domOn s 3 && !s.syn.refLost

/-- The timebase runs: its clock and its domain (R293, R305). -/
def tbOn (s : State) : Bool := clkOn s && domOn s 2

/-- NOMINAL of R305. -/
def incNominal : BitVec 64 := 0x208D55555

/-- What ToD advances at each count, in units of 2^-32/3 ns (R305). -/
def todRate (s : State) : Nat := 3 * s.tb.inc.toNat + (if s.tb.inc = incNominal then 1 else 0)

/-- Units of ToD in one ns. -/
def todNs : Nat := 3 * 2 ^ 32

/-- Counts pass (R305). -/
def wait (dt : Nat) (s : State) : State :=
  { s with tb := { s.tb with
      now := s.tb.now + dt
      tod := if tbOn s then s.tb.tod + dt * todRate s else s.tb.tod } }

/-- A number of the present moment that no later power cycle repeats: free values are drawn by it (log 10). -/
def drawKey (s : State) : Nat := s.tb.now + s.hb.heat * 2 ^ 64

/-- An event from outside or one whose moment the spec leaves open: dt counts after the command before it (log 1). -/
def arrive (dt : Nat) (s : State) : State :=
  { wait dt s with out := [], host := { (wait dt s).host with resp := .none } }

/-- An event the device itself times: it comes at its due count, or now if that has passed (log 1). -/
def arriveAt (due : Nat) (s : State) : State := arrive (due - s.tb.now) s

/-- Seconds of the time of day. -/
def todSec (s : State) : Nat := s.tb.tod / (todNs * 1000000000)

/-- Nanoseconds of the time of day. -/
def todNsec (s : State) : Nat := s.tb.tod / todNs % 1000000000

/-! ### Symbols and ticks (R7, R8, R26) -/

/-- Counts from a slot tick to the tick of its symbol i (R8). -/
def symOff (i : Nat) : Nat := if i = 0 then 0 else 17792 + (i - 1) * 17536

/-- Length of symbol k in counts (R8). -/
def symLen (k : Nat) : Nat := if k % 14 = 0 then 17792 else 17536

/-- T(k): the count of the air tick of the symbol numbered k (R7, R8). -/
def tickT (s : State) (k : Nat) : Nat :=
  s.tb.gridAt + (k - s.tb.gridK) / 14 * 245760 + symOff ((k - s.tb.gridK) % 14)

/-- The number of the first symbol whose air tick is at or after a count. -/
def symFrom (s : State) (t : Nat) : Nat :=
  if t ≤ s.tb.gridAt then s.tb.gridK
  else
    let r := (t - s.tb.gridAt) % 245760
    s.tb.gridK + 14 * ((t - s.tb.gridAt) / 245760) +
      (if r = 0 then 0 else if r ≤ 17792 then 1 else 1 + (r - 17792 + 17535) / 17536)

/-- Frame number of symbol k (R306). -/
def frameOf (s : State) (k : Nat) : Nat :=
  (((s.tb.gridFrame : Int) + (k / 280 : Nat) - (s.tb.gridK / 280 : Nat)) % 1024).toNat

/-- SYMBOL_ID of symbol k: frame, slot and symbol in bits [9:0], [14:10], [18:15]. -/
def symId (s : State) (k : Nat) : Nat := frameOf s k + 1024 * (k / 14 % 20) + 32768 * (k % 14)

/-- A SYMBOL_ID names a symbol: slot up to 19, symbol up to 13. -/
def symIdOk (id : Nat) : Bool := decide (bits id 14 10 ≤ 19 ∧ bits id 18 15 ≤ 13)

/-- The number of the first symbol at or after k0 with a SYMBOL_ID. -/
def symNamed (s : State) (k0 id : Nat) : Nat :=
  let k := k0 - k0 % 280 + 280 * ((bits id 9 0 + 1024 - frameOf s k0) % 1024) + 14 * bits id 14 10 + bits id 18 15
  if k < k0 then k + 280 * 1024 else k

/-- n rounded up to a multiple of m. -/
def roundUp (m n : Nat) : Nat := (n + m - 1) / m * m

/-- The count at which tick number k of a kind falls (R26, R28). -/
def tickAt (s : State) (kind : TickKind) (k : Nat) : Nat :=
  match kind with
  | .dlWork => tickT s k - 26419
  | .ulWork => tickT s (k + 1) + 5120
  | _ => tickT s k

/-- The first tick of a kind at or after a count that has not been reached yet (R28, R29). -/
def tickFrom (s : State) (kind : TickKind) (t : Nat) : Nat :=
  match kind with
  | .none | .symbol => max s.tb.airNext (symFrom s t)
  | .slot => roundUp 14 (max s.tb.airNext (symFrom s t))
  | .frame => roundUp 280 (max s.tb.airNext (symFrom s t))
  | .dlWork => max s.tb.dlNext (symFrom s (t + 26419))
  | .ulWork => max s.tb.ulNext (symFrom s (t - 5120) - 1)

/-- TICK names an instant of a tick kind (R74). -/
def tickNames (kind : TickKind) (id : Nat) : Bool :=
  symIdOk id && match kind with
    | .slot => decide (bits id 18 15 = 0)
    | .frame => decide (bits id 18 15 = 0 ∧ bits id 14 10 = 0)
    | _ => true

/-- The tick a command accepted now is bound to and whether it is late: R29's margin, R74's AT_TICK. -/
def bindTick (s : State) (kind : TickKind) (atTick : Bool) (id : Nat) : Nat × Bool :=
  let first := tickFrom s kind (s.tb.now + 2048)
  if atTick then
    let k := symNamed s (tickFrom s (if kind = .slot ∨ kind = .frame then .symbol else kind) (s.tb.now + 1)) id
    if tickAt s kind k < s.tb.now + 2048 ∨ s.tb.now + 512 * 4915200 < tickAt s kind k then (first, true)
    else (k, false)
  else (first, false)

/-- The symbol now at the antenna ports: the one whose air tick came last. -/
def symNow (s : State) : Nat := s.tb.airNext - 1

/-- SYMBOL_ID of the present symbol, as bits of an event or record. -/
def symIdNow (s : State) : Nat := symId s (symNow s)

/-! ### TDD pattern (R303) -/

/-- Pattern code of the slot of symbol k: 0 D, 1 U, 2 S; 3 where there is no pattern. -/
def slotCode (s : State) (k : Nat) : Nat :=
  if s.air.period = 0 then 3
  else
    let i := (20 * frameOf s k + k / 14 % 20) % s.air.period
    bits s.air.slots.toNat (2 * i + 1) (2 * i)

/-- Symbol k is a downlink symbol (R303). -/
def isDl (s : State) (k : Nat) : Bool :=
  match slotCode s k with
  | 0 => true
  | 2 => decide (k % 14 < s.air.sDl)
  | _ => false

/-- Symbol k is an uplink symbol; without a pattern every symbol is (R303). -/
def isUl (s : State) (k : Nat) : Bool :=
  match slotCode s k with
  | 1 => true
  | 2 => decide (s.air.sDl + s.air.sGp ≤ k % 14)
  | 3 => true
  | _ => false

/-- Symbol k lies in a guard period (R303). -/
def isGuard (s : State) (k : Nat) : Bool := !isDl s k && !isUl s k

/-! ### Host memory and signals -/

/-- Host stores and device writes to host memory; unlisted bytes read 0 (log 3). -/
def hostWrite (s : State) (a : Nat) (bs : List Byte) : State :=
  { s with host := { s.host with mem := memWriteBytes 0 s.host.mem a bs } }

/-- Host memory as the device reads it. -/
def hostRead (s : State) (a n : Nat) : List Byte := memReadBytes 0 s.host.mem a n

/-- One thing sent or signalled outward (log 6). -/
def send (s : State) (o : Out) : State := { s with out := s.out ++ [o] }

/-- Advanced Error Reporting notes and reports a failed read of host memory, or a failed write (R103, R434; log 64). -/
def aerReport (s : State) (write : Bool) : State :=
  send { s with host := { s.host with aerRead := s.host.aerRead || !write, aerWrite := s.host.aerWrite || write } } (.aer write)

/-- An MSI-X signal of a vector: lost while disabled, pending while masked (R90). -/
def signal (s : State) (v : Nat) : State :=
  let e := vget s.host.msix v {}
  if !s.host.msixEn then s
  else if s.host.msixFnMask || e.masked then
    { s with host := { s.host with msix := vmod s.host.msix v fun e => { e with pending := true } } }
  else send s (.msix v e.addr e.data)

/-- A ring changed. -/
def modRing (s : State) (r : Nat) (f : Ring → Ring) : State :=
  { s with host := { s.host with rings := vmod s.host.rings r f } }

/-- Ring r. -/
def ringOf (s : State) (r : Nat) : Ring := vget s.host.rings r {}

/-- Slots of a ring (R64). -/
def ringSize (g : Ring) : Nat := 2 ^ g.sizeLog2

/-- Base address of a ring (R64). -/
def ringBase (g : Ring) : Nat := g.baseHi.toNat * 2 ^ 32 + g.baseLo.toNat / 4096 * 4096

/-- Counts that COAL_TIME lasts: 2^(n−1) µs, at the first count not before it (R91). -/
def coalCounts (n : Nat) : Nat := (2 ^ (n - 1) * 49152 + 99) / 100

/-- Slots of a completion or event ring that the device may write now (R68). -/
def ringFree (g : Ring) : Nat := ringSize g - (g.prod - g.cons).toNat

/-- After one record or event is written: coalescing and the vector (R91). -/
def ringSignal (s : State) (r : Nat) (now : Bool) : State :=
  let g := ringOf s r
  if now ∨ g.coalCnt ≤ g.unsig + 1 then
    signal (modRing s r fun g => { g with unsig := 0, timerAt := none }) g.vector
  else
    modRing s r fun g => { g with
      unsig := g.unsig + 1
      unsigAt := if g.unsig = 0 then s.tb.now else g.unsigAt
      timerAt := if g.unsig = 0 ∧ g.coalTime ≠ 0 then some (s.tb.now + coalCounts g.coalTime) else g.timerAt }

/-- One 32-byte slot written at the device's producer index with PHASE (R65, R80). -/
def ringPut (s : State) (r : Nat) (v : Nat) : State :=
  let g := ringOf s r
  let phase := b2n (decide (g.prod.toNat / ringSize g % 2 = 0))
  let s := hostWrite s (ringBase g + 32 * (g.prod.toNat % ringSize g)) (bytesLE 32 (v ||| phase <<< 24))
  modRing s r fun g => { g with prod := g.prod + 1 }

/-! ### Completion records (R77, R78, R80) -/

/-- A record written into its completion ring, CMD_HEAD filled in at that moment (R78). -/
def recordWrite (s : State) (r : Nat) (x : Record) : State :=
  let head := (ringOf s (bits x.bits.toNat 55 48)).cons.toNat
  ringSignal (ringPut s r (x.bits.toNat ||| head <<< 96)) r x.irqNow

/-- A record for completion ring r: written, or held behind those that wait and while CTL is not on, or lost when the ring is
disabled (R77, R104). -/
def recordPush (s : State) (r : Nat) (x : Record) : State :=
  let g := ringOf s r
  if !g.en then modRing s r fun g => { g with lost := satTo 255 (g.lost + 1) }
  else if g.held.isEmpty ∧ 0 < ringFree g ∧ domOn s 1 then recordWrite s r x
  else modRing s r fun g => { g with held := g.held ++ [x] }

/-- Records held for a ring are written while slots are free (R77). -/
def recordDrain : Nat → State → Nat → State
  | 0, s, _ => s
  | n + 1, s, r =>
    match (ringOf s r).held with
    | [] => s
    | x :: xs =>
      if 0 < ringFree (ringOf s r) ∧ domOn s 1 then
        recordDrain n (recordWrite (modRing s r fun g => { g with held := xs }) r x) r
      else s

/-! ### Events (R82–R86, R433) -/

/-- BLOCK of an event code (R433); unit events state their own. -/
def evtBlock (code : Nat) : Nat :=
  match code / 256 with
  | 0 => if code = 0x10 then 0x00 else 0x0D
  | 1 => 0x08
  | 2 => 0x0F
  | 3 => 0x10
  | 8 => if code ≤ 0x0804 then 0x15 else 0x17
  | 9 => 0x16
  | 10 => if 0x0A05 ≤ code ∧ code ≤ 0x0A07 then 0x0B else 0x0C
  | 11 => 0x11
  | 12 => if code = 0x0C04 then 0x03 else 0x02
  | 13 => if code ≤ 0x0D04 then 0x04 else 0x06
  | 14 => 0x07
  | _ => 0x12

/-- The first slot of an event, without PHASE (R82). -/
def evtHead (s : State) (e : Event) : Nat :=
  e.code ||| (1 + e.more.length) <<< 16 ||| (e.cls * 16) <<< 24 ||| e.inst <<< 32 ||| e.block <<< 48 |||
    (todSec s % 2 ^ 32) <<< 64 ||| todNsec s <<< 96 ||| e.data.toNat <<< 128

/-- Continuation slot n of an event, without PHASE (R83). -/
def evtMore (e : Event) (n : Nat) (body : BitVec 224) : Nat :=
  e.code ||| n <<< 16 ||| (e.cls * 16) <<< 24 ||| body.toNat <<< 32

/-- The slots of an event written in order. -/
def evtSlots (s : State) (r : Nat) (e : Event) : State :=
  let s := ringPut s r (evtHead s e)
  (e.more.zipIdx 1).foldl (fun s p => ringPut s r (evtMore e p.2 p.1)) s

/-- The OVERFLOW event of an event ring, if one is due and a slot is free (R85, R86). -/
def evtOverflow (s : State) (r : Nat) : State :=
  let g := ringOf s r
  if g.overflow = 0 ∨ ringFree g = 0 then s
  else
    let s := evtSlots s r ⟨0x0103, 9, r - 32, 0x08, BitVec.ofNat 128 (satTo 0xFFFFFFFF g.overflow), []⟩
    ringSignal (modRing s r fun g => { g with overflow := 0 }) r false

/-- An event posted to one event ring, or lost there (R83, R85). DESIGN CHOICE (log 67): while slots stay free, the OVERFLOW event of a
lost one is posted with the next event or doorbell. -/
def evtTo (e : Event) (s : State) (r : Nat) : State :=
  let s := evtOverflow s r
  let g := ringOf s r
  if ringFree g < 1 + e.more.length then
    modRing s r fun g => { g with lost := satTo 255 (g.lost + 1), overflow := g.overflow + 1 }
  else ringSignal (evtSlots s r e) r false

/-- An event posted to every enabled event ring whose mask includes its class; while CTL is not on, POWER events wait in
a queue of 16 (R85, R346). -/
def postEvent (s : State) (e : Event) : State :=
  if domOn s 1 then
    (List.range 4).foldl (fun s i =>
      if (ringOf s (32 + i)).en && bit (vget s.host.evtMask i 0).toNat e.cls then evtTo e s (32 + i) else s) s
  else if e.cls = 8 then
    if s.pwr.evtq.length < 16 then { s with pwr := { s.pwr with evtq := s.pwr.evtq ++ [e] } }
    else { s with pwr := { s.pwr with evtqLost := satTo 65535 (s.pwr.evtqLost + 1) } }
  else s

/-- An event of one slot whose BLOCK follows from its code (R433). -/
def post (s : State) (code cls inst data : Nat) : State :=
  postEvent s ⟨code, cls, inst, evtBlock code, BitVec.ofNat 128 data, []⟩

/-! ### The life of a command (R71–R78) -/

/-- OPCODE of a descriptor (R72). -/
def dOp (d : Desc) : Nat := bits d.toNat 15 0

/-- Byte b of a descriptor. -/
def dB (d : Desc) (b : Nat) : Nat := bits d.toNat (8 * b + 7) (8 * b)

/-- Two bytes of a descriptor from b. -/
def dH (d : Desc) (b : Nat) : Nat := bits d.toNat (8 * b + 15) (8 * b)

/-- Four bytes of a descriptor from b. -/
def dW (d : Desc) (b : Nat) : Nat := bits d.toNat (8 * b + 31) (8 * b)

/-- Eight bytes of a descriptor from b. -/
def dQ (d : Desc) (b : Nat) : Nat := bits d.toNat (8 * b + 63) (8 * b)

/-- Bytes a to b of a descriptor are all 0. -/
def dZero (d : Desc) (a b : Nat) : Bool := decide (bits d.toNat (8 * b + 7) (8 * a) = 0)

/-- FENCE, QUIET, AT_TICK and IRQ_NOW (R72). -/
def dFence (d : Desc) : Bool := bit d.toNat 16
def dQuiet (d : Desc) : Bool := bit d.toNat 17
def dAtTick (d : Desc) : Bool := bit d.toNat 18
def dIrqNow (d : Desc) : Bool := bit d.toNat 19

/-- TICK of a descriptor: its SYMBOL_ID bits (R72). -/
def dTick (d : Desc) : Nat := bits d.toNat 82 64

/-- The fields every descriptor shares are in range (R72, R73, R74). -/
def dHeadOk (kind : TickKind) (d : Desc) : Bool :=
  decide (dB d 3 = 1) && decide (bits d.toNat 23 20 = 0) && dZero d 6 7 && dZero d 12 15 &&
    (kind == .none || !dAtTick d || (decide (bits d.toNat 95 83 = 0) && tickNames kind (dTick d)))

/-- A refusal, by cause and RESULT. -/
structure Refuse where
  cause : Nat
  result : Nat := 0
  deriving DecidableEq, Repr

/-- The causes of R81 by name. -/
def cMode : Nat := 1
def cDomain : Nat := 2
def cCapacity : Nat := 3
def cTx : Nat := 4
def cMaster : Nat := 5
def cLatency : Nat := 6
def cNoBand : Nat := 7
def cPreempted : Nat := 8
def cOpcode : Nat := 9
def cField : Nat := 10
def cWithdrawn : Nat := 11
def cBusy : Nat := 12
def cHostRead : Nat := 13
def cNotActive : Nat := 14
def cPrecedence : Nat := 15
def cSameRank : Nat := 16
def cRing : Nat := 17
def cAuth : Nat := 18

/-- The first refusal whose condition holds. -/
def firstRefuse : List (Bool × Nat) → Option Refuse
  | [] => none
  | (b, c) :: rest => if b then some ⟨c, 0⟩ else firstRefuse rest

/-- DOMAIN_OFF with its mask, where a domain of the list is not on (R78). -/
def domRefuse (s : State) (ds : List Nat) : Option Refuse :=
  if missing s ds = 0 then none else some ⟨cDomain, missing s ds⟩

/-- A completion record before PHASE and CMD_HEAD (R78). -/
def recordOf (op : Nat) (c : Cmd) (status : Nat) (trunc : Bool) : Record where
  irqNow := dIrqNow c.d
  bits := BitVec.ofNat 256 (
    op ||| c.cause <<< 16 ||| (b2n c.limited * 2 + b2n c.late * 4 + b2n trunc * 8 + status * 16) <<< 24 |||
    dH c.d 4 <<< 32 ||| c.ref.ring.val <<< 48 ||| c.ref.index.toNat <<< 64 |||
    (match c.effect with
      | none => 0
      | some (t, sec) => (t.toNat ||| 1 <<< 19) <<< 128 ||| sec.toNat <<< 160) |||
    c.result.toNat <<< 192)

/-- A command is no longer among those waiting or running. -/
def cmdDrop (s : State) (seq : Nat) : State :=
  { s with host := { s.host with cmds := s.host.cmds.filter fun c => !(c.seq == seq) } }

/-- A command replaced by its changed self. -/
def cmdPut (s : State) (c : Cmd) : State :=
  { s with host := { s.host with cmds := s.host.cmds.map fun x => if x.seq = c.seq then c else x } }

/-- The command a ring place names, if it waits or runs. -/
def cmdOf (s : State) (r : CmdRef) : Option Cmd :=
  (s.host.cmds.find? fun c => c.ref == r && !c.silent).orElse fun _ => s.host.cmds.find? fun c => c.ref == r

/-- A running command. -/
def cmdRuns (c : Cmd) : Bool := match c.stage with
  | .running _ => true
  | _ => false

/-- A command ends: its record goes to the completion ring of its command ring, unless QUIET suppresses it or it was written
before (R71, R74, R77, R104). -/
def cmdEnd (s : State) (c : Cmd) (status : Nat) (trunc : Bool := false) : State :=
  let s := cmdDrop s c.seq
  if c.silent || (dQuiet c.d && status == 0 && !c.limited && !c.late && !trunc) then s
  else recordPush s (16 + (ringOf s c.ref.ring.val).cplRing) (recordOf (dOp c.d) c status trunc)

/-- A command ends DONE, or SUPERSEDED if a setting of it was discarded (R76). -/
def cmdDone (s : State) (c : Cmd) : State :=
  if c.lostTo = 0 then cmdEnd s c 0 else cmdEnd s { c with cause := c.lostTo } 3

/-- A command ends REFUSED: no effect, EFFECT_TICK not valid (R73, R435). -/
def cmdRefuse (s : State) (c : Cmd) (r : Refuse) : State :=
  cmdEnd s { c with cause := r.cause, result := BitVec.ofNat 64 r.result, effect := none, limited := false, late := false } 1

/-- A command named by its ring place ends, with a cause and RESULT; nothing if it no longer waits. -/
def endRef (s : State) (r : CmdRef) (status cause : Nat) (result : Nat := 0) : State :=
  match cmdOf s r with
  | none => s
  | some c => cmdEnd s { c with cause := cause, result := BitVec.ofNat 64 result } status

/-- A command named by its number ends, with a cause and RESULT; nothing if it no longer waits. -/
def endSeq (s : State) (seq : Nat) (status cause : Nat) (result : Nat := 0) : State :=
  match s.host.cmds.find? fun c => c.seq == seq with
  | none => s
  | some c => cmdEnd s { c with cause := cause, result := BitVec.ofNat 64 result } status

/-- A command named by its ring place ends DONE. -/
def doneRef (s : State) (r : CmdRef) (result : Nat := 0) : State :=
  match cmdOf s r with
  | none => s
  | some c => cmdDone s { c with result := BitVec.ofNat 64 result }

/-- EFFECT_TICK and EFFECT_SEC of a change that takes effect now, at symbol k (R78). -/
def effectAt (s : State) (k : Nat) : Option (BitVec 19 × Word) :=
  some (BitVec.ofNat 19 (symId s k), BitVec.ofNat 32 (todSec s))

/-- What the device does with the commands of one opcode. `tick` is the kind of tick its change is bound to (R87),
`check` the refusal checks of R73 and of the owning chapter, `effect` what it does when accepted or at its tick, its own
record included; `keys` are the settings it makes and `strip` takes some of them out (R76). -/
structure CmdDef where
  opcode : Nat
  tick : Cmd → TickKind
  check : State → Cmd → Option Refuse
  effect : State → Cmd → State
  keys : Cmd → List Nat := fun _ => []
  strip : Cmd → List Nat → Cmd := fun c _ => c
  /-- what a refusal also does (R43, R101). -/
  refused : State → Cmd → Refuse → State := fun s _ _ => s
  /-- the tick it is bound to, and whether late (R29, R74), unless its chapter says otherwise. -/
  bind : State → Cmd → Nat × Bool := fun s c => bindTick s (tick c) (dAtTick c.d) (dTick c.d)
  /-- a refusal that goes before every other check (R101). -/
  first : State → Cmd → Option Refuse := fun _ _ => none
  /-- what acceptance of a tick-bound command does at once (R182). -/
  accepted : State → Cmd → State := fun s _ => s

/-- All the checks of a start: shared fields first, then the opcode's own (R71, R73). -/
def cmdCheck (f : CmdDef) (s : State) (c : Cmd) : Option Refuse :=
  (f.first s c).orElse fun _ => if dHeadOk (f.tick c) c.d then f.check s c else some ⟨cField, 0⟩

/-- A command starts: refused, bound to its tick, or carried out (R71 step 4, R29, R74). -/
def cmdStart (f : CmdDef) (s : State) (c : Cmd) : State :=
  let c := { c with acceptAt := s.tb.now }
  match cmdCheck f s c with
  | some r => cmdRefuse (f.refused s c r) c r
  | none =>
    if f.tick c = .none then f.effect (cmdPut s { c with stage := .running none }) { c with stage := .running none }
    else
      let b := f.bind s c
      let c := { c with stage := .bound (f.tick c) b.1 b.2, late := b.2 }
      f.accepted (cmdPut s c) c

/-- Something of the same ring holds a command back: FENCE waits for every earlier command, no command overtakes one that
is held, and a MODE_SET whose flask forms holds all that follow (R46, R74, R75). -/
def cmdHeld (s : State) (c : Cmd) : Bool :=
  s.host.cmds.any fun x => decide (x.seq < c.seq) && decide (x.ref.ring = c.ref.ring) && !x.silent &&
    (dFence c.d || x.stage == .held || (dOp x.d == 0x0010 && x.note.getLsbD 0))

/-- A fetched command enters the list and starts unless something holds it (R71, R74). -/
def cmdFetched (f : CmdDef) (s : State) (r : CmdRef) (d : Desc) : State :=
  let c : Cmd := { ref := r, d := d, seq := s.host.nextSeq }
  let s := { s with host := { s.host with cmds := s.host.cmds ++ [c], nextSeq := s.host.nextSeq + 1 } }
  if cmdHeld s c then s else cmdStart f s c

/-- A descriptor with its OPCODE field set to that of the row it came by. -/
def withOp (op : Nat) (d : Desc) : Desc := BitVec.ofNat 512 (d.toNat / 65536 * 65536 + op)

/-- A command row: dt counts later, the descriptor of that opcode at a ring place starts; with CTL not on the device takes no command
(R37, R71; log 1). -/
def runCmd (f : CmdDef) (dt : Nat) (r : CmdRef) (d : Desc) (s : State) : State :=
  if domOn s 1 then cmdFetched f (arrive dt s) r (withOp f.opcode d) else arrive dt s

/-- A tick-bound change takes effect at symbol k: the command with its EFFECT_TICK (R78). -/
def cmdAtTick (s : State) (c : Cmd) (k : Nat) : Cmd := { c with effect := effectAt s k, stage := .running none }

end Sys2Proof.Machine
end

