-- ==== Sys2Proof/Machine/Sha.lean ====
section
/-! DEFINITION. Checks over bytes: CRC-32 (R384), CRC-32C (R162, R206) and HMAC-SHA-256 (R389). -/

namespace Sys2Proof.Machine

/-- One bit of a reflected CRC with a reversed polynomial. -/
def crcBit (poly c : BitVec 32) : BitVec 32 := if c.getLsbD 0 then (c >>> 1) ^^^ poly else c >>> 1

/-- One byte of a reflected CRC. -/
def crcByte (poly c : BitVec 32) (b : Byte) : BitVec 32 :=
  let x := c ^^^ b.setWidth 32
  crcBit poly (crcBit poly (crcBit poly (crcBit poly (crcBit poly (crcBit poly (crcBit poly (crcBit poly x)))))))

/-- CRC-32: polynomial 0x04C11DB7 reflected, initial and final 0xFFFFFFFF (R384). -/
def crc32 (bs : List Byte) : BitVec 32 := bs.foldl (crcByte 0xEDB88320) 0xFFFFFFFF ^^^ 0xFFFFFFFF

/-- CRC-32C state after more bytes: polynomial 0x1EDC6F41 reflected (R162). -/
def crc32cNext (c : BitVec 32) (bs : List Byte) : BitVec 32 := bs.foldl (crcByte 0x82F63B78) c

/-- CRC-32C of a byte list, initial and final 0xFFFFFFFF. -/
def crc32c (bs : List Byte) : BitVec 32 := crc32cNext 0xFFFFFFFF bs ^^^ 0xFFFFFFFF

/-- Square roots and cube roots of primes give SHA-256 its constants: the n-th prime. -/
def shaPrimes : List Nat := (List.range 312).filter fun n => decide (2 ≤ n) && (List.range n).all fun d => decide (d < 2 ∨ n % d ≠ 0)

/-- The first 32 bits of the fractional part of the k-th root of a number. -/
def shaRoot (k p : Nat) : BitVec 32 :=
  BitVec.ofNat 32 ((List.range 36).foldl (fun r i => let t := r + 2 ^ (35 - i); if t ^ k ≤ p * 2 ^ (32 * k) then t else r) 0)

/-- The eight initial words of SHA-256 (FIPS 180-4). -/
def shaInit : List (BitVec 32) := (shaPrimes.take 8).map (shaRoot 2)

/-- The 64 round constants of SHA-256 (FIPS 180-4). -/
def shaK : List (BitVec 32) := shaPrimes.map (shaRoot 3)

/-- Rotation to the right. -/
def ror (x : BitVec 32) (n : Nat) : BitVec 32 := x.rotateRight n

/-- The message schedule: sixteen words extended to 64, newest first. -/
def shaSched : Nat → List (BitVec 32) → List (BitVec 32)
  | 0, w => w
  | n + 1, w =>
    let a := w.getD 14 0
    let b := w.getD 1 0
    let s0 := ror a 7 ^^^ ror a 18 ^^^ (a >>> 3)
    let s1 := ror b 17 ^^^ ror b 19 ^^^ (b >>> 10)
    shaSched n ((w.getD 15 0 + s0 + w.getD 6 0 + s1) :: w)

/-- One round. -/
def shaRound (h : List (BitVec 32)) (kw : BitVec 32) : List (BitVec 32) :=
  match h with
  | [a, b, c, d, e, f, g, x] =>
    let t1 := x + (ror e 6 ^^^ ror e 11 ^^^ ror e 25) + ((e &&& f) ^^^ (~~~e &&& g)) + kw
    let t2 := (ror a 2 ^^^ ror a 13 ^^^ ror a 22) + ((a &&& b) ^^^ (a &&& c) ^^^ (b &&& c))
    [t1 + t2, a, b, c, d + t1, e, f, g]
  | _ => h

/-- Big-endian words of a byte list. -/
def shaWords : List Byte → List (BitVec 32)
  | a :: b :: c :: d :: rest => BitVec.ofNat 32 (beNat [a, b, c, d]) :: shaWords rest
  | _ => []

/-- One 64-byte block. -/
def shaBlock (h : List (BitVec 32)) (block : List Byte) : List (BitVec 32) :=
  let w := (shaSched 48 (shaWords block).reverse).reverse
  List.zipWith (· + ·) h ((List.zipWith (· + ·) shaK w).foldl shaRound h)

/-- The blocks of a padded message. -/
def shaBlocks : Nat → List (BitVec 32) → List Byte → List (BitVec 32)
  | 0, h, _ => h
  | n + 1, h, bs => if bs.isEmpty then h else shaBlocks n (shaBlock h (bs.take 64)) (bs.drop 64)

/-- SHA-256 as 32 bytes (FIPS 180-4). -/
def sha256 (m : List Byte) : List Byte :=
  let padded := m ++ [0x80#8] ++ List.replicate ((119 - m.length % 64) % 64) 0 ++ bytesBE 8 (8 * m.length)
  (shaBlocks (padded.length / 64 + 1) shaInit padded).flatMap fun w => bytesBE 4 w.toNat

/-- HMAC-SHA-256 with a 32-byte key (RFC 2104). -/
def hmacSha256 (key m : List Byte) : List Byte :=
  let k := key ++ List.replicate (64 - key.length) 0
  sha256 (k.map (· ^^^ 0x5C) ++ sha256 (k.map (· ^^^ 0x36) ++ m))

end Sys2Proof.Machine
end

