-- ==== Sys2Proof/Machine/Flags.lean ====
section
/-! DEFINITION. What the machine computes from its state without changing it: fuses, carriers and bands, synthesiser lock,
the conditions to radiate (WHY), power tokens, duty budget, forced bias outputs and the fault summary. -/

namespace Sys2Proof.Machine

/-! ### Fuses (R393, R394) -/

/-- Fuse bits as loaded at the last power-on reset (R17, R395). -/
def fuse (s : State) (hi lo : Nat) : Nat := bits s.fus.loaded.toNat hi lo

/-- Regulatory lock, protection lock, key-set (R393). -/
def regLock (s : State) : Bool := bit s.fus.loaded.toNat 2616
def protLock (s : State) : Bool := bit s.fus.loaded.toNat 2823
def keySet (s : State) : Bool := bit s.fus.loaded.toNat 2831

/-- PATH_MAX in effect, 1/64 dBm (R394). -/
def pathMax (s : State) : Int :=
  if fuse s 2575 2560 = 0 ∧ !regLock s then 512 else sx 16 (fuse s 2575 2560)

/-- The token pool: fused summed maximum in effect, µW (R248, R394). -/
def tokenPool (s : State) : Nat :=
  if fuse s 2607 2576 = 0 ∧ !regLock s then 403840 else fuse s 2607 2576

/-- DUTY_MAX code (R394). -/
def dutyMax (s : State) : Nat := fuse s 2615 2608

/-- Permitted window w: F_LO and F_HI, kHz (R254, R393). -/
def windowOf (s : State) (w : Nat) : Nat × Nat := (fuse s (2048 + 64 * w + 31) (2048 + 64 * w), fuse s (2048 + 64 * w + 63) (2048 + 64 * w + 32))

/-- Quench limit of remote-sense input j, °C; 0 not monitored (R367, R393). -/
def quenchLimit (s : State) (j : Nat) : Nat := fuse s (2688 + 8 * j + 7) (2688 + 8 * j)

/-- Span n may be selected for gate (aux = false) or auxiliary outputs (R394). -/
def spanPermitted (s : State) (aux : Bool) (n : Nat) : Bool :=
  decide (n ≤ 2) && !bit s.fus.loaded.toNat (2816 + (if aux then 3 else 0) + n)

/-- The fused transmit permission (R394). -/
def txPermit (s : State) : Bool := !bit s.fus.loaded.toNat 2822

/-- NOTX high or the permission absent (GEN_STATUS.TX_BARRED, R51). -/
def txBarred (s : State) : Bool := s.gen.notx || !txPermit s

/-- Default band b: centre in kHz and span in MHz (R58, R393). -/
def bandOf (s : State) (b : Nat) : Nat × Nat := (fuse s (1536 + 64 * b + 31) (1536 + 64 * b), fuse s (1536 + 64 * b + 47) (1536 + 64 * b + 32))

/-- The BOOTBAND entry (R58). -/
def bootBand (s : State) : Nat × Nat := bandOf s s.gen.bootband

/-- It counts as blank (R58). -/
def bandBlank (s : State) : Bool :=
  let b := bootBand s
  decide (b.1 = 0 ∨ b.1 < 600000 ∨ 6925000 < b.1 ∨ b.2 = 0 ∨ 400 < b.2)

/-- Heat Book tally bits programmed (R391). -/
def tallyCount (a : BitVec 4096) : Nat := (setBits 64 (bits a.toNat 2943 2880)).length

/-! ### Carriers (R58, R233, R254) -/

/-- Carrier c's block. -/
def carrierOf (s : State) (c : Nat) : Carrier := vget s.air.cc c {}

/-- Carrier c's mode set. -/
def setOf (s : State) (c : Nat) : Nat := (vget s.mod.cc c ⟨0, 0, 0⟩).set.toNat

/-- One bit of a mode set: 0 AST, 1 STREAM, 2 BFS, 3 FLK, 4 ANL, 5 HLD. -/
def hasMode (s : State) (c b : Nat) : Bool := bit (setOf s c) b

/-- The span centre: set by CARRIER_CFG, else the default band's (R58). -/
def spanCentre (s : State) : Option Nat :=
  match s.air.spanKhz with
  | some k => some k
  | none => if bandBlank s then none else some (bootBand s).1

/-- The centre frequency of a carrier, kHz, if it has one (R58). -/
def centreOf (s : State) (c : Nat) : Option Int :=
  match s.air.spanKhz with
  | some k => if (carrierOf s c).nprb = 0 then none else some ((k : Int) + (carrierOf s c).ofsKhz)
  | none => if c = 0 ∧ !bandBlank s then some ((bootBand s).1 : Int) else none

/-- Half the occupied bandwidth of a carrier, kHz (R58, R254). -/
def halfBand (s : State) (c : Nat) : Int :=
  match s.air.spanKhz with
  | some _ => 500 * (carrierOf s c).bwMhz
  | none => 500 * (bootBand s).2

/-- A band [lo, hi] in kHz lies inside a permitted window (R254). -/
def bandPermitted (s : State) (lo hi : Int) : Bool :=
  if (List.range 8).all fun w => decide ((windowOf s w).2 = 0) then
    !regLock s && decide (400000 ≤ lo ∧ hi ≤ 7125000)
  else (List.range 8).any fun w =>
    decide ((windowOf s w).2 ≠ 0 ∧ ((windowOf s w).1 : Int) ≤ lo ∧ hi ≤ (windowOf s w).2)

/-- A carrier lies inside a permitted window; one without a centre does not (R254). -/
def windowOk (s : State) (c : Nat) : Bool :=
  match centreOf s c with
  | none => false
  | some f => bandPermitted s (f - halfBand s c) (f + halfBand s c)

/-- The carrier is suspended under R229: its member is suspended, or aligning again while FLK is in force. -/
def suspended (s : State) (c : Nat) : Bool := hasMode s c 3 && (s.run.state == .suspended || (s.run.state == .aligning && !s.gen.master))

/-- The carrier is paused: suspended under R229, or not yet resumed after REF_LOST (R294). -/
def paused (s : State) (c : Nat) : Bool := suspended s c || s.mod.refHeld

/-- The carrier contributes to the transmit signal (R233). -/
def contributes (s : State) (c : Nat) : Bool := (hasMode s c 1 || hasMode s c 2) && windowOk s c && !paused s c

/-- The carrier carries downlink traffic: AST STREAM or BFS (R44). -/
def carriesDl (set : Nat) : Bool := bit set 1 || bit set 2

/-! ### Synthesisers (R297, R298, R301) -/

/-- The synthesiser that serves quad q (R301). -/
def synOf (s : State) (q : Nat) : Nat := if s.syn.serves = q then 4 else q

/-- Synthesiser n. -/
def synthOf (s : State) (n : Nat) : Synth := vget s.syn.synth n {}

/-- The quad's synthesiser reports lock, and its output k is enabled (R297: a disabled output counts as unlocked). -/
def quadLocked (s : State) (q k : Nat) : Bool :=
  let y := synthOf s (synOf s q)
  decide (y.state = .locked) && bit y.outEn.toNat k && s.syn.pllLocked && clkOn s

/-- Every synthesiser of a quad that is on reports lock (R47). -/
def synsLocked (s : State) : Bool :=
  (List.range 4).all fun q => !domOn s (10 + q) ||
    (decide ((synthOf s (synOf s q)).state = .locked) && s.syn.pllLocked && clkOn s)

/-- The carriers may resume after REF_LOST: every synthesiser in use reports lock (R294). -/
def refReady (s : State) : Bool :=
  s.syn.pllLocked && clkOn s && (List.range 4).all fun q => !domOn s (10 + q) || (synthOf s (synOf s q)).retired ||
    decide ((synthOf s (synOf s q)).state = .locked)

/-- An update of the synthesiser of quad q is due at the tick of symbol k, so the quad counts as settling at that symbol's lock
check (R298): a CARRIER_CFG that sets the span, or a SYN_CFG that names its synthesiser or moves the spare to or from it. -/
def quadSettling (s : State) (q k : Nat) : Bool :=
  s.host.cmds.any fun c => (match c.stage with
    | .bound _ t _ => t == k
    | _ => false) && ((dOp c.d == 0x0020 && bit (dB c.d 16) 0) ||
      (dOp c.d == 0x0021 && (if dB c.d 16 = 1 then dB c.d 18 == q || s.syn.serves == q else dB c.d 17 == synOf s q)))

/-- The quad's synthesiser counts as locked at the lock check of symbol k: locked and not settling (R298). -/
def quadReady (s : State) (q out k : Nat) : Bool := quadLocked s q out && !quadSettling s q k

/-! ### Transmit (R232, R247, R248) -/

/-- Path p. -/
def txOf (s : State) (p : Nat) : TxPath := vget s.tx.path p {}

/-- A path's linearisation. -/
def dpdOf (s : State) (p : Nat) : Dpd := vget s.tx.dpd p {}

/-- The WHY bits that describe the present state: 0 DISABLED … 6 QUENCH (R232). -/
def whyNow (s : State) (p : Nat) : Nat :=
  let t := txOf s p
  b2n (!t.en || !domOn s 9) + 2 * b2n t.mute + 4 * b2n s.gen.notx + 8 * b2n (!txPermit s) + 16 * b2n t.retiredNow +
    32 * b2n t.regOver + 64 * b2n s.thm.quench

/-- TXP_STAT.WHY (R232): DUTY, LATE_LO and COX describe the last symbol. -/
def whyOf (s : State) (p : Nat) : Nat :=
  let t := txOf s p
  whyNow s p + 128 * b2n t.duty + 256 * b2n t.lateLo + 512 * b2n t.cox

/-- The path belongs to runs: enabled and not muted for HOST, NOTX, FUSE, RETIRED, REG_OVER or QUENCH (R257, R259). -/
def inRuns (s : State) (p : Nat) : Bool := decide (whyNow s p = 0) && domOn s (10 + p / 16)

/-- t µW is at least 1,000 × 10^(c/640) µW (R248). -/
def tokEnough (t : Nat) (c : Int) : Bool :=
  if 0 ≤ c then decide (1000 ^ 640 * 10 ^ c.toNat ≤ t ^ 640) else decide (1000 ^ 640 ≤ t ^ 640 * 10 ^ (-c).toNat)

/-- The least number in (lo, lo + 2^n] with a property that rises, when lo lacks it (binary search). -/
def leastAbove (p : Nat → Bool) : Nat → Nat → Nat
  | lo, 0 => lo + 1
  | lo, n + 1 => if p (lo + 2 ^ n) then leastAbove p lo n else leastAbove p (lo + 2 ^ n) n

/-- tok(c): the tokens of a code, µW (R248). -/
def tok (c : Int) : Nat := leastAbove (fun t => tokEnough t c) 0 20

/-- Tokens a path holds: those of EFF while enabled and not retired (R248). -/
def tokHeld (s : State) (p : Nat) : Nat :=
  let t := txOf s p
  if t.en && !t.retiredNow then tok t.eff else 0

/-- The sum of the held tokens, µW. -/
def tokSum (s : State) : Nat := (List.range 64).foldl (fun n p => n + tokHeld s p) 0

/-- Highest mean output at a carrier centre in kHz, 1/64 dBm (R409). -/
def achievableAt (khz : Int) : Int :=
  if khz < 1000000 then 640 else if khz < 3000000 then 576 else if khz < 4200000 then 512
  else if khz < 6000000 then 448 else 352

/-- ACHIEVABLE: the lowest over the contributing carriers, else that at the span centre (R247). -/
def achievable (s : State) : Int :=
  match (if contributes s 0 then (centreOf s 0).toList else []) ++ (if contributes s 1 then (centreOf s 1).toList else []) with
  | [] => match spanCentre s with
    | some k => achievableAt k
    | none => 640
  | l => l.foldl (fun a f => min a (achievableAt f)) 640

/-- COMP as a code, 1/64 dB (R251). -/
def compCode (s : State) (p : Nat) : Int := (txOf s p).comp / 16

/-- The ceiling in force for a path: CEIL of its group since the last slot tick (R249, R364). -/
def ceilOf (s : State) (p : Nat) : Int := (vget s.thm.group (p / 8) {}).ceilNow

/-- SET + COMP (R247). -/
def wantFree (s : State) (p : Nat) : Int := (txOf s p).set + compCode s p

/-- want(p) of R249. -/
def want (s : State) (p : Nat) : Int := min (min (wantFree s p) (pathMax s)) (min (ceilOf s p) (achievable s))

/-- Downlink symbols of one slot of a pattern code. -/
def dlOfCode (s : State) (c : Nat) : Nat := if c = 0 then 14 else if c = 2 then s.air.sDl else 0

/-- Downlink symbols of one pattern period (R255). -/
def dlPerPeriod (s : State) : Nat :=
  (List.range s.air.period).foldl (fun n i => n + dlOfCode s (bits s.air.slots.toNat (2 * i + 1) (2 * i))) 0

/-- The duty budget B in downlink symbols per period; without a limit all N (R255, R394). -/
def dutyBudget (s : State) : Nat :=
  if dutyMax s = 0 then 14 * s.air.period else dutyMax s * (14 * s.air.period) / 256

/-- Symbol k opens a pattern period. -/
def periodStart (s : State) (k : Nat) : Bool :=
  decide (k % 14 = 0 ∧ s.air.period ≠ 0 ∧ (20 * frameOf s k + k / 14 % 20) % s.air.period = 0)

/-! ### Coexistence (R56, R257) -/

/-- Pair i. -/
def coxOf (s : State) (i : Nat) : Cox := vget s.tx.cox i {}

/-- Pair i works: enabled, and not pair 3 while its lands show HLD status (R56). -/
def coxOn (s : State) (i : Nat) : Bool := (coxOf s i).en && !(i == 3 && bit s.mod.pinfn.toNat 2)

/-- The grant of pair i after polarity (CXG_LIVE.GRANT). -/
def coxGranted (s : State) (i : Nat) : Bool := (coxOf s i).grantLand != (coxOf s i).gntPol

/-- Paths that a withheld grant mutes. -/
def coxWithheld (s : State) : Nat :=
  (List.range 4).foldl (fun m i => if coxOn s i && !coxGranted s i then m ||| (coxOf s i).paths.toNat else m) 0

/-- The FAN land of fan n is assigned to Link Test (R56). -/
def fanTest (s : State) (n : Nat) : Bool := (n == 2 && bit s.mod.pinfn.toNat 0) || (n == 3 && bit s.mod.pinfn.toNat 1)

/-! ### Bias (R372) -/

/-- Only the supervision set works: no clock after REF_LOST, or no domain but AON on (R36, R293). -/
def supervised (s : State) : Bool := s.syn.refLost || (List.range 14).all fun d => d == 0 || !domOn s d

/-- Output o shows code 0 whatever its stored code (R36, R372). -/
def biasForced (s : State) (o : Nat) : Bool :=
  let all := txBarred s || s.thm.quench || supervised s
  if o < 64 then
    let t := txOf s o
    all || t.retiredNow || !t.en || !domOn s (10 + o / 16)
  else all

/-! ### Retirements and the fault summary (R378, R380) -/

/-- Paths retired and in effect. -/
def retiredMask (s : State) : Nat := maskOf ((List.range 64).filter fun p => (txOf s p).retiredNow)

/-- A lane's power domain. -/
def laneDom (l : Nat) : Nat := if l < 8 then 4 else if l < 16 then 5 else 6

/-- Lane l. -/
def laneOf (s : State) (l : Nat) : Lane := vget s.lanes.lane l {}

/-- Sensor i. -/
def sensorOf (s : State) (i : Nat) : Sensor := vget s.thm.sense i {}

/-- Pot i. -/
def potOf (s : State) (i : Nat) : Pot := vget s.cru.pot i {}

/-- Receive path p. -/
def rxOf (s : State) (p : Nat) : RxPath := vget s.rx.path p {}

/-- A unit has a retry running (R376, R380). -/
def retrying (s : State) : Bool :=
  (List.range 64).any (fun p => (dpdOf s p).retryAt.isSome) ||
  (List.range 8).any (fun i => (potOf s i).testing || (potOf s i).state == 1) ||
  (List.range 40).any (fun l => (laneOf s l).retryAt.isSome || (match (laneOf s l).attempt with
    | some a => a.kind == .retry
    | none => false)) ||
  (List.range 5).any (fun n => (synthOf s n).retryAt.isSome ||
    ((synthOf s n).attemptAt.isSome && decide (0 < (synthOf s n).faults.length))) ||
  (!s.syn.pllLocked && !s.syn.pllRetired && decide (0 < s.syn.pllFaults.length)) ||
  (List.range 24).any (fun i => (sensorOf s i).broken && !(sensorOf s i).retired)

/-- HBK_FAULT_SUM (R380). -/
def faultSum (s : State) : Nat :=
  b2n ((List.range 64).any fun p => (txOf s p).retired) +
  2 * b2n ((List.range 8).any fun i => (potOf s i).retired) +
  4 * b2n ((List.range 40).any fun l => (laneOf s l).retired) +
  8 * b2n ((List.range 5).any fun n => (synthOf s n).retired) +
  16 * b2n s.syn.pllRetired +
  32 * b2n ((List.range 24).any fun i => (sensorOf s i).retired) +
  64 * b2n s.hb.fail + 128 * b2n s.pwr.bankSpoiled + 256 * b2n (s.anl.state == .blocked) +
  512 * b2n s.syn.refLost + 1024 * b2n (retrying s)

/-- FAULT_N is driven low (R380). -/
def faultN (s : State) : Bool := decide (faultSum s &&& s.hb.faultnEn.toNat ≠ 0)

/-- This member takes its timing from the master: ALIGNING or IN_SERVICE and not the master (R290, R310). -/
def flaskTimed (s : State) : Bool := (s.run.state == .aligning || s.run.state == .inService) && !s.gen.master

/-- A cascade side: 0 Cope, 1 Drag. -/
def sideOf (s : State) (d : Nat) : Side := vget s.run.side d {}

/-- The side on which the master lies, by the BEATs received (R203). -/
def masterSide (s : State) : Option Nat :=
  if (sideOf s 0).masterBeyond then some 0 else if (sideOf s 1).masterBeyond then some 1 else none

/-- The side on which another member lies: by its position where it has been heard of, else the master-facing side, as the reports
of the members beyond come from the far side (R203, R210; log 49). -/
def memberSide (s : State) (id : Nat) : Option Nat :=
  match s.run.members.find? fun m => m.1 == id with
  | some m => some (if m.2 < s.run.position then 0 else 1)
  | none => masterSide s

/-- Some carrier is in BFS. -/
def anyBfs (s : State) : Bool := hasMode s 0 2 || hasMode s 1 2

/-- Some carrier has FLK in force. -/
def anyFlk (s : State) : Bool := hasMode s 0 3 || hasMode s 1 3

/-- The lanes named by the LTS masks (R39): FH lanes, then Cope, then Drag. -/
def ltsMask (s : State) : Nat := s.mod.ltsFh.toNat ||| s.mod.ltsCx.toNat <<< 16

/-- Lane l is in LTS. -/
def inLts (s : State) (l : Nat) : Bool := bit (ltsMask s) l

/-- The lane is UP: it shows state UP, not LTS (R112, R118). -/
def laneIsUp (s : State) (l : Nat) : Bool := (laneOf s l).state == .up && !(laneOf s l).retired && !inLts s l

/-- The lane whose recovered clock is the cascade reference: the lowest-numbered UP lane of the master-facing side (R213). -/
def cascadeLane (s : State) : Option Nat :=
  (masterSide s).bind fun d => ((List.range 12).map (16 + 12 * d + ·)).find? (laneIsUp s)

end Sys2Proof.Machine
end

