-- ==== Sys2Proof/Machine/Units.lean ====
section
/-! DEFINITION. Updates of one path, lane, synthesiser and so on, the unit faults and retirements of R376–R378, the Heat
Book's counts and failures, and the transmit lines, tokens and bias outputs that every family uses. -/

namespace Sys2Proof.Machine

/-! ### One element changed -/

def modTx (s : State) (p : Nat) (f : TxPath → TxPath) : State := { s with tx := { s.tx with path := vmod s.tx.path p f } }
def modDpd (s : State) (p : Nat) (f : Dpd → Dpd) : State := { s with tx := { s.tx with dpd := vmod s.tx.dpd p f } }
def modCox (s : State) (i : Nat) (f : Cox → Cox) : State := { s with tx := { s.tx with cox := vmod s.tx.cox i f } }
def modRx (s : State) (p : Nat) (f : RxPath → RxPath) : State := { s with rx := { s.rx with path := vmod s.rx.path p f } }
def modOrx (s : State) (i : Nat) (f : OrxArb → OrxArb) : State := { s with rx := { s.rx with orx := vmod s.rx.orx i f } }
def modLane (s : State) (l : Nat) (f : Lane → Lane) : State :=
  { s with lanes := { s.lanes with lane := vmod s.lanes.lane l f } }
def modSynth (s : State) (n : Nat) (f : Synth → Synth) : State := { s with syn := { s.syn with synth := vmod s.syn.synth n f } }
def modPot (s : State) (i : Nat) (f : Pot → Pot) : State := { s with cru := { s.cru with pot := vmod s.cru.pot i f } }
def modSensor (s : State) (i : Nat) (f : Sensor → Sensor) : State :=
  { s with thm := { s.thm with sense := vmod s.thm.sense i f } }
def modGroup (s : State) (i : Nat) (f : Group → Group) : State :=
  { s with thm := { s.thm with group := vmod s.thm.group i f } }
def modFan (s : State) (i : Nat) (f : Fan → Fan) : State := { s with thm := { s.thm with fan := vmod s.thm.fan i f } }
def modBias (s : State) (o : Nat) (f : BiasOut → BiasOut) : State :=
  { s with bias := { s.bias with out := vmod s.bias.out o f } }
def modModCc (s : State) (c : Nat) (f : ModCc → ModCc) : State := { s with mod := { s.mod with cc := vmod s.mod.cc c f } }
def modSide (s : State) (d : Nat) (f : Side → Side) : State := { s with run := { s.run with side := vmod s.run.side d f } }
def modCh (s : State) (c : Nat) (f : LdlCh → LdlCh) : State := { s with ldl := { s.ldl with ch := vmod s.ldl.ch c f } }
def modFb (s : State) (c : Nat) (f : AsyFb → AsyFb) : State := { s with ldl := { s.ldl with fb := vmod s.ldl.fb c f } }
def modCmp (s : State) (k : Nat) (f : Cmp → Cmp) : State := { s with hka := { s.hka with cmp := vmod s.hka.cmp k f } }
def modCorr (s : State) (p : Nat) (f : AnlCorr → AnlCorr) : State := { s with anl := { s.anl with corr := vmod s.anl.corr p f } }

/-- A channel a command names is busy (R97, R101). -/
def channelBusy (s : State) (ch : Nat) : Option Refuse :=
  if (vget s.ldl.ch (ch % 8) {}).move.isSome then some ⟨cBusy, 0⟩ else none

/-- A refused move is a move of the idle channel that it names, with a valid count of 0 (R101). -/
def moveRefused (s : State) (ch : Nat) (c : Cmd) (r : Refuse) : State :=
  if r.cause = cBusy then s
  else
    let s := modCh s (ch % 8) fun x => { x with
      trunc := false, eoc := true, cause := BitVec.ofNat 8 r.cause, tag := BitVec.ofNat 16 (dH c.d 4), count := 0 }
    signal s (vget s.ldl.ch (ch % 8) {}).vector

/-- Something done for each number below n. -/
def forAll (n : Nat) (s : State) (f : State → Nat → State) : State := (List.range n).foldl f s

/-- Something done for each set bit below n of a mask. -/
def forBits (n mask : Nat) (s : State) (f : State → Nat → State) : State := (setBits n mask).foldl f s

/-- CP(s) of symbol k, counts (R273). -/
def cpOf (k : Nat) : Nat := if k % 14 = 0 then 1408 else 1152

/-- Samples of a path from one port time to another are zero and settling (R277). -/
def settle (s : State) (p lo hi : Nat) : State := modRx s p fun r => { r with settles := r.settles ++ [(lo, hi)] }

/-- New coefficients of a receive path fade in from the present tick on; the fade ends before the first FFT window (R274). -/
def fadeStart (s : State) (p : Nat) : State :=
  modRx s p fun r => { r with fade := min ([0, 64, 256, 1024].getD r.xf 0) (cpOf (symNow s) - s.rx.winAdv) }

/-! ### Heat Book counts, last gasp and failures (R383, R384, R391, R392) -/

/-- One COUNTS word counts up (R384). -/
def hbCount (s : State) (i : Nat) : State :=
  { s with hb := { s.hb with counts := vmod s.hb.counts i fun n => satTo 0xFFFFFFFF (n + 1) } }

/-- Lane errors of the running operating hour: LANE_DOWN events, uncorrectable codewords, discarded Pour frames (R385). -/
def laneErr (s : State) (l : Nat) : State := modLane s l fun x => { x with hourErr := satTo 0x7FFF (x.hourErr + 1) }

/-- Operating hours in 1/16 h: programmed bits and the fraction AON holds (R383, R384). -/
def hours16 (s : State) : Nat := 16 * s.hb.hours + min 15 ((s.tb.now - s.hb.hourFrom) / 110592000000)

/-- One last-gasp entry, or a lost one once 16 are held (R392). -/
def lgAdd (s : State) (kind code off : Nat) (data : BitVec 128) : State :=
  if s.hb.lg.length < 16 then
    { s with hb := { s.hb with lg := s.hb.lg ++ [⟨s.hb.heat, hours16 s, kind, code, off, data⟩] } }
  else { s with hb := { s.hb with lgLost := satTo 0xFFFF (s.hb.lgLost + 1) } }

/-- While HB_FAIL is set, a retirement, Quench or BANK_SPOILED event enters the last-gasp file (R392). -/
def lgEvent (s : State) (code : Nat) (data : Nat) : State :=
  if s.hb.fail then lgAdd s 5 code 0 (BitVec.ofNat 128 data) else s

/-- The next tally bit is programmed, until all 64 are (R391). -/
def tallyProgram (a : BitVec 4096) : BitVec 4096 :=
  match (List.range 64).find? fun i => !bit a.toNat (2880 + i) with
  | none => a
  | some i => a ||| (1#4096 <<< (2880 + i))

/-- A failure of the Heat Book memory (R391): kind of R392, cause of HBK_STAT, flash offset, first bytes. -/
def hbFailure (s : State) (kind cause off : Nat) (data : BitVec 128) : State :=
  let s := lgAdd s kind 0 off data
  let s := { s with fus := { s.fus with array := tallyProgram s.fus.array }, hb := { s.hb with fail := true, cause := cause } }
  post s 0x0E12 10 0xFFFF (kind ||| off <<< 32)

/-! ### Unit faults and retirements (R376–R378, R396) -/

/-- The faults of a list that are less than 60 s old (R377). -/
def recent (now : Nat) (l : List Nat) : List Nat := l.filter fun t => decide (now - t < 29491200000)

/-- A unit event: BLOCK by its type (R433): 0 path, 1 pot, 2 lane, 3 synthesiser or PLL, 4 sensor. -/
def postUnit (s : State) (code ty inst data : Nat) : State :=
  postEvent s ⟨code, 0, inst, [0x15, 0x0F, 0x0D, 0x0C, 0x04].getD ty 0, BitVec.ofNat 128 (ty ||| data <<< 8), []⟩

/-- COUNTS word of a unit's retirements (R384). -/
def retireWord (ty inst : Nat) : Nat :=
  match ty with
  | 0 => 1
  | 1 => 2
  | 2 => if inst < 16 then 3 else 4
  | 3 => if inst = 5 then 6 else 5
  | _ => 7

/-- Every retirement: UNIT_RETIRED, the Heat Book's count, and the last-gasp file (R378, R392). -/
def noteRetired (s : State) (ty inst by_ : Nat) : State :=
  let s := postUnit s 0x0E02 ty inst by_
  lgEvent (hbCount s (retireWord ty inst)) 0x0E02 (ty ||| by_ <<< 8)

/-- A transient fault: UNIT_FAULT with the count after it, counted in the Heat Book (R377, R384). -/
def noteFault (s : State) (ty inst n : Nat) : State :=
  hbCount (postUnit s 0x0E01 ty inst (n ||| symIdNow s <<< 24)) 0

/-- A path becomes permanent; the retirement takes effect at the next slot tick (R378, R379). -/
def retirePath (s : State) (p by_ : Nat) : State :=
  noteRetired (modDpd (modTx s p fun t => { t with retired := true }) p fun d => { d with retryAt := none }) 0 p by_

/-- A fault of a path: transient up to three in 60 s, then permanent (R377). -/
def pathFault (s : State) (p : Nat) : State :=
  if (txOf s p).retired then s
  else
    let l := recent s.tb.now (txOf s p).faults
    if l.length < 3 then
      noteFault (modTx s p fun t => { t with faults := s.tb.now :: l }) 0 p (l.length + 1)
    else retirePath (modTx s p fun t => { t with faults := l }) p 1

/-! ### Transmit lines, tokens and bias outputs -/

/-- T_TR_OFF, T_PA_OFF, T_TR and T_PA of the line timing in force, counts (R259). -/
def tTrOff (s : State) : Nat := 16 * bits s.tx.linesNow.toNat 31 24
def tPaOff (s : State) : Nat := 16 * bits s.tx.linesNow.toNat 23 16
def tTr (s : State) : Nat := 16 * bits s.tx.linesNow.toNat 15 8
def tPa (s : State) : Nat := 16 * bits s.tx.linesNow.toNat 7 0

/-- A path's lines leave their run at once: PAEN inactive, TRSW to receive T_TR_OFF − T_PA_OFF counts later (R260). -/
def pathCut (s : State) (t : TxPath) : TxPath :=
  { t with
    paen := false, trswTx := false, radiating := false, paenOff := 0
    trswOff := if t.trswTx then s.tb.now + (tTrOff s - tPaOff s) else t.trswOff }

/-- The runs of the chosen paths end now: the lines at rest, nothing sent, LNA protect and blanking for the lag of a run's end
(R260, R279, R280). -/
def linesIdle (s : State) (chosen : Nat → Bool) : State :=
  { s with
    tx := { s.tx with path := vall s.tx.path (fun p t => if chosen p then { pathCut s t with inRun := false } else t) }
    rx := { s.rx with path := vall s.rx.path fun p r => if chosen p then
        { r with
          lnap := false
          blankUntil := if (txOf s p).inRun then s.tb.now + tTrOff s + 16 * s.rx.lpLag + 16 * s.rx.recov else r.blankUntil }
      else r } }

/-- PAEN inactive and nothing sent for the rest of the symbol; TRSW follows (R260). -/
def linesCut (s : State) (chosen : Nat → Bool) : State :=
  { s with tx := { s.tx with path := vall s.tx.path fun p t => if chosen p then pathCut s t else t } }

/-- Path p radiates in the next symbol, by its last lock check and the path's present state (R232). -/
def willRadiate (s : State) (p : Nat) : Bool :=
  let k := s.tb.airNext
  tbOn s && s.tx.checkedSym == some k && isDl s k && inRuns s p && vget s.tx.lockOk (p / 16) false && !s.tx.dutyCut &&
    !bit s.tx.coxCut.toNat p

/-- Paths that may inject: every continuous condition of R232 holds (R320). -/
def anlInjects (s : State) (p : Nat) : Bool := (txOf s p).en && !(txOf s p).regOver && !s.thm.quench && !txBarred s

/-- The injection frame at the present count (R319). -/
def frameNow (s : State) : Option Nat :=
  if s.tb.now < s.anl.gpAt + 1536 ∨ s.anl.gpAt + 1536 + 2048 * s.anl.gpN ≤ s.tb.now then none
  else some (s.anl.gpFrom + (s.tb.now - s.anl.gpAt - 1536) / 2048)

/-- The edge paths of a side that take part: the eight lowest-numbered ones (R335). -/
def edgePaths (s : State) (d : Nat) : List Nat := (setBits 64 (vget s.anl.edge d 0).toNat).take 8

/-- Path p is the one that an edge measurement lets this device inject in frame k: the member in the lower position, whose neighbour
lies on its Drag side, in frames 0 to 7, the other in 8 to 15 (R335). -/
def edgeTurn (s : State) (d k p : Nat) : Bool :=
  let n := if d = 1 then k else k - 8
  (d == 1 || decide (8 ≤ k)) && (edgePaths s d)[n]? == some p

/-- Path p belongs to the measurement in progress: it injects or listens (R320, R335). -/
def measures (s : State) (p : Nat) : Bool :=
  !(txOf s p).retiredNow && (match s.anl.run with
    | some r => bit r.paths.toNat p
    | none => s.anl.partner.isSome)

/-- Path p injects in frame k of the measurement in progress, while its LO is there (R320, R327, R335). -/
def injectsIn (s : State) (k p : Nat) : Bool :=
  measures s p && anlInjects s p && quadLocked s (p / 16) 0 && (match s.anl.run with
    | some r => match r.edge with
      | none => p % 16 == k
      | some d => edgeTurn s d.val k p
    | none => match s.anl.partner with
      | some d => edgeTurn s d.val k p
      | none => false)

/-- Path p injects at the present count. -/
def injecting (s : State) (p : Nat) : Bool :=
  match frameNow s with
  | some k => injectsIn s k p
  | none => false

/-- Path p listens at the present count: in a frame of a measurement it takes part in without injecting (R320). -/
def listening (s : State) (p : Nat) : Bool := (frameNow s).isSome && measures s p && !injecting s p

/-- PAEN of path p is active at the present count: in a symbol that it sends, T_PA before one and T_PA_OFF after one, and in a frame
that it injects (R259, R320). -/
def paenLine (s : State) (p : Nat) : Bool :=
  let t := txOf s p
  t.paen || decide (s.tb.now < t.paenOff) || (willRadiate s p && decide (tickT s s.tb.airNext ≤ s.tb.now + tPa s)) || injecting s p

/-- A run of path p begins or goes on at the next symbol tick, at most that many counts away (R259). -/
def runAhead (s : State) (p lead : Nat) : Bool :=
  tbOn s && isDl s s.tb.airNext && inRuns s p && decide (tickT s s.tb.airNext ≤ s.tb.now + lead)

/-- TRSW of path p is in the transmit position at the present count; in receive while it listens to injections (R259, R260, R320). -/
def trswLine (s : State) (p : Nat) : Bool :=
  let t := txOf s p
  injecting s p || (!listening s p && (t.trswTx || decide (s.tb.now < t.trswOff) || runAhead s p (tTr s)))

/-- The interval of R279 of a transmit run of path p holds the present count: the run with its lead and lag. -/
def runProtects (s : State) (p : Nat) : Bool :=
  (txOf s p).inRun || decide (s.tb.now + 16 * s.rx.recov < (rxOf s p).blankUntil) || runAhead s p (tTr s + 16 * s.rx.lpLead)

/-- The LNA protect line of path p is active at the present count (RXP_PROT.ACTIVE): for a run with its lead and lag, for an
overload, or while the path injects; a path that listens to injections has it inactive but for an overload (R279, R281, R320). -/
def lnapActive (s : State) (p : Nat) : Bool :=
  let r := rxOf s p
  injecting s p || r.ovl || (!listening s p && (r.lnap || runProtects s p))

/-- The levels of the PAEN, TRSW and LNAP lands of path p, after their polarities; none where its quad is off and they float
(R260). -/
def lineLevels (s : State) (p : Nat) : Option (Bool × Bool × Bool) :=
  let pol := (txOf s p).pol.toNat
  if vget s.pwr.dom (10 + p / 16) .off = .off then none
  else some (paenLine s p != bit pol 0, trswLine s p != bit pol 1, lnapActive s p != bit pol 2)

/-- The bias outputs show what R372 lets them show: a forced output code 0 at once; one that is no longer forced keeps
what it shows until an air symbol tick. -/
def biasForce (s : State) : State :=
  { s with bias := { s.bias with out := vall s.bias.out fun o b => if biasForced s o then { b with shown := 0 } else b } }

/-- At an air symbol tick every output that is not forced shows its stored code (R372). -/
def biasShow (s : State) : State :=
  { s with bias := { s.bias with out := vall s.bias.out (fun o b =>
      { b with shown := if biasForced s o then 0 else b.code }) } }

/-- EFF of one path settled to a code. -/
def setEff (s : State) (p : Nat) (c : Int) : State := modTx s p fun t => { t with eff := c }

/-- The path holds tokens (R248). -/
def holdsTok (s : State) (p : Nat) : Bool := (txOf s p).en && !(txOf s p).retiredNow

/-- The highest code in [lo, hi] whose tokens are within a grant; lo stands for it where none is higher (R249). -/
def highestCode (grant : Nat) (lo hi : Int) : Int :=
  lo + (leastAbove (fun n => !tokEnough grant (lo + n)) 0 12 : Nat) - 1 |> min hi

/-- One batch of R249 over the paths of a mask: decreases first, then increases out of the free pool. The second part is
the µW each limited path is short of its request. A path that holds no tokens takes its request (log 20). -/
def powerBatch (s : State) (mask : Nat) : State × List (Nat × Nat) :=
  let ps := setBits 64 mask
  let s1 := ps.foldl (fun t p => if want s p < (txOf s p).eff then setEff t p (want s p) else t) s
  let up := ps.filter fun p => decide ((txOf s p).eff < want s p)
  let ask := fun p => tok (want s p) - tok (txOf s p).eff
  let inc := (up.filter (holdsTok s)).foldl (fun n p => n + ask p) 0
  let free := tokenPool s - tokSum s1
  let settle := fun p =>
    if holdsTok s p then
      let grant := tok (txOf s p).eff + (if inc ≤ free then ask p else free * ask p / inc)
      highestCode grant (txOf s p).eff (want s p)
    else want s p
  let s2 := up.foldl (fun t p => setEff t p (settle p)) s1
  (s2, up.filterMap fun p => if settle p < want s p then some (p, tok (want s p) - tok (settle p)) else none)

/-- The EFF of R250, −2,560, would break no fused bound on one more path: the per-path maximum admits it and its tokens fit the
pool (R21, R248). -/
def tokFits (s : State) : Bool := decide (-2560 ≤ pathMax s ∧ tokSum s + tok (-2560) ≤ tokenPool s)

/-- The paths of a batch that end below SET + COMP, with the µW each is short (R249). -/
def shortOf (s : State) (l : List Nat) : List (Nat × Nat) :=
  l.filterMap fun p => if (txOf s p).eff < wantFree s p then some (p, tok (wantFree s p) - tok (txOf s p).eff) else none

/-- TOKEN_SHORT for the limited paths of compensation and ceiling changes (R249, R265). -/
def postShort (s : State) (l : List (Nat × Nat)) : State :=
  match l with
  | [] => s
  | (p, _) :: _ => post s 0x0804 1 p (satTo 0xFFFFFFFF (l.foldl (fun n x => n + x.2) 0))

/-- REG_LIMIT with its reason: 1 window, 2 duty, 3 per-path maximum, 4 summed maximum (R265). -/
def postRegLimit (s : State) (inst why k : Nat) : State := post s 0x0801 1 inst (why ||| symId s k <<< 32)

/-- Each carrier of a mask with a centre outside every window posts REG_LIMIT (R254). -/
def windowLimit (s : State) (k mask : Nat) : State × Bool :=
  let bad := (setBits 2 mask).filter fun c => (centreOf s c).isSome && !windowOk s c
  (bad.foldl (fun s c => postRegLimit s c 1 k) s, !bad.isEmpty)

/-! ### The converter's period (R357) -/

/-- The period of the housekeeping conversions and its source: slots of the TDD pattern while TB runs with one, else TINT on
CK_AON (R357). -/
def hkTiming (s : State) : Bool × Nat := if tbOn s ∧ s.air.period ≠ 0 then (true, s.air.period) else (false, s.hka.tint)

/-- A conversion in progress is discarded and counted when the period or its source changes (R357). -/
def hkCheck (was s : State) : State :=
  if hkTiming was ≠ hkTiming s ∧ s.hka.busy.isSome then
    { s with hka := { s.hka with disc := satTo 0xFFFFFFFF (s.hka.disc + 1) } }
  else s

end Sys2Proof.Machine
end

