-- ==== Sys2Proof/Machine/Anneal.lean ====
section
/-! DEFINITION. Anneal (11): runs and their triggers, measurements, preconditions, failures, corrections and their ticks,
the calibration record, ANL_RUN, and the authorisation tag of R389 that SAVE and HB_CLEAR carry. -/

namespace Sys2Proof.Machine

/-! ### Authorisation (R389) -/

/-- The 32 bytes of the device key as fused. -/
def deviceKey (s : State) : List Byte := bytesLE 32 (fuse s 511 256)

/-- HBK_NONCE: a free value of the number of nonces drawn (log 10). -/
def nonceNow (s : State) : BitVec 32 := Config.nonce s.hb.nonceCtr

/-- The tag an opcode and action need: bits [31:0] of the HMAC, taken as a little-endian number (log 22). -/
def authTag (s : State) (op action : Nat) : Nat :=
  leNat ((hmacSha256 (deviceKey s) (bytesLE 4 (nonceNow s).toNat ++ bytesLE 2 op ++ bytesLE 1 action)).take 4)

/-- A tag is checked at all: the key is not blank and the lock is open (R389). -/
def authOpen (s : State) : Bool := decide (fuse s 511 256 ≠ 0) && !s.hb.authLocked

/-- The tag passes. -/
def authOk (s : State) (op action tag : Nat) : Bool := authOpen s && decide (tag = authTag s op action)

/-- After a check: the nonce is replaced, and a wrong tag counts toward the lock (R389). -/
def authChecked (s : State) (ok : Bool) : State :=
  if !authOpen s then s
  else if ok then { s with hb := { s.hb with nonceCtr := s.hb.nonceCtr + 1 } }
  else { s with hb := { s.hb with
    nonceCtr := s.hb.nonceCtr + 1, authFails := min 15 (s.hb.authFails + 1), authLocked := decide (8 ≤ s.hb.authFails + 1) } }

/-! ### Runs (R325, R328, R329) -/

/-- Carriers with ANL on and not in HLD. -/
def anlCarriers (s : State) : List Nat := (List.range 2).filter fun c => hasMode s c 4 && !hasMode s c 5

/-- Some carrier with ANL on is in HLD. -/
def anlHeld (s : State) : Bool := (List.range 2).any fun c => hasMode s c 4 && hasMode s c 5

/-- Quads a run covers: those that are on and hold an enabled path (R325). -/
def anlQuads (s : State) : List Nat := (List.range 4).filter fun q => domOn s (10 + q) && (List.range 16).any fun i => (txOf s (16 * q + i)).en

/-- Paths a run covers: those of its quads that are not retired; a disabled one only listens (R320, R325). -/
def anlPaths (s : State) : Nat :=
  maskOf ((List.range 64).filter fun p => (anlQuads s).contains (p / 16) && !(txOf s p).retiredNow)

/-- A fresh run. -/
def anlNewRun (s : State) (trigger : Nat) (refs : List CmdRef) (baseline : Bool) (edge : Option (Fin 2)) (quant : Nat) : AnlRun :=
  { refs := refs, trigger := trigger, baseline := baseline, edge := edge, quant := BitVec.ofNat 8 quant, since := s.tb.now }

/-- A run begins to wait for its first guard period. -/
def anlBegin (s : State) (r : AnlRun) : State :=
  { s with anl := { s.anl with
      run := some { r with since := s.tb.now }, state := .waiting, attempt := 0, trigger := r.trigger, asked := false, latched := 0
      gpN := 0, obs := 0, orxRot := s.anl.orxRot + 1 } }

/-- A trigger or an ANL_RUN RUN asks for a run: it starts, or is latched behind the run in progress (R325, R336). -/
def anlAsk (s : State) (r : AnlRun) : State :=
  match s.anl.run with
  | none => anlBegin s r
  | some _ =>
    let r := match s.anl.next with
      | none => r
      | some x => { r with refs := x.refs ++ r.refs }
    { s with anl := { s.anl with next := some r, pending := true } }

/-- A trigger of the device's own: it is latched while the carriers are in HLD, and starts nothing while blocked (R48,
R325, R329). -/
def anlTrigger (s : State) (code : Nat) : State :=
  if s.anl.state = .blocked ∨ txBarred s then s
  else if anlCarriers s = [] then
    if anlHeld s then { s with anl := { s.anl with latched := code } } else s
  else anlAsk s (anlNewRun s code [] false none 0)

/-- A run or trigger kept through HLD, Quench, REF_LOST or a mute starts when that ends (R325, R328). -/
def anlRelease (s : State) (code : Nat) : State :=
  if s.anl.run.isSome ∨ s.anl.state = .blocked ∨ txBarred s ∨ anlCarriers s = [] ∨ s.syn.refLost ∨ s.thm.quench then s
  else match s.anl.next with
    | some r => anlBegin { s with anl := { s.anl with next := none, pending := false } } r
    | none => if s.anl.latched = 0 then s else anlTrigger s (if code = 0 then s.anl.latched else code)

/-- The run is over; a latched one starts (R325). -/
def anlOver (s : State) (st : AnlState) : State :=
  let s := { s with anl := { s.anl with run := none, state := st, stale := 0, pending := false } }
  match s.anl.next with
  | some r => if st = .idle then anlBegin { s with anl := { s.anl with next := none } } r else { s with anl := { s.anl with pending := true } }
  | none => s

/-- Every command of a list ends with a status and a cause. -/
def endRefs (s : State) (l : List CmdRef) (status cause : Nat) : State := l.foldl (fun s r => endRef s r status cause) s

/-- Completion cause of a failure (R328). -/
def anlCause (code : Nat) : Nat := if code ≤ 8 then 63 + code else if code = 9 then 8 else 62 + code

/-- The run in progress ends without correction, by its cause: retried, blocked, ended or latched. A block ends the commands of a
latched run as well; after HLD or a safety condition a latched run waits with the trigger (R328, R329). -/
def anlFail (s : State) (code : Nat) : State :=
  match s.anl.run with
  | none => s
  | some r =>
    let s := post s 0x0B02 6 0xFFFF (code ||| s.anl.attempt <<< 8 ||| symIdNow s <<< 32)
    let s := { s with anl := { s.anl with
      lastCause := code, failed := satTo 0xFFFF (s.anl.failed + 1), stale := 0, gpN := 0, obs := 0
      apply := s.anl.apply.filter fun a => !a.ofRun } }
    if code ≤ 9 ∧ s.anl.attempt < 4 then
      { s with anl := { s.anl with
        attempt := s.anl.attempt + 1, state := .waiting, asked := false
        run := some { r with meas := 1, frames := 0, since := s.tb.now } } }
    else
      let s := endRefs s r.refs 2 (anlCause code)
      if code ≤ 9 ∨ code = 11 ∨ code = 12 then
        let s := endRefs s ((s.anl.next.map (·.refs)).getD []) 2 (anlCause code)
        let s := hbCount (post s 0x0B03 6 0xFFFF code) 11
        anlOver { s with anl := { s.anl with
          next := none, blockTemp := Vector.ofFn fun q => ((sensorOf s (16 + q.val)).temp).getD 0 } } .blocked
      else if code = 10 then anlOver s .idle
      else
        { s with anl := { s.anl with run := none, state := .idle, latched := r.trigger, pending := s.anl.next.isSome } }

/-- Failure of a measurement in progress by loss of lock of one of its quads (R327, "throughout"). -/
def anlLoLost (s : State) (q : Nat) : State :=
  match s.anl.run with
  | some r => if s.anl.gpN ≠ 0 ∧ s.tb.now < s.anl.gpEnd ∧ bit r.quads.toNat q then anlFail s 6 else s
  | none => s

/-! ### Guard periods and measurements (R319, R327) -/

/-- The baseline of the span centre in force: within ±1 MHz (R333). -/
def baselineOf (s : State) : Option Baseline :=
  match spanCentre s with
  | none => none
  | some k => s.anl.bases.find? fun b => decide (b.spanKhz ≤ k + 1000 ∧ k ≤ b.spanKhz + 1000)

/-- ANL_STAT.NOBASE. -/
def anlNoBase (s : State) : Bool := s.anl.noRecord && s.anl.bases.isEmpty || (baselineOf s).isNone

/-- The transmit state of R327's TX_STATE. -/
def anlSnapOf (s : State) : AnlSnap where
  en := BitVec.ofNat 64 (maskOf ((List.range 64).filter fun p => (txOf s p).en))
  eff := (List.range 64).map fun p => (txOf s p).eff
  models := (List.range 64).map fun p => ((dpdOf s p).k, (dpdOf s p).m, (dpdOf s p).mc)
  cox := BitVec.ofNat 4 (maskOf ((List.range 4).filter fun i => coxOn s i))

/-- The transmit state changed within the guard period of a measurement, `was` being the state before this tick (R327). -/
def anlWatch (was s : State) : State :=
  match s.anl.run with
  | some r =>
    if s.anl.gpN ≠ 0 ∧ s.anl.gpAt < s.tb.now ∧ s.tb.now ≤ s.anl.gpEnd ∧
        (r.snap ≠ anlSnapOf was ∨ (s.tb.now < s.anl.gpEnd ∧ r.snap ≠ anlSnapOf s)) then anlFail s 2
    else s
  | none => s

/-- The first symbol of the guard period that symbol k lies in: at most one slot back. -/
def guardFirst (s : State) : Nat → Nat → Nat
  | 0, k => k
  | n + 1, k => if 0 < k ∧ isGuard s (k - 1) then guardFirst s n (k - 1) else k

/-- Length in counts of the guard period from symbol k on: at most one slot's worth. -/
def guardLen (s : State) : Nat → Nat → Nat
  | 0, _ => 0
  | n + 1, k => if isGuard s k then symLen k + guardLen s n (k + 1) else 0

/-- Frames a guard period holds (R319). -/
def guardFrames (l : Nat) : Nat := min 16 ((l - 2048) / 2048)

/-- A bias code for the path has left its queue in the last two slots, or its injector's gate bias is at the safe value. -/
def anlBiasMoved (s : State) (p : Nat) : Bool :=
  let g := vget s.bias.out p {}
  let a := vget s.bias.out (64 + p) {}
  let moved := fun (b : BiasOut) => decide (b.last ≠ 0 ∧ s.tb.now - b.last < 491520)
  moved g || moved a || (anlInjects s p && decide (g.shown = 0))

/-- The first failed precondition of R327, in the order of its table, with RX_NOISE last because the quiet interval comes
after the start; 0 none. -/
def anlPrecondition (s : State) (r : AnlRun) (noise : Int) : Nat :=
  let ps := setBits 64 r.paths.toNat
  if r.snap ≠ anlSnapOf s then 2
  else if ps.any (anlBiasMoved s) then 3
  else if ps.any fun p => decide (r.meas1At < (vget s.rx.path p {}).gainAt) then 4
  else if coxWithheld s &&& maskOf (ps.filter (anlInjects s)) ≠ 0 then 5
  else if (setBits 4 r.quads.toNat).any fun q => !quadLocked s q 0 then 6
  else if (anlCarriers s).any fun c => !windowOk s c then 7
  else if -3840 ≤ noise then 1
  else 0

/-- The run as it stands when measurement 1 begins: its quads, paths, transmit state and sensor readings (R325, R326). -/
def anlMeas1 (s : State) (r : AnlRun) : AnlRun :=
  { r with
    paths := BitVec.ofNat 64 (anlPaths s)
    quads := BitVec.ofNat 4 (maskOf ((List.range 4).filter fun q => decide (bits (anlPaths s) (16 * q + 15) (16 * q) ≠ 0)))
    meas1At := s.tb.now, snap := anlSnapOf s
    tref := (List.range 4).map fun q => match (sensorOf s (16 + q)).temp with
      | some t => BitVec.ofNat 16 (tc 16 t)
      | none => 0x8000 }

/-- The master's grant that a member with FLK on needs (R48, R230). -/
def anlGranted (s : State) : Bool :=
  !(hasMode s 0 3 || hasMode s 1 3) ||
    (bit s.run.granted.toNat s.gen.flaskId && s.run.grantSym.any fun g => decide (g ≤ symNow s))

/-- A guard period of a run begins: measurement 1 takes its snapshot at its first one, STALE is set, the quads are held, and the period
is used (R319, R326). -/
def guardOpen (s : State) (r : AnlRun) : State × AnlRun :=
  let fresh := r.meas = 1 ∧ r.frames = 0
  let r := if fresh then anlMeas1 s r else r
  let k := guardFirst s 14 (symNow s)
  ({ s with
    anl := { s.anl with
      run := some r, stale := if fresh then r.paths else s.anl.stale, state := if r.meas = 1 then .meas1 else .meas2
      gpAt := tickT s k, gpEnd := tickT s k + guardLen s 14 k, gpN := 0 }
    mod := { s.mod with gpHolder := vall s.mod.gpHolder fun q h => if bit r.quads.toNat q then 1 else h } }, r)

/-- The levels of the grant lands, sampled. -/
def landsSampled (s : State) (grants : BitVec 4) : State :=
  { s with tx := { s.tx with cox := vall s.tx.cox fun i c => { c with grantLand := bit grants.toNat i } } }

/-- Anneal may measure now: a guard period not used yet that it holds on every quad of the run, the grants, injection frames still to
send, a carrier with ANL, a run that waits or measures (R55, R319). -/
def guardUsable (s : State) (r : AnlRun) : Bool :=
  isGuard s (symNow s) && anlGranted s && decide (s.anl.gpEnd ≤ s.tb.now) &&
    ((List.range 4).all fun q => decide (bits (anlPaths s) (16 * q + 15) (16 * q) = 0 ∨ vget s.mod.gpNow q 0 = 1)) && decide (r.frames < 16) && !(anlCarriers s).isEmpty &&
    (s.anl.state == .waiting || s.anl.state == .meas1 || s.anl.state == .meas2)

/-- This device takes part in the edge run of a neighbour: the master granted both, and it has no run of its own (R335). -/
def partnerSide (s : State) : Option (Fin 2) :=
  if !isGuard s (symNow s) ∨ !anyFlk s ∨ !anlGranted s ∨ s.tb.now < s.anl.gpEnd then none
  else ([0, 1] : List (Fin 2)).find? fun d => ((sideOf s d.val).nbId.map fun id => bit s.run.granted.toNat id).getD false

/-- The guard period of a neighbour's edge run: this device injects its own edge paths (R335). -/
def partnerPeriod (s : State) : State :=
  match partnerSide s with
  | none => s
  | some d =>
    let k := guardFirst s 14 (symNow s)
    let l := guardLen s 14 k
    let from_ := if s.anl.partner = some d ∧ s.anl.gpFrom + s.anl.gpN < 16 then s.anl.gpFrom + s.anl.gpN else 0
    { s with anl := { s.anl with
      partner := some d, gpAt := tickT s k, gpEnd := tickT s k + l, gpFrom := from_, gpN := min (16 - from_) (guardFrames l) } }

/-- A guard period granted to Anneal starts (R319): nothing happens outside a guard period or without the master's grant; without a run
of its own the device takes part in a neighbour's edge run. -/
def guardPeriod (noise : Int) (grants : BitVec 4) (s : State) : State :=
  let s := landsSampled s grants
  match s.anl.run with
  | none => partnerPeriod s
  | some r =>
    if !guardUsable s r then s
    else
      let x := guardOpen s r
      let s := x.1
      let r := x.2
      if !r.baseline ∧ (baselineOf s).isNone then
        anlFail (post s 0x0B05 6 0xFFFF 2) 12
      else
        let bad := anlPrecondition s r noise
        if bad ≠ 0 then anlFail s bad
        else
          let f := guardFrames (s.anl.gpEnd - s.anl.gpAt)
          let frames := r.frames + f
          let done := decide (16 ≤ frames)
          let s := { s with anl := { s.anl with gpFrom := r.frames, gpN := min (16 - r.frames) f } }
          let r := if done ∧ r.meas = 1 then { r with meas := 2, frames := 0, m1End := s.tb.now } else { r with frames := frames }
          { s with anl := { s.anl with run := some r, asked := false, partner := none, state := if r.meas = 1 then .meas1 else .meas2 } }

/-! ### The solve (R322, R328, R330, R331) -/

/-- AGREE_PH, AGREE_AMP and AGREE_DLY. -/
def agreePh (s : State) : Nat := bits s.anl.tol.toNat 7 0
def agreeAmp (s : State) : Nat := bits s.anl.tol.toNat 15 8
def agreeDly (s : State) : Nat := bits s.anl.tol.toNat 23 16

/-- The two results of a path agree (R322). -/
def anlAgree (s : State) (x : AnlResult) : Bool :=
  let near := fun (a b : Int) (t : Nat) => decide ((a - b).natAbs ≤ t)
  near x.m1.txPhase x.m2.txPhase (agreePh s) && near x.m1.rxPhase x.m2.rxPhase (agreePh s) &&
  near x.m1.txAmp x.m2.txAmp (agreeAmp s) && near x.m1.rxAmp x.m2.rxAmp (agreeAmp s) &&
  near x.m1.txDly x.m2.txDly (agreeDly s) && near x.m1.rxDly x.m2.rxDly (agreeDly s)

/-- A path's mean result exceeds 5.0°, 0.5 dB or 20 ps (R322). -/
def anlOut (x : AnlResult) : Bool :=
  let far := fun (a b : Int) (t : Nat) => decide (2 * t < (a + b).natAbs)
  far x.m1.txPhase x.m2.txPhase 5120 || far x.m1.rxPhase x.m2.rxPhase 5120 ||
  far x.m1.txAmp x.m2.txAmp 2048 || far x.m1.rxAmp x.m2.rxAmp 2048 ||
  far x.m1.txDly x.m2.txDly 320 || far x.m1.rxDly x.m2.rxDly 320

/-- A quantity of R317's table is part of the run. -/
def anlRow (r : AnlRun) (i : Nat) : Bool := decide (r.quant = 0) || bit r.quant.toNat i

/-- The correction added for two phase results, in 2^-16 turn: the negative mean, rounded half away from zero (R322). -/
def phaseStep (a b : Int) : Int := divRound (-(a + b) * 4) 45

/-- The correction added for two amplitude results, in 1/4,096 dB. -/
def ampStep (a b : Int) : Int := divRound (-(a + b)) 2

/-- The correction added for two delay results, in cells of 0.25 ps. -/
def dlyStep (a b : Int) : Int := divRound (-(a + b)) 8

/-- Phase codes wrap at one turn; amplitude codes and cells stay in range. -/
def addPhase (c : BitVec 16) (d : Int) : BitVec 16 := BitVec.ofNat 16 (tc 16 (c.toNat + d))
def addAmp (c : BitVec 16) (d : Int) : BitVec 16 := BitVec.ofNat 16 (tc 16 (clampI (-32768) 32767 (sx 16 c.toNat + d)))
def addCells (c : BitVec 9) (d : Int) : BitVec 9 := BitVec.ofNat 9 (clampI 0 511 ((c.toNat : Int) + d)).toNat

/-- New transmit corrections of a path (R317, R322). -/
def anlTxOf (r : AnlRun) (c : AnlCorr) (x : AnlResult) : AnlCorr :=
  { c with
    txPhase := if anlRow r 0 then addPhase c.txPhase (phaseStep x.m1.txPhase x.m2.txPhase) else c.txPhase
    txAmp := if anlRow r 0 then addAmp c.txAmp (ampStep x.m1.txAmp x.m2.txAmp) else c.txAmp
    txDly := if anlRow r 1 then addCells c.txDly (dlyStep x.m1.txDly x.m2.txDly) else c.txDly
    dac := if anlRow r 5 then x.dac else c.dac }

/-- New receive corrections of a path. -/
def anlRxOf (r : AnlRun) (c : AnlCorr) (x : AnlResult) : AnlCorr :=
  { c with
    rxPhase := if anlRow r 2 then addPhase c.rxPhase (phaseStep x.m1.rxPhase x.m2.rxPhase) else c.rxPhase
    rxAmp := if anlRow r 2 then addAmp c.rxAmp (ampStep x.m1.rxAmp x.m2.rxAmp) else c.rxAmp
    rxDly := if anlRow r 2 then addCells c.rxDly (dlyStep x.m1.rxDly x.m2.rxDly) else c.rxDly
    adc := if anlRow r 6 then x.adc else c.adc }

/-- Paths whose Temper refresh a transmit correction of more than 1.0° or 0.1 dB makes due, their users included (R331). -/
def anlRefresh (s : State) (l : List AnlResult) : Nat :=
  let big := (l.filter fun x => decide (2 * 1024 < (x.m1.txPhase + x.m2.txPhase).natAbs) ||
    decide (8192 < 10 * (x.m1.txAmp + x.m2.txAmp).natAbs)).map fun x => x.path.val
  maskOf ((List.range 64).filter fun p => big.contains p || big.contains (dpdOf s p).nbrA || big.contains (dpdOf s p).nbrB)

/-- The largest of some magnitudes. -/
def maxAbs (l : List Int) : Nat := l.foldl (fun m i => max m i.natAbs) 0

/-- The results that a run uses: those of its paths that are not retired (R332). -/
def anlUsed (s : State) (r : AnlRun) (l : List AnlResult) : List AnlResult :=
  l.filter fun x => bit r.paths.toNat x.path.val && !(txOf s x.path.val).retired

/-- The mean of two results, rounded half away from zero. -/
def meanOf (a b : Int) : Int := divRound (a + b) 2

/-- The edge results of a side stored (R335). -/
def edgeStored (v : Vector (BitVec 32) 16) (d : Nat) (l : List AnlResult) : Vector (BitVec 32) 16 :=
  l.foldl (fun v x => match x.edge with
    | some (k, w) => vmod v (8 * d + k.val) fun _ => w
    | none => v) v

/-- The results of two agreeing measurements become corrections due at their ticks: transmit ones for the paths that could inject, and
those that rest on an ORx for the paths that one observed (R317, R322, R324, R330). -/
def anlSchedule (s : State) (r : AnlRun) (l : List AnlResult) : State :=
  let used := anlUsed s r l
  let out := used.filter anlOut
  let ok := (used.filter fun x => !anlOut x).map fun x =>
    if bit s.anl.obs.toNat x.path.val then x else { x with dac := (vget s.anl.corr x.path.val {}).dac, orxDly := none }
  let sent := ok.filter fun x => bit r.snap.en.toNat x.path.val
  let s := out.foldl (fun s x =>
    pathFault (post s 0x0B04 0 x.path.val
      (tc 16 (meanOf x.m1.txPhase x.m2.txPhase) ||| tc 16 (meanOf x.m1.txAmp x.m2.txAmp) <<< 16 |||
        tc 16 (meanOf x.m1.txDly x.m2.txDly) <<< 32)) x.path.val) s
  let res := tc 16 (maxAbs (sent.map fun x => meanOf x.m1.txPhase x.m2.txPhase)) |||
    tc 16 (maxAbs (sent.map fun x => meanOf x.m1.txAmp x.m2.txAmp)) <<< 16 |||
    ok.length <<< 32 ||| out.length <<< 40 ||| s.anl.attempt <<< 48
  let base : AnlApply := {
    due := s.tb.now + 2048
    limit := s.tb.now + 491520000
    ofRun := true
    refs := r.refs
    result := BitVec.ofNat 64 res
    npaths := ok.length }
  let corr := fun (x : AnlResult) => vget s.anl.corr x.path.val {}
  let trims := if anlRow r 3 then ok.flatMap (·.loTrim) else []
  let txa : AnlApply := { base with
    isTx := true
    set := sent.map fun x => (x.path, anlTxOf r (corr x) x)
    trims := trims.filter fun t => decide (t.2.1.val = 0)
    dueRefresh := BitVec.ofNat 64 (anlRefresh s sent) }
  let rxa : AnlApply := { base with
    set := ok.map fun x => (x.path, anlRxOf r (corr x) x)
    trims := trims.filter fun t => decide (t.2.1.val ≠ 0)
    irr := if anlRow r 4 then ok.map fun x => (x.path, (x.irrPhase, x.irrGain)) else []
    orxDly := if anlRow r 7 then ok.filterMap fun x => x.orxDly.map fun d => (x.path, d) else [] }
  { s with anl := { s.anl with
      state := .applying, apply := s.anl.apply ++ [txa, rxa]
      edgeRes := match r.edge with
        | none => s.anl.edgeRes
        | some d => edgeStored s.anl.edgeRes d.val l } }

/-- A run is accepted and ends, with its record, its event and the sensor readings it rests on (R325, R336, R337). -/
def anlDone (s : State) (r : AnlRun) (k : Nat) (result : BitVec 64) (n : Nat) : State :=
  let s := { s with anl := { s.anl with
    last := some (BitVec.ofNat 19 (symId s k)), lastAt := s.tb.now, done := satTo 0xFFFF (s.anl.done + 1)
    tref := Vector.ofFn fun q => r.tref.getD q.val 0x8000 } }
  let s := r.refs.foldl (fun s f => match cmdOf s f with
    | none => s
    | some c => cmdDone s { c with result := result, effect := effectAt s k }) s
  anlOver (post s 0x0B01 6 0xFFFF (r.trigger ||| n <<< 8 ||| symId s k <<< 32)) .idle

/-- A baseline replaces that of the span centre in force, at most eight being held (R334). -/
def anlBaseline (s : State) (r : AnlRun) : State :=
  match spanCentre s with
  | none => s
  | some k =>
    let keep := s.anl.bases.filter fun b => !decide (b.spanKhz ≤ k + 1000 ∧ k ≤ b.spanKhz + 1000)
    let e : BitVec 2 := match r.edge with
      | none => 0
      | some d => 1#2 <<< d.val
    let old := (baselineOf s).map (·.edges) |>.getD 0
    { s with anl := { s.anl with bases := (keep.drop (keep.length - 7)) ++ [⟨k, old ||| e, s.tb.now⟩] } }

/-- The solve of two measurements ends (R322, R323, R332); a partner of an edge run stores its own results (R335). -/
def solveEnd (l : List AnlResult) (s : State) : State :=
  match s.anl.run with
  | none => match s.anl.partner with
    | some d => { s with anl := { s.anl with partner := none, gpN := 0, edgeRes := edgeStored s.anl.edgeRes d.val l } }
    | none => s
  | some r =>
    if r.meas ≠ 2 ∨ r.frames < 16 ∨ s.anl.state ≠ .meas2 then s
    else if (anlUsed s r l).any fun x => !anlAgree s x then anlFail s 8
    else if r.baseline then anlDone (anlBaseline s r) r (symNow s) 0 0
    else anlSchedule s r l

/-- The results a path's loaded or added corrections give for one class. -/
def anlPut (isTx : Bool) (old new : AnlCorr) : AnlCorr :=
  if isTx then { old with txPhase := new.txPhase, txAmp := new.txAmp, txDly := new.txDly, dac := new.dac }
  else { old with rxPhase := new.rxPhase, rxAmp := new.rxAmp, rxDly := new.rxDly, adc := new.adc }

/-- One class of corrections takes effect, the receive ones with a cross-fade (R274, R330, R331). -/
def anlTake (s : State) (a : AnlApply) : State :=
  let s := a.set.foldl (fun s x => modCorr s x.1.val fun c => anlPut a.isTx c x.2) s
  let s := a.trims.foldl (fun s t => modSynth s t.1.val fun y => { y with trim := vmod y.trim t.2.1.val fun _ => t.2.2.toNat }) s
  let s := a.irr.foldl (fun s x => modRx s x.1.val fun r => { r with irrPhase := x.2.1, irrGain := x.2.2 }) s
  let s := { s with rx := { s.rx with orxDly := a.orxDly.foldl (fun v x => vmod v x.1.val fun _ => x.2) s.rx.orxDly } }
  let s := if a.isTx then s
    else forBits 64 (maskOf (a.set.map (·.1.val) ++ a.irr.map (·.1.val))) s fadeStart
  forBits 64 a.dueRefresh.toNat s fun s p => modDpd s p fun d => { d with due := true }

/-- A slot tick k is one of R330's for a direction class. -/
def anlQuiet (s : State) (isTx : Bool) (k : Nat) : Bool :=
  if isTx then !isDl s (k - 1) && !isDl s k else !isUl s (k - 1) && !isUl s k

/-- At a slot tick: the corrections whose tick it is take effect; the last of a run or command ends it; what has waited
1 s fails with NO_GUARD (R328, R330). -/
def anlSlot (k : Nat) (s : State) : State :=
  let now := s.anl.apply.filter fun a => decide (a.due ≤ s.tb.now) && anlQuiet s a.isTx k
  let rest := s.anl.apply.filter fun a => !(decide (a.due ≤ s.tb.now) && anlQuiet s a.isTx k)
  let s := now.foldl anlTake { s with anl := { s.anl with apply := rest } }
  let ended := now.filter fun a => rest.all fun b => !(b.refs == a.refs && b.ofRun == a.ofRun)
  let s := ended.foldl (fun s a =>
    if a.ofRun then match s.anl.run with
      | some r => if rest.any (·.ofRun) || s.anl.state ≠ .applying then s else anlDone s r k a.result a.npaths
      | none => s
    else a.refs.foldl (fun s f => match cmdOf s f with
      | none => s
      | some c => cmdDone s { c with effect := effectAt s k }) s) s
  let late := s.anl.apply.filter fun a => decide (a.limit ≤ s.tb.now)
  if late.any (·.ofRun) then anlFail s 11
  else late.foldl (fun s a => endRefs { s with anl := { s.anl with apply := s.anl.apply.filter fun b => b != a } } a.refs 2 73) s

/-! ### ANL_RUN (R334–R336) -/

/-- A DRAM range lies in DRAM and outside the Pattern Store and the stream sets (R188). -/
def dramFree (a n : Nat) : Bool :=
  decide (a + n ≤ 0x100000000 ∧ 0x2000000 ≤ a) && decide (a + n ≤ 0x40000000 ∨ 0x80000000 ≤ a)

/-- Refusal checks of ANL_RUN. -/
def anlRunCheck (s : State) (c : Cmd) : Option Refuse :=
  let a := dB c.d 16
  let range := decide (a ≤ 5) && decide (dB c.d 17 ≤ 3) && dZero c.d 19 19 && dZero c.d 40 63 &&
    (a == 4 || dZero c.d 20 23) && (a == 2 || dZero c.d 24 31) && (a == 5 || dZero c.d 32 39) &&
    (a != 2 || (decide (dQ c.d 24 % 64 = 0) && dramFree (dQ c.d 24) 1024))
  if !range then some ⟨cField, 0⟩
  else if (a = 0 ∨ a = 3) ∧ txBarred s then some ⟨cTx, 0⟩
  else if a ≠ 1 ∧ missing s (if a = 2 then [8, 9] else [9]) ≠ 0 then domRefuse s (if a = 2 then [8, 9] else [9])
  else if a = 4 ∧ !authOk s 0x0080 4 (dW c.d 20) then some ⟨cAuth, 0⟩
  else none

/-- The LOAD table's entry of path p (R336). -/
def anlLoadEntry (s : State) (addr p : Nat) (old : AnlCorr) : AnlCorr :=
  let h := fun i => leNat (memReadBytes 0 s.ldl.dram (addr + 16 * p + 2 * i) 2)
  { old with
    txPhase := BitVec.ofNat 16 (h 0), txAmp := BitVec.ofNat 16 (h 1), txDly := BitVec.ofNat 9 (h 2)
    rxPhase := BitVec.ofNat 16 (h 4), rxAmp := BitVec.ofNat 16 (h 5), rxDly := BitVec.ofNat 9 (h 6) }

/-- EDGE_SET's offsets added to a correction (R335). -/
def anlEdgeEntry (d : Desc) (c : AnlCorr) : AnlCorr :=
  { c with
    txPhase := addPhase c.txPhase (sx 16 (dH d 32)), txAmp := addAmp c.txAmp (sx 16 (dH d 34))
    rxPhase := addPhase c.rxPhase (sx 16 (dH d 36)), rxAmp := addAmp c.rxAmp (sx 16 (dH d 38)) }

/-- New corrections for all paths wait for the ticks of R330 (LOAD, EDGE_SET). -/
def anlWait (s : State) (c : Cmd) (f : Nat → AnlCorr → AnlCorr) : State :=
  let set := (List.finRange 64).map fun p => (p, f p.val (vget s.anl.corr p.val {}))
  let a : AnlApply := { due := s.tb.now + 2048, limit := s.tb.now + 491520000, set := set, refs := [c.ref] }
  { s with anl := { s.anl with apply := s.anl.apply ++ [{ a with isTx := true }, a] } }

/-- What ANL_RUN does on acceptance or at its slot tick (R336). -/
def anlRunEffect (s : State) (c : Cmd) : State :=
  match dB c.d 16 with
  | 1 => match s.anl.run with
    | none => cmdDone s { c with cause := cNotActive }
    | some _ => cmdDone (anlFail s 10) c
  | 2 => anlWait s c fun p => anlLoadEntry s (dQ c.d 24) p
  | 4 => { authChecked s true with anl := { s.anl with saving := some c.ref } }
  | 5 => anlWait s c fun _ => anlEdgeEntry c.d
  | a =>
    let edge : Option (Fin 2) := if bit (dB c.d 17) 0 then some (if bit (dB c.d 17) 1 then 1 else 0) else none
    anlAsk s (anlNewRun s 1 [c.ref] (a == 3) edge (dB c.d 18))

/-- ANL_RUN (0x0080). -/
def anlRunDef : CmdDef where
  opcode := 0x0080
  tick c := if dB c.d 16 = 0 ∨ dB c.d 16 = 3 then .slot else .none
  check := anlRunCheck
  effect := anlRunEffect
  refused s c r := if dB c.d 16 = 4 ∧ r.cause = cAuth then authChecked s false else s

/-- ANL_RUN. -/
def execAnlRun (dt : Nat) (ref : CmdRef) (d : Desc) (s : State) : Host.Outcome State Fault Refusal :=
  .next (runCmd anlRunDef dt ref d s)

/-- ANL_GUARD_PERIOD: a guard period granted to Anneal starts (R319). -/
def execAnlGuardPeriod (dt : Nat) (noise : Int) (grants : BitVec 4) (s : State) : Host.Outcome State Fault Refusal :=
  .next (guardPeriod noise grants (arrive dt s))

/-- ANL_SOLVE_END: the solve of two measurements ends (R323). -/
def execAnlSolveEnd (dt : Nat) (res : List AnlResult) (s : State) : Host.Outcome State Fault Refusal :=
  .next (solveEnd res (arrive dt s))

/-- No granted guard period within 100 ms of measurement 1: it is taken again, no attempt counted (R322). -/
def repeatTimeout (s : State) : State :=
  match s.anl.run with
  | some r =>
    if r.meas = 2 ∧ r.frames = 0 ∧ r.m1End + 49152000 ≤ s.tb.now then
      { s with anl := { s.anl with run := some { r with meas := 1, since := s.tb.now }, state := .waiting, obs := 0 } }
    else s
  | none => s

/-- ANL_REPEAT_TIMEOUT. -/
def execAnlRepeatTimeout (dt : Nat) (s : State) : Host.Outcome State Fault Refusal := .next (repeatTimeout (arrive dt s))

/-- No granted guard period within 1 s of the trigger (R328). -/
def noGuardEnd (s : State) : State :=
  match s.anl.run with
  | some r => if s.anl.state = .waiting ∧ r.since + 491520000 ≤ s.tb.now then anlFail s 11 else s
  | none => s

/-- NO_GUARD. -/
def execNoGuard (dt : Nat) (s : State) : Host.Outcome State Fault Refusal := .next (noGuardEnd (arrive dt s))

/-- MAX_AGE since the last accepted run, in counts (ANL_CFG, ×10 s). -/
def maxAge (s : State) : Nat := bits s.anl.cfg.toNat 23 16 * 4915200000

/-- ANL_AGE_TRIGGER: MAX_AGE has passed since the last accepted run, if there was one (R325). -/
def execAnlAgeTrigger (dt : Nat) (s : State) : Host.Outcome State Fault Refusal :=
  let s := arrive dt s
  .next (if maxAge s ≠ 0 ∧ s.anl.last.isSome ∧ s.anl.lastAt + maxAge s ≤ s.tb.now then anlTrigger s 3 else s)

/-- The record a SAVE writes (R333). -/
def calRecordOf (s : State) : CalRecord := ⟨s.anl.corr, s.anl.bases⟩

/-- The flash write of SAVE ends: the older copy holds the record and is the newest, or NVM_FAIL (R334). -/
def saveEnd (ok : Bool) (s : State) : State :=
  match s.anl.saving with
  | none => s
  | some ref =>
    let s := { s with anl := { s.anl with saving := none } }
    if ok then
      let i := 1 - s.anl.newest
      doneRef { s with anl := { s.anl with copies := vmod s.anl.copies i fun _ => some (calRecordOf s), newest := i } } ref
    else endRef { s with anl := { s.anl with copies := vmod s.anl.copies (1 - s.anl.newest) fun _ => none } } ref 2 77

/-- ANL_SAVE_END. -/
def execAnlSaveEnd (dt : Nat) (ok : Bool) (s : State) : Host.Outcome State Fault Refusal := .next (saveEnd ok (arrive dt s))

/-- TMP comes up cold: the newest good copy is loaded, or all corrections are zero and ANL_NOBASE is posted (R333). -/
def anlCold (s : State) : State :=
  let a : Anl := { copies := s.anl.copies, newest := s.anl.newest }
  let pick := match vget s.anl.copies s.anl.newest none with
    | some r => some r
    | none => vget s.anl.copies (1 - s.anl.newest) none
  match pick with
  | some r => { s with anl := { a with corr := r.corr, bases := r.bases } }
  | none => post { s with anl := { a with noRecord := true } } 0x0B05 6 0xFFFF 1

end Sys2Proof.Machine
end

