-- ==== Sys2Proof/Machine/Transmit.lean ====
section
/-! DEFINITION. Transmit control, power and coexistence (08): TX_CTRL, POWER_SET, COX_CFG, the lock check of R256, the
detector of R253, and the path's share of the air ticks. -/

namespace Sys2Proof.Machine

/-! ### Setting keys and masks (R76) -/

/-- A setting's key: opcode, kind, instance. -/
def keyOf (op kind inst : Nat) : Nat := (op * 256 + kind) * 65536 + inst

/-- The instance of a key. -/
def keyInst (k : Nat) : Nat := k % 65536

/-- The kind of a key. -/
def keyKind (k : Nat) : Nat := k / 65536 % 256

/-- A command with bits of its payload cleared. -/
def clearBits (c : Cmd) (at_ : Nat) (l : List Nat) : Cmd := { c with d := c.d &&& ~~~(BitVec.ofNat 512 (maskOf l <<< at_)) }

/-- PATHS: bytes 24 – 31. -/
def dPaths (d : Desc) : Nat := dQ d 24

/-- The settings of a command that names paths, all of one kind. -/
def pathKeys (op kind : Nat) (c : Cmd) : List Nat := (setBits 64 (dPaths c.d)).map (keyOf op kind)

/-- A path command without some of its paths. -/
def stripPaths (c : Cmd) (l : List Nat) : Cmd := clearBits c 192 (l.map keyInst)

/-! ### TX_CTRL (R261, R250, R254, R256) -/

/-- Refusal checks of TX_CTRL. -/
def txCtrlCheck (s : State) (c : Cmd) : Option Refuse :=
  if !(decide (dB c.d 16 ≤ 3) && dZero c.d 17 23 && dZero c.d 32 63) then some ⟨cField, 0⟩
  else if dB c.d 16 = 0 then
    domRefuse s (9 :: ((List.range 4).filter fun q => decide (bits (dPaths c.d) (16 * q + 15) (16 * q) ≠ 0)).map (10 + ·))
  else none

/-- One path's part of TX_CTRL; a path of which nothing changes is left out of RESULT. ENABLE gives it EFF −2,560, where that breaks no
fused bound (R21, R250; log 76). -/
def txCtrlPath (fits : Bool) (a : Nat) (t : TxPath) : TxPath :=
  match a with
  | 0 => if t.en || !fits then t else { t with en := true, eff := -2560 }
  | 1 => { t with en := false }
  | 2 => { t with mute := true }
  | _ => { t with mute := false, regOver := false }

/-- TX_CTRL on one path. -/
def txCtrlOne (a : Nat) (s : State) (p : Nat) : State := modTx s p (txCtrlPath (tokFits s) a)

/-- Quads that named paths of a mask lie in. -/
def quadsOf (mask : Nat) : List Nat := (List.range 4).filter fun q => decide (bits mask (16 * q + 15) (16 * q) ≠ 0)

/-- TX_CTRL at its symbol tick. -/
def txCtrlEffect (s : State) (c : Cmd) : State :=
  let a := dB c.d 16
  let named := setBits 64 (dPaths c.d)
  let act := named.filter fun p => !(txOf s p).retired
  let was := s
  let s := act.foldl (txCtrlOne a) s
  let changed := act.filter fun p => txOf s p != txOf was p
  let s := if a = 0 then (act.filter fun p => (txOf s p).en).foldl (fun s p => modDpd s p fun d => { d with due := true }) s else s
  let s := biasForce (if a = 1 then linesIdle s fun p => act.contains p else s)
  let s := if a = 3 then anlRelease s 0 else s
  let w := if a = 0 ∨ a = 3 then windowLimit s (symNow s) 3 else (s, false)
  let c := { c with
    result := BitVec.ofNat 64 (maskOf changed)
    cause := if act.length < named.length then 64 else 0
    limited := w.2 || (a == 0 && (txBarred s || act.any fun p => !(txOf s p).en)) }
  let late := maskOf ((quadsOf (dPaths c.d)).filter fun q => !vget s.tx.lockOk q false)
  if (a = 0 ∨ a = 3) ∧ late ≠ 0 then
    cmdPut w.1 { c with stage := .running (some (s.tb.now + 491520000)), note := BitVec.ofNat 64 (late <<< 8) }
  else cmdDone w.1 c

/-- TX_CTRL (0x0030). ENABLE and DISABLE set one setting of a path, MUTE and UNMUTE another. -/
def txCtrlDef : CmdDef where
  opcode := 0x0030
  tick _ := .symbol
  check := txCtrlCheck
  effect := txCtrlEffect
  keys c := pathKeys 0x0030 (dB c.d 16 / 2) c
  strip := stripPaths

/-- TX_CTRL. -/
def execTxCtrl (dt : Nat) (ref : CmdRef) (d : Desc) (s : State) : Host.Outcome State Fault Refusal :=
  .next (runCmd txCtrlDef dt ref d s)

/-- The wait of a TX_CTRL for lock ends after 1 s: DONE with LO_TIMEOUT (R256). -/
def loTimeout (r : CmdRef) (s : State) : State :=
  match cmdOf s r with
  | none => arrive 0 s
  | some c => match c.stage with
    | .running (some due) =>
      if dOp c.d = 0x0030 then
        let s := arriveAt due s
        cmdDone s { c with cause := 65 }
      else arrive 0 s
    | _ => arrive 0 s

/-- LO_TIMEOUT. -/
def execLoTimeout (r : CmdRef) (s : State) : Host.Outcome State Fault Refusal := .next (loTimeout r s)

/-! ### POWER_SET (R249, R262) -/

/-- LEVEL, signed. -/
def pwrLevel (d : Desc) : Int := sx 16 (dH d 18)

/-- SET of a path after a POWER_SET. -/
def pwrSetOf (s : State) (d : Desc) (p : Nat) : Int :=
  if bit (dB d 16) 0 then (txOf s p).set + pwrLevel d else pwrLevel d

/-- Refusal checks of POWER_SET. -/
def powerSetCheck (s : State) (c : Cmd) : Option Refuse :=
  let inRange := fun (v : Int) => decide (-2560 ≤ v ∧ v ≤ 1280)
  if decide (dB c.d 16 ≤ 1) && dZero c.d 17 17 && dZero c.d 20 23 && dZero c.d 32 63 && (bit (dB c.d 16) 0 || inRange (pwrLevel c.d)) &&
      (setBits 64 (dPaths c.d)).all (fun p => inRange (pwrSetOf s c.d p)) then none
  else some ⟨cField, 0⟩

/-- POWER_SET at its symbol tick: one batch, with the compensation and ceiling changes of a slot tick if they are due. -/
def powerSetEffect (s : State) (c : Cmd) : State :=
  let named := setBits 64 (dPaths c.d)
  let s0 := s
  let s := (named.map fun p => (p, pwrSetOf s c.d p)).foldl (fun s x => modTx s x.1 fun t => { t with set := x.2 }) s
  let batch := powerBatch s (dPaths c.d ||| s.tx.stepped.toNat)
  let s := { batch.1 with tx := { batch.1.tx with stepped := 0 } }
  let short := batch.2
  let others := (setBits 64 s0.tx.stepped.toNat).filter fun p => !named.contains p
  let s := if named.any fun p => decide (pathMax s < wantFree s p) then postRegLimit s 0xFFFF 3 (symNow s) else s
  let s := if short.any fun x => named.contains x.1 then postRegLimit s 0xFFFF 4 (symNow s) else s
  let s := postShort s (shortOf s others)
  let effs := named.map fun p => (txOf s p).eff
  let lo := effs.foldl min (effs.headD 0)
  let hi := effs.foldl max (effs.headD 0)
  cmdDone s { c with
    limited := named.any fun p => decide ((txOf s p).eff < wantFree s p)
    result := BitVec.ofNat 64 (tc 16 lo ||| tc 16 hi <<< 16 ||| tokSum s <<< 32) }

/-- POWER_SET (0x0031). -/
def powerSetDef : CmdDef where
  opcode := 0x0031
  tick _ := .symbol
  check := powerSetCheck
  effect := powerSetEffect
  keys := pathKeys 0x0031 0
  strip := stripPaths

/-- POWER_SET. -/
def execPowerSet (dt : Nat) (ref : CmdRef) (d : Desc) (s : State) : Host.Outcome State Fault Refusal :=
  .next (runCmd powerSetDef dt ref d s)

/-! ### Coexistence (R257, R264) -/

/-- The first of n symbols from k on that is a downlink symbol. -/
def nextDl (s : State) : Nat → Nat → Option Nat
  | 0, _ => none
  | n + 1, k => if isDl s k then some k else nextDl s n (k + 1)

/-- The request of pair i is active at the present count: a covered path is in a run, or one begins within REQ_LEAD; or the present
guard period is Anneal's and a covered path injects in it (R257). -/
def coxRequests (s : State) (i : Nat) : Bool :=
  let x := coxOf s i
  let k := symNow s
  let run := tbOn s && (setBits 64 x.paths.toNat).any (inRuns s) && (match nextDl s 5 k with
    | some j => decide (tickT s j ≤ s.tb.now + x.reqLead)
    | none => false)
  let wants := s.anl.run.isSome && (List.range 4).any (fun q => vget s.mod.gpNow q 0 == 1) && (decide (s.anl.gpEnd ≤ s.tb.now) || decide (s.anl.gpN ≠ 0))
  let inj := isGuard s k && wants && (setBits 64 (anlPaths s &&& x.paths.toNat)).any (anlInjects s)
  coxOn s i && (run || inj)

/-- The level of the request land of pair i: the request after its polarity; while pair 3's lands show HLD status, high while a carrier
is in HLD (R56, R257, R258). -/
def coxReqLand (s : State) (i : Nat) : Bool :=
  if i = 3 ∧ bit s.mod.pinfn.toNat 2 then hasMode s 0 5 || hasMode s 1 5 else coxRequests s i != (coxOf s i).reqPol

/-- Refusal checks of COX_CFG. -/
def coxCfgCheck (s : State) (c : Cmd) : Option Refuse :=
  if !(decide (dB c.d 16 ≤ 3 ∧ dB c.d 17 ≤ 7 ∧ dH c.d 18 ≤ 49152) && dZero c.d 20 23 && dZero c.d 32 63) then some ⟨cField, 0⟩
  else if dB c.d 16 = 3 ∧ bit s.mod.pinfn.toNat 2 then some ⟨66, 0⟩
  else none

/-- COX_CFG at its symbol tick. -/
def coxCfgEffect (s : State) (c : Cmd) : State :=
  let f := dB c.d 17
  let s := modCox s (dB c.d 16) fun x => { x with
    en := bit f 0, reqPol := bit f 1, gntPol := bit f 2, reqLead := dH c.d 18, paths := BitVec.ofNat 64 (dPaths c.d) }
  cmdDone s c

/-- COX_CFG (0x0033). -/
def coxCfgDef : CmdDef where
  opcode := 0x0033
  tick _ := .symbol
  check := coxCfgCheck
  effect := coxCfgEffect
  keys c := [keyOf 0x0033 0 (dB c.d 16)]

/-- COX_CFG. -/
def execCoxCfg (dt : Nat) (ref : CmdRef) (d : Desc) (s : State) : Host.Outcome State Fault Refusal :=
  .next (runCmd coxCfgDef dt ref d s)

/-! ### The lock check (R255, R256, R257, R282) -/

/-- Downlink symbols of the pattern period before symbol k. -/
def dlBefore (s : State) (k : Nat) : Nat :=
  let i := (20 * frameOf s k + k / 14 % 20) % s.air.period
  (List.range i).foldl (fun n j => n + dlOfCode s (bits s.air.slots.toNat (2 * j + 1) (2 * j))) 0 + k % 14

/-- Symbol k is a downlink symbol within the duty budget (R255). -/
def dutyOk (s : State) (k : Nat) : Bool := isDl s k && decide (dlBefore s k < dutyBudget s)

/-- Commands that wait for lock: quads that passed leave their masks; a command with none left ends (R256). -/
def lockPassed (s : State) (pass : Nat) : State :=
  (s.host.cmds.filter fun c => dOp c.d == 0x0030 && (match c.stage with
    | .running _ => true
    | _ => false)).foldl (fun s c =>
    let left := bits c.note.toNat 11 8 &&& (15 - pass)
    if left = 0 then cmdDone s c else cmdPut s { c with note := BitVec.ofNat 64 (left <<< 8) }) s

/-- A symbol not sent by quad q: counted, LATE_LO at the first of a run (R256). -/
def lateTx (s : State) (k q : Nat) (ok : Bool) : State :=
  if !isDl s k ∨ !domOn s (10 + q) then s
  else if ok then { s with tx := { s.tx with lateRun := vmod s.tx.lateRun q fun _ => false } }
  else
    let first := !vget s.tx.lateRun q false
    let s := hbCount { s with tx := { s.tx with
      lateLo := vmod s.tx.lateLo q fun n => satTo 0xFFFFFFFF (n + 1), lateRun := vmod s.tx.lateRun q fun _ => true } } 13
    if first then post s 0x0803 5 q (symId s k <<< 32) else s

/-- An uplink symbol lost by quad q: counted, RX_LATE_LO at the first of a run (R282). -/
def lateRx (s : State) (k q : Nat) (ok : Bool) : State :=
  if !isUl s k ∨ !domOn s (10 + q) then s
  else if ok then { s with rx := { s.rx with lateRun := vmod s.rx.lateRun q fun _ => false } }
  else
    let first := !vget s.rx.lateRun q false
    let s := hbCount { s with rx := { s.rx with
      lateLo := vmod s.rx.lateLo q fun n => satTo 0xFFFFFFFF (n + 1), lateRun := vmod s.rx.lateRun q fun _ => true } } 13
    if first then post s 0x0902 5 q (symId s k <<< 32) else s

/-- The lock check of symbol k: lock of each quad, duty and coexistence grants (R255–R257, R282). -/
def lockCheckAt (k : Nat) (s : State) : State :=
  let okTx := fun q => quadReady s q 0 k
  let okRx := fun q => quadReady s q 1 k
  let pass := maskOf ((List.range 4).filter okTx)
  let s := { s with rx := { s.rx with lockOk := Vector.ofFn fun q => okRx q.val } }
  let s := { s with tx := { s.tx with
    lockOk := Vector.ofFn fun q => okTx q.val
    dutyCut := !dutyOk s k
    coxCut := BitVec.ofNat 64 (coxWithheld s)
    checkedSym := some k
    cox := vall s.tx.cox fun i x => if coxOn s i && !coxGranted s i then { x with cnt := satTo 0xFFFFFFFF (x.cnt + 1) } else x } }
  let s := forAll 4 s fun s q => lateTx s k q (okTx q)
  let s := forAll 4 s fun s q => lateRx s k q (okRx q)
  lockPassed s pass

/-- LOCK_CHECK: 1,024 counts before the next symbol tick, with the levels of the grant lands (R256, R257). -/
def execLockCheck (grants : BitVec 4) (s : State) : Host.Outcome State Fault Refusal :=
  .next (if tbOn s && !(s.tx.checkedSym == some s.tb.airNext) then
      let s := arriveAt (tickT s s.tb.airNext - 1024) s
      lockCheckAt s.tb.airNext { s with tx := { s.tx with
        cox := vall s.tx.cox fun i x => { x with grantLand := bit grants.toNat i } } }
    else arrive 0 s)

/-! ### The symbol tick and the slot tick -/

/-- What one path does in symbol k, and until when its lines hold on after what it did before (R232, R259). -/
def txPathSymbol (s : State) (k p : Nat) (t : TxPath) : TxPath :=
  let lock := vget s.tx.lockOk (p / 16) false
  let cox := bit s.tx.coxCut.toNat p
  let run := inRuns s p && isDl s k
  let rad := run && lock && !s.tx.dutyCut && !cox
  { t with
    duty := s.tx.dutyCut, lateLo := !lock, cox := cox, inRun := run, trswTx := run, radiating := rad, paen := rad
    paenOff := if t.paen && !rad then tickT s k + tPaOff s else t.paenOff
    trswOff := if t.trswTx && !run then tickT s k + tTrOff s else t.trswOff }

/-- At its symbol tick a signal that a limiter scaled is counted (R236); its level holds for the symbol (R241). -/
def limiterSymbol (k : Nat) (s : State) : State :=
  let mine := s.tx.levelSym == some k
  { s with tx := { s.tx with
    path := vall s.tx.path fun p t => if mine && bit s.tx.levelHigh.toNat p && domOn s 9 && domOn s (10 + p / 16) then
      { t with limited := satTo 0xFFFF (t.limited + 1) } else t
    lowNow := if mine then s.tx.levelLow else BitVec.allOnes 64 } }

/-- Every path at the tick of symbol k; line timing changes at a run edge (R259); LNA protect covers the run (R279). -/
def txSymbol (k : Nat) (s : State) : State :=
  let s := if s.tx.checkedSym = some k then s else lockCheckAt k s
  let path := vall s.tx.path fun p t => txPathSymbol s k p t
  let edge := (List.range 64).any fun p => (vget path p {}).inRun != (txOf s p).inRun
  let s := { s with
    tx := { s.tx with path := path, linesNow := if edge then s.tx.lines else s.tx.linesNow, retuned := 0 }
    rx := { s.rx with path := vall s.rx.path fun p r => { r with lnap := (vget path p {}).inRun || r.ovl } } }
  limiterSymbol k s

/-- COMP of a path moves toward COMP* by at most 0.125 dB (R251). -/
def compStep (t : TxPath) : TxPath := { t with comp := t.comp + clampI (-128) 128 (t.compTgt - t.comp) }

/-- Before the commands of a slot tick: COMP after a housekeeping round, and new ceilings, with the batch they make (R249, R251,
R364). -/
def txSlotBefore (s : State) : State :=
  let moved := (List.range 64).filter fun p =>
    (s.tx.compDue && decide ((txOf s p).comp ≠ (txOf s p).compTgt)) ||
    (bit s.tx.ceilDue.toNat (p / 8) && decide (ceilOf s p ≠ (vget s.thm.group (p / 8) {}).ceil))
  let s := { s with
    tx := { s.tx with path := if s.tx.compDue then vall s.tx.path fun _ t => compStep t else s.tx.path }
    thm := { s.thm with group := vall s.thm.group fun g x => if bit s.tx.ceilDue.toNat g then { x with ceilNow := x.ceil } else x } }
  { s with tx := { s.tx with stepped := BitVec.ofNat 64 (maskOf moved), ceilDue := 0, compDue := false } }

/-- After them: the batch, unless a POWER_SET took it in; the paths it leaves limited (R249). -/
def txSlotAfter (s : State) : State :=
  if s.tx.stepped = 0 then s
  else
    let b := powerBatch s s.tx.stepped.toNat
    postShort { b.1 with tx := { b.1.tx with stepped := 0 } } (shortOf b.1 (setBits 64 s.tx.stepped.toNat))

/-! ### The drive-stage detector (R253) -/

/-- 2^20 × 10^(c/640): mW of a code in 1/64 dBm, in units of 2^-20 mW, rounded down. -/
def mwOf (c : Int) : Nat :=
  leastAbove (fun t => if 0 ≤ c then decide (2 ^ 12800 * 10 ^ c.toNat < t ^ 640) else decide (2 ^ 12800 < t ^ 640 * 10 ^ (-c).toNat)) 0 32 - 1

/-- A detector reports the mean of the symbol that ended: the meter, and the overpower mute (R236, R253). -/
def detectorReport (p : Nat) (mean : Int) (s : State) : State :=
  let s := modTx s p fun t => { t with
    meterOut := clampI (-32768) 32767 mean
    rnd := (t.rnd.1 + mwOf (clampI (-5120) 3000 mean), t.rnd.2 + 1) }
  if pathMax s + 64 < mean ∧ !(txOf s p).regOver then
    let s := linesIdle (modTx s p fun t => { t with regOver := true }) fun i => i == p
    let s := post s 0x0802 1 p (tc 16 (clampI (-32768) 32767 mean) ||| symId s (symNow s - 1) <<< 32)
    match s.anl.run with
    | some r => if bit r.paths.toNat p then anlFail s 14 else s
    | none => s
  else s

/-- POWER_DETECTOR_REPORT. -/
def execPowerDetectorReport (dt : Nat) (path : Fin 64) (mean : Int) (s : State) : Host.Outcome State Fault Refusal :=
  .next (detectorReport path.val mean (arrive dt s))

end Sys2Proof.Machine
end

