-- ==== Sys2Proof/Machine/Bias.lean ====
section
/-! DEFINITION. PA bias (13): BIAS_QUEUE, the update tick and the entries' effect. -/

namespace Sys2Proof.Machine

/-- Output o. -/
def biasOf (s : State) (o : Nat) : BiasOut := vget s.bias.out o {}

/-- Places an entry takes in a queue of 16 (R370). -/
def entryPlaces : BiasEntry → Nat
  | .span _ => 2
  | _ => 1

/-- Places used in a queue. -/
def queuePlaces (b : BiasOut) : Nat := b.queue.foldl (fun n e => n + entryPlaces e) 0

/-- OUTPUTS: bytes 20 – 35. -/
def biasOutputs (d : Desc) : Nat := bits d.toNat 287 160

/-- Places a BIAS_QUEUE will take in each named queue. -/
def biasTakes (d : Desc) : Nat := if dB d 16 = 0 then dB d 18 else if dB d 16 = 2 then 2 else 0

/-- Places that accepted BIAS_QUEUE commands will take in queue o, those accepted before a command (R374). -/
def biasPromised (s : State) (c : Cmd) (o : Nat) : Nat :=
  (s.host.cmds.filter fun x => decide (x.seq < c.seq) && dOp x.d == 0x00A1 && bit (biasOutputs x.d) o && (match x.stage with
    | .bound .. => true
    | _ => false)).foldl (fun n x => n + biasTakes x.d) 0

/-- Field ranges of BIAS_QUEUE (R374). -/
def biasRange (d : Desc) : Bool :=
  let a := dB d 16
  let n := dB d 18
  decide (a ≤ 2) && dZero d 19 19 && dZero d 52 63 &&
  (if a = 2 then decide (dB d 17 ≤ 2) else dZero d 17 17) &&
  (if a = 0 then
    decide (1 ≤ n ∧ n ≤ 8) && (List.range 8).all fun i =>
      if i < n then decide (dH d (36 + 2 * i) < 4096) else decide (dH d (36 + 2 * i) = 0)
  else decide (n = 0) && dZero d 36 51)

/-- Refusal checks of BIAS_QUEUE. -/
def biasQueueCheck (s : State) (c : Cmd) : Option Refuse :=
  let outs := setBits 128 (biasOutputs c.d)
  firstRefuse [
    (!biasRange c.d, cField),
    (outs.any fun o => decide (16 < queuePlaces (biasOf s o) + biasPromised s c o + biasTakes c.d), 64),
    (dB c.d 16 == 2 && outs.any fun o => !spanPermitted s (decide (64 ≤ o)) (dB c.d 17), 65),
    (s.thm.quench, 66)]

/-- The entries a BIAS_QUEUE adds. -/
def biasEntries (d : Desc) : List BiasEntry :=
  match dB d 16 with
  | 0 => (List.range (dB d 18)).map fun i => .code (BitVec.ofNat 12 (dH d (36 + 2 * i)))
  | 2 => [.span (dB d 17)]
  | _ => []

/-- BIAS_QUEUE at its symbol tick (R374). -/
def biasQueueEffect (s : State) (c : Cmd) : State :=
  let outs := setBits 128 (biasOutputs c.d)
  let s := outs.foldl (fun s o => modBias s o fun b => { b with
    queue := if dB c.d 16 = 1 then [] else b.queue ++ biasEntries c.d }) s
  let free := outs.foldl (fun m o => min m (16 - queuePlaces (biasOf s o))) 16
  cmdDone s { c with result := BitVec.ofNat 64 free }

/-- BIAS_QUEUE (0x00A1). Only a FLUSH sets what another command could set at the same tick: the queue's contents. -/
def biasQueueDef : CmdDef where
  opcode := 0x00A1
  tick _ := .symbol
  check := biasQueueCheck
  effect := biasQueueEffect

/-- BIAS_QUEUE. -/
def execBiasQueue (dt : Nat) (ref : CmdRef) (d : Desc) (s : State) : Host.Outcome State Fault Refusal :=
  .next (runCmd biasQueueDef dt ref d s)

/-- An entry takes effect on an output (R370, R371). -/
def entryTake (e : BiasEntry) (b : BiasOut) : BiasOut :=
  match e with
  | .code c => { b with code := c }
  | .span _ => { b with code := 0 }
  | .spanSwitch n => { b with code := 0, span := n }

/-- The update tick at one output: the head entry is released, a span entry in two steps (R370, R371). -/
def biasRelease (now : Nat) (b : BiasOut) : BiasOut :=
  if b.released.isSome then b
  else match b.queue with
    | [] => b
    | .span n :: rest => { b with released := some (.span n), queue := .spanSwitch n :: rest, last := now }
    | e :: rest => { b with released := some e, queue := rest, last := now }

/-- A released entry takes effect. -/
def releasedTake (b : BiasOut) : BiasOut :=
  match b.released with
  | none => b
  | some e => { entryTake e b with released := none }

/-- The update tick of every output; while TB is off entries take effect at release (R370). -/
def biasUpdate (s : State) : State :=
  let s := { s with bias := { s.bias with out := vall s.bias.out fun _ b => biasRelease s.tb.now b } }
  if tbOn s then s
  else biasShow { s with bias := { s.bias with out := vall s.bias.out fun _ b => releasedTake b } }

/-- BIAS_UPDATE_TICK. -/
def execBiasUpdateTick (dt : Nat) (s : State) : Host.Outcome State Fault Refusal := .next (biasUpdate (arrive dt s))

/-- At the tick of symbol k released entries take effect, with DL_HOLD only where k is no downlink symbol; outputs no
longer forced show their codes (R370, R372). -/
def biasSymbol (k : Nat) (s : State) : State :=
  let dl := isDl s k
  biasShow { s with bias := { s.bias with out := vall s.bias.out fun _ b => if b.dlHold && dl then b else releasedTake b } }

end Sys2Proof.Machine
end

