-- ==== Sys2Proof/Machine/HeatBook.lean ====
section
/-! DEFINITION. The Heat Book (14): records and the live image, histograms, snapshots, the hour counter, HB_CLEAR, and its
failures. -/

namespace Sys2Proof.Machine

/-! ### Records (R382, R384, R386) -/

/-- Records of the record area and entries of the clear log (R382). -/
def recArea : Nat := 85333
def clearArea : Nat := 682

/-- A record: header, 76 bytes of body, CRC (R384). -/
def hbRecord (s : State) (type qty inst cause : Nat) (body : List Byte) : List Byte :=
  let b := bytesLE 2 0x4842 ++ bytesLE 1 type ++ bytesLE 1 qty ++ bytesLE 4 s.hb.heat ++ bytesLE 4 (hours16 s) ++ bytesLE 2 s.hb.snap ++
    bytesLE 1 inst ++ bytesLE 1 cause ++ body ++ List.replicate (76 - body.length) 0
  b ++ bytesLE 4 (crc32 b).toNat

/-- The body of a HIST record. -/
def histBody (h : Hist) : List Byte :=
  (List.range 16).flatMap (fun i => bytesLE 4 (h.bins.getD i 0)) ++ bytesLE 2 (tc 16 h.min) ++ bytesLE 2 (tc 16 h.max) ++ bytesLE 4 h.n

/-- The 130 records of one snapshot, one after another (R386). -/
def hbImage (s : State) (cause : Nat) : List Byte :=
  let hist := fun qty i h => hbRecord s 1 qty i cause (histBody h)
  hbRecord s 2 0 0 cause ((List.range 19).flatMap fun i => bytesLE 4 (vget s.hb.counts i 0)) ++
  (List.range 64).flatMap (fun i => hist 1 i (vget s.hb.hPow i {})) ++
  (List.range 24).flatMap (fun i => hist 2 i (vget s.hb.hTemp i {})) ++
  hist 3 0 s.hb.hVin ++
  (List.range 40).flatMap (fun i => hist 4 i (vget s.hb.hLane i {}))

/-- A sample in a bin (R384, R385). -/
def histAdd (bin : Nat) (v : Int) (h : Hist) : Hist :=
  { bins := (List.range 16).map fun i => satTo 0xFFFFFFFF (h.bins.getD i 0 + if i = bin then 1 else 0)
    min := if h.n = 0 then v else min h.min v
    max := if h.n = 0 then v else max h.max v
    n := satTo 0xFFFFFFFF (h.n + 1) }

/-- The bin of a value among 14 bins of a width from a lowest edge; an edge falls in the higher bin (R385). -/
def binOf (lo width v : Int) : Nat := if v < lo then 0 else min 15 (1 + ((v - lo) / width).toNat)

/-- The bin of a lane error count (R385). -/
def laneBin (n : Nat) : Nat := if n = 0 then 0 else min 15 (Nat.log2 n + 1)

/-! ### Failures and snapshots (R386, R387, R391) -/

/-- The first 16 bytes of a list as a number. -/
def head16 (bs : List Byte) : BitVec 128 := BitVec.ofNat 128 (leNat (bs.take 16))

/-- Bytes whose write failed its verify: free values. -/
def badBytes (s : State) (off n : Nat) : List Byte := (List.range n).map fun i => Config.nvmByte (drawKey s) (off + i)

/-- A snapshot is being written: flash is reachable and the free record has been found (R382, R386). -/
def snapRuns (s : State) : Bool := domOn s 1 && s.hb.scanned && !s.hb.snaps.isEmpty

/-- Snapshots that wait end without being written; a host's command ends ABORTED with a cause. -/
def snapsDrop (s : State) (cause : Nat) : State :=
  let l := s.hb.snaps
  l.foldl (fun s x => match x.ref with
    | some r => endRef s r 2 cause
    | none => s) { s with hb := { s.hb with snaps := [] } }

/-- A snapshot that falls due with fewer than 130 free records: FULL, HB_FULL once, and nothing more is written (R387). -/
def snapStart (s : State) : State :=
  if snapRuns s ∧ recArea < s.hb.next + 130 then
    let s := if s.hb.full then s else post { s with hb := { s.hb with full := true } } 0x0E11 10 0xFFFF s.hb.next
    snapsDrop s 65
  else s

/-- A snapshot falls due with a CAUSE; none does while the Heat Book is read-only or full (R386, R387, R391). -/
def snapAsk (s : State) (cause : Nat) (ref : Option CmdRef) : State :=
  if s.hb.fail ∨ s.hb.full then s
  else snapStart { s with hb := { s.hb with snaps := s.hb.snaps ++ [⟨cause, ref⟩] } }

/-- HB_SNAPSHOT_DUE: INTERVAL operating hours have passed since the last one (R386). -/
def execHbSnapshotDue (dt : Nat) (s : State) : Host.Outcome State Fault Refusal :=
  let s := arrive dt s
  .next (if s.hb.lastSnapHours + s.hb.interval ≤ s.hb.hours then
      snapAsk { s with hb := { s.hb with lastSnapHours := s.hb.hours } } 1 none
    else s)

/-- HB_FREE_SCAN: the first record whose 96 bytes all read 0xFF (R386). -/
def execHbFreeScan (dt : Nat) (s : State) : Host.Outcome State Fault Refusal :=
  let s := arrive dt s
  .next (if !domOn s 1 ∨ s.hb.scanned then s
    else snapStart { s with hb := { s.hb with
      scanned := true, next := s.hb.recs.foldl (fun i c => if c.1 / 96 = i then i + 1 else i) 0 } })

/-! ### HB_CLEAR (R390) -/

/-- Field ranges of HB_CLEAR. -/
def hbClearRange (d : Desc) : Bool := dZero d 20 63

/-- The refusals of HB_CLEAR once no snapshot is in progress. -/
def hbClearRefuse (s : State) (d : Desc) : Option Refuse :=
  firstRefuse [(!authOk s 0x00B2 0 (dW d 16), cAuth), (s.hb.fail, 64), (decide (clearArea ≤ s.hb.clearNext), 65)]

/-- Steps 1 and 2 of HB_CLEAR: the nonce is used up and the CLEAR record written; the erase runs. -/
def hbClearGo (s : State) (c : Cmd) : State :=
  let body := bytesLE 4 s.hb.next ++ bytesLE 4 (nonceNow s).toNat
  let r := hbRecord s 3 0 0 4 body
  let s := authChecked s true
  cmdPut { s with hb := { s.hb with
    clearing := some c.ref, erased := s.hb.next
    clearLog := memWriteBytes 0xFF s.hb.clearLog (96 * s.hb.clearNext) r, clearNext := s.hb.clearNext + 1 } } { c with note := 1 }

/-- The tag of a refused HB_CLEAR was checked all the same (R389). -/
def hbClearRefused (s : State) (c : Cmd) (r : Refuse) : State :=
  if r.cause = cField then s else authChecked s (authOk s 0x00B2 0 (dW c.d 16))

/-- HB_CLEAR (0x00B2). It waits for snapshots in progress. -/
def hbClearDef : CmdDef where
  opcode := 0x00B2
  tick _ := .none
  check s c := if !hbClearRange c.d then some ⟨cField, 0⟩ else if s.hb.snaps.isEmpty then hbClearRefuse s c.d else none
  refused := hbClearRefused
  effect s c := if s.hb.snaps.isEmpty then hbClearGo s c else cmdPut s { c with note := 0 }

/-- HB_CLEAR. -/
def execHbClear (dt : Nat) (ref : CmdRef) (d : Desc) (s : State) : Host.Outcome State Fault Refusal :=
  .next (runCmd hbClearDef dt ref d s)

/-- HB_CLEARs that waited for the last snapshot go on. -/
def hbClearNext (s : State) : State :=
  if !s.hb.snaps.isEmpty ∨ s.hb.clearing.isSome then s
  else match s.host.cmds.find? fun c => dOp c.d == 0x00B2 && c.note == 0 && (match c.stage with
    | .running _ => true
    | _ => false) with
  | none => s
  | some c => match hbClearRefuse s c.d with
    | some r => cmdRefuse (hbClearRefused s c r) c r
    | none => hbClearGo s c

/-- HB_CLEAR_ERASE_END: the erase ends, or the CLEAR record (0) or the erase (1) failed (R390, R391). -/
def execHbClearEraseEnd (dt : Nat) (failed : Option (Fin 2)) (s : State) : Host.Outcome State Fault Refusal :=
  let s := arrive dt s
  .next (match s.hb.clearing with
    | none => s
    | some ref =>
      let s := { s with hb := { s.hb with clearing := none } }
      match failed with
      | none =>
        let s := { s with hb := { s.hb with
          recs := [], next := 0, full := false, counts := Vector.replicate 19 0, hVin := {}
          hPow := Vector.replicate 64 {}, hTemp := Vector.replicate 24 {}, hLane := Vector.replicate 40 {} } }
        hbClearNext (doneRef (post s 0x0E13 10 0xFFFF s.hb.erased) ref)
      | some f =>
        let at_ := 96 * (s.hb.clearNext - 1)
        let s := if f = 0 then
            let data := head16 (memReadBytes 0xFF s.hb.clearLog at_ 16)
            let s := { s with hb := { s.hb with clearLog := memWriteBytes 0xFF s.hb.clearLog at_ (badBytes s (0x20000 + at_) 96) } }
            hbFailure s 4 4 (0x20000 + at_) data
          else hbFailure s 2 2 0x30000 (head16 (memReadBytes 0xFF s.hb.recs 0 16))
        hbClearNext (endRef (snapsDrop s 64) ref 2 66))

/-- HB_SNAPSHOT: the records of the snapshot in progress are programmed and verified, or one of them fails (R386, R391). -/
def execHbSnapshot (dt : Nat) (failAt : Option Nat) (s : State) : Host.Outcome State Fault Refusal :=
  let s := arrive dt s
  .next (if !snapRuns s ∨ s.hb.clearing.isSome then s
    else match s.hb.snaps with
    | [] => s
    | x :: rest =>
      let i := s.hb.next
      let image := hbImage s x.cause
      match failAt.filter fun k => decide (k < 130) with
      | none =>
        let s := { s with hb := { s.hb with
          recs := memWriteBytes 0xFF s.hb.recs (96 * i) image, next := i + 130, snap := (s.hb.snap + 1) % 65536, snaps := rest } }
        let s := post s 0x0E10 10 0xFFFF (i ||| x.cause <<< 32)
        let s := match x.ref with
          | some r => doneRef s r (i <<< 32)
          | none => s
        hbClearNext (snapStart s)
      | some k =>
        let off := 0x30000 + 96 * (i + k)
        let recs := memWriteBytes 0xFF (memWriteBytes 0xFF s.hb.recs (96 * i) (image.take (96 * k))) (96 * (i + k)) (badBytes s off 96)
        let s := { s with hb := { s.hb with recs := recs, next := i + k + 1, snap := (s.hb.snap + 1) % 65536 } }
        hbClearNext (snapsDrop (hbFailure s 1 1 off (head16 (image.drop (96 * k)))) 64))

/-! ### The hour counter (R383, R385) -/

/-- One more hour bit is programmed, or fails its verify (R383, R391). -/
def hourProgram (ok : Bool) (s : State) : State :=
  if s.hb.fail ∨ 524288 ≤ s.hb.hours then s
  else if ok then { s with hb := { s.hb with hours := s.hb.hours + 1 } }
  else hbFailure s 3 3 (0x10000 + s.hb.hours / 8) 0

/-- HOUR_COMPLETE: the hour bit and the lane-error histograms; while CTL is not on the programming waits (R382, R383, R385). -/
def execHourComplete (dt : Nat) (ok : Bool) (s : State) : Host.Outcome State Fault Refusal :=
  let s := arrive dt s
  let s := { s with
    hb := { s.hb with
      hourFrom := s.tb.now
      hLane := vall s.hb.hLane fun l h => histAdd (laneBin (laneOf s l).hourErr) (laneOf s l).hourErr h }
    lanes := { s.lanes with lane := vall s.lanes.lane fun _ x => { x with hourErr := 0 } } }
  .next (if domOn s 1 then hourProgram ok s else { s with hb := { s.hb with flashWait := s.hb.flashWait + 1 } })

/-- CTL is on again: the flash writes that waited are made (R382). -/
def flashResume (s : State) : State :=
  let n := s.hb.flashWait
  snapStart ((List.range n).foldl (fun s _ => hourProgram true s) { s with hb := { s.hb with flashWait := 0 } })

end Sys2Proof.Machine
end

