-- ==== Sys2Proof/Machine/Operands.lean ====
section
/-! DEFINITION. The forms in which data reaches and leaves the machine: bit streams and block floating point (R141–R143, R191),
blocks of carriers (R139), eCPRI and Ethernet frames (R131–R140), control blocks (R185, R186). -/

namespace Sys2Proof.Machine

/-! ### Bit streams and compression (R141–R143, R191) -/

/-- A number format of a block: mantissa width, whether an exponent leads it, and the largest exponent. -/
structure Fmt where
  w : Nat
  hasExp : Bool
  emax : Nat
  deriving DecidableEq, Repr

/-- The format of a COMP code 0–4 (R141). -/
def fmtOf (comp : Nat) : Fmt :=
  match comp with
  | 0 => ⟨16, false, 0⟩
  | 1 => ⟨7, true, 9⟩
  | 2 => ⟨9, true, 7⟩
  | 3 => ⟨12, true, 4⟩
  | _ => ⟨14, true, 2⟩

/-- The format of partial sums (R191). -/
def psumFmt : Fmt := ⟨12, true, 12⟩

/-- Bits of one block of n real values. -/
def blockBits (f : Fmt) (n : Nat) : Nat := (if f.hasExp then 4 else 0) + n * f.w

/-- Bits of blocks with the given numbers of real values. -/
def streamBits (f : Fmt) (ns : List Nat) : Nat := ns.foldl (fun a n => a + blockBits f n) 0

/-- Bytes of a section's data, padded to a 4-byte boundary (R138, R142). -/
def paddedBytes (bits : Nat) : Nat := (bits + 31) / 32 * 4

/-- w bits of a stream of total bits, from position pos; bit 0 of the stream is bit 7 of its first byte (R142). -/
def streamGet (data total pos w : Nat) : Nat := (data >>> (total - pos - w)) % 2 ^ w

/-- Blocks of a stream as values; none if an exponent is above the format's largest (R142). -/
def expandBlocks (f : Fmt) (data total : Nat) : Nat → List Nat → Option (List Int)
  | _, [] => some []
  | pos, n :: ns =>
    let e := if f.hasExp then streamGet data total pos 4 else 0
    let p := pos + (if f.hasExp then 4 else 0)
    if f.emax < e then none
    else (expandBlocks f data total (p + n * f.w) ns).map fun rest =>
      (List.range n).map (fun i => sx f.w (streamGet data total (p + i * f.w) f.w) * 2 ^ e) ++ rest

/-- The smallest exponent for which every rounded mantissa fits; the largest where none does (R143). -/
def blockExp (f : Fmt) (vs : List Int) : Nat :=
  ((List.range f.emax).find? fun e =>
    vs.all fun v => decide (-(2 ^ (f.w - 1)) ≤ divRound v (2 ^ e) ∧ divRound v (2 ^ e) ≤ 2 ^ (f.w - 1) - 1)).getD f.emax

/-- One block appended to a stream, as (value, bits) (R142, R143). -/
def putBlock (f : Fmt) (acc : Nat × Nat) (vs : List Int) : Nat × Nat :=
  let e := blockExp f vs
  let acc := if f.hasExp then (acc.1 <<< 4 ||| e, acc.2 + 4) else acc
  vs.foldl (fun a v => (a.1 <<< f.w ||| tc f.w (clampI (-(2 ^ (f.w - 1))) (2 ^ (f.w - 1) - 1) (divRound v (2 ^ e))), a.2 + f.w)) acc

/-- Blocks as section data, padded to a 4-byte boundary (R138, R142, R143). -/
def packBlocks (f : Fmt) (bs : List (List Int)) : List Byte :=
  let a := bs.foldl (putBlock f) (0, 0)
  bytesBE (paddedBytes a.2) (a.1 <<< (8 * paddedBytes a.2 - a.2))

/-! ### Blocks of carriers (R139) -/

/-- KIND 0 blocks of a carrier. -/
def prbBlocks (nprb : Nat) : Nat := (nprb + 3) / 4

/-- Subcarriers of KIND 0 block b. -/
def blockSubs (nprb b : Nat) : Nat := 12 * min 4 (nprb - 4 * b)

/-- KIND 1 sample-rate code of a carrier: its own, or 0 on the BOOTBAND band; none where it has no carrier (R58, R139). -/
def rateCode (s : State) (c : Nat) : Option Nat :=
  if (carrierOf s c).nprb ≠ 0 then some (carrierOf s c).sr
  else if c = 0 ∧ s.air.spanKhz = none ∧ !bandBlank s then some 0
  else none

/-- Samples of symbol k of a carrier (R139). -/
def symSamples (s : State) (c k : Nat) : Nat :=
  match rateCode s c with
  | some sr => symLen k / 2 ^ sr
  | none => 0

/-- Blocks of a carrier or symbol, by KIND (R139). -/
def blockCount (s : State) (kind c k : Nat) : Nat :=
  if kind = 0 then prbBlocks (carrierOf s c).nprb else (symSamples s c k + 63) / 64

/-- Complex values of block b (R141). -/
def blockVals (s : State) (kind c k b : Nat) : Nat :=
  if kind = 0 then blockSubs (carrierOf s c).nprb b else min 64 (symSamples s c k - 64 * b)

/-- Real values of each of num blocks from start. -/
def sectionVals (s : State) (kind c k start num : Nat) : List Nat :=
  (List.range num).map fun i => 2 * blockVals s kind c k (start + i)

/-- Span bundle of a span PRB at a granularity: 0 four PRB, 1 two PRB (R169). -/
def bundleOf (gran q : Nat) : Nat := if gran = 0 then q / 4 else q / 2

/-- Bundles of the span at a granularity (R176). -/
def bundleCount (gran : Nat) : Nat := if gran = 0 then 273 else 546

/-- Bundle b holds a PRB of carrier c between its PRB p0 and p0 + n (R169). -/
def bundleMeets (s : State) (c gran b p0 n : Nat) : Bool :=
  let o := (carrierOf s c).off + p0
  decide (n ≠ 0 ∧ bundleOf gran o ≤ b ∧ b ≤ bundleOf gran (o + n - 1))

/-- A bundle that holds a PRB of the carrier. -/
def bundleIn (s : State) (c gran b : Nat) : Bool := bundleMeets s c gran b 0 (carrierOf s c).nprb

/-! ### Frames the device sends (R108, R131–R136) -/

/-- The port MAC base: fuse bits 96–143 (log 5). -/
def macBase (s : State) : Nat := fuse s 143 96

/-- A port's address (R108). -/
def portMac (s : State) (p : Port) : Nat :=
  (macBase s + (match p with
    | .single n => n.val
    | .four k => 16 + k.val)) % 2 ^ 48

/-- An Ethernet frame without FCS, padded to the minimum length (R131). -/
def ethFrame (dst src : Nat) (tag : Option Nat) (etype : Nat) (client : List Byte) : List Byte :=
  let f := bytesBE 6 dst ++ bytesBE 6 src ++ (match tag with
    | some t => bytesBE 2 0x8100 ++ bytesBE 2 t
    | none => []) ++ bytesBE 2 etype ++ client
  f ++ List.replicate (60 - f.length) 0

/-- An eCPRI message: common header with revision 1 and C 0, then the payload (R132). -/
def ecpriMsg (type : Nat) (payload : List Byte) : List Byte :=
  bytesBE 1 0x10 ++ bytesBE 1 type ++ bytesBE 2 payload.length ++ payload

/-- The carrier's tag, if FH_CFG enables one (R131, R166): PCP above DEI 0 and VID, as 802.1Q places them (log 8). -/
def tagOf (f : FhCc) : Option Nat := if f.tagEn then some (f.vid + f.pcp * 8192) else none

/-- The flow key of R134. -/
def flowKey (up : Bool) (cc kind id : Nat) : Nat := b2n up * 32768 + cc * 16384 + kind * 4096 + id

/-- The message header of a message the device sends (R136). -/
def msgHead (nsec sym portCode member : Nat) : List Byte := bytesLE 4 (sym + nsec * 2 ^ 24) ++ bytesLE 4 (portCode * 256 + member)

/-- The section header of R138. -/
def sectionHead (stl nc : Bool) (comp num start : Nat) : List Byte :=
  bytesLE 4 (b2n stl <<< 31 ||| b2n nc <<< 30 ||| comp <<< 22 ||| num <<< 11 ||| start) ++ bytesLE 4 0

/-! ### Received messages (R132–R140, R438) -/

/-- One message of a received frame: its revision and type, and its bytes from the common header to the payload's end. -/
structure RxMsg where
  rev : Nat
  type : Nat
  all : List Byte
  deriving DecidableEq, Repr

/-- The payload of a message. -/
def rxPayload (m : RxMsg) : List Byte := m.all.drop 4

/-- The messages of a frame's MAC client data, whether every payload lies inside it, and the bytes left after the last
message; fuel bounds the number of messages (R132). -/
def splitMsgs : Nat → List Byte → List RxMsg × Bool × Nat
  | 0, _ => ([], false, 0)
  | n + 1, bs =>
    match bs with
    | b0 :: b1 :: b2 :: b3 :: _ =>
      let len := 4 + b2.toNat * 256 + b3.toNat
      let m : RxMsg := ⟨b0.toNat / 16, b1.toNat, bs.take len⟩
      if bs.length < len then ([m], false, 0)
      else if b0.toNat % 2 = 1 then
        let r := splitMsgs n (bs.drop ((len + 3) / 4 * 4))
        (m :: r.1, r.2)
      else ([m], true, bs.length - len)
    | _ => ([], false, 0)

/-- Bytes of a list from a place. -/
def bytesAt (bs : List Byte) (a n : Nat) : List Byte := (bs.drop a).take n

/-- Little-endian number at a place. -/
def leAt (bs : List Byte) (a n : Nat) : Nat := leNat (bytesAt bs a n)

/-- Network-order number at a place. -/
def beAt (bs : List Byte) (a n : Nat) : Nat := beNat (bytesAt bs a n)

/-- The sections of a type 0 message of carrier c for symbol k from its bytes after the message header; none where a header,
a length or an exponent breaks the rules (R138, R139, R142, R438). -/
def readSections (s : State) (kind c k : Nat) : Nat → List Byte → Option (List Section)
  | 0, bs => if bs.isEmpty then some [] else none
  | n + 1, bs =>
    let w0 := leAt bs 0 4
    let w1 := leAt bs 4 4
    let comp := bits w0 25 22
    let num := bits w0 21 11
    let start := bits w0 10 0
    let wsrc := bits w1 18 17
    let ps := bits w1 16 0
    if bs.length < 8 ∨ bits w0 31 26 ≠ 0 ∨ bits w1 31 19 ≠ 0 ∨ 4 < comp ∨ num = 0 ∨ 1092 < num ∨ wsrc = 3 ∨
        (kind = 1 ∧ wsrc ≠ 0) ∨ (ps ≠ 0 ∧ wsrc ≠ 1) ∨ blockCount s kind c k < start + num then none
    else
      let vals := sectionVals s kind c k start num
      let nb := streamBits (fmtOf comp) vals
      let len := paddedBytes nb
      let data := bytesAt bs 8 len
      if data.length < len then none
      else match expandBlocks (fmtOf comp) (beNat data) (8 * len) 0 vals with
        | none => none
        | some _ => (readSections s kind c k n (bs.drop (8 + len))).map fun rest =>
            { comp := comp, start := start, num := num, wsrc := wsrc, psidx := ps, data := data } :: rest

/-- The values of a section's blocks, I and Q by turns. -/
def sectionData (s : State) (kind c k : Nat) (x : Section) : List Int :=
  (expandBlocks (fmtOf x.comp) (beNat x.data) (8 * x.data.length) 0 (sectionVals s kind c k x.start x.num)).getD []

/-- The blocks of a type 2 message from its bytes after the control header; none where the receipt checks of R187 fail.
`flk`: the carrier has FLK. -/
def readBlocks (ctype : Nat) (flk : Bool) : Nat → List Byte → Option (List WBlock)
  | 0, bs => if bs.isEmpty then some [] else none
  | n + 1, bs =>
    let w := leAt bs 0 4
    let id := bits w 28 20
    let first := bits w 19 10
    let count := bits w 9 0
    let len := count * (if ctype = 1 then 256 else 4)
    let data := bytesAt bs 4 len
    if bs.length < 4 + len ∨ bits w 30 29 ≠ 0 ∨ count = 0 ∨ 546 < first + count ∨ (!flk ∧ 31 < id) then none
    else if ctype = 2 ∧ (List.range count).any (fun i =>
        let e := leAt data (4 * i) 4
        decide (bits e 29 17 ≠ 0 ∨ (bits e 31 30 = 2 ∧ 4095 < bits e 16 0))) then none
    else (readBlocks ctype flk n (bs.drop (4 + len))).map fun rest =>
      { dir := bits w 31 31, id := id, first := first, count := count, data := data } :: rest

/-- Two block ranges meet. -/
def rangesMeet (a n b m : Nat) : Bool := decide (a < b + m ∧ b < a + n)

/-- Two sections of a list cover one block. -/
def sectionsMeet : List Section → Bool
  | [] => false
  | x :: xs => xs.any (fun y => rangesMeet x.start x.num y.start y.num) || sectionsMeet xs

end Sys2Proof.Machine
end

