-- ==== Sys2Proof/Machine/Place.lean ====
section
/-! DEFINITION. Runner's placement (R119, R157, R218, R222–R227): flow rates, the placement of a slot, tables, their events and
their image. -/

namespace Sys2Proof.Machine

/-! ### Sorting and small maps -/

/-- Insertion into a sorted list, after its equals. -/
def insertBy {α : Type} (lt : α → α → Bool) (x : α) : List α → List α
  | [] => [x]
  | y :: ys => if lt x y then x :: y :: ys else y :: insertBy lt x ys

/-- A stable sort. -/
def sortBy {α : Type} (lt : α → α → Bool) (l : List α) : List α := l.foldl (fun acc x => insertBy lt x acc) []

/-- Lexicographic order of keys. -/
def keyLt : List Int → List Int → Bool
  | a :: as, b :: bs => decide (a < b) || (decide (a = b) && keyLt as bs)
  | _, _ => false

/-- A number of a map by key, 0 where it has none. -/
def alGet (l : List (Nat × Nat)) (k : Nat) : Nat := ((l.find? fun x => x.1 == k).map Prod.snd).getD 0

/-- A number of a map set. -/
def alSet (l : List (Nat × Nat)) (k v : Nat) : List (Nat × Nat) := (k, v) :: l.filter fun x => !(x.1 == k)

/-! ### Modes by symbol -/

/-- The set a MODE_SET requests for a carrier it names (R89). -/
def requestedSet (d : Desc) (c : Nat) : Option Nat := if bit (dB d 16) c then some (dB d (17 + c)) else none

/-- A carrier is flask-wide: it has FLK, or it is in HLD and will return to a set with FLK (R45, R47). -/
def flaskWide (s : State) (c : Nat) : Bool := hasMode s c 3 || (hasMode s c 5 && bit (vget s.mod.cc c ⟨0, 0, 0⟩).resume.toNat 3)

/-- The carriers that a flask-wide change acts on at this member: all that its own MODE_SET names, else those that are flask-wide
here or that it turns FLK on for; a carrier local to this member stays as it is (R45). -/
def flaskNames (s : State) (q : FlkReq) : Nat :=
  maskOf ((setBits 2 q.payload.toNat).filter fun c => q.ref.isSome || flaskWide s c || bit q.payload.toNat (8 * c + 11))

/-- The set a flask-wide change gives carrier c at this member: the member's own AST and ANL bits stay, HLD takes the place of
BFS and FLK, a return restores RESUME, and the originator takes the whole set it asked for (R45, R47, R48). -/
def flaskSet (s : State) (q : FlkReq) (c : Nat) : Nat :=
  let old := setOf s c
  let w := bits q.payload.toNat (8 * c + 13) (8 * c + 8)
  if !bit (flaskNames s q) c then old
  else if q.back then (if hasMode s c 5 then (vget s.mod.cc c ⟨0, 0, 0⟩).resume.toNat else old)
  else if q.ref.isSome then w
  else if bit w 5 then 0x20 ||| (old &&& 0x10)
  else (w &&& 0x0C) ||| (old &&& 0x13)

/-- The mode set of carrier c that holds at symbol k: before the last change the set before it; from then on that of the last
accepted MODE_SET or flask-wide change due by then, else the one in force (R44, R45). -/
def setAt (s : State) (c k : Nat) : Nat :=
  if k < vget s.mod.setFrom c 0 then (vget s.mod.setOld c 0).toNat
  else
    let b := s.run.modeReqs.foldl (fun (b : Nat × Nat) q =>
      match q.sym with
      | some t => if t ≤ k ∧ b.1 ≤ t ∧ bit q.payload.toNat c then (t, flaskSet s q c) else b
      | none => b) (0, setOf s c)
    (s.host.cmds.foldl (fun (b : Nat × Nat) x =>
      match x.stage, requestedSet x.d c with
      | .bound .slot t _, some v => if dOp x.d = 0x0010 ∧ t ≤ k ∧ b.1 ≤ t then (t, v) else b
      | _, _ => b) b).2

/-! ### Ports and rates (R119, R157, R159, R218) -/

/-- A port that carries traffic: its lanes are in the distribution and grouped so (R106, R112). -/
def portUp (s : State) (p : Port) : Bool :=
  match p with
  | .single n => !bit s.lanes.four.toNat (n.val / 4) && (laneOf s n.val).inDist
  | .four k => bit s.lanes.four.toNat k.val && (List.range 4).all fun i => (laneOf s (4 * k.val + i)).inDist

/-- The ports of the present grouping, by lowest lane. -/
def portsAll (s : State) : List Port :=
  (List.finRange 4).flatMap fun k =>
    if bit s.lanes.four.toNat k.val then [Port.four k]
    else (List.finRange 4).map fun i => Port.single ⟨4 * k.val + i.val, by omega⟩

/-- The ports that carry traffic. -/
def portsUp (s : State) : List Port := (portsAll s).filter (portUp s)

/-- The port of a PORT code (R136). -/
def portOfCode (n : Nat) : Port := if n < 128 then .single (Fin.ofNat 16 n) else .four (Fin.ofNat 4 (n - 128))

/-- Admission limit of a port, bit/s (R119). -/
def portLimit (code : Nat) : Nat := if code < 128 then 23500000000 else 94000000000

/-- Admission limit of a cascade lane, bit/s (R218). -/
def laneLimit : Nat := 23500000000

/-- N blocks in M = ⌈N / B⌉ runs as even as can be, the longer first, as (start, number) (R157, R216). -/
def splitRuns (n b : Nat) : List (Nat × Nat) :=
  let m := (n + b - 1) / b
  (List.range m).map fun i => (i * (n / m) + min i (n % m), n / m + (if i < n % m then 1 else 0))

/-- The messages of an uplink flow: B is the largest number of blocks whose padded data fits MTU − 24 bytes (R157). -/
def msgRuns (blocks fullVals comp mtu : Nat) : List (Nat × Nat) :=
  splitRuns blocks (max 1 ((mtu - 24) / 4 * 32 / blockBits (fmtOf comp) fullVals))

/-- Bytes of a KIND 0 flow's messages in one symbol (R159). -/
def flowBytes (s : State) (c comp mtu : Nat) : Nat :=
  (msgRuns (prbBlocks (carrierOf s c).nprb) 96 comp mtu).foldl (fun n r =>
    n + 24 + paddedBytes (streamBits (fmtOf comp) (sectionVals s 0 c 1 r.1 r.2))) 0

/-- Bytes of a KIND 1 flow's messages in a symbol of 17,536 counts (R158, R159). -/
def streamBytes (s : State) (c comp mtu : Nat) : Nat :=
  (msgRuns (blockCount s 1 c 1) 128 comp mtu).foldl (fun n r =>
    n + 24 + paddedBytes (streamBits (fmtOf comp) (sectionVals s 1 c 1 r.1 r.2))) 0

/-- A rate in bit/s of bytes per symbol (R159). -/
def rateOf (bytes : Nat) : Nat := bytes * 224000

/-- FH_CFG settings of a carrier. -/
def fhOf (s : State) (c : Nat) : FhCc := vget s.fh.cc c {}

/-- Rate of a layer's flow on carrier c: downlink at 9,000 bytes and its BUDGET_COMP, uplink by FH_CFG (R219, R222). -/
def layerRate (s : State) (dir c comp : Nat) : Nat :=
  if dir = 0 then rateOf (flowBytes s c comp 9000) else rateOf (flowBytes s c (fhOf s c).comp (fhOf s c).mtu)

/-- Bytes of the record that holds a run of blocks (R191). -/
def psumBytes (s : State) (c start num : Nat) : Nat := 12 + paddedBytes (streamBits psumFmt (sectionVals s 0 c 1 start num))

/-- Rate of a layer's Pour flow on carrier c (R218). -/
def pourRate (s : State) (dir c comp : Nat) : Nat :=
  if dir = 0 then
    rateOf (flowBytes s c comp 9000 + 16 * (msgRuns (prbBlocks (carrierOf s c).nprb) 96 comp 9000).length)
  else rateOf ((splitRuns (prbBlocks (carrierOf s c).nprb) 16).foldl (fun n r => n + 16 + psumBytes s c r.1 r.2) 0)

/-! ### Placement of a slot (R222) -/

/-- A pot is in service: it shows STATE 0 or 3 (R194). -/
def potServes (p : Pot) : Bool := !p.retired && !p.testing && !(p.state == 1) && !p.passed

/-- Pots in service, in ascending number. -/
def potsServing (s : State) : List Nat := (List.range 8).filter fun i => potServes (potOf s i)

/-- A 2-PRB load is pending or in force in a direction: layers keep to slots 0–15 (R171, R183). -/
def halfSlots (s : State) (d : Nat) : Bool :=
  decide (vget s.cru.gran d 0 = 1) || s.cru.loads.any fun l => decide (l.dir = d ∧ l.gran = 1)

/-- Slots reserved by LOCAL layers of a direction (R220). -/
def reserved (s : State) (d : Nat) : Nat :=
  maskOf ((s.run.layers.filter fun l => l.isLocal && decide (l.dir = d)).map (·.id))

/-- Cascade lanes in the distribution of a side: 0 Cope, 1 Drag (R112). -/
def sideLanes (s : State) (d : Nat) : Nat := maskOf ((List.range 12).filter fun i => (laneOf s (16 + 12 * d + i)).inDist)

/-- What the placement knows of one member: cycles of its pots, ports, rate in use on each port in each direction by port code × 2
+ direction, reserved slots, 2-PRB restriction and cascade lanes (R222). -/
structure Memb where
  id : Nat
  pos : Nat
  cycles : Nat
  ports : List Nat
  used : List (Nat × Nat)
  rsv : Nat × Nat
  half : Bool × Bool
  cope : Nat
  drag : Nat
  deriving DecidableEq, Repr

/-- Rate of the KIND 1 uplink flows of a carrier in AST STREAM: one for each path of the quads that are on (R158, R159). -/
def astRate (s : State) (c : Nat) : Nat :=
  16 * ((List.range 4).filter fun q => domOn s (10 + q)).length * rateOf (streamBytes s c (fhOf s c).comp (fhOf s c).mtu)

/-- Rate of the KIND 1 uplink flows on a port: those of the carriers in AST STREAM whose AST_PORT it is (R119, R158). -/
def astLoad (s : State) (code : Nat) : Nat :=
  ((List.range 2).filter fun c => hasMode s c 1 && (fhOf s c).astPort == code).foldl (fun n c => n + astRate s c) 0

/-- Codes of the ports of a grouping whose lanes are in a mask. -/
def portCodes (four up : Nat) : List Nat :=
  (List.range 4).flatMap fun k =>
    if bit four k then (if bits up (4 * k + 3) (4 * k) = 15 then [128 + k] else [])
    else (List.range 4).filterMap fun i => if bit up (4 * k + i) then some (4 * k + i) else none

/-- Fronthaul lanes in the distribution (R112). -/
def fhLanes (s : State) : Nat := maskOf ((List.range 16).filter fun l => (laneOf s l).inDist)

/-- Lowest lane of a port code. -/
def portLow (code : Nat) : Nat := if code < 128 then code else 4 * (code - 128)

/-- Carriers of a layer that count in its placement: all that its CC names (R219, R222; log 60). -/
def layerCcs (l : Layer) : List Nat := setBits 2 l.ccs.toNat

/-- Span bundles of 4 PRB that hold a PRB of a carrier of a list (R222). -/
def bundlesOf (s : State) (ccs : List Nat) (gran : Nat) : Nat :=
  ((List.range (bundleCount gran)).filter fun b => ccs.any fun c => bundleIn s c gran b).length

/-- Port code of a flow at its end member. -/
def entryPort (e : Entry) (c : Nat) : Nat := if c = 0 ∨ !bit e.ccs.toNat 0 then e.port else e.port1

/-- BUDGET_COMP of a layer that this device's host has stated; the COMP of its carrier where another member's host has (R219;
log 19). -/
def budgetComp (s : State) (dir id : Nat) (loc : Bool) (c : Nat) : Nat :=
  ((s.run.layers.find? fun l => l.dir == dir && l.id == id && l.isLocal == loc).map (·.comp)).getD (fhOf s c).comp

/-- This member's LOCAL layers as the last computed table places them. -/
def localPlaced (s : State) : List Entry :=
  ((s.run.computed.filter fun t => t.member == s.gen.flaskId).foldl (fun (b : Option Table) t => match b with
    | some x => if x.slotAbs ≤ t.slotAbs then some t else some x
    | none => some t) none).elim [] fun t => t.entries.filter fun e => e.isLocal && !e.shed

/-- Pot cycles that the LOCAL layers use (R194, R222). -/
def localCycles (s : State) : Nat :=
  (localPlaced s).foldl (fun n e => n + 16 * bundlesOf s (setBits 2 e.ccs.toNat) 0) 0

/-- Rate of the LOCAL layers' flows on a port in a direction. -/
def localLoad (s : State) (code dir : Nat) : Nat :=
  ((localPlaced s).filter (·.dir == dir)).foldl (fun n e => (setBits 2 e.ccs.toNat).foldl (fun n c =>
    if entryPort e c = code then n + layerRate s dir c (budgetComp s dir e.layer true c) else n) n) 0

/-- RESOURCES of this member, the code-defined rest of STATUS 1 and 3: spare pot cycles, 2-PRB restriction, grouping, up fronthaul
lanes, cascade lanes of each side, reserved slots, and the spare rate of each port and direction in kbit/s; what LOCAL flows and
AST use is left out (R210; log 12). -/
def ownResources (s : State) : BitVec 1184 :=
  let spare := fun code dir => (portLimit code - localLoad s code dir - (if dir = 1 then astLoad s code else 0)) / 1000
  BitVec.ofNat 1184 ((38912 * (potsServing s).length - localCycles s) ||| b2n (halfSlots s 0) <<< 20 ||| b2n (halfSlots s 1) <<< 21 |||
    s.lanes.four.toNat <<< 24 ||| fhLanes s <<< 32 ||| sideLanes s 0 <<< 64 ||| sideLanes s 1 <<< 80 |||
    reserved s 0 <<< 96 ||| reserved s 1 <<< 128 |||
    (portCodes s.lanes.four.toNat (fhLanes s)).foldl (fun n code =>
      n ||| (spare code 0 ||| spare code 1 <<< 32) <<< (160 + 64 * portLow code)) 0)

/-- This member as its own placement sees it: every pot cycle, and the ports with what AST uses. -/
def ownMemb (s : State) : Memb :=
  let ports := portCodes s.lanes.four.toNat (fhLanes s)
  { id := s.gen.flaskId, pos := s.run.position, cycles := 38912 * (potsServing s).length, ports := ports
    used := ports.map fun code => (2 * code + 1, astLoad s code)
    rsv := (reserved s 0, reserved s 1), half := (halfSlots s 0, halfSlots s 1), cope := sideLanes s 0, drag := sideLanes s 1 }

/-- A member as its RESOURCES describe it. -/
def membOf (id pos : Nat) (r : BitVec 1184) : Memb :=
  let v := r.toNat
  let ports := portCodes (bits v 27 24) (bits v 47 32)
  { id := id, pos := pos, cycles := bits v 19 0, ports := ports
    used := ports.flatMap fun code => [0, 1].map fun dir =>
      (2 * code + dir, portLimit code - 1000 * bits v (160 + 64 * portLow code + 32 * dir + 31) (160 + 64 * portLow code + 32 * dir))
    rsv := (bits v 127 96, bits v 159 128), half := (bit v 20, bit v 21), cope := bits v 75 64, drag := bits v 91 80 }

/-- One placed or shed layer of a slot. -/
structure Placed where
  layer : Layer
  span : Nat
  shed : Bool := true
  endM : Nat := 0
  ports : List (Nat × Nat) := []
  slots : List (Nat × Nat) := []
  lanes : List (Nat × Nat) := []
  deriving DecidableEq, Repr

/-- What a placement in progress has used: cycles by member, slot masks by 2 × member + direction, port rates by
(member × 256 + code) × 2 + direction, lane rates by (link × 2 + upward) × 16 + lane. -/
structure Plan where
  cyc : List (Nat × Nat) := []
  slots : List (Nat × Nat) := []
  ports : List (Nat × Nat) := []
  lanes : List (Nat × Nat) := []
  out : List Placed := []
  deriving DecidableEq, Repr

/-- The table of a member for a slot. -/
def tableFor (s : State) (m n : Nat) : Option Table := s.run.computed.find? fun t => t.member == m && t.slotAbs == n

/-- A layer's entry in a table. -/
def entryIn (t : Option Table) (dir id : Nat) (loc : Bool) : Option Entry :=
  match t with
  | none => none
  | some t => t.entries.find? fun e => e.dir == dir && e.layer == id && e.isLocal == loc

/-- The first of a list with the most spare room, if a rate fits it (R120, R222). -/
def mostSpare (cap used : Nat → Nat) (rate : Nat) (l : List Nat) : Option Nat :=
  let best := l.foldl (fun (b : Option Nat) p => match b with
    | none => some p
    | some q => if (cap q : Int) - used q < (cap p : Int) - used p then some p else b) none
  best.filter fun p => decide (used p + rate ≤ cap p)

/-- The place held before if it fits, else the one with most spare. -/
def keepOrBest (cap used : Nat → Nat) (rate : Nat) (prev : Option Nat) (l : List Nat) : Option Nat :=
  match prev with
  | some p => if l.contains p && decide (used p + rate ≤ cap p) then some p else mostSpare cap used rate l
  | none => mostSpare cap used rate l

/-- Ports for the flows of a layer at its end member (R222). -/
def placePorts (s : State) (e : Memb) (l : Layer) (prev : Option Entry) :
    List Nat → Plan → List (Nat × Nat) → Option (Plan × List (Nat × Nat))
  | [], p, acc => some (p, acc)
  | c :: cs, p, acc =>
    let key := fun code => (e.id * 256 + code) * 2 + l.dir
    let rate := layerRate s l.dir c l.comp
    let old := prev.bind fun x => if x.shed ∨ x.endMember ≠ e.id then none else some (if c = 0 ∨ !bit x.ccs.toNat 0 then x.port else x.port1)
    match keepOrBest portLimit (fun q => alGet p.ports (key q)) rate old e.ports with
    | none => none
    | some q => placePorts s e l prev cs { p with ports := alSet p.ports (key q) (alGet p.ports (key q) + rate) } (acc ++ [(c, q)])

/-- Links crossed between an end member's position and the span's, with whether the layer's flow runs up the chain there. -/
def linksOf (dir pe lo hi : Nat) : List (Nat × Nat) :=
  ((List.range pe).filter fun i => decide (lo ≤ i)).map (fun i => (i, 1 - dir)) ++
    ((List.range hi).filter fun i => decide (pe ≤ i)).map (fun i => (i, dir))

/-- The number under which a table keeps the lane of a layer's flow of a carrier on a link. -/
def linkKey (dir layer link c : Nat) : Nat := ((dir * 512 + layer) * 32 + link) * 2 + c

/-- Lanes for the Pour flows of a layer on every link they cross; prev is this member's table of the slot before (R222). -/
def placeLanes (s : State) (ms : List Memb) (prev : Option Table) (l : Layer) :
    List (Nat × Nat × Nat) → Plan → List (Nat × Nat) → Option (Plan × List (Nat × Nat))
  | [], p, acc => some (p, acc)
  | (c, i, up) :: rest, p, acc =>
    let avail := match ms.find? (fun m => m.pos == i), ms.find? (fun m => m.pos == i + 1) with
      | some a, some b => setBits 12 (a.drag &&& b.cope)
      | _, _ => []
    let old := prev.bind fun t => (t.lanes.find? fun x => x.1 == linkKey l.dir l.id i c).map Prod.snd
    let key := fun lane => (i * 2 + up) * 16 + lane
    let rate := pourRate s l.dir c l.comp
    match keepOrBest (fun _ => laneLimit) (fun q => alGet p.lanes (key q)) rate old avail with
    | none => none
    | some q => placeLanes s ms prev l rest { p with lanes := alSet p.lanes (key q) (alGet p.lanes (key q) + rate) }
        (acc ++ [(i * 2 + c, q)])

/-- The slots a layer may take at a member, lowest first (R171, R183, R220, R222). -/
def openSlots (l : Layer) (m : Memb) (p : Plan) : List Nat :=
  let top := if (if l.dir = 0 then m.half.1 else m.half.2) then 16 else 32
  let used := alGet p.slots (2 * m.id + l.dir)
  if l.isLocal then (if l.id < top ∧ !bit used l.id then [l.id] else [])
  else (List.range top).filter fun i => !bit used i && !bit (if l.dir = 0 then m.rsv.1 else m.rsv.2) i

/-- The members a layer's flows go to: their least and greatest position. -/
def posRange (ms : List Memb) : Nat × Nat :=
  (ms.foldl (fun a m => min a m.pos) ((ms.map (·.pos)).headD 0), ms.foldl (fun a m => max a m.pos) 0)

/-- The largest hop distance from a member to one of a list. -/
def hopsTo (ms : List Memb) (e : Memb) : Nat := max (e.pos - (posRange ms).1) ((posRange ms).2 - e.pos)

/-- The first candidate end member at which every flow fits (R222). -/
def tryEnds (s : State) (all span : List Memb) (n : Nat) (l : Layer) (ccs : List Nat) (p : Plan) :
    List Memb → Option (Plan × Memb × List (Nat × Nat) × List (Nat × Nat))
  | [] => none
  | e :: es =>
    if l.dir = 1 ∧ 9 < hopsTo span e then tryEnds s all span n l ccs p es
    else
      let links := linksOf l.dir e.pos (posRange span).1 (posRange span).2
      let flows := if l.isLocal then [] else ccs.flatMap fun c => links.map fun x => (c, x.1, x.2)
      match placePorts s e l (entryIn (tableFor s e.id (n - 1)) l.dir l.id l.isLocal) ccs p [] with
      | none => tryEnds s all span n l ccs p es
      | some (p1, ports) => match placeLanes s all (tableFor s s.gen.flaskId (n - 1)) l flows p1 [] with
        | none => tryEnds s all span n l ccs p es
        | some (p2, lanes) => some (p2, e, ports, lanes)

/-- Spare fronthaul capacity of a member in a direction, bit/s. -/
def spareOf (p : Plan) (dir : Nat) (e : Memb) : Int :=
  e.ports.foldl (fun (a : Int) q => a + portLimit q - alGet p.ports ((e.id * 256 + q) * 2 + dir)) 0

/-- One layer placed or shed (R222). -/
def placeLayer (s : State) (all : List Memb) (me n : Nat) (p : Plan) (l : Layer) : Plan :=
  let ccs := layerCcs l
  let span := all.filter fun m => if l.isLocal then m.id == me else bit l.span.toNat m.id
  let mask := maskOf (span.map (·.id))
  let u := 16 * bundlesOf s ccs 0
  let lost := { p with out := p.out ++ [{ layer := l, span := mask, endM := if l.isLocal then me else 0 }] }
  if span.isEmpty ∨ span.any (fun m => (openSlots l m p).isEmpty || decide (m.cycles < alGet p.cyc m.id + u)) then lost
  else
    let cand := span.filter fun m => match l.pin with
      | some x => l.isLocal || m.id == x
      | none => l.isLocal || bit (if l.allow = 0 then l.span.toNat else l.allow.toNat) m.id
    let key := fun (e : Memb) =>
      [(match entryIn (tableFor s e.id (n - 1)) l.dir l.id l.isLocal with
        | some x => if x.isEnd then (0 : Int) else 1
        | none => 1), (hopsTo span e : Int), -(spareOf p l.dir e), (e.pos : Int)]
    match tryEnds s all span n l ccs p (sortBy (fun a b => keyLt (key a) (key b)) cand) with
    | none => lost
    | some (p1, e, ports, lanes) =>
      let slotOf := fun (m : Memb) =>
        let opens := openSlots l m p
        match entryIn (tableFor s m.id (n - 1)) l.dir l.id l.isLocal with
        | some x => if !x.shed && opens.contains x.slot then x.slot else opens.headD 0
        | none => opens.headD 0
      { p1 with
        cyc := span.foldl (fun a m => alSet a m.id (alGet a m.id + u)) p1.cyc
        slots := span.foldl (fun a m => alSet a (2 * m.id + l.dir) (alGet a (2 * m.id + l.dir) ||| 1 <<< slotOf m)) p1.slots
        out := p1.out ++ [{ layer := l, span := mask, shed := false, endM := e.id, ports := ports, slots := span.map fun m => (m.id, slotOf m), lanes := lanes }] }

/-- This member's FLASK_ID. -/
def ownId (s : State) : Nat := s.gen.flaskId

/-- This device is the master of a flask with an FLK carrier (R222). -/
def isFlaskMaster (s : State) : Bool := s.gen.master && (hasMode s 0 3 || hasMode s 1 3)

/-- The members a placement runs over: those in service with their resources at a master, else this one alone. -/
def membersNow (s : State) : List Memb :=
  if isFlaskMaster s then
    ownMemb s :: (s.run.members.filter fun m => !(m.1 == ownId s) && bit s.run.inSvc.toNat m.1).filterMap fun m =>
      (s.run.resources.find? fun r => r.1 == m.1).map fun r => membOf m.1 m.2 r.2
  else [ownMemb s]

/-- The placement of slot n (R222). -/
def placeSlot (s : State) (n : Nat) : Plan :=
  let ms := membersNow s
  let ls := s.run.layers.filter fun l => l.isLocal || isFlaskMaster s
  let key := fun (l : Layer) => [-(l.prio : Int), (l.dir : Int), (l.id : Int)]
  let used := ms.flatMap fun m => m.used.map fun x => (m.id * 512 + x.1, x.2)
  (sortBy (fun a b => keyLt (key a) (key b)) ls).foldl (placeLayer s ms (ownId s) n) { ports := used }

/-! ### Tables (R224–R227) -/

/-- A layer's entry in the table of a member at a position (R227). -/
def entryFor (m pos : Nat) (x : Placed) : Entry :=
  let port := fun (c : Nat) => if x.ports.any (fun q => q.1 == c) then some (alGet x.ports c) else none
  let lane := fun (i c : Nat) => if x.lanes.any (fun q => q.1 == i * 2 + c) then alGet x.lanes (i * 2 + c) else 0xF
  let first := ((x.ports.head?).map Prod.snd).getD 0xFF
  { layer := x.layer.id, dir := x.layer.dir, ccs := x.layer.ccs
    slot := if x.shed then 0 else alGet x.slots m
    shed := x.shed, isEnd := !x.shed && x.endM == m, endMember := x.endM
    port := if x.shed then 0xFF else first
    port1 := if x.shed then 0xFF else (port 1).getD first
    cope := if pos = 0 then (0xF, 0xF) else (lane (pos - 1) 0, lane (pos - 1) 1)
    drag := (lane pos 0, lane pos 1)
    prio := x.layer.prio, span := BitVec.ofNat 16 x.span, isLocal := x.layer.isLocal }

/-- The table of a member from a placement: every layer whose span includes it and its LOCAL layers, by direction and
number (R224). -/
def tableOfPlan (s : State) (n seq : Nat) (p : Plan) (m : Memb) : Table :=
  let mine := p.out.filter fun x => if x.layer.isLocal then m.id == ownId s else bit x.layer.span.toNat m.id
  let key := fun (e : Entry) => [(e.dir : Int), (e.layer : Int)]
  { member := m.id, slotAbs := n, seq := seq
    flags := if hasMode s 0 3 || hasMode s 1 3 then 0 else 8
    master := if hasMode s 0 3 || hasMode s 1 3 then BitVec.ofNat 8 s.run.masterId else 0xFF
    inSvc := BitVec.ofNat 16 (maskOf ((membersNow s).map (·.id)))
    lanes := if m.id = ownId s then
        (p.out.filter fun x => !x.shed && !x.layer.isLocal).flatMap fun x =>
          x.lanes.map fun y => (linkKey x.layer.dir x.layer.id (y.1 / 2) (y.1 % 2), y.2)
      else []
    entries := sortBy (fun a b => keyLt (key a) (key b)) (mine.map (entryFor m.id m.pos)) }

/-- Slots' tables are computed while a carrier is in BFS (R222, R224; log 13). -/
def runnerOn (s : State) : Bool := anyBfs s

/-- The tables of slot n computed: at the master for every member in service, else this member's (R222, R224). -/
def computeTables (n : Nat) (s : State) : State :=
  if !runnerOn s then s
  else
    let seq := (s.run.seq + 1) % 2 ^ 32
    let p := placeSlot s n
    let ts := (membersNow s).map (tableOfPlan s n seq p)
    { s with run := { s.run with seq := seq, computed := s.run.computed.filter (fun t => !(t.slotAbs == n)) ++ ts } }

/-- One entry's 12 bytes (R227). -/
def entryBytes (e : Entry) : List Byte :=
  bytesLE 4 (e.layer ||| e.dir <<< 9 ||| e.ccs.toNat <<< 10 ||| e.slot <<< 12 ||| b2n e.shed <<< 17 ||| b2n e.isEnd <<< 18 |||
    e.endMember <<< 20 ||| e.port <<< 24) ++
  bytesLE 4 (e.cope.1 ||| e.cope.2 <<< 4 ||| e.drag.1 <<< 8 ||| e.drag.2 <<< 12 ||| e.prio <<< 16) ++
  bytesLE 4 e.span.toNat

/-- An entry read from its bytes (R227). -/
def entryRead (bs : List Byte) : Entry :=
  let a := leAt bs 0 4
  let b := leAt bs 4 4
  { layer := bits a 8 0, dir := bits a 9 9, ccs := BitVec.ofNat 2 (bits a 11 10), slot := bits a 16 12, shed := bit a 17
    isEnd := bit a 18, endMember := bits a 23 20, port := bits a 31 24, port1 := bits a 31 24
    cope := (bits b 3 0, bits b 7 4), drag := (bits b 11 8, bits b 15 12), prio := bits b 23 16
    span := BitVec.ofNat 16 (leAt bs 8 2) }

/-- SYMBOL_ID with symbol 0 of a slot. -/
def slotId (s : State) (n : Nat) : Nat := symId s (14 * n)

/-- DATA bytes 16–31 of part k of a table (R225). -/
def tableHead (s : State) (t : Table) (part flags : Nat) : List Byte :=
  bytesLE 4 (slotId s t.slotAbs) ++ bytesLE 2 (t.entries.length + part * 2048) ++ bytesLE 1 flags ++ bytesLE 1 t.master.toNat ++
    bytesLE 2 t.inSvc.toNat ++ bytesLE 2 (t.entries.filter (·.shed)).length ++ bytesLE 4 t.seq

/-- A table's image in Ladle target 4 (R226). -/
def tableImage (s : State) (t : Table) : List Byte :=
  tableHead s t 0 t.flags.toNat ++ t.entries.flatMap entryBytes ++ bytesLE 4 t.seq

/-- A byte list in continuation slots of 28 bytes (R83, R225). -/
def inSlots28 : Nat → List Byte → List (BitVec 224)
  | 0, _ => []
  | n + 1, bs => if bs.isEmpty then [] else BitVec.ofNat 224 (leNat (bs.take 28)) :: inSlots28 n (bs.drop 28)

/-- Entries of a table posted as TABLE events of at most 64 entries each (R224, R225, R231). -/
def postParts (s : State) (t : Table) (es : List Entry) (flags : Nat) : State :=
  (List.range (max 1 ((es.length + 63) / 64))).foldl (fun s k =>
    let body := ((es.drop (64 * k)).take 64).flatMap entryBytes
    postEvent s ⟨0x0301, 2, ownId s, 0x10, BitVec.ofNat 128 (leNat (tableHead s t k flags)), inSlots28 28 body⟩) s

/-- A whole table posted. -/
def postTable (s : State) (t : Table) (flags : Nat) : State := postParts s t t.entries flags

/-- The table of a slot published two slots before it (R224, R226). -/
def publishTable (n : Nat) (s : State) : State :=
  match tableFor s (ownId s) n with
  | none => s
  | some t =>
    let s := postTable s t t.flags.toNat
    let all := (s.run.computed.filter fun x => x.slotAbs == n).flatMap (·.entries)
    let count := fun d => ((all.filter fun e => e.shed && e.dir == d).map fun e => (e.layer, e.isLocal)).dedup.length
    { s with run := { s.run with
        next := some t, pubSlot := some (BitVec.ofNat 19 (slotId s n)), pubSeq := t.seq, shedUl := count 1, shedDl := count 0 } }

/-- The entry of a layer in this member's table of a symbol's slot: LOCAL on a carrier without FLK (R190). -/
def entryAt (s : State) (c dir id k : Nat) : Option Entry :=
  (entryIn (tableFor s (ownId s) (k / 14)) dir id (!bit (setAt s c k) 3)).filter fun e => bit e.ccs.toNat c

/-- The layers of a direction that this member works in a symbol on a carrier, by local slot (R190, R223). -/
def placedAt (s : State) (c dir k : Nat) : List Entry :=
  match tableFor s (ownId s) (k / 14) with
  | none => []
  | some t => (sortBy (fun a b => decide (a.slot < b.slot)) t.entries).filter fun e =>
      !e.shed && e.dir == dir && bit e.ccs.toNat c && (e.isLocal != bit (setAt s c k) 3)

end Sys2Proof.Machine
end

