-- ==== Sys2Proof/Machine/Tundish.lean ====
section
/-! DEFINITION. Fronthaul messages, the Tundish and Assay (05): Slag, credit books, received frames, delay measurement, FH_CFG
and ASSAY_CTX. -/

namespace Sys2Proof.Machine

/-! ### Slag and sending -/

/-- n messages discarded with a cause (R146). -/
def slag (s : State) (cause n : Nat) : State :=
  { s with fh := { s.fh with slag := vmod s.fh.slag cause fun x => satTo 0xFFFFFFFF (x + n) } }

/-- A sequence number taken against the next expected one: how many messages were lost, or none for a repeat; the first number counts
as expected (R152; log 15). -/
def seqGap (next : Option Nat) (seq : Nat) : Option Nat :=
  match next with
  | none => some 0
  | some x =>
    let d := (seq + 256 - x) % 256
    if d ≤ 128 then some (d - 1) else none

/-- The Assay context of an index (R162). -/
def assayOf (s : State) (i : Nat) : AssayCtx := ((s.fh.assay.find? fun x => x.1 == i).map Prod.snd).getD {}

/-- A context put in its place by index; one in reset state is not listed. -/
def assayPut (s : State) (i : Nat) (x : AssayCtx) : State :=
  let rest := s.fh.assay.filter fun y => !(y.1 == i)
  { s with fh := { s.fh with assay := if x = {} then rest else insertBy (fun a b => decide (a.1 < b.1)) (i, x) rest } }

/-- Assay snoops a message: the CRC over its bytes and its sequence number (R163). -/
def assaySnoop (s : State) (i seq : Nat) (bs : List Byte) : State :=
  let x := assayOf s i
  let crc := crc32cNext x.crc bs
  assayPut s i (match seqGap x.next seq with
    | some g => { x with crc := crc, next := some ((seq + 1) % 256), gaps := satTo 0xFFFF (x.gaps + g) }
    | none => { x with crc := crc, repeats := satTo 0xFF (x.repeats + 1) })

/-- The Assay index of a flow key: DIR, CC, KIND, ID (R162). -/
def assayIndex (key : Nat) : Nat := bits key 15 14 * 2048 + bits key 13 12 * 512 + bits key 8 0

/-- The next sequence number of a flow that the device sends (R135). -/
def nextTxSeq (s : State) (key : Nat) : State × Nat :=
  let n := ((s.fh.txSeq.find? fun x => x.1.toNat == key).map Prod.snd).getD 0
  ({ s with fh := { s.fh with
      txSeq := (BitVec.ofNat 16 key, (n + 1) % 256) :: s.fh.txSeq.filter fun x => !(x.1.toNat == key) } }, n)

/-- A message of a flow sent on a port to the carrier's baseband, snooped by Assay (R135, R158, R163). -/
def sendFlow (s : State) (p : Port) (type cc key : Nat) (body : List Byte) : State :=
  let r := nextTxSeq s key
  let m := ecpriMsg type (bytesBE 2 key ++ bytesBE 1 r.2 ++ bytesBE 1 0x80 ++ body)
  let s := assaySnoop r.1 (assayIndex key) r.2 m
  let f := fhOf s cc
  send s (.frame p (ethFrame f.bbAddr.toNat (portMac s p) (tagOf f) 0xAEFE m))

/-- One message of an uplink section: headers and data (R136, R138, R157). -/
def ulBody (s : State) (p : Port) (k : Nat) (stl nc : Bool) (comp start num : Nat) (data : List Byte) : List Byte :=
  msgHead 1 (symId s k) p.code (ownId s) ++ sectionHead stl nc comp num start ++ data

/-! ### Credit books (R150–R156) -/

/-- The book of a flow. -/
def bookOf (s : State) (c : Nat) (ctrl : Bool) (id : Nat) : Option Book :=
  s.fh.books.find? fun b => b.cc == c && b.ctrl == ctrl && b.id == id

/-- The book of a flow changed. -/
def modBook (s : State) (c : Nat) (ctrl : Bool) (id : Nat) (f : Book → Book) : State :=
  { s with fh := { s.fh with books := s.fh.books.map fun b => if b.cc == c && b.ctrl == ctrl && b.id == id then f b else b } }

/-- Credits the baseband holds by the device's count (R150). -/
def bookHeld (b : Book) : Int := sx 32 (b.limit - b.arrived).toNat

/-- One credit granted, unless the book closes or the pool is full (R150, R155, R156). -/
def bookGrant (b : Book) : Book :=
  if b.closing = 0 ∧ bookHeld b + b.occupied < b.pool then { b with limit := b.limit + 1 } else b

/-- n messages lost before this one: each advances ARRIVED and is granted again (R152). -/
def bookLost : Nat → Book → Book
  | 0, b => b
  | n + 1, b => bookLost n (bookGrant { b with arrived := b.arrived + 1 })

/-- A message's sequence number at the book (R152). -/
def bookSeq (seq : Nat) (b : Book) : Book :=
  match seqGap b.nextSeq seq with
  | some g => { bookLost g b with nextSeq := some ((seq + 1) % 256) }
  | none => b

/-- A slot of a book released (R149, R150). -/
def bookRelease (b : Book) : Book := bookGrant { b with occupied := b.occupied - 1 }

/-- A book opened; one that is open stays (R155). DESIGN CHOICE (log 74): a flow that gets a pool while its old book drains starts with
LIMIT = POOL and ARRIVED = 0 beside the slots that are still occupied. -/
def openBook (s : State) (c : Nat) (ctrl : Bool) (id pool : Nat) : State :=
  let fresh : Book := { cc := c, ctrl := ctrl, id := id, pool := pool, limit := BitVec.ofNat 32 pool }
  match bookOf s c ctrl id with
  | some b =>
    if b.closing = 0 then s
    else modBook s c ctrl id fun b => { fresh with occupied := b.occupied }
  | none => { s with fh := { s.fh with books := s.fh.books ++ [fresh] } }

/-- A book begins to close (R155). -/
def closeBook (s : State) (c : Nat) (ctrl : Bool) (id : Nat) : State :=
  modBook s c ctrl id fun b => if b.closing = 0 then { b with closing := 1 } else b

/-- At a slot tick: a book that was closing no longer accepts messages (R155). -/
def booksSlot (s : State) : State :=
  { s with fh := { s.fh with books := s.fh.books.map fun b => if b.closing = 1 then { b with closing := 2 } else b } }

/-- Closed books that hold nothing are dropped (R155). -/
def booksDrop (s : State) : State :=
  { s with fh := { s.fh with books := s.fh.books.filter fun b => !(b.closing == 2 && b.occupied == 0) } }

/-- A slot that a held message leaves. -/
def releaseSlot (s : State) (c : Nat) (ctrl : Bool) (id : Nat) : State := modBook s c ctrl id bookRelease

/-! ### Messages leaving the Tundish (R44, R149, R180, R341) -/

/-- Held downlink messages of a choice leave: discarded with a cause, or released where there is none. -/
def dropHeld (s : State) (chosen : HeldMsg → Bool) (cause : Option Nat) : State :=
  let gone := s.fh.held.filter chosen
  let s := { s with fh := { s.fh with held := s.fh.held.filter fun m => !chosen m } }
  let s := gone.foldl (fun s m => if m.credited then releaseSlot s m.cc false m.id else s) s
  match cause with
  | some c => slag s c gone.length
  | none => s

/-- Held control messages of a choice leave, likewise. -/
def dropCtrl (s : State) (chosen : CtrlMsg → Bool) (cause : Option Nat) : State :=
  let gone := s.fh.ctrl.filter chosen
  let s := { s with fh := { s.fh with ctrl := s.fh.ctrl.filter fun m => !chosen m } }
  let s := gone.foldl (fun s m => if m.credited then releaseSlot s m.cc true 0 else s) s
  match cause with
  | some c => slag s c gone.length
  | none => s

/-- KIND 1 messages of a choice leave the direct stream buffers. -/
def dropDirect (s : State) (chosen : HeldMsg → Bool) (cause : Option Nat) : State :=
  let gone := s.fh.direct.filter chosen
  let s := { s with fh := { s.fh with direct := s.fh.direct.filter fun m => !chosen m } }
  match cause with
  | some c => slag s c gone.length
  | none => s

/-- Uplink messages of a choice removed before egress (R146 cause 18, R115). -/
def dropUplink (s : State) (chosen : UlMsg → Bool) (cause : Nat) : State :=
  slag { s with fh := { s.fh with ulQueue := s.fh.ulQueue.filter fun m => !chosen m } } cause (s.fh.ulQueue.filter chosen).length

/-- Uplink messages leave in the order symbol, carrier, ID and block; those of one layer are queued in the order of their blocks
(R158). -/
def sendUplink (s : State) : State :=
  let key := fun (m : UlMsg) => [(m.sym : Int), m.cc, bits (beAt m.bytes 0 2) 8 0]
  (sortBy (fun (a b : UlMsg) => keyLt (key a) (key b)) s.fh.ulQueue).foldl (fun s m =>
    sendFlow s m.port 0 m.cc (beAt m.bytes 0 2) (m.bytes.drop 2)) { s with fh := { s.fh with ulQueue := [] } }

/-! ### Received messages (R133–R152) -/

/-- A message that passed checks 5 to 8, and the lane domain it came in on. -/
structure Parsed where
  ctrl : Bool
  kind : Nat
  cc : Nat
  id : Nat
  seq : Nat
  sym : Nat
  past : Bool
  secs : List Section := []
  ctype : Nat := 0
  blocks : List WBlock := []
  dom : Nat := 4
  deriving DecidableEq, Repr

/-- The symbol that a received SYMBOL_ID names: the occurrence whose deadline lies within 5.12 s of the arrival, and whether
it lies before the first symbol the grid numbers (R137). -/
def resolveSym (s : State) (id : Nat) : Nat × Bool :=
  let k := symNamed s (symFrom s (s.tb.now + 29491 - 2516582400)) id
  (k, decide (s.tb.now + 29491 + 2516582400 ≤ tickT s k))

/-- Checks 5 to 8 of a type 0 or type 2 message: what it holds, or the cause it fails by (R132–R142, R187, R438). -/
def parseMsg (s : State) (m : RxMsg) : Except Nat Parsed :=
  let p := rxPayload m
  if p.length < 4 then .error 5
  else
    let key := beAt p 0 2
    let e := beAt p 3 1
    let ctrl := m.type == 2
    let kind := bits key 13 12
    let cc := bits key 14 14
    let id := bits key 8 0
    if e ≠ 0x80 then .error 7
    else if bit key 15 ∨ kind = 3 ∨ (kind == 2) ≠ ctrl ∨ (kind = 2 ∧ id ≠ 0) ∨ bits key 11 9 ≠ 0 ∨ (kind = 1 ∧ 63 < id) ∨
        (kind = 0 ∧ !bit (setOf s cc) 3 ∧ 31 < id) ∨ p.length < 12 then .error 8
    else
      let w0 := leAt p 4 4
      let nsec := bits w0 27 24
      let sid := bits w0 18 0
      let r := resolveSym s sid
      let base : Parsed := { ctrl := ctrl, kind := kind, cc := cc, id := id, seq := beAt p 2 1, sym := r.1, past := r.2 }
      if bits w0 31 28 ≠ 0 ∨ bits w0 23 19 ≠ 0 ∨ leAt p 10 2 ≠ 0 ∨ !symIdOk sid ∨ (nsec == 0) ≠ ctrl then .error 8
      else if ctrl then
        let w := leAt p 12 4
        let ctype := bits w 7 0
        if p.length < 16 ∨ bits w 31 16 ≠ 0 ∨ (ctype ≠ 1 ∧ ctype ≠ 2) then .error 8
        else match readBlocks ctype (bit (setOf s cc) 3) (bits w 15 8) (p.drop 16) with
          | none => .error 8
          | some bs => .ok { base with ctype := ctype, blocks := bs }
      else match readSections s kind cc r.1 nsec (p.drop 12) with
        | none => .error 8
        | some l => .ok { base with secs := l }

/-- The carrier takes a message of this KIND at its symbol (R145). -/
def takesKind (s : State) (m : Parsed) : Bool :=
  let set := if m.past then setOf s m.cc else setAt s m.cc m.sym
  !suspended s m.cc && (if m.kind = 1 then bit set 1 else bit set 2)

/-- Checks 11 and 12: the arrival window of R144. -/
def windowCause (s : State) (m : Parsed) : Option Nat :=
  let d := (tickT s m.sym : Int) - 29491
  let a := (s.tb.now : Int)
  let open_ := d - (if m.kind = 1 then 35584 else ((fhOf s m.cc).adv : Int))
  let shut := if m.ctrl then d - 4096 else d
  if m.past then some 12 else if a < open_ then some 11 else if shut < a then some 12 else none

/-- Check 13: the layer is shed in the table of the message's slot (R121). -/
def layerShed (s : State) (m : Parsed) : Bool :=
  m.kind == 0 && (match entryAt s m.cc 0 m.id m.sym with
    | some e => e.shed
    | none => false)

/-- Check 15: a block twice in the message, or one the Tundish already holds (R146). -/
def overlaps (s : State) (m : Parsed) : Bool :=
  sectionsMeet m.secs || (m.kind == 0 && s.fh.held.any fun h => h.cc == m.cc && h.id == m.id && h.sym == m.sym &&
    h.secs.any fun x => m.secs.any fun y => rangesMeet x.start x.num y.start y.num)

/-- A message held (R145, R148). -/
def holdMsg (s : State) (m : Parsed) (credited : Bool) : State :=
  if m.ctrl then
    { s with fh := { s.fh with ctrl := s.fh.ctrl ++ [{ cc := m.cc, sym := m.sym, ctype := m.ctype, blocks := m.blocks, credited := credited }] } }
  else
    let h : HeldMsg := { cc := m.cc, kind := m.kind, id := m.id, sym := m.sym, secs := m.secs, credited := credited, dom := m.dom }
    if m.kind = 1 then { s with fh := { s.fh with direct := s.fh.direct ++ [h] } }
    else { s with fh := { s.fh with held := s.fh.held ++ [h], peak := max s.fh.peak (s.fh.held.length + 1) } }

/-- Checks 9 to 15 and the credit book: the message is held or discarded (R145, R146, R151). -/
def offerCore (s : State) (m : Parsed) : State × Bool :=
  if !takesKind s m then (slag s 9 1, false)
  else if !isDl s m.sym then (slag s 10 1, false)
  else
    let w := (windowCause s m).orElse fun _ => if layerShed s m then some 13 else none
    if m.kind = 1 then
      match w with
      | some c => (slag s c 1, false)
      | none => if overlaps s m then (slag s 15 1, false) else (holdMsg s m false, true)
    else
      let id := if m.ctrl then 0 else m.id
      let s := modBook s m.cc m.ctrl id (bookSeq m.seq)
      let credit := match bookOf s m.cc m.ctrl id with
        | some b => b.closing ≠ 2 && decide (0 < bookHeld b)
        | none => false
      if !credit then (slag s (w.getD 14) 1, false)
      else
        let s := modBook s m.cc m.ctrl id fun b => { b with arrived := b.arrived + 1 }
        match w.orElse fun _ => if overlaps s m then some 15 else none with
        | some c => (slag (modBook s m.cc m.ctrl id bookGrant) c 1, false)
        | none => (holdMsg (modBook s m.cc m.ctrl id fun b => { b with occupied := b.occupied + 1 }) m true, true)

/-- What the messages that arrive at one count have changed in a book (R153). -/
def bookTally (now : Nat) (old b : Book) : Book :=
  let same := b.arrAt == now
  { b with
    arrAt := now
    arrN := (if same then b.arrN else 0) + (b.arrived - old.arrived)
    limN := (if same then b.limN else 0) + (b.limit - old.limit) }

/-- A message offered, with a note of what it changed in its flow's book. -/
def offerMsg (s : State) (m : Parsed) : State × Bool :=
  let r := offerCore s m
  let id := if m.ctrl then 0 else m.id
  match bookOf s m.cc m.ctrl id with
  | some b => if m.kind = 1 then r else (modBook r.1 m.cc m.ctrl id (bookTally s.tb.now b), r.2)
  | none => r

/-! ### One-way delay measurement (R160) -/

/-- A type 5 payload of the device: action, timestamp now, compensation 0. -/
def owdPayload (mid : Byte) (action sec ns : Nat) : List Byte :=
  mid :: BitVec.ofNat 8 action :: (bytesBE 6 sec ++ bytesBE 4 ns ++ bytesBE 8 0)

/-- A type 5 message sent to an address. -/
def owdSend (s : State) (p : Port) (dst : Nat) (payload : List Byte) : State :=
  send s (.frame p (ethFrame dst (portMac s p) none 0xAEFE (ecpriMsg 5 payload)))

/-- The receive correction of a port, ps, signed (R312). -/
def portAdjRx (s : State) (p : Port) : Int := sx 16 (bits (vget s.tb.portAdj p.lane.val 0).toNat 15 0)

/-- The transmit correction of a port. -/
def portAdjTx (s : State) (p : Port) : Int := sx 16 (bits (vget s.tb.portAdj p.lane.val 0).toNat 31 16)

/-- A port timestamp now: ToD in 1/16 ns with a correction in ps (R312). -/
def stamp16 (s : State) (adj : Int) : Int := (s.tb.tod * 16 / todNs : Nat) + adj * 16 / 1000

/-- A port timestamp in seconds [47:0] and ns. -/
def stampNow (s : State) (adj : Int) : Nat × Nat :=
  let t := (stamp16 s adj).toNat / 16
  (t / 1000000000 % 2 ^ 48, t % 1000000000)

/-- A timestamp as one number of ns. -/
def stampNs (sec ns : Nat) : Int := (sec : Int) * 1000000000 + ns

/-- FHM_OWD of a port: t2 − t1 in ns (R160). -/
def owdRecord (s : State) (p : Port) (d : Int) : State :=
  { s with fh := { s.fh with owd := vmod s.fh.owd p.lane.val (fun _ => BitVec.ofNat 32 (tc 32 d)) } }

/-- The open exchange of a port and measurement ID. -/
def owdFind (s : State) (p : Port) (mid : Byte) (own : Bool) : Option OwdReq :=
  s.fh.owdReq.find? fun r => r.port == p && r.mid == mid && r.own == own

/-- An exchange ends. -/
def owdDrop (s : State) (r : OwdReq) : State := { s with fh := { s.fh with owdReq := s.fh.owdReq.filter fun x => !(x == r) } }

/-- A one-way delay message whose first bit passed the port `back` ps ago (R160, R312): requests 0x00 and 0x01 are answered, 0x05
completes a two-step request, 0x03 and 0x04 make the device send a request, 0x02 ends one the device sent. -/
def owdArrive (s : State) (p : Port) (back : Nat) (m : OwdMsg) : State :=
  let now := stampNow s (portAdjRx s p - back)
  let out := stampNow s (portAdjTx s p)
  let open_ := fun (own : Bool) (t : Nat × Nat) => { s with fh := { s.fh with
    owdReq := s.fh.owdReq ++ [{ port := p, mid := m.mid, own := own, stamp := stampNs t.1 t.2, src := m.src }] } }
  match m.action.toNat with
  | 0 => owdSend s p m.src.toNat (owdPayload m.mid 2 now.1 now.2)
  | 1 => open_ false now
  | 5 => match owdFind s p m.mid false with
    | some r => owdSend (owdDrop s r) p r.src.toNat (owdPayload m.mid 2 ((r.stamp / 1000000000).toNat % 2 ^ 48) (r.stamp % 1000000000).toNat)
    | none => s
  | 2 => match owdFind s p m.mid true with
    | some r => owdRecord (owdDrop s r) p (stampNs m.sec.toNat m.ns.toNat - r.stamp)
    | none => s
  | 3 => owdSend (open_ true out) p m.src.toNat (owdPayload m.mid 0 out.1 out.2)
  | 4 => owdSend (owdSend (open_ true out) p m.src.toNat (owdPayload m.mid 1 0 0)) p m.src.toNat (owdPayload m.mid 5 out.1 out.2)
  | _ => s

/-- OWD_MESSAGE_RX: a one-way delay message whose first bit passes a port that carries traffic. -/
def execOwdMessageRx (dt : Nat) (port : Port) (msg : OwdMsg) (s : State) : Host.Outcome State Fault Refusal :=
  let s := arrive dt s
  .next (if portUp s port then owdArrive s port 0 msg else s)

/-- A type 5 message in a frame: its fields, if they are all there. -/
def owdRead (src : Nat) (p : List Byte) : OwdMsg :=
  { src := BitVec.ofNat 48 src, mid := p.headD 0, action := (p.drop 1).headD 0
    sec := BitVec.ofNat 48 (beAt p 2 6), ns := BitVec.ofNat 32 (beAt p 8 4), comp := BitVec.ofNat 64 (beAt p 12 8) }

/-! ### Received frames (R131–R133, R146) -/

/-- Time that n bytes take on a port, ps (R106). -/
def lineTime (p : Port) (n : Nat) : Nat :=
  match p with
  | .single _ => n * 320
  | .four _ => n * 80

/-- One identified message of a frame of n bytes that passed the frame's checks: checked, snooped, offered. The list takes each
message that the Tundish admitted, with its bytes, for the cascade copies of R215. -/
def takeMsg (p : Port) (src n : Nat) (a : State × List (Parsed × List Byte)) (m : RxMsg) : State × List (Parsed × List Byte) :=
  let s := a.1
  if m.rev ≠ 1 then (slag s 5 1, a.2)
  else if m.type = 5 then
    if (rxPayload m).length < 20 then (slag s 5 1, a.2)
    else if 5 < ((rxPayload m).drop 1).headD 0 then (slag s 8 1, a.2)
    else (owdArrive s p (lineTime p n) (owdRead src (rxPayload m)), a.2)
  else if m.type ≠ 0 ∧ m.type ≠ 2 then (slag s 6 1, a.2)
  else match parseMsg s m with
    | .error c => (slag s c 1, a.2)
    | .ok x =>
      let s := assaySnoop s (assayIndex (flowKey false x.cc x.kind x.id)) x.seq m.all
      let r := offerMsg s { x with dom := laneDom p.lane.val }
      (r.1, if r.2 then a.2 ++ [(x, m.all)] else a.2)

/-- Length of the frame's address, tag and EtherType fields, its number of tags (two stand for more), and its EtherType. -/
def frameHead (bs : List Byte) : Nat × Nat × Nat :=
  if beAt bs 12 2 = 0x8100 then (if beAt bs 16 2 = 0x8100 then (22, 2, beAt bs 20 2) else (18, 1, beAt bs 16 2))
  else (14, 0, beAt bs 12 2)

/-- The port's FEC is on (R107). -/
def portFecOn (s : State) (p : Port) : Bool := bit s.lanes.portFec.toNat p.lane.val

/-- A lane of the port is leaving the distribution (R115). -/
def portLeaving (s : State) (p : Port) : Bool :=
  match p with
  | .single n => decide (0 < (laneOf s n.val).leaveIn)
  | .four k => (List.range 4).any fun i => decide (0 < (laneOf s (4 * k.val + i)).leaveIn)

/-- A type 0 or type 2 message whose payload cannot hold PC_ID or RTC_ID and SEQ_ID: its whole frame fails the header check (R132). -/
def msgShort (m : RxMsg) : Bool := (m.type == 0 || m.type == 2) && decide ((rxPayload m).length < 4)

/-- A frame received whole on a port that is in the distribution (R146): the frame's checks, then each message. Of a broadcast frame
only type 5 messages are taken. -/
def frameTake (s : State) (p : Port) (f : FhFrame) : State × List (Parsed × List Byte) :=
  let bs := f.bytes
  let h := frameHead bs
  let client := bs.drop h.1
  let r := splitMsgs 2300 client
  let ecpri := h.2.1 ≤ 1 && h.2.2 == 0xAEFE
  let n := if ecpri then max 1 r.1.length else 1
  let dst := beAt bs 0 6
  let msgs := if dst = 2 ^ 48 - 1 then r.1.filter (·.type == 5) else r.1
  let bcast := dst == 2 ^ 48 - 1 && ecpri && !msgs.isEmpty
  let s := if portFecOn s p then modLane s p.lane.val fun l => { l with fecCorr := satTo 0xFFFFFFFF (l.fecCorr + f.corrected) } else s
  if bs.length < 60 then (s, [])
  else if f.fcsBad then (slag s 0 n, [])
  else if f.fecBad ∧ portFecOn s p then
    (slag (laneErr (modLane s p.lane.val fun l => { l with fecUnc := satTo 0xFFFFFFFF (l.fecUnc + 1) }) p.lane.val) 1 n, [])
  else if portLeaving s p then (slag s 2 n, [])
  else if dst ≠ portMac s p ∧ !bcast then (slag s 3 n, [])
  else if !ecpri then (slag s 4 n, [])
  else
    let s := if msgs.length < r.1.length then slag s 3 (r.1.length - msgs.length) else s
    if !r.2.1 ∨ 9000 < client.length ∨ (r.2.2 ≠ 0 ∧ 60 < bs.length) ∨ r.1.any msgShort then (slag s 5 (max 1 msgs.length), [])
    else msgs.foldl (takeMsg p (beAt bs 6 6) (bs.length + 4)) (s, [])

/-! ### Credit records (R153) -/

/-- One entry of a CREDIT record: messages that arrive at the tick itself belong to the next record. -/
def creditEntry (now : Nat) (b : Book) : List Byte :=
  let here := b.arrAt == now
  bytesLE 4 (b.pool * 65536 + b2n b.ctrl * 512 + b.id) ++ bytesLE 4 (if here then b.limit - b.limN else b.limit).toNat ++
    bytesLE 4 (if here then b.arrived - b.arrN else b.arrived).toNat

/-- Every lane of a port is UP (R112). -/
def portIsUp (s : State) (p : Port) : Bool :=
  match p with
  | .single n => laneIsUp s n.val
  | .four k => (List.range 4).all fun i => laneIsUp s (4 * k.val + i)

/-- The CREDIT record of a carrier at the tick of symbol k: every flow with a pool while the carrier is in BFS, and every
closing book, the control flow first, then by ID; it leaves on the lowest port that is UP (R153; log 16). -/
def creditRecord (k : Nat) (s : State) (c : Nat) : State :=
  let mine := s.fh.books.filter fun b => b.cc == c && (hasMode s c 2 || b.closing != 0)
  let l := sortBy (fun (a b : Book) => keyLt [(1 - b2n a.ctrl : Int), (a.id : Int)] [(1 - b2n b.ctrl : Int), (b.id : Int)]) mine
  match (portsAll s).filter (portIsUp s) with
  | [] => s
  | p :: _ =>
    if l.isEmpty then s
    else sendFlow s p 2 c (flowKey true c 2 0x1FF)
      (msgHead 0 (symId s k) p.code (ownId s) ++ bytesLE 4 (0x80 + l.length % 256 * 256) ++ l.flatMap (creditEntry s.tb.now))

/-- The credit records of a symbol tick, CC0's first (R153). -/
def creditRecords (k : Nat) (s : State) : State := creditRecord k (creditRecord k (booksDrop s) 0) 1

/-! ### FH_CFG (R156, R166, R167) -/

/-- Refusal checks of FH_CFG. -/
def fhCfgCheck (s : State) (c : Cmd) : Option Refuse :=
  let d := c.d
  let cc := dB d 16
  let pool := dH d 32
  if !(decide (cc ≤ 1 ∧ dB d 17 ≤ 4 ∧ 1500 ≤ dH d 18 ∧ dH d 18 ≤ 9000 ∧ 17536 ≤ dW d 20 ∧ dW d 20 ≤ 983040 ∧ 1 ≤ pool ∧ pool ≤ 128 ∧
      dB d 34 ≤ 15) && dZero d 35 63) then some ⟨cField, 0⟩
  else if 4096 < pool * 32 + (if hasMode s (1 - cc) 2 then (fhOf s (1 - cc)).pool * 32 else 0) then some ⟨64, 0⟩
  else none

/-- The settings an FH_CFG gives its carrier (R166). -/
def fhCfgOf (d : Desc) : FhCc :=
  { comp := dB d 17, mtu := dH d 18, adv := dW d 20, bbAddr := BitVec.ofNat 48 (beNat (bytesLE 6 (bits d.toNat 239 192)))
    vid := bits (dH d 30) 11 0, pcp := bits (dH d 30) 14 12, tagEn := bit (dH d 30) 15, pool := dH d 32, astPort := dB d 34 }

/-- FH_CFG at its slot tick: the settings, and the new POOL of the open books (R156). -/
def fhCfgEffect (s : State) (c : Cmd) : State :=
  let cc := dB c.d 16
  let pool := dH c.d 32
  cmdDone { s with fh := { s.fh with
    cc := vmod s.fh.cc cc fun _ => fhCfgOf c.d
    books := s.fh.books.map fun b =>
      if b.cc = cc ∧ !b.ctrl ∧ b.closing = 0 then { b with pool := pool, limit := b.limit + BitVec.ofNat 32 (pool - b.pool) } else b } } c

/-- FH_CFG (0x0070). -/
def fhCfgDef : CmdDef where
  opcode := 0x0070
  tick _ := .slot
  check := fhCfgCheck
  effect := fhCfgEffect
  keys c := [keyOf 0x0070 0 (dB c.d 16)]

/-- FH_CFG. -/
def execFhCfg (dt : Nat) (ref : CmdRef) (d : Desc) (s : State) : Host.Outcome State Fault Refusal :=
  .next (runCmd fhCfgDef dt ref d s)

/-! ### ASSAY_CTX (R164) -/

/-- Refusal checks of ASSAY_CTX. -/
def assayCtxCheck (_ : State) (c : Cmd) : Option Refuse :=
  if decide (dB c.d 16 ≤ 2 ∧ dH c.d 18 ≤ 0x21FF) && dZero c.d 17 17 && dZero c.d 25 63 then none else some ⟨cField, 0⟩

/-- ASSAY_CTX on acceptance: READ, WRITE or RESET, and the values after it. DESIGN CHOICE (log 75): while no number is expected, the
record gives 0 for it. -/
def assayCtxEffect (s : State) (c : Cmd) : State :=
  let i := dH c.d 18
  let s := match dB c.d 16 with
    | 1 => assayPut s i { crc := BitVec.ofNat 32 (dW c.d 20) ^^^ 0xFFFFFFFF, next := some (dB c.d 24) }
    | 2 => assayPut s i {}
    | _ => s
  let x := assayOf s i
  cmdDone s { c with result := BitVec.ofNat 64 ((x.crc ^^^ 0xFFFFFFFF).toNat ||| (x.next.getD 0) <<< 32 ||| x.repeats <<< 40 ||| x.gaps <<< 48) }

/-- ASSAY_CTX (0x0071). -/
def assayCtxDef : CmdDef where
  opcode := 0x0071
  tick _ := .none
  check := assayCtxCheck
  effect := assayCtxEffect

/-- ASSAY_CTX. -/
def execAssayCtx (dt : Nat) (ref : CmdRef) (d : Desc) (s : State) : Host.Outcome State Fault Refusal :=
  .next (runCmd assayCtxDef dt ref d s)

end Sys2Proof.Machine
end

