-- ==== Sys2Proof/Machine/Lanes.lean ====
section
/-! DEFINITION. Serial lanes (04): training, detectors, faults and retries, the distribution and what a lane loss moves, test
patterns, Synchronous Ethernet, and LANE_CTRL. -/

namespace Sys2Proof.Machine

/-! ### Synchronous Ethernet (R128) -/

/-- Why the source lane does not qualify: the cause of SYNCE_SQUELCH, 0 where it does. -/
def synceCause (s : State) : Nat :=
  let l := laneOf s s.lanes.synceSrc
  if !s.lanes.synceEn then 5 else if l.los then 1 else if l.lol then 2
  else if inLts s s.lanes.synceSrc then 4
  else if !(l.state == .up) || l.retired || !domOn s (laneDom s.lanes.synceSrc) then 3 else 0

/-- FHL_SYNCE.VALID as it stands now; each clearing posts SYNCE_SQUELCH (R128). -/
def synceUpdate (s : State) : State :=
  let c := synceCause s
  let was := s.lanes.synceValid
  let s := { s with lanes := { s.lanes with synceValid := c == 0 } }
  if was && c != 0 then post s 0x0005 4 s.lanes.synceSrc c else s

/-! ### Leaving and joining the distribution (R112, R115) -/

/-- Port codes that a lane belongs to. -/
def portOfLane (s : State) (l : Nat) : Nat := if bit s.lanes.four.toNat (l / 4) then 128 + l / 4 else l

/-- A lane stops sending and leaves the distribution at the second air symbol tick; what is queued for it goes to Slag
(R115). -/
def laneLeave (s : State) (l : Nat) : State :=
  let x := laneOf s l
  let s := modLane s l fun x => { x with joinDue := false }
  if x.inDist ∧ x.leaveIn = 0 then
    let s := modLane s l fun x => { x with leaveIn := 2 }
    if l < 16 then dropUplink s (fun m => m.port.code == portOfLane s l) 2 else s
  else s

/-- A lane leaves the distribution at once (R49). -/
def laneOut (s : State) (l : Nat) : State := modLane s l fun x => { x with inDist := false, leaveIn := 0, joinDue := false }

/-! ### Training attempts (R109–R112, R116) -/

/-- INITIALIZE and PRESET as PRE and POST (R109). -/
def tapsInit : Nat × Nat := (4, 10)
def tapsPreset : Nat × Nat := (0, 0)

/-- A FEC setting that waited takes effect at the lane's training (R129). -/
def fecTake (s : State) (l : Nat) : State :=
  match (laneOf s l).fecPend with
  | none => s
  | some b =>
    let s := modLane s l fun x => { x with fecPend := none }
    { s with lanes := { s.lanes with portFec := if b then s.lanes.portFec ||| 1#16 <<< l else s.lanes.portFec &&& ~~~(1#16 <<< l) } }

/-- An attempt starts (R111, R116, R342). -/
def startAttempt (kind : AttemptKind) (s : State) (l : Nat) : State :=
  let x := laneOf s l
  let mode := if kind = .kept then TrainMode.fixed else x.mode
  let taps := if kind = .kept then (x.pre, x.post) else match mode with
    | .fixed => x.setTaps.getD tapsPreset
    | _ => tapsInit
  let s := modLane s l fun x => { x with
    state := .training, attempt := some { kind := kind, startAt := s.tb.now, mode := mode }, retryAt := none, peer := false
    preset := false, pre := taps.1, post := taps.2, inv := (x.rxInv, x.txInv), untrained := false, sidle := false
    retries := if kind = .retry then s.tb.now :: recent s.tb.now x.retries else x.retries }
  fecTake s l

/-- The count at which an attempt fails (R116). -/
def attemptLimit (a : Attempt) : Nat :=
  a.startAt + (match a.mode with
    | .fixed => 983040
    | .on => 245760000
    | .auto => if a.got then 245760000 else 246743040)

/-- A lane of a RETRAIN is UP or has failed: the command ends once none is left (R129). -/
def laneResolve (s : State) (l : Nat) (ok : Bool) : State :=
  (s.host.cmds.filter fun c => dOp c.d == 0x0072 && bit c.note.toNat l).foldl (fun s c =>
    let c := { c with
      note := c.note &&& ~~~(1#64 <<< l)
      result := if ok then c.result else c.result ||| (1#64 <<< l) }
    if c.note = 0 then cmdDone s c else cmdPut s c) s

/-- A lane is retired: electrical idle, LANE_RETIRED, UNIT_RETIRED (R116, R117, R378). -/
def laneRetire (s : State) (l by_ : Nat) : State :=
  let s := laneLeave s l
  let s := modLane s l fun x => { x with retired := true, state := .down, attempt := none, retryAt := none, peer := false }
  let s := post s 0x0003 4 l (laneOf s l).lastFault
  laneResolve (noteRetired s 2 l by_) l false

/-- The other lanes of a four-lane port (R114). -/
def portMates (s : State) (l : Nat) : List Nat :=
  if l < 16 ∧ bit s.lanes.four.toNat (l / 4) then (List.range 4).map (fun i => 4 * (l / 4) + i) |>.filter (· ≠ l) else []

/-- A lane whose four-lane port went out of service waits to retrain with the lane that faulted, and counts nothing (R114); one in LTS
or retired stays as it is (R117, R118). -/
def mateWait (s : State) (m : Nat) : State :=
  let x := laneOf s m
  let wait := fun (x : Lane) => { x with state := .retryWait, attempt := none, retryAt := some (s.tb.now + 491520), peer := true }
  if inLts s m || x.retired then s
  else match x.state with
    | .up => modLane (laneLeave s m) m wait
    | .training => laneResolve (modLane s m wait) m false
    | _ => s

/-- A lane fault (R114–R116): LANE_DOWN, the lane leaves, and it waits for a retry or is retired. -/
def laneFault (s : State) (l cause : Nat) : State :=
  let s := modLane s l fun x => { x with lastFault := cause, attempt := none }
  let s := laneLeave (laneErr (post s 0x0001 4 l cause) l) l
  let n := (recent s.tb.now (laneOf s l).retries).length
  let s :=
    if 3 ≤ n then laneRetire s l 1
    else noteFault (modLane s l fun x => { x with state := .retryWait, retryAt := some (s.tb.now + 491520) }) 2 l (n + 1)
  (portMates s l).foldl mateWait s

/-- A side on which no training frame has come while all its first attempts ended is unconnected (R202). -/
def sideCheck (s : State) (d : Nat) : State :=
  let busy := (List.range 12).any fun i => ((laneOf s (16 + 12 * d + i)).attempt).isSome || (laneOf s (16 + 12 * d + i)).state == .up
  if (vget s.run.side d {}).connected = none ∧ !busy then
    modSide s d fun x => { x with connected := some false, beyond := 0, masterBeyond := false }
  else s

/-- A training attempt runs out of time (R114, R116, R118, R342). -/
def attemptFail (s : State) (l : Nat) : State :=
  match (laneOf s l).attempt with
  | none => s
  | some a =>
    let s := modLane s l fun x => { x with attempt := none }
    match a.kind with
    | .first =>
      let s := laneResolve (modLane s l fun x => { x with state := .down }) l false
      if 16 ≤ l ∧ !a.got then sideCheck s ((l - 16) / 12) else s
    | .lts => laneResolve (modLane s l fun x => { x with state := .down }) l false
    | .kept => startAttempt .first s l
    | _ => laneResolve (laneFault s l 7) l false

/-- A lane has held the conditions of R112 for 1 ms: UP, and due to join at the next air slot tick unless it is in LTS. -/
def laneUp (s : State) (l : Nat) : State :=
  let s := modLane s l fun x => { x with
    state := .up, attempt := none, blockLock := true, los := false, lol := false, hiBer := false, align := false
    joinDue := !inLts s l, badPour := 0, goodPour := 0, quietSyms := 0, pour := false }
  let s := if 16 ≤ l then modSide s ((l - 16) / 12) fun d => { d with connected := some true } else s
  laneResolve (post s 0x0002 4 l (b2n (laneOf s l).preset)) l true

/-! ### The events of a lane -/

/-- The lane's domain is on and the lane is not retired. -/
def laneLive (s : State) (l : Nat) : Bool := domOn s (laneDom l) && !(laneOf s l).retired

/-- The running attempt may make the lane UP: training is over, as both sides report receiver ready, or the attempt trains nothing
(R110, R111). -/
def trainedUp (s : State) (l : Nat) : Bool :=
  match (laneOf s l).attempt with
  | none => false
  | some a => a.mode == .fixed || a.fell || a.ready

/-- LANE_UP. -/
def execLaneUp (dt : Nat) (l : Fin 40) (s : State) : Host.Outcome State Fault Refusal :=
  let s := arrive dt s
  .next (if domOn s (laneDom l.val) && trainedUp s l.val then synceUpdate (laneUp s l.val) else s)

/-- One tap code after a request within its range (R109, R110). -/
def tapStep (t : TapStep) (top : Nat) (other : Nat) (v : Nat) : Nat :=
  match t with
  | .inc => if v + 1 ≤ top ∧ v + 1 + other ≤ 24 then v + 1 else v
  | .dec => v - 1
  | .hold => v

/-- The status of a tap after a request: a request that R109 does not let through leaves it at its maximum or minimum (R110). -/
def tapStatus (t : TapStep) (changed : Bool) : TapStatus :=
  match t with
  | .hold => .notUpdated
  | .inc => if changed then .updated else .maximum
  | .dec => if changed then .updated else .minimum

/-- What the receiver asks of the partner's taps: a free value until its eye metric stops improving (R110; log 10). -/
def tapAsks (s : State) (l : Nat) (done : Bool) : List TapStep :=
  (List.range 3).map fun i => if done then .hold else match Config.tapAsk (drawKey s) l i % 3 with
    | 0 => .hold
    | 1 => .inc
    | _ => .dec

/-- A training frame: the partner's tap requests applied, one step each, and both sides' receiver status; the frame sent back reports
on each tap. MAIN follows PRE and POST, so a request to it alone changes nothing (R109, R110; log 66). -/
def trainFrame (s : State) (l : Nat) (f : TrainFrame) : State :=
  match (laneOf s l).attempt with
  | none => s
  | some a =>
    if a.mode = .fixed ∨ a.fell then s
    else
      let x := laneOf s l
      let pre := tapStep f.pre 12 x.post x.pre
      let post := tapStep f.post 24 pre x.post
      let s := modLane s l fun x =>
        { x with pre := pre, post := post, attempt := some { a with got := true, ready := f.partnerReady && f.eyeDone } }
      let s := send s (.train l [tapStatus f.pre (pre != x.pre), tapStatus f.main false, tapStatus f.post (post != x.post)]
        (tapAsks s l f.eyeDone) f.eyeDone)
      if 16 ≤ l then modSide s ((l - 16) / 12) fun d => { d with connected := some true } else s

/-- TRAINING_FRAME_RX. -/
def execTrainingFrameRx (dt : Nat) (l : Fin 40) (f : TrainFrame) (s : State) : Host.Outcome State Fault Refusal :=
  let s := arrive dt s
  .next (if domOn s (laneDom l.val) then trainFrame s l.val f else s)

/-- TRAINING_FALLBACK: an AUTO attempt without a training frame falls back to PRESET after 500 ms (R111). -/
def execTrainingFallback (l : Fin 40) (s : State) : Host.Outcome State Fault Refusal :=
  .next (match (laneOf s l.val).attempt with
    | some a =>
      if a.mode = .auto ∧ !a.got ∧ !a.fell then
        modLane (arriveAt (a.startAt + 245760000) s) l.val fun x => { x with
          pre := tapsPreset.1, post := tapsPreset.2, preset := true, attempt := some { a with fell := true } }
      else arrive 0 s
    | none => arrive 0 s)

/-- ATTEMPT_FAIL: the attempt's time limit expires (R116). -/
def execAttemptFail (l : Fin 40) (s : State) : Host.Outcome State Fault Refusal :=
  .next (match (laneOf s l.val).attempt with
    | some a =>
      if a.mode = .auto ∧ !a.got ∧ !a.fell then arrive 0 s
      else synceUpdate (attemptFail (arriveAt (attemptLimit a) s) l.val)
    | none => arrive 0 s)

/-- RETRY_START: 1 ms after the fault or the failed attempt (R116). -/
def execRetryStart (l : Fin 40) (s : State) : Host.Outcome State Fault Refusal :=
  .next (match (laneOf s l.val).retryAt with
    | some t => startAttempt (if (laneOf s l.val).peer then .plain else .retry) (arriveAt t s) l.val
    | none => arrive 0 s)

/-- A detector's flag set or cleared; block lock shows inverted (R113). -/
def detSet (det : Detector) (b : Bool) (x : Lane) : Lane :=
  match det with
  | .los => { x with los := b }
  | .lol => { x with lol := b }
  | .blockLock => { x with blockLock := !b }
  | .hiBer => { x with hiBer := b }
  | .align => { x with align := b }
  | .pour => { x with pour := b }

/-- A detector asserts: a fault of a lane that is UP; in LTS only recorded (R114, R118). -/
def detectorAssert (s : State) (l : Nat) (det : Detector) : State :=
  let s := modLane s l (detSet det true)
  if inLts s l then post (laneErr (modLane s l fun x => { x with lastFault := det.code }) l) 0x0001 4 l det.code
  else if (laneOf s l).state = .up ∧ !(laneOf s l).retired then laneFault s l det.code
  else s

/-- DETECTOR_ASSERT. -/
def execDetectorAssert (dt : Nat) (l : Fin 40) (det : Detector) (s : State) : Host.Outcome State Fault Refusal :=
  let s := arrive dt s
  .next (if domOn s (laneDom l.val) then synceUpdate (detectorAssert s l.val det) else s)

/-- A detector clears; LOS clearing on a DOWN fronthaul lane starts a first training once the lanes have their clock (R57, R113,
R114). -/
def detectorClear (s : State) (l : Nat) (det : Detector) : State :=
  let s := modLane s l (detSet det false)
  if clkOn s ∧ det = .los ∧ l < 16 ∧ (laneOf s l).state = .down ∧ !(laneOf s l).retired ∧ !inLts s l then startAttempt .first s l else s

/-- DETECTOR_CLEAR. -/
def execDetectorClear (dt : Nat) (l : Fin 40) (det : Detector) (s : State) : Host.Outcome State Fault Refusal :=
  let s := arrive dt s
  .next (if domOn s (laneDom l.val) then synceUpdate (detectorClear s l.val det) else s)

/-- A lane's PRBS counters as they stand now: while its checker is in sync they also hold what it has counted since then, a free value
(R125; log 10). -/
def prbsErrNow (s : State) (l : Nat) : Nat :=
  satTo 0xFFFFFFFF ((laneOf s l).prbsErr + (if (laneOf s l).chkSync then Config.prbsErrs (drawKey s) l else 0))
def prbsBitsNow (s : State) (l : Nat) : BitVec 64 :=
  (laneOf s l).prbsBits + (if (laneOf s l).chkSync then BitVec.ofNat 64 (Config.prbsBits (drawKey s) l) else 0)

/-- Checker errors of a lane as pulses on FAN3 while it is assigned to Link Test (R56; log 78). -/
def errorPulses (s : State) (n : Nat) : State := if fanTest s 3 ∧ 0 < n then send s (.pulse 3 n) else s

/-- The start of a pattern as a pulse on FAN2 while it is assigned to Link Test, where the lane is the lowest-numbered one in LTS (R56;
log 78). -/
def patternPulse (s : State) (l : Nat) : State :=
  if fanTest s 2 ∧ (laneOf s l).gen ≠ 0 ∧ (List.range 40).find? (inLts s) = some l then send s (.pulse 2 1) else s

/-- A checker stops or starts anew: what it has counted stays in the counters (R125). -/
def prbsStop (s : State) (l : Nat) : State :=
  errorPulses (modLane s l fun x => { x with chkSync := false, prbsErr := prbsErrNow s l, prbsBits := prbsBitsNow s l })
    (prbsErrNow s l - (laneOf s l).prbsErr)

/-- Generator, checker and loopback of a lane off (R118, R127). -/
def testOff (s : State) (l : Nat) : State :=
  modLane (prbsStop s l) l fun x => { x with gen := 0, genInv := false, chk := 0, chkInv := false, loopback := 0, squelch := false }

/-- CHECKER_SYNC: 64 matching bits (R125). -/
def execCheckerSync (dt : Nat) (l : Fin 40) (s : State) : Host.Outcome State Fault Refusal :=
  let s := arrive dt s
  .next (if inLts s l.val ∧ (laneOf s l.val).chk ≠ 0 then modLane s l.val fun x => { x with chkSync := true } else s)

/-- PRBS_SYNC_LOST: the errors and bits counted since sync, and the event (R125). -/
def execPrbsSyncLost (dt : Nat) (l : Fin 40) (errs nbits : Nat) (s : State) : Host.Outcome State Fault Refusal :=
  let s := arrive dt s
  .next (if (laneOf s l.val).chkSync then
      let s := modLane s l.val fun x => { x with
        chkSync := false, prbsErr := satTo 0xFFFFFFFF (x.prbsErr + errs), prbsBits := x.prbsBits + BitVec.ofNat 64 nbits }
      post (errorPulses s errs) 0x0004 4 l.val (laneOf s l.val).prbsErr
    else s)

/-! ### What a lane loss moves (R119–R123) -/

/-- A flow on a port or lane: its layer, carrier, rate and place; place none while it is being moved. -/
structure Flow where
  prio : Nat
  dir : Nat
  layer : Nat
  loc : Bool
  cc : Nat
  rate : Nat
  at_ : Option Nat
  deriving DecidableEq, Repr

/-- Rate used on a place by a list of flows. -/
def loadOf (fs : List Flow) (p : Nat) : Nat := (fs.filter fun f => f.at_ == some p).foldl (fun n f => n + f.rate) 0

/-- Two flows belong to one layer. -/
def sameLayer (a b : Flow) : Bool := a.dir == b.dir && a.layer == b.layer && a.loc == b.loc

/-- Moved flows put on the place with most spare, in order; the part placed before the first that fits nowhere, and whether
all were placed (R120). -/
def packFlows (cap : Nat → Nat) (places : List Nat) : List Flow → List Flow → List Flow × Bool
  | fs, [] => (fs, true)
  | fs, m :: ms =>
    match mostSpare cap (loadOf fs) m.rate places with
    | none => (fs, false)
    | some p => packFlows cap places (fs.map fun f => if f = m then { f with at_ := some p } else f) ms

/-- R120's loop: layers of lowest priority are shed until every moved flow fits; the flows left, and the layers shed. -/
def repack (cap : Nat → Nat) (places : List Nat) : Nat → List Flow → List Flow → List Flow × List Flow
  | 0, fs, shed => (fs, shed)
  | n + 1, fs, shed =>
    let moved := sortBy (fun (a b : Flow) => keyLt [-(a.prio : Int), (a.layer : Int)] [-(b.prio : Int), (b.layer : Int)])
      (fs.filter fun f => f.at_ == none)
    let r := packFlows cap places fs moved
    if r.2 then (r.1, shed)
    else match sortBy (fun (a b : Flow) => keyLt [(a.prio : Int), -(a.layer : Int)] [(b.prio : Int), -(b.layer : Int)]) r.1 with
      | [] => (r.1, shed)
      | f :: _ => repack cap places n (r.1.filter fun x => !sameLayer x f) (shed ++ [f])

/-- The uplink and downlink flows that end at this member in a table, with their ports (R119). -/
def endFlows (s : State) (t : Table) (dir : Nat) : List Flow :=
  (t.entries.filter fun e => e.isEnd && !e.shed && e.dir == dir).flatMap fun e =>
    ((setBits 2 e.ccs.toNat).filter fun c => hasMode s c 2 && (hasMode s c 3 != e.isLocal)).map fun c =>
      { prio := e.prio, dir := dir, layer := e.layer, loc := e.isLocal, cc := c
        rate := layerRate s dir c (budgetComp s dir e.layer e.isLocal c), at_ := some (entryPort e c) }

/-- The KIND 1 uplink flows of the carriers that the sets put into AST STREAM. They stay on the ports FH_CFG names and rank above
every layer, as no rule moves or sheds them (R119, R158). -/
def astFlows (s : State) (sets : Nat → Nat) : List Flow :=
  ((List.range 2).filter fun c => bit (sets c) 1).map fun c =>
    { prio := 256, dir := 1, layer := 512, loc := false, cc := c, rate := astRate s c, at_ := some (fhOf s c).astPort }

/-- Downlink layers are shed, lowest priority first, until their summed rate fits (R120). -/
def shedDown (cap : Nat) : Nat → List Flow → List Flow → List Flow × List Flow
  | 0, fs, shed => (fs, shed)
  | n + 1, fs, shed =>
    if fs.foldl (fun a f => a + f.rate) 0 ≤ cap then (fs, shed)
    else match sortBy (fun (a b : Flow) => keyLt [(a.prio : Int), -(a.layer : Int)] [(b.prio : Int), -(b.layer : Int)]) fs with
      | [] => (fs, shed)
      | f :: _ => shedDown cap n (fs.filter fun x => !sameLayer x f) (shed ++ [f])

/-- An entry after flows were moved or its layer shed; and whether it changed. -/
def entryMoved (fs shed : List Flow) (e : Entry) : Entry :=
  let mine := fun (f : Flow) => f.dir == e.dir && f.layer == e.layer && f.loc == e.isLocal
  if shed.any mine then { e with shed := true, slot := 0, isEnd := false, port := 0xFF, port1 := 0xFF, cope := (0xF, 0xF), drag := (0xF, 0xF) }
  else fs.foldl (fun e f => if mine f then (match f.at_ with
    | some p => if f.cc = 0 then { e with port := p } else { e with port := if bit e.ccs.toNat 0 then e.port else p, port1 := p }
    | none => e) else e) e

/-- A layer's Pour flow leaves this member on a side, or comes in there: downlink copies run away from the end member, partial sums
toward it (R215, R216). -/
def flowOut (s : State) (e : Entry) (d : Nat) : Bool :=
  if e.isEnd then e.dir == 0 else (memberSide s e.endMember == some d) == (e.dir == 1)

/-- The Pour flows of a table on one side's lanes, one direction over the link (R122). -/
def sideFlows (s : State) (t : Table) (d : Nat) (out : Bool) : List Flow :=
  (t.entries.filter fun e => !e.shed && !e.isLocal && flowOut s e d == out).flatMap fun e =>
    (setBits 2 e.ccs.toNat).filterMap fun c =>
      let p := if d = 0 then e.cope else e.drag
      let lane := if c = 0 then p.1 else p.2
      if lane = 0xF then none
      else some { prio := e.prio, dir := e.dir, layer := e.layer, loc := false, cc := c,
                  rate := pourRate s e.dir c (budgetComp s e.dir e.layer false c), at_ := some lane }

/-- An entry with the lane of a carrier's flow on a side set. -/
def setSideLane (d c lane : Nat) (e : Entry) : Entry :=
  if d = 0 then { e with cope := if c = 0 then (lane, e.cope.2) else (e.cope.1, lane) }
  else { e with drag := if c = 0 then (lane, e.drag.2) else (e.drag.1, lane) }

/-- An entry whose Pour flows on a side moved; partial sums that found no lane there have none, and their layer is not shed: Runner
moves its finishing in the tables it computes from then on (R122; log 19). -/
def entrySide (d : Nat) (fs lost : List Flow) (e : Entry) : Entry :=
  let mine := fun (f : Flow) => f.dir == e.dir && f.layer == e.layer && !e.isLocal
  let e' := fs.foldl (fun e f => if mine f then (match f.at_ with
    | some p => setSideLane d f.cc p e
    | none => e) else e) e
  if lost.any mine then setSideLane d 0 0xF (setSideLane d 1 0xF e') else e'

/-- Ports that carry traffic and are not leaving, as codes. -/
def openPorts (s : State) : List Nat := ((portsUp s).filter fun p => !portLeaving s p).map Port.code

/-- Summed limit of ports (R119). -/
def summedLimit (ps : List Nat) : Nat := ps.foldl (fun n p => n + portLimit p) 0

/-- A flow whose place is not among those left has none. -/
def lift (left : List Nat) (f : Flow) : Flow :=
  match f.at_ with
  | some p => if left.contains p || f.layer == 512 then f else { f with at_ := none }
  | none => f

/-- The Pour flows of one side and direction over the link, put on the lanes that are left (R122). -/
def sideMoved (s : State) (t : Table) (fuel : Nat) (a : List Entry × List Flow) (x : Nat × Bool) : List Entry × List Flow :=
  let lanes := setBits 12 (sideLanes s x.1)
  let q := repack (fun _ => laneLimit) lanes fuel ((sideFlows s { t with entries := a.1 } x.1 x.2).map (lift lanes)) []
  let copies := q.2.filter (·.dir == 0)
  ((a.1.map (entrySide x.1 q.1 (q.2.filter (·.dir == 1)))).map (entryMoved [] copies), a.2 ++ copies)

/-- A table after the ports and cascade lanes that are up now took over what others carried (R120–R122). -/
def tableMoved (s : State) (t : Table) : Table × List Flow :=
  let ps := openPorts s
  let fuel := t.entries.length + 1
  let up := repack portLimit ps fuel ((endFlows s t 1 ++ astFlows s (setOf s)).map (lift ps)) []
  let dn := shedDown (summedLimit ps) fuel (endFlows s t 0) []
  let dn1 := dn.1.map (lift ps)
  let dn2 := packFlows (fun p => portLimit p + summedLimit ps) ps dn1 (dn1.filter fun f => f.at_ == none)
  let t1 := t.entries.map (entryMoved (up.1 ++ dn2.1) (up.2 ++ dn.2))
  let r := [(0, true), (0, false), (1, true), (1, false)].foldl (sideMoved s t fuel) (t1, [])
  ({ t with entries := r.1 }, up.2 ++ dn.2 ++ r.2)

/-- A table after a loss of lanes: one that has been published and changes is marked INTERIM (R121, R225). -/
def tableInterim (s : State) (t : Table) : Table :=
  let x := (tableMoved s t).1
  if x = t then t
  else if t.slotAbs ≤ (s.run.next.map (·.slotAbs)).getD t.slotAbs then { x with flags := x.flags ||| 4 } else x

/-- At the removal tick: the assignment of what lost lanes carried, in the table in force, the one published and those already
computed, and the INTERIM event with the changed entries (R120–R122, R225, R226). -/
def reassign (s : State) : State :=
  let n := symNow s / 14
  match tableFor s (ownId s) n with
  | none => s
  | some t =>
    let x := tableInterim s t
    let diff := (t.entries.zip x.entries).filterMap fun y => if y.1 = y.2 then none else some y.2
    if diff.isEmpty then s
    else
      let gone := (tableMoved s t).2
      let s := { s with run := { s.run with
        table := some x, next := s.run.next.map (tableInterim s)
        computed := s.run.computed.map fun y => if y.member = ownId s ∧ n ≤ y.slotAbs then tableInterim s y else y } }
      let s := gone.foldl (fun s f => if f.dir = 0 then forAll 2 s fun s c => closeBook s c false f.layer else s) s
      postParts s x diff (x.flags.toNat ||| 4)

/-- The remaining lanes carry all traffic without shedding, for the carrier sets given (R49, R119, R123). -/
def capacityOk (s : State) (mask : Nat) (sets : Nat → Nat) : Bool :=
  let hit := (List.range 40).any fun l => bit mask l && (laneOf s l).inDist
  let ps := (openPorts s).filter fun p => if p < 128 then !bit mask p else decide (bits mask (4 * (p - 128) + 3) (4 * (p - 128)) = 0)
  let s' := { s with mod := { s.mod with cc := vall s.mod.cc fun c x => { x with set := BitVec.ofNat 6 (sets c) } } }
  let table := tableFor s (ownId s) (symNow s / 14)
  let flows := fun dir => match table with
    | some t => if anyBfs s then endFlows s' t dir else []
    | none => []
  let newLocal := fun (c : Nat) => bit (sets c) 2 && !bit (sets c) 3 && !(hasMode s c 2 && !hasMode s c 3)
  let fresh := fun dir => (s.run.layers.filter fun l => l.dir == dir && l.isLocal).flatMap fun l =>
    ((layerCcs l).filter newLocal).map fun c =>
      ({ prio := l.prio, dir := dir, layer := l.id, loc := true, cc := c, rate := layerRate s dir c l.comp, at_ := none } : Flow)
  let ast := astFlows s sets
  let up := (flows 1 ++ fresh 1 ++ ast).map (lift ps)
  let moved := sortBy (fun (a b : Flow) => keyLt [-(a.prio : Int), (a.layer : Int)] [-(b.prio : Int), (b.layer : Int)]) (up.filter fun f => f.at_ == none)
  let down := (flows 0 ++ fresh 0 ++ ast).foldl (fun n f => n + f.rate) 0
  let sideOk := [(0, true), (0, false), (1, true), (1, false)].all fun x =>
    let lanes := (setBits 12 (sideLanes s x.1)).filter fun i => !bit mask (16 + 12 * x.1 + i)
    match table with
    | some t =>
      let fs := (sideFlows s' t x.1 x.2).map (lift lanes)
      (packFlows (fun _ => laneLimit) lanes fs (fs.filter fun f => f.at_ == none)).2
    | none => true
  !hit || (ast.all (fun f => (f.at_.map ps.contains).getD false || decide (f.rate = 0)) &&
    ps.all (fun p => decide (loadOf up p ≤ portLimit p)) && (packFlows portLimit ps up moved).2 &&
    decide (down ≤ summedLimit ps) && sideOk)

/-! ### The air ticks -/

/-- At an air symbol tick: lanes on their way out of the distribution, and what they carried at their removal (R115, R120);
cascade lanes without a valid frame for two symbol periods (R209). -/
def lanesSymbol (s : State) : State :=
  let gone := (List.range 40).any fun l => (laneOf s l).leaveIn == 1
  let s := { s with lanes := { s.lanes with lane := vall s.lanes.lane fun l x => { x with
    inDist := x.inDist && !(x.leaveIn == 1), leaveIn := x.leaveIn - 1
    quietSyms := if 16 ≤ l ∧ x.state = .up then x.quietSyms + 1 else x.quietSyms } } }
  let s := if gone then reassign s else s
  forAll 40 s fun s l =>
    let x := laneOf s l
    if 16 ≤ l ∧ 2 < x.quietSyms ∧ x.state = .up ∧ !x.pour then synceUpdate (detectorAssert s l .pour) else s

/-- At an air slot tick: lanes that came UP join the distribution (R112, R116). -/
def lanesSlot (s : State) : State :=
  { s with lanes := { s.lanes with lane := vall s.lanes.lane fun _ x => { x with inDist := x.inDist || x.joinDue, joinDue := false } } }

/-! ### LANE_CTRL (R129) -/

/-- LANES: bytes 18 – 22. -/
def dLanes (d : Desc) : Nat := bits d.toNat 183 144

/-- The lanes that a LANE_CTRL acts on. -/
def ctrlLanes (s : State) (d : Desc) : List Nat :=
  let k := dB d 23
  let group := (List.range 4).map fun i => 4 * k + i
  match dB d 16 with
  | 3 => group
  | 4 => if bit s.lanes.four.toNat k then group else group.filter fun l => bit (dLanes d) l
  | _ => setBits 40 (dLanes d)

/-- The lane is UP or training, and not in LTS. -/
def laneActive (s : State) (l : Nat) : Bool :=
  !inLts s l && !(laneOf s l).retired && ((laneOf s l).state == .up || (laneOf s l).state == .training)

/-- Lanes that a LANE_CTRL takes out of the distribution: those retrained, regrouped, or whose FEC changes (R123, R129). -/
def ctrlRemoves (s : State) (d : Desc) : List Nat :=
  match dB d 16 with
  | 0 | 3 => ctrlLanes s d
  | 4 => (ctrlLanes s d).filter fun l => laneActive s l && bit s.lanes.portFec.toNat l != bit (dB d 24) 0
  | _ => []

/-- The lanes that a LANE_CTRL names: none where its LANES is ignored (R117, R129). -/
def ctrlNamed (s : State) (d : Desc) : List Nat :=
  match dB d 16 with
  | 3 => []
  | 4 => if bit s.lanes.four.toNat (dB d 23) then [] else setBits 40 (dLanes d)
  | _ => setBits 40 (dLanes d)

/-- Refusal checks of LANE_CTRL. -/
def laneCtrlCheck (s : State) (c : Cmd) : Option Refuse :=
  let d := c.d
  let a := dB d 16
  let x := dB d 23
  let y := dB d 24
  let fields := match a with
    | 1 => decide (x ≤ 2)
    | 2 => decide (x ≤ 12 ∧ y ≤ 24 ∧ x + y ≤ 24)
    | 3 | 4 => decide (x ≤ 3 ∧ y ≤ 1)
    | 5 => decide (bits x 2 0 ≤ 5 ∧ x < 16 ∧ bits y 2 0 ≤ 5 ∧ y < 16)
    | 6 => decide (x ≤ 3 ∧ y ≤ 1)
    | _ => decide (a ≤ 7)
  if !(fields && dZero d 17 17 && dZero d 25 63) then some ⟨cField, 0⟩
  else
    let ls := ctrlLanes s d
    let named := ctrlNamed s d
    let doms := if a = 3 ∨ a = 4 then named ++ (List.range 4).map (4 * x + ·) else named
    match domRefuse s (doms.map laneDom) with
    | some r => some r
    | none =>
      let test := a == 5 || a == 6 || a == 7
      if named.any (fun l => (laneOf s l).retired && !(test && inLts s l)) then some ⟨65, 0⟩
      else if test ∧ ls.any (fun l => !inLts s l) then some ⟨64, 0⟩
      else if a = 4 ∧ ls.isEmpty then some ⟨66, 0⟩
      else if a = 6 ∧ x = 2 ∧ ls.any (fun l => (portMates s l).any fun m => !ls.contains m) then some ⟨66, 0⟩
      else if !capacityOk s (maskOf ((ctrlRemoves s d).filter fun l => !inLts s l)) (setOf s) then some ⟨cCapacity, 0⟩
      else none

/-- A lane leaves and trains again by a host command, with nothing counted as a fault; one in RETRY_WAIT counts an attempt (R116, R118,
R123). Without its clock a lane does not train (R57, R293). -/
def hostRetrain (s : State) (l : Nat) : State :=
  let x := laneOf s l
  if !clkOn s then s
  else if inLts s l then startAttempt .lts (testOff s l) l
  else match x.state with
    | .down => startAttempt .first s l
    | .retryWait => startAttempt .retry s l
    | .training => startAttempt (match x.attempt with
        | some a => if a.kind = .first then .first else .plain
        | none => .first) s l
    | .up => startAttempt .plain (laneLeave s l) l

/-- A RETRAIN of cascade lanes: the side's neighbour is looked for again, and a conflict is left, so the chain has to become known
anew (R202, R204). -/
def cascadeAgain (s : State) (ls : List Nat) : State :=
  let s := [0, 1].foldl (fun s d =>
    if ls.any (fun l => decide (16 + 12 * d ≤ l ∧ l < 28 + 12 * d)) && (vget s.run.side d {}).connected == some false then
      modSide s d fun x => { x with connected := none, beyond := 0x1F } else s) s
  if ls.any (fun l => decide (16 ≤ l)) && s.run.state == .conflict then
    { s with run := { s.run with state := .discovering, conflict := 0, conflictId := 0, members := [], knownAt := none } }
  else s

/-- A lane's FEC as a FEC_SET or GROUP_SET asks: a lane that is UP or training takes it and trains again, if its setting changes or the
port is regrouped; any other takes it at its next training (R129). -/
def setFec (b regroup : Bool) (s : State) (l : Nat) : State :=
  if !laneActive s l then modLane s l fun x => { x with fecPend := some b }
  else if regroup || bit s.lanes.portFec.toNat l != b then hostRetrain (fecTake (modLane s l fun x => { x with fecPend := some b }) l) l
  else s

/-- LANE_CTRL on acceptance. -/
def laneCtrlEffect (s : State) (c : Cmd) : State :=
  let d := c.d
  let x := dB d 23
  let y := dB d 24
  let ls := ctrlLanes s d
  let each := fun (f : Lane → Lane) => ls.foldl (fun s l => modLane s l f) s
  match dB d 16 with
  | 0 =>
    let s := cascadeAgain (ls.foldl hostRetrain s) ls
    if ls.isEmpty then cmdDone s c
    else if !clkOn s then cmdDone s { c with result := BitVec.ofNat 64 (maskOf ls) }
    else synceUpdate (cmdPut s { c with note := BitVec.ofNat 64 (maskOf ls) })
  | 1 => cmdDone (each fun l => { l with mode := match x with
      | 0 => .auto
      | 1 => .on
      | _ => .fixed }) c
  | 2 => cmdDone (each fun l => { l with setTaps := some (x, y) }) c
  | 3 =>
    let s := (ls.filter (laneActive s)).foldl laneLeave s
    let s := { s with lanes := { s.lanes with four := if y = 1 then s.lanes.four ||| 1#4 <<< x else s.lanes.four &&& ~~~(1#4 <<< x) } }
    cmdDone (synceUpdate (ls.foldl (setFec false true) s)) c
  | 4 => cmdDone (synceUpdate (ls.foldl (setFec (y == 1) false) s)) c
  | 5 => cmdDone (ls.foldl (fun s l => patternPulse (modLane (prbsStop s l) l fun l => { l with
      gen := if l.loopback = 3 then 0 else bits x 2 0, genInv := bit x 3, chk := bits y 2 0, chkInv := bit y 3 }) l) s) c
  | 6 => cmdDone (each fun l => { l with loopback := x, squelch := bit y 0, gen := if x = 3 then 0 else l.gen }) c
  | _ => cmdDone (each fun l => { l with prbsErr := 0, prbsBits := 0 }) c

/-- LANE_CTRL (0x0072). -/
def laneCtrlDef : CmdDef where
  opcode := 0x0072
  tick _ := .none
  check := laneCtrlCheck
  effect := laneCtrlEffect

/-- LANE_CTRL. -/
def execLaneCtrl (dt : Nat) (ref : CmdRef) (d : Desc) (s : State) : Host.Outcome State Fault Refusal :=
  .next (runCmd laneCtrlDef dt ref d s)

end Sys2Proof.Machine
end

