-- ==== Sys2Proof/Machine/Crucible.lean ====
section
/-! DEFINITION. The Crucible (06): the weight bank and its fills, weights and gains, combining and precoding, uplink assembly and
partial sums, pots, and the commands WEIGHT_LOAD, PATTERN_WRITE and SOUNDING_CAPTURE. -/

namespace Sys2Proof.Machine

/-! ### Rows (R172, R176, R196) -/

/-- The number of a row in its half. -/
def rowIndex (gran l b : Nat) : Nat := l * bundleCount gran + b

/-- A row's cells, from address 0. -/
def rowCells (h : Half) (i : Nat) : Memory := memSlice h.mem (256 * i) 256 0

/-- A row replaced by cells from address 0. -/
def rowPut (h : Half) (i : Nat) (cells : Memory) : Half :=
  { h with mem := memPaste 0 (memClear h.mem (256 * i) 256) (cells.map fun c => (c.1 + 256 * i, c.2)) }

/-- A byte of cells as Nat. -/
def cellNat (cells : Memory) (a : Nat) : Nat := (memRead 0 cells a).toNat

/-- The weight of antenna a in a row: I and Q codes (R172). -/
def weightOf (cells : Memory) (a : Nat) : Int × Int :=
  (sx 16 (cellNat cells (4 * a) + 256 * cellNat cells (4 * a + 1)), sx 16 (cellNat cells (4 * a + 2) + 256 * cellNat cells (4 * a + 3)))

/-- The sum of I² + Q² over antennas of a choice (R196). -/
def rowPower (cells : Memory) (chosen : Nat → Bool) : Nat :=
  (List.range 64).foldl (fun n a =>
    let w := weightOf cells a
    if chosen a then n + (w.1 * w.1 + w.2 * w.2).toNat else n) 0

/-- The gain code G of a row under a retirement mask (R196). -/
def gainCode (mask : Nat) (gmax : Nat) (cells : Memory) : Nat :=
  if mask = 0 then 16384
  else
    let p := rowPower cells fun _ => true
    let q := rowPower cells fun a => !bit mask a
    if q = 0 then 0 else min gmax (leastAbove (fun g => decide (2 ^ 30 * p < (2 * g - 1) ^ 2 * q)) 0 16 - 1)

/-- The gain of a row as held. -/
def gainOf (h : Half) (i : Nat) : Nat := ((h.gain.find? fun x => x.1 == i).map Prod.snd).getD 16384

/-- A row's gain set. -/
def gainPut (h : Half) (i g : Nat) : Half :=
  let rest := h.gain.filter fun x => !(x.1 == i)
  { h with gain := if g = 16384 then rest else insertBy (fun a b => decide (a.1 < b.1)) (i, g) rest }

/-- The weights a pot uses for a row, antenna 0 first (R196). -/
def effWeights (h : Half) (mask : Nat) (i : Nat) : List (Int × Int) :=
  let cells := rowCells h i
  let g := gainOf h i
  let scale := fun (w : Int) => clampI (-32768) 32767 (divRound (w * g) 16384)
  (List.range 64).map fun a =>
    if bit mask a then (0, 0) else
      let w := weightOf cells a
      if g = 16384 then w else (scale w.1, scale w.2)

/-! ### Halves and directions -/

/-- The half of a direction: 0 A, 1 B. -/
def halfOf (s : State) (d i : Nat) : Half := vget (if d = 0 then s.cru.dl else s.cru.ul) i {}

/-- A half replaced. -/
def setHalf (s : State) (d i : Nat) (h : Half) : State :=
  if d = 0 then { s with cru := { s.cru with dl := vmod s.cru.dl i fun _ => h } }
  else { s with cru := { s.cru with ul := vmod s.cru.ul i fun _ => h } }

/-- Which half is active (CRU_BANK_STAT). -/
def actOf (s : State) (d : Nat) : Nat := vget s.cru.act d 0

/-- The active and the inactive half. -/
def activeHalf (s : State) (d : Nat) : Half := halfOf s d (actOf s d)
def inactiveHalf (s : State) (d : Nat) : Half := halfOf s d (1 - actOf s d)

/-- Granularity in force. -/
def granOf (s : State) (d : Nat) : Nat := vget s.cru.gran d 0

/-! ### The fill (R178, R179, R185–R190) -/

/-- A fill in progress: the half, the rows it wrote, units taken, their keys, cells beyond the budget, rows and blocks
skipped. -/
structure Fill where
  half : Half
  rows : List Nat := []
  units : Nat := 0
  keys : List Nat := []
  cut : Nat := 0
  skip : Nat := 0
  deriving DecidableEq, Repr

/-- A row written. -/
def fillRow (f : Fill) (i : Nat) (cells : Memory) : Fill := { f with half := rowPut f.half i cells, rows := if f.rows.contains i then f.rows else i :: f.rows }

/-- A row written from a unit of DRAM, or zeroed where the unit falls beyond the budget (R179). -/
def fillUnit (f : Fill) (key : Option Nat) (i : Nat) (cells : Memory) : Fill :=
  if (match key with
    | some k => f.keys.contains k
    | none => false) then fillRow f i cells
  else if f.units < 3584 then
    fillRow { f with units := f.units + 1, keys := match key with
      | some k => k :: f.keys
      | none => f.keys } i cells
  else fillRow { f with cut := f.cut + 1 } i []

/-- The local slot a layer's rows lie in for a symbol: the layer itself on a carrier without FLK, else by the table; none
where the member does not work it (R190). -/
def slotFor (s : State) (c dir id k : Nat) : Option Nat :=
  if bit (setAt s c k) 3 then ((entryAt s c dir id k).filter fun e => !e.shed).map (·.slot) else some id

/-- Slots whose rows are cleared in the fill of the first symbol of a slot: those with a flask layer they did not hold before
(R190). -/
def newSlots (s : State) (d k : Nat) : List Nat :=
  if k % 14 ≠ 0 then []
  else match tableFor s (ownId s) (k / 14) with
    | none => []
    | some t => (t.entries.filter fun e => !e.isLocal && !e.shed && e.dir == d && !(match tableFor s (ownId s) (k / 14 - 1) with
        | some u => u.entries.any fun x => !x.isLocal && !x.shed && x.dir == d && x.slot == e.slot && x.layer == e.layer
        | none => false)).map (·.slot)

/-- Step 0: a slot's rows cleared. -/
def fillClear (gran : Nat) (f : Fill) (l : Nat) : Fill :=
  let n := bundleCount gran
  { f with
    half := { f.half with mem := memClear f.half.mem (256 * n * l) (256 * n) }
    rows := ((List.range n).map (rowIndex gran l)).filter (fun i => !f.rows.contains i) ++ f.rows }

/-- Step 2: the rows of a host load, in order of slot, then bundle. -/
def fillLoad (gran : Nat) (f : Fill) (x : Load) : Fill :=
  (List.range x.ln).foldl (fun f i => (List.range x.bn).foldl (fun f j =>
    fillUnit f none (rowIndex gran (x.l0 + i) (x.b0 + j)) (memSlice x.rows (256 * (i * x.bn + j)) 256 0)) f) f

/-- The slot a received block is applied to at a fill's granularity; none where it is skipped whole (R187, R190). -/
def blockSlot (s : State) (gran d k c : Nat) (b : WBlock) : Option Nat :=
  if bundleCount gran < b.first + b.count then none
  else if !bit (setAt s c k) 3 ∧ gran = 1 ∧ 15 < b.id then none
  else slotFor s c d b.id k

/-- Step 3: one WEIGHT_BLOCK block (R185, R187). -/
def fillBlock (s : State) (gran d k c : Nat) (f : Fill) (b : WBlock) : Fill :=
  match blockSlot s gran d k c b with
  | none => { f with skip := f.skip + 1 }
  | some l => (List.range b.count).foldl (fun f i =>
      if bundleIn s c gran (b.first + i) then
        fillRow f (rowIndex gran l (b.first + i)) (memPaste 0 [] (cellsAt 0 (bytesAt b.data (256 * i) 256)))
      else { f with skip := f.skip + 1 }) f

/-- PRB of a section, from its carrier's first: start and number. -/
def sectionPrbs (s : State) (c : Nat) (x : Section) : Nat × Nat :=
  (4 * x.start, min (4 * (x.start + x.num)) (carrierOf s c).nprb - 4 * x.start)

/-- A bundle holds a PRB of a section of a layer and symbol with WSRC 2 (R187). -/
def mapWanted (s : State) (gran k c id b : Nat) : Bool :=
  s.fh.held.any fun m => m.cc == c && m.id == id && m.sym == k && m.secs.any fun x =>
    x.wsrc == 2 && bundleMeets s c gran b (sectionPrbs s c x).1 (sectionPrbs s c x).2

/-- DRAM address of Pattern Store vector i, and of row b of stream set j (R188). -/
def vectorAddr (i : Nat) : Nat := 256 * i
def streamAddr (j b : Nat) : Nat := 0x40000000 + 0x40000 * j + 256 * b

/-- Step 4: one entry of a BEAM_MAP block (R186, R187). -/
def fillMap (s : State) (dram : Memory) (gran d k c : Nat) (f : Fill) (x : WBlock × Nat) : Fill :=
  match slotFor s c d x.1.id k with
  | none => f
  | some l =>
    let e := leAt x.1.data (4 * x.2) 4
    let n := x.1.first + x.2
    let i := bits e 16 0
    if !bundleIn s c gran n then { f with skip := f.skip + 1 }
    else if d = 0 ∧ !mapWanted s gran k c x.1.id n then f
    else match bits e 31 30 with
      | 1 => fillUnit f (some i) (rowIndex gran l n) (memSlice dram (vectorAddr i) 256 0)
      | 2 => fillUnit f (some (2 ^ 20 + i % 4096 * 1024 + n)) (rowIndex gran l n) (memSlice dram (streamAddr (i % 4096) n) 256 0)
      | 3 => fillRow f (rowIndex gran l n) []
      | _ => f

/-- Step 4: the BEAM_MAP blocks of one message, in order of layer, then bundle; blocks skipped whole first (R178, R187). -/
def fillMaps (s : State) (dram : Memory) (gran d k : Nat) (f : Fill) (m : CtrlMsg) : Fill :=
  let mine := m.blocks.filter fun b => b.dir == d
  let ok := mine.filter fun b => (blockSlot s gran d k m.cc b).isSome
  let key := fun (x : WBlock × Nat) => [(x.1.id : Int), ((x.1.first + x.2 : Nat) : Int)]
  (sortBy (fun a b => keyLt (key a) (key b)) (ok.flatMap fun b => (List.range b.count).map fun i => (b, i))).foldl
    (fillMap s dram gran d k m.cc) { f with skip := f.skip + (mine.length - ok.length) }

/-- Step 5: one section with WSRC 1 (R187). -/
def fillSection (s : State) (dram : Memory) (gran k : Nat) (f : Fill) (m : HeldMsg) (x : Section) : Fill :=
  match slotFor s m.cc 0 m.id k with
  | none => f
  | some l => ((List.range (bundleCount gran)).filter fun b =>
      bundleMeets s m.cc gran b (sectionPrbs s m.cc x).1 (sectionPrbs s m.cc x).2).foldl (fun f b =>
        fillUnit f (some x.psidx) (rowIndex gran l b) (memSlice dram (vectorAddr x.psidx) 256 0)) f

/-- The load bound to a work tick. -/
def loadFor (s : State) (d k : Nat) : Option Load := s.cru.loads.find? fun l => l.dir == d && l.sym == k

/-- The retirement mask in force in a direction. -/
def retMaskOf (s : State) (d : Nat) : Nat := (vget s.cru.retMask d 0).toNat

/-- The mask the work of symbol k is done under in a direction: at the first symbol of a slot the changes of that slot tick
enter, which for the downlink is still to come at its work tick (R197). -/
def maskFor (s : State) (d k : Nat) : Nat :=
  if k % 14 ≠ 0 then retMaskOf s d
  else if d = 1 then retiredMask s
  else s.host.cmds.foldl (fun m x => match x.stage with
    | .bound .slot t _ =>
      if dOp x.d = 0x00B0 ∧ dB x.d 17 = 0 ∧ t = k then
        (if dB x.d 16 = 0 then m ||| dQ x.d 20 else m - (m &&& dQ x.d 20)) else m
    | _ => m) (maskOf ((List.range 64).filter fun p => (txOf s p).retired))

/-- The whole fill of symbol k in a direction, from the half as the fill found it (R178). -/
def runFill (s : State) (d k : Nat) : Fill × Nat :=
  let old := granOf s d
  let load := loadFor s d k
  let gran := (load.map (·.gran)).getD old
  let dram := (vget s.cru.fillDram d none).getD s.ldl.dram
  let f : Fill := { half := (vget s.cru.filling d none).getD (inactiveHalf s d) }
  let f := (newSlots s d k).foldl (fillClear old) f
  let f := if gran = old then f else { f with half := {}, rows := List.range (if gran = 0 then 8736 else 8736) }
  let f := match load with
    | some l => fillLoad gran f l
    | none => f
  let msgs := s.fh.ctrl.filter fun m => m.sym == k
  let f := (msgs.filter fun m => m.ctype == 1).foldl (fun f m => (m.blocks.filter fun b => b.dir == d).foldl (fillBlock s gran d k m.cc) f) f
  let f := (msgs.filter fun m => m.ctype == 2).foldl (fillMaps s dram gran d k) f
  let refs := if d = 0 then (s.fh.held.filter fun m => m.sym == k).flatMap fun m => (m.secs.filter fun x => x.wsrc == 1).map fun x => (m, x) else []
  let key := fun (p : HeldMsg × Section) => [(p.1.cc : Int), (p.1.id : Int), (p.2.start : Int)]
  let f := (sortBy (fun a b => keyLt (key a) (key b)) refs).foldl (fun f p => fillSection s dram gran k f p.1 p.2) f
  let mask := maskFor s d k
  let all := vget s.cru.regain d false || decide (mask ≠ retMaskOf s d)
  let rows := if all then List.range 8736 else f.rows
  let h := rows.foldl (fun h i => gainPut h i (gainCode mask s.cru.gmax (rowCells h i))) f.half
  ({ f with half := h, rows := if all then 0 :: f.rows else f.rows }, gran)

/-- WEIGHT_FILL: at W(s − 1) + 1,024 counts the fill of the coming symbol starts writing the inactive half (R178). -/
def weightFill (d : Nat) (s : State) : State :=
  let kind := if d = 0 then TickKind.dlWork else .ulWork
  let k := if d = 0 then s.tb.dlNext else s.tb.ulNext
  let s := arriveAt (tickAt s kind (k - 1) + 1024) s
  if !domOn s 8 ∨ !tbOn s then s
  else
    let f := runFill s d k
    let s := { s with cru := { s.cru with filling := vmod s.cru.filling d fun x => some (x.getD (inactiveHalf s d)) } }
    setHalf s d (1 - actOf s d) f.1.half

/-- WEIGHT_FILL. -/
def execWeightFill (dir : Fin 2) (s : State) : Host.Outcome State Fault Refusal := .next (weightFill dir.val s)

/-- A type 2 message is released when the last fill that applies it ends (R180). -/
def releaseCtrl (s : State) (d k : Nat) : State :=
  let s := { s with fh := { s.fh with ctrl := s.fh.ctrl.map fun m =>
    if m.sym ≤ k then (if d = 0 then { m with doneDl := true } else { m with doneUl := true }) else m } }
  dropCtrl s (fun m => m.sym ≤ k && (m.doneDl || !m.blocks.any fun b => b.dir == 0) && (m.doneUl || !m.blocks.any fun b => b.dir == 1)) none

/-- At W(s): the fill ends, its counts and event, and the swap if it wrote to the inactive half, or if the Ladle did and a carrier
is in BFS; the new inactive half takes the weights in force (R177–R180, R184, R199). -/
def swapTick (s : State) (d k : Nat) : State :=
  if !domOn s 8 then
    { s with cru := { s.cru with filling := vmod s.cru.filling d fun _ => none, fillDram := vmod s.cru.fillDram d fun _ => none } }
  else
    let r := runFill s d k
    let f := r.1
    let act := actOf s d
    let wrote := !f.rows.isEmpty || (vget s.cru.wrote d false && anyBfs s)
    let mask := maskFor s d k
    let s := if wrote then
        let s := setHalf (setHalf s d (1 - act) f.half) d act f.half
        { s with cru := { s.cru with
          act := vmod s.cru.act d fun _ => 1 - act
          gran := vmod s.cru.gran d fun _ => r.2
          swapLast := vmod s.cru.swapLast d fun _ => some (BitVec.ofNat 19 (symId s k)) } }
      else s
    let s := { s with cru := { s.cru with
      filling := vmod s.cru.filling d fun _ => none
      fillDram := vmod s.cru.fillDram d fun _ => none
      wrote := vmod s.cru.wrote d fun w => w && !wrote
      regain := vmod s.cru.regain d fun _ => false
      retMask := vmod s.cru.retMask d fun _ => BitVec.ofNat 64 mask
      loads := s.cru.loads.filter fun l => !(l.dir == d && l.sym ≤ k)
      fillOver := satTo 0xFFFFFFFF (s.cru.fillOver + f.cut)
      skip := satTo 0xFFFFFFFF (s.cru.skip + f.skip) } }
    let s := if f.cut = 0 then s else post s 0x0202 11 d (f.cut ||| symId s k <<< 32)
    releaseCtrl s d k

/-! ### Late windows (R31, R32) -/

/-- A window that closed late: GEN_WORK_LATE and the WINDOW_LATE event (R31, R32). -/
def windowLate (s : State) (dir units k : Nat) : State :=
  post { s with gen := { s.gen with cruLate := true, lateCount := satTo 0xFFFF (s.gen.lateCount + 1) } } 0x0010 11 0
    (dir ||| satTo 0xFFFF units <<< 16 ||| symId s k <<< 32)

/-! ### Precoding (R173) -/

/-- Bundle of a carrier's subcarrier at a granularity (R169). -/
def bundleAt (s : State) (c gran sc : Nat) : Nat := bundleOf gran ((carrierOf s c).off + sc / 12)

/-- The value x of a layer on subcarrier sc, from the sections held for the symbol. -/
def layerValue (secs : List (Nat × List Int)) (sc : Nat) : Int × Int :=
  match secs.find? fun x => decide (x.1 ≤ sc) && decide (sc < x.1 + x.2.length / 2) with
  | some x => (x.2.getD (2 * (sc - x.1)) 0, x.2.getD (2 * (sc - x.1) + 1) 0)
  | none => (0, 0)

/-- y of one part before it saturates (R173). -/
def dlPart (shift : Nat) (v : Int) : Int := divRound v (2 ^ (14 + shift))

/-- The parts of one antenna value that saturate (R173). -/
def satParts (acc : Int × Int) (shift : Nat) : Nat :=
  let out := fun (v : Int) => b2n (decide (dlPart shift v < -32768 ∨ 32767 < dlPart shift v))
  out acc.1 + out acc.2

/-- The antenna value y that goes to the IFFT (R173). -/
def antennaCode (acc : Int × Int) (shift : Nat) : Int × Int :=
  (clampI (-32768) 32767 (dlPart shift acc.1), clampI (-32768) 32767 (dlPart shift acc.2))

/-- DL_SHIFT of the slot of symbol k: what the next slot tick applies while that slot has not begun (R175, R431). -/
def dlShiftOf (s : State) (k c : Nat) : Nat :=
  if k / 14 * 14 < s.tb.airNext then vget s.cru.dlShiftNow c 5 else vget s.cru.dlShiftArm c 5

/-- The layers of a carrier with downlink data in symbol k: their slots and their sections' values; none without BFS (R173). -/
def dlLive (s : State) (k c : Nat) : List (Nat × List (Nat × List Int)) :=
  if !bit (setAt s c k) 2 ∨ (activeHalf s 0).mem.isEmpty then []
  else ((placedAt s c 0 k).map fun e => (e.slot, ((s.cru.dlWork.filter fun m => m.cc == c && m.id == e.layer).flatMap (·.secs)).map fun x =>
    (48 * x.start, sectionData s 0 c k x))).filter fun x => !x.2.isEmpty

/-- The accumulators of the 64 antennas for a subcarrier of a carrier (R173). -/
def dlAcc (s : State) (c : Nat) (live : List (Nat × List (Nat × List Int))) (sc : Nat) : List (Int × Int) :=
  let gran := granOf s 0
  let xs := (live.map fun l => (l.1, layerValue l.2 sc)).filter fun x => !(x.2 == (0, 0))
  let ws := xs.map fun x => (x.2, effWeights (activeHalf s 0) (retMaskOf s 0) (rowIndex gran x.1 (bundleAt s c gran sc)))
  (List.range 64).map fun a => ws.foldl (fun (t : Int × Int) x =>
    let w := x.2.getD a (0, 0)
    (t.1 + w.1 * x.1.1 - w.2 * x.1.2, t.2 + w.1 * x.1.2 + w.2 * x.1.1)) (0, 0)

/-- Saturated parts of the downlink results of symbol k on a carrier (R173). -/
def dlSaturated (s : State) (k c : Nat) : Nat :=
  let live := dlLive s k c
  if live.isEmpty then 0
  else (List.range (12 * (carrierOf s c).nprb)).foldl (fun n sc =>
    (dlAcc s c live sc).foldl (fun n acc => n + satParts acc (dlShiftOf s k c)) n) 0

/-! ### Combining (R174, R191–R193) -/

/-- A value limited to w bits, and whether it had to be. -/
def satBits (w : Nat) (v : Int) : Int × Nat :=
  (clampI (-(2 ^ (w - 1))) (2 ^ (w - 1) - 1) v, b2n (decide (v < -(2 ^ (w - 1)) ∨ 2 ^ (w - 1) - 1 < v)))

/-- The member's own partial of a layer on one subcarrier: exact sum of W × R, before rounding (R174). -/
def combineAt (s : State) (c slot sc : Nat) : Int × Int :=
  let rs := s.cru.ulRx.filter fun r => r.cc.val == c && r.k == sc
  if rs.isEmpty then (0, 0)
  else
    let ws := effWeights (activeHalf s 1) (retMaskOf s 1) (rowIndex (granOf s 1) slot (bundleAt s c (granOf s 1) sc))
    rs.foldl (fun (t : Int × Int) r =>
      let w := ws.getD r.ant.val (0, 0)
      (t.1 + w.1 * r.i - w.2 * r.q, t.2 + w.1 * r.q + w.2 * r.i)) (0, 0)

/-- The member's own partial of a layer on a range of blocks, 24-bit values, and the parts saturated (R174). -/
def ownPartial (s : State) (c slot start num : Nat) : List Sample × Nat :=
  let n := ((sectionVals s 0 c s.cru.ulSym start num).foldl (· + ·) 0) / 2
  let vs := (List.range n).map fun i =>
    let p := combineAt s c slot (48 * start + i)
    (satBits 24 (divRound p.1 16384), satBits 24 (divRound p.2 16384))
  (vs.map fun v => ⟨v.1.1, v.2.1⟩, vs.foldl (fun n v => n + v.1.2 + v.2.2) 0)

/-- Partials received for a layer on a range of blocks added to the own ones exactly, then limited to 24 bits (R192). DESIGN CHOICE
(log 63): the parts limited here count in CRU_SAT_UL beside those of the own partial and of the result. -/
def sumPartials (s : State) (c layer start : Nat) (own : List Sample) : List Sample × Nat :=
  let recs := s.cru.psums.filter fun r => r.cc == c && r.layer == layer && r.sym == s.cru.ulSym
  let at_ := fun (r : Psum) (sc : Nat) =>
    if 48 * r.start ≤ sc then r.vals.getD (sc - 48 * r.start) ⟨0, 0⟩ else ⟨0, 0⟩
  let vs := own.zipIdx.map fun x =>
    let t := recs.foldl (fun (a : Int × Int) r => (a.1 + (at_ r (48 * start + x.2)).i, a.2 + (at_ r (48 * start + x.2)).q)) (x.1.i, x.1.q)
    (satBits 24 t.1, satBits 24 t.2)
  (vs.map fun v => ⟨v.1.1, v.2.1⟩, if recs.isEmpty then 0 else vs.foldl (fun n v => n + v.1.2 + v.2.2) 0)

/-- z of the finishing member: the sum scaled by UL_SHIFT, 16 bits, and the parts saturated (R174). -/
def finishValues (s : State) (c : Nat) (vs : List Sample) : List Int × Nat :=
  let f := fun (v : Int) => satBits 16 (divRound v (2 ^ vget s.cru.ulShiftWork c 6))
  (vs.flatMap fun v => [(f v.i).1, (f v.q).1], vs.foldl (fun n v => n + (f v.i).2 + (f v.q).2) 0)

/-- An own antenna was settling in the open window's symbol (R138, R277). -/
def ulSettling (s : State) : Bool := decide (s.cru.ulStl.toNat &&& (2 ^ 64 - 1 - retMaskOf s 1) ≠ 0)

/-- A partial was settling, own or received (R192). -/
def anyStl (s : State) (c layer : Nat) : Bool :=
  ulSettling s || s.cru.psums.any fun r => r.cc == c && r.layer == layer && r.sym == s.cru.ulSym && r.stl

/-- Values of a list cut into runs of given lengths. -/
def cutRuns : List Nat → List Int → List (List Int)
  | [], _ => []
  | n :: ns, vs => vs.take n :: cutRuns ns (vs.drop n)

/-- One uplink message queued on its port, or dropped where the port does not send (R115, R146, R158). -/
def queueUplink (s : State) (code c key k : Nat) (stl nc : Bool) (comp start num : Nat) (data : List Byte) : State :=
  let p := portOfCode code
  if !portUp s p then slag s 18 1
  else if portLeaving s p then slag s 2 1
  else
    let m : UlMsg := { port := p, cc := c, sym := k, bytes := bytesBE 2 key ++ ulBody s p k stl nc comp start num data }
    { s with fh := { s.fh with ulQueue := s.fh.ulQueue ++ [m] } }

/-- A layer of a carrier noted as done. -/
def layerRef (c id : Nat) : List LayerRef := if h : c < 2 then [⟨⟨c, h⟩, id⟩] else []

/-- A finished layer of the open window in messages: NC with zero payload where it was not computed (R31, R157); those of a suspended
carrier are removed (R229). -/
def assembleLayer (s : State) (c : Nat) (e : Entry) (nc : Bool) : State :=
  let k := s.cru.ulSym
  let f := fhOf s c
  let runs := msgRuns (prbBlocks (carrierOf s c).nprb) 96 f.comp f.mtu
  let s := if suspended s c then slag s 18 runs.length else runs.foldl (fun s r =>
    let vals := sectionVals s 0 c k r.1 r.2
    let own := ownPartial s c e.slot r.1 r.2
    let sum := sumPartials s c e.layer r.1 own.1
    let z := finishValues s c sum.1
    let zs := if nc then List.replicate (vals.foldl (· + ·) 0) 0 else z.1
    let s := if nc then s else { s with cru := { s.cru with satUl := satTo 0xFFFFFFFF (s.cru.satUl + own.2 + sum.2 + z.2) } }
    queueUplink s (entryPort e c) c (flowKey true c 0 e.layer) k (anyStl s c e.layer) nc f.comp r.1 r.2 (packBlocks (fmtOf f.comp) (cutRuns vals zs))) s
  { s with cru := { s.cru with ulSent := s.cru.ulSent ++ layerRef c e.layer } }

/-- A layer of the open window is already done. -/
def ulDone (s : State) (c id : Nat) : Bool := s.cru.ulSent.any fun r => r.cc.val == c && r.layer == id

/-- Received records of a layer of the open window's symbol that cover a range of blocks. -/
def recordsFor (s : State) (c layer start num : Nat) : List Psum :=
  s.cru.psums.filter fun r => r.cc == c && r.layer == layer && r.sym == s.cru.ulSym && decide (r.start ≤ start ∧ start + num ≤ r.start + r.num)

/-- Members whose partials the received records of a layer include on a range of blocks (R191). -/
def contribOf (s : State) (c layer start num : Nat) : Nat :=
  (recordsFor s c layer start num).foldl (fun m r => m ||| r.contrib.toNat) 0

/-- The ranges of blocks of a carrier's partial-sum records (R216). -/
def psumRuns (s : State) (c : Nat) : List (Nat × Nat) := splitRuns (prbBlocks (carrierOf s c).nprb) 16

/-- Members of the layer's span of which the finishing member still lacks a record (R193). -/
def missingMembers (s : State) (c : Nat) (e : Entry) : Nat :=
  if e.isLocal then 0
  else
    let others := e.span.toNat - (e.span.toNat &&& 1 <<< ownId s)
    (psumRuns s c).foldl (fun m r => m ||| (others - (others &&& contribOf s c e.layer r.1 r.2))) 0

/-- Sample n of a path's KIND 1 stream lies where stage 8 is zero: settling or blanked (R278, R280). -/
def sampleZero (s : State) (c path n : Nat) : Bool :=
  let t := n * (symLen s.cru.ulSym / symSamples s c s.cru.ulSym)
  s.cru.ulZero.any fun z => z.path == path && decide (z.lo ≤ t ∧ t < z.hi)

/-- KIND 1 samples of a path assembled into messages; a settling sample is sent as zero, and marks the symbol (R157, R158, R278). -/
def assembleStream (s : State) (c path : Nat) (samples : List Sample) : State :=
  let k := s.cru.ulSym
  let f := fhOf s c
  let vs := samples.zipIdx.flatMap fun x =>
    if sampleZero s c path x.2 then [0, 0] else [clampI (-32768) 32767 x.1.i, clampI (-32768) 32767 x.1.q]
  let all := vs ++ List.replicate (2 * symSamples s c k - vs.length) 0
  let stl := bit s.cru.ulStl.toNat path || s.cru.ulZero.any fun z => z.path == path && z.stl
  (msgRuns (blockCount s 1 c k) 128 f.comp f.mtu).foldl (fun s r =>
    let vals := sectionVals s 1 c k r.1 r.2
    queueUplink s f.astPort c (flowKey true c 1 path) k stl false f.comp r.1 r.2
      (packBlocks (fmtOf f.comp) (cutRuns vals (all.drop (128 * r.1))))) s

/-- Samples flow and the carriers have resumed: neither the sample-clock PLL is out of lock nor the return from REF_LOST incomplete
(R294, R295). -/
def samplesFlow (s : State) : Bool := s.syn.pllLocked && !s.mod.refHeld

/-- UPLINK_ASSEMBLY: a finished layer, or a path's samples, of the open uplink window (R157). -/
def execUplinkAssembly (dt : Nat) (cc : Fin 2) (kind1 : Bool) (id : Nat) (samples : List Sample) (s : State) :
    Host.Outcome State Fault Refusal :=
  let s := arrive dt s
  let c := cc.val
  .next (
    if kind1 then
      (if samplesFlow s ∧ bit (setAt s c s.cru.ulSym) 1 ∧ id < 64 ∧ isUl s s.cru.ulSym then assembleStream s c id samples else s)
    else if !samplesFlow s ∨ !isUl s s.cru.ulSym ∨ !bit (setAt s c s.cru.ulSym) 2 ∨ ulDone s c id then s
    else match (placedAt s c 1 s.cru.ulSym).find? fun e => e.layer == id && e.isEnd with
      | some e => if missingMembers s c e = 0 then assembleLayer s c e false else s
      | none => s)

/-! ### Partial sums toward the end member (R191, R192, R216) -/

/-- One Pour frame sent on a cascade lane of a side: its header with the stream's sequence number, snooped by Assay (R206–R208). -/
def sendPour (s : State) (d lane cls sub symid layer cc : Nat) (payload : List Byte) (bad : Bool := false) : State :=
  let idx := d * 256 + 128 + lane * 8 + cls
  let seq := alGet s.run.seqTx idx
  let s := { s with run := { s.run with seqTx := alSet s.run.seqTx idx ((seq + 1) % 256) } }
  let hdr := cls ||| sub <<< 3 ||| seq <<< 8 ||| payload.length <<< 16 ||| symid <<< 32 ||| ownId s <<< 51 ||| layer <<< 64 ||| cc <<< 73
  let s := assaySnoop s (0x2000 + idx) seq (bytesLE 12 hdr ++ payload)
  send s (.pour d lane (BitVec.ofNat 96 hdr) payload bad)

/-- A frame of a layer's flow on a cascade lane: one that is leaving the distribution sends nothing more, and what was to go on it is
counted (R115, R122). -/
def sendData (s : State) (d lane cls symid layer cc : Nat) (payload : List Byte) (bad : Bool := false) : State :=
  let x := laneOf s (16 + 12 * d + lane)
  if 0 < x.leaveIn then slag s 2 1
  else if x.inDist then sendPour s d lane cls 0 symid layer cc payload bad
  else s

/-- A partial-sum record's bytes (R191). -/
def psumRecord (c layer symid start num contrib : Nat) (stl : Bool) (vals : List Nat) (vs : List Sample) : List Byte :=
  bytesLE 4 (symid ||| layer <<< 19 ||| c <<< 28) ++ bytesLE 4 (start ||| num <<< 11) ++ bytesLE 2 contrib ++ bytesLE 2 (b2n stl) ++
    packBlocks psumFmt (cutRuns vals (vs.flatMap fun v => [v.i, v.q]))

/-- The side and lane toward a layer's end member. -/
def towardEnd (s : State) (c : Nat) (e : Entry) : Option (Nat × Nat) :=
  (memberSide s e.endMember).bind fun d =>
    let p := if d = 0 then e.cope else e.drag
    let lane := if c = 0 then p.1 else p.2
    if lane = 0xF then none else some (d, lane)

/-- One record of a layer of the open window sent toward its end member: the own partial and those received for its blocks
(R191, R192, R216). -/
def sendPartial (s : State) (c : Nat) (e : Entry) (d lane : Nat) (r : Nat × Nat) : State :=
  let k := s.cru.ulSym
  let own := ownPartial s c e.slot r.1 r.2
  let sum := sumPartials s c e.layer r.1 own.1
  let stl := ulSettling s || (recordsFor s c e.layer r.1 r.2).any (·.stl)
  let s := { s with cru := { s.cru with satUl := satTo 0xFFFFFFFF (s.cru.satUl + own.2 + sum.2) } }
  sendData s d lane 1 (symId s k) e.layer c
    (psumRecord c e.layer (symId s k) r.1 r.2 (1 <<< ownId s ||| contribOf s c e.layer r.1 r.2) stl (sectionVals s 0 c k r.1 r.2) sum.1)

/-- Records of a layer of the open window that have left. -/
def partsSent (s : State) (c id : Nat) : Nat :=
  ((s.cru.ulParts.find? fun x => x.1.cc.val == c && x.1.layer == id).map Prod.snd).getD 0

/-- The next n records of a layer of the open window leave, in block order; with the last one the layer is done (R216). -/
def sendPartials (s : State) (c : Nat) (e : Entry) (n : Nat) : State :=
  match towardEnd s c e with
  | none => s
  | some (d, lane) =>
    let done := partsSent s c e.layer
    let s := ((psumRuns s c).drop done |>.take n).foldl (fun s r => sendPartial s c e d lane r) s
    { s with cru := { s.cru with
      ulParts := (layerRef c e.layer).map (fun x => (x, done + n)) ++ s.cru.ulParts.filter fun x => !(x.1.cc.val == c && x.1.layer == e.layer)
      ulSent := s.cru.ulSent ++ (if (psumRuns s c).length ≤ done + n then layerRef c e.layer else []) } }

/-- PSUM_RECORD_SEND: the next record of a layer, its blocks combined (R216). -/
def execPsumRecordSend (dt : Nat) (cc : Fin 2) (layer : Nat) (s : State) : Host.Outcome State Fault Refusal :=
  let s := arrive dt s
  .next (match (placedAt s cc.val 1 s.cru.ulSym).find? fun e => e.layer == layer && !e.isEnd && !e.isLocal with
    | some e => if ulDone s cc.val layer ∨ suspended s cc.val then s else sendPartials s cc.val e 1
    | none => s)

/-- A layer whose uplink window closes: finished with what has come, sent as not computed, or what is left of its records sent; the
messages of a suspended carrier are removed (R31, R193, R216, R229). -/
def closeLayer (late : Nat → Entry → Bool) (c : Nat) (s : State) (e : Entry) : State :=
  if ulDone s c e.layer then s
  else if !e.isEnd then (if late c e || e.isLocal || suspended s c then s else sendPartials s c e (psumRuns s c).length)
  else if late c e then assembleLayer s c e true
  else
    let miss := if suspended s c then 0 else missingMembers s c e
    let s := if miss = 0 then s
      else post { s with cru := { s.cru with psumMiss := satTo 0xFFFFFFFF (s.cru.psumMiss + 1) } } 0x0203 11 e.layer
        (miss ||| symId s s.cru.ulSym <<< 32)
    assembleLayer s c e false

/-- Units of a direction that no pot could take since a pot fault (R195). -/
def unfitUnits (s : State) (d : Nat) : Nat := ((s.cru.unfit.filter (·.dir == d)).map (·.num)).sum

/-- The layers of the open uplink window that are not done. -/
def openLayers (s : State) : List LayerRef :=
  (List.range 2).flatMap fun c => if isUl s s.cru.ulSym && bit (setAt s c s.cru.ulSym) 2 then
      ((placedAt s c 1 s.cru.ulSym).filter fun e => !ulDone s c e.layer).flatMap fun e => layerRef c e.layer
    else []

/-- The uplink window of the present symbol closes: the layers named, all of them while the sample-clock PLL is out of lock, and those
with units that fit no pot, are not finished; before the carriers resume after REF_LOST nothing is sent (R26, R31, R193, R195, R294,
R295). -/
def closeUplink (unfinished : List LayerRef) (s : State) : State :=
  let k := s.cru.ulSym
  let unfinished := if s.syn.pllLocked then unfinished else openLayers s
  let live := fun c => isUl s k && bit (setAt s c k) 2 && !s.mod.refHeld
  let late := fun c (e : Entry) => unfinished.any (fun r => r.cc.val == c && r.layer == e.layer) || s.cru.unfit.any fun r => r.dir == 1 && r.slot == e.slot
  let s1 := (List.range 2).foldl (fun t c => if live c then (placedAt s c 1 k).foldl (closeLayer late c) t else t) s
  let lost := if live 0 || live 1 then unfitUnits s 1 else 0
  let units := unfinished.foldl (fun n r => n + bundlesOf s [r.cc.val] (granOf s 1)) lost
  let s1 := if (unfinished.isEmpty ∧ lost = 0) ∨ s.mod.refHeld then s1 else windowLate s1 1 units k
  { s1 with cru := { s1.cru with psums := s1.cru.psums.filter fun r => k < r.sym } }

/-! ### Pots (R194, R195, R223, R376) -/

/-- The units of a slot: by direction, local slot and bundle, as runs of each layer's bundles (R194, R223). -/
def unitList (s : State) (n : Nat) : List PotRun :=
  match tableFor s (ownId s) n with
  | none => []
  | some t =>
    let key := fun (e : Entry) => [(e.dir : Int), (e.slot : Int)]
    (sortBy (fun a b => keyLt (key a) (key b)) (t.entries.filter fun e => !e.shed)).map fun e =>
      ⟨e.dir, e.slot, 0, bundlesOf s ((setBits 2 e.ccs.toNat).filter fun c => hasMode s c 2) (granOf s e.dir)⟩

/-- The first n units of a list of runs, and the rest. -/
def takeUnits : Nat → List PotRun → List PotRun × List PotRun
  | _, [] => ([], [])
  | n, r :: rs =>
    if n = 0 then ([], r :: rs)
    else if r.num ≤ n then (r :: (takeUnits (n - r.num) rs).1, (takeUnits (n - r.num) rs).2)
    else ([{ r with num := n }], { r with first := r.first + n, num := r.num - n } :: rs)

/-- A list of runs cut into contiguous parts of given sizes. -/
def dealOver : List Nat → List PotRun → List (List PotRun)
  | [], _ => []
  | n :: ns, l => let t := takeUnits n l; t.1.filter (fun r => r.num ≠ 0) :: dealOver ns t.2

/-- Cycles of a pot that a unit of a direction takes (R194). -/
def unitCycles (s : State) (d : Nat) : Nat := if granOf s d = 0 then 16 else 8

/-- Cycles of a pot that its runs take. -/
def runCycles (s : State) (l : List PotRun) : Nat := (l.map fun r => r.num * unitCycles s r.dir).sum

/-- Units being dealt round-robin: those of each pot, the cycles they take, the pots in turn, and the units that fit nowhere
(R195). -/
structure Redeal where
  units : Vector (List PotRun) 8
  cycles : List (Nat × Nat)
  turn : List Nat
  unfit : List PotRun := []
  deriving DecidableEq, Repr

/-- One unit dealt to the next pot in turn with room for it (R194, R195). -/
def dealOne (s : State) (a : Redeal) (u : PotRun) : Redeal :=
  match a.turn.find? fun p => decide (alGet a.cycles p + unitCycles s u.dir ≤ 38912) with
  | none => { a with unfit := a.unfit ++ [u] }
  | some p => { a with
      units := vmod a.units p (· ++ [u])
      cycles := alSet a.cycles p (alGet a.cycles p + unitCycles s u.dir)
      turn := (a.turn.dropWhile (· ≠ p)).drop 1 ++ a.turn.takeWhile (· ≠ p) ++ [p] }

/-- The units of a slot dealt to the pots for a symbol: runs as even as can be over the pots of the slot; those of a pot that has
faulted since lie with it undone until the next work tick of their direction, and go round-robin to the others from then on
(R195, R223). -/
def dealUnits (s : State) (k : Nat) : State :=
  let ps := setBits 8 s.cru.dealPots.toNat
  let l := unitList s (k / 14)
  let u := (l.map (·.num)).sum
  let parts := dealOver ((List.range ps.length).map fun i => u / ps.length + (if i < u % ps.length then 1 else 0)) l
  let serving := potsServing s
  let share := fun i => match ps.idxOf? i with
    | some j => parts.getD j []
    | none => []
  let own := Vector.ofFn fun (i : Fin 8) => if serving.contains i.val then share i.val else []
  let lost := (ps.filter fun i => !serving.contains i).flatMap fun i => (share i).filter fun r => bit (vget s.cru.redealt r.dir 0).toNat i
  let ones := lost.flatMap fun r => (List.range r.num).map fun j => { r with first := r.first + j, num := 1 }
  let key := fun (r : PotRun) => [(r.dir : Int), (r.slot : Int), (r.first : Int)]
  let a := (sortBy (fun a b => keyLt (key a) (key b)) ones).foldl (dealOne s)
    { units := own, cycles := serving.map fun i => (i, runCycles s (share i)), turn := serving.filter ps.contains }
  { s with cru := { s.cru with
    units := a.units, unfit := a.unfit
    pot := vall s.cru.pot fun i p => if serving.contains i then { p with state := if (vget a.units i []).isEmpty then 3 else 0 } else p } }

/-- At a slot tick: the pots in service share the units of the slot (R223). -/
def dealSlot (s : State) (n : Nat) : State :=
  dealUnits { s with cru := { s.cru with dealPots := BitVec.ofNat 8 (maskOf (potsServing s)), redealt := Vector.replicate 2 0 } } (14 * n)

/-- At a work tick of a direction: the units of that direction of pots that have faulted in the slot go to the others (R195). -/
def redealTick (s : State) (d : Nat) : State :=
  let gone := s.cru.dealPots &&& ~~~(BitVec.ofNat 8 (maskOf (potsServing s)))
  if vget s.cru.redealt d 0 = gone then s
  else dealUnits { s with cru := { s.cru with redealt := vmod s.cru.redealt d fun _ => gone } } (symNow s)

/-- A pot stops: what it holds is not finished (R195). -/
def potStop (s : State) (i : Nat) : State := { s with cru := { s.cru with units := vmod s.cru.units i fun _ => [] } }

/-- A fault of a pot counted: it awaits its retest, or is retired (R376, R377). -/
def potCount (s : State) (i : Nat) : State :=
  let l := recent s.tb.now (potOf s i).faults
  if l.length < 3 then
    noteFault (modPot s i fun p => { p with faults := s.tb.now :: l, state := 1, testing := false, passed := false }) 1 i (l.length + 1)
  else noteRetired (modPot s i fun p => { p with faults := l, state := 2, retired := true, testing := false, passed := false }) 1 i 1

/-- POT_FAULT: the pot stops; its units go to the others from the next work ticks on (R195). -/
def execPotFault (dt : Nat) (pot : Fin 8) (residue : Bool) (s : State) : Host.Outcome State Fault Refusal :=
  let s := arrive dt s
  let i := pot.val
  .next (if !domOn s 8 ∨ (potOf s i).retired ∨ (potOf s i).state = 1 then s
    else potCount (potStop (post s 0x0201 0 i (b2n residue ||| b2n (!residue) <<< 1 ||| symIdNow s <<< 32)) i) i)

/-- POT_RETEST_END: the pot waits for the next table, or has a further fault (R376). -/
def execPotRetestEnd (dt : Nat) (pot : Fin 8) (pass : Bool) (s : State) : Host.Outcome State Fault Refusal :=
  let s := arrive dt s
  let i := pot.val
  .next (if !(potOf s i).testing then s
    else if pass then modPot s i fun p => { p with testing := false, passed := true }
    else potCount s i)

/-- At an air slot tick: faulted pots start their test; those that passed enter the table computed now (R376). -/
def potsSlot (s : State) : State :=
  { s with cru := { s.cru with pot := vall s.cru.pot fun _ p =>
    if p.retired then p
    else if p.passed then { p with passed := false, state := 3 }
    else if p.state = 1 ∧ !p.testing then { p with testing := true, retests := s.tb.now :: recent s.tb.now p.retests }
    else p } }

/-! ### WEIGHT_LOAD (R181–R183) -/

/-- A DRAM range meets a region of R188 or leaves the DRAM. -/
def dramBad (a n : Nat) : Bool := rangesMeet a n 0 0x02000000 || rangesMeet a n 0x40000000 0x40000000 || decide (2 ^ 32 < a + n)

/-- The first work tick of a direction from k on that no other load holds (R182). -/
def freeTick (s : State) (d : Nat) : Nat → Nat → Nat
  | 0, k => k
  | n + 1, k => if s.cru.loads.any (fun l => l.dir == d && l.sym == k) then freeTick s d n (k + 1) else k

/-- WEIGHT_LOAD's tick kind: the work tick of its direction. -/
def weightTick (c : Cmd) : TickKind := if bit (dB c.d 16) 0 then .ulWork else .dlWork

/-- The work tick a WEIGHT_LOAD is bound to (R182). -/
def weightBind (s : State) (c : Cmd) : Nat × Bool :=
  let kind := weightTick c
  let d := b2n (bit (dB c.d 16) 0)
  let b := bindTick s kind (dAtTick c.d) (dTick c.d)
  if dAtTick c.d ∧ !b.2 then b
  else
    let least := if bit (dB c.d 16) 1 ∧ granOf s d = 0 then 14 * (symNow s / 14 + 4) else 0
    (freeTick s d (s.cru.loads.length + 1) (max b.1 least), b.2)

/-- Refusal checks of WEIGHT_LOAD. -/
def weightLoadCheck (s : State) (c : Cmd) : Option Refuse :=
  let d := c.d
  let g := b2n (bit (dB d 16) 1)
  let dir := b2n (bit (dB d 16) 0)
  let top := if g = 0 then 32 else 16
  let n := dB d 18 * dH d 22
  let first := decide (c.stage = .held)
  let table := tableFor s (ownId s) (symNow s / 14)
  let many := match table with
    | some t => (t.entries.filter fun e => e.dir == dir && !e.shed).length
    | none => 0
  let target := (weightBind s c).1
  let above := match tableFor s (ownId s) (target / 14) with
    | some t => t.entries.any fun e => e.dir == dir && !e.shed && decide (15 < e.slot)
    | none => false
  if !(decide (dB d 16 < 4 ∧ dB d 17 < top ∧ 1 ≤ dB d 18 ∧ dB d 17 + dB d 18 ≤ top ∧ 1 ≤ dH d 22 ∧ dH d 20 + dH d 22 ≤ bundleCount g ∧
      dQ d 24 % 256 = 0) && !dramBad (dQ d 24) (256 * n) && dZero d 19 19 && dZero d 32 63) then some ⟨cField, 0⟩
  else match domRefuse s [8] with
    | some r => some r
    | none =>
      if 1024 < n then some ⟨65, 0⟩
      else if g = 1 ∧ (decide (16 < many) || s.run.layers.any (fun l => l.isLocal && l.dir == dir && decide (15 < l.id)) ||
          (first && dAtTick d && above)) then some ⟨66, 0⟩
      else if first && dAtTick d && !(weightBind s c).2 && s.cru.loads.any (fun l => l.dir == dir && l.sym == target) then some ⟨64, 0⟩
      else none

/-- The rows are read as soon as the command is accepted (R182). -/
def weightAccept (s : State) (c : Cmd) : State :=
  match c.stage with
  | .bound _ k _ =>
    let d := c.d
    { s with cru := { s.cru with loads := s.cru.loads ++ [
      { ref := c.ref, dir := b2n (bit (dB d 16) 0), gran := b2n (bit (dB d 16) 1), l0 := dB d 17, ln := dB d 18, b0 := dH d 20, bn := dH d 22
        sym := k, rows := memSlice s.ldl.dram (dQ d 24) (256 * (dB d 18 * dH d 22)) 0 }] } }
  | _ => s

/-! ### PATTERN_WRITE (R189) -/

/-- The DRAM range of a PATTERN_WRITE: address and bytes. -/
def patternRange (d : Desc) : Nat × Nat :=
  let f := dW d 20
  (if dB d 16 = 0 then vectorAddr f else streamAddr (bits f 11 0) (bits f 25 16), 256 * dH d 24)

/-- Refusal checks of PATTERN_WRITE. -/
def patternCheck (s : State) (c : Cmd) : Option Refuse :=
  let d := c.d
  let f := dW d 20
  let n := dH d 24
  let range := if dB d 16 = 0 then decide (f + n ≤ 131072)
    else decide (bits f 15 12 = 0 ∧ bits f 31 26 = 0 ∧ bits f 25 16 + n ≤ 546)
  if !(decide (dB d 16 ≤ 1 ∧ dB d 17 ≤ 7 ∧ 1 ≤ n ∧ n ≤ 1024 ∧ dQ d 28 % 64 = 0 ∧ dQ d 28 + 256 * n ≤ 2 ^ 64) && range && dZero d 18 19 && dZero d 26 27 && dZero d 36 63) then some ⟨cField, 0⟩
  else domRefuse s [8]

/-- The named channel takes the move into the commit buffer (R189). -/
def patternEffect (s : State) (c : Cmd) : State :=
  modCh s (dB c.d 17) fun ch => { ch with
    move := some { ref := c.ref, seq := c.seq, kind := .pattern, srcSp := 0, dstSp := 2, src := dQ c.d 28, dst := (patternRange c.d).1, len := 256 * dH c.d 24, tag := BitVec.ofNat 16 (dH c.d 4) } }

/-- PATTERN_WRITE (0x0051). -/
def patternWriteDef : CmdDef where
  opcode := 0x0051
  tick _ := .none
  first s c := channelBusy s (dB c.d 17)
  check := patternCheck
  refused s c r := moveRefused s (dB c.d 17) c r
  effect := patternEffect

/-- PATTERN_WRITE. -/
def execPatternWrite (dt : Nat) (ref : CmdRef) (d : Desc) (s : State) : Host.Outcome State Fault Refusal :=
  .next (runCmd patternWriteDef dt ref d s)

/-- At an air symbol tick: the commit whose move ended 2,048 counts before; a fill in progress goes on reading the old
contents (R189). -/
def commitSymbol (k : Nat) (s : State) : State :=
  match s.ldl.commits with
  | [] => s
  | x :: rest =>
    if s.tb.now < x.due then s
    else
      let keep := vall s.cru.fillDram fun d old => match old with
        | some m => some m
        | none => if (vget s.cru.filling d none).isSome then some s.ldl.dram else none
      let dram := memPaste 0 (memClear s.ldl.dram x.addr x.len) (memSlice s.ldl.commit 0 x.len x.addr)
      let s := { s with cru := { s.cru with fillDram := keep }, ldl := { s.ldl with dram := dram, commits := rest } }
      endSeq s x.seq 0 0 (x.len ||| symId s k <<< 32)

/-! ### SOUNDING_CAPTURE (R198) -/

/-- Subcarriers a SOUNDING_CAPTURE takes in one symbol: every 2^COMB-th from COMB_OFF on. -/
def soundCount (d : Desc) : Nat :=
  let m := 2 ^ bits (dB d 18) 1 0
  (12 * dH d 22 + m - 1 - bits (dB d 18) 4 2) / m

/-- Bytes of a SOUNDING_CAPTURE. -/
def soundBytes (d : Desc) : Nat := dB d 17 * soundCount d * 256

/-- Refusal checks of SOUNDING_CAPTURE. -/
def soundCheck (s : State) (c : Cmd) : Option Refuse :=
  let d := c.d
  let k := match c.stage with
    | .bound _ k _ => k
    | _ => (bindTick s .symbol (dAtTick d) (dTick d)).1
  if !(decide (dB d 16 ≤ 1 ∧ 1 ≤ dB d 17 ∧ dB d 17 ≤ 4 ∧ dB d 18 < 32 ∧ bits (dB d 18) 4 2 < 2 ^ bits (dB d 18) 1 0 ∧
      dH d 20 + dH d 22 ≤ (carrierOf s (dB d 16)).nprb ∧ dQ d 24 % 4096 = 0) && !dramBad (dQ d 24) (soundBytes d) && dZero d 19 19 && dZero d 32 63) then some ⟨cField, 0⟩
  else match domRefuse s [8] with
    | some r => some r
    | none => if (List.range (dB d 17)).all (fun i => isUl s (k + i)) then none else some ⟨64, 0⟩

/-- SOUNDING_CAPTURE (0x0052): from its tick on it runs until SOUNDING_CAPTURE_END. -/
def soundingCaptureDef : CmdDef where
  opcode := 0x0052
  tick _ := .symbol
  check := soundCheck
  effect s c := cmdPut s { c with note := BitVec.ofNat 64 (symNow s) }

/-- SOUNDING_CAPTURE. -/
def execSoundingCapture (dt : Nat) (ref : CmdRef) (d : Desc) (s : State) : Host.Outcome State Fault Refusal :=
  .next (runCmd soundingCaptureDef dt ref d s)

/-- The words of a capture written from an address, each as `value` gives it; every other word of the range becomes 0. -/
def captureWrite (m : Memory) (base len : Nat) (value : CapWord → Nat) (data : List CapWord) : Memory :=
  (data.filter fun w => decide (w.off + 4 ≤ len) && value w != 0).foldl (fun m w => memWriteBytes 0 m (base + w.off) (bytesLE 4 (value w)))
    (memClear m base len)

/-- What symbol i of a running capture held (R198, R277, R288). -/
def markOf (s : State) (c : Cmd) (i : Nat) : CapMark :=
  (s.rx.marks.find? fun m => m.seq == c.seq && m.sym == i).getD { seq := c.seq, sym := i }

/-- The symbols of a capture in which one of a choice of paths was settling. -/
def settledSyms (s : State) (c : Cmd) (n paths : Nat) : Nat :=
  maskOf ((List.range n).filter fun i => decide ((markOf s c i).stl.toNat &&& paths ≠ 0))

/-- The word that a sounding capture stores for an element: zero for a path retired or settling in its symbol (R198, R277). -/
def soundWord (s : State) (c : Cmd) (w : CapWord) : Nat :=
  let m := markOf s c (w.off / (256 * soundCount c.d))
  if bit (m.retired ||| m.stl).toNat (w.off / 4 % 64) then 0 else w.word.toNat

/-- SOUNDING_CAPTURE_END: the values in DRAM, zero for a path retired or settling in their symbol, and the record (R198, R277). -/
def execSoundingCaptureEnd (dt : Nat) (ref : CmdRef) (data : List CapWord) (s : State) : Host.Outcome State Fault Refusal :=
  let s := arrive dt s
  .next (match cmdOf s ref with
    | some c => match c.stage with
      | .running _ =>
        if dOp c.d = 0x0052 ∧ c.note.toNat + dB c.d 17 ≤ symNow s then
          let s := { s with ldl := { s.ldl with dram := captureWrite s.ldl.dram (dQ c.d 24) (soundBytes c.d) (soundWord s c) data } }
          cmdDone s { c with result := BitVec.ofNat 64 (soundBytes c.d ||| settledSyms s c (dB c.d 17) (2 ^ 64 - 1) <<< 32) }
        else s
      | _ => s
    | none => s)

/-! ### The work ticks -/

/-- Admitted flows with a block missing when the window of symbol k opens (R147). -/
def dlMissing (s : State) (k c : Nat) : Nat :=
  if !isDl s k ∨ !bit (setAt s c k) 2 then 0
  else ((placedAt s c 0 k).filter fun e => e.isEnd && (bookOf s c false e.layer).isSome &&
    !((List.range (prbBlocks (carrierOf s c).nprb)).all fun b => s.fh.held.any fun m =>
      m.cc == c && m.id == e.layer && m.sym == k && m.secs.any fun x => decide (x.start ≤ b ∧ b < x.start + x.num))).length

/-- Messages of symbol k that the Tundish has not released when its window opens, by their places among those held: discarded, with
their credits given back, and the event of R32; their layers are zero (R31, R151). -/
def tundishLate (s : State) (k : Nat) (unreleased : List Nat) : State :=
  let mine := (s.fh.held.filter fun m => m.sym == k).zipIdx.filterMap fun x => if unreleased.contains x.2 then some x.1 else none
  if mine.isEmpty then s
  else
    let n := (mine.map fun m => m.secs.length).sum
    let s := dropHeld s mine.contains (some 16)
    post { s with gen := { s.gen with tunLate := true, lateCount := satTo 0xFFFF (s.gen.lateCount + 1) } } 0x0010 11 1
      (satTo 0xFFFF n <<< 16 ||| symId s k <<< 32)

/-- W_DL(k): the window of the symbol before closes, late while the sample-clock PLL is out of lock; what is unreleased of k is
discarded, the swap, and the window of k opens (R26, R31, R147, R149, R177, R195, R295). -/
def dlWork (unfinished : Nat) (unreleased : List Nat) (k : Nat) (s : State) : State :=
  let p := s.cru.dlSym
  let works := isDl s p && (bit (setAt s 0 p) 2 || bit (setAt s 1 p) 2)
  let sat := if anyBfs s ∧ domOn s 8 then dlSaturated s p 0 + dlSaturated s p 1 else 0
  let s := { s with cru := { s.cru with satDl := satTo 0xFFFFFFFF (s.cru.satDl + sat) } }
  let lost := unfinished + (if works then unfitUnits s 0 else 0)
  let lost := if works && !s.syn.pllLocked then max 1 lost else lost
  let s := if lost = 0 then s else windowLate s 0 lost p
  let s := dropDirect (dropHeld s (fun m => m.sym < k) none) (fun m => m.sym < k) none
  let s := redealTick (swapTick (tundishLate s k unreleased) 0 k) 0
  { s with
    fh := { s.fh with dlMiss := vall s.fh.dlMiss fun c n => satTo 0xFFFFFFFF (n + dlMissing s k c) }
    cru := { s.cru with dlSym := k, dlWork := s.fh.held.filter fun m => m.sym == k } }

/-- W_UL(k): the window of the symbol before closes, the swap, and the window of k opens with the antenna values of its symbol; those
of a path retired in it, off or settling are zero, and all of them while the sample-clock PLL is out of lock (R26, R31, R174, R177,
R195, R197, R282, R295). -/
def ulWork (unfinished : List LayerRef) (rx : List AntVal) (stl : Nat) (k : Nat) (s : State) : State :=
  let s := sendUplink (if domOn s 8 then closeUplink unfinished s else s)
  let s := redealTick (swapTick s 1 k) 1
  let dead := fun (p : Nat) => bit (retMaskOf s 1) p || !domOn s (10 + p / 16) || bit stl p
  { s with cru := { s.cru with
    ulShiftWork := if k % 14 = 13 then s.cru.ulShiftWork else s.cru.ulShiftNow
    ulSym := k, ulSent := [], ulParts := [], ulZero := s.rx.zeros, ulStl := BitVec.ofNat 64 stl
    ulRx := (if s.syn.pllLocked then rx else []).filter fun r => !dead r.ant.val && !(r.i == 0 && r.q == 0) } }

end Sys2Proof.Machine
end

