-- ==== Sys2Proof/Machine/Dpd.lean ====
section
/-! DEFINITION. Linearisation (08): DPD_CFG, the coefficient sets of R239, Temper's solves, refreshes and divergence. -/

namespace Sys2Proof.Machine

/-- The identity set: a(1,0) = 1.0 (R238, R239). -/
def coefIdentity : List (BitVec 64) := [0x0000000001000000]

/-- Entry i of a set; entries past its list are zero (R239). -/
def coefAt (l : List (BitVec 64)) (i : Nat) : BitVec 64 := l.getD i 0

/-- The largest M of any path (R240). -/
def maxM (s : State) : Nat := (List.range 64).foldl (fun m p => max m (dpdOf s p).m) 0

/-- L_TX of R240. -/
def txLatency (stages m : Nat) : Nat := 1504 + 384 * stages + 32 * m

/-- One path's model is legal (R238). -/
def modelOk (p k m mc a b : Nat) : Bool :=
  let nbr := fun n => decide (n = 0xFF ∨ (n < 64 ∧ n ≠ p))
  decide (1 ≤ k ∧ k ≤ 9 ∧ 1 ≤ m ∧ m ≤ 8 ∧ k * m ≤ 48 ∧ mc ≤ 4 ∧ mc ≤ m) && nbr a && nbr b &&
    decide (a ≠ b ∨ a = 0xFF) && decide (mc = 0 ∨ a ≠ 0xFF ∨ b ≠ 0xFF)

/-- The DRAM address of LOAD and SAVE. -/
def dpdAddr (d : Desc) : Nat := dQ d 32

/-- Field ranges of DPD_CFG (R238, R263); a MODEL is checked whether it names a path or not. -/
def dpdCfgRange (d : Desc) : Bool :=
  let b := dB d
  match b 16 with
  | 0 => dZero d 23 23 && (64 :: setBits 64 (dPaths d)).all fun p => modelOk p (b 18) (b 19) (b 20) (b 21) (b 22)
  | 1 => decide (b 18 ≤ 1 ∧ b 19 ≤ 3) && decide (b 21 = 0 ∨ (20 ≤ b 21 ∧ b 21 ≤ 50)) && dZero d 22 23
  | 2 | 3 => dZero d 18 23 && decide (dpdAddr d % 512 = 0) && dramFree (dpdAddr d) (512 * (setBits 64 (dPaths d)).length)
  | 4 => dZero d 18 23
  | 5 => decide (b 18 ≤ 3 ∧ 384 ≤ dH d 19 ∧ dH d 19 ≤ 768) && dZero d 21 23
  | _ => false

/-- Refusal checks of DPD_CFG: fields, domains, latency (R240, R263; log 23 for the domains). -/
def dpdCfgCheck (s : State) (c : Cmd) : Option Refuse :=
  let a := dB c.d 16
  let others := (List.range 64).foldl (fun m p => if bit (dPaths c.d) p then m else max m (dpdOf s p).m) 0
  if !dpdCfgRange c.d then some ⟨cField, 0⟩
  else if missing s (if a = 2 ∨ a = 3 then [8, 9] else [9]) ≠ 0 then domRefuse s (if a = 2 ∨ a = 3 then [8, 9] else [9])
  else if a = 0 ∧ dPaths c.d ≠ 0 ∧ 2816 < txLatency s.tx.stages (max others (dB c.d 19)) then some ⟨cLatency, 0⟩
  else if a = 5 ∧ 2816 < txLatency (dB c.d 18) (maxM s) then some ⟨cLatency, 0⟩
  else none

/-- The paths a LOAD or SAVE acts on, in ascending order, each with its place among those its descriptor named: `all` holds the named
paths of a command that has lost some (R76, R263). -/
def ranked (mask all : Nat) : List (Nat × Nat) := (setBits 64 (mask ||| all)).zipIdx.filter fun x => bit mask x.1

/-- Entry i of a set has a term of the path's model: those of an absent neighbour and unused ones hold zero (R239). -/
def coefUsed (x : Dpd) (i : Nat) : Bool :=
  let e := x.k * x.m
  decide (i < e) || (decide (e ≤ i ∧ i < e + 2 * x.mc) && x.nbrA != 0xFF) || (decide (e + 2 * x.mc ≤ i ∧ i < e + 4 * x.mc) && x.nbrB != 0xFF)

/-- A set with zero in the entries that its model has no term for (R239). -/
def coefTrim (x : Dpd) (l : List (BitVec 64)) : List (BitVec 64) := (List.range 64).map fun i => if coefUsed x i then coefAt l i else 0

/-- A coefficient set read from DRAM. -/
def coefLoad (s : State) (a : Nat) : List (BitVec 64) :=
  (List.range 64).map fun i => BitVec.ofNat 64 (leNat (memReadBytes 0 s.ldl.dram (a + 8 * i) 8))

/-- A coefficient set as its 512 bytes (R239). -/
def coefBytes (l : List (BitVec 64)) : List Byte := (List.range 64).flatMap fun i => bytesLE 8 (coefAt l i).toNat

/-- DPD_CFG at its symbol tick (R263, R245). A set that was not solved has the identity's NMSE or, once loaded, a free one; a freeze
gives up a solved set that is not yet in force (log 77). -/
def dpdCfgEffect (s : State) (c : Cmd) : State :=
  let b := dB c.d
  let paths := ranked (dPaths c.d) c.note.toNat
  let each := fun (f : Dpd → Dpd) => forBits 64 (dPaths c.d) s fun s p => modDpd s p f
  let s := match b 16 with
    | 0 => each fun x => { x with
        k := b 18, m := b 19, mc := b 20, nbrA := b 21, nbrB := b 22, coef := coefIdentity, nmse := 0, due := true, pend := none
        restore := false, obs := none }
    | 1 =>
      let s := each fun x => { x with
        state := if b 18 = 1 then 1 else 2
        mu := b 19
        due := x.due || (b 18 == 1 && x.last.isNone)
        poor := if b 18 = 1 ∧ x.state = 3 then 0 else x.poor
        pend := if b 18 = 1 then x.pend else none
        obs := if b 18 = 1 then x.obs else none
        retryAt := none }
      { s with tx := { s.tx with
          refresh := if b 20 = 0 then s.tx.refresh else b 20
          divThr := if b 21 = 0 then s.tx.divThr else b 21 } }
    | 2 => paths.foldl (fun s x =>
        modDpd s x.1 fun y => { y with
          coef := coefTrim y (coefLoad s (dpdAddr c.d + 512 * x.2)), nmse := Config.setNmse (drawKey s) x.1, pend := none, restore := false }) s
    | 3 => paths.foldl (fun s x =>
        { s with ldl := { s.ldl with dram := memWriteBytes 0 s.ldl.dram (dpdAddr c.d + 512 * x.2) (coefBytes (dpdOf s x.1).coef) } }) s
    | 4 => each fun x => { x with
        coef := coefIdentity, nmse := 0, qecPhase := 0, qecGain := 0, lolI := 0, lolQ := 0, pend := none, restore := false }
    | _ => { s with tx := { s.tx with stages := b 18, papr := dH c.d 19 } }
  cmdDone s c

/-- DPD_CFG (0x0032). MODEL, LOAD and IDENTITY set a path's coefficients; ADAPT its adaptation; CFR is one setting. -/
def dpdCfgDef : CmdDef where
  opcode := 0x0032
  tick _ := .symbol
  check := dpdCfgCheck
  effect := dpdCfgEffect
  keys c := match dB c.d 16 with
    | 1 => pathKeys 0x0032 1 c
    | 3 => []
    | 5 => [keyOf 0x0032 5 0]
    | _ => pathKeys 0x0032 0 c
  strip c l := { stripPaths c l with note := c.note ||| BitVec.ofNat 64 (dPaths c.d) }

/-- DPD_CFG. -/
def execDpdCfg (dt : Nat) (ref : CmdRef) (d : Desc) (s : State) : Host.Outcome State Fault Refusal :=
  .next (runCmd dpdCfgDef dt ref d s)

/-! ### Temper (R242–R246) -/

/-- A value moved toward another by μ = 2^−mu, rounded down (log 24). -/
def muStep (mu : Nat) (old new : Int) : Int := old + (new - old) / (2 ^ mu : Nat)

/-- One coefficient moved by μ: I and Q each a 32-bit code (R239, R243). -/
def coefStep (mu : Nat) (old new : BitVec 64) : BitVec 64 :=
  let part := fun lo => tc 32 (muStep mu (sx 32 (bits old.toNat (lo + 31) lo)) (sx 32 (bits new.toNat (lo + 31) lo)))
  BitVec.ofNat 64 (part 0 ||| part 32 <<< 32)

/-- An accepted solve's new set and quadrature corrections, due 2,048 counts later (R243, R246). -/
def temperPend (s : State) (x : Dpd) (t : TemperSol) : CoefPend where
  coef := coefTrim x ((List.range 64).map fun i => coefStep x.mu (coefAt x.coef i) (coefAt t.coef i))
  due := s.tb.now + 2048
  nmse := t.nmse
  qecPhase := muStep x.mu x.qecPhase t.qecPhase
  qecGain := muStep x.mu x.qecGain t.qecGain
  lolI := muStep x.mu x.lolI t.lolI
  lolQ := muStep x.mu x.lolQ t.lolQ

/-- Divergence: the earlier set comes back at the next symbol tick, adaptation stops, and it is a fault of the path (R244,
R376). -/
def diverge (s : State) (p : Nat) (nmse : Int) : State :=
  let s := modDpd s p fun x => { x with
    state := 3, restore := true, pend := none, poor := 0, retryAt := some (s.tb.now + 491520000) }
  pathFault (post s 0x0805 0 p (tc 16 (clampI (-32768) 32767 nmse))) p

/-- Temper observes path p in the symbol that ends, `was` being the state at its end: an ORx served its request
with the ORX output of its quad locked, and neither the path nor a neighbour of its model was silent, nor its signal too low (R241,
R297). -/
def observed (was : State) (p : Nat) : Bool :=
  let o := vget was.rx.orx (p / 8) {}
  let x := dpdOf was p
  let sends := fun (i : Nat) => (txOf was i).radiating
  (o.holder == 1 || o.holder == 4) && o.coupler == p % 8 && quadLocked was (p / 16) 2 && sends p && !bit was.tx.lowNow.toNat p &&
    (x.mc == 0 || [x.nbrA, x.nbrB].all fun i => i == 0xFF || sends i)

/-- The observations of the symbol that ends now (R241). -/
def temperObserve (was s : State) : State :=
  { s with tx := { s.tx with dpd := vall s.tx.dpd fun p x => if observed was p then { x with obs := some s.tb.now } else x } }

/-- A Temper solve ends, within 1 ms of an observation: rejected, or accepted with the divergence check; an accepted one is the
path's last update (R241–R244). -/
def solveTemper (p : Nat) (t : TemperSol) (s : State) : State :=
  let x := dpdOf s p
  let fresh := match x.obs with
    | some n => decide (s.tb.now ≤ n + 491520)
    | none => false
  if x.state ≠ 1 ∨ (txOf s p).retiredNow ∨ !fresh then s
  else if x.nmse + 32 < t.nmse then modDpd s p fun x => { x with rejects := satTo 255 (x.rejects + 1), obs := none }
  else
    let worse := decide (-(64 * (s.tx.divThr : Int)) < t.nmse)
    let s := modDpd s p fun x => { x with
      pend := some (temperPend s x t), updates := satTo 0xFFFF (x.updates + 1), lastAt := s.tb.now
      effAt := (txOf s p).eff, compAt := (txOf s p).comp, obs := none
      due := false, half := false, stale := false
      before := if worse ∧ x.poor = 0 then x.coef else x.before
      beforeNmse := if worse ∧ x.poor = 0 then x.nmse else x.beforeNmse
      poor := if worse then x.poor + 1 else 0 }
    if worse ∧ x.poor = 2 then diverge s p t.nmse else s

/-- TEMPER_SOLVE_END. -/
def execTemperSolveEnd (dt : Nat) (path : Fin 64) (sol : TemperSol) (s : State) : Host.Outcome State Fault Refusal :=
  .next (solveTemper path.val sol (arrive dt s))

/-- One path's linearisation at the tick of symbol k (R242–R244). -/
def dpdPathSymbol (s : State) (k p : Nat) (x : Dpd) : Dpd :=
  let t := txOf s p
  let x := if x.restore then { x with coef := x.before, nmse := x.beforeNmse, restore := false } else x
  let x := match x.pend with
    | some n => if n.due ≤ s.tb.now then
        { x with
          coef := n.coef, nmse := n.nmse, qecPhase := n.qecPhase, qecGain := n.qecGain, lolI := n.lolI, lolQ := n.lolQ
          pend := none, last := some (BitVec.ofNat 19 (symId s k)) }
      else x
    | none => x
  if 64 < (t.eff - x.effAt).natAbs ∨ 512 < (t.comp - x.compAt).natAbs then { x with due := true } else x

/-- Every path's linearisation at a symbol tick. -/
def dpdSymbol (k : Nat) (s : State) : State := { s with tx := { s.tx with dpd := vall s.tx.dpd fun p x => dpdPathSymbol s k p x } }

/-- DIVERGE_RETRY: 1 s after a divergence the path adapts again and takes the identity set at the next air symbol tick (R246, R376). -/
def divergeRetry (p : Nat) (s : State) : State :=
  match (dpdOf s p).retryAt with
  | none => arrive 0 s
  | some due =>
    modDpd (arriveAt due s) p fun x => { x with
      retryAt := none, before := coefIdentity, beforeNmse := 0, restore := true, pend := none, state := 1, due := true }

/-- DIVERGE_RETRY. -/
def execDivergeRetry (path : Fin 64) (s : State) : Host.Outcome State Fault Refusal := .next (divergeRetry path.val s)

/-- REFRESH in counts. -/
def refreshCounts (s : State) : Nat := s.tx.refresh * 4915200

/-- The refresh timer of a path: past REFRESH / 2, past REFRESH (R242). -/
def refreshDue (p : Nat) (s : State) : State :=
  let age := s.tb.now - (dpdOf s p).lastAt
  modDpd s p fun x => { x with
    half := x.half || decide (refreshCounts s ≤ 2 * age), due := x.due || decide (refreshCounts s ≤ age) }

/-- TEMPER_REFRESH_DUE. -/
def execTemperRefreshDue (dt : Nat) (path : Fin 64) (s : State) : Host.Outcome State Fault Refusal :=
  .next (refreshDue path.val (arrive dt s))

/-- A radiating path without an accepted update for 4 × REFRESH is stale (R242). -/
def staleCheck (p : Nat) (s : State) : State :=
  let x := dpdOf s p
  if (txOf s p).radiating ∧ 4 * refreshCounts s ≤ s.tb.now - x.lastAt ∧ !x.stale then
    post (modDpd s p fun x => { x with stale := true }) 0x0806 6 p ((x.last.getD 0).toNat <<< 32)
  else s

/-- DPD_STALE. -/
def execDpdStale (dt : Nat) (path : Fin 64) (s : State) : Host.Outcome State Fault Refusal :=
  .next (staleCheck path.val (arrive dt s))

/-- What a path asks of the arbiter: 1 Temper refresh due, 4 Temper not due, 0 nothing (R242, R245, R379). -/
def temperAsk (s : State) (p : Nat) : Nat :=
  let x := dpdOf s p
  if x.state ≠ 1 ∨ !(txOf s p).en ∨ (txOf s p).retiredNow then 0
  else if x.due then 1 else if x.half then 4 else 0

end Sys2Proof.Machine
end

