-- ==== Sys2Proof/Machine/Receive.lean ====
section
/-! DEFINITION. Receive and observation (09): RX_CFG, settling, blanking and the overload watch, CAPTURE, and the arbiter of the
observation receivers and guard periods (R53–R55). -/

namespace Sys2Proof.Machine

/-! ### Settling (R275–R277) -/



/-- Taps of an NT code (R269). -/
def tapsOf (code : Nat) : Nat := [33, 49, 65, 97].getD code 33

/-- N_settle of a chain, samples (R276). -/
def nSettle (r : RxPath) : Nat := (if r.cicDec = 0 then 27 else if r.cicOrder = 3 then 5 else 6) + tapsOf r.firLen + 16

/-- Port time of the first sample of symbol k's FFT window, and of the first one after it (R273). -/
def winFrom (s : State) (k : Nat) : Nat := tickT s k + cpOf k - s.rx.winAdv
def winEnd (s : State) (k : Nat) : Nat := tickT s (k + 1) - s.rx.winAdv

/-- A synchronising reset now: the path settles for N_settle (R275). -/
def syncReset (s : State) (p : Nat) : State := settle s p s.tb.now (s.tb.now + nSettle (rxOf s p))

/-- The paths of a quad wait for the reset at the first symbol tick with lock: T_AN + N_settle (R275). -/
def quadResets (s : State) (q : Nat) : State :=
  forAll 16 s fun s i => modRx s (16 * q + i) fun r => { r with settlePend := 4096 + nSettle r }



/-- The FFT window of symbol j holds a settling sample of path p (R277). -/
def settledIn (s : State) (j p : Nat) : Bool := (rxOf s p).settles.any fun x => decide (x.1 < winEnd s j ∧ winFrom s j < x.2 ∧ x.1 < x.2)

/-- Counts from a transmit run's start back to the start of its protection (R279, R280). -/
def protLead (s : State) : Nat := tTr s + 16 * s.rx.lpLead

/-- The samples of path p that are zero in symbol j, which ends now: settling ones, and those blanked around transmit runs; `was` is the
state before the lines moved (R277, R280). -/
def zeroSpans (was s : State) (j p : Nat) : List ZeroSpan :=
  let r := rxOf s p
  let t0 := tickT s j
  let t1 := tickT s (j + 1)
  let run := (txOf was p).inRun
  let cut := fun (stl : Bool) (x : Nat × Nat) =>
    if max x.1 t0 < min x.2 t1 then [(⟨p, stl, max x.1 t0 - t0, min x.2 t1 - t0⟩ : ZeroSpan)] else []
  r.settles.flatMap (cut true) ++ cut false (t0, if run then t1 else r.blankUntil) ++
    (if !run && (txOf s p).inRun then cut false (t1 - protLead s, t1) else [])

/-- One path at the tick of symbol k, once its transmit run is known: what the uplink symbol before held (R277, R280–R282), the
resets due, the symbols lost for want of lock (R282), the release of the overload hold (R281), and the end of a run's blanking (R280);
`was` is the state before the tick. -/
def rxPathSymbol (was s : State) (k p : Nat) (r : RxPath) : RxPath :=
  let wasRun := (txOf was p).inRun
  let inRun := (txOf s p).inRun
  let j := k - 1
  let blankUntil := if wasRun && !inRun then tickT s k + tTrOff s + 16 * s.rx.lpLag + 16 * s.rx.recov else r.blankUntil
  let r := if isUl s j then { r with
      settledLast := settledIn { s with rx := { s.rx with winAdv := was.rx.winAdv } } j p
      blanked := decide (winFrom was j < r.blankUntil) || (!wasRun && inRun && decide (tickT s k - protLead s < winEnd was j)) }
    else r
  let late := isUl s k && !vget s.rx.lockOk (p / 16) false
  let lock := decide (r.settlePend ≠ 0) && quadLocked s (p / 16) 1
  { r with
    settles := (r.settles.filter fun x => decide (tickT s k < x.2)) ++
      (if late || r.ovlAgain then [(tickT s k, tickT s (k + 1))] else []) ++ (if lock then [(tickT s k, tickT s k + r.settlePend)] else [])
    settlePend := if lock then 0 else r.settlePend
    lateLo := if isUl s k then late else r.lateLo
    blankUntil := blankUntil
    ovlRun := r.ovlRun && r.ovl
    ovl := r.ovlAgain
    ovlAgain := false
    lnap := inRun || r.ovlAgain }

/-- The running captures that symbol j belongs to: their numbers, and its place in each (R198, R287). -/
def capturing (s : State) (j : Nat) : List (Nat × Nat) :=
  (s.host.cmds.filter fun c => cmdRuns c && (dOp c.d == 0x0052 || (dOp c.d == 0x0041 && dB c.d 16 != 3)) &&
    decide (c.note.toNat ≤ j ∧ j < c.note.toNat + dB c.d 17)).map fun c => (c.seq, j - c.note.toNat)

/-- What symbol j, which ends now, held for the captures it belongs to; captures that have ended are forgotten. -/
def marksNow (was s : State) (j : Nat) (zeros : List ZeroSpan) : List CapMark :=
  let stl := maskOf ((List.range 64).filter (settledIn { s with rx := { s.rx with winAdv := was.rx.winAdv } } j))
  let fades := (List.range 64).filterMap fun p => if (rxOf was p).fade = 0 then none else some (p, (rxOf was p).fade)
  (s.rx.marks.filter fun m => s.host.cmds.any fun c => c.seq == m.seq) ++
    (capturing s j).map fun x => ⟨x.1, x.2, BitVec.ofNat 64 (retiredMask was), BitVec.ofNat 64 stl, zeros, fades⟩

/-- Every path at a symbol tick; `was` is the state before the tick. -/
def rxSymbol (was : State) (k : Nat) (s : State) : State :=
  let zeros := (List.range 64).flatMap (zeroSpans was s (k - 1))
  { s with rx := { s.rx with path := vall s.rx.path (rxPathSymbol was s k), zeros := zeros, marks := marksNow was s (k - 1) zeros } }

/-- The parts saturated on each path in the symbol that ends (R271, R273). -/
def rxSatCount (s : State) (l : List (Fin 64 × Nat)) : State :=
  l.foldl (fun s x => if domOn s (10 + x.1.val / 16) then modRx s x.1.val fun r => { r with satCnt := satTo 0xFFFFFFFF (r.satCnt + x.2) } else s) s

/-- Paths that were settling in the last uplink symbol. -/
def settlingMask (s : State) : Nat := maskOf ((List.range 64).filter fun p => (rxOf s p).settledLast)

/-- RX_OVERLOAD: the overload watch of a path triggers, outside the protection of its transmit runs (R279, R281). -/
def overload (s : State) (p : Nat) (code : BitVec 16) : State :=
  let r := rxOf s p
  let k := symNow s
  if !r.protEn ∨ !domOn s (10 + p / 16) ∨ runProtects s p then s
  else
    let s := if r.ovlRun then s else post s 0x0901 1 p (code.toNat ||| symId s k <<< 32)
    modRx s p fun x => { x with
      ovlAgain := x.ovl, ovl := true, ovlRun := true, lnap := true, ovlCnt := satTo 0xFFFFFFFF (x.ovlCnt + 1)
      settles := x.settles ++ [(s.tb.now, tickT s (k + 1))] }

/-- RX_OVERLOAD. -/
def execRxOverload (dt : Nat) (path : Fin 64) (code : BitVec 16) (s : State) : Host.Outcome State Fault Refusal :=
  .next (overload (arrive dt s) path.val code)

/-! ### RX_CFG (R285) -/

/-- Field ranges of RX_CFG. -/
def rxCfgRange (s : State) (d : Desc) : Bool :=
  let b := dB d
  let addr := dQ d 32
  let paths := setBits 64 (dPaths d)
  dZero d 17 17 && dZero d 40 63 && (b 16 == 2 || decide (addr = 0)) &&
  match b 16 with
  | 0 => decide (3 ≤ b 18 ∧ b 18 ≤ 5 ∧ b 19 ≤ 1 ∧ b 20 ≤ 3 ∧ b 21 ≤ 3 ∧ b 22 ≤ 1) && dZero d 23 23
  | 1 => decide (b 18 ≤ 1 ∧ b 19 ≤ 15 ∧ -768 ≤ sx 16 (dH d 20) ∧ sx 16 (dH d 20) ≤ 1536) && dZero d 22 23
  | 2 => decide (b 18 ≤ 3) && dZero d 19 23 && decide (addr % 64 = 0) && !dramBad addr (tapsOf (b 18) + 1) &&
      paths.all fun p => (rxOf s p).firLen == b 18
  | 3 => decide (b 18 ≤ 1 ∧ 1 ≤ b 19 ∧ b 19 ≤ 64 ∧ b 20 ≤ 24) && dZero d 21 23
  | 4 => decide (dH d 18 ≤ 512 ∧ b 20 ≤ 15 ∧ b 21 ≤ 15 ∧ b 22 ≤ 15) && dZero d 23 23
  | 5 => decide (b 19 ≤ 30) && dZero d 20 23
  | _ => false

/-- Quads of the paths that an RX_CFG names. -/
def rxCfgDoms (d : Desc) : List Nat := if dB d 16 ≤ 3 then (quadsOf (dPaths d)).map (10 + ·) else []

/-- Refusal checks of RX_CFG. -/
def rxCfgCheck (s : State) (c : Cmd) : Option Refuse :=
  if !rxCfgRange s c.d then some ⟨cField, 0⟩ else domRefuse s (rxCfgDoms c.d)

/-- CHAIN on one path: a change of N, D, NT or IF_SIDE resets it; new taps return to the built-in set (R269, R275, R285). -/
def rxChain (s : State) (d : Desc) (p : Nat) : State :=
  let b := dB d
  let r := rxOf s p
  let x := { r with
    cicOrder := b 18, cicDec := b 19, firLen := b 20, xf := b 21, ifSide := b 22
    custom := r.custom && r.firLen == b 20, fir := if r.firLen = b 20 then r.fir else [] }
  let s := modRx s p fun _ => x
  if r.cicOrder = b 18 ∧ r.cicDec = b 19 ∧ r.firLen = b 20 ∧ r.ifSide = b 22 then s else syncReset s p

/-- RX_CFG at its slot tick. -/
def rxCfgEffect (s : State) (c : Cmd) : State :=
  let d := c.d
  let b := dB d
  let each := fun (f : State → Nat → State) => forBits 64 (dPaths d) s f
  cmdDone (match b 16 with
    | 0 => each fun s p => rxChain s d p
    | 1 => each fun s p => modRx s p fun r => { r with gmode := b 18, att := b 19, dgain := sx 16 (dH d 20), gainAt := s.tb.now }
    | 2 => each fun s p => fadeStart (modRx s p fun r => { r with
        custom := true
        fir := (List.range ((tapsOf (b 18) + 1) / 2)).map fun i => BitVec.ofNat 16 (leNat (memReadBytes 0 s.ldl.dram (dQ d 32 + 2 * i) 2)) }) p
    | 3 => each fun s p => modRx s p fun r => { r with protEn := b 18 == 1, nOvl := b 19, thr := b 20, ovl := r.ovl && b 18 == 1, ovlAgain := r.ovlAgain && b 18 == 1 }
    | 4 => { s with rx := { s.rx with winAdv := dH d 18, lpLead := b 20, lpLag := b 21, recov := b 22 } }
    | _ => forBits 8 (b 18) s fun s o => modOrx s o fun x => { x with hostAtt := b 19 }) c

/-- RX_CFG (0x0040). -/
def rxCfgDef : CmdDef where
  opcode := 0x0040
  tick _ := .slot
  check := rxCfgCheck
  effect := rxCfgEffect
  keys c := match dB c.d 16 with
    | 4 => [keyOf 0x0040 4 0]
    | 5 => (setBits 8 (dB c.d 18)).map (keyOf 0x0040 5)
    | a => pathKeys 0x0040 a c
  strip c l := if dB c.d 16 = 5 then clearBits c 144 (l.map keyInst) else stripPaths c l

/-- RX_CFG. -/
def execRxCfg (dt : Nat) (ref : CmdRef) (d : Desc) (s : State) : Host.Outcome State Fault Refusal :=
  .next (runCmd rxCfgDef dt ref d s)

/-! ### CAPTURE (R286–R288) -/

/-- Bytes of a CAPTURE per path and symbol k. -/
def capSymBytes (s : State) (d : Desc) (k : Nat) : Nat :=
  match dB d 16 with
  | 0 => 16 * symLen k
  | 1 => 4 * symLen k
  | 2 => 48 * (carrierOf s (dB d 18)).nprb
  | _ => 65536

/-- Paths of a CAPTURE; the one observed path of an ORX capture. -/
def capPaths (d : Desc) : Nat := if dB d 16 = 3 then 1 else (setBits 64 (dPaths d)).length

/-- Bytes of n symbols from symbol k. -/
def capBytesOf (s : State) (d : Desc) (k n : Nat) : Nat :=
  (List.range n).foldl (fun a i => a + capPaths d * capSymBytes s d (k + i)) 0

/-- The target of a CAPTURE: 1 receive, 2 ORx. -/
def capTarget (d : Desc) : Nat := if dB d 16 = 3 then 2 else 1

/-- An earlier capture into a target has not completed. -/
def capOpen (s : State) (t seq : Nat) : Bool :=
  s.host.cmds.any fun x => dOp x.d == 0x0041 && capTarget x.d == t && decide (x.seq < seq) && !(x.stage == .held)

/-- A Ladle move is reading a target (R287). -/
def ladleReads (s : State) (t : Nat) : Bool :=
  (List.range 8).any fun i => match (vget s.ldl.ch i {}).move with
    | some m => m.started && m.srcSp == 2 && decide (m.src / 2 ^ 56 = t)
    | none => false

/-- Refusal checks of CAPTURE. -/
def captureCheck (s : State) (c : Cmd) : Option Refuse :=
  let d := c.d
  let a := dB d 16
  let n := dB d 17
  let k := match c.stage with
    | .bound _ k _ => k
    | _ => (bindTick s .symbol (dAtTick d) (dTick d)).1
  let fields := decide (a ≤ 3 ∧ 1 ≤ n ∧ n ≤ 16) && dZero d 20 23 && dZero d 32 63 &&
    (if a = 2 then decide (dB d 18 ≤ 1) else if a = 3 then decide (dB d 18 ≤ 7) else dZero d 18 18) &&
    (if a = 3 then decide (dB d 19 ≤ 7 ∧ dPaths d = 0) else dZero d 19 19)
  firstRefuse [
    (!fields, cField),
    (decide ((if a = 3 then 0x100000 else 0x800000) < capBytesOf s d k n), 64),
    (capOpen s (capTarget d) c.seq || ladleReads s (capTarget d), 65),
    (a == 2 && !(List.range n).all fun i => isUl s (k + i), 66)]

/-- CAPTURE at its symbol tick: it runs from here on; an ORX capture asks for its ORx (R288). -/
def captureEffect (s : State) (c : Cmd) : State :=
  if dB c.d 16 = 3 then
    let o := dB c.d 18
    let s := modOrx s o fun x => { x with reqs := x.reqs ++ [{ user := 5, path := 8 * o + dB c.d 19, since := s.tb.now, att := x.hostAtt }] }
    cmdPut s { c with stage := .running (some (s.tb.now + 491520000)), note := 0 }
  else cmdPut s { c with note := BitVec.ofNat 64 (symNow s) }

/-- CAPTURE (0x0041). -/
def captureDef : CmdDef where
  opcode := 0x0041
  tick _ := .symbol
  check := captureCheck
  effect := captureEffect

/-- CAPTURE. -/
def execCapture (dt : Nat) (ref : CmdRef) (d : Desc) (s : State) : Host.Outcome State Fault Refusal :=
  .next (runCmd captureDef dt ref d s)

/-- The request of an ORX capture is withdrawn. -/
def capRelease (s : State) (c : Cmd) : State :=
  if dB c.d 16 = 3 then modOrx s (dB c.d 18) fun x => { x with
    reqs := x.reqs.filter fun r => !(r.user == 5), holder := if x.holder = 5 then 0 else x.holder } else s

/-- Symbols that a running capture has captured whole by now. -/
def capDone (s : State) (c : Cmd) : Nat :=
  if dB c.d 16 = 3 then c.note.toNat else min (dB c.d 17) (symNow s - c.note.toNat)

/-- The place of a captured word: symbol of the capture, path, and element within them (R287). -/
def capPlace (s : State) (d : Desc) (k off : Nat) : Nat → Nat × Nat × Nat
  | 0 => (0, 0, 0)
  | n + 1 =>
    let i := dB d 17 - (n + 1)
    let one := capSymBytes s d (k + i)
    let base := capBytesOf s d k i
    if off < base + capPaths d * one then (i, (setBits 64 (dPaths d)).getD ((off - base) / one) 0, (off - base) % one / 4)
    else capPlace s d k off n

/-- A part of a sample inside a cross-fade of n samples, i samples in (R274). -/
def fadePart (i n : Nat) (old new : Int) : Int := divRound ((n - i : Int) * old + i * new) n

/-- A sample inside a cross-fade: the mixture of what the old and the new coefficients give (R274). -/
def fadeWord (i n : Nat) (old new : Nat) : Nat :=
  tc 16 (fadePart i n (sx 16 (bits old 15 0)) (sx 16 (bits new 15 0))) ||| tc 16 (fadePart i n (sx 16 (bits old 31 16)) (sx 16 (bits new 31 16))) <<< 16

/-- The word a capture stores for an element: zero where it is settling or blanked, mixed inside a fade (R274, R277, R280, R287). -/
def capWord (s : State) (c : Cmd) (w : CapWord) : Nat :=
  let x := capPlace s c.d c.note.toNat w.off (dB c.d 17)
  let m := markOf s c x.1
  match dB c.d 16 with
  | 1 =>
    if m.zero.any fun z => z.path == x.2.1 && decide (z.lo ≤ x.2.2 ∧ x.2.2 < z.hi) then 0
    else match m.fades.find? fun y => y.1 == x.2.1, w.old with
      | some y, some old => if x.2.2 < y.2 then fadeWord x.2.2 y.2 old.toNat w.word.toNat else w.word.toNat
      | _, _ => w.word.toNat
  | 2 => if bit m.stl.toNat x.2.1 then 0 else w.word.toNat
  | _ => w.word.toNat

/-- A capture ends with the words that its samples are, and the mask of its settling symbols (R287, R288). -/
def captureFinish (s : State) (c : Cmd) (data : List CapWord) : State :=
  let n := capBytesOf s c.d c.note.toNat (dB c.d 17)
  let settled := settledSyms s c (dB c.d 17) (dPaths c.d)
  let s := capRelease s c
  let s := if dB c.d 16 = 3 then
      { s with ldl := { s.ldl with orxCap := captureWrite s.ldl.orxCap 0 n (fun w => w.word.toNat) data } }
    else { s with
      ldl := { s.ldl with rxCap := captureWrite s.ldl.rxCap 0 n (capWord s c) data }
      rx := { s.rx with capBytes := n } }
  cmdDone s { c with result := BitVec.ofNat 64 (n ||| settled <<< 32) }

/-- The running command at a ring place, if it is of an opcode. -/
def runningOf (s : State) (ref : CmdRef) (op : Nat) : Option Cmd :=
  (cmdOf s ref).filter fun c => dOp c.d == op && cmdRuns c

/-- CAPTURE_END: the last sample of a capture is in the target. -/
def execCaptureEnd (dt : Nat) (ref : CmdRef) (data : List CapWord) (s : State) : Host.Outcome State Fault Refusal :=
  let s := arrive dt s
  .next (match runningOf s ref 0x0041 with
    | some c => if dB c.d 17 ≤ capDone s c then captureFinish s c data else s
    | none => s)

/-- CAPTURE_NO_GRANT: an ORX capture without a grant 1 s after its tick (R288). -/
def execCaptureNoGrant (ref : CmdRef) (s : State) : Host.Outcome State Fault Refusal :=
  .next (match runningOf s ref 0x0041 with
    | some c => match c.stage with
      | .running (some due) =>
        if c.note = 0 then cmdEnd (capRelease (arriveAt due s) c) { c with cause := 67, result := 0 } 2 else arrive 0 s
      | _ => arrive 0 s
    | none => arrive 0 s)

/-- A capture is pre-empted: its record carries the bytes captured, which are in its target; what they are, no row says, so each
element is a free value (R54, R288). -/
def capPreempt (s : State) (c : Cmd) : State :=
  let n := capBytesOf s c.d c.note.toNat (capDone s c)
  let data : List CapWord := (List.range (n / 4)).map fun i => { off := 4 * i, word := Config.cutSample (drawKey s) i }
  let s := capRelease s c
  let s := if dB c.d 16 = 3 then
      { s with ldl := { s.ldl with orxCap := captureWrite s.ldl.orxCap 0 n (fun w => w.word.toNat) data } }
    else { s with
      ldl := { s.ldl with rxCap := captureWrite s.ldl.rxCap 0 n (capWord s c) data }
      rx := { s.rx with capBytes := n } }
  cmdEnd s { c with cause := cPreempted, result := BitVec.ofNat 64 n } 2

/-! ### The arbiter (R53–R55) -/

/-- Temper's requests at one ORx as they stand: those of R242 for the paths of its octant, with the time they were made. -/
def temperReqs (s : State) (o : Nat) (old : List OrxReq) : List OrxReq :=
  (List.range 8).filterMap fun i =>
    let p := 8 * o + i
    let u := temperAsk s p
    if u = 0 then none
    else match old.find? fun r => r.path == p && r.user == u with
      | some r => some r
      | none => some { user := u, path := p, since := s.tb.now }

/-- A run of Anneal wants the guard period of symbol k (R55, R319). -/
def anlWants (s : State) (k : Nat) : Bool :=
  s.anl.run.isSome && isGuard s k && anlGranted s && !(anlCarriers s).isEmpty &&
    (s.anl.state == .waiting || s.anl.state == .meas1 || s.anl.state == .meas2)

/-- Paths of octant o whose injection code lies wholly within symbol k of Anneal's guard period, at frame offset 512 to 1,535 of their
frames (R319, R320, R324). -/
def anlSeen (s : State) (r : AnlRun) (o k : Nat) : List Nat :=
  let g := guardFirst s 14 k
  let l := guardLen s 14 g
  let used := tickT s g = s.anl.gpAt ∧ s.anl.gpN ≠ 0
  let first := if used then s.anl.gpFrom else r.frames
  let n := if used then s.anl.gpN else min (16 - r.frames) (guardFrames l)
  ((List.range 8).map (8 * o + ·)).filter fun p => (List.range n).any fun i =>
    let at_ := tickT s g + 1536 + 2048 * i + 512
    (match r.edge with
      | none => p % 16 == first + i
      | some d => edgeTurn s d.val (first + i) p) && bit (anlPaths s) p && anlInjects s p &&
      decide (tickT s k ≤ at_ ∧ at_ + 1024 ≤ tickT s (k + 1))

/-- Anneal's request at one ORx in symbol k of its guard period: one of the paths it can observe there, in rotation across runs
(R53, R54, R324). -/
def anlReqs (s : State) (o k : Nat) : List OrxReq :=
  match s.anl.run with
  | none => []
  | some r =>
    let l := anlSeen s r o k
    if anlWants s k ∧ vget s.mod.gpNow (o / 2) 0 = 1 ∧ l ≠ [] then
      [{ user := 2, path := l.getD (s.anl.orxRot % l.length) 0, since := r.since }]
    else []

/-- Holding makes its dark checks: TMP is on and a carrier in HLD (R351). -/
def darkChecks (s : State) : Bool := domOn s 9 && s.hld.darkEn && (hasMode s 0 5 || hasMode s 1 5)

/-- Path p is dark: it is in no transmit run, or no carrier contributes to what it sends (R53, R351). -/
def darkPath (s : State) (p : Nat) : Bool := !inRuns s p || !(contributes s 0 || contributes s 1)

/-- Holding's request at one ORx once its check is due: the next dark path of the octant in rotation (R53, R351). -/
def darkReqs (s : State) (o : Nat) : List OrxReq :=
  let x := vget s.rx.orx o {}
  match (List.range 8).map (fun i => 8 * o + (vget s.hld.rot o 0 + i) % 8) |>.find? (darkPath s) with
  | some p => if darkChecks s && decide (x.darkAt ≤ s.tb.now) then [{ user := 3, path := p, since := x.darkAt }] else []
  | none => []

/-- The request that one ORx serves in symbol k: highest rank, then oldest, then lowest path; Temper observes only downlink
symbols, and a host capture has no guard period that another user holds (R53, R55, R241). -/
def orxPick (s : State) (k o : Nat) (l : List OrxReq) : Option OrxReq :=
  let taken := isGuard s k && (vget s.mod.gpNow (o / 2) 0 == 1 || vget s.mod.gpNow (o / 2) 0 == 3)
  (sortBy (fun (a b : OrxReq) => keyLt [(a.user : Int), a.since, a.path] [(b.user : Int), b.since, b.path])
    (l.filter fun r => ((r.user ≠ 1 ∧ r.user ≠ 4) ∨ isDl s k) ∧ !(r.user == 5 && taken))).head?

/-- One ORx at the tick of symbol k: a holder that loses it is pre-empted, of Anneal its ORx share only, and a dark check starts again
one second later (R53, R54, R332). -/
def orxSymbolOne (k : Nat) (s : State) (o : Nat) : State :=
  if !domOn s 9 then modOrx s o fun x => { x with holder := 0, reqs := [] }
  else
    let x := vget s.rx.orx o {}
    let reqs := x.reqs.filter (fun r => r.user == 5) ++ temperReqs s o x.reqs ++ anlReqs s o k ++ darkReqs s o
    let pick := orxPick s k o reqs
    let now := (pick.map (·.user)).getD 0
    let att := fun (r : OrxReq) => if r.user = 5 then x.hostAtt else min 30 (Config.orxAtt (drawKey s) o)
    let s := modOrx s o fun x => { x with
      reqs := reqs
      holder := now
      coupler := (pick.map (·.path % 8)).getD x.coupler
      att := (pick.map att).getD x.att
      darkAt := if x.holder = 3 ∧ now ≠ 3 ∧ now ≠ 0 ∧ !(darkReqs s o).isEmpty then s.tb.now + 491520000 else x.darkAt }
    let s := match pick with
      | some r => if r.user = 2 then { s with anl := { s.anl with obs := s.anl.obs ||| 1#64 <<< r.path } } else s
      | none => s
    let caps := s.host.cmds.filter fun c => dOp c.d == 0x0041 && dB c.d 16 == 3 && dB c.d 18 == o && cmdRuns c
    if now = 5 then (match caps with
      | c :: _ => cmdPut s { c with note := c.note + 1 }
      | [] => s)
    else (caps.filter fun c => decide (c.note ≠ 0 ∧ x.holder = 5)).foldl capPreempt s

/-- A capture from the receive paths uses quad q. -/
def capUses (q : Nat) (c : Cmd) : Bool := dOp c.d == 0x0041 && dB c.d 16 != 3 && cmdRuns c && (quadsOf (dPaths c.d)).contains q

/-- The user of the guard period of symbol k on one quad. The master's grants come first; Anneal takes a period at its first symbol
only, as it is granted whole, and a capture takes one that is free (R52, R55). -/
def guardUser (s : State) (k q : Nat) (first : Bool) (old : Nat) : Nat :=
  let flk := hasMode s 0 3 || hasMode s 1 3
  let anl := anlWants s k && decide (bits (anlPaths s) (16 * q + 15) (16 * q) ≠ 0)
  if flk ∧ s.run.granted ≠ 0 ∧ !bit s.run.granted.toNat s.gen.flaskId then 3
  else if !first ∧ old ≠ 0 then old
  else if first ∧ anl then 1
  else if flk ∧ s.run.granted ≠ 0 then 3
  else if s.host.cmds.any (capUses q) then 2 else 0

/-- The guard periods at the tick of symbol k: their users, the captures that have no part in them, and a run that the master's
decision outranks (R52, R54, R55). -/
def guardSymbol (k : Nat) (s : State) : State :=
  if !isGuard s k then { s with mod := { s.mod with gpNow := Vector.replicate 4 0 } }
  else
    let first := !isGuard s (k - 1)
    let was := s.mod.gpNow
    let now := vall was fun q h => guardUser s k q first h
    let lost := fun q => vget now q 0 == 1 || vget now q 0 == 3
    let out := !first && (List.range 4).any fun q => vget was q 0 == 1 && vget now q 0 != 1
    let s := { s with mod := { s.mod with gpNow := now, gpHolder := vall s.mod.gpHolder fun q h => if vget now q 0 = 0 then h else vget now q 0 } }
    let s := (s.host.cmds.filter fun c => (List.range 4).any fun q => lost q && capUses q c).foldl capPreempt s
    if out && (s.anl.state == .meas1 || s.anl.state == .meas2) then anlFail s 9 else s

/-- The arbiter at the tick of symbol k. -/
def orxSymbol (k : Nat) (s : State) : State := forAll 8 (guardSymbol k s) (orxSymbolOne k)

/-- DARK_CHECK: what the check of an octant that holds its ORx has measured on the path it observes; the next one is due one second
later (R54, R351). -/
def execDarkCheck (dt : Nat) (orx : Fin 8) (level : Int) (s : State) : Host.Outcome State Fault Refusal :=
  let s := arrive dt s
  let o := orx.val
  let x := vget s.rx.orx o {}
  .next (if !darkChecks s ∨ x.holder ≠ 3 ∨ s.tb.now < x.darkAt then s
    else
      let s := modOrx s o fun y => { y with darkAt := s.tb.now + 491520000 }
      let s := { s with hld := { s.hld with rot := vmod s.hld.rot o fun _ => (x.coupler + 1) % 8 } }
      if sx 8 s.hld.darkLvl.toNat * 64 < level then
        hbCount (post { s with hld := { s.hld with fails := satTo 0xFFFF (s.hld.fails + 1) } } 0x0C04 8 (8 * o + x.coupler % 8) (tc 16 level)) 12
      else s)

end Sys2Proof.Machine
end

