-- ==== Sys2Proof/Machine/Synth.lean ====
section
/-! DEFINITION. The SYN domain (10): reference sources, the sample-clock PLL, the LO synthesisers and their spare, CARRIER_CFG
and SYN_CFG. -/

namespace Sys2Proof.Machine

/-! ### Synthesisers (R296–R301, R376, R377) -/

/-- Dividers of a span centre in kHz: the smallest k from 1 to 4 with the VCO in range, N and FRAC (R296). -/
def dividersOf (khz : Nat) : Option (Nat × Nat × Nat) :=
  ([1, 2, 3, 4].find? fun k => decide (7200000 ≤ khz * 2 ^ k ∧ khz * 2 ^ k ≤ 14400000)).map fun k =>
    (k, khz * 2 ^ k / 122880, khz * 2 ^ k % 122880)

/-- The quad that a synthesiser serves now. -/
def quadOf (s : State) (n : Nat) : Option Nat :=
  if n = 4 then (if s.syn.serves < 4 then some s.syn.serves else none)
  else if n < 4 ∧ s.syn.serves ≠ n then some n else none

/-- A synthesiser can run: SYN and its quad are on, the reference is there, and it is not retired (R296, R338). -/
def synCanRun (s : State) (n : Nat) : Bool :=
  clkOn s && !(synthOf s n).retired && (match if n < 4 then some n else quadOf s n with
    | some q => domOn s (10 + q)
    | none => false)

/-- Divider values for the span centre in force (R296). -/
def synTune (s : State) (n : Nat) : State :=
  match (spanCentre s).bind dividersOf with
  | some (k, i, f) => modSynth s n fun y => { y with kDiv := k, n := i, frac := f }
  | none => s

/-- A band search starts; without a span centre there is nothing to lock to and the synthesiser stays off (R298, R58). -/
def synSearch (s : State) (n : Nat) : State :=
  if synCanRun s n ∧ (spanCentre s).isSome then
    modSynth (synTune s n) n fun y => { y with state := .search, attemptAt := some s.tb.now, retryAt := none }
  else if (synthOf s n).retired then s
  else modSynth s n fun y => { y with state := .off, attemptAt := none, retryAt := none }

/-- Every synthesiser that can run searches: after the reference or SYN comes back, or at a new span centre (R294, R303). -/
def synSearchAll (s : State) : State := forAll 5 s synSearch

/-- A quad has lost its LO: gated at once; the symbol at the port is lost on receive, and so is the next if its check was
already passed (R256, R260, R282, R300). -/
def quadLost (s : State) (q : Nat) : State :=
  if bit s.tx.retuned.toNat q then s
  else
    let k := symNow s
    let s := { s with tx := { s.tx with retuned := s.tx.retuned ||| 1#4 <<< q } }
    let s := linesCut s fun p => decide (p / 16 = q)
    let s := anlLoLost s q
    let s := if isUl s k ∧ !(rxOf s (16 * q)).lateLo then
        forAll 16 (lateRx s k q false) fun s i => settle (modRx s (16 * q + i) fun r => { r with lateLo := true }) (16 * q + i) s.tb.now (tickT s (k + 1))
      else s
    let s := if s.tx.checkedSym = some s.tb.airNext ∧ vget s.rx.lockOk q false then lateRx s s.tb.airNext q false else s
    { s with
      tx := { s.tx with lockOk := vmod s.tx.lockOk q fun _ => false }
      rx := { s.rx with lockOk := vmod s.rx.lockOk q fun _ => false } }

/-- The spare takes over a quad (R301). -/
def spareIn (s : State) (q : Nat) : State :=
  anlTrigger (post (synSearch { s with syn := { s.syn with serves := q } } 4) 0x0A08 0 q 1) 4

/-- A synthesiser becomes permanent: outputs gated, and the spare comes in where it may (R301, R376, R378). -/
def synRetire (s : State) (n by_ : Nat) : State :=
  let q := quadOf s n
  let s := modSynth s n fun y => { y with state := .retired, retired := true, attemptAt := none, retryAt := none }
  let s := noteRetired s 3 n by_
  let s := match q with
    | some q => quadLost s q
    | none => s
  if n < 4 ∧ s.syn.spareAuto ∧ s.syn.serves = 4 ∧ !(synthOf s 4).retired then spareIn s n else s

/-- A fault of a synthesiser: retried 100 µs later, or permanent (R300, R376, R377). -/
def synFault (s : State) (n : Nat) : State :=
  let l := recent s.tb.now (synthOf s n).faults
  if l.length < 3 then
    noteFault (modSynth s n fun y => { y with
      faults := s.tb.now :: l, state := .gated, attemptAt := none, retryAt := some (s.tb.now + 49152) }) 3 n (l.length + 1)
  else synRetire (modSynth s n fun y => { y with faults := l }) n 1

/-- Loss of lock (R300). -/
def synUnlock (s : State) (n : Nat) : State :=
  if (synthOf s n).state ≠ .locked then s
  else
    let s := post (modSynth s n fun y => { y with relocks := satTo 255 (y.relocks + 1) }) 0x0A01 0 n (symIdNow s <<< 32)
    let s := match quadOf s n with
      | some q => quadLost s q
      | none => s
    synFault s n

/-- SYN_UNLOCK. -/
def execSynUnlock (dt : Nat) (n : Fin 5) (s : State) : Host.Outcome State Fault Refusal := .next (synUnlock (arrive dt s) n.val)

/-- RELOCK_START: 100 µs after the loss of lock or the failed attempt (R300). -/
def execRelockStart (n : Fin 5) (s : State) : Host.Outcome State Fault Refusal :=
  .next (match (synthOf s n.val).retryAt with
    | some t => synSearch (arriveAt t s) n.val
    | none => arrive 0 s)

/-- SYN_LOCK: a search finds lock (R298); the quad's paths settle from the next symbol tick (R275). -/
def execSynLock (dt : Nat) (n : Fin 5) (band : BitVec 8) (s : State) : Host.Outcome State Fault Refusal :=
  let s := arrive dt s
  let y := synthOf s n.val
  .next (if y.state = .search ∨ y.state = .locking then
      let s := modSynth s n.val fun y => { y with state := .locked, band := band, attemptAt := none }
      let s := post s 0x0A02 5 n.val band.toNat
      match quadOf s n.val with
      | some q => quadResets s q
      | none => s
    else s)

/-- RELOCK_FAIL: an attempt without lock 1 ms after its first search (R298, R376). -/
def execRelockFail (n : Fin 5) (s : State) : Host.Outcome State Fault Refusal :=
  .next (match (synthOf s n.val).attemptAt with
    | some t => synFault (arriveAt (t + 491520) s) n.val
    | none => arrive 0 s)

/-! ### The sample-clock PLL (R295, R376) -/

/-- A fault of the sample-clock PLL: transient, or permanent with the bypass held. -/
def pllFault (s : State) : State :=
  let l := recent s.tb.now s.syn.pllFaults
  if l.length < 3 then noteFault { s with syn := { s.syn with pllFaults := s.tb.now :: l } } 3 5 (l.length + 1)
  else noteRetired { s with syn := { s.syn with pllFaults := l, pllRetired := true } } 3 5 1

/-- SAMPLE_PLL_UNLOCK: the converters are gated at once; the timebase goes on in bypass. -/
def execSamplePllUnlock (dt : Nat) (s : State) : Host.Outcome State Fault Refusal :=
  let s := arrive dt s
  .next (if s.syn.pllLocked ∧ clkOn s then
      let s := post { s with syn := { s.syn with pllLocked := false } } 0x0A01 0 5 (symIdNow s <<< 32)
      pllFault (forAll 4 s quadLost)
    else s)

/-- SAMPLE_PLL_RELOCK: the attempt ends in lock, or as a further fault. -/
def execSamplePllRelock (dt : Nat) (ok : Bool) (s : State) : Host.Outcome State Fault Refusal :=
  let s := arrive dt s
  .next (if s.syn.pllLocked ∨ s.syn.pllRetired ∨ !clkOn s then s
    else if ok then post { s with syn := { s.syn with pllLocked := true } } 0x0A02 5 5 0
    else pllFault s)

/-! ### CARRIER_CFG (R302, R303) -/

/-- Carrier block c of a CARRIER_CFG. -/
def ccBlock (d : Desc) (c : Nat) : Carrier :=
  let b := 24 + 12 * c
  { ofsKhz := sx 32 (dW d b), off := dH d (b + 4), nprb := dH d (b + 6), bwMhz := dH d (b + 8), sr := dB d (b + 10) }

/-- A configured block is in range (R302, R303); one with NPRB 0 is not checked. -/
def ccOk (x : Carrier) : Bool :=
  decide (x.nprb = 0) || decide (x.nprb ≤ 1092 ∧ 5 ≤ x.bwMhz ∧ x.bwMhz ≤ 400 ∧ x.sr ≤ 3 ∧
    x.ofsKhz.natAbs + 180 * x.nprb ≤ 200000 ∧ x.ofsKhz.natAbs + 500 * x.bwMhz ≤ 200000 ∧
    x.off + x.nprb ≤ 1092 ∧ 360 * x.nprb ≤ 1000 * x.bwMhz ∧ 10 * (360 * x.nprb) * 2 ^ x.sr ≤ 8 * 491520)

/-- Two configured carriers overlap in PRBs or in occupied band (R303). -/
def ccMeet (x y : Carrier) : Bool :=
  decide (x.nprb ≠ 0 ∧ y.nprb ≠ 0) && (rangesMeet x.off x.nprb y.off y.nprb ||
    decide (x.ofsKhz - 180 * x.nprb < y.ofsKhz + 180 * y.nprb ∧ y.ofsKhz - 180 * y.nprb < x.ofsKhz + 180 * x.nprb))

/-- The TDD fields are in range (R302, R303). -/
def tddOk (d : Desc) : Bool :=
  let n := dB d 48
  [0, 1, 2, 4, 5, 8, 10, 16, 20, 32, 40].contains n && decide (dB d 49 + dB d 50 + dB d 51 = 14 ∧ 1 ≤ dB d 50) &&
    decide (bits d.toNat 495 416 / 4 ^ n = 0) && (List.range n).all fun i => decide (bits d.toNat (416 + 2 * i + 1) (416 + 2 * i) ≠ 3)

/-- A block as a CARRIER_CFG leaves it: an unconfigured one holds nothing. -/
def ccAfter (s : State) (d : Desc) (c : Nat) : Carrier :=
  if bit (dB d 16) (1 + c) then (if (ccBlock d c).nprb = 0 then {} else ccBlock d c) else carrierOf s c

/-- Refusal checks of CARRIER_CFG. -/
def carrierCfgCheck (s : State) (c : Cmd) : Option Refuse :=
  let d := c.d
  let w := dB d 16
  firstRefuse [
    (!(decide (w ≤ 15) && dZero d 17 19 && dZero d 35 35 && dZero d 47 47 && dZero d 62 63 &&
      (!bit w 0 || decide (600000 ≤ dW d 20 ∧ dW d 20 ≤ 6925000)) &&
      (!bit w 1 || ccOk (ccBlock d 0)) && (!bit w 2 || ccOk (ccBlock d 1)) && (!bit w 3 || tddOk d) &&
      (decide (bits w 2 1 = 0) || !ccMeet (ccAfter s d 0) (ccAfter s d 1))), cField),
    (decide (bits w 2 0 ≠ 0) && anyBfs s, 65)]

/-- CARRIER_CFG at its slot tick: the settings, the retune, and the regulatory checks (R254, R255, R298, R303). -/
def carrierCfgEffect (s : State) (c : Cmd) : State :=
  let d := c.d
  let w := dB d 16
  let air := s.air
  let air := { air with cc := vall air.cc fun i _ => ccAfter s d i }
  let air := if bit w 0 then { air with spanKhz := some (dW d 20) } else air
  let air := if bit w 3 then { air with
      period := dB d 48, sDl := dB d 49, sGp := dB d 50, sUl := dB d 51, slots := BitVec.ofNat 80 (bits d.toNat 495 416) }
    else air
  let s := { s with air := air }
  let s := if bit w 0 then
      forAll 5 s fun s n => if (synthOf s n).state = .gated then s else synSearch s n
    else s
  let win := windowLimit s (symNow s) (if bit w 0 then 3 else bits w 2 1)
  let cut := bit w 3 && decide (dutyBudget win.1 < dlPerPeriod win.1)
  let s := if cut then postRegLimit win.1 0xFFFF 2 (symNow s) else win.1
  cmdDone s { c with limited := win.2 || cut }

/-- CARRIER_CFG (0x0020): SPAN, each carrier block and TDD are settings of their own. -/
def carrierCfgDef : CmdDef where
  opcode := 0x0020
  tick _ := .slot
  check := carrierCfgCheck
  effect := carrierCfgEffect
  keys c := (setBits 4 (dB c.d 16)).map fun i => keyOf 0x0020 0 i
  strip c l := clearBits c 128 (l.map keyInst)

/-- CARRIER_CFG. -/
def execCarrierCfg (dt : Nat) (ref : CmdRef) (d : Desc) (s : State) : Host.Outcome State Fault Refusal :=
  .next (runCmd carrierCfgDef dt ref d s)

/-! ### SYN_CFG (R301, R304) -/

/-- Refusal checks of SYN_CFG. -/
def synCfgCheck (s : State) (c : Cmd) : Option Refuse :=
  let d := c.d
  let a := dB d 16
  let x := dB d 18
  let y := dB d 19
  let args := match a with
    | 0 => decide (x ≤ 15 ∧ 1 ≤ y ∧ y ≤ 6)
    | 1 => decide ((x ≤ 3 ∨ x = 0xFF) ∧ y = 0)
    | 2 => decide (x = 0 ∧ y = 0)
    | _ => false
  firstRefuse [
    (!(args && decide (dB d 17 ≤ 4) && dZero d 20 63), cField),
    (a == 1 && x == 0xFF && decide (s.syn.serves < 4) && (synthOf s s.syn.serves).retired, 66)]

/-- The spare is released and its quad returns to its own synthesiser (R301). -/
def spareOut (s : State) : State :=
  let q := s.syn.serves
  if 4 ≤ q then s
  else
    let s := modSynth { s with syn := { s.syn with serves := 4 } } 4 fun y => { y with state := if y.retired then .retired else .off, attemptAt := none, retryAt := none }
    let s := if (synthOf s q).state = .locked then quadResets s q else if (synthOf s q).state = .gated then s else synSearch s q
    anlTrigger (post s 0x0A08 0 q 2) 4

/-- SYN_CFG at its symbol tick. -/
def synCfgEffect (s : State) (c : Cmd) : State :=
  let d := c.d
  let n := dB d 17
  let x := dB d 18
  cmdDone (match dB d 16 with
    | 0 => modSynth s n fun y => { y with outEn := BitVec.ofNat 4 x, monK := some (dB d 19) }
    | 1 =>
      if x = 0xFF then spareOut s
      else if s.syn.serves = x then s
      else
        let s := if s.syn.serves < 4 then spareOut s else s
        spareIn s x
    | _ => synSearch s n) c

/-- SYN_CFG (0x0021): OUTPUTS and RELOCK of one synthesiser, SPARE of the device. -/
def synCfgDef : CmdDef where
  opcode := 0x0021
  tick _ := .symbol
  check := synCfgCheck
  effect := synCfgEffect
  keys c := [keyOf 0x0021 (dB c.d 16) (if dB c.d 16 = 1 then 0 else dB c.d 17)]

/-- SYN_CFG. -/
def execSynCfg (dt : Nat) (ref : CmdRef) (d : Desc) (s : State) : Host.Outcome State Fault Refusal :=
  .next (runCmd synCfgDef dt ref d s)

end Sys2Proof.Machine
end

