-- ==== Sys2Proof/Machine/Timebase.lean ====
section
/-! DEFINITION. The internal reference and the timebase (10): reference sources and REF_LOST, the first start of SYN, steps and
the void interval, the servo, PPS and PTP, TB_CFG and TB_STEP. -/

namespace Sys2Proof.Machine

/-! ### The frame grid and steps (R294, R306, R311) -/

/-- 10 ms and GRID_OFS in units of ToD. -/
def gridStep : Nat := 10000000 * todNs
def gridBase (s : State) : Nat := s.tb.gridOfs * todNs

/-- The number of 10 ms intervals to the first grid point at or after a ToD (R306). -/
def gridIndex (s : State) (t : Nat) : Nat := (t - gridBase s + gridStep - 1) / gridStep

/-- E at a frame tick: the residue of ToD from its grid point, ps (R306). -/
def tickErrNow (s : State) : Int :=
  let r : Int := ((s.tb.tod : Int) - gridBase s) % (gridStep : Nat)
  let r := if 2 * r < gridStep then r else r - gridStep
  clampI (-2147483648) 2147483647 (divRound (r * 1000) todNs)

/-- What is on its way when the frame ends at once: lines at rest, held messages LATE, uplink UL_DROP, no window (R311). -/
def voidClear (s : State) : State :=
  let s := linesIdle s fun _ => true
  let s := dropDirect (dropCtrl (dropHeld s (fun _ => true) (some 12)) (fun _ => true) (some 12)) (fun _ => true) (some 12)
  let s := dropUplink s (fun _ => true) 18
  { s with cru := { s.cru with dlWork := [], ulRx := [], ulSent := [], psums := [], ulStl := 0 } }

/-- The frame grid placed anew from now on: the next frame tick is the first grid point at least 1 ms after the ToD, reached
at a whole count by a phase shift of less than one count; no tick before it (R311). -/
def reanchor (s : State) : State :=
  let m := gridIndex s (s.tb.tod + 1000000 * todNs)
  let g := m * gridStep + gridBase s
  let n := (g - s.tb.tod) / todRate s
  let k := roundUp 280 s.tb.airNext
  voidClear { s with tb := { s.tb with
    tod := g - n * todRate s, gridAt := s.tb.now + n, gridK := k, gridFrame := (m + s.tb.fnOfs) % 1024
    airNext := k, dlNext := k + 2, ulNext := k, voidCounts := n } }

/-- A step of the time of day to a value in units of ToD, and its event (R311). -/
def tbStepTo (s : State) (t : Int) : State :=
  let s := { s with tb := { s.tb with tod := (t % (2 ^ 64 * 1000000000 * todNs : Nat)).toNat, valid := true, stepDue := none } }
  let s := reanchor s
  post s 0x0A06 5 0xFFFF (satTo 0xFFFFFFFF s.tb.voidCounts)

/-- The timebase stops: the count at which it did (R294). -/
def tbStop (s : State) : State := if tbOn s then { s with syn := { s.syn with lostAt := s.tb.now } } else s

/-- The timebase resumes: its ToD with the interval measured on CK_AON, VALID at 0, the grid re-anchored (R294). -/
def tbResume (s : State) : State :=
  let e := (s.tb.now - s.syn.lostAt) * todRate s
  let ppm := clampI (-20000) 20000 (Config.aonPpm s.syn.lostAt (drawKey s))
  reanchor { s with tb := { s.tb with
    tod := s.tb.tod + ((e : Int) * (1000000 + ppm) / 1000000).toNat
    valid := false, state := .invalid, acquire := true, stepDue := none, phaseLeft := 0, prevOffset := none } }

/-! ### Reference sources (R290–R294) -/

/-- A source code is qualified and its extra condition holds; CASCADE needs a lane to take its clock from (R213, R290). -/
def srcOk (s : State) (c : Nat) : Bool :=
  bit s.syn.qual.toNat c && (c != 3 || s.lanes.synceValid) && (c != 4 || (flaskTimed s && (cascadeLane s).isSome))

/-- The source the cleaner should take: CASCADE first at a flask member, else by priority; 0 none (R290). -/
def bestSource (s : State) : Nat :=
  if srcOk s 4 then 4
  else (([0, 4, 8, 12].map fun i => bits s.syn.refCfg.toNat (i + 3) i).find? fun c => decide (1 ≤ c ∧ c ≤ 4) && srcOk s c).getD 0

/-- A flask member aligns anew (R212, R229, R294). -/
def alignAgain (s : State) : State :=
  if s.gen.master ∨ (s.run.state ≠ .inService ∧ s.run.state ≠ .aligning ∧ s.run.state ≠ .suspended) then s
  else { s with run := { s.run with state := .aligning, ready := false, goodAligns := 0, badAligns := 0, joinSym := none } }

/-- A source qualifies again after REF_LOST (R294). -/
def refResume (s : State) (c : Nat) : State :=
  let s := { s with syn := { s.syn with
    refLost := false, refState := .locked, active := Source.ofCode c, holdoverAt := none, pllLocked := !s.syn.pllRetired } }
  let s := if domOn s 2 then tbResume s else s
  anlRelease (alignAgain (synSearchAll s)) 0

/-- The cleaner takes the best source, or starts to search (R291). -/
def refSelect (s : State) : State :=
  let b := bestSource s
  if !s.syn.everOn then
    if b = 0 then { s with syn := { s.syn with refState := .acquiring, active := .none } }
    else { s with syn := { s.syn with refState := .locked, active := Source.ofCode b, lastActive := Source.ofCode b } }
  else if s.syn.refLost then (if b = 0 ∨ !domOn s 3 then s else refResume s b)
  else if b = s.syn.active.code then s
  else if b = 0 then
    { s with syn := { s.syn with active := .none, lastActive := s.syn.active, refState := .searching, holdoverAt := some s.tb.now } }
  else
    let old := if s.syn.active = .none then s.syn.lastActive else s.syn.active
    let s := { s with syn := { s.syn with active := Source.ofCode b, lastActive := Source.ofCode b, refState := .locked, holdoverAt := none } }
    if old.code = b then s else post s 0x0A03 5 b old.code

/-- SOURCE_QUALIFIED. -/
def execSourceQualified (dt : Nat) (src : Source) (s : State) : Host.Outcome State Fault Refusal :=
  let s := arrive dt s
  .next (if src = .none ∨ vget s.pwr.dom 3 .off = .off ∨ vget s.pwr.dom 3 .off = .retention then s
    else hkCheck s (refSelect { s with syn := { s.syn with qual := s.syn.qual ||| 1#5 <<< src.code } }))

/-- SOURCE_LOST. -/
def execSourceLost (dt : Nat) (src : Source) (s : State) : Host.Outcome State Fault Refusal :=
  let s := arrive dt s
  .next (if src = .none then s else refSelect { s with syn := { s.syn with qual := s.syn.qual &&& ~~~(1#5 <<< src.code) } })

/-- REF_LOST is declared; carriers wait to resume (R293, R294). -/
def refLostNow (s : State) : State :=
  let s := forAll 4 s quadLost
  let s := tbStop (linesIdle s fun _ => true)
  let s := { s with mod := { s.mod with refHeld := true }, syn := { s.syn with
    refLost := true, refState := .lost, holdoverAt := none, pllLocked := false
    synth := vall s.syn.synth fun _ y => { y with
      state := if y.retired then .retired else if y.state = .off then .off else .gated, attemptAt := none, retryAt := none } } }
  biasForce (anlFail (hbCount (post s 0x0A04 1 0xFFFF s.syn.lastActive.code) 10) 14)

/-- REF_LOST: 10 ms without a qualified source (R291). -/
def execRefLost (s : State) : Host.Outcome State Fault Refusal :=
  .next (match s.syn.holdoverAt with
    | some t => hkCheck s (refLostNow (arriveAt (t + 4915200) s))
    | none => arrive 0 s)

/-- OUT_OF_RESET: SYN is first on after power-on reset; the device enters the state of R57 (R437). -/
def execOutOfReset (dt : Nat) (s : State) : Host.Outcome State Fault Refusal :=
  let s := arrive dt s
  .next (if s.syn.everOn ∨ s.syn.refState ≠ .locked then s
    else
      let s := { s with
        syn := { s.syn with everOn := true, pllLocked := true }
        pwr := { s.pwr with dom := vmod s.pwr.dom 3 fun _ => .on } }
      let k := roundUp 280 s.tb.airNext
      let s := { s with tb := { s.tb with
        gridAt := s.tb.now, gridK := k, gridFrame := gridIndex s s.tb.tod % 1024, airNext := k, dlNext := k + 2, ulNext := k } }
      let s := synSearchAll s
      let s := forAll 16 s fun s l => if laneLive s l && !inLts s l then startAttempt .first s l else s
      anlCold s)

/-! ### The servo (R307, R308) -/

/-- FTRIM's limit, 50 ppm in 1/16 ppb (R292). -/
def ftrimMax : Int := 800000

/-- 1/16 ns of phase in counts × 1/16 ppb. -/
def phaseUnit : Int := 491520000

/-- A correction in 1/16 ns larger than TB_JUMP_LIM is refused (R307). -/
def jumpRefuse (s : State) (ofs : Int) : State :=
  let ns := ofs / 16
  post { s with tb := { s.tb with jumpRefused := true, refused := clampI (-2147483648) 2147483647 ns } } 0x0A05 5 0xFFFF (tc 64 ns)

/-- A phase shift of 1/16 ns units is to be slewed (R307). -/
def phaseShift (s : State) (x : Int) : State := { s with tb := { s.tb with phaseLeft := x * phaseUnit } }

/-- The 1PPS output is high: for 100 ms from each second boundary of ToD plus PPS_OUT delay, while it is enabled and the timebase is
valid (R313). -/
def ppsOutLevel (s : State) : Bool :=
  s.tb.ppsOutEn && tbOn s && s.tb.state != .invalid &&
    decide (((s.tb.tod : Int) - s.tb.ppsOutDelay * (todNs : Nat) / 4) % ((1000000000 * todNs : Nat) : Int) < ((100000000 * todNs : Nat) : Int))

/-- The frequency of the reference output in Hz: 122.88 MHz or 10 MHz while it is driven, none in REF_LOST (R313). -/
def refOutHz (s : State) : Option Nat :=
  if !bit s.syn.refCfg.toNat 17 ∨ !clkOn s ∨ s.syn.refLost then none
  else some (if bit s.syn.refCfg.toNat 18 then 10000000 else 122880000)

/-- TIME_SRC: 1 acquired, 2 lost (R316). -/
def timeSrc (s : State) (what : Nat) : State := post s 0x0A07 5 (if s.tb.source = .ptp then 2 else 1) what

/-- An offset of the selected source, 1/16 ns (R307, R308, R310). -/
def servo (s : State) (ofs : Int) : State :=
  let s := { s with tb := { s.tb with srcOfs := clampI (-2147483648) 2147483647 ofs } }
  if flaskTimed s ∨ s.run.state = .suspended then s
  else if s.tb.acquire then
    if anyBfs s then jumpRefuse s ofs
    else { s with tb := { s.tb with
      acquire := false, state := .acquiring, stepDue := some (-(ofs * todNs) / 16), prevOffset := some ofs } }
  else if 16 * s.tb.jumpLim < ofs.natAbs then jumpRefuse s ofs
  else
    let back := s.tb.state == .holdover
    let trim := match s.tb.prevOffset with
      | some p => clampI (-ftrimMax) ftrimMax (Config.servoTrim s.tb.ftrimTarget p ofs)
      | none => s.tb.ftrimTarget
    let s := phaseShift s (-ofs)
    let s := { s with tb := { s.tb with ftrimTarget := trim, prevOffset := some ofs, state := if back then .locked else s.tb.state } }
    if back then timeSrc s 1 else s

/-- The offset of a 1PPS edge from where it should fall, 1/16 ns (R308). -/
def ppsOffset (s : State) : Int :=
  let x := ((s.tb.tod * 16 / todNs : Nat) - 4 * s.tb.ppsInDelay) % 16000000000
  if x < 8000000000 then x else x - 16000000000

/-- PPS_EDGE. -/
def execPpsEdge (dt : Nat) (s : State) : Host.Outcome State Fault Refusal :=
  let s := arrive dt s
  .next (if !tbOn s then s
    else
      let s := { s with tb := { s.tb with ppsPresent := true } }
      if s.tb.source = .pps then servo s (ppsOffset s) else s)

/-- TIME_SOURCE_LOST: three missing edges or Sync intervals, or a stale Announce (R308). -/
def execTimeSourceLost (dt : Nat) (s : State) : Host.Outcome State Fault Refusal :=
  let s := arrive dt s
  .next (
    if !tbOn s ∨ (s.tb.source ≠ .pps ∧ s.tb.source ≠ .ptp) then s
    else
      let s := { s with tb := { s.tb with
        ppsPresent := s.tb.ppsPresent && s.tb.source != .pps
        ptpSyncOk := s.tb.ptpSyncOk && s.tb.source != .ptp
        ptpSelected := s.tb.ptpSelected && s.tb.source != .ptp } }
      if s.tb.state ≠ .locked ∧ s.tb.state ≠ .acquiring then s
      else timeSrc { s with tb := { s.tb with state := .holdover, phaseLeft := 0, prevOffset := none } } 2)

/-! ### PTP (R309, R312) -/

/-- A Delay_Req frame (R309): the IEEE 1588 message with its departure time. -/
def delayReq (s : State) (p : Port) (t3 : Int) : List Byte :=
  let ns := (t3 / 16).toNat
  ethFrame (if s.tb.ptpAddr then 0x0180C200000E else 0x011B19000000) (portMac s p) none 0x88F7
    (bytesBE 1 1 ++ bytesBE 1 2 ++ bytesBE 2 44 ++ bytesBE 1 s.tb.ptpDomain.toNat ++ bytesBE 15 0 ++
      bytesBE 8 (portMac s p) ++ bytesBE 2 1 ++ bytesBE 2 s.tb.ptpSeq ++ bytesBE 1 1 ++ bytesBE 1 0x7F ++
      bytesBE 6 (ns / 1000000000) ++ bytesBE 4 (ns % 1000000000))

/-- A whole Sync: the master-to-slave difference, and a Delay_Req in return (R309). -/
def ptpSynced (s : State) (p : Port) (ms : Int) : State :=
  let t3 := stamp16 s (portAdjTx s p)
  let s := send s (.frame p (delayReq s p t3))
  let s := { s with tb := { s.tb with
    ptpMs := some ms, ptpSyncOk := true, ptpSync := none, ptpReq := some (s.tb.ptpSeq, t3), ptpSeq := (s.tb.ptpSeq + 1) % 65536 } }
  if s.tb.source = .ptp ∧ s.tb.ptpSelected then servo s (ms - s.tb.ptpDelay) else s

/-- A PTP frame on the PTP port, of its domain (R309). -/
def ptpTake (s : State) (p : Port) (m : PtpMsg) : State :=
  let t2 := stamp16 s (portAdjRx s p)
  match m.kind with
  | .announce => if m.best then { s with tb := { s.tb with ptpSelected := true, ptpClass := m.clockClass } } else s
  | .sync =>
    if m.twoStep then { s with tb := { s.tb with ptpSync := some (m.seq, t2) } } else ptpSynced s p (t2 - m.stamp)
  | .followUp => match s.tb.ptpSync with
    | some (q, t) => if q = m.seq then ptpSynced s p (t - m.stamp) else s
    | none => s
  | .delayResp => match s.tb.ptpReq, s.tb.ptpMs with
    | some (q, t3), some ms =>
      if q = m.seq then { s with tb := { s.tb with ptpReq := none, ptpDelay := (ms + (m.stamp - t3)) / 2 } } else s
    | _, _ => s
  | .other => s

/-- PTP_FRAME_RX: a frame on another port is dropped and counted (R309). -/
def execPtpFrameRx (dt : Nat) (port : Port) (msg : PtpMsg) (s : State) : Host.Outcome State Fault Refusal :=
  let s := arrive dt s
  .next (if !tbOn s then s
    else if port.code ≠ s.tb.ptpPort.toNat then { s with tb := { s.tb with ptpForeign := satTo 255 (s.tb.ptpForeign + 1) } }
    else if msg.domain ≠ s.tb.ptpDomain then s
    else ptpTake s port msg)

/-! ### TB_CFG (R314) -/

/-- INC lies within ±1,000 ppm of NOMINAL (R314). -/
def incOk (v : Nat) : Bool := decide (((v : Int) - incNominal.toNat).natAbs * 1000 ≤ incNominal.toNat)

/-- Refusal checks of TB_CFG. -/
def tbCfgCheck (s : State) (c : Cmd) : Option Refuse :=
  let d := c.d
  let w := dW d 20
  let a := dB d 16
  let range := match a with
    | 0 => decide (dB d 20 ≤ 3)
    | 1 => decide (-ftrimMax ≤ sx 32 w ∧ sx 32 w ≤ ftrimMax)
    | 2 => true
    | 3 => decide (100 ≤ w ∧ w ≤ 1000000 ∧ 1 ≤ dH d 24 ∧ dH d 24 ≤ 1000)
    | 4 => decide (w ≤ 9999999 ∧ dH d 24 ≤ 1023)
    | 5 => decide (-8388608 ≤ sx 32 w ∧ sx 32 w < 8388608 ∧ -8388608 ≤ sx 32 (dW d 24) ∧ sx 32 (dW d 24) < 8388608 ∧ dB d 28 ≤ 1)
    | 6 => incOk (dQ d 20)
    | 7 => decide (dB d 20 < 16 ∨ (0x80 ≤ dB d 20 ∧ dB d 20 < 0x84)) && decide (24 ≤ dB d 21 ∧ dB d 21 ≤ 43 ∧ dB d 22 ≤ 1)
    | _ => false
  firstRefuse [
    (!(range && dZero d 17 19 && dZero d 32 63), cField),
    ((a == 0 || a == 1 || a == 2 || a == 6) && flaskTimed s, 64),
    ((a == 1 || a == 2) && s.tb.source != .external, 65)]

/-- TB_CFG on acceptance. -/
def tbCfgEffect (s : State) (c : Cmd) : State :=
  let d := c.d
  let w := dW d 20
  cmdDone (match dB d 16 with
    | 0 =>
      let src : TbSource := match dB d 20 with
        | 0 => .none
        | 1 => .pps
        | 2 => .ptp
        | _ => .external
      if src = s.tb.source then s
      else { s with tb := { s.tb with
        source := src, acquire := true, prevOffset := none, phaseLeft := 0, ptpMs := none, ptpSync := none, ptpReq := none
        state := if src = .pps ∨ src = .ptp then .acquiring else .freerun } }
    | 1 => { s with tb := { s.tb with ftrimTarget := sx 32 w } }
    | 2 =>
      let x := sx 64 (dQ d 20)
      if 16 * s.tb.jumpLim < x.natAbs then jumpRefuse s x
      else { s with tb := { s.tb with phaseLeft := s.tb.phaseLeft + x * phaseUnit } }
    | 3 => { s with tb := { s.tb with jumpLim := w, slew := dH d 24 } }
    | 4 => { s with tb := { s.tb with gridPend := some (w, dH d 24) } }
    | 5 => { s with tb := { s.tb with ppsInDelay := sx 32 w, ppsOutDelay := sx 32 (dW d 24), ppsOutEn := dB d 28 == 1 } }
    | 6 => { s with tb := { s.tb with inc := BitVec.ofNat 64 (dQ d 20) } }
    | _ => { s with tb := { s.tb with
        ptpPort := BitVec.ofNat 8 (dB d 20), ptpDomain := BitVec.ofNat 8 (dB d 21), ptpAddr := dB d 22 == 1
        ptpPrio := BitVec.ofNat 8 (dB d 23), ptpSelected := false, ptpSyncOk := false, ptpClass := 0xFF, ptpMs := none, ptpSync := none
        ptpReq := none } }) c

/-- TB_CFG (0x0022). -/
def tbCfgDef : CmdDef where
  opcode := 0x0022
  tick _ := .none
  check := tbCfgCheck
  effect := tbCfgEffect

/-- TB_CFG. -/
def execTbCfg (dt : Nat) (ref : CmdRef) (d : Desc) (s : State) : Host.Outcome State Fault Refusal :=
  .next (runCmd tbCfgDef dt ref d s)

/-! ### TB_STEP (R311, R315) -/

/-- Refusal checks of TB_STEP. -/
def tbStepCheck (s : State) (c : Cmd) : Option Refuse :=
  let d := c.d
  let abs := bit (dB d 16) 0
  let ns := dW d 32
  firstRefuse [
    (!(decide (dB d 16 ≤ 1) && dZero d 17 23 && dZero d 36 63 &&
      (if abs then decide (ns ≤ 999999999) else decide (-999999999 ≤ sx 32 ns ∧ sx 32 ns ≤ 999999999))), cField),
    (flaskTimed s, 64)]

/-- The ToD a TB_STEP asks for. -/
def tbStepGoal (s : State) (d : Desc) : Int :=
  let one : Int := (1000000000 * todNs : Nat)
  if bit (dB d 16) 0 then (dQ d 24 : Int) * one + (dW d 32 : Int) * (todNs : Nat)
  else (s.tb.tod : Int) + sx 64 (dQ d 24) * one + sx 32 (dW d 32) * (todNs : Nat)

/-- TB_STEP at its frame tick. -/
def tbStepEffect (s : State) (c : Cmd) : State :=
  let s := tbStepTo s (tbStepGoal s c.d)
  let s := if s.tb.state = .invalid then
      { s with tb := { s.tb with state := if s.tb.source = .pps ∨ s.tb.source = .ptp then .acquiring else .freerun } }
    else s
  cmdDone s { c with result := BitVec.ofNat 64 (satTo 0xFFFFFFFF s.tb.voidCounts) }

/-- TB_STEP (0x0023). -/
def tbStepDef : CmdDef where
  opcode := 0x0023
  tick _ := .frame
  check := tbStepCheck
  effect := tbStepEffect
  keys _ := [keyOf 0x0023 0 0]

/-- TB_STEP. -/
def execTbStep (dt : Nat) (ref : CmdRef) (d : Desc) (s : State) : Host.Outcome State Fault Refusal :=
  .next (runCmd tbStepDef dt ref d s)

/-! ### The air ticks -/

/-- FTRIM at the tick of symbol k: at most 10 ppb toward its target, held away by SLEW while a phase shift is left (R292,
R307). -/
def tbSymbol (k : Nat) (s : State) : State :=
  let t := s.tb
  let away : Int := if 0 < t.phaseLeft then 16 * t.slew else if t.phaseLeft < 0 then -(16 * (t.slew : Int)) else 0
  let goal := clampI (-ftrimMax) ftrimMax (t.ftrimTarget + away)
  let f := s.syn.ftrim + clampI (-160) 160 (goal - s.syn.ftrim)
  let left := t.phaseLeft - (f - t.ftrimTarget) * symLen k
  { s with
    syn := { s.syn with ftrim := f }
    tb := { t with phaseLeft := if t.phaseLeft = 0 ∨ (0 < t.phaseLeft ∧ left ≤ 0) ∨ (t.phaseLeft < 0 ∧ 0 ≤ left) then 0 else left } }

/-- At a frame tick, before the commands: E is recorded (R306), and the void interval is over. -/
def tbFrameBefore (s : State) : State := { s with tb := { s.tb with tickErr := tickErrNow s, voidCounts := 0 } }

/-- At a frame tick, after the commands, where no step opened a void interval: a GRID change and a step of the device's own
(R308, R310, R314). -/
def tbFrameAfter (s : State) : State :=
  if s.tb.voidCounts ≠ 0 then { s with tb := { s.tb with stepDue := none } }
  else
    let moved := match s.tb.gridPend with
      | some (o, _) => o != s.tb.gridOfs
      | none => false
    let s := match s.tb.gridPend with
      | some (o, f) => { s with tb := { s.tb with
          gridOfs := o, fnOfs := f, gridPend := none
          gridFrame := (s.tb.gridFrame + f + 1024 - s.tb.fnOfs) % 1024 } }
      | none => s
    match s.tb.stepDue with
    | some x =>
      let got := s.tb.state == .acquiring
      let s := tbStepTo s ((s.tb.tod : Int) + x)
      if got then timeSrc { s with tb := { s.tb with state := .locked } } 1 else s
    | none => if moved then reanchor s else s

end Sys2Proof.Machine
end

