-- ==== Sys2Proof/Machine/Cascade.lean ====
section
/-! DEFINITION. Control frames of the cascade (R206, R210) and the flask-wide mode changes they carry (R45–R47), as far as
Holding, the control port and the flask all use them. The layouts that R210 leaves to the device are those of log 12. -/

namespace Sys2Proof.Machine

/-- UP lanes of a side (R210). -/
def sideUp (s : State) (d : Nat) : Nat := maskOf ((List.range 12).filter fun i => laneIsUp s (16 + 12 * d + i))

/-- The lane that control frames of SUB 2 to 6 take: the lowest UP lane of the side (log 12). -/
def sideLane (s : State) (d : Nat) : Option Nat := (List.range 12).find? fun i => laneIsUp s (16 + 12 * d + i)

/-- A control frame sent on a side; nothing where it has no UP lane. -/
def sendCtl (s : State) (d sub : Nat) (payload : List Byte) : State :=
  match sideLane s d with
  | none => s
  | some l => sendPour s d l 2 sub (symIdNow s) 0 0 payload

/-- A control frame sent toward the master. -/
def toMaster (s : State) (sub : Nat) (payload : List Byte) : State :=
  match masterSide s with
  | none => s
  | some d => sendCtl s d sub payload

/-- A control frame sent on both sides. -/
def outward (s : State) (sub : Nat) (payload : List Byte) : State := sendCtl (sendCtl s 0 sub payload) 1 sub payload

/-- The payload of a MODE frame: MODE_SET bytes 16–24, originator, the master's FLASK_ID (0xFF from a member), a cause that
withdraws the change, the slot tick's SYMBOL_ID with VALID, and BACK for a return from HLD. -/
def modeBytes (s : State) (q : FlkReq) (cause : Nat) : List Byte :=
  bytesLE 9 q.payload.toNat ++ bytesLE 1 q.origin ++ bytesLE 1 (if s.gen.master then ownId s else 0xFF) ++ bytesLE 1 cause ++
    bytesLE 4 ((match q.sym with
      | some k => symId s k ||| 1 <<< 19
      | none => 0) ||| b2n q.back <<< 20) ++ bytesLE 4 0

/-- Bytes of a STATUS payload after its first four: RESOURCES fill 148, every other code 20 (log 12). -/
def statusRest (code : Nat) : Nat := if code = 1 ∨ code = 3 then 148 else 20

/-- The payload of a STATUS frame: code, a byte of its own, FLASK_ID, position, and the bytes that the code defines. -/
def statusBytes (s : State) (code b1 : Nat) (rest : Nat) : List Byte :=
  bytesLE 1 code ++ bytesLE 1 b1 ++ bytesLE 1 (ownId s) ++ bytesLE 1 s.run.position ++ bytesLE (statusRest code) rest

/-- The flask-wide requests changed. -/
def setReqs (s : State) (l : List FlkReq) : State := { s with run := { s.run with modeReqs := l } }

/-- LAST_CAUSE of the carriers a MODE_SET names (R43). -/
def modeCause (s : State) (names cause : Nat) : State :=
  { s with mod := { s.mod with cc := vall s.mod.cc (fun c x => if bit names c then { x with lastCause := BitVec.ofNat 4 cause } else x) } }

/-- The MODE_SET of a flask-wide request ends refused (R43, R46). -/
def reqRefuse (s : State) (q : FlkReq) (r : Refuse) : State :=
  match q.ref.bind (cmdOf s) with
  | none => s
  | some c => cmdRefuse (modeCause s (dB c.d 16) r.cause) c r

/-- The sides learn that a change is withdrawn. -/
def reqWithdraw (s : State) (q : FlkReq) : State :=
  let bytes := modeBytes s { q with sym := none } cMaster
  if s.gen.master then outward s 5 bytes else if q.sent then toMaster s 5 bytes else s

/-- A RESUME decision on a flask carrier: the return is asked of the master, once (R348). -/
def flkBack (s : State) : State :=
  let cs := (List.range 2).filter fun c => hasMode s c 5 && flaskWide s c
  if cs.isEmpty ∨ s.run.modeReqs.any (·.back) then s
  else
    let sets := cs.foldl (fun n c => n ||| (vget s.mod.cc c ⟨0, 0, 0⟩).resume.toNat <<< (8 * (1 + c))) (maskOf cs)
    let q : FlkReq := { origin := ownId s, payload := BitVec.ofNat 72 sets, back := true, sent := true }
    let s := setReqs s (s.run.modeReqs ++ [q])
    if s.gen.master then outward s 5 (modeBytes s q 0) else toMaster s 5 (modeBytes s q 0)

/-! ### The control port's resets (R62, R102) -/

/-- A started move withdrawn silently: it ends at the engine's next burst boundary (R102). -/
def moveSilence (m : Move) : Move := { m with withdrawn := true, silent := true }

/-- FLR, hot reset or link down, and CTL coming up cold (R62, R346): rings disabled, RNG registers, LDL_CH_CFG and the MSI-X
table at their reset values, moves withdrawn, and the commands of the rings gone without a record; what running ones have set
in motion goes on (R104). -/
def portReset (s : State) : State :=
  let own := s.run.modeReqs.filter fun q => q.ref.isSome
  let s := own.foldl reqWithdraw s
  let fresh : HostIf := {}
  { s with
    host := { fresh with
      mem := s.host.mem, resp := s.host.resp, waiting := s.host.waiting, nextSeq := s.host.nextSeq, lastRing := s.host.lastRing
      shadows := s.host.shadows, heldLow := s.host.heldLow, aerRead := s.host.aerRead, aerWrite := s.host.aerWrite
      cmds := s.host.cmds.filterMap fun c => match c.stage with
        | .running _ => if dOp c.d = 0x0010 then none else some { c with silent := true }
        | _ => none }
    run := { s.run with modeReqs := s.run.modeReqs.filter fun q => q.ref.isNone }
    cru := { s.cru with loads := [] }
    ldl := { s.ldl with
      ch := Vector.ofFn fun c => let x := s.ldl.ch[c]; match x.move with
        | none => { x with vector := 20 + c.val }
        | some m =>
          if m.started then { x with vector := 20 + c.val, move := some (moveSilence m) }
          else { x with vector := 20 + c.val, move := none, trunc := true, cause := 11, tag := m.tag, count := 0, eoc := true } } }

end Sys2Proof.Machine
end

