-- ==== Sys2Proof/Machine/Ladle.lean ====
section
/-! DEFINITION. The Ladle (R97–R103, 03; R165, 05; R184, R189, 06; R226, 07; R386, R388, 14): moves, their engine and their ends,
and HB_READ. -/

namespace Sys2Proof.Machine

/-! ### Spaces and targets (R98) -/

/-- Channel c. -/
def chOf (s : State) (c : Nat) : LdlCh := vget s.ldl.ch c {}

/-- A range lies in on-die target t; write: the target may be written (R98, R184, R226, R286, R386). -/
def targetOk (s : State) (write : Bool) (t off len : Nat) : Bool :=
  match t with
  | 0 => decide (off + len ≤ 0x222000 ∨ (0x400000 ≤ off ∧ off + len ≤ 0x622000)) && !(write && anyBfs s)
  | 1 => decide (off + len ≤ 0x800000)
  | 2 => decide (off + len ≤ 0x100000)
  | 3 => decide (off + len ≤ 12480) && !write
  | 4 => decide (off + len ≤ 0x20000) && !write
  | _ => false

/-- A range of a space is there and open to LADLE_MOVE (R98, R188). DESIGN CHOICE (log 68): bits [55:32] of an on-die address, which
have no meaning, must be 0. -/
def spaceOk (s : State) (write : Bool) (sp a len : Nat) : Bool :=
  decide (a % 64 = 0) && match sp with
    | 0 => decide (a + len ≤ 2 ^ 64)
    | 1 => !dramBad a len
    | 2 => decide (bits a 55 32 = 0) && targetOk s write (a / 2 ^ 56) (a % 2 ^ 32) len
    | _ => false

/-- A space lies in the domain CRU: the DRAM and the weight bank. -/
def spaceCru (sp a : Nat) : Bool := decide (sp = 1 ∨ (sp = 2 ∧ a / 2 ^ 56 = 0))

/-- The cells of a range whose other bytes are 0, from offset 0. -/
def denseCells (bs : List Byte) (off len : Nat) : Memory := memSlice (cellsAt 0 bs) off len 0

/-- The bytes of on-die target t in a range, as cells from offset 0; those not listed are 0. -/
def targetCells (s : State) (t off len : Nat) : Memory :=
  match t with
  | 0 => if off < 0x400000 then memSlice (inactiveHalf s 0).mem off len 0 else memSlice (inactiveHalf s 1).mem (off - 0x400000) len 0
  | 1 => memSlice s.ldl.rxCap off len 0
  | 2 => memSlice s.ldl.orxCap off len 0
  | 3 => denseCells (hbImage s 0) off len
  | _ =>
    let image := fun (t : Option Table) (at_ : Nat) => match t with
      | some t => cellsAt at_ (tableImage s t)
      | none => []
    memSlice (image s.run.table 0 ++ image s.run.next 0x10000) off len 0

/-- The bytes of one last-gasp entry (R392). -/
def lgBytes (e : LgEntry) : List Byte :=
  bytesLE 4 e.heat ++ bytesLE 4 e.hours ++ bytesLE 1 e.kind ++ bytesLE 1 0 ++ bytesLE 2 e.code ++ bytesLE 4 e.off ++ bytesLE 16 e.data.toNat

/-- Size of one record of an HB_READ area, and the number of records (R382, R388, R392). -/
def hbArea (area : Nat) : Nat × Nat := if area = 0 then (96, recArea) else if area = 1 then (96, clearArea) else (32, 16)

/-- The bytes of an HB_READ area; what is not written reads 0xFF. -/
def hbBytes (s : State) (area off len : Nat) : List Byte :=
  match area with
  | 0 => memReadBytes 0xFF s.hb.recs off len
  | 1 => memReadBytes 0xFF s.hb.clearLog off len
  | _ => memReadBytes 0xFF (memPaste 0xFF [] (cellsAt 0 (s.hb.lg.flatMap lgBytes))) off len

/-- What a move reads, as cells from offset 0. -/
def sourceCells (s : State) (m : Move) : Memory :=
  match m.kind with
  | .hbRead => cellsAt 0 (hbBytes s m.srcSp m.src m.len)
  | _ => match m.srcSp with
    | 0 => memSlice s.host.mem m.src m.len 0
    | 1 => memSlice s.ldl.dram m.src m.len 0
    | _ => targetCells s (m.src / 2 ^ 56) (m.src % 2 ^ 32) m.len

/-- Where a source byte goes: each matrix transposed (R99). -/
def shuffled (m : Move) (o : Nat) : Nat :=
  if m.shuffle = 0 then o
  else
    let e := o / m.elem
    let i := e / (m.rows * m.cols)
    let r := e % (m.rows * m.cols) / m.cols
    let c := e % m.cols
    ((i * m.cols + c) * m.rows + r) * m.elem + o % m.elem

/-- What a move writes, as cells from offset 0. -/
def moveCells (s : State) (m : Move) : Memory := (sourceCells s m).map fun c => (shuffled m c.1, c.2)

/-- n bytes of a memory made to hold cells from offset 0 that lie below the valid count, and zeros from there on. -/
def memFill (mem : Memory) (a n valid : Nat) (cells : Memory) : Memory :=
  memPaste 0 (memClear mem a n) ((cells.filter fun c => decide (c.1 < valid)).map fun c => (a + c.1, c.2))

/-- One half of the weight bank written from the Ladle, and the copy of it that a fill in progress works on: it is swapped in by the
next work tick under BFS, with the gains of the retirements in force (R184, R197). -/
def writeHalf (s : State) (d off n valid : Nat) (cells : Memory) : State :=
  let h := inactiveHalf s d
  let s := setHalf s d (1 - actOf s d) { h with mem := memFill h.mem off n valid cells }
  { s with cru := { s.cru with
    wrote := vmod s.cru.wrote d fun _ => true
    filling := vmod s.cru.filling d fun x => x.map fun h => { h with mem := memFill h.mem off n valid cells }
    regain := vmod s.cru.regain d fun b => b || decide (retMaskOf s d ≠ 0) } }

/-- n bytes of a move's destination written, the valid ones from the cells. After a reset of the control port nothing more reaches host
memory: of the bursts of its moves those whole before W have (R102; log 69). -/
def moveWrite (s : State) (m : Move) (n valid : Nat) (cells : Memory) : State :=
  match m.kind, m.dstSp with
  | .pattern, _ => { s with ldl := { s.ldl with commit := memFill s.ldl.commit 0 n valid cells } }
  | _, 0 =>
    let n := if m.silent then valid / 4096 * 4096 else n
    { s with host := { s.host with mem := memFill s.host.mem m.dst n valid cells } }
  | _, 1 => { s with ldl := { s.ldl with dram := memFill s.ldl.dram m.dst n valid cells } }
  | _, _ =>
    let off := m.dst % 2 ^ 32
    match m.dst / 2 ^ 56 with
    | 0 => if off < 0x400000 then writeHalf s 0 off n valid cells else writeHalf s 1 (off - 0x400000) n valid cells
    | 1 => { s with ldl := { s.ldl with rxCap := memFill s.ldl.rxCap off n valid cells } }
    | 2 => { s with ldl := { s.ldl with orxCap := memFill s.ldl.orxCap off n valid cells } }
    | _ => s

/-! ### The end of a move (R101–R103, R165) -/

/-- The outcome of a move: status, cause, truncation, and valid bytes. -/
structure MoveEnd where
  status : Nat
  cause : Nat
  trunc : Bool
  valid : Nat
  deriving DecidableEq, Repr

/-- A move leaves its channel: EOC and the channel's registers, its interrupt, and the record unless the move only fills the
commit buffer (R101, R189); a move silenced by a reset has no record (R102). -/
def moveDone (s : State) (c : Nat) (m : Move) (x : MoveEnd) (high : Nat) : State :=
  let s := modCh s c fun ch => { ch with
    move := none, trunc := x.trunc, eoc := true, cause := BitVec.ofNat 8 x.cause, tag := m.tag, count := BitVec.ofNat 32 x.valid }
  let s := if m.silent then s else signal s (chOf s c).vector
  match s.host.cmds.find? fun y => y.seq == m.seq with
  | none => s
  | some cmd =>
    if m.kind = .pattern ∧ x.status = 0 then s
    else if m.silent then { s with host := { s.host with cmds := s.host.cmds.filter fun y => !(y.seq == m.seq) } }
    else cmdEnd s { cmd with cause := x.cause, result := BitVec.ofNat 64 (x.valid ||| high <<< 32) } x.status x.trunc

/-- What a started move comes to: W bytes are valid where it was withdrawn or a read of host memory failed (R102, R103). DESIGN CHOICE
(log 70): with SHUFFLE 1 to 4 the operands give the place of the failure in the order of the destination. -/
def moveOutcome (m : Move) (read : Nat) (hostErr : Option Nat) : MoveEnd :=
  if m.withdrawn then ⟨2, cWithdrawn, true, min m.len (read / 64 * 64)⟩
  else match (if m.srcSp = 0 ∧ m.kind ≠ .hbRead then hostErr else none) with
    | some e => if e < m.len then ⟨2, cHostRead, true, e / 64 * 64⟩ else ⟨0, 0, false, m.len⟩
    | none => ⟨0, 0, false, m.len⟩

/-- Writes to host memory that failed, as offsets and lengths within the move: their bytes stay as they were, and the failure is
reported (R103). -/
def moveFail (s : State) (old : Memory) (m : Move) (l : List (Nat × Nat)) : State :=
  let l := l.filter fun x => x.1 < m.len
  if m.kind = .pattern ∨ (m.dstSp ≠ 0 ∧ m.kind ≠ .hbRead) ∨ l.isEmpty then s
  else
    let back := fun (mem : Memory) (x : Nat × Nat) =>
      let n := min x.2 (m.len - x.1)
      memPaste 0 (memClear mem (m.dst + x.1) n) (memSlice old (m.dst + x.1) n (m.dst + x.1))
    aerReport { s with host := { s.host with mem := l.foldl back s.host.mem } } true

/-- The engine's move ends: its bytes, zeros to the end of the burst, its fall-back CRC, and the next commit of a
PATTERN_WRITE; a failed read or write of host memory is reported (R102, R103, R165, R189). -/
def moveEnd (s : State) (c : Nat) (m : Move) (read : Nat) (hostErr : Option Nat) (writeErr : List (Nat × Nat)) : State :=
  let x := moveOutcome m read hostErr
  let s := if x.cause = cHostRead then aerReport s false else s
  let cells := moveCells s m
  let written := if x.trunc then min m.len (roundUp 4096 x.valid) else x.valid
  let s := moveFail (moveWrite s m written x.valid cells) s.host.mem m writeErr
  let crc := crc32c (memReadBytes 0 (memPaste 0 [] cells) 0 x.valid)
  let s := match m.asy with
    | none => s
    | some f => modFb s f.val fun b => if b.ladle = c ∧ b.tag = m.tag then { b with crc := crc, busy := false, done := true, trunc := x.trunc } else b
  let high := if m.kind = .pattern then 0xFFFFFFFF else if m.asy.isSome then crc.toNat else 0
  let s := if m.kind = .pattern ∧ x.status = 0 then
      { s with ldl := { s.ldl with commits := s.ldl.commits ++ [⟨m.seq, m.dst, x.valid, s.tb.now + 2048⟩] } }
    else s
  moveDone { s with ldl := { s.ldl with running := none } } c m x high

/-- LADLE_MOVE_END: the engine has moved the move to its end (R100). -/
def execLadleMoveEnd (dt read : Nat) (hostErr : Option Nat) (writeErr : List (Nat × Nat)) (s : State) : Host.Outcome State Fault Refusal :=
  let s := arrive dt s
  .next (match s.ldl.running with
    | none => s
    | some c => match (chOf s c).move with
      | none => s
      | some m => moveEnd s c m read hostErr writeErr)

/-! ### The engine (R100) -/



/-- A channel's move may start: a PATTERN_WRITE only with the commit buffer free and no earlier one waiting (R189). -/
def moveReady (s : State) (c : Nat) : Bool :=
  match (chOf s c).move with
  | none => false
  | some m => !m.started && (m.kind != .pattern || (s.ldl.commits.isEmpty && (List.range 8).all fun i =>
      match (chOf s i).move with
      | some y => y.kind != .pattern || decide (m.seq ≤ y.seq)
      | none => true))

/-- LADLE_ENGINE_START: the free engine takes the pending move of the next channel in cyclic order (R100); the fall-back
channel it names is reset (R165). -/
def execLadleEngineStart (dt : Nat) (s : State) : Host.Outcome State Fault Refusal :=
  let s := arrive dt s
  .next (if s.ldl.running.isSome then s
    else match ((List.range 8).map fun i => (s.ldl.lastServed + 1 + i) % 8).find? (moveReady s) with
    | none => s
    | some c =>
      let s := match (chOf s c).move with
        | some m => match m.asy with
          | some f => modFb s f.val fun _ => { crc := 0, busy := true, done := false, trunc := false, ladle := c, tag := m.tag }
          | none => s
        | none => s
      let s := modCh s c fun ch => { ch with move := ch.move.map fun m => { m with started := true } }
      { s with ldl := { s.ldl with running := some c, lastServed := c } })

/-! ### Commands -/

/-- The source and destination space of a LADLE_MOVE. -/
def ladleSpaces (d : Desc) : Nat × Nat := (bits (dB d 17) 1 0, bits (dB d 17) 3 2)

/-- Field ranges of a LADLE_MOVE (R97–R99). -/
def ladleRange (s : State) (d : Desc) : Bool :=
  let sp := ladleSpaces d
  let mode := bits (dB d 18) 2 0
  let es := bits (dB d 18) 4 3
  let len := dW d 36
  let rows := dH d 40
  let cols := dH d 42
  decide (bits (dB d 16) 7 3 = 0 ∧ bits (dB d 17) 7 4 = 0 ∧ bits (dB d 18) 7 5 = 0 ∧ mode ≤ 4 ∧ es ≤ 2 ∧ bits (dB d 19) 7 4 = 0 ∧
    len % 64 = 0 ∧ 64 ≤ len) && dZero d 44 63 &&
  (mode == 0 || decide (1 ≤ rows ∧ rows ≤ 64 ∧ 1 ≤ cols ∧ cols ≤ 16384 ∧ len % (rows * cols * 2 ^ (es + 1)) = 0)) &&
  spaceOk s false sp.1 (dQ d 20) len && spaceOk s true sp.2 (dQ d 28) len

/-- Refusal checks of LADLE_MOVE. -/
def ladleMoveCheck (s : State) (c : Cmd) : Option Refuse :=
  let sp := ladleSpaces c.d
  if !ladleRange s c.d then some ⟨cField, 0⟩
  else if spaceCru sp.1 (dQ c.d 20) || spaceCru sp.2 (dQ c.d 28) then domRefuse s [8] else none





/-- The channel takes the move. -/
def ladleMoveEffect (s : State) (c : Cmd) : State :=
  let sp := ladleSpaces c.d
  modCh s (dB c.d 16) fun x => { x with move := some {
    ref := c.ref, seq := c.seq, srcSp := sp.1, dstSp := sp.2, src := dQ c.d 20, dst := dQ c.d 28, len := dW c.d 36
    shuffle := bits (dB c.d 18) 2 0, elem := 2 ^ (bits (dB c.d 18) 4 3 + 1), rows := dH c.d 40, cols := dH c.d 42
    asy := if bit (dB c.d 19) 3 then some (Fin.ofNat 8 (dB c.d 19)) else none
    tag := BitVec.ofNat 16 (dH c.d 4) } }

/-- LADLE_MOVE (0x00C0). -/
def ladleMoveDef : CmdDef where
  opcode := 0x00C0
  tick _ := .none
  first s c := channelBusy s (dB c.d 16)
  check := ladleMoveCheck
  refused s c r := moveRefused s (dB c.d 16) c r
  effect := ladleMoveEffect

/-- LADLE_MOVE. -/
def execLadleMove (dt : Nat) (ref : CmdRef) (d : Desc) (s : State) : Host.Outcome State Fault Refusal :=
  .next (runCmd ladleMoveDef dt ref d s)

/-- The move of a channel withdrawn: a started one at its burst's end, one before its first burst at once (R102). -/
def withdraw (s : State) (c : Nat) : State :=
  match (chOf s c).move with
  | none => s
  | some m =>
    if m.started then modCh s c fun ch => { ch with move := some { m with withdrawn := true } }
    else moveDone s c m ⟨2, cWithdrawn, true, 0⟩ (if m.kind = .pattern then 0xFFFFFFFF else 0)

/-- LADLE_WITHDRAW on acceptance. DESIGN CHOICE (log 71): one that names an idle channel ends DONE with NOT_ACTIVE. -/
def ladleWithdrawEffect (s : State) (c : Cmd) : State :=
  let ch := dB c.d 16
  if (chOf s ch).move.isNone then cmdDone s { c with cause := cNotActive } else cmdDone (withdraw s ch) c

/-- LADLE_WITHDRAW (0x00C1). -/
def ladleWithdrawDef : CmdDef where
  opcode := 0x00C1
  tick _ := .none
  check _ c := firstRefuse [(decide (7 < dB c.d 16) || !dZero c.d 17 63, cField)]
  effect := ladleWithdrawEffect

/-- LADLE_WITHDRAW. -/
def execLadleWithdraw (dt : Nat) (ref : CmdRef) (d : Desc) (s : State) : Host.Outcome State Fault Refusal :=
  .next (runCmd ladleWithdrawDef dt ref d s)

/-- Field ranges of HB_READ. -/
def hbReadRange (d : Desc) : Bool :=
  dB d 19 == 0 && dZero d 36 63 && match dB d 16 with
    | 0 =>
      let a := hbArea (dB d 17)
      decide (dB d 17 ≤ 2 ∧ dB d 18 ≤ 7 ∧ 1 ≤ dW d 24 ∧ dW d 20 + dW d 24 ≤ a.2 ∧ dQ d 28 % 64 = 0 ∧
        dQ d 28 + a.1 * dW d 24 ≤ 2 ^ 64)
    | 1 => true
    | _ => false

/-- Refusal checks of HB_READ. -/
def hbReadCheck (s : State) (c : Cmd) : Option Refuse :=
  firstRefuse [(!hbReadRange c.d, cField), (dB c.d 16 == 1 && s.hb.fail, 64), (dB c.d 16 == 1 && s.hb.full, 65)]

/-- HB_READ on acceptance: READ copies through its channel, SNAPSHOT makes a snapshot due. -/
def hbReadEffect (s : State) (c : Cmd) : State :=
  if dB c.d 16 = 0 then
    let a := hbArea (dB c.d 17)
    modCh s (dB c.d 18) fun x => { x with move := some {
      ref := c.ref, seq := c.seq, kind := .hbRead, srcSp := dB c.d 17, src := a.1 * dW c.d 20, dst := dQ c.d 28, len := a.1 * dW c.d 24
      tag := BitVec.ofNat 16 (dH c.d 4) } }
  else snapAsk s 3 (some c.ref)

/-- HB_READ (0x00B1). -/
def hbReadDef : CmdDef where
  opcode := 0x00B1
  tick _ := .none
  first s c := if dB c.d 16 = 0 then channelBusy s (dB c.d 18) else none
  check := hbReadCheck
  refused s c r := if dB c.d 16 = 0 then moveRefused s (dB c.d 18) c r else s
  effect := hbReadEffect

/-- HB_READ. -/
def execHbRead (dt : Nat) (ref : CmdRef) (d : Desc) (s : State) : Host.Outcome State Fault Refusal :=
  .next (runCmd hbReadDef dt ref d s)

end Sys2Proof.Machine
end

