-- ==== Sys2Proof/Machine/Holding.lean ====
section
/-! DEFINITION. Power domains, retention and Holding (12): DOMAIN_SET, entries and exits, cold starts, wakes, taps and votes, the
dark set and the dark check. -/

namespace Sys2Proof.Machine

/-! ### What a set of modes needs (R39, R340) -/

/-- Domains a domain needs on (R338). -/
def needsOn (d : Nat) : List Nat :=
  if d = 1 ∨ d = 3 then [0]
  else if d = 2 ∨ (4 ≤ d ∧ d ≤ 8) then [3]
  else if 9 ≤ d then [3, 2]
  else []

/-- First retention bank of a domain and their number (R338). -/
def banksOf (d : Nat) : Nat × Nat :=
  match d with
  | 1 => (0, 4) | 2 => (4, 1) | 3 => (5, 2) | 4 => (7, 1) | 5 => (8, 1) | 6 => (9, 1) | 7 => (10, 1) | 8 => (11, 3)
  | 9 => (14, 6) | 10 => (20, 3) | 11 => (23, 3) | 12 => (26, 3) | 13 => (29, 3) | _ => (0, 0)

/-- The quads as domains. -/
def quadDoms : List Nat := [10, 11, 12, 13]

/-- What a mode set requires: domains, and groups of which one is enough (R39). -/
def setNeeds (set : Nat) : List Nat × List (List Nat) :=
  let a := if bit set 0 then ([2, 3], [quadDoms, [1, 4, 5]]) else ([], [])
  let b := if bit set 2 then ([2, 3, 7, 8], [quadDoms, [4, 5]]) else ([], [])
  let f := if bit set 3 then [6] else []
  let n := if bit set 4 then ([2, 3, 9], [quadDoms]) else ([], [])
  (a.1 ++ b.1 ++ f ++ n.1, a.2 ++ b.2 ++ n.2)

/-- A domain is on and clocked (R43, R293). -/
def domUsable (s : State) (d : Nat) : Bool := domOn s d && (clkOn s || decide (d ∈ [0, 1, 3]))

/-- The missing-domain mask of a mode set: a whole group where none of it is there (R43). -/
def missingFor (s : State) (set : Nat) : Nat :=
  let n := setNeeds set
  maskOf (n.1.filter fun d => !domUsable s d) |||
    n.2.foldl (fun m g => if g.any (domUsable s) then m else m ||| maskOf g) 0

/-- Every domain that the set in RESUME of a carrier names (R39, R47). -/
def resumeDomsOf (s : State) (c : Nat) : Nat :=
  let n := setNeeds (vget s.mod.cc c ⟨0, 0, 0⟩).resume.toNat
  maskOf n.1 ||| n.2.foldl (fun m g => m ||| maskOf g) 0

/-- Every domain that the sets of R39 name, for a wake with RESUME, with CTL (R344). -/
def resumeDoms (s : State) : Nat :=
  (List.range 2).foldl (fun m c => if hasMode s c 5 then m ||| resumeDomsOf s c else m) 2

/-- A carrier is off or in HLD. -/
def ccDark (s : State) (c : Nat) : Bool := hasMode s c 5 || decide (setOf s c &&& 0x0F = 0)

/-- Every carrier is off or in HLD. -/
def allDark (s : State) : Bool := ccDark s 0 && ccDark s 1

/-- R350: every carrier dark, and a RESUME set holds FLK. -/
def flkDark (s : State) : Bool := allDark s && (List.range 2).any fun c => hasMode s c 5 && flaskWide s c

/-! ### The checks of a change (R340) -/

/-- A target code (R340). -/
def domTarget (target d : Nat) : DomState :=
  match bits target (2 * d + 1) (2 * d) with
  | 0 => .off
  | 1 => .retention
  | _ => .on

/-- The code of a state (PWR_DOM_STATE). -/
def domCode : DomState → Nat
  | .off => 0 | .retention => 1 | .on => 2 | .moving => 3

/-- A domain's state, or the state it is going to. -/
def domSettled (s : State) (d : Nat) : DomState :=
  if vget s.pwr.dom d .off = .moving then vget s.pwr.target d .off else vget s.pwr.dom d .off

/-- A domain's state after a change. -/
def domAfter (s : State) (names target d : Nat) : DomState := if bit names d then domTarget target d else domSettled s d

/-- A domain is on after a change. -/
def onAfter (s : State) (names target d : Nat) : Bool := domAfter s names target d == .on

/-- Domains that leave on. -/
def leavers (s : State) (names target : Nat) : List Nat :=
  (List.range 14).filter fun d => domSettled s d == .on && !onAfter s names target d

/-- Domains that would be on without a domain they need. -/
def lacking (s : State) (names target : Nat) : List Nat :=
  (List.range 14).filter fun d => onAfter s names target d && (needsOn d).any fun n => !onAfter s names target n

/-- Domains that moves, captures and an Anneal run in progress need. -/
def workNeeds (s : State) : Nat :=
  let moves := (List.range 8).foldl (fun m c => match (chOf s c).move with
    | some x => m ||| 2 ||| (if x.kind == .pattern || (x.kind == .ladle && (spaceCru x.srcSp x.src || spaceCru x.dstSp x.dst)) then 256 else 0)
    | none => m) 0
  let caps := s.host.cmds.foldl (fun m c =>
    if !cmdRuns c then m
    else if dOp c.d = 0x0041 then m ||| (if dB c.d 16 = 3 then 512 else maskOf ((quadsOf (dPaths c.d)).map (10 + ·)))
    else if dOp c.d = 0x0052 then m ||| 256 ||| (b2n (domOn s 10) * 1024 + b2n (domOn s 11) * 2048 + b2n (domOn s 12) * 4096 + b2n (domOn s 13) * 8192)
    else m) 0
  let anl := match s.anl.run with
    | some r => 512 ||| r.quads.toNat <<< 10
    | none => 0
  moves ||| caps ||| anl

/-- Domains that the modes in force need, for a change that leaves some domains on (R340). -/
def modeNeeds (s : State) (names target : Nat) : Nat :=
  (List.range 2).foldl (fun m c =>
    if hasMode s c 5 then m
    else
      let set := setOf s c
      let n := setNeeds set
      m ||| maskOf n.1 ||| (if bit set 0 || bit set 2 then 0x3C00 else 0) |||
        n.2.foldl (fun m g => if g.any (onAfter s names target) then m else m ||| maskOf g) 0) 0

/-- Domains of the lanes in LTS: those lanes stay on (R39, R48). -/
def ltsNeeds (s : State) : Nat := maskOf ([4, 5, 6].filter fun d => (List.range 40).any fun l => inLts s l && laneDom l == d)

/-- Leaving domains that are still needed (R48, R340, R350). -/
def inUse (s : State) (names target : Nat) : Nat :=
  maskOf (leavers s names target) &&&
    (workNeeds s ||| modeNeeds s names target ||| ltsNeeds s ||| (if flkDark s then 64 else 0))

/-- Quads and TMP that would come on while Quench is latched. -/
def quenchedOn (s : State) (names target : Nat) : Nat :=
  if s.thm.quench then maskOf ((List.range 14).filter fun d => decide (9 ≤ d) && bit names d && onAfter s names target d && domSettled s d != .on)
  else 0

/-- An entry, an exit or a change of domains is in progress (R340, R345). -/
def pwrBusy (s : State) : Bool := s.pwr.cmd.isSome || s.pwr.ctlEntryAt.isSome

/-- NAMES and TARGET. -/
def domNames (d : Desc) : Nat := dH d 16
def domTargets (d : Desc) : Nat := dW d 20

/-- Field ranges of DOMAIN_SET. -/
def domainSetRange (d : Desc) : Bool :=
  decide (domNames d < 2 ^ 14 ∧ domTargets d < 2 ^ 28) && dZero d 18 19 && dZero d 24 63 &&
    (setBits 14 (domNames d)).all fun x => decide (bits (domTargets d) (2 * x + 1) (2 * x) ≠ 3)

/-- A refusal with its domain mask in RESULT, where the mask is not 0. -/
def maskRefuse (cause mask : Nat) : Option Refuse := if mask = 0 then none else some ⟨cause, mask⟩

/-- Refusal checks of DOMAIN_SET (R340). -/
def domainSetCheck (s : State) (c : Cmd) : Option Refuse :=
  let n := domNames c.d
  let t := domTargets c.d
  if !domainSetRange c.d then some ⟨cField, 0⟩
  else if bit n 0 ∧ domTarget t 0 ≠ .on then some ⟨66, 1⟩
  else (maskRefuse 64 (maskOf (lacking s n t))).orElse fun _ =>
    (maskRefuse 65 (inUse s n t)).orElse fun _ =>
    (maskRefuse 67 (quenchedOn s n t)).orElse fun _ =>
    if pwrBusy s then some ⟨68, n⟩
    else maskRefuse 68 (maskOf ((List.range 14).filter fun d => bit n d && vget s.pwr.dom d .off == .moving))

/-! ### Leaving on (R341) -/

/-- A domain takes a state. -/
def setDom (s : State) (d : Nat) (x : DomState) : State := { s with pwr := { s.pwr with dom := vmod s.pwr.dom d fun _ => x } }

/-- DOMAIN_STATE (R355). -/
def postDom (s : State) (d cause : Nat) : State := post s 0x0C01 8 d (domCode (vget s.pwr.dom d .off) ||| cause <<< 8)

/-- A synthesiser stops (R341). -/
def synStop (s : State) (n : Nat) : State :=
  modSynth s n fun y => { y with state := if y.retired then .retired else .off, attemptAt := none, retryAt := none }

/-- Lanes of a lane domain. -/
def lanesOf (d : Nat) : List Nat := (List.range 40).filter fun l => laneDom l == d

/-- An uplink message of KIND 0, which the Tundish holds; those of KIND 1 do not pass it (R37, R133). -/
def ulLayer (m : UlMsg) : Bool := bits (beAt m.bytes 0 2) 13 12 == 0

/-- What a domain does as it leaves on (R341 steps 1–3); a direct stream buffer leaves with its lane domain (R37). -/
def domLeave (s : State) (d : Nat) : State :=
  if 10 ≤ d then
    let q := d - 10
    let s := linesIdle s fun p => decide (p / 16 = q)
    let s := synStop s q
    let s := if s.syn.serves = q then synStop s 4 else s
    biasForce s
  else if 4 ≤ d ∧ d ≤ 6 then
    let s := dropDirect s (fun m => m.dom == d) (some 9)
    synceUpdate ((lanesOf d).foldl (fun s l => modLane (laneLeave s l) l fun x => { x with attempt := none, retryAt := none, peer := false }) s)
  else if d = 7 then
    let s := dropCtrl (dropHeld s (fun _ => true) (some 9)) (fun _ => true) (some 9)
    dropUplink s ulLayer 18
  else biasForce s

/-- Lanes of a domain that is no longer on: out of the distribution, DOWN. -/
def lanesDown (s : State) (d : Nat) : State :=
  (lanesOf d).foldl (fun s l => laneResolve (modLane s l fun x => { x with
    state := .down, inDist := false, leaveIn := 0, joinDue := false, attempt := none, retryAt := none, blockLock := false }) l false) s

/-- What a domain has lost once its entry is done. -/
def domLeft (s : State) (d : Nat) : State :=
  if 4 ≤ d ∧ d ≤ 6 then
    let gone := (lanesOf d).any fun l => (laneOf s l).inDist
    let s := lanesDown s d
    if gone then reassign s else s
  else if d = 7 then { s with fh := { s.fh with books := [], ulQueue := s.fh.ulQueue.filter fun m => !ulLayer m } }
  else if d = 3 then
    let s := forAll 5 s synStop
    { s with syn := { s.syn with
      active := .none, qual := 0, refLost := false, refState := .acquiring, holdoverAt := none, pllLocked := false } }
  else if d = 1 ∧ vget s.pwr.target 1 .on = .off then
    let s := portReset s
    { s with gen := { s.gen with rst := s.gen.rst ||| 4 } }
  else s

/-- An entry begins, or a change between retention and off (R341, R436). -/
def entryStart (s : State) (d : Nat) (t : DomState) : State :=
  let old := vget s.pwr.dom d .off
  let s := if d = 2 ∧ old = .on then tbStop s else s
  let s := { s with pwr := { s.pwr with
    dom := vmod s.pwr.dom d fun _ => .moving, target := vmod s.pwr.target d fun _ => t, origin := vmod s.pwr.origin d fun _ => old } }
  if old = .on then domLeave s d else s

/-- The order of entries, dependents first; CTL goes last on its own (R341). -/
def entryOrder : List Nat := [10, 11, 12, 13, 9, 7, 8, 4, 5, 6, 2, 3]

/-- The next entry of the change in progress begins once none is running; a quad's waits for an air symbol tick while the
timebase runs (R338, R341). -/
def entryNext (atTick : Bool) (s : State) : State :=
  match s.pwr.cmd with
  | none => s
  | some c =>
    if entryOrder.any fun d => vget s.pwr.dom d .off == .moving && vget s.pwr.target d .on != .on then s
    else match entryOrder.find? fun d => c.names.getLsbD d && !c.reached.getLsbD d && domTarget c.target.toNat d != .on with
      | none => s
      | some d => if 10 ≤ d ∧ domOn s d ∧ tbOn s ∧ !atTick then s else entryStart s d (domTarget c.target.toNat d)

/-! ### Cold starts (R338, R343, R432) -/

/-- A path of a quad at its reset values; retirements and fault history stay (R376, R378). -/
def txCold (t : TxPath) : TxPath := { retired := t.retired, retiredNow := t.retiredNow, faults := t.faults }

/-- A lane at its reset values; retirement, retry history and training history stay. -/
def laneCold (l : Nat) (x : Lane) : Lane :=
  { mode := if l < 16 then .auto else .on, retired := x.retired, retries := x.retries, untrained := x.untrained, hourErr := x.hourErr }

/-- A pot at its reset values. -/
def potCold (p : Pot) : Pot := { faults := p.faults, retests := p.retests, retired := p.retired, testing := p.testing, passed := p.passed }

/-- The quad of a path or of a domain coming up cold. -/
def coldQuad (s : State) (q : Nat) : State :=
  { s with
    tx := { s.tx with path := vall s.tx.path fun p t => if p / 16 = q then txCold t else t }
    rx := { s.rx with path := vall s.rx.path fun p r => if p / 16 = q then {} else r } }

/-- The lane domains cold. -/
def coldLanes (s : State) (d : Nat) : State :=
  let keep := maskOf ((List.range 16).filter fun l => laneDom l ≠ d)
  { s with lanes := { s.lanes with
    lane := vall s.lanes.lane fun l x => if laneDom l = d then laneCold l x else x
    portFec := s.lanes.portFec &&& BitVec.ofNat 16 keep
    four := if d = 4 then s.lanes.four &&& 0xC else if d = 5 then s.lanes.four &&& 0x3 else s.lanes.four } }

/-- CTL cold: set-up registers at their reset values; the mode sets, RESUME and the LTS masks stay (log 26). -/
def coldCtl (s : State) : State :=
  let s := portReset s
  let tx : Tx := {}
  let rx : Rx := {}
  let gen : Gen := {}
  let lanes : Lanes := {}
  let mod : ModS := {}
  let fh : Fh := {}
  let ldl : Ladle := {}
  { s with
    host := { s.host with shadows := [], heldLow := [] }
    gen := { gen with
      rst := s.gen.rst ||| 8, notx := s.gen.notx, master := s.gen.master, flaskId := s.gen.flaskId, bootband := s.gen.bootband
      pgood := s.gen.pgood, quenchN := s.gen.quenchN }
    ldl := { s.ldl with ch := ldl.ch, fb := ldl.fb, running := none }
    lanes := { s.lanes with
      synceEn := lanes.synceEn, synceSrc := lanes.synceSrc, losDeassert := lanes.losDeassert, losAssert := lanes.losAssert }
    mod := { mod with
      cc := vall s.mod.cc fun _ x => { x with lastCause := 0 }
      refHeld := s.mod.refHeld, ltsFh := s.mod.ltsFh, ltsCx := s.mod.ltsCx, setOld := s.mod.setOld, setFrom := s.mod.setFrom }
    fh := { s.fh with slag := fh.slag, dlMiss := fh.dlMiss, peak := 0, owd := fh.owd, owdReq := [], assay := [] }
    run := {}
    tx := { s.tx with
      stages := tx.stages, papr := tx.papr, lines := tx.lines, linesNow := tx.linesNow, lateLo := tx.lateLo, cox := tx.cox }
    rx := { s.rx with
      winAdv := rx.winAdv, recov := rx.recov, lpLag := rx.lpLag, lpLead := rx.lpLead, capBytes := 0, lateLo := rx.lateLo } }

/-- The registers of a domain that comes up cold (R338, R432). -/
def coldReset (s : State) (d : Nat) : State :=
  if 10 ≤ d then coldQuad s (d - 10)
  else match d with
  | 1 => coldCtl s
  | 2 => { s with tb := {
      now := s.tb.now, gridK := s.tb.gridK, gridAt := s.tb.gridAt, gridFrame := s.tb.gridFrame
      airNext := s.tb.airNext, dlNext := s.tb.dlNext, ulNext := s.tb.ulNext } }
  | 3 => { s with syn := {
      synth := vall s.syn.synth fun _ y => { retired := y.retired, faults := y.faults, state := if y.retired then .retired else .off }
      refState := s.syn.refState, active := s.syn.active, qual := s.syn.qual, lastActive := s.syn.lastActive
      everOn := s.syn.everOn, lostAt := s.syn.lostAt
      pllRetired := s.syn.pllRetired, pllFaults := s.syn.pllFaults } }
  | 7 =>
    let fh : Fh := {}
    { s with fh := { s.fh with
      cc := fh.cc, books := [], held := [], ctrl := [], ulQueue := s.fh.ulQueue.filter fun m => !ulLayer m } }
  | 8 => { s with
      cru := { pot := vall s.cru.pot fun _ p => potCold p, retMask := s.cru.retMask, loads := s.cru.loads, dlSym := s.cru.dlSym, ulSym := s.cru.ulSym }
      ldl := { s.ldl with dram := [], commits := [] } }
  | 9 =>
    let tx : Tx := {}
    anlCold { s with
      tx := { s.tx with dpd := tx.dpd, refresh := tx.refresh, divThr := tx.divThr, stages := tx.stages, papr := tx.papr }
      rx := { s.rx with orx := vall s.rx.orx (fun _ x => { reqs := x.reqs.filter fun r => r.user == 5 }), orxDly := Vector.replicate 64 0 } }
  | _ => if 4 ≤ d ∧ d ≤ 6 then coldLanes s d else s

/-- The weight bank holds zero after every exit of CRU (R177, R338). -/
def bankZero (s : State) : State :=
  { s with cru := { s.cru with
    dl := Vector.replicate 2 {}, ul := Vector.replicate 2 {}, filling := Vector.replicate 2 none, wrote := Vector.replicate 2 false
    regain := Vector.replicate 2 false, granNext := Vector.replicate 2 none, dlWork := [], ulRx := [], ulSent := [], psums := [] } }

/-- What a domain resumes once it is on (R342 step 4). -/
def domResume (s : State) (d : Nat) (cold : Bool) : State :=
  if 10 ≤ d then
    let q := d - 10
    let s := biasForce (synSearch s (synOf s q))
    anlTrigger s 6
  else match d with
  | 1 => flashResume s
  | 2 => if clkOn s then tbResume (if cold then { s with tb := { s.tb with tod := 0 } } else s) else s
  | 3 => synSearchAll { s with syn := { s.syn with pllLocked := !s.syn.pllRetired } }
  | 8 => bankZero s
  | _ =>
    if 4 ≤ d ∧ d ≤ 6 then
      (lanesOf d).foldl (fun s l =>
        let x := laneOf s l
        if x.retired ∧ !inLts s l then s
        else if inLts s l then startAttempt .lts s l
        else if 16 ≤ l ∧ (x.untrained ∨ x.sidle) then s
        else startAttempt (if cold ∨ x.untrained then .first else .kept) s l) s
    else s

/-! ### Changes of domains (R340–R346) -/

/-- Records that waited for CTL are written (R77, R346). -/
def drainAll (s : State) : State := (List.range 16).foldl (fun s k => recordDrain 32 s (16 + k)) s

/-- POWER events held while CTL was not on are posted, oldest first (R346). -/
def evtqPost (s : State) : State :=
  let l := s.pwr.evtq
  l.foldl postEvent { s with pwr := { s.pwr with evtq := [] } }

/-- WAKE (R355). -/
def postWake (s : State) (src action : Nat) (replayed : Bool) : State := post s 0x0C03 8 src (action ||| b2n replayed <<< 8)

/-- The device brings up the domains of a mask that are not on, with CTL (R344). -/
def startExit (s : State) (mask : Nat) : State :=
  let up := (List.range 14).filter fun d => bit mask d && vget s.pwr.dom d .off != .on
  if up.isEmpty then s
  else { s with pwr := { s.pwr with cmd := some {
    names := BitVec.ofNat 14 (maskOf up), target := BitVec.ofNat 28 (up.foldl (fun t d => t ||| 2 <<< (2 * d)) 0) } } }

/-- Cascade lanes that R350 idled train again on their kept taps. -/
def sidleWake (s : State) : State :=
  (List.range 24).foldl (fun s i =>
    let l := 16 + i
    if (laneOf s l).sidle ∧ !(laneOf s l).retired ∧ domOn s 6 then startAttempt .kept s l else s) s

/-- At the entry of the last flask carrier to HLD: one cascade lane of each side stays in service (R350). -/
def sidleEnter (s : State) : State :=
  if !flkDark s then s
  else [0, 1].foldl (fun s d =>
    match sideLane s d with
    | none => s
    | some keep => (List.range 12).foldl (fun s i =>
        if i ≠ keep ∧ laneIsUp s (16 + 12 * d + i) then
          modLane s (16 + 12 * d + i) fun x => { x with state := .down, sidle := true, inDist := false, leaveIn := 0, joinDue := false }
        else s) s) s

/-- The action of a wake source: 1 ENVELOPE, 2 SUPPLY, 3 SENSOR, 4 PWAKE (HLD_WAKE_CFG). -/
def wakeAction (s : State) (src : Nat) : Nat := bits s.hld.wakeCfg.toNat (2 * src - 1) (2 * src - 2)

/-- A wake's action applied (R344, R348, R352). -/
def applyWake (s : State) (src action : Nat) (replayed : Bool) : State :=
  if action = 0 then s
  else
    let s := { s with hld := { s.hld with lastSrc := src } }
    let s := if s.thm.quench then s
      else if action = 2 then sidleWake (flkBack (startExit { s with pwr := { s.pwr with
        resumeSet := BitVec.ofNat 2 (maskOf ((List.range 2).filter fun c => hasMode s c 5)) } } (resumeDoms s)))
      else startExit s 2
    postWake s src action replayed

/-- Holding after its decision was applied (R347). -/
def decidedNext (s : State) : State :=
  if s.hld.state = .decided then
    if wakeAction s 1 = 2 ∧ !s.thm.quench then { s with hld := { s.hld with state := .waking } }
    else { s with hld := { s.hld with
      state := .blind, blindLeft := bits s.hld.filt.toNat 31 24, tap := vall s.hld.tap fun _ t => { t with votes := [] } } }
  else s

/-- A wake arrives: applied, or latched while a change is in progress (R345). -/
def wake (s : State) (src : Nat) : State :=
  if pwrBusy s then { s with pwr := { s.pwr with wakeLatch := s.pwr.wakeLatch ||| 1#4 <<< (src - 1) } }
  else decidedNext (applyWake s src (wakeAction s src) false)

/-- Latched wakes are applied once, under the strongest of their actions (R345). -/
def wakesReplay (s : State) : State :=
  if s.pwr.wakeLatch = 0 ∨ pwrBusy s then s
  else
    let l := (setBits 4 s.pwr.wakeLatch.toNat).map (· + 1)
    let best := l.foldl (fun (b : Nat × Nat) src => if b.2 < wakeAction s src ∨ b.1 = 0 then (src, wakeAction s src) else b) (0, 0)
    let s := { s with
      pwr := { s.pwr with wakeLatch := 0 }
      hld := { s.hld with replayed := satTo 0xFFFF (s.hld.replayed + l.length) } }
    decidedNext (applyWake s best.1 best.2 true)

/-- The request of a waiting host starts CTL's exit from retention (R346). -/
def hostExit (s : State) : State :=
  if s.host.waiting.isEmpty ∨ pwrBusy s ∨ vget s.pwr.dom 1 .on ≠ .retention then s
  else
    let s := startExit s 2
    { s with pwr := { s.pwr with
      dom := vmod s.pwr.dom 1 fun _ => .moving, target := vmod s.pwr.target 1 fun _ => .on, origin := vmod s.pwr.origin 1 fun _ => .retention } }

/-- The change in progress ends once every named domain has reached its target; a change of CTL away from on begins 100 µs
after the record (R340). -/
def domFinish (s : State) : State :=
  match s.pwr.cmd with
  | none => s
  | some c =>
    let ctlOut := c.names.getLsbD 1 && domTarget c.target.toNat 1 != .on && !c.reached.getLsbD 1
    let left := (setBits 14 c.names.toNat).filter fun d => !c.reached.getLsbD d && !(d == 1 && ctlOut)
    if !left.isEmpty then s
    else
      let s := { s with pwr := { s.pwr with
        cmd := none
        ctlEntryAt := if ctlOut then some (s.tb.now + (if c.ref.isSome then 49152 else 0), domTarget c.target.toNat 1) else s.pwr.ctlEntryAt } }
      let s := match c.ref with
        | some r =>
          let result := c.reached.toNat ||| c.cold.toNat <<< 16
          if c.quenched then endRef s r 2 67 result else doneRef s r result
        | none => s
      hostExit (wakesReplay s)

/-- A named domain has reached its target. -/
def domReached (s : State) (d : Nat) (cold : Bool) : State :=
  match s.pwr.cmd with
  | none => s
  | some c => { s with pwr := { s.pwr with cmd := some { c with
      reached := if c.names.getLsbD d then c.reached ||| 1#14 <<< d else c.reached
      cold := if cold then c.cold ||| 1#14 <<< d else c.cold } } }

/-- A change begins: domains already at their targets are done. -/
def domBegin (s : State) (c : DomCmd) : State :=
  let at_ := (List.range 14).filter fun d => c.names.getLsbD d && vget s.pwr.dom d .off == domTarget c.target.toNat d
  domFinish (entryNext false { s with pwr := { s.pwr with cmd := some { c with reached := BitVec.ofNat 14 (maskOf at_) } } })

/-- DOMAIN_SET (0x0090). -/
def domainSetDef : CmdDef where
  opcode := 0x0090
  tick _ := .none
  check := domainSetCheck
  effect s c := domBegin s { ref := some c.ref, names := BitVec.ofNat 14 (domNames c.d), target := BitVec.ofNat 28 (domTargets c.d) }

/-- DOMAIN_SET. -/
def execDomainSet (dt : Nat) (ref : CmdRef) (d : Desc) (s : State) : Host.Outcome State Fault Refusal :=
  .next (hkCheck s (runCmd domainSetDef dt ref d s))

/-- An entry is complete: signatures, edge outputs, report (R341 steps 4–7, R436). -/
def entryDone (s : State) (d : Nat) (sigs : List (BitVec 32)) : State :=
  let t := vget s.pwr.target d .off
  let old := vget s.pwr.origin d .off
  let b := banksOf d
  let s := if old = .on then domLeft s d else s
  let s := if t = .retention ∧ old = .on then
      { s with pwr := { s.pwr with sign := vall s.pwr.sign fun i x => if b.1 ≤ i ∧ i < b.1 + b.2 then sigs.getD (i - b.1) 0 else x } }
    else s
  let s := { s with pwr := { s.pwr with kept := vmod s.pwr.kept d fun _ => decide (t = .retention ∧ old = .on) } }
  let s := postDom (setDom s d t) d 0
  let s := domFinish (entryNext false (domReached s d false))
  if d = 1 then hostExit (wakesReplay s) else s

/-- DOMAIN_ENTRY_DONE. -/
def execDomainEntryDone (dt : Nat) (dom : Fin 14) (sigs : List (BitVec 32)) (s : State) : Host.Outcome State Fault Refusal :=
  let s := arrive dt s
  .next (if vget s.pwr.dom dom.val .off = .moving ∧ vget s.pwr.target dom.val .on ≠ .on then hkCheck s (entryDone s dom.val sigs) else s)

/-- An exit can begin: the domain is to come on, and what it needs is on; domains that need SYN wait for a source (R342,
R352). -/
def exitCan (s : State) (d : Nat) : Bool :=
  (match s.pwr.cmd with
    | some c => c.names.getLsbD d && !c.reached.getLsbD d && domTarget c.target.toNat d == .on
    | none => false) &&
  (vget s.pwr.dom d .on == .off || vget s.pwr.dom d .on == .retention) && (needsOn d).all (domOn s) &&
  (!(needsOn d).contains 3 || !s.syn.refLost)

/-- DOMAIN_EXIT_START: the domain begins its exit. -/
def execDomainExitStart (dt : Nat) (dom : Fin 14) (s : State) : Host.Outcome State Fault Refusal :=
  let s := arrive dt s
  let d := dom.val
  .next (if exitCan s d then
      { s with pwr := { s.pwr with
        origin := vmod s.pwr.origin d fun _ => vget s.pwr.dom d .off
        dom := vmod s.pwr.dom d fun _ => .moving, target := vmod s.pwr.target d fun _ => .on } }
    else s)

/-- One bank failed its signature check (R343). -/
def bankSpoil (d : Nat) (s : State) (b : Nat) : State :=
  let s := { s with pwr := { s.pwr with
    bankSpoiled := true, spoilIndex := b, spoilCount := satTo 0xFFFF (s.pwr.spoilCount + 1), spoiled := s.pwr.spoiled ||| 1#32 <<< b } }
  lgEvent (hbCount (post s 0x0C02 8 b d) 9) 0x0C02 d

/-- An exit is complete: banks checked, state restored or cold, the domain resumed, report (R342, R343). -/
def exitDone (s : State) (d : Nat) (sigs : List (BitVec 32)) : State :=
  let kept := vget s.pwr.origin d .off == .retention && vget s.pwr.kept d false
  let b := banksOf d
  let bad := if kept then (List.range b.2).filter fun i => !(sigs.getD i 0 == vget s.pwr.sign (b.1 + i) 0) else []
  let cold := !kept || !bad.isEmpty
  let s := bad.foldl (fun s i => bankSpoil d s (b.1 + i)) s
  let s := { s with pwr := { s.pwr with kept := vmod s.pwr.kept d fun _ => false } }
  let s := if cold then coldReset s d else s
  let s := domResume (setDom s d .on) d cold
  let s := postDom s d 0
  let s := if d = 1 then drainAll (evtqPost s) else s
  domFinish (domReached s d (!bad.isEmpty))

/-- An exit may be complete: SYN also waits for its source (R290, R338). -/
def exitEnds (s : State) (d : Nat) : Bool :=
  decide (vget s.pwr.dom d .off = .moving ∧ vget s.pwr.target d .off = .on) && (d != 3 || (s.syn.everOn && s.syn.refState == .locked))

/-- CTL_ENTRY_START: 100 µs after the record of the DOMAIN_SET that takes CTL away from on (R340). -/
def ctlEntry (s : State) : State :=
  match s.pwr.ctlEntryAt with
  | none => s
  | some (at_, t) =>
    let s := arriveAt at_ s
    entryStart { s with pwr := { s.pwr with ctlEntryAt := none, cmd := some {
      names := 2, target := BitVec.ofNat 28 (domCode t <<< 2) } } } 1 t

/-- CTL_ENTRY_START. -/
def execCtlEntryStart (s : State) : Host.Outcome State Fault Refusal := .next (ctlEntry s)

/-- CTL_WAKE_REQUEST: a host request while CTL is not on (R346). -/
def execCtlWakeRequest (dt : Nat) (req : BusReq) (s : State) : Host.Outcome State Fault Refusal :=
  let s := arrive dt s
  let hold := { s with host := { s.host with waiting := s.host.waiting ++ [req] } }
  .next (match vget s.pwr.dom 1 .on with
    | .retention => hostExit hold
    | .moving =>
      if vget s.pwr.target 1 .on = .retention ∨ (vget s.pwr.target 1 .on = .on ∧ vget s.pwr.origin 1 .off = .retention) then hold else s
    | _ => s)

/-- PWAKE_EDGE: a rising edge on the PWAKE land, held for 10 µs (R344). -/
def execPwakeEdge (dt : Nat) (s : State) : Host.Outcome State Fault Refusal := .next (wake (arrive dt s) 4)

/-! ### Taps, windows and votes (R347) -/

/-- Tap i. -/
def tapOf (s : State) (i : Nat) : Tap := vget s.hld.tap i {}

/-- A tap is enabled and working: its quad is on or in retention (HLD_STAT.TAPS_LIVE). -/
def tapLive (s : State) (i : Nat) : Bool :=
  let q := 10 + (tapOf s i).path / 16
  (tapOf s i).en && (domOn s q || vget s.pwr.dom q .off == .retention)

/-- A tap yields a vote in this window. -/
def tapVotes (s : State) (i : Nat) : Bool :=
  let p := (tapOf s i).path
  tapLive s i && !((List.range 16).any fun j => trswLine s (p / 16 * 16 + j)) && !lnapActive s p

/-- N, K and M. -/
def filtN (s : State) : Nat := bits s.hld.filt.toNat 23 20
def filtK (s : State) : Nat := bits s.hld.filt.toNat 19 16
def filtM (s : State) : Nat := bits s.hld.filt.toNat 15 12

/-- Hits of a tap among its last N voting windows (HLD_VOTE). -/
def tapHits (s : State) (i : Nat) : Nat := (((tapOf s i).votes.take (filtN s)).filter id).length

/-- One HLD_CFG change takes effect and clears the votes (R354). -/
def hldTake (s : State) (x : BitVec 384) : State :=
  let v := x.toNat
  let w := fun (i : Nat) => bits v (32 * i + 63) (32 * i + 32)
  let h := s.hld
  let h : Hld := match bits v 7 0 with
    | 0 => { h with tap := vall h.tap fun i _ => { en := bit (w i) 31, path := bits (w i) 29 24, thresh := BitVec.ofNat 8 (w i) } }
    | 1 => { h with filt := BitVec.ofNat 32 (w 0) }
    | 2 => { h with wakeCfg := BitVec.ofNat 8 (w 0) }
    | 3 => { h with darkSet := BitVec.ofNat 28 (w 0) }
    | _ => { h with darkEn := bit (w 0) 0, darkLvl := BitVec.ofNat 8 (w 0 / 256) }
  { s with hld := { h with tap := vall h.tap fun _ t => { t with votes := [] } } }

/-- Changes that wait for a window take effect. -/
def hldPend (s : State) : State :=
  let l := s.hld.pend
  l.foldl hldTake { s with hld := { s.hld with pend := [] } }

/-- Holding arms as a carrier enters HLD. -/
def hldArm (s : State) : State :=
  if s.hld.state = .disarmed then
    let b := bits s.hld.filt.toNat 31 24
    { s with hld := { s.hld with
      state := if b = 0 then .watch else .blind, blindLeft := b, tap := vall s.hld.tap fun _ t => { t with votes := [] } } }
  else s

/-- A window ends with one bit per tap: the vote, and the decision; then the changes take effect that wait for the next window (R347,
R354). -/
def windowEnd (s : State) (hits : Nat) : State :=
  hldPend (match s.hld.state with
    | .blind =>
      { s with hld := { s.hld with blindLeft := s.hld.blindLeft - 1, state := if s.hld.blindLeft ≤ 1 then .watch else .blind } }
    | .watch =>
      let s := { s with hld := { s.hld with tap := vall s.hld.tap (fun i t =>
        if tapVotes s i then { t with votes := (bit hits i :: t.votes).take 15 } else t) } }
      if filtM s ≤ ((List.range 8).filter fun i => tapLive s i && decide (filtK s ≤ tapHits s i)).length then
        wake { s with hld := { s.hld with state := .decided, decisions := satTo 0xFFFF (s.hld.decisions + 1) } } 1
      else s
    | _ => s)

/-- HOLDING_WINDOW_END. -/
def execHoldingWindowEnd (dt : Nat) (hits : BitVec 8) (s : State) : Host.Outcome State Fault Refusal :=
  .next (windowEnd (arrive dt s) hits.toNat)

/-! ### HLD_CFG (R354) -/

/-- One TAPS entry is in range. -/
def tapRange (w : Nat) : Bool :=
  decide (bits w 23 8 = 0) && !bit w 30 && decide (-75 ≤ sx 8 w ∧ sx 8 w ≤ -35)

/-- Field ranges of HLD_CFG. -/
def hldCfgRange (d : Desc) : Bool :=
  let w := dW d 20
  dZero d 17 19 && dZero d 52 63 && match dB d 16 with
    | 0 =>
      let t := fun i => dW d (20 + 4 * i)
      (List.range 8).all (fun i => tapRange (t i)) &&
        (List.range 8).all fun i => (List.range i).all fun j =>
          !(bit (t i) 31 && bit (t j) 31 && decide (bits (t i) 29 24 = bits (t j) 29 24))
    | 1 =>
      let n := bits w 23 20
      let k := bits w 19 16
      let m := bits w 15 12
      decide (1 ≤ n ∧ 1 ≤ k ∧ k ≤ n ∧ 1 ≤ m ∧ m ≤ 8 ∧ 64 ≤ bits w 11 0) && dZero d 24 51
    | 2 => decide (bits w 7 6 ≤ 2 ∧ bits w 5 4 ≤ 1 ∧ bits w 3 2 ≤ 1 ∧ bits w 1 0 ≤ 2) && dZero d 21 51
    | 3 => decide (w < 2 ^ 28 ∧ 2 ≤ bits w 1 0) && dZero d 24 51
    | 4 => decide (bits w 7 1 = 0) && dZero d 22 51
    | _ => false

/-- HLD_CFG (0x0091): accepted at once, in effect at the next window; while no window runs, that is from now on (log 40). -/
def hldCfgDef : CmdDef where
  opcode := 0x0091
  tick _ := .none
  check _ c := firstRefuse [(!hldCfgRange c.d, cField)]
  effect s c :=
    let x := BitVec.ofNat 384 (c.d.toNat / 2 ^ 128)
    cmdDone (if s.hld.state = .blind ∨ s.hld.state = .watch then { s with hld := { s.hld with pend := s.hld.pend ++ [x] } }
      else hldTake s x) c

/-- HLD_CFG. -/
def execHldCfg (dt : Nat) (ref : CmdRef) (d : Desc) (s : State) : Host.Outcome State Fault Refusal :=
  .next (runCmd hldCfgDef dt ref d s)

/-! ### The dark set and the dark check (R349, R351) -/

/-- Named domains that keep their state because a check fails, one after another, with the cause; the rest of the names. -/
def darkFilter (s : State) (target : Nat) : Nat → Nat → List (Nat × Nat) → Nat × List (Nat × Nat)
  | 0, names, out => (names, out)
  | n + 1, names, out =>
    let lack := lacking s names target
    let bad := if pwrBusy s then (setBits 14 names).map fun d => (d, 68)
      else (setBits 14 names).filterMap fun d =>
        if bit (inUse s names target) d then some (d, 65)
        else if bit (quenchedOn s names target) d then some (d, 67)
        else if lack.contains d then some (d, 64)
        else if !onAfter s names target d && lack.any (fun x => (needsOn x).contains d) then some (d, 64)
        else none
    match bad with
    | [] => (names, out)
    | (d, c) :: _ => darkFilter s target n (names ^^^ 1 <<< d) (out ++ [(d, c)])

/-- HLD_DARK_SET is applied (R349). -/
def darkApply (s : State) : State :=
  let t := s.hld.darkSet.toNat
  let names := maskOf ((List.range 14).filter fun d =>
    bits t (2 * d + 1) (2 * d) != 3 && d != 0 && domSettled s d != domTarget t d)
  let r := darkFilter s t 14 names []
  let s := { s with hld := { s.hld with darkDue := false } }
  let s := r.2.foldl (fun s x => postDom s x.1 x.2) s
  if r.1 = 0 then s else domBegin s { names := BitVec.ofNat 14 r.1, target := BitVec.ofNat 28 t }

/-- At the tick of symbol k: the dark set, once the last uplink egress of the old state has closed (R44, R349). -/
def darkSymbol (k : Nat) (s : State) : State :=
  if s.hld.darkDue ∧ k % 14 = 2 then (if allDark s then darkApply s else { s with hld := { s.hld with darkDue := false } }) else s



end Sys2Proof.Machine
end

