-- ==== Sys2Proof/Machine/Thermal.lean ====
section
/-! DEFINITION. Thermal plant and housekeeping (13): the converter and its comparators, the round with its sensor checks, predictive
ceilings, fans, heater, compensation targets and Anneal triggers, Quench, and THM_CFG. -/

namespace Sys2Proof.Machine

/-! ### The converter (R356–R359) -/

/-- The newest code of a channel. -/
def hkCode (s : State) (ch : Nat) : Option Nat := (vget s.hka.last ch none).map fun x => x.1.toNat

/-- The value of a code in millionths of its unit: °C, V or A (R356). -/
def hkMicro (ch code : Nat) : Int :=
  if ch < 24 then (code : Int) * 1000000 / 65536 - 128000000
  else
    let full := if ch < 88 then 100000 else if ch = 88 then 25600000 else if ch ≤ 92 then 64000000
      else if 96 ≤ ch ∧ ch ≤ 111 then 12800000 else 2560000
    ((code * full / 2 ^ 24 : Nat) : Int)

/-- The newest value of a channel in millionths, if it has one and can be selected (R356). -/
def hkValue (s : State) (ch : Nat) : Option Int := if 144 ≤ ch then none else (hkCode s ch).map (hkMicro ch)

/-- Channel ch is set in HKA_SCAN; 144 to 159 cannot be selected (R356, R358). -/
def inScan (s : State) (ch : Nat) : Bool := decide (ch < 144) && (vget s.hka.scan (ch / 32) 0).getLsbD (ch % 32)

/-- HKA_CFG.MODE: 0 CONTINUOUS, 1 start-up, 2 recovery, 3 test (R358). -/
def hkMode (s : State) : Nat := if !s.gen.pgood then 1 else if s.thm.quench then 2 else if s.hka.test then 3 else 0

/-- The next channel of the scan after one, cyclically in ascending order (R358). -/
def scanNext (s : State) (ch : Nat) : Option Nat :=
  ((List.range 144).find? fun c => decide (ch < c) && inScan s c).orElse fun _ => (List.range 144).find? (inScan s)

/-- The next conversion begins once none is in progress: by the scan, or the waiting comparator that comes first (R358, R360). -/
def hkNext (s : State) (ch : Nat) : State :=
  if s.hka.busy.isSome then s
  else if hkMode s = 0 then { s with hka := { s.hka with busy := scanNext s ch } }
  else match (List.range 16).find? fun k => (vget s.hka.cmp k {}).waits with
    | none => s
    | some k => modCmp { s with hka := { s.hka with busy := some (vget s.hka.cmp k {}).ch } } k fun c => { c with waits := false }

/-- A result joins the queue, or is lost while 512 wait (R359). -/
def hkQueue (s : State) (w : BitVec 32) : State :=
  if s.hka.queue.length < 512 then { s with hka := { s.hka with queue := s.hka.queue ++ [w] } }
  else
    let first := !s.hka.lostSince
    let s := { s with hka := { s.hka with lost := satTo 0xFFFF (s.hka.lost + 1), lostSince := true } }
    if first then post s 0x0D05 7 0xFFFF s.hka.lost else s

/-- A conversion is complete (R359). -/
def conversionDone (code : BitVec 24) (s : State) : State :=
  match s.hka.busy with
  | none => s
  | some ch =>
    let s := { s with hka := { s.hka with busy := none, last := vmod s.hka.last ch fun _ => some (code, s.thm.rounds) } }
    hkNext (hkQueue s (BitVec.ofNat 32 (ch <<< 24 ||| code.toNat))) ch

/-- HK_CONVERSION_DONE. -/
def execHkConversionDone (dt : Nat) (code : BitVec 24) (s : State) : Host.Outcome State Fault Refusal :=
  .next (conversionDone code (arrive dt s))

/-! ### Comparators (R360) -/

/-- Comparator k. -/
def cmpOf (s : State) (k : Nat) : Cmp := vget s.hka.cmp k {}

/-- A comparator works: enabled, on a channel it can watch, not an unused sensor (R360, R361). -/
def cmpLive (s : State) (k : Nat) : Bool :=
  let c := cmpOf s k
  c.en && ((decide (c.ch < 24) && (sensorOf s c.ch).type != 0) || decide (88 ≤ c.ch ∧ c.ch ≤ 95))

/-- A crossing: STATE, the event, the wake source and the conversion it starts (R360, R344). -/
def cmpCross (s : State) (k st : Nat) : State :=
  let s := post (modCmp s k fun c => { c with state := st }) 0x0D06 7 k st
  let c := cmpOf s k
  let s := if c.wake then wake s (if c.ch < 24 then 3 else 2) else s
  if hkMode s ≠ 0 ∧ c.start then hkNext (modCmp s k fun c => { c with waits := true }) 0 else s

/-- COMPARATOR_CROSSING. -/
def execComparatorCrossing (dt : Nat) (k : Fin 16) (above : Bool) (s : State) : Host.Outcome State Fault Refusal :=
  let s := arrive dt s
  let st := if above then 2 else 1
  .next (if cmpLive s k.val ∧ (cmpOf s k.val).state ≠ st then cmpCross s k.val st else s)

/-- COMPARATOR_REARM: the input is back inside the window by the margin (R360). -/
def execComparatorRearm (dt : Nat) (k : Fin 16) (s : State) : Host.Outcome State Fault Refusal :=
  let s := arrive dt s
  .next (if cmpLive s k.val then modCmp s k.val fun c => { c with state := 0 } else s)

/-! ### Fans and heater (R365, R366) -/

/-- The duty a fan's curve asks for at a control temperature in 1/8 °C, rounded up (R365). -/
def fanCurve (f : Fan) (t : Int) : Nat :=
  if t ≤ 8 * f.tLo then f.min
  else if 8 * f.tHi ≤ t then 255
  else
    let span := (8 * (f.tHi - f.tLo)).toNat
    f.min + ((255 - f.min) * (t - 8 * f.tLo).toNat + span - 1) / span

/-- Sensors of a fan's mask. -/
def fanSensors (s : State) (f : Fan) : List Sensor := (setBits 24 f.src.toNat).map (sensorOf s)

/-- A fan runs at 255: start-up, Quench, no sensor with a value, or a sensor with NO_REPL (R365). -/
def fanFull (s : State) (f : Fan) : Bool :=
  !s.gen.pgood || s.thm.quench || (fanSensors s f).all (fun x => x.temp.isNone) || (fanSensors s f).any fun x => x.noRepl

/-- The highest sensor value of a fan's mask, 1/8 °C. -/
def fanTemp (s : State) (f : Fan) : Int := ((fanSensors s f).filterMap fun x => x.temp).foldl max (-32768)

/-- The duty of a fan after a round: full, forced, or the curve with its fall limited to 8 (R365). -/
def fanDuty (s : State) (f : Fan) : Nat :=
  if fanFull s f then 255
  else match f.force with
    | some x => x.1
    | none => max (fanCurve f (fanTemp s f)) (f.duty - 8)

/-- The fans at a round; an output assigned to Link Test is not driven (R56). -/
def fanRound (s : State) : State :=
  { s with thm := { s.thm with fan := vall s.thm.fan fun i f => { f with duty := if fanTest s i then 0 else fanDuty s f } } }

/-- The heater takes a state; a change posts HEATER (R366). -/
def heaterSet (s : State) (on : Bool) : State :=
  if s.thm.heatOn = on then s else post { s with thm := { s.thm with heatOn := on } } 0x0D04 7 0xFFFF (b2n on)

/-- The heater's decision (R366). -/
def heaterRound (s : State) : State :=
  let h := s.thm.heat.toNat
  if s.thm.quench ∨ !bit h 31 then heaterSet s false
  else match (List.range 8).filterMap fun i => (sensorOf s (16 + i)).temp with
    | [] => s
    | t :: ts =>
      let low := ts.foldl min t
      if low < 8 * sx 8 h then heaterSet s true
      else if 8 * sx 8 (h / 256) < low then heaterSet s false
      else s

/-! ### Quench (R367, R368) -/

/-- Domains that Quench takes off (R368 step 4). -/
def quenchDoms : List Nat := [10, 11, 12, 13, 9, 8]

/-- A domain goes off at once; a change of domains that names it loses it (R340, R368). -/
def domQuench (s : State) (d : Nat) : State :=
  let old := vget s.pwr.dom d .off
  let named : Bool := match s.pwr.cmd with
    | some c => c.names.getLsbD d && (old != .off || !c.reached.getLsbD d)
    | none => false
  let s := match s.pwr.cmd with
    | some c => if named then { s with pwr := { s.pwr with cmd := some { c with
        names := c.names &&& ~~~(1#14 <<< d), reached := c.reached &&& ~~~(1#14 <<< d), quenched := true } } } else s
    | none => s
  if old = .off then s
  else
    let s := if old = .on then domLeft (domLeave s d) d else s
    let s := { s with pwr := { s.pwr with
      kept := vmod s.pwr.kept d fun _ => false, target := vmod s.pwr.target d fun _ => .off } }
    postDom (setDom s d .off) d 0

/-- Quench latches (R368). -/
def quenchLatch (s : State) (cause sensor : Nat) (temp : Int) : State :=
  let s := { s with
    gen := { s.gen with quenchN := false }
    thm := { s.thm with
      quench := true, qCause := cause, qSensor := sensor, qTemp := BitVec.ofNat 16 (tc 16 temp)
      fan := vall s.thm.fan fun i f => { f with duty := if fanTest s i then 0 else 255, force := none } } }
  let s := biasForce { s with bias := { s.bias with out := vall s.bias.out fun _ b => { b with queue := [], released := none } } }
  let s := linesIdle s fun _ => true
  let s := domFinish (entryNext false (quenchDoms.foldl domQuench s))
  let s := heaterSet s false
  let s := anlFail s 14
  let data := cause ||| tc 16 temp <<< 16
  let s := hbCount (post s 0x0D01 1 sensor data) 8
  snapAsk (lgEvent s 0x0D01 data) 2 none

/-- A quench condition as the spec has it for a cause: 1 an on-module sensor at 125 °C, 2 a remote-sense input at its fused
limit, not blanked, 3 a broken sensor's value there (R367). -/
def quenchMet (s : State) (cause sensor : Nat) (temp : Int) : Bool :=
  let x := sensorOf s sensor
  let lim : Int := 8 * quenchLimit s sensor
  match cause with
  | 1 => decide (16 ≤ sensor ∧ 1000 ≤ temp) && !x.byRange
  | 2 => decide (sensor < 16 ∧ 0 < lim ∧ lim ≤ temp) && x.type != 0 && !x.byRange
  | 3 => decide (sensor < 16 ∧ 0 < lim ∧ x.temp = some temp ∧ lim ≤ temp) && x.broken && x.type != 0
  | _ => false

/-- QUENCH. -/
def execQuench (dt : Nat) (cause : Nat) (sensor : Fin 24) (temp : Int) (s : State) : Host.Outcome State Fault Refusal :=
  let s := arrive dt s
  .next (if !s.thm.quench ∧ quenchMet s cause sensor.val temp then quenchLatch s cause sensor.val temp else s)

/-! ### The sensors at a round (R362, R376) -/

/-- A value in codes as 1/8 °C; n readings added (R356). -/
def eighths (sum n : Nat) : Int := (sum / (8192 * n) : Nat) - 1024

/-- The code a used sensor reads. -/
def reading (s : State) (i : Nat) : Option Nat := if (sensorOf s i).type = 0 then none else hkCode s i

/-- A reading passes the range check: −60 °C to +200 °C (R362). -/
def inRange (c : Nat) : Bool := decide (68 * 65536 ≤ c ∧ c ≤ 328 * 65536)

/-- Readings of a sensor's neighbours that are not broken. -/
def nbrReadings (s : State) (i : Nat) : List Nat :=
  (setBits 24 (sensorOf s i).nbr.toNat).filterMap fun n => if n = i ∨ (sensorOf s n).broken then none else reading s n

/-- A reading lies within 6.0 °C of the mean of its neighbours, or there is none (R362). -/
def nearNbrs (l : List Nat) (c : Nat) : Bool :=
  l.isEmpty || decide (((l.length * c : Nat) - (l.sum : Int)).natAbs ≤ 6 * 65536 * l.length)

/-- A sensor is declared broken: the event, and a fault of the sensor (R362, R377). -/
def sensorBroken (s : State) (i why c : Nat) : State :=
  let s := modSensor s i fun x => { x with broken := true, byRange := decide (why = 1), brokenRounds := 0, goodRounds := 0 }
  let s := post s 0x0D02 0 i (why ||| tc 16 (eighths c 1) <<< 16)
  let l := recent s.tb.now (sensorOf s i).faults
  if l.length < 3 then noteFault (modSensor s i fun x => { x with faults := s.tb.now :: l }) 4 i (l.length + 1)
  else noteRetired (modSensor s i fun x => { x with faults := l, retired := true }) 4 i 1

/-- The range check of one sensor (R362). -/
def rangeCheck (s : State) (i : Nat) : State :=
  match reading s i with
  | some c => if (sensorOf s i).broken ∨ inRange c then s else sensorBroken s i 1 c
  | none => s

/-- The cross-check of one sensor against the state after the range checks (R362). -/
def crossCheck (pre s : State) (i : Nat) : State :=
  match reading s i with
  | some c =>
    if (sensorOf pre i).broken then s
    else if nearNbrs (nbrReadings pre i) c then modSensor s i fun x => { x with disagree := 0 }
    else
      let s := modSensor s i fun x => { x with disagree := satTo 3 (x.disagree + 1) }
      if (sensorOf s i).disagree < 3 then s else sensorBroken s i 2 c
  | none => s

/-- The way back of one broken sensor: after 100 rounds, 30 consecutive good ones (R376). -/
def readmit (pre s : State) (i : Nat) : State :=
  let x := sensorOf pre i
  if !x.broken ∨ x.retired then s
  else if x.brokenRounds < 100 then modSensor s i fun x => { x with brokenRounds := x.brokenRounds + 1 }
  else
    let good := match reading s i with
      | some c => inRange c && nearNbrs (nbrReadings pre i) c
      | none => false
    if !good then modSensor s i fun x => { x with goodRounds := 0 }
    else if x.goodRounds + 1 < 30 then modSensor s i fun x => { x with goodRounds := x.goodRounds + 1 }
    else modSensor s i fun x => { x with broken := false, byRange := false, disagree := 0, brokenRounds := 0, goodRounds := 0 }

/-- The value of one sensor after the checks (R362). -/
def sensorValue (pre : State) (i : Nat) (x : Sensor) : Sensor :=
  match x.type with
  | 0 => { x with temp := none, replaced := false, noRepl := false }
  | _ =>
    if x.broken then
      let l := nbrReadings pre i
      if l.isEmpty then { x with noRepl := true, replaced := false }
      else { x with temp := some (eighths l.sum l.length), replaced := true, noRepl := false }
    else { x with
      temp := (match reading pre i with
        | some c => some (eighths c 1)
        | none => x.temp)
      replaced := false, noRepl := false }

/-- The sensors at a round (R362, R376). -/
def sensorRound (s : State) : State :=
  let s := forAll 24 s rangeCheck
  let s := forAll 24 s (crossCheck s)
  let s := forAll 24 s (readmit s)
  { s with thm := { s.thm with sense := vall s.thm.sense (sensorValue s) } }

/-- A broken sensor's value reaches its fused limit at this round (R367). -/
def quenchRound (s : State) : State :=
  if s.thm.quench then s
  else match (List.range 16).find? fun i => quenchMet s 3 i (((sensorOf s i).temp).getD (-32768)) with
    | some i => quenchLatch s 3 i (((sensorOf s i).temp).getD 0)
    | none => s

/-! ### Predictive ceilings (R363, R364) -/

/-- e^(−num / den) in units of 2^-64, by the series of e^(−x / 1024) squared ten times. -/
def expNeg (num den : Nat) : Nat :=
  if den = 0 ∨ 64 * den ≤ num then 0
  else
    let one := 2 ^ 128
    let y := num * one / (1024 * den)
    let e := (List.range 24).foldr (fun i (acc : Int) => (one : Int) - (y : Int) * acc / ((i + 1 : Nat) * (one : Int))) (one : Int)
    let e := (List.range 10).foldl (fun a _ => a * a / one) e.toNat
    e / 2 ^ 64

/-- 2^20 × 10^(c/640), rounded down, for a gain in 1/64 dB. -/
def powOf (c : Int) : Nat :=
  leastAbove (fun t => if 0 ≤ c then decide (2 ^ 12800 * 10 ^ c.toNat < t ^ 640) else decide (2 ^ 12800 < t ^ 640 * 10 ^ (-c).toNat)) 0 192 - 1

/-- P_RF of a group over dc counts, µW (R363). -/
def groupRf (s : State) (g dc : Nat) : Nat :=
  let n := dc * 14 / 245760
  let sum := (List.range 8).foldl (fun a i => a + (txOf s (8 * g + i)).rnd.1) 0
  if n = 0 then 0 else sum * powOf (sx 16 (vget s.thm.group g {}).gain.toNat) * 1000 / (2 ^ 40 * n)

/-- The group's dissipation in µW, or none while an input has no value (R363). -/
def groupPower (s : State) (g dc : Nat) : Option Nat :=
  let x := vget s.thm.group g {}
  let i := bits x.cfg.toNat 7 0
  let shunt := bits x.r.toNat 31 24
  match hkValue s (bits x.cfg.toNat 15 8), hkCode s i with
  | some v, some c =>
    let cur := if shunt = 0 then Config.shuntCurrent c else c * 1000000000 / (shunt * 2 ^ 24)
    some (v.toNat * cur / 1000000 - groupRf s g dc)
  | _, _ => none

/-- One temperature rise after a time whose decay factor is e (2^-64): R/256 °C/W, P in µW, rises in 2^-32 °C (R363). -/
def rise (r p : Nat) (d : Int) (e : Nat) : Int :=
  let rp : Int := (r * p * 2 ^ 24 / 1000000 : Nat)
  rp + (d - rp) * e / 2 ^ 64

/-- ⌈640 × log10(P / P_A)⌉ (R364). -/
def cutSteps (p pa : Nat) : Nat :=
  let ok := fun m => decide (p ^ 640 ≤ 10 ^ m * pa ^ 640)
  if ok 0 then 0 else leastAbove ok 0 16

/-- Mean EFF code of a group's enabled paths, rounded down; −2,560 where none is enabled (R364). -/
def groupEff (s : State) (g : Nat) : Int :=
  let l := ((List.range 8).map fun i => txOf s (8 * g + i)).filter fun t => t.en
  if l.isEmpty then -2560 else l.foldl (fun a t => a + t.eff) 0 / (l.length : Int)

/-- A 2^-32 °C temperature in 1/8 °C, as a register holds it. -/
def regTemp (t : Int) : BitVec 16 := BitVec.ofNat 16 (tc 16 (clampI (-32767) 32767 (t / 2 ^ 29)))

/-- The rises of a group and its temperatures at a round: T_J and T_PRED in 2^-32 °C, and P (R363, R364). -/
def groupModel (s : State) (g : Nat) (x : Group) (ts : Int) (p dc : Nat) : State × Int :=
  let r1 := bits x.r.toNat 11 0
  let r2 := bits x.r.toNat 23 12
  let t1 := bits x.tau.toNat 15 0
  let t2 := bits x.tau.toNat 31 16
  let look := bits s.thm.model.toNat 7 0
  let d1 := rise r1 p x.dT1 (expNeg dc (t1 * 491520))
  let d2 := rise r2 p x.dT2 (expNeg dc (t2 * 49152000))
  let pred := ts * 2 ^ 29 + rise r1 p d1 (expNeg (look * 1000) t1) + rise r2 p d2 (expNeg (look * 10) t2)
  (modGroup s g fun y => { y with
    dT1 := d1, dT2 := d2, tJ := regTemp (ts * 2 ^ 29 + d1 + d2), tPred := regTemp pred, p := satTo 0xFFFF (p / 62500) }, pred)

/-- The code a cut brings a group to: E + ⌊640 log10(P_A / P)⌋, −2,560 where P_A is not positive (R364). -/
def groupCut (s : State) (g : Nat) (ts : Int) (p : Nat) : Int :=
  let x := vget s.thm.group g {}
  let look := bits s.thm.model.toNat 7 0
  let e1 := expNeg (look * 1000) (bits x.tau.toNat 15 0)
  let e2 := expNeg (look * 10) (bits x.tau.toNat 31 16)
  let lim : Int := bits x.cfg.toNat 31 24
  let num := (8 * lim - ts) * 2 ^ 29 - x.dT1 * e1 / 2 ^ 64 - x.dT2 * e2 / 2 ^ 64
  let den := bits x.r.toNat 11 0 * (2 ^ 64 - e1) + bits x.r.toNat 23 12 * (2 ^ 64 - e2)
  let pa := if den = 0 then 0 else num.toNat * 1000000 * 2 ^ 40 / den
  if pa = 0 then -2560 else max (-2560) (groupEff s g - cutSteps p pa)

/-- A group's ceiling takes a value and enters the batch of the next slot tick (R364). -/
def setCeil (s : State) (g : Nat) (c : Int) : State :=
  if (vget s.thm.group g {}).ceil = c then s
  else modGroup { s with tx := { s.tx with ceilDue := s.tx.ceilDue ||| 1#8 <<< g } } g fun y => { y with ceil := c }

/-- The ceiling of one group at a round: cut, release, or hold (R364). -/
def groupCeil (s : State) (g : Nat) (ts : Int) (p : Nat) (pred : Int) : State :=
  let x := vget s.thm.group g {}
  let lim : Int := 8 * bits x.cfg.toNat 31 24
  if lim * 2 ^ 29 ≤ pred then
    let c := min x.ceil (groupCut s g ts p)
    post (setCeil s g c) 0x0D03 7 g (tc 16 c ||| (regTemp pred).toNat <<< 16)
  else if pred < (lim - bits s.thm.model.toNat 23 16) * 2 ^ 29 ∧ x.ceil ≠ 32767 then
    setCeil s g (if pathMax s ≤ x.ceil + 16 then 32767 else x.ceil + 16)
  else s

/-- One group at a round; a group without a limit is under no ceiling (R363, R364). -/
def groupRound (dc : Nat) (s : State) (g : Nat) : State :=
  let x := vget s.thm.group g {}
  if bits x.cfg.toNat 31 24 = 0 then setCeil s g 32767
  else match (sensorOf s (bits x.cfg.toNat 23 20)).temp, groupPower s g dc with
    | some ts, some p =>
      let m := groupModel s g x ts p dc
      groupCeil m.1 g ts p m.2
    | _, _ => s

/-! ### The other users of a round -/

/-- COMP* of one path, 1/1024 dB (R251). -/
def compTarget (s : State) (t : TxPath) : Int :=
  let a := t.compT.toNat
  let b := t.compV.toNat
  let x := sensorOf s (bits a 23 20)
  let k := sx 12 a
  let v : Int := match hkValue s (bits b 31 24) with
    | some v => sx 12 b * (32 * v - 2000000 * bits b 23 12)
    | none => 0
  if x.noRepl then t.comp
  else match x.temp with
    | some y => clampI (-4096) 4096 (divRound (1000000 * k * (y - 8 * sx 8 (a / 2 ^ 24)) + v) 8000000)
    | none => if k = 0 then clampI (-4096) 4096 (divRound v 8000000) else t.comp

/-- The compensation targets of a round, toward which COMP moves at the next slot tick (R251). -/
def compRound (s : State) : State :=
  { s with tx := { s.tx with compDue := true, path := vall s.tx.path fun _ t => { t with compTgt := compTarget s t } } }

/-- T_STEP, 1/8 °C. -/
def tStep (s : State) : Int := bits s.anl.cfg.toNat 6 0

/-- Sensor q of the dies has moved from ANL_TREF(q) by T_STEP (R325). -/
def tempMoved (s : State) (q : Nat) : Bool :=
  match (sensorOf s (16 + q)).temp with
  | some t => decide (vget s.anl.tref q 0x8000 ≠ 0x8000#16 ∧ tStep s ≤ (t - sx 16 (vget s.anl.tref q 0).toNat).natAbs)
  | none => false

/-- Sensor q has moved from its reading at the block by a further T_STEP (R329). -/
def blockMoved (s : State) (q : Nat) : Bool :=
  match (sensorOf s (16 + q)).temp with
  | some t => decide (tStep s ≤ (t - vget s.anl.blockTemp q 0).natAbs)
  | none => false

/-- Anneal trigger 2 at a round, against the state before it: a sensor that has just moved by T_STEP, or one that has while no run
is in progress; a blocked Anneal leaves BLOCKED by it (R325, R329). -/
def anlRound (was s : State) : State :=
  if s.anl.state = .blocked then
    if (List.range 4).any (blockMoved s) then anlTrigger { s with anl := { s.anl with state := .idle } } 2 else s
  else if (List.range 4).any fun q => tempMoved s q && (s.anl.run.isNone || !tempMoved was q) then anlTrigger s 2
  else s

/-- 64 × 10 log10 of a mean power in units of 2^-20 mW: the code of its 1/64 dBm, rounded down. -/
def codeOfMw (sum n : Nat) : Int :=
  let ok := fun i : Nat => decide (sum < n * (mwOf ((i : Int) - 6000)))
  (leastAbove ok 0 14 : Nat) - 6001

/-- The Heat Book's samples of a round: output power, temperature, VIN (R385). -/
def hbRound (s : State) : State :=
  { s with hb := { s.hb with
    hPow := vall s.hb.hPow fun p h =>
      let r := (txOf s p).rnd
      if r.2 = 0 then h
      else
        let c := clampI (-32767) 32766 (codeOfMw r.1 r.2)
        histAdd (binOf (-384) 64 c) c h
    hTemp := vall s.hb.hTemp fun i h =>
      let x := sensorOf s i
      match x.temp with
      | some t => if x.noRepl then h else histAdd (binOf (-320) 80 t) t h
      | none => h
    hVin := match hkValue s 88 with
      | some v => histAdd (binOf 4500 1000 (v / 1000)) (v / 1000) s.hb.hVin
      | none => s.hb.hVin } }

/-- A housekeeping round (R361). -/
def hkRound (s : State) : State :=
  let dc := s.tb.now - s.thm.roundAt
  let was := s
  let s := { s with thm := { s.thm with rounds := s.thm.rounds + 1 } }
  let s := quenchRound (sensorRound s)
  let s := forAll 8 s (groupRound dc)
  let s := heaterRound (fanRound s)
  let s := anlRound was (compRound s)
  let s := hbRound s
  { s with
    thm := { s.thm with roundAt := s.tb.now }
    tx := { s.tx with path := vall s.tx.path fun _ t => { t with rnd := (0, 0) } } }

/-- HK_ROUND. -/
def execHkRound (dt : Nat) (s : State) : Host.Outcome State Fault Refusal := .next (hkRound (arrive dt s))

/-! ### THM_CFG (R373) -/

/-- Field ranges of THM_CFG. -/
def thmCfgRange (d : Desc) : Bool :=
  dZero d 19 19 && dZero d 22 63 && match dB d 16 with
    | 0 => decide (dB d 17 ≤ 15 ∧ dH d 20 ≤ 3600)
    | 1 => decide (dB d 17 ≤ 1 ∧ dB d 18 = 0 ∧ dH d 20 = 0)
    | _ => false

/-- A named fan's land is assigned to Link Test (R56). -/
def fanAssigned (s : State) (fans : Nat) : Bool :=
  (List.range 4).any fun n => bit fans n && fanTest s n

/-- Refusal checks of THM_CFG (R373). -/
def thmCfgCheck (s : State) (c : Cmd) : Option Refuse :=
  let force := decide (dB c.d 16 = 0)
  firstRefuse [
    (!thmCfgRange c.d, cField),
    (force && s.thm.quench, 64),
    (!force && decide (dB c.d 17 = 1) && (List.range 4).any fun q => domOn s (10 + q), 65),
    (force && fanAssigned s (dB c.d 17), 66)]

/-- THM_CFG on acceptance (R373). -/
def thmCfgEffect (s : State) (c : Cmd) : State :=
  let s :=
    if dB c.d 16 = 0 then
      forBits 4 (dB c.d 17) s fun s f => modFan s f fun x =>
        if dH c.d 20 = 0 then { x with force := none }
        else
          let x := { x with force := some (dB c.d 18, s.tb.now + dH c.d 20 * 491520000) }
          { x with duty := if fanFull s x then 255 else dB c.d 18 }
    else hkNext { s with hka := { s.hka with test := decide (dB c.d 17 = 1) } } 159
  cmdDone s c

/-- THM_CFG (0x00A0). -/
def thmCfgDef : CmdDef where
  opcode := 0x00A0
  tick _ := .none
  check := thmCfgCheck
  effect := thmCfgEffect

/-- THM_CFG. -/
def execThmCfg (dt : Nat) (ref : CmdRef) (d : Desc) (s : State) : Host.Outcome State Fault Refusal :=
  .next (runCmd thmCfgDef dt ref d s)

/-- FAN_FORCE_END: the HOLD time of a force expires and the curve resumes (R365). -/
def execFanForceEnd (f : Fin 4) (s : State) : Host.Outcome State Fault Refusal :=
  .next (match (vget s.thm.fan f.val {}).force with
    | some x => modFan (arriveAt x.2 s) f.val fun y => { y with force := none }
    | none => arrive 0 s)

end Sys2Proof.Machine
end

