-- ==== Sys2Proof/Machine/Faults.lean ====
section
/-! DEFINITION. Faults and fuses (14), power-on (15) and control-port resets (03): UNIT_CTRL, retirements of paths at the slot tick, the
fuse writer, and what a reset leaves. -/

namespace Sys2Proof.Machine

/-! ### UNIT_CTRL (R376–R381) -/

/-- UNITS: bytes 20 – 27. -/
def unitMask (d : Desc) : Nat := dQ d 20

/-- Number of instances of a TYPE (R381). -/
def unitCount (ty : Nat) : Nat := [64, 8, 40, 6, 24].getD ty 0

/-- Field ranges of UNIT_CTRL (R381). -/
def unitCtrlRange (d : Desc) : Bool :=
  decide (dB d 16 ≤ 1 ∧ dB d 17 ≤ 4) && dZero d 18 19 && dZero d 28 63 && decide (unitMask d < 2 ^ unitCount (dB d 17))

/-- Refusal checks of UNIT_CTRL (R381). -/
def unitCtrlCheck (s : State) (c : Cmd) : Option Refuse :=
  let m := unitMask c.d
  let retire := decide (dB c.d 16 = 0)
  firstRefuse [
    (!unitCtrlRange c.d, cField),
    (retire && decide (dB c.d 17 = 1) && (List.range 8).all (fun i => bit m i || !((potOf s i).state == 0 || (potOf s i).state == 3)), 64),
    (retire && decide (dB c.d 17 = 3) && bit m 5, 65)]

/-- A unit is retired. -/
def unitRetired (s : State) (ty i : Nat) : Bool :=
  match ty with
  | 0 => (txOf s i).retired
  | 1 => (potOf s i).retired
  | 2 => (laneOf s i).retired
  | 3 => if i = 5 then s.syn.pllRetired else (synthOf s i).retired
  | _ => (sensorOf s i).retired

/-- The host retires a unit: the effect of a permanent fault, with no fault counted (R381). -/
def hostRetire (s : State) (ty i : Nat) : State :=
  match ty with
  | 0 => retirePath s i 2
  | 1 => noteRetired (modPot s i fun p => { p with state := 2, retired := true, testing := false, passed := false }) 1 i 2
  | 2 => synceUpdate (laneRetire s i 2)
  | 3 => synRetire s i 2
  | _ => noteRetired (modSensor s i fun x => { x with broken := true, retired := true, brokenRounds := 0, goodRounds := 0 }) 4 i 2

/-- The host re-enables a unit: its fault count 0, UNIT_RESTORED, and it is taken into use (R117, R376, R378, R379). -/
def hostRestore (s : State) (ty i : Nat) : State :=
  let s := match ty with
    | 0 => modTx s i fun t => { t with retired := false, faults := [] }
    | 1 => modPot s i fun p => { p with retired := false, state := 3, faults := [], retests := [] }
    | 2 =>
      let s := modLane s i fun x => { x with retired := false, retries := [] }
      if domOn s (laneDom i) ∧ clkOn s ∧ !inLts s i then startAttempt .first s i else s
    | 3 =>
      if i = 5 then { s with syn := { s.syn with pllRetired := false, pllFaults := [] } }
      else synSearch (modSynth s i fun y => { y with retired := false, faults := [], state := .off }) i
    | _ => modSensor s i fun x => { x with
        retired := false, broken := false, byRange := false, disagree := 0, brokenRounds := 0, goodRounds := 0, faults := [] }
  postUnit s 0x0E03 ty i 0

/-- UNIT_CTRL at its slot tick (R381). -/
def unitCtrlEffect (s : State) (c : Cmd) : State :=
  let ty := dB c.d 17
  let retire := decide (dB c.d 16 = 0)
  let l := (setBits 64 (unitMask c.d)).filter fun i => unitRetired s ty i != retire
  let s := l.foldl (fun s i => if retire then hostRetire s ty i else hostRestore s ty i) s
  cmdDone s { c with result := BitVec.ofNat 64 (maskOf l) }

/-- UNIT_CTRL (0x00B0). -/
def unitCtrlDef : CmdDef where
  opcode := 0x00B0
  tick _ := .slot
  check := unitCtrlCheck
  effect := unitCtrlEffect
  keys c := (setBits 64 (unitMask c.d)).map (keyOf 0x00B0 (dB c.d 17))
  strip c l := clearBits c 160 (l.map keyInst)

/-- UNIT_CTRL. -/
def execUnitCtrl (dt : Nat) (ref : CmdRef) (d : Desc) (s : State) : Host.Outcome State Fault Refusal :=
  .next (runCmd unitCtrlDef dt ref d s)

/-- A path re-enabled at this slot tick: EFF −2,560, the synchronising reset, Anneal trigger 5 (R250, R379); it stays disabled where the
fused bounds have no room for that EFF (R21; log 76). -/
def pathBack (s : State) (p : Nat) : State :=
  let fits := tokFits s
  anlTrigger (syncReset (modTx s p fun t => { t with retiredNow := false, en := t.en && fits, eff := -2560 }) p) 5

/-- Retirements and re-enablings of paths take effect at the slot tick: tokens, bias, the Crucible's mask, RET_COMP
(R197, R199, R379). -/
def pathsSlot (s : State) : State :=
  let moved := (List.range 64).filter fun p => (txOf s p).retired != (txOf s p).retiredNow
  let s := moved.foldl (fun s p => if (txOf s p).retired then modTx s p fun t => { t with retiredNow := true } else pathBack s p) s
  let mask := retiredMask s
  let s := { s with cru := { s.cru with
    regain := vmod s.cru.regain 0 fun b => b || decide (retMaskOf s 0 ≠ mask)
    retMask := vall s.cru.retMask fun d m => if d = 0 ∨ !domOn s 8 then BitVec.ofNat 64 mask else m } }
  if moved.isEmpty then s else biasForce (moved.foldl (fun s p => post s 0x0204 0 p mask) s)

/-! ### Fuses (R393, R395) -/

/-- Fuse b may be programmed with the writer: its field is not closed (R393, R395). -/
def fuseOpen (a : BitVec 4096) (b : Nat) : Bool :=
  let lock := fun i => !bit a.toNat i
  if 256 ≤ b ∧ b ≤ 511 then lock 2831
  else if 1536 ≤ b ∧ b ≤ 2615 then lock 2616
  else if 2688 ≤ b ∧ b ≤ 2822 then lock 2823
  else decide (b = 2616 ∨ b = 2823 ∨ b = 2831) || decide (2880 ≤ b ∧ b ≤ 2943)

/-- One fuse programmed: it reads 1 from then on, unless its field is closed. -/
def fuseBlow (a : BitVec 4096) (b : Nat) : BitVec 4096 := if fuseOpen a b then a ||| (1#4096 <<< b) else a

/-- FUSE_PROGRAM: fuses blown one after another; they are loaded at the next power-on reset. -/
def execFuseProgram (dt : Nat) (bits : List (Fin 4096)) (s : State) : Host.Outcome State Fault Refusal :=
  let s := arrive dt s
  .next { s with fus := { s.fus with array := bits.foldl (fun a b => fuseBlow a b.val) s.fus.array } }

/-! ### Power (R403, R404, R383, R391) -/

/-- What power-on reset leaves of the Heat Book: its flash, and the histograms, which cover the time since the last clear
(R382–R384, R391). -/
def hbPowerOn (h : Hb) (fuses : BitVec 4096) : Hb :=
  let worn := decide (8 ≤ tallyCount fuses)
  { heat := satTo 524288 (h.heat + 1), hours := h.hours, lastSnapHours := h.lastSnapHours, nonceCtr := h.nonceCtr + 1
    fail := worn, cause := if worn then 5 else 0
    next := h.next, recs := h.recs, clearLog := h.clearLog, clearNext := h.clearNext, snap := h.snap
    hPow := h.hPow, hTemp := h.hTemp, hVin := h.hVin, hLane := h.hLane, counts := h.counts }

/-- Power-on reset: the state after reset, with fuses loaded and straps latched, and what flash and fuses keep (R17, R403, R432). -/
def powerOn (st : Straps) (s : State) : State :=
  let z := State.reset
  { z with
    fus := { array := s.fus.array, loaded := s.fus.array }
    hb := hbPowerOn s.hb s.fus.array
    anl := { z.anl with copies := s.anl.copies, newest := s.anl.newest }
    gen := { z.gen with notx := st.notx, master := st.master, flaskId := st.flaskId.toNat, bootband := st.bootband.toNat }
    host := { z.host with mem := s.host.mem }
    pending := s.pending }

/-- POWER_ON_RESET. -/
def execPowerOnReset (dt : Nat) (straps : Straps) (s : State) : Host.Outcome State Fault Refusal :=
  .next (powerOn straps (arrive dt s))

/-- POWER_FAIL: PGOOD goes low (R404). -/
def execPowerFail (dt : Nat) (s : State) : Host.Outcome State Fault Refusal :=
  let s := arrive dt s
  .next { s with gen := { s.gen with pgood := false }, pwr := { s.pwr with powered := false } }

/-- CONTROL_PORT_RESET: FLR, hot reset, link down or PERST_N (R62, R432). -/
def execControlPortReset (dt : Nat) (kind : PortReset) (s : State) : Host.Outcome State Fault Refusal :=
  let s := portReset (arrive dt s)
  .next { s with gen := { s.gen with rst := s.gen.rst ||| (if kind = .flr then 2 else 4) } }

end Sys2Proof.Machine
end

