-- ==== Sys2Proof/Machine/Modes.lean ====
section
/-! DEFINITION. Service modes (02): MODE_SET and its refusals, a mode change at its slot tick, Link Test masks, the requests that
go to the flask master, the return from HLD, and the survey report. -/

namespace Sys2Proof.Machine

/-! ### What may be refused (R42, R43) -/

/-- A set of R42. -/
def legalSet (v : Nat) : Bool := decide (v < 64) && [0x00, 0x01, 0x03, 0x04, 0x05, 0x0C, 0x0D, 0x20].contains (v &&& 0x2F)

/-- Domains of the lanes of a mask that are not on or not clocked (R39, R43). -/
def lanesMissing (s : State) (mask : Nat) : Nat :=
  maskOf ([4, 5, 6].filter fun d => ((setBits 40 mask).any fun l => laneDom l == d) && !domUsable s d)

/-- The sets that a change leaves, with the carriers it names, and a new LTS mask: the refusals of R43. -/
def modeRefuse (s : State) (names : Nat) (sets : Nat → Nat) (mask : Option Nat) : Option Refuse :=
  let named := (List.range 2).filter (bit names)
  let gone := named.foldl (fun m c => m ||| missingFor s (sets c)) 0 ||| lanesMissing s (mask.getD 0)
  if named.any fun c => !legalSet (sets c) then some ⟨cMode, 0⟩
  else if gone ≠ 0 then some ⟨cDomain, gone⟩
  else if (match mask with
    | some m => !capacityOk s m sets
    | none => false) then some ⟨cCapacity, 0⟩
  else if txBarred s && named.any (fun c => bit (sets c) 4) then some ⟨cTx, 0⟩
  else if decide (2816 < txLatency s.tx.stages (maxM s)) && named.any (fun c => carriesDl (sets c)) then some ⟨cLatency, 0⟩
  else if named.any (fun c => bit (sets c) 0 && (centreOf s c).isNone) then some ⟨cNoBand, 0⟩
  else none

/-- NAMES of a MODE_SET. -/
def modeNames (d : Desc) : Nat := dB d 16

/-- The sets in force after a MODE_SET. -/
def modeSets (s : State) (d : Desc) (c : Nat) : Nat := (requestedSet d c).getD (setOf s c)

/-- The LTS mask a MODE_SET gives, if it gives one (R89). -/
def modeMask (d : Desc) : Option Nat := if bit (modeNames d) 2 then some (bits d.toNat 199 160) else none

/-- The change touches a flask-wide bit (R45); a suspended member clears FLK on its own (R229). -/
def modeFlask (s : State) (d : Desc) : Bool :=
  (List.range 2).any fun c => match requestedSet d c with
    | none => false
    | some v => decide ((v ^^^ setOf s c) &&& 0x2C ≠ 0) && (flaskWide s c || bit v 3) &&
        !(s.run.state == .suspended && hasMode s c 3 && !bit v 3)

/-- Field ranges of a MODE_SET (R89). -/
def modeRange (d : Desc) : Bool :=
  decide (modeNames d ≤ 7) && dB d 19 == 0 && dZero d 25 63 && (List.range 2).all fun c => decide ((requestedSet d c).getD 0 < 64)

/-- Refusal checks of MODE_SET; FLK_MASTER stands in the order of R43. -/
def modeCheck (s : State) (c : Cmd) : Option Refuse :=
  if !modeRange c.d then some ⟨cField, 0⟩
  else
    let r := modeRefuse s (modeNames c.d) (modeSets s c.d) (modeMask c.d)
    let master := modeFlask s c.d && s.run.state == .conflict
    match r with
    | some x => if master ∧ 5 < x.cause then some ⟨cMaster, 0⟩ else some x
    | none => if master then some ⟨cMaster, 0⟩ else none

/-! ### A change at its slot tick (R44, R47, R49) -/

/-- A lane enters or leaves LTS (R49, R112, R118). -/
def ltsMove (mask : Nat) (s : State) (l : Nat) : State :=
  let was := inLts s l
  let now := bit mask l
  if was = now then s
  else if now then
    let s := laneOut s l
    let s := modLane s l fun x => { x with
      retryAt := none, peer := false, state := if x.state = .retryWait then .down else x.state
      attempt := x.attempt.map fun a => { a with kind := .lts } }
    if (laneOf s l).untrained ∧ !(laneOf s l).retired then startAttempt .lts s l else s
  else
    modLane (testOff s l) l fun x => { x with state := .down, attempt := none }

/-- The LTS masks replaced; lanes that leave LTS and are not retired train (R49, R118). -/
def ltsApply (s : State) (mask : Nat) : State :=
  let old := ltsMask s
  let s := forAll 40 s (ltsMove mask)
  let s := { s with mod := { s.mod with ltsFh := BitVec.ofNat 16 mask, ltsCx := BitVec.ofNat 24 (mask >>> 16) } }
  let s := forBits 40 (old &&& (2 ^ 40 - 1 - mask)) s fun s l => if (laneOf s l).retired then s else startAttempt .first s l
  reassign (synceUpdate s)

/-- Work of the first two symbols of slot n that began before the change was accepted is discarded (R44). -/
def modeDiscard (s : State) (c k acceptAt : Nat) : State :=
  let l := [k, k + 1].filter fun j => isDl s j && decide (tickT s j - 26419 < acceptAt)
  { s with
    gen := { s.gen with lateCount := satTo 0xFFFF (s.gen.lateCount + l.length) }
    cru := { s.cru with dlWork := s.cru.dlWork.filter fun m => !(m.cc == c && l.contains m.sym) }
    fh := { s.fh with direct := s.fh.direct.filter fun m => !(m.cc == c && l.contains m.sym) } }

/-- The flask is left once no carrier is flask-wide and none is being formed (R46, R229). -/
def flaskOff (s : State) : State :=
  if flaskWide s 0 || flaskWide s 1 || s.run.state == .conflict || s.run.modeReqs.any (fun q => q.ref.isSome) then s
  else { s with run := { s.run with
    state := .off, inSvc := 0, ready := false, readyAt := [], joinSym := none, granted := 0, grantSym := none, anlReqs := []
    knownAt := none, missedTicks := 0, goodAligns := 0, badAligns := 0, lost := 0 } }

/-- BFS or FLK comes on at symbol k: of the tables of its slot and later ones the entries of that service go, so those slots have
the empty table until one is computed (R224). -/
def tablesGone (s : State) (k : Nat) (gone : Entry → Bool) : State :=
  let clear := fun (t : Table) =>
    if k / 14 ≤ t.slotAbs then { t with entries := t.entries.filter fun e => !gone e, want := none, lanes := [] } else t
  { s with run := { s.run with
    computed := (s.run.computed.map clear).filter fun t => decide (t.slotAbs < k / 14) || !t.entries.isEmpty } }

/-- A carrier's mode set changes at the slot tick of symbol k (R44, R47, R48). `host`: by a command of the host. -/
def applySet (s : State) (c new k acceptAt : Nat) (host : Bool) : State :=
  let old := setOf s c
  let s := if old ≠ new ∧ (carriesDl old || carriesDl new) then modeDiscard s c k acceptAt else s
  let dark := allDark s
  let survey := hasMode s 0 0 || hasMode s 1 0
  let bfs := anyBfs s
  let flk := anyFlk s
  let s := { s with mod := { s.mod with
    setOld := vmod s.mod.setOld c fun _ => BitVec.ofNat 6 old, setFrom := vmod s.mod.setFrom c fun _ => k } }
  let s := modModCc s c fun x => { x with
    set := BitVec.ofNat 6 new, resume := if bit new 5 && !bit old 5 then BitVec.ofNat 6 (old &&& 0x1F) else x.resume }
  let s := if bit old 2 && !bit new 2 then
      let s := dropCtrl (dropHeld s (fun m => m.cc == c && decide (k ≤ m.sym)) (some 9)) (fun m => m.cc == c && decide (k ≤ m.sym)) (some 9)
      (s.fh.books.filter fun b => b.cc == c).foldl (fun s b => closeBook s c b.ctrl b.id) s
    else if bit new 2 && !bit old 2 then openBook s c true 0 32
    else s
  let s := if bit old 1 && !bit new 1 then dropDirect s (fun m => m.cc == c && decide (k ≤ m.sym)) (some 9) else s
  let s := if bit new 0 && !survey then { s with mod := { s.mod with surveyFrames := 0 } } else s
  let s := if bit new 2 && !bfs then tablesGone s k (fun _ => true)
    else if bit new 3 && !flk then tablesGone s k (fun e => !e.isLocal)
    else s
  let s := if bit new 5 && !bit old 5 then hldArm s else s
  let s := if allDark s && !dark then sidleEnter { s with hld := { s.hld with darkDue := true } } else s
  let s := if bit old 5 && !bit new 5 then
      let s := sidleWake { s with pwr := { s.pwr with resumeSet := s.pwr.resumeSet &&& ~~~(1#2 <<< c) } }
      let s := if host then { s with hld := { s.hld with lastSrc := 5 } } else s
      let s := if hasMode s 0 5 || hasMode s 1 5 then s else { s with hld := { s.hld with state := .disarmed } }
      anlRelease s 7
    else s
  let s := if bit old 4 && (anlCarriers s).isEmpty && !anlHeld s then anlFail s 10 else s
  flaskOff s

/-- A carrier that a MODE_SET puts into HLD waits for an Anneal run in progress to end (R48). -/
def hldWaits (s : State) (d : Desc) : Bool :=
  s.anl.run.isSome && (List.range 2).any fun c => hasMode s c 4 && !hasMode s c 5 && bit ((requestedSet d c).getD 0) 5

/-- The LIMITED flag of a MODE_SET: AST or BFS under a transmit bar (R21, R51). -/
def modeLimited (s : State) (d : Desc) : Bool := txBarred s && (List.range 2).any fun c => decide ((requestedSet d c).getD 0 &&& 0x05 ≠ 0)

/-- The carriers and lanes of a MODE_SET take their new state. -/
def modeTake (s : State) (d : Desc) (k acceptAt : Nat) : State :=
  let s := forAll 2 s fun s c => match requestedSet d c with
    | none => s
    | some v => applySet s c (if flaskWide s c && !bit v 3 && s.run.state != .suspended && !hasMode s c 5 then (setOf s c &&& 0x2C) ||| (v &&& 0x13) else v) k acceptAt true
  match modeMask d with
  | none => s
  | some m => ltsApply s m

/-- MODE_SET at its slot tick. -/
def modeEffect (s : State) (c : Cmd) : State :=
  if modeNames c.d = 0 then cmdDone s c
  else if hldWaits s c.d then cmdPut s { c with stage := .bound .slot (symNow s + 14) false, effect := none }
  else cmdDone (modeTake s c.d (symNow s) c.acceptAt) { c with limited := modeLimited s c.d }

/-! ### Flask-wide requests (R45, R46) -/

/-- Flask-wide service begins to form: untrained cascade lanes train (R46, R112). -/
def flkStart (s : State) : State :=
  if s.run.state ≠ .off then s
  else
    let s := { s with run := { s.run with state := .discovering, ready := false, goodAligns := 0, badAligns := 0, missedTicks := 0, knownAt := none } }
    (List.range 24).foldl (fun s i =>
      let l := 16 + i
      if (laneOf s l).untrained ∧ !(laneOf s l).retired ∧ domOn s 6 ∧ !inLts s l then startAttempt .first s l else s) s

/-- A request leaves the list of flask-wide changes, refused with FLK_MASTER where it is this member's (R46). -/
def flkDeny (s : State) (q : FlkReq) : State := reqRefuse (setReqs s (s.run.modeReqs.filter fun x => !(x == q))) q ⟨cMaster, 0⟩

/-- Members that must answer the master's MODE frame: those in service or READY (R46). -/
def flkMembers (s : State) : Nat :=
  (s.run.inSvc.toNat ||| maskOf (s.run.readyAt.map Prod.fst)) &&& (2 ^ 16 - 1 - 2 ^ ownId s)

/-- Members asked for an answer to a change that still have to give it (R46); one that became READY later joins later (R205), and
one that has been lost is no longer asked. -/
def ackMissing (s : State) (q : FlkReq) : Nat := flkMembers s &&& q.asked.toNat &&& (2 ^ 16 - 1 - q.acks.toNat)

/-- Why an announced change is not applied at its tick: at the master an answer is missing; at any member the second check of R43
and R435 fails against the state just before the tick (log 46). -/
def reqRefusal (s : State) (q : FlkReq) : Option Refuse :=
  if q.back then none
  else if s.gen.master ∧ ackMissing s q ≠ 0 then some ⟨cMaster, 0⟩
  else modeRefuse s (flaskNames s q) (flaskSet s q) ((q.ref.bind (cmdOf s)).bind fun c => modeMask c.d)

/-- The settings of a MODE_SET that flask-wide changes due at the tick of symbol k make: the FLK master's decision prevails over
the host's command (R52, R76). -/
def flaskKeys (s : State) (k : Nat) : List Nat :=
  ((List.range 2).filter fun c => s.run.modeReqs.any fun q =>
    q.sym.any (fun t => decide (t ≤ k)) && bit (flaskNames s q) c && (reqRefusal s q).isNone).map fun c => keyOf 0x0010 0 c

/-- The master takes up the oldest request: refused at once where it would be refused here, else announced for the first slot
tick at least 491,520 counts on (R45, R46). -/
def flkTake (s : State) : State :=
  if s.run.modeReqs.any fun q => q.sym.isSome then s
  else match s.run.modeReqs.find? fun q => !q.back with
    | none => s
    | some q =>
      match modeRefuse s (flaskNames s q) (flaskSet s q) none with
      | some _ => flkDeny (outward s 5 (modeBytes s q cMaster)) q
      | none =>
        let q' := { q with
          sym := some (tickFrom s .slot (s.tb.now + 491520)), since := s.tb.now, acks := 0, sent := true
          asked := BitVec.ofNat 16 (flkMembers s) }
        outward (setReqs s (s.run.modeReqs.map fun x => if x = q then q' else x)) 5 (modeBytes s q' 0)

/-- Requests go on: at the master the next is taken up; a member sends its own to the master once it is READY (R45, R46). -/
def flkPump (s : State) : State :=
  if !(s.run.ready || s.run.state == .inService) then s
  else if s.gen.master then flkTake s
  else
    let l := s.run.modeReqs.filter fun q => q.ref.isSome && !q.sent
    l.foldl (fun s q => toMaster (setReqs s (s.run.modeReqs.map fun x => if x = q then { x with sent := true } else x)) 5 (modeBytes s q 0)) s

/-- A MODE_SET of a flask-wide bit goes to the master and stays in progress; while the flask forms, the ring's later commands wait
behind it (R45, R46). -/
def modeAccepted (s : State) (c : Cmd) : State :=
  if modeFlask s c.d then
    let c := { c with stage := .running none, late := false, note := BitVec.ofNat 64 (b2n (s.run.state != .inService)) }
    let q : FlkReq := { ref := some c.ref, origin := ownId s, payload := BitVec.ofNat 72 (bits c.d.toNat 199 128) }
    flkPump (flkStart (setReqs (cmdPut s c) (s.run.modeReqs ++ [q])))
  else s

/-- MODE_SET (0x0010). Each carrier's set is a setting, and so is the lane mask. -/
def modeSetDef : CmdDef where
  opcode := 0x0010
  tick c := if modeNames c.d = 0 then .none else .slot
  check := modeCheck
  refused s c r := if 1 ≤ r.cause ∧ r.cause ≤ 7 then modeCause s (modeNames c.d) r.cause else s
  effect := modeEffect
  accepted := modeAccepted
  keys c := (setBits 3 (modeNames c.d)).map fun i => keyOf 0x0010 0 i
  strip c l := clearBits c 128 (l.map keyInst)

/-- MODE_SET. -/
def execModeSet (dt : Nat) (ref : CmdRef) (d : Desc) (s : State) : Host.Outcome State Fault Refusal :=
  .next (runCmd modeSetDef dt ref d s)

/-! ### The return from HLD (R47) -/

/-- The domains of a carrier's RESUME set are on, and every synthesiser that the set uses reports lock (R47). -/
def resumeReady (s : State) (c : Nat) : Bool :=
  decide (missing s (setBits 14 (resumeDomsOf s c)) = 0) &&
    (decide ((vget s.mod.cc c ⟨0, 0, 0⟩).resume.toNat &&& 0x15 = 0) || synsLocked s)

/-- At the slot tick of symbol k: carriers that wake and are not flask-wide return to RESUME, each when its own domains are on
(R47). No command is accepted for such a return; DESIGN CHOICE (log 61): the tick of the return stands for the acceptance, so the
downlink windows of that slot that are open already are discarded and counted as R44 does for a command. -/
def resumeSlot (k : Nat) (s : State) : State :=
  forBits 2 s.pwr.resumeSet.toNat s fun s c =>
    if !hasMode s c 5 then { s with pwr := { s.pwr with resumeSet := s.pwr.resumeSet &&& ~~~(1#2 <<< c) } }
    else if flaskWide s c ∨ !resumeReady s c then s
    else applySet s c (vget s.mod.cc c ⟨0, 0, 0⟩).resume.toNat k s.tb.now false

/-! ### The survey (R59–R61, R161) -/

/-- A survey runs: a carrier in AST. -/
def surveyOn (s : State) : Bool := (hasMode s 0 0 || hasMode s 1 0) && domOn s 3

/-- NOBAND: the default band is blank and no span centre is set (R58). -/
def noBand (s : State) : Bool := bandBlank s && s.air.spanKhz.isNone

/-- One frame of a survey report (R60, R161). -/
def surveyFrame (s : State) (p : Port) (l : List SurveyPath) (i : Nat) : List Byte :=
  let path := fun j => let x := l.getD j {}; bytesLE 2 x.rssi.toNat ++ (List.range 256).flatMap fun b => bytesLE 2 (x.bins.getD b 0x8000).toNat
  let payload := bytesLE 1 s.mod.surveySeq ++ bytesLE 1 0xB0 ++ bytesBE 6 (todSec s) ++ bytesBE 4 (todNsec s) ++ bytesLE 8 0 ++
    bytesLE 1 i ++ bytesLE 1 (s.gen.bootband ||| b2n (noBand s) <<< 3 ||| b2n s.air.spanKhz.isSome <<< 4) ++ bytesLE 2 0 ++
    path (2 * i) ++ path (2 * i + 1)
  ethFrame (2 ^ 48 - 1) (portMac s p) none 0xAEFE (ecpriMsg 5 payload)

/-- Ports that a report goes out on: 25GBASE-R ports whose link is up. -/
def surveyPorts (s : State) : List Port :=
  ((List.range 16).filter fun l => laneIsUp s l && !bit s.lanes.four.toNat (l / 4)).map fun l => .single (Fin.ofNat 16 l)

/-- The report of a period: mirrored in the MOD registers and sent (R59, R60). -/
def surveyReport (s : State) (l : List SurveyPath) : State :=
  let sel := l.getD s.mod.surveySel {}
  let s := { s with mod := { s.mod with
    surveySeq := (s.mod.surveySeq + 1) % 256, surveyFrames := s.mod.surveyFrames - 10
    rssi := vall s.mod.rssi fun p _ => (l.getD p {}).rssi
    bins := vall s.mod.bins fun b _ => sel.bins.getD b 0x8000 } }
  (surveyPorts s).foldl (fun s p => (List.range 32).foldl (fun s i => send s (.frame p (surveyFrame s p l i))) s) s

/-- SURVEY_PERIOD_END: the frame tick that ends a period of 10 frames (R59). -/
def execSurveyPeriodEnd (powers : List SurveyPath) (s : State) : Host.Outcome State Fault Refusal :=
  let s := arrive 0 s
  .next (if surveyOn s ∧ 11 ≤ s.mod.surveyFrames then
      (if noBand s then { s with mod := { s.mod with surveyFrames := s.mod.surveyFrames - 10 } } else surveyReport s powers)
    else s)

/-- At a frame tick: the first one after the survey starts opens a period, every tenth after it ends one (R59). -/
def surveyFrameTick (s : State) : State :=
  if surveyOn s then { s with mod := { s.mod with surveyFrames := min 11 (s.mod.surveyFrames + 1) } }
  else { s with mod := { s.mod with surveyFrames := 0 } }

end Sys2Proof.Machine
end

