-- ==== Sys2Proof/Machine/Flask.lean ====
section
/-! DEFINITION. The flask (07): discovery and conflicts, alignment, control frames, flask-wide mode changes at their tick, losses,
guard-period grants, the tables of each slot, received Pour frames, LAYER_SET, and the copies an end member makes of received
messages. The layouts that R210 leaves to the device are those of log 12. -/

namespace Sys2Proof.Machine

/-! ### Events, conflicts, members (R203, R204, R231) -/

/-- FLK_STATE: 1 joined, 2 member lost, 3 master lost, 4 rejoined, 5 conflict (R231). -/
def flkEvent (s : State) (what code inst : Nat) : State := post s 0x0302 3 inst (what ||| code <<< 8 ||| symIdNow s <<< 32)

/-- A check of R204 fails: CONFLICT, and FLK is refused to this member's requests; at the master to everyone's. -/
def conflictSet (s : State) (code id : Nat) : State :=
  if s.run.state = .conflict then s
  else
    let mine := s.run.modeReqs.filter fun q => q.ref.isSome || s.gen.master
    let s := { s with run := { s.run with state := .conflict, conflict := code, conflictId := id, ready := false } }
    mine.foldl (fun s q => flkDeny (reqWithdraw s q) q) (flkEvent s 5 code id)

/-- A member heard of, at its chain position; the master checks it (R204). -/
def memberHeard (s : State) (id pos : Nat) : State :=
  let other := id == ownId s || s.run.members.any fun m => m.1 == id && m.2 != pos
  if s.gen.master && other then conflictSet s 3 id
  else if s.gen.master && s.run.expect ≠ 0 && !bit s.run.expect.toNat id then conflictSet s 4 id
  else { s with run := { s.run with members := sortBy (fun a b => decide (a.2 < b.2)) (alSet s.run.members id pos) } }

/-- Devices beyond on a side; none there where nothing is connected (R202). -/
def beyondOf (s : State) (d : Nat) : Nat := if (sideOf s d).connected = some false then 0 else (sideOf s d).beyond

/-- A master lies on a side. -/
def masterOn (s : State) (d : Nat) : Bool := (sideOf s d).masterBeyond

/-- TWO_MASTERS as R204 states it, seen from here. -/
def twoMasters (s : State) : Bool := (masterOn s 0 && masterOn s 1) || (s.gen.master && (masterOn s 0 || masterOn s 1))

/-- The position changes: what is known of the others moves with it, and is reported again (R203, R210). -/
def positionSet (s : State) (p : Nat) : State :=
  if p = s.run.position then s
  else { s with run := { s.run with
    position := p, resSent := 0
    members := s.run.members.map fun m => (m.1, ((m.2 : Int) + p - s.run.position).toNat) } }

/-- A member that knows the chain and its master aligns; the master itself is ready at once (R205). -/
def alignStart (s : State) : State :=
  if s.run.state ≠ .discovering then s
  else if s.gen.master then
    flkPump { s with run := { s.run with
      state := .aligning, ready := true, masterId := ownId s, inSvc := BitVec.ofNat 16 (1 <<< ownId s) } }
  else if (masterSide s).isSome then { s with run := { s.run with state := .aligning, goodAligns := 0, badAligns := 0 } }
  else s

/-- What the two sides say of the chain: the position from the Cope neighbour's BEAT, the length once both sides are known
(R202, R203). -/
def chainUpdate (s : State) : State :=
  let b0 := beyondOf s 0
  let b1 := beyondOf s 1
  let s := if b0 = 0x1F then s else positionSet s (if (sideOf s 0).connected = some false then 0 else (sideOf s 0).nbPos + 1)
  if b0 = 0x1F ∨ b1 = 0x1F then
    { s with run := { s.run with chainLen := 0, knownAt := if s.run.state = .discovering then none else s.run.knownAt } }
  else
    let s := { s with run := { s.run with chainLen := 1 + b0 + b1, knownAt := some (s.run.knownAt.getD s.tb.now) } }
    let s := [0, 1].foldl (fun s d => match (sideOf s d).nbId with
      | some id => memberHeard s id (if d = 0 then s.run.position - 1 else s.run.position + 1)
      | none => s) s
    alignStart s

/-- BEAT as sent on a side (R203, R210). -/
def beatBytes (s : State) (d : Nat) : List Byte :=
  let f := 1 - d
  bytesLE 4 (ownId s ||| b2n s.gen.master <<< 4 ||| s.run.position <<< 5 ||| beyondOf s f <<< 9 ||| b2n (s.gen.master || masterOn s f) <<< 14) ++
    bytesLE 4 (sideUp s d)

/-- Every UP cascade lane sends a BEAT (R203). -/
def beats (s : State) : State :=
  [0, 1].foldl (fun s d => forBits 12 (sideUp s d) s fun s l => sendPour s d l 2 1 (symIdNow s) 0 0 (beatBytes s d)) s

/-- A BEAT received on a side (R203, R204). -/
def beatTake (s : State) (d : Nat) (bs : List Byte) : State :=
  let w := leAt bs 0 4
  let far := bits w 13 9
  let s := modSide s d fun x => { x with
    nbId := some (bits w 3 0), nbPos := bits w 8 5, masterBeyond := bit w 14, connected := some true
    beyond := if far = 0x1F then 0x1F else far + 1 }
  let s := if bit w 4 then { s with run := { s.run with masterId := bits w 3 0 } } else s
  if twoMasters s then conflictSet s 1 (bits w 3 0) else chainUpdate s

/-! ### Losses (R228, R229) -/

/-- A member suspends its FLK carriers (R229). -/
def flkSuspend (s : State) : State :=
  let s := { s with run := { s.run with
    state := .suspended, ready := false, joinSym := none, goodAligns := 0, badAligns := 0, lost := s.run.lost ||| BitVec.ofNat 16 (1 <<< ownId s) } }
  let s := { s with tb := { s.tb with phaseLeft := 0, stepDue := none } }
  let s := forAll 2 s fun s c =>
    if hasMode s c 3 then dropUplink (dropCtrl (dropHeld s (fun m => m.cc == c) (some 9)) (fun m => m.cc == c) (some 9)) (fun m => m.cc == c) 18
    else s
  flkEvent s 3 0 s.run.masterId

/-- The master-facing side is out of the distribution, or two slot ticks have passed without a TICK (R229). -/
def masterLost (s : State) : Bool :=
  decide (3 ≤ s.run.missedTicks) || (match masterSide s with
    | some d => !(sideOf s d).linked
    | none => true)

/-- At a symbol tick: a member in service that has lost its master suspends; one whose master is back aligns again (R229). -/
def suspendSymbol (s : State) : State :=
  if s.gen.master then s
  else if s.run.state = .inService ∧ masterLost s then flkSuspend s
  else if s.run.state = .suspended ∧ !masterLost s ∧ s.run.missedTicks = 0 then
    { s with run := { s.run with state := .aligning, goodAligns := 0, badAligns := 0 } }
  else s

/-- Which side a position lies on. -/
def sideToward (s : State) (pos : Nat) : Nat := if pos < s.run.position then 0 else 1

/-- A member's table in TABLE frames of at most 64 entries (R210, R224). -/
def sendTable (s : State) (t : Table) : State :=
  match s.run.members.find? fun m => m.1 == t.member with
  | none => s
  | some m =>
    (List.range (max 1 ((t.entries.length + 63) / 64))).foldl (fun s i =>
      sendCtl s (sideToward s m.2) 3 (bytesLE 4 t.member ++ tableHead s t i t.flags.toNat ++
        ((t.entries.drop (64 * i)).take 64).flatMap entryBytes)) s

/-- The tables of slot n go to the other members. -/
def sendTables (s : State) (n : Nat) : State :=
  (s.run.computed.filter fun t => t.slotAbs == n && !(t.member == ownId s)).foldl sendTable s

/-- The tables of slot n computed again by the master, marked REVISED if they were published before (R228). -/
def recompute (s : State) (n : Nat) (revised : Bool) : State :=
  let s := computeTables n s
  let s := { s with run := { s.run with computed := s.run.computed.map fun t =>
    if t.slotAbs = n ∧ revised then { t with flags := t.flags ||| 2 } else t } }
  sendTables s n

/-- The master learns that members are out of reach (R228). -/
def membersLost (s : State) (gone : List Nat) : State :=
  let gone := gone.filter fun m => bit s.run.inSvc.toNat m || s.run.readyAt.any fun r => r.1 == m
  if gone.isEmpty then s
  else
    let was := s.run.inSvc
    let mask := BitVec.ofNat 16 (maskOf gone)
    let s := { s with run := { s.run with
      inSvc := s.run.inSvc &&& ~~~mask, lost := s.run.lost ||| mask
      readyAt := s.run.readyAt.filter fun r => !gone.contains r.1, anlReqs := s.run.anlReqs.filter fun m => !gone.contains m.1 } }
    let s := gone.foldl (fun s m => flkEvent s 2 0 m) s
    let j := symNow s / 14
    if was &&& mask = 0 ∨ !isFlaskMaster s ∨ !runnerOn s then s
    else if s.tb.now + 61440 ≤ tickT s (14 * (j + 1)) then recompute (recompute s (j + 2) true) (j + 3) false
    else recompute s (j + 3) false

/-- A side is lost at a position: the members beyond it are out of the master's reach. -/
def sideLost (s : State) (pos d : Nat) : State :=
  membersLost s ((s.run.members.filter fun m => if d = 0 then decide (m.2 < pos) else decide (pos < m.2)).map Prod.fst)

/-- At a symbol tick: a side that left or joined the distribution since the last one (R228). -/
def linkSymbol (s : State) (d : Nat) : State :=
  let now := decide (sideLanes s d ≠ 0)
  let was := (sideOf s d).linked
  if now = was then s
  else
    let s := modSide s d fun x => if now then { x with linked := true } else { x with linked := false, nbId := none, masterBeyond := false, beyond := 0x1F }
    if s.run.state = .off ∨ s.run.knownAt = none then s
    else if s.gen.master then (if now then s else sideLost s s.run.position d)
    else toMaster s 4 (statusBytes s 2 0 (d ||| b2n now <<< 1))

/-! ### Reports and requests of a member (R205, R210, R230) -/

/-- STATUS READY, with the resources of the member (R205, R210). -/
def sendReady (s : State) : State := toMaster { s with run := { s.run with resSent := ownResources s } } 4 (statusBytes s 1 0 (ownResources s).toNat)

/-- STATUS RESOURCES when they have changed (R183, R210). -/
def resSymbol (s : State) : State :=
  if s.gen.master ∨ s.run.state = .off ∨ s.run.state = .conflict ∨ s.run.knownAt = none ∨ ownResources s = s.run.resSent then s
  else toMaster { s with run := { s.run with resSent := ownResources s } } 4 (statusBytes s 3 0 (ownResources s).toNat)

/-- WEIGHT_LOAD (0x0050). Its rows reach the bank in the fill of its symbol; its record is written at the work tick; a
change of granularity is reported to the master at once (R183). -/
def weightLoadDef : CmdDef where
  opcode := 0x0050
  tick := weightTick
  check := weightLoadCheck
  effect := cmdDone
  bind := weightBind
  accepted s c := resSymbol (weightAccept s c)
  refused s c _ := { s with cru := { s.cru with loads := s.cru.loads.filter fun l => !(l.ref == c.ref) } }

/-- WEIGHT_LOAD. -/
def execWeightLoad (dt : Nat) (ref : CmdRef) (d : Desc) (s : State) : Host.Outcome State Fault Refusal :=
  .next (runCmd weightLoadDef dt ref d s)

/-- The side that a run of Anneal names to the master: 0 none, 1 Cope, 2 Drag (R335). -/
def anlSideCode (s : State) : Nat :=
  match s.anl.run.bind (·.edge) with
  | some d => d.val + 1
  | none => 0

/-- A member's request for a guard period takes its place among those of the master (R230). -/
def anlAsked (s : State) (id side : Nat) : State :=
  { s with run := { s.run with
    anlReqs := if s.run.anlReqs.any fun r => r.1 == id then s.run.anlReqs.map fun r => if r.1 = id then (id, side) else r
      else s.run.anlReqs ++ [(id, side)] } }

/-- A run that waits for a guard period asks the master for one, with the side of an edge run (R48, R230, R335). -/
def anlAskSymbol (s : State) : State :=
  let waits := s.anl.state = .waiting ∨ s.anl.state = .meas1 ∨ s.anl.state = .meas2
  if !anyFlk s ∨ s.anl.asked ∨ s.anl.run.isNone ∨ !waits then s
  else
    let s := { s with anl := { s.anl with asked := true } }
    if s.gen.master then anlAsked s (ownId s) (anlSideCode s)
    else toMaster s 4 (statusBytes s 4 (anlSideCode s) 0)

/-- A return from HLD: each member reports ready once, and the master announces the tick when all have (R47). -/
def backSymbol (s : State) : State :=
  match s.run.modeReqs.find? fun q => q.back && q.sym.isNone with
  | none => s
  | some q =>
    let me := BitVec.ofNat 16 (1 <<< ownId s)
    let put := fun (s : State) (x : FlkReq) => setReqs s (s.run.modeReqs.map fun y => if y = q then x else y)
    let ready := (setBits 2 (flaskNames s q)).all (fun c => !hasMode s c 5 || resumeReady s c) || q.acks &&& me != 0
    if !ready then s
    else if !s.gen.master then (if q.acks &&& me = 0 then sendReady (put s { q with acks := q.acks ||| me }) else s)
    else
      let q' := { q with acks := q.acks ||| me }
      if s.run.inSvc &&& ~~~q'.acks ≠ 0 then put s q'
      else
        let q'' := { q' with sym := some (tickFrom s .slot (s.tb.now + 491520)), since := s.tb.now }
        outward (put s q'') 5 (modeBytes s q'' 0)

/-! ### Alignment (R211, R212) -/

/-- A stamp of the device's own time of day, 0.5 ps, `phase` after the present count (R211). -/
def alignStamp (s : State) (phase : Nat) : Nat := (s.tb.tod * 2000 / todNs + phase) % 2 ^ 64

/-- A CLASS 3 frame whose first bit came `phase` after the present count: a request is answered with its receive stamp and the
stamp at which the answer is sent; the answer gives the lane's θ in 0.25 ps (R211). -/
def alignTake (s : State) (d lane phase : Nat) (bs : List Byte) : State :=
  let here := alignStamp s phase
  if leAt bs 0 4 = 0 then
    sendPour s d lane 3 0 (symIdNow s) 0 0
      (bytesLE 4 1 ++ bytesLE 8 here ++ bytesLE 8 (here + Config.alignTurn (drawKey s + lane)))
  else match (sideOf s d).t1.find? fun x => x.1 == lane with
    | none => s
    | some (_, t1) =>
      let t2 := leAt bs 4 8
      let t3 := leAt bs 12 8
      let th := (2 * (((here : Int) - t3) - ((t2 : Int) - t1)) + (sideOf s d).asym) / 2
      modSide s d fun x => { x with t1 := x.t1.filter (fun y => !(y.1 == lane)), thetas := x.thetas ++ [th] }

/-- The member acts on a frame's median θ (R212). -/
def alignAct (s : State) (d : Nat) (th : Int) : State :=
  if s.run.state = .aligning then
    let good := if th.natAbs ≤ 40 then s.run.goodAligns + 1 else 0
    let s := { s with
      run := { s.run with goodAligns := good, ready := s.run.ready || decide (3 ≤ good) }
      tb := { s.tb with stepDue := if th = 0 then none else some (-(th * todNs) / 4000) } }
    if good = 3 then flkPump (sendReady s) else s
  else
    let s := { s with tb := { s.tb with phaseLeft := clampI (-8) 8 (-th) * 1966080 } }
    let s := if 100 < th.natAbs then post s 0x0303 5 d (tc 16 (clampI (-32767) 32767 th)) else s
    let bad := if 1000 < th.natAbs then s.run.badAligns + 1 else 0
    let s := { s with run := { s.run with badAligns := bad } }
    if 3 ≤ bad ∨ 40000 < th.natAbs then
      let s := flkSuspend s
      { s with run := { s.run with state := .aligning } }
    else s

/-- At a frame tick: θ of the frame that ends, and the requests of the next one (R211, R212). -/
def flaskFrame (s : State) : State :=
  if s.gen.master ∨ (s.run.state ≠ .aligning ∧ s.run.state ≠ .inService) then s
  else match masterSide s with
    | none => s
    | some d =>
      let l := sortBy (fun (a b : Int) => decide (a < b)) (sideOf s d).thetas
      let s := match l[(l.length - 1) / 2]? with
        | none => { s with run := { s.run with goodAligns := 0 } }
        | some th =>
          alignAct (modSide s d fun x => { x with
            alignLanes := l.length, theta := BitVec.ofNat 16 (tc 16 (clampI (-32767) 32767 th)) }) d th
      let now := alignStamp s 0
      let s := modSide s d fun x => { x with thetas := [], t1 := (setBits 12 (sideUp s d)).map fun i => (i, (now : Int)) }
      let s := modSide s (1 - d) fun x => { x with theta := 0x8000 }
      forBits 12 (sideUp s d) s fun s i => sendPour s d i 3 0 (symIdNow s) 0 0 (bytesLE 4 0)

/-! ### Flask-wide changes at their slot tick (R45–R47, R205) -/

/-- The FLK carriers and their flask-wide bits, for a member that joins (R205). -/
def joinPayload (s : State) : BitVec 72 :=
  BitVec.ofNat 72 ((List.range 2).foldl (fun n c => if hasMode s c 3 then n ||| 1 <<< c ||| (setOf s c &&& 0x2C) <<< (8 * (1 + c)) else n) 0)

/-- The master tells a READY member the tick at which it joins: the first slot tick at least 491,520 counts after its READY
arrived (R205). -/
def joinSend (s : State) (id since : Nat) : State :=
  let q : FlkReq := { origin := id, payload := joinPayload s, sym := some (tickFrom s .slot (since + 491520)) }
  let bs := modeBytes s q 0
  outward s 5 (bs.take 12 ++ bytesLE 4 (leAt bs 12 4 ||| 1 <<< 21) ++ bs.drop 16)

/-- This member enters service; the master takes with it every member that was READY when the change was announced, and tells
those that have become READY since when they join (R45, R205). -/
def serviceStart (s : State) (asked : BitVec 16) : State :=
  if s.run.state = .inService ∨ !s.run.ready ∨ !anyFlk s then s
  else
    let me := ownId s
    let back := bit s.run.lost.toNat me
    let s := { s with run := { s.run with state := .inService, joinSym := none, lost := s.run.lost &&& ~~~(BitVec.ofNat 16 (1 <<< me)) } }
    let s := flkEvent s (if back then 4 else 1) 0 me
    if s.gen.master then
      let l := (s.run.readyAt.map Prod.fst).filter fun m => bit asked.toNat m
      let s := l.foldl (fun s m => flkEvent s (if bit s.run.lost.toNat m then 4 else 1) 0 m) s
      let s := { s with run := { s.run with
        inSvc := s.run.inSvc ||| BitVec.ofNat 16 (maskOf (me :: l)), lost := s.run.lost &&& ~~~(BitVec.ofNat 16 (maskOf l))
        readyAt := s.run.readyAt.filter fun r => !l.contains r.1 } }
      s.run.readyAt.foldl (fun s r => joinSend s r.1 r.2) s
    else s

/-- The MODE_SET of this member that a request carries out: its lane mask, its flags and its record. -/
def reqDone (s : State) (q : FlkReq) (k : Nat) : State :=
  match q.ref.bind (cmdOf s) with
  | none => s
  | some c =>
    let s := match modeMask c.d with
      | some m => ltsApply s m
      | none => s
    cmdDone s { cmdAtTick s c k with limited := modeLimited s c.d }

/-- A flask-wide entry to HLD ends an Anneal run of that carrier (R48). -/
def hldAborts (s : State) (c new : Nat) : State :=
  if s.anl.run.isSome && hasMode s c 4 && !hasMode s c 5 && bit new 5 then anlFail s 13 else s

/-- One announced change at the tick of symbol k, or its refusal by the second check against the state `pre` before the tick; the
master then withdraws it (R45, R46, R435). -/
def reqApply (k : Nat) (pre s : State) (q : FlkReq) : State :=
  match reqRefusal pre q with
  | some r =>
    let s := if s.gen.master then outward s 5 (modeBytes s q cMaster) else s
    reqRefuse (setReqs s (s.run.modeReqs.filter fun x => !(x == q))) q r
  | none =>
    let s := setReqs s (s.run.modeReqs.filter fun x => !(x == q))
    let s := forBits 2 (flaskNames s q) s fun s c =>
      applySet (hldAborts s c (flaskSet s q c)) c (flaskSet s q c) k 0 (q.ref.isSome && !q.back)
    serviceStart (reqDone s q k) q.asked

/-- A request of this member that another one's change has already met: its local bits take effect now (R45, R46). -/
def reqMet (k : Nat) (s : State) (q : FlkReq) : State :=
  let want := fun c => bits q.payload.toNat (8 * c + 13) (8 * c + 8)
  let met := (setBits 2 q.payload.toNat).all fun c => decide ((want c ^^^ setOf s c) &&& 0x2C = 0)
  if s.run.state = .inService ∧ q.ref.isSome ∧ q.sym.isNone ∧ !q.back ∧ met then
    let s := reqWithdraw (setReqs s (s.run.modeReqs.filter fun x => !(x == q))) q
    reqDone (forBits 2 q.payload.toNat s fun s c => applySet s c (want c) k 0 true) q k
  else s

/-- READY members whose join tick this is (R205). -/
def joinSlot (k : Nat) (s : State) : State :=
  if !s.gen.master ∨ s.run.state ≠ .inService then s
  else
    let l := (s.run.readyAt.filter fun r => decide (r.2 + 491520 ≤ tickT s k)).map Prod.fst
    let s := l.foldl (fun s m => flkEvent s (if bit s.run.lost.toNat m then 4 else 1) 0 m) s
    { s with run := { s.run with
      inSvc := s.run.inSvc ||| BitVec.ofNat 16 (maskOf l), lost := s.run.lost &&& ~~~(BitVec.ofNat 16 (maskOf l))
      readyAt := s.run.readyAt.filter fun r => !l.contains r.1 } }

/-- The flask-wide changes of a slot tick. -/
def flaskApply (k : Nat) (pre s : State) : State :=
  let s := (s.run.modeReqs.filter fun q => q.sym.any fun t => decide (t ≤ k)).foldl (reqApply k pre) s
  let s := s.run.modeReqs.foldl (reqMet k) s
  flkPump (joinSlot k s)

/-! ### Guard periods (R230) -/

/-- The first symbol of a guard period that starts in slot n. -/
def guardStart (s : State) (n : Nat) : Option Nat :=
  ((List.range 14).map (14 * n + ·)).find? fun k => isGuard s k && !isGuard s (k - 1)

/-- A member's chain position. -/
def posOf (s : State) (m : Nat) : Nat := if m = ownId s then s.run.position else alGet s.run.members m

/-- The members a request is granted for: its own, and with a side the neighbour there (R335). -/
def grantGroup (s : State) (r : Nat × Nat) : List Nat :=
  let p := if r.2 = 1 then posOf s r.1 - 1 else posOf s r.1 + 1
  let all := (ownId s, s.run.position) :: s.run.members
  r.1 :: (if r.2 = 0 then [] else (all.find? fun m => m.2 == p && m.1 != r.1).toList.map (·.1))

/-- Members granted a guard period together: the oldest requests first, none for a member beside one already granted; the pair of an
edge run counts as one (R230, R335). -/
def grantPick (s : State) : List Nat :=
  s.run.anlReqs.foldl (fun l r =>
    let new := grantGroup s r
    if l.any fun g => new.any fun m => decide (g = m ∨ posOf s g + 1 = posOf s m ∨ posOf s m + 1 = posOf s g) then l else l ++ new) []

/-- At slot tick n: the grant for this slot comes into force, and the master grants the guard period of the next one. -/
def grantSlot (n : Nat) (s : State) : State :=
  let s := match s.run.grantNext with
    | some (k, m) =>
      if k / 14 = n then { s with run := { s.run with granted := m, grantSym := some k, grantNext := none } }
      else if k / 14 < n then { s with run := { s.run with granted := 0, grantSym := none, grantNext := none } }
      else s
    | none => if isGuard s (14 * n) && isGuard s (14 * n - 1) then s else { s with run := { s.run with granted := 0, grantSym := none } }
  if !isFlaskMaster s ∨ s.run.anlReqs.isEmpty then s
  else match guardStart s (n + 1) with
    | none => s
    | some k =>
      let l := grantPick s
      let s := { s with run := { s.run with
        grantNext := some (k, BitVec.ofNat 16 (maskOf l)), anlReqs := s.run.anlReqs.filter fun r => !l.contains r.1 } }
      outward s 6 (bytesLE 4 (symId s k) ++ bytesLE 2 (maskOf l) ++ bytesLE 2 0)

/-! ### The tables of a slot (R155, R222–R226, R228) -/

/-- Downlink flows with a pool at this member under a table: carrier and layer (R150, R155). -/
def poolFlows (s : State) (t : Table) : List (Nat × Nat) :=
  (t.entries.filter fun e => e.dir == 0 && e.isEnd && !e.shed).flatMap fun e =>
    ((setBits 2 e.ccs.toNat).filter fun c => hasMode s c 2 && (hasMode s c 3 != e.isLocal)).map fun c => (c, e.layer)

/-- Books open and close as a table comes into force (R155). -/
def tableBooks (s : State) (fs : List (Nat × Nat)) : State :=
  let s := (s.fh.books.filter fun b => !b.ctrl && b.closing == 0 && !fs.contains (b.cc, b.id)).foldl (fun s b => closeBook s b.cc false b.id) s
  fs.foldl (fun s f => openBook s f.1 false f.2 (fhOf s f.1).pool) s

/-- The flask part of this member's table of slot n has come whole; that of a member in service whose table in force has such a
part must (R224). -/
def tableWhole (s : State) (t : Table) : Bool :=
  s.gen.master || !anyFlk s || s.run.state != .inService || (s.run.table.bind (·.want)).isNone ||
    t.want.any fun w => decide (w ≤ (t.entries.filter fun e => !e.isLocal).length)

/-- The table of slot n − 1 stays in force as that of slot n, and is published again (R31, R32, R225). -/
def tableLate (n : Nat) (s : State) (t : Table) : State :=
  let t := { t with slotAbs := n, flags := (t.flags &&& 8) ||| 1 }
  let s := { s with
    run := { s.run with table := some t, computed := s.run.computed.filter (fun x => !(x.member == ownId s && x.slotAbs == n)) ++ [t] }
    gen := { s.gen with runLate := true, lateCount := satTo 0xFFFF (s.gen.lateCount + 1) } }
  postTable (post s 0x0010 11 2 (0xFF ||| slotId s n <<< 32)) t t.flags.toNat

/-- The table of slot n in force (R224, R226); `late`: its computation, or at another member than the master its transfer, is not
complete at the slot tick (R31). -/
def tableForce (n : Nat) (late : Bool) (s : State) : State :=
  let t := tableFor s (ownId s) n
  let s := match s.run.table, t with
    | some old, some t => if late || !tableWhole s t then tableLate n s old else { s with run := { s.run with table := some t } }
    | _, _ => { s with run := { s.run with table := t } }
  let s := tableBooks s ((s.run.table.map (poolFlows s)).getD [])
  match s.run.table with
  | some t => if s.gen.master ∨ !anyFlk s ∨ t.master = 0xFF then s else { s with run := { s.run with inSvc := t.inSvc } }
  | none => s

/-- A table published before and revised since is published again one slot before it (R228). -/
def tableAgain (n : Nat) (s : State) : State :=
  match tableFor s (ownId s) n with
  | some t => if t.flags.getLsbD 1 then publishTable n s else s
  | none => s

/-- Runner's work at slot tick n. -/
def tableSlot (n : Nat) (late : Bool) (s : State) : State :=
  let s := dealSlot (tableForce n late s) n
  let s := publishTable (n + 2) (tableAgain (n + 1) s)
  let s := { s with run := { s.run with computed := s.run.computed.filter fun t => decide (n ≤ t.slotAbs + 1) } }
  let s := computeTables (n + 3) s
  if isFlaskMaster s then sendTables s (n + 3) else s

/-! ### The ticks of the flask -/

/-- What the flask does at a symbol tick, after the changes due at it. -/
def flaskSymbol (s : State) : State :=
  let s := if s.run.state = .off ∧ (flaskWide s 0 ∨ flaskWide s 1) then flkStart s else s
  let s := linkSymbol (linkSymbol s 0) 1
  let s := suspendSymbol (if s.run.state = .discovering then chainUpdate s else s)
  beats (backSymbol (anlAskSymbol (resSymbol s)))

/-- What the flask does at a slot tick, the tick of symbol k: mode changes, tables, grants, TICK (R210, R229); `pre` is the state
before the tick. -/
def flaskSlot (k : Nat) (late : Bool) (pre s : State) : State :=
  let n := k / 14
  let s := { s with run := { s.run with missedTicks := if s.gen.master ∨ s.run.state = .off then 0 else s.run.missedTicks + 1 } }
  let s := grantSlot n (tableSlot n late (flaskApply k pre s))
  if s.gen.master then
    outward s 2 (bytesLE 6 (todSec s) ++ bytesLE 2 0 ++ bytesLE 4 ((s.run.table.map (·.seq)).getD 0))
  else s

/-! ### Control frames received (R210) -/

/-- A control frame sent on, on the far side, as it came. DESIGN CHOICE (log 62): it keeps the SYMBOL_ID of its first sender. -/
def passOn (s : State) (d sub symid : Nat) (bs : List Byte) : State :=
  match sideLane s (1 - d) with
  | none => s
  | some l => sendPour s (1 - d) l 2 sub symid 0 0 bs

/-- One TABLE frame for this member: its entries join the LOCAL ones (R224, R225). -/
def tableTake (s : State) (bs : List Byte) : State :=
  let h := bs.drop 4
  let n := symNamed s (14 * (symNow s / 14)) (bits (leAt h 0 4) 18 0) / 14
  let part := bits (leAt h 4 2) 15 11
  let old := (tableFor s (ownId s) n).getD { member := ownId s, slotAbs := n }
  let keep := if part = 0 then old.entries.filter (·.isLocal) else old.entries
  let new := (List.range ((h.length - 16) / 12)).map fun i => entryRead (h.drop (16 + 12 * i))
  let key := fun (e : Entry) => [(e.dir : Int), (e.layer : Int), (b2n e.isLocal : Int)]
  let t : Table := { old with
    want := some (bits (leAt h 4 2) 10 0), flags := BitVec.ofNat 8 (leAt h 6 1), master := BitVec.ofNat 8 (leAt h 7 1), inSvc := BitVec.ofNat 16 (leAt h 8 2), seq := leAt h 12 4
    entries := sortBy (fun a b => keyLt (key a) (key b)) (keep ++ new) }
  { s with run := { s.run with
    masterId := leAt h 7 1 % 16
    computed := s.run.computed.filter (fun x => !(x.member == ownId s && x.slotAbs == n)) ++ [t] } }

/-- A member is READY: it answers a return from HLD, or waits for the tick at which it joins (R47, R205). -/
def readyTake (s : State) (id : Nat) : State :=
  match s.run.modeReqs.find? fun q => q.back && q.sym.isNone with
  | some q => if bit s.run.inSvc.toNat id then
      setReqs s (s.run.modeReqs.map fun x => if x = q then { q with acks := q.acks ||| BitVec.ofNat 16 (1 <<< id) } else x)
    else { s with run := { s.run with readyAt := alSet s.run.readyAt id s.tb.now } }
  | none =>
    let s := { s with run := { s.run with
      readyAt := alSet s.run.readyAt id s.tb.now, inSvc := s.run.inSvc &&& ~~~(BitVec.ofNat 16 (1 <<< id)) } }
    if s.run.state ≠ .inService then s else joinSend s id s.tb.now

/-- A member's answer to the change in progress (R46). -/
def ackTake (s : State) (id cause : Nat) : State :=
  match s.run.modeReqs.find? fun q => q.sym.isSome && !q.back with
  | none => s
  | some q =>
    if cause = 0 then setReqs s (s.run.modeReqs.map fun x => if x = q then { q with acks := q.acks ||| BitVec.ofNat 16 (1 <<< id) } else x)
    else flkPump (flkDeny (outward s 5 (modeBytes s q cMaster)) q)

/-- STATUS at the master (R210). -/
def statusTake (s : State) (bs : List Byte) : State :=
  let id := leAt bs 2 1 % 16
  let pos := leAt bs 3 1
  let rest := BitVec.ofNat 1184 (leAt bs 4 148)
  let s := memberHeard s id pos
  let store := fun (s : State) => { s with run := { s.run with resources := (id, rest) :: s.run.resources.filter fun r => !(r.1 == id) } }
  if s.run.state = .conflict then s
  else match leAt bs 0 1 with
    | 1 => readyTake (store s) id
    | 2 => if rest.getLsbD 1 then s else sideLost s pos (b2n (rest.getLsbD 0))
    | 3 => store s
    | 4 => anlAsked s id (leAt bs 1 1)
    | 5 => ackTake s id (leAt bs 1 1)
    | _ => s

/-- This device begins its return from HLD for the flask (R47, R344). -/
def backStart (s : State) : State :=
  let s := { s with pwr := { s.pwr with resumeSet := BitVec.ofNat 2 (maskOf ((List.range 2).filter fun c => hasMode s c 5)) } }
  sidleWake (if pwrBusy s then s else startExit s (resumeDoms s))

/-- The request that a MODE frame is about. -/
def modeFrameReq (bs : List Byte) : FlkReq :=
  { origin := leAt bs 9 1 % 16, payload := BitVec.ofNat 72 (leAt bs 0 9), back := bit (leAt bs 12 4) 20, sent := true }

/-- Two requests are one change. -/
def sameReq (a b : FlkReq) : Bool := a.origin == b.origin && a.payload == b.payload && a.back == b.back

/-- MODE from a member, at the master: a request, a return from HLD, or a withdrawal (R45, R46, R47). -/
def modeFromMember (s : State) (bs : List Byte) : State :=
  let q := modeFrameReq bs
  let withdrawn := s.run.modeReqs.find? fun x => sameReq x q && x.ref.isNone
  if leAt bs 11 1 ≠ 0 then match withdrawn with
    | some x => flkPump (setReqs (if x.sym.isSome then outward s 5 (modeBytes s x cMaster) else s) (s.run.modeReqs.filter fun y => !(y == x)))
    | none => s
  else if s.run.state = .conflict then outward s 5 (modeBytes s q cMaster)
  else if q.back then
    if s.run.modeReqs.any (·.back) then s
    else backStart (outward (setReqs s (s.run.modeReqs ++ [q])) 5 (modeBytes s q 0))
  else flkPump (flkStart (setReqs s (s.run.modeReqs ++ [{ q with since := s.tb.now }])))

/-- MODE from the master: a change announced, withdrawn, a return from HLD, or this member's join (R45–R47, R205). -/
def modeFromMaster (s : State) (bs : List Byte) : State :=
  let q := modeFrameReq bs
  let w := leAt bs 12 4
  let s := { s with run := { s.run with masterId := leAt bs 10 1 % 16 } }
  let mine := s.run.modeReqs.find? fun x => sameReq x q
  let at_ := some (symNamed s s.tb.airNext (bits w 18 0))
  if bit w 21 then
    (if q.origin = ownId s ∧ s.run.ready then
      { s with run := { s.run with joinSym := at_, modeReqs := s.run.modeReqs ++ [{ q with sym := at_ }] } }
    else s)
  else if leAt bs 11 1 ≠ 0 then (match mine with
    | some x => flkDeny s x
    | none => s)
  else if !bit w 19 then
    (if q.back ∧ s.run.state = .inService ∧ mine.isNone then backStart (setReqs s (s.run.modeReqs ++ [q])) else s)
  else if !(s.run.ready || s.run.state == .inService) then s
  else
    let s := match mine with
      | some x => setReqs s (s.run.modeReqs.map fun y => if y = x then { x with sym := at_ } else y)
      | none => setReqs s (s.run.modeReqs ++ [{ q with sym := at_ }])
    if q.back then s
    else
      let full := (mine.getD q)
      toMaster s 4 (statusBytes s 5 (match modeRefuse s (flaskNames s full) (flaskSet s full) none with
        | some r => r.cause
        | none => 0) 0)

/-- A control frame that passed its checks (R210). -/
def ctrlTake (s : State) (d sub symid : Nat) (bs : List Byte) : State :=
  let m := s.gen.master
  match sub with
  | 1 => beatTake s d bs
  | 2 => if m then s else passOn { s with run := { s.run with missedTicks := 0 } } d sub symid bs
  | 3 => if leAt bs 0 1 = ownId s then (if m then s else tableTake s bs) else passOn s d sub symid bs
  | 4 =>
    if m then statusTake s bs
    else
      let ms := sortBy (fun (a b : Nat × Nat) => decide (a.2 < b.2)) (alSet s.run.members (leAt bs 2 1 % 16) (leAt bs 3 1))
      passOn { s with run := { s.run with members := ms } } d sub symid bs
  | 5 =>
    if leAt bs 10 1 = 0xFF then (if m then modeFromMember s bs else passOn s d sub symid bs)
    else if m then s
    else modeFromMaster (passOn s d sub symid bs) bs
  | _ =>
    let k := symNamed s s.tb.airNext (bits (leAt bs 0 4) 18 0)
    if m then s
    else passOn { s with run := { s.run with grantNext := some (k, BitVec.ofNat 16 (leAt bs 4 2)) } } d sub symid bs

/-! ### Received Pour frames (R206–R209, R215, R216) -/

/-- Length and reserved fields of a control or alignment payload (R209, R210, log 12). -/
def ctrlShape (cls sub : Nat) (bs : List Byte) : Bool :=
  let n := bs.length
  if cls = 3 then (n == 4 && leAt bs 0 4 == 0) || (n == 20 && leAt bs 0 4 == 1)
  else match sub with
    | 1 => n == 8 && leAt bs 0 4 / 32768 == 0 && leAt bs 4 4 / 4096 == 0
    | 2 => n == 12 && leAt bs 6 2 == 0
    | 3 => decide (20 ≤ n) && decide ((n - 20) % 12 = 0) && leAt bs 1 3 == 0
    | 4 => n == 4 + statusRest (leAt bs 0 1)
    | 5 => n == 20
    | _ => n == 8 && leAt bs 6 2 == 0

/-- A Pour header breaks R207, or its frame R206: the framing check. -/
def pourBadFrame (f : PourFrame) : Bool :=
  let h := f.hdr.toNat
  f.codeErr || (crc32cNext 0xFFFFFFFF (bytesLE 12 h ++ f.payload) ^^^ 0xFFFFFFFF != f.fcrc) || bits h 31 16 != f.payload.length ||
    decide (f.payload.length % 4 ≠ 0 ∨ 9000 < f.payload.length)

/-- An unused CLASS or SUB, a reserved field that is not 0, or a payload that does not fit its subtype (R207, R209). -/
def pourBadHeader (f : PourFrame) : Bool :=
  let h := f.hdr.toNat
  let cls := bits h 2 0
  let sub := bits h 7 3
  decide (3 < cls) || (if cls = 2 then decide (sub = 0 ∨ 6 < sub) else decide (sub ≠ 0)) || bits h 63 55 != 0 || bits h 95 74 != 0 ||
    !symIdOk (bits h 50 32) || (decide (2 ≤ cls) && (bits h 73 64 != 0 || !ctrlShape cls sub f.payload))

/-- A frame discarded: Slag, the side's count, and the POUR detector after four in a row (R209). -/
def pourDrop (s : State) (d lane : Nat) : State :=
  let l := 16 + 12 * d + lane
  let s := modSide (slag s 17 1) d fun x => { x with disc := satTo 0xFFFFFFFF (x.disc + 1) }
  let s := modLane (laneErr s l) l fun x => { x with badPour := x.badPour + 1, goodPour := 0 }
  if 4 ≤ (laneOf s l).badPour ∧ !(laneOf s l).pour then synceUpdate (detectorAssert s l .pour) else s

/-- A valid frame: eight in a row clear the POUR detector (R209). -/
def pourGood (s : State) (d lane : Nat) : State :=
  let l := 16 + 12 * d + lane
  let s := modLane s l fun x => { x with badPour := 0, goodPour := x.goodPour + 1, quietSyms := 0 }
  if 8 ≤ (laneOf s l).goodPour ∧ (laneOf s l).pour then detectorClear s l .pour else s

/-- The lane on which a layer's Pour flow leaves the far side: as the table says, or the same lane at a member outside the
span. -/
def farLane (s : State) (d lane c dir id k : Nat) : Option Nat :=
  match entryAt s c dir id k with
  | none => some lane
  | some e =>
    let p := if d = 0 then e.drag else e.cope
    let l := if c = 0 then p.1 else p.2
    if l = 0xF then none else some l

/-- A downlink copy (R215): filed without credits where this member holds the layer, and sent on. The result says whether the
frame was valid. -/
def copyTake (s : State) (d lane : Nat) (h : Nat) (bs : List Byte) : State × Bool :=
  match (splitMsgs 2 bs).1 with
  | m :: _ => match parseMsg s m with
    | .error _ => (s, false)
    | .ok x =>
      if x.ctrl ∨ x.kind ≠ 0 ∨ x.past ∨ tickT s x.sym < s.tb.now + 26419 then (s, false)
      else
        let s := match entryAt s x.cc 0 x.id x.sym with
          | some e =>
            if e.shed then s
            else if !takesKind s x then slag s 9 1
            else if overlaps s x then slag s 15 1
            else holdMsg s x false
          | none => s
        (match farLane s d lane x.cc 0 x.id x.sym with
          | some l => sendData s (1 - d) l 0 (bits h 50 32) x.id x.cc bs
          | none => s, true)
  | [] => (s, false)

/-- A copy whose FCRC is wrong is sent on with the inverted FCRC (R215). -/
def copyBad (s : State) (d lane : Nat) (f : PourFrame) : State :=
  let h := f.hdr.toNat
  let c := bits h 73 73
  let k := symNamed s (symFrom s (s.tb.now + 29491 - 2516582400)) (bits h 50 32)
  if f.codeErr ∨ bits h 2 0 ≠ 0 ∨ bits h 31 16 ≠ f.payload.length ∨ !symIdOk (bits h 50 32) then s
  else match farLane s d lane c 0 (bits h 72 64) k with
    | some l => sendData s (1 - d) l 0 (bits h 50 32) (bits h 72 64) c f.payload true
    | none => s

/-- Pairs of a list of I and Q values. -/
def pairUp : List Int → List Sample
  | i :: q :: rest => ⟨i, q⟩ :: pairUp rest
  | _ => []

/-- A partial-sum record read from its bytes, for symbol k (R191). -/
def psumRead (s : State) (h k : Nat) (bs : List Byte) : Option Psum :=
  let w0 := leAt bs 0 4
  let w1 := leAt bs 4 4
  let c := bits w0 28 28
  let start := bits w1 10 0
  let num := bits w1 21 11
  let vals := sectionVals s 0 c k start num
  let len := paddedBytes (streamBits psumFmt vals)
  if bs.length ≠ 12 + len ∨ bits w0 31 29 ≠ 0 ∨ bits w1 31 22 ≠ 0 ∨ leAt bs 10 2 / 2 ≠ 0 ∨ num = 0 ∨ 273 < num ∨
      prbBlocks (carrierOf s c).nprb < start + num ∨ bits w0 27 19 ≠ bits h 72 64 ∨ c ≠ bits h 73 73 ∨ bits w0 18 0 ≠ bits h 50 32 then none
  else (expandBlocks psumFmt (beNat (bs.drop 12)) (8 * len) 0 vals).map fun vs =>
    { cc := c, layer := bits w0 27 19, sym := k, start := start, num := num, contrib := BitVec.ofNat 16 (leAt bs 8 2)
      stl := bit (leAt bs 10 2) 0, vals := pairUp vs }

/-- A partial sum (R192, R216): kept for the open or a coming symbol of a layer that this member combines, else sent on. One that comes
after the layer is finished, or after the record of its blocks has left, is discarded (R193). -/
def psumTake (s : State) (d lane : Nat) (h : Nat) (bs : List Byte) : State × Bool :=
  let k := symNamed s (s.cru.ulSym - 14) (bits h 50 32)
  match psumRead s h k bs with
  | none => (s, false)
  | some p =>
    match entryAt s p.cc 1 p.layer k with
    | none => (sendData s (1 - d) lane 1 (bits h 50 32) p.layer p.cc bs, true)
    | some e =>
      let gone := ((psumRuns s p.cc).take (partsSent s p.cc p.layer)).any fun r => r.1 == p.start
      if e.shed ∨ k < s.cru.ulSym ∨ (k = s.cru.ulSym ∧ (ulDone s p.cc p.layer ∨ gone)) then (s, false)
      else ({ s with cru := { s.cru with psums := s.cru.psums ++ [p] } }, true)

/-- A frame on an UP cascade lane. -/
def pourTake (s : State) (d lane : Nat) (f : PourFrame) : State :=
  let h := f.hdr.toNat
  let cls := bits h 2 0
  if pourBadFrame f then pourDrop (copyBad s d lane f) d lane
  else
    let bad := pourBadHeader f
    let s := if 3 < cls then s
      else assaySnoop s (0x2000 + (d * 256 + lane * 8 + cls)) (bits h 15 8) (bytesLE 12 h ++ f.payload)
    if bad then pourDrop s d lane
    else
      let r := match cls with
        | 0 => copyTake s d lane h f.payload
        | 1 => psumTake s d lane h f.payload
        | 2 => (ctrlTake s d (bits h 7 3) (bits h 50 32) f.payload, true)
        | _ => (alignTake s d lane f.phase f.payload, true)
      if r.2 then pourGood r.1 d lane else pourDrop r.1 d lane

/-- POUR_FRAME_RX; what a lane that is leaving the distribution was receiving is counted (R115). -/
def execPourFrameRx (dt : Nat) (side : Fin 2) (lane : Fin 12) (frame : PourFrame) (s : State) : Host.Outcome State Fault Refusal :=
  let s := arrive dt s
  let l := 16 + 12 * side.val + lane.val
  .next (if !domOn s 6 then s
    else if laneIsUp s l then pourTake s side.val lane.val frame
    else if 0 < (laneOf s l).leaveIn ∧ bits frame.hdr.toNat 2 0 ≤ 1 then slag s 2 1
    else s)

/-! ### Timeouts (R46, R204) -/

/-- NO_MASTER_TIMEOUT: 1 s after the chain is known (R204). -/
def execNoMasterTimeout (dt : Nat) (s : State) : Host.Outcome State Fault Refusal :=
  let s := arrive dt s
  .next (match s.run.knownAt with
    | some t =>
      if s.run.state = .discovering ∧ t + 491520000 ≤ s.tb.now ∧ !s.gen.master ∧ (masterSide s).isNone then conflictSet s 2 (ownId s) else s
    | none => s)

/-- MODE_ACK_TIMEOUT: 1 ms after the master's MODE frame, a member that has not answered counts as refusing (R46). -/
def execModeAckTimeout (dt : Nat) (s : State) : Host.Outcome State Fault Refusal :=
  let s := arrive dt s
  .next (match s.run.modeReqs.find? fun q => q.sym.isSome && !q.back with
    | some q =>
      if s.gen.master ∧ q.since + 491520 ≤ s.tb.now ∧ ackMissing s q ≠ 0 then
        flkPump (flkDeny (outward s 5 (modeBytes s q cMaster)) q)
      else s
    | none => s)

/-- FLK_READY_TIMEOUT: 2 s after acceptance the issuing member is not READY and in service (R46). -/
def execFlkReadyTimeout (dt : Nat) (s : State) : Host.Outcome State Fault Refusal :=
  let s := arrive dt s
  .next ((s.run.modeReqs.filter fun q => q.ref.isSome).foldl (fun s q =>
    match q.ref.bind (cmdOf s) with
    | some c => if c.acceptAt + 983040000 ≤ s.tb.now ∧ s.run.state ≠ .inService then flkDeny (reqWithdraw s q) q else s
    | none => s) s)

/-! ### Fronthaul frames (R146, R215) -/

/-- The copies of an admitted message (R215). -/
def sendCopies (s : State) (x : Parsed × List Byte) : State :=
  let m := x.1
  if m.ctrl ∨ m.kind ≠ 0 then s
  else match entryAt s m.cc 0 m.id m.sym with
    | some e =>
      if !e.isEnd ∨ e.isLocal then s
      else [(0, e.cope), (1, e.drag)].foldl (fun s y =>
        let l := if m.cc = 0 then y.2.1 else y.2.2
        if l = 0xF then s else sendData s y.1 l 0 (symId s m.sym) m.id m.cc x.2) s
    | none => s

/-- FH_FRAME_RX. -/
def execFhFrameRx (dt : Nat) (port : Port) (frame : FhFrame) (s : State) : Host.Outcome State Fault Refusal :=
  let s := arrive dt s
  .next (if portUp s port then
      let r := frameTake s port frame
      r.2.foldl sendCopies r.1
    else s)

/-! ### LAYER_SET (R219–R221) -/

/-- FIRST. -/
def lsFirst (d : Desc) : Nat := dH d 18

/-- Direction, removal and LOCAL of a LAYER_SET. -/
def lsDir (d : Desc) : Nat := b2n (bit (dB d 16) 0)
def lsRemove (d : Desc) : Bool := bit (dB d 16) 1
def lsLocal (d : Desc) : Bool := bit (dB d 16) 2

/-- Its layers. -/
def lsLayers (d : Desc) : List Nat := (List.range (dB d 20)).map (lsFirst d + ·)

/-- ALLOW, or SPAN where it is 0. -/
def lsAllow (d : Desc) : Nat := if dH d 24 = 0 then dH d 22 else dH d 24

/-- Refusal checks of LAYER_SET (R219, R220). -/
def layerSetCheck (s : State) (c : Cmd) : Option Refuse :=
  let d := c.d
  let pinned := bit (dB d 26) 7
  let top := if lsLocal d then 32 else 512
  let held := match s.run.table with
    | some t => t.entries.any fun e => e.dir == lsDir d && !e.isLocal && !e.shed && (lsLayers d).contains e.slot
    | none => false
  firstRefuse [
    (!(decide (dB d 16 < 8 ∧ 1 ≤ dB d 17 ∧ dB d 17 ≤ 3 ∧ 1 ≤ dB d 20 ∧ dB d 20 ≤ 32 ∧ lsFirst d + dB d 20 ≤ top ∧ bits (dB d 26) 6 4 = 0 ∧
      (lsDir d = 1 ∨ dB d 27 ≤ 4)) && dZero d 28 63), cField),
    (!lsLocal d && !isFlaskMaster s, 64),
    (!lsLocal d && (decide (dH d 22 &&& lsAllow d = 0) || (pinned && !bit (dH d 22) (bits (dB d 26) 3 0))), 65),
    (lsLocal d && held, 66)]

/-- A layer as LAYER_SET states it (R219). -/
def lsLayer (d : Desc) (id : Nat) : Layer :=
  { dir := lsDir d, isLocal := lsLocal d, id := id, ccs := BitVec.ofNat 2 (dB d 17), prio := dB d 21, span := BitVec.ofNat 16 (dH d 22)
    allow := BitVec.ofNat 16 (dH d 24), pin := if bit (dB d 26) 7 then some (bits (dB d 26) 3 0) else none, comp := dB d 27 }

/-- The slots that LOCAL layers reserve (R220). -/
def rsvUpdate (s : State) : State :=
  { s with run := { s.run with rsvDl := BitVec.ofNat 32 (reserved s 0), rsvUl := BitVec.ofNat 32 (reserved s 1) } }

/-- LAYER_SET at the tick T(n − 3, 0) where the computation of slot n's table starts (R221); its record is written at T(n, 0).
`note` keeps n's symbol above the layers it has lost to others (R76). -/
def layerSetEffect (s : State) (c : Cmd) : State :=
  let d := c.d
  let ids := (lsLayers d).zipIdx.filterMap fun x => if c.note.getLsbD x.2 then none else some x.1
  let rest := s.run.layers.filter fun l => !(l.dir == lsDir d && l.isLocal == lsLocal d && ids.contains l.id)
  let s := rsvUpdate { s with run := { s.run with layers := if lsRemove d then rest else rest ++ ids.map (lsLayer d) } }
  cmdPut s { c with stage := .running none, effect := none, note := c.note ||| BitVec.ofNat 64 ((symNow s + 42) <<< 32) }

/-- The records of the LAYER_SETs whose slot's tick this is (R221). -/
def layerSetDone (k : Nat) (s : State) : State :=
  (s.host.cmds.filter fun c => dOp c.d == 0x0060 && c.stage == .running none && c.note.toNat / 2 ^ 32 == k).foldl (fun s c =>
    cmdDone s (cmdAtTick s c k)) s

/-- The computation tick a LAYER_SET is bound to: TICK names T(n, 0), the tick of its effect (R74, R221). -/
def layerSetBind (s : State) (c : Cmd) : Nat × Bool :=
  let first := tickFrom s .slot (s.tb.now + 2048)
  if dAtTick c.d then
    let k := symNamed s (s.tb.airNext) (dTick c.d)
    if k < first + 42 ∨ s.tb.now + 512 * 4915200 < tickT s k then (first, true) else (k - 42, false)
  else (first, false)

/-- LAYER_SET (0x0060). Each layer is a setting. -/
def layerSetDef : CmdDef where
  opcode := 0x0060
  tick _ := .slot
  check := layerSetCheck
  effect := layerSetEffect
  bind := layerSetBind
  keys c := ((lsLayers c.d).zipIdx.filter fun x => !c.note.getLsbD x.2).map fun x => keyOf 0x0060 (lsDir c.d * 2 + b2n (lsLocal c.d)) x.1
  strip c l := { c with note := c.note ||| BitVec.ofNat 64 (maskOf ((l.map keyInst).map fun i => i - lsFirst c.d)) }

/-- LAYER_SET. -/
def execLayerSet (dt : Nat) (ref : CmdRef) (d : Desc) (s : State) : Host.Outcome State Fault Refusal :=
  .next (runCmd layerSetDef dt ref d s)

end Sys2Proof.Machine
end

