-- ==== Sys2Proof/Machine/Regs.lean ====
section
/-! DEFINITION. The registers of BAR 0 (16 and every chapter's register tables): what each offset reads, what a write does, which
offsets are dark, and which form 64-bit quantities. -/

namespace Sys2Proof.Machine

/-- A register or an array of them: block, first offset, step, number, what instance i reads, and what a write of a value does;
a write that R429 discards answers none. A register without writable fields ignores the value (R16). -/
structure RegDef where
  block : Nat
  base : Nat
  step : Nat := 4
  count : Nat := 1
  read : State → Nat → Nat
  write : State → Nat → Nat → Option State := fun s _ _ => some s

/-- The instance an offset names. -/
def RegDef.inst (r : RegDef) (o : Nat) : Option Nat :=
  if r.base ≤ o ∧ (o - r.base) % r.step = 0 ∧ (o - r.base) / r.step < r.count then some ((o - r.base) / r.step) else none

/-- One of two equal-width halves of a 64-bit quantity. -/
def half64 (hi : Bool) (v : Nat) : Nat := if hi then v / 2 ^ 32 % 2 ^ 32 else v % 2 ^ 32

/-- Two bits per entry of a list, entry 0 lowest. -/
def pack (w : Nat) (l : List Nat) : Nat := l.foldr (fun x acc => x % 2 ^ w + acc * 2 ^ w) 0

/-- A write accepted only under a condition (R429). -/
def accept (ok : Bool) (s : State) : Option State := if ok then some s else none

/-! ### GEN (0x00), FUS (0x01) -/

/-- The configuration in force, as far as the stages' shares of the latency may depend on it: the carriers, compression and MTU,
granularity, crest-factor stages, the models' memory and the mode sets (R34). -/
def latencyKey (s : State) : List Nat :=
  (List.range 2).flatMap (fun c => [(carrierOf s c).nprb, (carrierOf s c).off, (carrierOf s c).sr, (fhOf s c).comp, (fhOf s c).mtu, setOf s c]) ++
    [granOf s 0, granOf s 1, s.tx.stages, maxM s]

/-- Smallest downlink pad: what the stages of the configuration leave of L_DL; the IFFT's share is open (R33–R35; log 10). -/
def padDl (s : State) : Nat :=
  1459 + (2816 - txLatency s.tx.stages (maxM s)) + min 4352 (Config.stageSlack 0 (latencyKey s))

/-- Smallest uplink pad, of which the egress and finishing share is open (R33–R35; log 10). -/
def padUl (s : State) : Nat := min 11494 (5350 + Config.stageSlack 1 (latencyKey s))

/-- Device ID, fuse bits 0–63, and GRADE, fuse bit 64 (log 5). -/
def deviceId (s : State) : Nat := fuse s 63 0
def gradeBit (s : State) : Nat := fuse s 64 64

/-- The GEN registers. -/
def genRegs : List RegDef := [
  { block := 0x00, base := 0x0000, read := fun s _ => 0x6464 <<< 16 ||| gradeBit s <<< 8 ||| 0xB0 },
  { block := 0x00, base := 0x0004, read := fun s _ =>
      b2n s.gen.notx <<< 8 ||| (s.gen.bootband % 8) <<< 5 ||| b2n s.gen.master <<< 4 ||| s.gen.flaskId % 16 },
  { block := 0x00, base := 0x0008, read := fun s _ =>
      b2n s.thm.quench <<< 31 ||| b2n (faultN s) <<< 30 ||| b2n (txBarred s) <<< 29 ||| maskOf ((List.range 14).filter (domOn s)) },
  { block := 0x00, base := 0x000C, read := fun s _ => s.gen.rst.toNat
    write := fun s _ v => some { s with gen := { s.gen with rst := s.gen.rst &&& ~~~(BitVec.ofNat 4 v) } } },
  { block := 0x00, base := 0x0010, read := fun s _ => s.gen.scratch.toNat
    write := fun s _ v => some { s with gen := { s.gen with scratch := BitVec.ofNat 32 v } } },
  { block := 0x00, base := 0x0014
    read := fun s _ => b2n s.gen.wrRej <<< 31 ||| s.gen.wrRejCount <<< 24 ||| s.gen.wrRejOffset.toNat
    write := fun s _ v => some (if bit v 31 then { s with gen := { s.gen with wrRej := false, wrRejCount := 0 } } else s) },
  { block := 0x00, base := 0x0100, read := fun s _ => (padDl s % 65536) <<< 16 ||| 0x7333 },
  { block := 0x00, base := 0x0104, read := fun s _ => (padUl s % 65536) <<< 16 ||| 0x8666 },
  { block := 0x00, base := 0x0108
    read := fun s _ => b2n s.gen.runLate <<< 18 ||| b2n s.gen.tunLate <<< 17 ||| b2n s.gen.cruLate <<< 16 ||| s.gen.lateCount
    write := fun s _ v => some { s with gen := { s.gen with
      runLate := s.gen.runLate && !bit v 18, tunLate := s.gen.tunLate && !bit v 17, cruLate := s.gen.cruLate && !bit v 16 } } }]

/-- The FUS registers (R393). -/
def fusRegs : List RegDef := [
  { block := 0x01, base := 0x0000, count := 2, read := fun s i => half64 (i == 1) (deviceId s) },
  { block := 0x01, base := 0x0010, count := 2, read := fun s i => half64 (i == 1) (macBase s) },
  { block := 0x01, base := 0x0020, read := fun s _ => b2n (keySet s) <<< 2 ||| b2n (protLock s) <<< 1 ||| b2n (regLock s) },
  { block := 0x01, base := 0x0100, step := 8, count := 8, read := fun s b => (bandOf s b).1 },
  { block := 0x01, base := 0x0104, step := 8, count := 8, read := fun s b => (bandOf s b).2 }]

/-! ### PWR (0x02), HLD (0x03) -/

/-- HLD_STAT.STATE codes. -/
def hldCode : HldState → Nat
  | .disarmed => 0 | .blind => 1 | .watch => 2 | .decided => 3 | .waking => 4

/-- The PWR registers. -/
def pwrRegs : List RegDef := [
  { block := 0x02, base := 0x0000, read := fun s _ => pack 2 ((List.range 14).map fun d => domCode (vget s.pwr.dom d .off)) },
  { block := 0x02, base := 0x0008
    read := fun s _ => b2n s.pwr.bankSpoiled <<< 31 ||| s.pwr.spoilIndex <<< 24 ||| s.pwr.spoilCount
    write := fun s _ v => some (if bit v 31 then { s with pwr := { s.pwr with bankSpoiled := false } } else s) },
  { block := 0x02, base := 0x000C, read := fun s _ => s.pwr.spoiled.toNat
    write := fun s _ v => some { s with pwr := { s.pwr with spoiled := s.pwr.spoiled &&& ~~~(BitVec.ofNat 32 v) } } },
  { block := 0x02, base := 0x0010, read := fun s _ => s.pwr.wakeLatch.toNat },
  { block := 0x02, base := 0x0014, read := fun s _ => s.pwr.evtqLost <<< 16 ||| s.pwr.evtq.length }]

/-- The HLD registers. -/
def hldRegs : List RegDef := [
  { block := 0x03, base := 0x0000, read := fun s _ =>
      hldCode s.hld.state <<< 29 ||| s.hld.lastSrc <<< 24 ||| maskOf ((List.range 8).filter (tapLive s)) },
  { block := 0x03, base := 0x0010, count := 8, read := fun s i =>
      b2n (tapOf s i).en <<< 31 ||| (tapOf s i).path <<< 24 ||| (tapOf s i).thresh.toNat },
  { block := 0x03, base := 0x0030, read := fun s _ => s.hld.filt.toNat },
  { block := 0x03, base := 0x0034, read := fun s _ => s.hld.wakeCfg.toNat },
  { block := 0x03, base := 0x0038, read := fun s _ => s.hld.darkSet.toNat },
  { block := 0x03, base := 0x003C, read := fun s _ => pack 4 ((List.range 8).map (tapHits s)) },
  { block := 0x03, base := 0x0040, read := fun s _ => b2n s.hld.darkEn <<< 31 ||| s.hld.darkLvl.toNat <<< 16 ||| s.hld.fails },
  { block := 0x03, base := 0x0044, read := fun s _ => s.hld.decisions <<< 16 ||| s.hld.replayed }]

/-! ### THM (0x04), BIA (0x05), HKA (0x06), HBK (0x07) -/

/-- T_LIM and SHUNT of a group. -/
def tLim (x : Group) : Nat := bits x.cfg.toNat 31 24
def shuntOf (x : Group) : Nat := bits x.r.toNat 31 24

/-- Group g. -/
def groupOf (s : State) (g : Nat) : Group := vget s.thm.group g {}

/-- A write of THM_GRP_CFG: the rises are 0 again, and a T_LIM of 0 turns the ceiling off (R363). -/
def grpCfgWrite (s : State) (g v : Nat) : Option State :=
  let t := bits v 31 24
  let s := modGroup s g fun x => { x with cfg := BitVec.ofNat 32 (v &&& 0xFFF0FFFF), dT1 := 0, dT2 := 0 }
  accept ((t == 0 || decide (100 ≤ t ∧ t ≤ 250)) && decide (24 ≤ bits v 7 0 ∧ bits v 7 0 ≤ 87) && decide (bits v 15 8 ≤ 143))
    (if t = 0 then setCeil s g 32767 else s)

/-- A write of THM_HEAT: a heater whose control is disabled is inactive (R366). -/
def heatWrite (s : State) (v : Nat) : State :=
  let s := { s with thm := { s.thm with heat := BitVec.ofNat 32 (v &&& 0x8000FFFF) } }
  if bit v 31 then s else heaterSet s false

/-- The THM registers. -/
def thmRegs : List RegDef := [
  { block := 0x04, base := 0x0000, count := 24, read := fun s i => (sensorOf s i).type <<< 30 ||| (sensorOf s i).nbr.toNat
    write := fun s i v => some (modSensor s i fun x => { x with
      type := if i < 16 then bits v 31 30 else x.type, nbr := BitVec.ofNat 24 v }) },
  { block := 0x04, base := 0x0080, count := 16, read := fun s i => (sensorOf s i).cal.toNat
    write := fun s i v => some (modSensor s i fun x => { x with cal := BitVec.ofNat 32 v }) },
  { block := 0x04, base := 0x0100, count := 24, read := fun s i =>
      let x := sensorOf s i
      b2n x.broken <<< 31 ||| b2n x.replaced <<< 30 ||| b2n x.noRepl <<< 29 ||| x.disagree <<< 16 |||
        (match x.temp with
          | some t => tc 16 t
          | none => 0x8000) },
  { block := 0x04, base := 0x0200, step := 0x20, count := 8, read := fun s g => (groupOf s g).cfg.toNat, write := grpCfgWrite },
  { block := 0x04, base := 0x0204, step := 0x20, count := 8, read := fun s g => (groupOf s g).r.toNat
    write := fun s g v => accept (bits v 11 0 != 0 && bits v 23 12 != 0 && (tLim (groupOf s g) == 0 || bits v 31 24 != 0))
      (modGroup s g fun x => { x with r := BitVec.ofNat 32 v }) },
  { block := 0x04, base := 0x0208, step := 0x20, count := 8, read := fun s g => (groupOf s g).tau.toNat
    write := fun s g v => accept (bits v 15 0 != 0 && bits v 31 16 != 0 && (tLim (groupOf s g) == 0 || shuntOf (groupOf s g) != 0))
      (modGroup s g fun x => { x with tau := BitVec.ofNat 32 v }) },
  { block := 0x04, base := 0x020C, step := 0x20, count := 8, read := fun s g => (groupOf s g).gain.toNat
    write := fun s g v => accept (tLim (groupOf s g) == 0 || shuntOf (groupOf s g) != 0)
      (modGroup s g fun x => { x with gain := BitVec.ofNat 16 v }) },
  { block := 0x04, base := 0x0210, step := 0x20, count := 8, read := fun s g => (groupOf s g).tPred.toNat <<< 16 ||| (groupOf s g).tJ.toNat },
  { block := 0x04, base := 0x0214, step := 0x20, count := 8, read := fun s g => tc 16 (groupOf s g).ceil <<< 16 ||| (groupOf s g).p },
  { block := 0x04, base := 0x0300, read := fun s _ => s.thm.model.toNat
    write := fun s _ v => accept (decide (1 ≤ bits v 7 0 ∧ bits v 7 0 ≤ 60))
      { s with thm := { s.thm with model := BitVec.ofNat 32 (v &&& 0x00FF00FF) } } },
  { block := 0x04, base := 0x0310, step := 8, count := 4
    read := fun s f => let x := vget s.thm.fan f {}; tc 8 x.tHi <<< 24 ||| tc 8 x.tLo <<< 16 ||| x.min <<< 8 ||| x.duty
    write := fun s f v => accept (decide (sx 8 (bits v 23 16) < sx 8 (bits v 31 24)))
      (modFan s f fun x => { x with tHi := sx 8 (bits v 31 24), tLo := sx 8 (bits v 23 16), min := bits v 15 8 }) },
  { block := 0x04, base := 0x0314, step := 8, count := 4, read := fun s f => (vget s.thm.fan f {}).src.toNat
    write := fun s f v => some (modFan s f fun x => { x with src := BitVec.ofNat 24 v }) },
  { block := 0x04, base := 0x0330, read := fun s _ => s.thm.heat.toNat ||| b2n s.thm.heatOn <<< 30
    write := fun s _ v => some (heatWrite s v) },
  { block := 0x04, base := 0x0340, read := fun s _ =>
      b2n s.thm.quench <<< 31 ||| s.thm.qCause <<< 29 ||| s.thm.qSensor <<< 16 ||| s.thm.qTemp.toNat },
  { block := 0x04, base := 0x0350, count := 4, read := fun s j => pack 8 ((List.range 4).map fun i => quenchLimit s (4 * j + i)) }]

/-- The BIA registers. -/
def biaRegs : List RegDef := [
  { block := 0x05, base := 0x0000, count := 128
    read := fun s o =>
      let b := biasOf s o
      b2n (biasForced s o) <<< 31 ||| b2n b.dlHold <<< 30 ||| b.span <<< 28 ||| queuePlaces b <<< 16 ||| b.code.toNat
    write := fun s o v => some (modBias s o fun b => { b with dlHold := bit v 30 }) },
  { block := 0x05, base := 0x0200, read := fun s _ =>
      maskOf ((List.range 3).filter (spanPermitted s true)) <<< 3 ||| maskOf ((List.range 3).filter (spanPermitted s false)) }]

/-- HKA_CFG.SLOW: the scan takes more than 100 ms (R358). -/
def hkSlow (s : State) : Bool :=
  let n := ((List.range 144).filter (inScan s)).length
  let p := if (hkTiming s).1 then 500 * s.air.period else 10 * s.hka.tint
  decide (100000 < n * p)

/-- HKA_LAST of a channel: AGE in rounds and CODE (R359). -/
def hkLast (s : State) (c : Nat) : Nat :=
  match vget s.hka.last c none with
  | some x => satTo 255 (s.thm.rounds - x.2) <<< 24 ||| x.1.toNat
  | none => 0

/-- What a read of HKA_QPOP returns (R359). -/
def hkHead (s : State) : Nat := (s.hka.queue.head?.map (·.toNat)).getD 0xFFFFFFFF

/-- A read of HKA_QPOP removes the oldest entry (R359). -/
def hkPop (s : State) : State :=
  let q := s.hka.queue.tail
  { s with hka := { s.hka with queue := q, lostSince := s.hka.lostSince && !q.isEmpty } }

/-- A comparator may watch a channel (R360). -/
def cmpChOk (ch : Nat) : Bool := decide (ch ≤ 23) || decide (88 ≤ ch ∧ ch ≤ 95)

/-- The HKA registers. -/
def hkaRegs : List RegDef := [
  { block := 0x06, base := 0x0000, read := fun s _ => hkMode s <<< 30 ||| b2n (hkSlow s) <<< 29 ||| s.hka.tint
    write := fun s _ v => accept (decide (50 ≤ bits v 15 0 ∧ bits v 15 0 ≤ 2000))
      (hkCheck s { s with hka := { s.hka with tint := bits v 15 0 } }) },
  { block := 0x06, base := 0x0008, read := fun s _ => s.hka.lost <<< 16 ||| s.hka.queue.length
    write := fun s _ v => some (if bits v 31 16 = 0 then s else { s with hka := { s.hka with lost := 0 } }) },
  { block := 0x06, base := 0x000C, read := fun s _ => s.hka.disc },
  { block := 0x06, base := 0x0010, count := 5, read := fun s w => (vget s.hka.scan w 0).toNat
    write := fun s w v => some (hkNext { s with hka := { s.hka with
      scan := vmod s.hka.scan w fun _ => BitVec.ofNat 32 (if w = 4 then v % 65536 else v) } } 159) },
  { block := 0x06, base := 0x0030, read := fun s _ => hkHead s },
  { block := 0x06, base := 0x0100, step := 8, count := 16
    read := fun s k => let c := cmpOf s k; b2n c.en <<< 31 ||| b2n c.wake <<< 30 ||| b2n c.start <<< 29 ||| c.state <<< 8 ||| c.ch
    write := fun s k v => accept (cmpChOk (bits v 7 0))
      (modCmp s k fun c => { c with en := bit v 31, wake := bit v 30, start := bit v 29, ch := bits v 7 0 }) },
  { block := 0x06, base := 0x0104, step := 8, count := 16, read := fun s k => (cmpOf s k).hi.toNat <<< 16 ||| (cmpOf s k).lo.toNat
    write := fun s k v => some (modCmp s k fun c => { c with hi := BitVec.ofNat 16 (v / 65536), lo := BitVec.ofNat 16 v }) },
  { block := 0x06, base := 0x0400, count := 160, read := hkLast }]

/-- The HBK registers. -/
def hbkRegs : List RegDef := [
  { block := 0x07, base := 0x0000, read := fun s _ =>
      b2n s.hb.fail <<< 31 ||| b2n s.hb.full <<< 30 ||| b2n (!s.hb.snaps.isEmpty || s.hb.clearing.isSome) <<< 29 |||
        s.hb.cause <<< 26 ||| s.hb.next },
  { block := 0x07, base := 0x0004, read := fun s _ => s.hb.heat },
  { block := 0x07, base := 0x0008, read := fun s _ => hours16 s % 2 ^ 32 },
  { block := 0x07, base := 0x000C, read := fun s _ => s.hb.interval
    write := fun s _ v => accept (decide (1 ≤ bits v 15 0 ∧ bits v 15 0 ≤ 8760)) { s with hb := { s.hb with interval := bits v 15 0 } } },
  { block := 0x07, base := 0x0010, count := 2, read := fun s i => half64 (i == 1) (fuse s 2943 2880) },
  { block := 0x07, base := 0x0018, read := fun s _ => (nonceNow s).toNat },
  { block := 0x07, base := 0x001C, read := fun s _ => b2n s.hb.authLocked <<< 31 ||| b2n (keySet s) <<< 30 ||| s.hb.authFails },
  { block := 0x07, base := 0x0020, read := fun s _ => s.hb.lgLost <<< 16 ||| s.hb.lg.length },
  { block := 0x07, base := 0x0030, read := fun s _ => faultSum s },
  { block := 0x07, base := 0x0034, read := fun s _ => s.hb.faultnEn.toNat
    write := fun s _ v => some { s with hb := { s.hb with faultnEn := BitVec.ofNat 32 (v % 2048) } } },
  { block := 0x07, base := 0x0040, read := fun s _ => maskOf ((List.range 24).filter fun i => (sensorOf s i).retired) }]

/-! ### RNG (0x08), LDL (0x09), ASY (0x0A) -/

/-- An error of a ring: its code, RING_ERR and the event (R70, R86). -/
def ringError (s : State) (r code value : Nat) : State :=
  let s := modRing s r fun g => { g with err := code }
  post { s with host := { s.host with ringErr := true } } 0x0101 9 r (code ||| value <<< 32)

/-- RNG_CFG as it reads. -/
def ringCfg (g : Ring) : Nat :=
  b2n g.en <<< 31 ||| g.cplRing <<< 24 ||| g.vector <<< 16 ||| g.coalCnt <<< 8 ||| g.coalTime <<< 4 ||| g.sizeLog2

/-- RNG_STAT.IDLE: no command of the ring waits or runs, no descriptor is left to fetch, no record is held (R104). -/
def ringIdle (s : State) (r : Nat) : Bool :=
  if r < 16 then !(s.host.cmds.any fun c => c.ref.ring.val == r && !c.silent) && (!(ringOf s r).en || (ringOf s r).prod == (ringOf s r).cons)
  else (ringOf s r).held.isEmpty

/-- The Ladle channel that a command's move uses (R97, R101). -/
def moveChannel (d : Desc) : Option Nat :=
  if dOp d = 0x00C0 then some (dB d 16)
  else if dOp d = 0x0051 then some (dB d 17)
  else if dOp d = 0x00B1 ∧ dB d 16 = 0 then some (dB d 18)
  else none

/-- Corrections that an ANL_RUN LOAD or EDGE_SET has waiting for the ticks of R330. -/
def anlOwn (c : Cmd) (a : AnlApply) : Bool := !a.ofRun && a.refs.contains c.ref

/-- A command of a ring that is disabled ends: one not yet in effect is refused, another aborted while what it set in motion
goes on; a Ladle move is withdrawn, and one refused is a refused move of its idle channel (R101, R104). DESIGN CHOICE (log 73):
MOD_CC_STATE.LAST_CAUSE becomes 0 for a MODE_SET in progress at the master, and stays for one held or bound. -/
def cmdRingOff (s : State) (c : Cmd) : State :=
  let op := dOp c.d
  let move := (List.range 8).find? fun i => match (chOf s i).move with
    | some m => m.seq == c.seq && !m.silent
    | none => false
  match c.stage with
  | .running _ =>
    if op = 0x0010 then
      let s := (s.run.modeReqs.filter fun q => q.ref == some c.ref).foldl reqWithdraw s
      let s := { s with run := { s.run with modeReqs := s.run.modeReqs.filter fun q => !(q.ref == some c.ref) } }
      cmdRefuse (modeCause s (dB c.d 16) 0) c ⟨cRing, 0⟩
    else if (s.anl.apply.filter (anlOwn c)).length = 2 then
      cmdRefuse { s with anl := { s.anl with apply := s.anl.apply.filter fun a => !anlOwn c a } } c ⟨cRing, 0⟩
    else match move with
      | some i => withdraw s i
      | none => recordRing s c
  | _ =>
    let s := match moveChannel c.d with
      | some ch => if (channelBusy s ch).isSome then s else moveRefused s ch c ⟨cRing, 0⟩
      | none => s
    let s := { s with cru := { s.cru with loads := s.cru.loads.filter fun l => !(l.ref == c.ref) } }
    cmdRefuse s c ⟨cRing, 0⟩
where
  /-- The record of a command that has started, and the command left running unseen. -/
  recordRing (s : State) (c : Cmd) : State :=
    let s := cmdEnd s { c with cause := cRing } 2
    { s with host := { s.host with cmds := s.host.cmds ++ [{ c with silent := true }] } }

/-- Ring r is disabled (R104). -/
def ringDisable (s : State) (r : Nat) : State :=
  if r < 16 then
    let s := modRing s r fun g => { g with en := false }
    (s.host.cmds.filter fun c => c.ref.ring.val == r && !c.silent).foldl cmdRingOff s
  else modRing s r fun g => { g with
    en := false, held := [], lost := satTo 255 (g.lost + g.held.length), unsig := 0, timerAt := none }

/-- Ring r is enabled (R66). DESIGN CHOICE (log 72): a count of lost events not yet reported is forgotten with LOST. -/
def ringEnable (s : State) (r : Nat) : State :=
  modRing s r fun g => { g with
    en := true, prod := 0, cons := 0, err := 0, lost := 0, lastDb := 0, held := [], unsig := 0, timerAt := none, overflow := 0 }

/-- The coalescing settings of an enabled ring change while records wait unsignalled: enough of them signal at once, and the timer
runs from the first of them (R91). -/
def ringCoal (s : State) (r : Nat) : State :=
  let g := ringOf s r
  if g.unsig = 0 then s
  else if g.coalCnt ≤ g.unsig then signal (modRing s r fun g => { g with unsig := 0, timerAt := none }) g.vector
  else modRing s r fun g => { g with timerAt := if g.coalTime = 0 then none else some (g.unsigAt + coalCounts g.coalTime) }

/-- A write of RNG_CFG (R66, R91, R104). -/
def ringCfgWrite (s : State) (r v : Nat) : State :=
  let g := ringOf s r
  let set := fun (s : State) => modRing s r fun g => { g with
    cplRing := bits v 27 24, vector := bits v 21 16, coalCnt := bits v 15 8, coalTime := bits v 7 4, sizeLog2 := bits v 3 0 }
  if g.en ∧ (bits v 27 24 ≠ g.cplRing ∨ bits v 3 0 ≠ g.sizeLog2) then ringError s r 4 v
  else if bit v 31 ∧ !(decide (6 ≤ bits v 3 0 ∧ bits v 3 0 ≤ 12)) then ringError s r 3 v
  else if bit v 31 then (if g.en then ringCoal (set s) r else ringEnable (set s) r)
  else if g.en then set (ringDisable s r)
  else set s

/-- A write of RNG_CFG that leaves a ring disabled with SIZE_LOG2 outside 6 to 12: discarded and recorded (R64, R429). -/
def ringCfgBad (s : State) (r v : Nat) : Bool :=
  !(ringOf s r).en && !bit v 31 && !(decide (6 ≤ bits v 3 0 ∧ bits v 3 0 ≤ 12))

/-- The RNG registers. -/
def rngRegs : List RegDef := [
  { block := 0x08, base := 0x0000
    read := fun s _ => b2n s.host.darkWr <<< 4 ||| b2n s.host.splitMiss <<< 3 ||| b2n s.host.ringErr <<< 2 ||| b2n s.host.accessDark
    write := fun s _ v => some { s with host := { s.host with
      splitMiss := s.host.splitMiss && !bit v 3, ringErr := s.host.ringErr && !bit v 2
      accessDark := s.host.accessDark && !bit v 0, darkCount := if bit v 0 then 0 else s.host.darkCount } } },
  { block := 0x08, base := 0x0004, read := fun s _ => s.host.darkCount <<< 24 ||| s.host.darkOffset.toNat },
  { block := 0x08, base := 0x0010, read := fun s _ => s.host.pciOpt.toNat
    write := fun s _ v => some { s with host := { s.host with pciOpt := BitVec.ofNat 32 (v % 4) } } },
  { block := 0x08, base := 0x1000, step := 16, count := 36, read := fun s r => (ringOf s r).baseLo.toNat
    write := fun s r v => some (if (ringOf s r).en then s else modRing s r fun g => { g with baseLo := BitVec.ofNat 32 (v / 4096 * 4096) }) },
  { block := 0x08, base := 0x1004, step := 16, count := 36, read := fun s r => (ringOf s r).baseHi.toNat
    write := fun s r v => some (if (ringOf s r).en then s else modRing s r fun g => { g with baseHi := BitVec.ofNat 32 v }) },
  { block := 0x08, base := 0x1008, step := 16, count := 36, read := fun s r => ringCfg (ringOf s r)
    write := fun s r v => accept (!ringCfgBad s r v) (ringCfgWrite s r v) },
  { block := 0x08, base := 0x100C, step := 16, count := 36, read := fun s r =>
      let g := ringOf s r
      g.err <<< 28 ||| b2n (ringIdle s r) <<< 27 ||| g.lost <<< 16 ||| (if r < 16 then g.cons else g.prod).toNat % 65536 },
  { block := 0x08, base := 0x1400, count := 4, read := fun s e => (vget s.host.evtMask e 0).toNat
    write := fun s e v => some { s with host := { s.host with evtMask := vmod s.host.evtMask e fun _ => BitVec.ofNat 16 v } } }]

/-- The LDL and ASY registers. -/
def ldlRegs : List RegDef := [
  { block := 0x09, base := 0x0000, step := 16, count := 8, read := fun s c => (chOf s c).vector <<< 16
    write := fun s c v => some (modCh s c fun x => { x with vector := bits v 21 16 }) },
  { block := 0x09, base := 0x0004, step := 16, count := 8
    read := fun s c =>
      let x := chOf s c
      b2n x.move.isSome <<< 31 ||| b2n x.trunc <<< 30 ||| b2n x.eoc <<< 29 ||| x.cause.toNat <<< 16 ||| x.tag.toNat
    write := fun s c v => some (if bit v 29 then modCh s c fun x => { x with eoc := false } else s) },
  { block := 0x09, base := 0x0008, step := 16, count := 8, read := fun s c => (chOf s c).count.toNat },
  { block := 0x0A, base := 0x0000, step := 16, count := 8, read := fun s c => (vget s.ldl.fb c {}).crc.toNat },
  { block := 0x0A, base := 0x0004, step := 16, count := 8
    read := fun s c =>
      let x := vget s.ldl.fb c {}
      b2n x.busy <<< 31 ||| b2n x.done <<< 30 ||| b2n x.trunc <<< 29 ||| x.ladle <<< 16 ||| x.tag.toNat
    write := fun s c v => some (if bit v 30 then modFb s c fun x => { x with done := false } else s) }]

/-! ### TB (0x0B), SYN (0x0C) -/

/-- TB_STAT.STATE and SOURCE codes. -/
def tbCode : TbState → Nat
  | .freerun => 0 | .acquiring => 1 | .locked => 2 | .holdover => 3 | .flask => 4 | .invalid => 5
def tbSrcCode : TbSource → Nat
  | .none => 0 | .pps => 1 | .ptp => 2 | .external => 3

/-- The TB registers. -/
def tbRegs : List RegDef := [
  { block := 0x0B, base := 0x0000, read := fun s _ => tbCode s.tb.state <<< 29 ||| b2n s.tb.valid <<< 28 ||| tbSrcCode s.tb.source <<< 26 },
  { block := 0x0B, base := 0x0008, count := 2, read := fun s i => half64 (i == 1) (todNsec s ||| (todSec s % 2 ^ 32) <<< 32) },
  { block := 0x0B, base := 0x0010, read := fun s _ => todSec s / 2 ^ 32 % 2 ^ 32 },
  { block := 0x0B, base := 0x0018, count := 2, read := fun s i => half64 (i == 1) s.tb.inc.toNat },
  { block := 0x0B, base := 0x0020, read := fun s _ => b2n s.tb.jumpRefused <<< 31 ||| s.tb.jumpLim
    write := fun s _ v => some (if bit v 31 then { s with tb := { s.tb with jumpRefused := false } } else s) },
  { block := 0x0B, base := 0x0024, read := fun s _ => tc 32 s.tb.refused },
  { block := 0x0B, base := 0x0028, read := fun s _ => tc 32 s.tb.srcOfs },
  { block := 0x0B, base := 0x002C, read := fun s _ => tc 32 s.tb.tickErr },
  { block := 0x0B, base := 0x0030, read := fun s _ => s.tb.gridOfs },
  { block := 0x0B, base := 0x0034, read := fun s _ => s.tb.fnOfs <<< 16 ||| frameOf s (symNow s) },
  { block := 0x0B, base := 0x0040, read := fun s _ => b2n s.tb.ppsPresent <<< 31 ||| tc 24 s.tb.ppsInDelay },
  { block := 0x0B, base := 0x0044, read := fun s _ => b2n s.tb.ppsOutEn <<< 31 ||| tc 24 s.tb.ppsOutDelay },
  { block := 0x0B, base := 0x0050, read := fun s _ =>
      s.tb.ptpPort.toNat <<< 24 ||| s.tb.ptpDomain.toNat <<< 16 ||| b2n s.tb.ptpAddr <<< 8 ||| s.tb.ptpPrio.toNat },
  { block := 0x0B, base := 0x0054, read := fun s _ =>
      b2n s.tb.ptpSelected <<< 31 ||| b2n s.tb.ptpSyncOk <<< 30 ||| s.tb.ptpClass.toNat <<< 16 ||| s.tb.ptpForeign },
  { block := 0x0B, base := 0x0100, count := 16, read := fun s n => (vget s.tb.portAdj n 0).toNat
    write := fun s n v => some { s with tb := { s.tb with portAdj := vmod s.tb.portAdj n fun _ => BitVec.ofNat 32 v } } }]

/-- SYN_STAT.STATE and SYN_REF_STAT.STATE codes. -/
def synCode : SynState → Nat
  | .off => 0 | .search => 1 | .locking => 2 | .locked => 3 | .gated => 4 | .retired => 5
def refCode : RefState → Nat
  | .locked => 0 | .acquiring => 1 | .searching => 2 | .lost => 3

/-- SYN_OUT of output k of synthesiser n (R296). -/
def synOut (s : State) (n k : Nat) : Nat :=
  let y := synthOf s n
  b2n (bit y.outEn.toNat k) <<< 31 ||| (if k = 3 then y.monK.getD y.kDiv else y.kDiv) <<< 16 ||| vget y.trim k 0

/-- A write of SYN_REF_CFG: source codes 0 to 4; the selection follows it (R290, R429). -/
def refCfgWrite (s : State) (v : Nat) : Option State :=
  accept ((List.range 4).all fun i => decide (bits v (4 * i + 3) (4 * i) ≤ 4))
    (let t := { s with syn := { s.syn with refCfg := BitVec.ofNat 32 (v % 2 ^ 19) } }
     if vget s.pwr.dom 3 .off = .on then hkCheck s (refSelect t) else t)

/-- The SYN registers. -/
def synRegs : List RegDef := [
  { block := 0x0C, base := 0x0000, read := fun s _ => s.syn.refCfg.toNat, write := fun s _ v => refCfgWrite s v },
  { block := 0x0C, base := 0x0004, read := fun s _ =>
      refCode s.syn.refState <<< 29 ||| s.syn.active.code <<< 24 ||| s.syn.qual.toNat &&& 0x1E },
  { block := 0x0C, base := 0x0008, read := fun s _ => tc 24 s.syn.ftrim },
  { block := 0x0C, base := 0x000C, read := fun s _ => b2n s.syn.spareAuto <<< 31 ||| s.syn.serves
    write := fun s _ v => some { s with syn := { s.syn with spareAuto := bit v 31 } } },
  { block := 0x0C, base := 0x0100, step := 0x20, count := 5, read := fun s n =>
      let y := synthOf s n
      synCode y.state <<< 29 ||| y.band.toNat <<< 16 ||| y.n <<< 8 ||| y.relocks },
  { block := 0x0C, base := 0x0104, step := 0x20, count := 5, read := fun s n => (synthOf s n).frac },
  { block := 0x0C, base := 0x0108, step := 0x20, count := 5, read := fun s n => synOut s n 0 },
  { block := 0x0C, base := 0x010C, step := 0x20, count := 5, read := fun s n => synOut s n 1 },
  { block := 0x0C, base := 0x0110, step := 0x20, count := 5, read := fun s n => synOut s n 2 },
  { block := 0x0C, base := 0x0114, step := 0x20, count := 5, read := fun s n => synOut s n 3 }]

/-! ### FHL (0x0D), FHM (0x0E) -/

/-- FHL_LANE_STAT.STATE. -/
def laneCode (s : State) (l : Nat) : Nat :=
  if inLts s l then 5
  else if (laneOf s l).retired then 4
  else match (laneOf s l).state with
    | .down => 0 | .training => 1 | .up => 2 | .retryWait => 3

/-- FHL_LANE_STAT. -/
def laneStat (s : State) (l : Nat) : Nat :=
  let x := laneOf s l
  laneCode s l <<< 29 ||| min 3 (recent s.tb.now x.retries).length <<< 27 ||| x.lastFault <<< 20 ||| b2n x.hiBer <<< 7 |||
    b2n x.blockLock <<< 6 ||| b2n x.lol <<< 5 ||| b2n x.los <<< 4 ||| b2n x.inDist <<< 3 |||
    b2n (x.mode == .fixed) <<< 2 ||| b2n (x.mode == .on) <<< 1 ||| b2n x.preset

/-- FHL_GRP_STAT.FEC of group k. -/
def groupFec (s : State) (k : Nat) : Nat :=
  if bits s.lanes.portFec.toNat (4 * k + 3) (4 * k) = 0 then 0 else if bit s.lanes.four.toNat k then 2 else 1

/-- The registers of one lane: offset in its page, what it reads, what a write does. -/
def laneRegs : List RegDef := [
  { block := 0x0D, base := 0x1000, step := 0x40, count := 40, read := laneStat },
  { block := 0x0D, base := 0x1004, step := 0x40, count := 40, read := fun s l =>
      let x := laneOf s l
      (64 - x.pre - x.post) <<< 16 ||| x.post <<< 8 ||| x.pre },
  { block := 0x0D, base := 0x1008, step := 0x40, count := 40, read := fun s l =>
      let x := laneOf s l
      x.loopback <<< 30 ||| b2n x.squelch <<< 29 ||| x.gen <<< 24 ||| b2n x.genInv <<< 23 ||| x.chk <<< 20 ||| b2n x.chkInv <<< 19 |||
        b2n x.chkSync <<< 18 },
  { block := 0x0D, base := 0x100C, step := 0x40, count := 40, read := fun s l => prbsErrNow s l },
  { block := 0x0D, base := 0x1010, step := 0x40, count := 40, read := fun s l => half64 false (prbsBitsNow s l).toNat },
  { block := 0x0D, base := 0x1014, step := 0x40, count := 40, read := fun s l => half64 true (prbsBitsNow s l).toNat },
  { block := 0x0D, base := 0x1018, step := 0x40, count := 40, read := fun s l => (laneOf s l).fecCorr },
  { block := 0x0D, base := 0x101C, step := 0x40, count := 40, read := fun s l => (laneOf s l).fecUnc },
  { block := 0x0D, base := 0x1020, step := 0x40, count := 40, read := fun s l => b2n (laneOf s l).rxInv <<< 1 ||| b2n (laneOf s l).txInv
    write := fun s l v => some (modLane s l fun x => { x with rxInv := bit v 1, txInv := bit v 0 }) }]

/-- The shared FHL registers. -/
def fhlRegs : List RegDef := [
  { block := 0x0D, base := 0x0000, read := fun s _ => pack 2 ((List.range 4).map (groupFec s)) <<< 4 ||| s.lanes.four.toNat },
  { block := 0x0D, base := 0x0004, read := fun s _ => s.lanes.portFec.toNat },
  { block := 0x0D, base := 0x0010, read := fun s _ => b2n s.lanes.synceEn <<< 31 ||| b2n s.lanes.synceValid <<< 30 ||| s.lanes.synceSrc
    write := fun s _ v => some (synceUpdate { s with lanes := { s.lanes with synceEn := bit v 31, synceSrc := bits v 3 0 } }) },
  { block := 0x0D, base := 0x0020, read := fun s _ => s.lanes.losDeassert <<< 8 ||| s.lanes.losAssert
    write := fun s _ v => accept (decide (40 ≤ bits v 7 0 ∧ bits v 7 0 ≤ 150 ∧ bits v 7 0 + 10 ≤ bits v 15 8))
      { s with lanes := { s.lanes with losDeassert := bits v 15 8, losAssert := bits v 7 0 } } }]

/-- The FHM registers. -/
def fhmRegs : List RegDef := [
  { block := 0x0E, base := 0x0100, count := 19, read := fun s c => vget s.fh.slag c 0
    write := fun s c v => some (if v = 0 then s else { s with fh := { s.fh with slag := vmod s.fh.slag c fun _ => 0 } }) },
  { block := 0x0E, base := 0x0200, count := 2, read := fun s c => vget s.fh.dlMiss c 0
    write := fun s c v => some (if v = 0 then s else { s with fh := { s.fh with dlMiss := vmod s.fh.dlMiss c fun _ => 0 } }) },
  { block := 0x0E, base := 0x0210, count := 2, read := fun s c =>
      let f := vget s.fh.cc c {}
      f.pool <<< 24 ||| f.comp <<< 20 ||| f.adv },
  { block := 0x0E, base := 0x0220, read := fun s _ => s.fh.peak <<< 16 ||| s.fh.held.length
    write := fun s _ v => some (if bits v 28 16 = 0 then s else { s with fh := { s.fh with peak := 0 } }) },
  { block := 0x0E, base := 0x0300, count := 16, read := fun s n => (vget s.fh.owd n 0).toNat }]

/-! ### CRU (0x0F), RUN (0x10) -/

/-- A counter of the Crucible that any bit written as 1 clears. -/
def cruCount (off : Nat) (get : Cru → Nat) (clear : Cru → Cru) : RegDef :=
  { block := 0x0F, base := off, read := fun s _ => get s.cru
    write := fun s _ v => some (if v = 0 then s else { s with cru := clear s.cru }) }

/-- A write of CRU_SCALE: the next slot tick applies it unless it comes less than 2,048 counts before (R175, R431). -/
def shiftWrite (s : State) (c ul dl : Nat) : State :=
  let s := { s with cru := { s.cru with ulShift := vmod s.cru.ulShift c fun _ => ul, dlShift := vmod s.cru.dlShift c fun _ => dl } }
  if tbOn s ∧ tickT s (roundUp 14 s.tb.airNext) < s.tb.now + 2048 then s
  else { s with cru := { s.cru with ulShiftArm := s.cru.ulShift, dlShiftArm := s.cru.dlShift } }

/-- The CRU registers. -/
def cruRegs : List RegDef := [
  { block := 0x0F, base := 0x0000, read := fun s _ => actOf s 1 <<< 5 ||| actOf s 0 <<< 4 ||| granOf s 1 <<< 1 ||| granOf s 0 },
  { block := 0x0F, base := 0x0008, count := 2, read := fun s d => match vget s.cru.swapLast d none with
      | some x => 1 <<< 31 ||| x.toNat
      | none => 0 },
  { block := 0x0F, base := 0x0010, count := 2, read := fun s c => vget s.cru.ulShift c 0 <<< 8 ||| vget s.cru.dlShift c 0
    write := fun s c v => some (shiftWrite s c (bits v 10 8) (bits v 2 0)) },
  { block := 0x0F, base := 0x0020, read := fun s _ => s.cru.gmax
    write := fun s _ v => accept (decide (0x4000 ≤ bits v 15 0 ∧ bits v 15 0 ≤ 0x7FFF)) { s with cru := { s.cru with gmax := bits v 15 0 } } },
  { block := 0x0F, base := 0x0028, count := 2, read := fun s i => half64 (i == 1) (retiredMask s) },
  { block := 0x0F, base := 0x0030, read := fun s _ =>
      pack 2 ((List.range 8).map fun i => min 3 (recent s.tb.now (potOf s i).retests).length) <<< 16 |||
        pack 2 ((List.range 8).map fun i => (potOf s i).state) },
  cruCount 0x0040 (·.satDl) fun c => { c with satDl := 0 },
  cruCount 0x0044 (·.satUl) fun c => { c with satUl := 0 },
  cruCount 0x0048 (·.fillOver) fun c => { c with fillOver := 0 },
  cruCount 0x004C (·.skip) fun c => { c with skip := 0 },
  cruCount 0x0050 (·.psumMiss) fun c => { c with psumMiss := 0 }]

/-- RUN_FLK_STAT.STATE codes. -/
def flkCode : FlkState → Nat
  | .off => 0 | .discovering => 1 | .aligning => 2 | .inService => 3 | .suspended => 4 | .conflict => 5

/-- RUN_CHAIN: the FLASK_ID at each position known, 0 from CHAIN_LEN on. -/
def runChain (s : State) : Nat :=
  pack 4 ((List.range 16).map fun p =>
    if s.run.chainLen ≤ p then 0 else ((s.run.members.find? fun m => m.2 == p).map (·.1)).getD 0)

/-- The RUN registers. -/
def runRegs : List RegDef := [
  { block := 0x10, base := 0x0000, read := fun s _ => s.run.expect.toNat
    write := fun s _ v => some { s with run := { s.run with expect := BitVec.ofNat 16 v } } },
  { block := 0x10, base := 0x0004, read := fun s _ =>
      flkCode s.run.state <<< 29 ||| s.run.chainLen <<< 24 ||| s.run.position <<< 20 ||| s.run.masterId <<< 16 |||
        b2n s.gen.master <<< 8 ||| s.gen.flaskId % 16 },
  { block := 0x10, base := 0x0008, count := 2, read := fun s i => half64 (i == 1) (runChain s) },
  { block := 0x10, base := 0x0010, read := fun s _ => (s.run.table.map fun t => t.inSvc.toNat).getD 0 },
  { block := 0x10, base := 0x0014, read := fun s _ => s.run.conflictId <<< 16 ||| s.run.conflict },
  { block := 0x10, base := 0x0020, count := 2, read := fun s d => tc 16 (vget s.run.side d {}).asym
    write := fun s d v => some (modSide s d fun x => { x with asym := sx 16 v }) },
  { block := 0x10, base := 0x0028, count := 2, read := fun s d =>
      (vget s.run.side d {}).alignLanes <<< 24 ||| (vget s.run.side d {}).theta.toNat },
  { block := 0x10, base := 0x0030, read := fun s _ => match s.run.pubSlot with
      | some x => 1 <<< 31 ||| x.toNat
      | none => 0 },
  { block := 0x10, base := 0x0034, read := fun s _ => s.run.pubSeq },
  { block := 0x10, base := 0x0038, read := fun s _ => s.run.shedUl <<< 16 ||| s.run.shedDl },
  { block := 0x10, base := 0x0040, read := fun s _ => s.run.rsvDl.toNat },
  { block := 0x10, base := 0x0044, read := fun s _ => s.run.rsvUl.toNat },
  { block := 0x10, base := 0x0050, count := 2, read := fun s d => (vget s.run.side d {}).disc
    write := fun s d v => some (if v = 0 then s else modSide s d fun x => { x with disc := 0 }) }]

/-! ### ANL (0x11), MOD (0x12), CXG (0x13), TMP (0x14) -/

/-- ANL_STAT.STATE codes. -/
def anlCode : AnlState → Nat
  | .idle => 0 | .waiting => 1 | .meas1 => 2 | .meas2 => 3 | .applying => 4 | .blocked => 5

/-- Corrections of path p. -/
def corrOf (s : State) (p : Nat) : AnlCorr := vget s.anl.corr p {}

/-- A 64-bit value with one half set. -/
def setWordHalf (hi : Bool) (v : Nat) (x : BitVec 64) : BitVec 64 :=
  BitVec.ofNat 64 (if hi then x.toNat % 2 ^ 32 + v * 2 ^ 32 else x.toNat / 2 ^ 32 * 2 ^ 32 + v)

/-- The ANL registers. -/
def anlRegs : List RegDef := [
  { block := 0x11, base := 0x0000, read := fun s _ => s.anl.cfg.toNat
    write := fun s _ v => accept (decide (-50 ≤ sx 8 (bits v 31 24) ∧ sx 8 (bits v 31 24) ≤ -10 ∧ 2 ≤ bits v 6 0 ∧ bits v 6 0 ≤ 80))
      { s with anl := { s.anl with cfg := BitVec.ofNat 32 (v &&& 0xFFFF007F) } } },
  { block := 0x11, base := 0x0004, read := fun s _ => s.anl.tol.toNat
    write := fun s _ v => accept (bits v 23 16 != 0 && bits v 15 8 != 0 && bits v 7 0 != 0)
      { s with anl := { s.anl with tol := BitVec.ofNat 32 (v % 2 ^ 24) } } },
  { block := 0x11, base := 0x0008, read := fun s _ =>
      anlCode s.anl.state <<< 29 ||| s.anl.attempt <<< 26 ||| b2n s.anl.pending <<< 25 ||| b2n (anlNoBase s) <<< 24 |||
        s.anl.trigger <<< 16 ||| s.anl.lastCause <<< 8 },
  { block := 0x11, base := 0x000C, read := fun s _ => s.anl.failed <<< 16 ||| s.anl.done },
  { block := 0x11, base := 0x0010, read := fun s _ => match s.anl.last with
      | some x => 1 <<< 31 ||| x.toNat
      | none => 0 },
  { block := 0x11, base := 0x0020, count := 4, read := fun s q => (vget s.anl.tref q 0).toNat },
  { block := 0x11, base := 0x0030, count := 2, read := fun s i => half64 (i == 1) s.anl.stale.toNat },
  { block := 0x11, base := 0x0040, count := 4, read := fun s i => half64 (i % 2 == 1) (vget s.anl.edge (i / 2) 0).toNat
    write := fun s i v => some { s with anl := { s.anl with edge := vmod s.anl.edge (i / 2) (setWordHalf (i % 2 == 1) v) } } },
  { block := 0x11, base := 0x0100, step := 16, count := 64, read := fun s p => (corrOf s p).txPhase.toNat <<< 16 ||| (corrOf s p).txAmp.toNat },
  { block := 0x11, base := 0x0104, step := 16, count := 64, read := fun s p => (corrOf s p).txDly.toNat },
  { block := 0x11, base := 0x0108, step := 16, count := 64, read := fun s p => (corrOf s p).rxPhase.toNat <<< 16 ||| (corrOf s p).rxAmp.toNat },
  { block := 0x11, base := 0x010C, step := 16, count := 64, read := fun s p => (corrOf s p).rxDly.toNat },
  { block := 0x11, base := 0x0500, count := 64, read := fun s p => (corrOf s p).dac.toNat <<< 8 ||| (corrOf s p).adc.toNat },
  { block := 0x11, base := 0x0800, count := 16, read := fun s i => (vget s.anl.edgeRes i 0).toNat }]

/-- A write of MOD_PINFN: LOCK fixes the functions until reset; a fan output assigned to Link Test is no longer driven by fan control
(R56). -/
def pinfnWrite (s : State) (v : Nat) : State :=
  if bit s.mod.pinfn.toNat 31 then s
  else
    let s := { s with mod := { s.mod with pinfn := BitVec.ofNat 32 (v &&& 0x80000007) } }
    { s with thm := { s.thm with fan := vall s.thm.fan fun i f => if fanTest s i then { f with duty := 0 } else f } }

/-- The MOD registers. -/
def modRegs : List RegDef := [
  { block := 0x12, base := 0x0000, count := 2, read := fun s c =>
      let x := vget s.mod.cc c ⟨0, 0, 0⟩
      x.resume.toNat <<< 16 ||| x.lastCause.toNat <<< 8 ||| x.set.toNat },
  { block := 0x12, base := 0x0010, read := fun s _ => s.mod.ltsFh.toNat },
  { block := 0x12, base := 0x0014, read := fun s _ => s.mod.ltsCx.toNat },
  { block := 0x12, base := 0x0020, read := fun s _ => s.mod.pinfn.toNat, write := fun s _ v => some (pinfnWrite s v) },
  { block := 0x12, base := 0x0030, read := fun s _ =>
      pack 2 ((List.range 4).map fun q => vget s.mod.gpHolder q 0) <<< 24 ||| pack 3 ((List.range 8).map fun o => (vget s.rx.orx o {}).holder) },
  { block := 0x12, base := 0x0040
    read := fun s _ => s.mod.surveySeq <<< 24 ||| b2n (bandBlank s) <<< 15 ||| (s.gen.bootband % 8) <<< 12 ||| s.mod.surveySel
    write := fun s _ v => some { s with mod := { s.mod with surveySel := bits v 5 0 } } },
  { block := 0x12, base := 0x0100, count := 64, read := fun s p => (vget s.mod.rssi p 0).toNat },
  { block := 0x12, base := 0x0200, count := 128, read := fun s i =>
      (vget s.mod.bins (2 * i + 1) 0).toNat <<< 16 ||| (vget s.mod.bins (2 * i) 0).toNat }]

/-- The CXG registers. -/
def cxgRegs : List RegDef := [
  { block := 0x13, base := 0x0000, step := 16, count := 4, read := fun s i =>
      let x := coxOf s i
      b2n x.en <<< 31 ||| b2n x.reqPol <<< 30 ||| b2n x.gntPol <<< 29 ||| x.reqLead },
  { block := 0x13, base := 0x0004, step := 16, count := 4, read := fun s i => (coxOf s i).cnt
    write := fun s i v => some (if v = 0 then s else modCox s i fun x => { x with cnt := 0 }) },
  { block := 0x13, base := 0x0008, step := 16, count := 4, read := fun s i => half64 false (coxOf s i).paths.toNat },
  { block := 0x13, base := 0x000C, step := 16, count := 4, read := fun s i => half64 true (coxOf s i).paths.toNat },
  { block := 0x13, base := 0x0040, read := fun s _ =>
      maskOf ((List.range 4).filter (coxGranted s)) <<< 4 ||| maskOf ((List.range 4).filter (coxRequests s)) }]

/-- The TMP registers. -/
def tmpRegs : List RegDef := [
  { block := 0x14, base := 0x0000, count := 8, read := fun s o =>
      let x := vget s.rx.orx o {}
      x.coupler <<< 24 ||| x.att <<< 16 ||| x.hostAtt },
  { block := 0x14, base := 0x0100, count := 64, read := fun s p => (vget s.rx.orxDly p 0).toNat }]

/-! ### TXP (0x15), RXP (0x16), DPD (0x17): pages, instance p at 0x1000 × p, and the shared page -/

/-- TXP_CC_MUTE's bits of a carrier. -/
def ccMute (s : State) (c : Nat) : Nat :=
  b2n (!(hasMode s c 1 || hasMode s c 2)) ||| b2n (!windowOk s c) <<< 1 ||| b2n (suspended s c) <<< 2

/-- A write of TXP_LINES keeps R259's limits. -/
def linesOk (v : Nat) : Bool :=
  decide (bits v 7 0 ≤ 60 ∧ bits v 7 0 + 8 ≤ bits v 15 8 ∧ bits v 23 16 ≤ 247 ∧ bits v 23 16 + 8 ≤ bits v 31 24)

/-- The TXP registers. -/
def txpRegs : List RegDef := [
  { block := 0x15, base := 0x0000, step := 0x1000, count := 64
    read := fun s p => b2n (txOf s p).en <<< 31 ||| b2n (txOf s p).mute <<< 30 ||| (txOf s p).pol.toNat
    write := fun s p v => some (modTx s p fun t => { t with pol := BitVec.ofNat 3 v }) },
  { block := 0x15, base := 0x0004, step := 0x1000, count := 64, read := whyOf },
  { block := 0x15, base := 0x0008, step := 0x1000, count := 64, read := fun s p => tc 16 (txOf s p).eff <<< 16 ||| tc 16 (txOf s p).set },
  { block := 0x15, base := 0x000C, step := 0x1000, count := 64, read := fun s p => (txOf s p).compT.toNat
    write := fun s p v => some (modTx s p fun t => { t with compT := BitVec.ofNat 32 (v &&& 0xFFF00FFF) }) },
  { block := 0x15, base := 0x0010, step := 0x1000, count := 64, read := fun s p => (txOf s p).compV.toNat
    write := fun s p v => accept (decide (bits v 31 24 ≤ 159 ∨ bits v 31 24 = 255)) (modTx s p fun t => { t with compV := BitVec.ofNat 32 v }) },
  { block := 0x15, base := 0x0014, step := 0x1000, count := 64, read := fun s p => tc 16 (ceilOf s p) <<< 16 ||| tc 16 (compCode s p) },
  { block := 0x15, base := 0x0018, step := 0x1000, count := 64
    read := fun s p => tc 16 (txOf s p).meterOut <<< 16 ||| (txOf s p).limited
    write := fun s p v => some (if bits v 15 0 = 0 then s else modTx s p fun t => { t with limited := 0 }) },
  { block := 0x15, base := 0x40000, read := fun s _ => tokenPool s },
  { block := 0x15, base := 0x40004, read := fun s _ => tokSum s % 2 ^ 32 },
  { block := 0x15, base := 0x40008, read := fun s _ => dutyMax s <<< 24 ||| b2n (txPermit s) <<< 16 ||| tc 16 (pathMax s) },
  { block := 0x15, base := 0x40010, read := fun s _ => s.tx.stages <<< 16 ||| s.tx.papr },
  { block := 0x15, base := 0x40014, read := fun s _ => s.tx.lines.toNat
    write := fun s _ v => accept (linesOk v) { s with tx := { s.tx with lines := BitVec.ofNat 32 v } } },
  { block := 0x15, base := 0x40018, read := fun s _ => (dutyBudget s % 1024) <<< 12 ||| ccMute s 1 <<< 3 ||| ccMute s 0 },
  { block := 0x15, base := 0x40020, count := 4, read := fun s q => vget s.tx.lateLo q 0
    write := fun s q v => some (if v = 0 then s else { s with tx := { s.tx with lateLo := vmod s.tx.lateLo q fun _ => 0 } }) },
  { block := 0x15, base := 0x40040, step := 8, count := 8, read := fun s w => (windowOf s w).1 },
  { block := 0x15, base := 0x40044, step := 8, count := 8, read := fun s w => (windowOf s w).2 }]



/-- RXP_STAT.SETTLING of path p (R277, R281). -/
def settling (s : State) (p : Nat) : Bool := (rxOf s p).ovl || (rxOf s p).settles.any fun x => decide (x.1 ≤ s.tb.now ∧ s.tb.now < x.2)

/-- RXP_GD.GD: the group delay of a path's chain, 1/256 count, which the spec states only as below 200 counts (R270; log 10). -/
def groupDelayOf (s : State) (p : Nat) : Nat :=
  let r := rxOf s p
  (Config.groupDelay r.cicDec r.cicOrder r.firLen r.custom).toNat % 51200

/-- A capture into a target is in progress. -/
def capBusy (s : State) (t : Nat) : Bool := s.host.cmds.any fun c => cmdRuns c && dOp c.d == 0x0041 && capTarget c.d == t

/-- The RXP registers. -/
def rxpRegs : List RegDef := [
  { block := 0x16, base := 0x0000, step := 0x1000, count := 64, read := fun s p =>
      let r := rxOf s p
      r.xf <<< 14 ||| r.firLen <<< 12 ||| b2n r.custom <<< 11 ||| r.cicDec <<< 8 ||| r.cicOrder <<< 4 ||| r.ifSide },
  { block := 0x16, base := 0x0004, step := 0x1000, count := 64, read := fun s p =>
      let r := rxOf s p
      tc 16 r.dgain <<< 16 ||| r.gmode <<< 8 ||| r.att },
  { block := 0x16, base := 0x0008, step := 0x1000, count := 64, read := fun s p =>
      let r := rxOf s p
      b2n r.protEn <<< 31 ||| b2n (lnapActive s p) <<< 30 ||| b2n r.ovl <<< 29 ||| r.nOvl <<< 8 ||| r.thr },
  { block := 0x16, base := 0x000C, step := 0x1000, count := 64, read := fun s p => nSettle (rxOf s p) <<< 16 ||| groupDelayOf s p },
  { block := 0x16, base := 0x0010, step := 0x1000, count := 64, read := fun s p =>
      let r := rxOf s p
      b2n r.blanked <<< 3 ||| b2n r.lateLo <<< 2 ||| b2n r.settledLast <<< 1 ||| b2n (settling s p) },
  { block := 0x16, base := 0x0014, step := 0x1000, count := 64, read := fun s p => tc 16 (rxOf s p).irrPhase <<< 16 ||| tc 16 (rxOf s p).irrGain },
  { block := 0x16, base := 0x0018, step := 0x1000, count := 64, read := fun s p => (rxOf s p).ovlCnt
    write := fun s p v => some (if v = 0 then s else modRx s p fun r => { r with ovlCnt := 0 }) },
  { block := 0x16, base := 0x001C, step := 0x1000, count := 64, read := fun s p => (rxOf s p).satCnt
    write := fun s p v => some (if v = 0 then s else modRx s p fun r => { r with satCnt := 0 }) },
  { block := 0x16, base := 0x40000, read := fun s _ => s.rx.winAdv <<< 16 ||| s.rx.recov <<< 8 ||| s.rx.lpLag <<< 4 ||| s.rx.lpLead },
  { block := 0x16, base := 0x40010, read := fun s _ => b2n (capBusy s 1) <<< 31 ||| b2n (capBusy s 2) <<< 30 ||| s.rx.capBytes },
  { block := 0x16, base := 0x40020, count := 4, read := fun s q => vget s.rx.lateLo q 0
    write := fun s q v => some (if v = 0 then s else { s with rx := { s.rx with lateLo := vmod s.rx.lateLo q fun _ => 0 } }) }]

/-- DPD_COEF_I (0) or DPD_COEF_Q (1) of entry i of path p, as array instance 64 × p + i of the pages (R239). -/
def dpdCoefRead (s : State) (p o : Nat) : Nat := half64 (o / 4 % 2 == 1) (coefAt (dpdOf s p).coef ((o - 0x100) / 8)).toNat

/-- The DPD registers but for the coefficients. -/
def dpdRegs : List RegDef := [
  { block := 0x17, base := 0x0000, step := 0x1000, count := 64, read := fun s p =>
      let x := dpdOf s p
      x.nbrB <<< 24 ||| x.nbrA <<< 16 ||| x.mc <<< 8 ||| x.m <<< 4 ||| x.k },
  { block := 0x17, base := 0x0004, step := 0x1000, count := 64, read := fun s p =>
      let x := dpdOf s p
      x.state <<< 30 ||| b2n x.due <<< 29 ||| b2n x.stale <<< 28 ||| x.rejects <<< 16 ||| x.updates },
  { block := 0x17, base := 0x0008, step := 0x1000, count := 64, read := fun s p => tc 16 (dpdOf s p).nmse <<< 16 },
  { block := 0x17, base := 0x000C, step := 0x1000, count := 64, read := fun s p => match (dpdOf s p).last with
      | some x => 1 <<< 31 ||| x.toNat
      | none => 0 },
  { block := 0x17, base := 0x0010, step := 0x1000, count := 64, read := fun s p => tc 16 (dpdOf s p).qecPhase <<< 16 ||| tc 16 (dpdOf s p).qecGain },
  { block := 0x17, base := 0x0014, step := 0x1000, count := 64, read := fun s p => tc 16 (dpdOf s p).lolQ <<< 16 ||| tc 16 (dpdOf s p).lolI },
  { block := 0x17, base := 0x40000, read := fun s _ => s.tx.refresh <<< 24 ||| s.tx.divThr <<< 16 }]

/-! ### Finding a register (R424, R425) -/

/-- Block number and offset in it; none where BAR 0 is unmapped. -/
def locate (off : Nat) : Option (Nat × Nat) :=
  if off < 0x150000 then some (off / 0x10000, off % 0x10000)
  else if 0x200000 ≤ off ∧ off < 0x250000 then some (0x15, off - 0x200000)
  else if 0x600000 ≤ off ∧ off < 0x650000 then some (0x16, off - 0x600000)
  else if 0xA00000 ≤ off ∧ off < 0xA50000 then some (0x17, off - 0xA00000)
  else none

/-- The registers of a block. -/
def blockRegs (b : Nat) : List RegDef :=
  [genRegs, fusRegs, pwrRegs, hldRegs, thmRegs, biaRegs, hkaRegs, hbkRegs, rngRegs, ldlRegs, ldlRegs, tbRegs, synRegs, fhlRegs ++ laneRegs,
   fhmRegs, cruRegs, runRegs, anlRegs, modRegs, cxgRegs, tmpRegs, txpRegs, rxpRegs, dpdRegs].getD b []

/-- A place is a coefficient of DPD: page and offset in it. -/
def coefPlace (b o : Nat) : Option (Nat × Nat) :=
  if b = 0x17 ∧ o < 0x40000 ∧ 0x100 ≤ o % 0x1000 ∧ o % 0x1000 < 0x300 then some (o / 0x1000, o % 0x1000) else none

/-- The register at a place of a block, with its instance. -/
def regAt (b o : Nat) : Option (RegDef × Nat) :=
  match coefPlace b o with
  | some x => if o % 4 = 0 then some ({ block := b, base := o, read := fun s _ => dpdCoefRead s x.1 x.2 }, 0) else none
  | none => (blockRegs b).findSome? fun r => if r.block = b then (r.inst o).map fun i => (r, i) else none

/-- The word at an offset; 0 where nothing is defined (R427). -/
def wordRead (s : State) (off : Nat) : Nat :=
  match locate off with
  | none => 0
  | some (b, o) => match regAt b o with
    | some (r, i) => r.read s i % 2 ^ 32
    | none => 0

/-- A register is defined at an offset. -/
def wordDefined (off : Nat) : Bool :=
  match locate off with
  | none => false
  | some (b, o) => (regAt b o).isSome

/-- The power domain of a place, and whether its clock is CK_HK (R424). -/
def placeDomain (b o : Nat) : Nat × Bool :=
  if b = 0 then (if o / 4 = 3 then (0, false) else (1, true))
  else if b ≤ 7 then (0, false)
  else if b = 8 then (1, false)
  else match b with
    | 0x0B => (2, true)
    | 0x0C => (3, true)
    | 0x0D => if 0x1000 ≤ o ∧ o < 0x1A00 then (laneDom ((o - 0x1000) / 0x40), true) else (1, true)
    | 0x0F => (8, true)
    | 0x11 => (9, true)
    | 0x14 => (9, true)
    | 0x15 => if o < 0x40000 then (10 + o / 0x10000, true) else (1, true)
    | 0x16 => if o < 0x40000 then (10 + o / 0x10000, true) else (1, true)
    | 0x17 => (9, true)
    | _ => (1, true)

/-- The block that is dark at an offset (R92, R427). -/
def darkAt (s : State) (off : Nat) : Option Nat :=
  match locate off with
  | none => none
  | some (b, o) =>
    let d := placeDomain b o
    if !domOn s d.1 || (d.2 && !clkOn s) then some b else none

/-- Low words of 64-bit quantities: block, first offset, step, number, and whether it is RW (R94, R96). -/
def pairs : List (Nat × Nat × Nat × Nat × Bool) := [
  (0x01, 0x0000, 8, 1, false), (0x07, 0x0010, 8, 1, false), (0x0B, 0x0008, 8, 1, false), (0x0B, 0x0018, 8, 1, false),
  (0x0D, 0x1010, 0x40, 40, false), (0x0F, 0x0028, 8, 1, false), (0x10, 0x0008, 8, 1, false), (0x11, 0x0030, 8, 1, false),
  (0x11, 0x0040, 8, 2, true), (0x13, 0x0008, 16, 4, false)]

/-- The offset is the low word of a 64-bit quantity: whether that quantity is RW. -/
def lowWord (off : Nat) : Option Bool :=
  match locate off with
  | none => none
  | some (b, o) => pairs.findSome? fun p =>
      if p.1 = b ∧ p.2.1 ≤ o ∧ (o - p.2.1) % p.2.2.1 = 0 ∧ (o - p.2.1) / p.2.2.1 < p.2.2.2.1 then some p.2.2.2.2 else none

/-- The offset is the high word of one. -/
def highWord (off : Nat) : Option Bool := if 4 ≤ off then lowWord (off - 4) else none

end Sys2Proof.Machine
end

