-- ==== Sys2Proof/Machine/Commands.lean ====
section
/-! DEFINITION. The control port (03, 16): BAR 0 requests with their dark, split and illegal forms, the MSI-X table, doorbells,
the fetch of descriptors, held commands, the ring rows, and the end of a domain's exit, which answers the requests that waited. -/

namespace Sys2Proof.Machine

/-! ### BAR 0 requests (R92–R96, R426–R430) -/

/-- A request is answered. -/
def respond (s : State) (r : Resp) : State := { s with host := { s.host with resp := r } }

/-- A request that completes with Completer Abort (R426). -/
def reqAborts (off len : Nat) : Bool :=
  if len = 0 then false
  else if len = 3 then decide (2 ≤ off % 4)
  else if len = 1 ∨ len = 2 ∨ len = 4 ∨ len = 8 then decide (off % len ≠ 0)
  else true

/-- A dark access is recorded (R93). -/
def darkNote (s : State) (off : Nat) (wr : Bool) (b v : Nat) : State :=
  let first := !s.host.accessDark
  let s := { s with host := { s.host with
    accessDark := true, darkWr := wr, darkOffset := BitVec.ofNat 24 off, darkCount := satTo 255 (s.host.darkCount + 1) } }
  if first then post s 0x0102 9 0xFFFF (off ||| b2n wr <<< 32 ||| b <<< 40 ||| v <<< 64) else s

/-- What a read of dark block b returns (R92). -/
def darkWord (b : Nat) : Nat := 0x0BAD0000 + b

/-- The requester's shadow of a quantity, taken out of the eight (R94, R95). -/
def shadowOf (s : State) (req : BitVec 16) : Option Shadow := s.host.shadows.find? fun x => x.req == req

/-- A shadow latched: the requester's earlier one goes, and a ninth requester takes the least recently used (R94, R95). -/
def shadowLatch (s : State) (x : Shadow) : State :=
  { s with host := { s.host with shadows := (x :: s.host.shadows.filter fun y => !(y.req == x.req)).take 8 } }

/-- A requester's shadow consumed. -/
def shadowDrop (s : State) (req : BitVec 16) : State :=
  { s with host := { s.host with shadows := s.host.shadows.filter fun y => !(y.req == req) } }

/-- SPLIT_MISS (R94, R96). -/
def splitMiss (s : State) : State := { s with host := { s.host with splitMiss := true } }

/-- A read of one whole word that is not dark, with its side effects: the pop of HKA_QPOP, the latch of a high word, the use of
a shadow (R94, R430). -/
def wordGet (s : State) (req : BitVec 16) (off : Nat) : State × Nat :=
  if off = 0x60030 then (hkPop s, hkHead s)
  else if (lowWord off).isSome then (shadowLatch s ⟨req, off, BitVec.ofNat 32 (wordRead s (off + 4))⟩, wordRead s off)
  else if (highWord off).isSome then
    match shadowOf s req with
    | some x => if x.off + 4 = off then (shadowDrop s req, x.word.toNat) else (splitMiss s, wordRead s off)
    | none => (splitMiss s, wordRead s off)
  else (s, wordRead s off)

/-- The bytes of a word that a request of at most four bytes enables. -/
def enabledBytes (off len w : Nat) : Nat := (w >>> (8 * (off % 4))) % 2 ^ (8 * len)

/-- A read of at most one word. -/
def partRead (s : State) (req : BitVec 16) (off len : Nat) : State × Nat :=
  match darkAt s off with
  | some b =>
    let v := enabledBytes off len (darkWord b)
    (darkNote s off false b v, v)
  | none =>
    let r := wordGet s req (off / 4 * 4)
    (r.1, enabledBytes off len r.2)

/-- A BAR 0 read (R92–R94, R426). -/
def busRead (s : State) (req : BitVec 16) (off len : Nat) : State :=
  if reqAborts off len then respond s .abort
  else if len = 0 then respond s (.data 0)
  else if len = 8 then
    if (lowWord off).isSome then
      match darkAt s off with
      | some b => respond (darkNote s off false b (darkWord b)) (.data (BitVec.ofNat 64 (darkWord b + darkWord b * 2 ^ 32)))
      | none => respond s (.data (BitVec.ofNat 64 (wordRead s off + wordRead s (off + 4) * 2 ^ 32)))
    else
      let a := partRead s req off 4
      let b := partRead a.1 req (off + 4) 4
      respond b.1 (.data (BitVec.ofNat 64 (a.2 + b.2 * 2 ^ 32)))
  else
    let a := partRead s req off len
    respond a.1 (.data (BitVec.ofNat 64 a.2))

/-- A discarded write recorded in GEN_WR_REJ (R426, R429). -/
def writeReject (s : State) (off : Nat) : State :=
  { s with gen := { s.gen with
    wrRej := true, wrRejCount := satTo 0x7F (s.gen.wrRejCount + 1), wrRejOffset := BitVec.ofNat 24 off } }

/-- A whole word written to a defined register (R16, R429). -/
def wordSet (s : State) (off v : Nat) : State :=
  match locate off with
  | none => s
  | some (b, o) => match regAt b o with
    | none => s
    | some (r, i) => match r.write s i v with
      | some t => t
      | none => writeReject s off

/-- The held low word of a requester (R96). -/
def heldOf (s : State) (req : BitVec 16) : Option Shadow := s.host.heldLow.find? fun x => x.req == req

/-- A requester's held low word is no longer held. -/
def heldDrop (s : State) (req : BitVec 16) : State :=
  { s with host := { s.host with heldLow := s.host.heldLow.filter fun y => !(y.req == req) } }

/-- A held low word dropped with SPLIT_MISS, if there is one (R96). -/
def heldMiss (s : State) (req : BitVec 16) : State := if (heldOf s req).isSome then splitMiss (heldDrop s req) else s

/-- A 4-byte write that is not dark and names a defined register: halves of RW quantities wait for each other (R96). -/
def wordPut (s : State) (req : BitVec 16) (off v : Nat) : State :=
  if (lowWord off).isSome then
    let s := heldMiss s req
    if lowWord off = some true then
      { s with host := { s.host with heldLow := s.host.heldLow ++ [⟨req, off, BitVec.ofNat 32 v⟩] } }
    else wordSet s off v
  else if (highWord off).isSome then
    match heldOf s req with
    | some x =>
      if x.off + 4 = off then wordSet (wordSet (heldDrop s req) x.off x.word.toNat) off v
      else wordSet (heldMiss s req) off v
    | none => wordSet s off v
  else wordSet s off v

/-- A write of at most one word, in R427's order: dark, undefined, narrow, checked. -/
def partWrite (s : State) (req : BitVec 16) (off len v : Nat) : State :=
  match darkAt s off with
  | some b => darkNote s off true b 0
  | none =>
    if !wordDefined (off / 4 * 4) then s
    else if len < 4 then writeReject s off
    else wordPut s req off (v % 2 ^ 32)

/-- A BAR 0 write (R92–R96, R426, R427). -/
def busWrite (s : State) (req : BitVec 16) (off len v : Nat) : State :=
  if reqAborts off len then respond s .abort
  else if len = 0 then respond s .written
  else if len = 8 then
    if (lowWord off).isSome then
      match darkAt s off with
      | some b => respond (darkNote s off true b 0) .written
      | none => respond (wordSet (wordSet s off (v % 2 ^ 32)) (off + 4) (v / 2 ^ 32 % 2 ^ 32)) .written
    else respond (partWrite (partWrite s req off 4 v) req (off + 4) 4 (v / 2 ^ 32)) .written
  else respond (partWrite s req off len v) .written

/-- A BAR 0 request. -/
def busAccess (s : State) (q : BusReq) : State :=
  if q.write then busWrite s q.req q.off.toNat q.len q.value.toNat else busRead s q.req q.off.toNat q.len

/-- A BAR 0 request while CTL is on; one that meets CTL elsewhere is CTL_WAKE_REQUEST's (log 9). -/
def busIf (dt : Nat) (ok : Bool) (q : BusReq) (s : State) : State :=
  let s := arrive dt s
  if domOn s 1 && ok then busAccess s q else s

/-- LOW_WORD_READ: a 4-byte read of the low word of a 64-bit quantity (R94). -/
def execLowWordRead (dt : Nat) (req : BitVec 16) (off : BitVec 24) (s : State) : Host.Outcome State Fault Refusal :=
  .next (busIf dt (lowWord off.toNat).isSome { req := req, off := off } s)

/-- HIGH_WORD_READ: a 4-byte read of the high word of one (R94). -/
def execHighWordRead (dt : Nat) (req : BitVec 16) (off : BitVec 24) (s : State) : Host.Outcome State Fault Refusal :=
  .next (busIf dt (highWord off.toNat).isSome { req := req, off := off } s)

/-- LOW_WORD_WRITE: a 4-byte write to the low word of a 64-bit RW quantity (R96). -/
def execLowWordWrite (dt : Nat) (req : BitVec 16) (off : BitVec 24) (value : BitVec 32) (s : State) : Host.Outcome State Fault Refusal :=
  .next (busIf dt (lowWord off.toNat == some true) { req := req, write := true, off := off, value := value.setWidth 64 } s)

/-- HIGH_WORD_WRITE: a 4-byte write to the high word of one (R96). -/
def execHighWordWrite (dt : Nat) (req : BitVec 16) (off : BitVec 24) (value : BitVec 32) (s : State) : Host.Outcome State Fault Refusal :=
  .next (busIf dt (highWord off.toNat == some true) { req := req, write := true, off := off, value := value.setWidth 64 } s)

/-- HKA_QPOP_READ: a read of HKA_QPOP returns and removes the oldest entry (R359). -/
def execHkaQpopRead (dt : Nat) (s : State) : Host.Outcome State Fault Refusal :=
  .next (busIf dt true { off := 0x60030 } s)

/-- ACCESS_DARK: an access to a dark block (R92, R93). -/
def execAccessDark (dt : Nat) (req : BusReq) (s : State) : Host.Outcome State Fault Refusal :=
  .next (busIf dt (darkAt (arrive dt s) req.off.toNat).isSome req s)

/-- COMPLETER_ABORT: a request of illegal size or alignment (R426). -/
def execCompleterAbort (dt : Nat) (req : BusReq) (s : State) : Host.Outcome State Fault Refusal :=
  .next (busIf dt (reqAborts req.off.toNat req.len) req s)

/-! ### MSI-X (R90) -/

/-- The pending message of a vector goes out once nothing masks it. -/
def pendingSend (s : State) (v : Nat) : State :=
  let e := vget s.host.msix v {}
  if s.host.msixEn && !s.host.msixFnMask && !e.masked && e.pending then
    send { s with host := { s.host with msix := vmod s.host.msix v fun e => { e with pending := false } } } (.msix v e.addr e.data)
  else s

/-- A word of the MSI-X table: address, data, vector control of entry v. -/
def msixWord (s : State) (v w x : Nat) : State :=
  let s := { s with host := { s.host with msix := vmod s.host.msix v fun e =>
    (match w with
      | 0 => { e with addr := BitVec.ofNat 64 (e.addr.toNat / 2 ^ 32 * 2 ^ 32 + x / 4 * 4) }
      | 1 => { e with addr := BitVec.ofNat 64 (e.addr.toNat % 2 ^ 32 + x * 2 ^ 32) }
      | 2 => { e with data := BitVec.ofNat 32 x }
      | _ => { e with masked := bit x 0 }) } }
  pendingSend s v

/-- What a word of the MSI-X table reads. -/
def msixRead (e : MsixEntry) (w : Nat) : Nat :=
  match w with
  | 0 => e.addr.toNat % 2 ^ 32
  | 1 => e.addr.toNat / 2 ^ 32
  | 2 => e.data.toNat
  | _ => b2n e.masked

/-- A word of BAR 2 as it reads: the MSI-X table, the pending bits, 0 elsewhere. -/
def bar2Read (s : State) (off : Nat) : Nat :=
  if 0x8000 ≤ off ∧ off < 0x8400 then msixRead (vget s.host.msix ((off - 0x8000) / 16) {}) (off / 4 % 4)
  else if off = 0xC000 ∨ off = 0xC004 then
    half64 (off == 0xC004) (maskOf ((List.range 64).filter fun v => (vget s.host.msix v {}).pending))
  else 0

/-- A word written to BAR 2 outside the doorbells. -/
def bar2Write (s : State) (off x : Nat) : State :=
  if 0x8000 ≤ off ∧ off < 0x8400 then msixWord s ((off - 0x8000) / 16) (off / 4 % 4) (x % 2 ^ 32) else s

/-! ### Doorbells (R67, R70), BAR 2 and configuration space -/

/-- A doorbell write as R70 decides it: the error of a discard, or whether it moves the index. -/
def doorbellCheck (g : Ring) (command : Bool) (width : Nat) (v : BitVec 32) : Nat :=
  let d := (v - g.lastDb).toNat
  let ahead := (v - (if command then g.cons else g.prod)).toNat
  if width ≠ 4 then 6
  else if !g.en then 7
  else if 2 ^ 31 ≤ d then 2
  else if ahead < 2 ^ 31 ∧ (if command then ringSize g < ahead else 1 ≤ ahead) then 1
  else 0

/-- A doorbell of ring r (R67, R70). -/
def doorbell (s : State) (r width : Nat) (v : BitVec 32) : State :=
  let g := ringOf s r
  let err := doorbellCheck g (r < 16) width v
  if err ≠ 0 then ringError s r err (if err = 6 then 0 else v.toNat)
  else if r < 16 then modRing s r fun g => { g with prod := v, lastDb := v }
  else
    let s := modRing s r fun g => { g with cons := v, lastDb := v }
    if r < 32 then recordDrain ((ringOf s r).held.length + 1) s r else evtOverflow s r

/-- The ring whose doorbell a BAR 2 offset lies in (R67). -/
def doorbellRing (off : Nat) : Option Nat := if off < 288 ∧ off % 8 < 4 then some (off / 8) else none

/-- A BAR 2 request outside the doorbells: whole aligned words; anything narrower reads 0 and writes nothing (log 9). -/
def bar2Access (s : State) (q : BusReq) : State :=
  let off := q.off.toNat % 0x10000
  let words := if (q.len = 4 ∨ q.len = 8) ∧ off % q.len = 0 then q.len / 4 else 0
  if q.write then
    let s := if 1 ≤ words then bar2Write s off q.value.toNat else s
    respond (if 2 ≤ words then bar2Write s (off + 4) (q.value.toNat / 2 ^ 32) else s) .written
  else
    respond s (.data (BitVec.ofNat 64 ((if 1 ≤ words then bar2Read s off else 0) + (if 2 ≤ words then bar2Read s (off + 4) * 2 ^ 32 else 0))))

/-- A write of the MSI-X message control word: Enable and Function Mask (PRESUMED from PCI Express; log 14). -/
def msixControlWrite (s : State) (v : Nat) : State :=
  forAll 64 { s with host := { s.host with msixEn := bit v 15, msixFnMask := bit v 14, resp := .written } } pendingSend

/-- A read of configuration space: the IDs at offset 0x00, the serial number, the failures that AER has noted (R61; log 5, log 64). -/
def configRead (s : State) (x : Space) : Nat :=
  match x with
  | .configId => fuse s 159 144 ||| 0x6464 <<< 16
  | .serialNumber => deviceId s
  | .aer => b2n s.host.aerRead ||| b2n s.host.aerWrite <<< 1
  | _ => b2n s.host.msixEn <<< 15 ||| b2n s.host.msixFnMask <<< 14 ||| 63

/-- A write of configuration space: MSI-X control, and the failures noted, which a 1 clears. -/
def configWrite (s : State) (x : Space) (v : Nat) : State :=
  match x with
  | .msixControl => msixControlWrite s v
  | .aer => respond { s with host := { s.host with aerRead := s.host.aerRead && !bit v 0, aerWrite := s.host.aerWrite && !bit v 1 } } .written
  | _ => respond s .written

/-- REGISTER_WRITE: a request to a register with no row of its own, to BAR 2, where the doorbell of ring r lies at 8r (R67), or to
configuration space. -/
def execRegisterWrite (dt : Nat) (space : Space) (req : BusReq) (s : State) : Host.Outcome State Fault Refusal :=
  let s := arrive dt s
  .next (if !domOn s 1 then s
    else match space with
      | .bar0 => busAccess s req
      | .bar2 =>
        match doorbellRing (req.off.toNat % 0x10000) with
        | some r => if req.write ∧ req.len ≠ 0 then respond (doorbell s r (if req.off.toNat % 8 = 0 then req.len else 0) (req.value.setWidth 32)) .written else bar2Access s req
        | none => bar2Access s req
      | x => if req.write then configWrite s x req.value.toNat else respond s (.data (BitVec.ofNat 64 (configRead s x))))

/-- MSIX_UNMASK: the mask of a vector, or the function mask, clears, and pending messages go out. -/
def execMsixUnmask (dt : Nat) (vector : Option (Fin 64)) (s : State) : Host.Outcome State Fault Refusal :=
  let s := arrive dt s
  .next (if !domOn s 1 then s
    else match vector with
      | some v => pendingSend { s with host := { s.host with msix := vmod s.host.msix v.val fun e => { e with masked := false } } } v.val
      | none => forAll 64 { s with host := { s.host with msixFnMask := false } } pendingSend)

/-! ### Rings (R66–R70, R91, R104) -/

/-- Bytes the host stored since the row before. -/
def hostStores (s : State) (stores : List Host.Cell) : State :=
  { s with host := { s.host with mem := memPaste 0 s.host.mem stores } }

/-- COMMAND_DOORBELL: ring is the command ring. -/
def execCommandDoorbell (dt : Nat) (ring : Fin 16) (width : Nat) (value : BitVec 32) (stores : List Host.Cell) (s : State) :
    Host.Outcome State Fault Refusal :=
  let s := hostStores (arrive dt s) stores
  .next (if domOn s 1 then doorbell s ring.val width value else s)

/-- CONSUMER_DOORBELL: ring 0–15 is the completion ring, 16–19 the event ring. -/
def execConsumerDoorbell (dt : Nat) (ring : Fin 20) (width : Nat) (value : BitVec 32) (stores : List Host.Cell) (s : State) :
    Host.Outcome State Fault Refusal :=
  let s := hostStores (arrive dt s) stores
  .next (if domOn s 1 then doorbell s (16 + ring.val) width value else s)

/-- RING_ENABLE: a write of RNG_CFG that takes EN from 0 to 1 (R66). -/
def execRingEnable (dt : Nat) (r : Fin 36) (value : BitVec 32) (stores : List Host.Cell) (s : State) :
    Host.Outcome State Fault Refusal :=
  let s := hostStores (arrive dt s) stores
  .next (if domOn s 1 && !(ringOf s r.val).en && bit value.toNat 31 then ringCfgWrite s r.val value.toNat else s)

/-- RING_DISABLE: a write of RNG_CFG with EN = 0 (R104). -/
def execRingDisable (dt : Nat) (r : Fin 36) (value : BitVec 32) (s : State) : Host.Outcome State Fault Refusal :=
  let s := arrive dt s
  .next (if domOn s 1 && !bit value.toNat 31 then
      (if ringCfgBad s r.val value.toNat then writeReject s (0x81008 + 16 * r.val) else ringCfgWrite s r.val value.toNat)
    else s)

/-- COALESCE_TIMER: COAL_TIME has elapsed since the first unsignalled record (R91). -/
def execCoalesceTimer (r : Fin 36) (s : State) : Host.Outcome State Fault Refusal :=
  .next (match (ringOf s r.val).timerAt with
    | none => s
    | some t =>
      let s := arriveAt t s
      signal (modRing s r.val fun g => { g with unsig := 0, timerAt := none }) (ringOf s r.val).vector)

/-! ### Fetching and starting commands (R69, R71, R75, R77, R434) -/

/-- NOP (R88). -/
def nopDef : CmdDef where
  opcode := 0x0001
  tick := fun _ => .none
  check := fun _ _ => none
  effect := cmdDone

/-- NOP. -/
def execNop (dt : Nat) (ref : CmdRef) (d : Desc) (s : State) : Host.Outcome State Fault Refusal := .next (runCmd nopDef dt ref d s)

/-- Every command of R87. -/
def commandDefs : List CmdDef :=
  [nopDef, modeSetDef, carrierCfgDef, synCfgDef, tbCfgDef, tbStepDef, txCtrlDef, powerSetDef, dpdCfgDef, coxCfgDef, rxCfgDef,
   captureDef, weightLoadDef, patternWriteDef, soundingCaptureDef, layerSetDef, fhCfgDef, assayCtxDef, laneCtrlDef, anlRunDef,
   domainSetDef, hldCfgDef, thmCfgDef, biasQueueDef, unitCtrlDef, hbReadDef, hbClearDef, ladleMoveDef, ladleWithdrawDef]

/-- An opcode of no command: refused with BAD_OPCODE (R73). -/
def badOpDef (op : Nat) : CmdDef where
  opcode := op
  tick := fun _ => .none
  check := fun _ _ => some ⟨cOpcode, 0⟩
  effect := fun s _ => s
  first := fun _ _ => some ⟨cOpcode, 0⟩

/-- The command of an opcode. -/
def defOf (op : Nat) : CmdDef := (commandDefs.find? fun f => f.opcode == op).getD (badOpDef op)

/-- A completion ring with 16 records held and no free slot stops the fetch from the command rings that report to it (R77). -/
def fetchStalled (s : State) (r : Nat) : Bool :=
  let g := ringOf s (16 + (ringOf s r).cplRing)
  g.en && decide (ringFree g = 0 ∧ 16 ≤ g.held.length)

/-- Ring r has a descriptor that may be fetched. -/
def fetchable (s : State) (r : Nat) : Bool :=
  let g := ringOf s r
  g.en && g.prod != g.cons && !fetchStalled s r

/-- The ring whose turn it is: the first after the last one served that has a descriptor to fetch (R75). -/
def fetchTurn (s : State) : Option Nat := ((List.range 16).map fun i => (s.host.lastRing + 1 + i) % 16).find? (fetchable s)

/-- One descriptor of ring r is fetched in its turn; one that came back in error is refused with HOST_READ_ERR and reported (R71, R75,
R434). -/
def fetchOne (s : State) (r : Fin 16) (err : Bool) : State :=
  let g := ringOf s r.val
  if fetchTurn s ≠ some r.val then s
  else
    let ref : CmdRef := ⟨r, g.cons⟩
    let d : Desc := BitVec.ofNat 512 (leNat (hostRead s (ringBase g + 64 * (g.cons.toNat % ringSize g)) 64))
    let s := modRing { s with host := { s.host with lastRing := r.val } } r.val fun g => { g with cons := g.cons + 1 }
    if err then aerReport (recordPush s (16 + g.cplRing) (recordOf 0 { ref := ref, d := 0, cause := cHostRead } 1 false)) false
    else cmdFetched (defOf (dOp d)) s ref d

/-- DESCRIPTOR_FETCH: n descriptors, at most 8, of one read; errs lists those that came back in error. -/
def execDescriptorFetch (dt : Nat) (ring : Fin 16) (n : Nat) (errs : List Nat) (s : State) : Host.Outcome State Fault Refusal :=
  let s := arrive dt s
  .next (if domOn s 1 then forAll (min n 8) s fun s i => fetchOne s ring (errs.contains i) else s)

/-- HELD_COMMAND_START: what held the command has ended (R71, R74). -/
def execHeldCommandStart (dt : Nat) (ref : CmdRef) (s : State) : Host.Outcome State Fault Refusal :=
  let s := arrive dt s
  .next (match s.host.cmds.find? fun c => c.ref == ref && c.stage == .held with
    | some c => if cmdHeld s c then s else cmdStart (defOf (dOp c.d)) s c
    | none => s)

/-! ### The end of an exit (R342, R346) -/

/-- The requests that waited for CTL are answered in order (R346). -/
def answerWaiting (s : State) : State :=
  s.host.waiting.foldl busAccess { s with host := { s.host with waiting := [] } }

/-- DOMAIN_EXIT_DONE: a domain has come on; sigs are the signatures its banks show (R343). -/
def execDomainExitDone (dt : Nat) (dom : Fin 14) (sigs : List (BitVec 32)) (s : State) : Host.Outcome State Fault Refusal :=
  let s := arrive dt s
  .next (if exitEnds s dom.val then
      let t := hkCheck s (exitDone s dom.val sigs)
      if dom.val = 1 then answerWaiting t else t
    else s)

end Sys2Proof.Machine
end

