-- ==== Sys2Proof/Machine/Limiter.lean ====
section
/-! DEFINITION. The downlink's time signal up to the mean limiter (08): the IFFT of R235, the carrier combiner of R234, and the level
of each path's symbol against REF (R236, R241). -/

namespace Sys2Proof.Machine

/-! ### Rotations -/

/-- cos and sin of 2^i steps of 1/491,520 turn, i = 0 to 18, in units of 2^-64: 1 kHz over one count. -/
def cisTable : List (Int × Int) := [
  (18446744072202364838, 235807925061192),
  (18446744067680804505, 471615850083852),
  (18446744049594563176, 943231699859437),
  (18446743977249597917, 1886463397252746),
  (18446743687869737831, 3772926774776463),
  (18446742530350312615, 7545853391720698),
  (18446737900272853864, 15091705520783606),
  (18446719379966892644, 30183400940306163),
  (18446645298805028308, 60366721070564502),
  (18446348975149258258, 120732795662044532),
  (18445163696393085518, 241460419532952844),
  (18440422835233204596, 482879466066060353),
  (18421463452065262316, 965427990666446557),
  (18345690879559086948, 1928209810316553226),
  (18043638457049545813, 3835293750447434651),
  (16851939256832928277, 7502966760219034614),
  (12343281047387946570, 13708602405283041112),
  (-1928209810316553226, 18345690879559086948),
  (-18043638457049545813, -3835293750447434651)]

/-- A product of two values in units of 2^-64. -/
def cisMul (a b : Int × Int) : Int × Int := (divRound (a.1 * b.1 - a.2 * b.2) (2 ^ 64), divRound (a.1 * b.2 + a.2 * b.1) (2 ^ 64))

/-- cos and sin of a number of 1/491,520 turns, in units of 2^-64. -/
def cis (a : Int) : Int × Int :=
  let n := (a % 491520).toNat
  cisTable.zipIdx.foldl (fun z x => if bit n x.2 then cisMul z x.1 else z) (2 ^ 64, 0)

/-! ### The samples (R234, R235) -/

/-- t_c[m] of R235 from the antenna values of a carrier, subcarrier 0 first: the sum over the subcarriers, counted from the carrier
centre, scaled by 1/128, rounded half away from zero and saturated. The IFFT's own precision of 24 bits or more moves the sum by less than
2^-23 of full scale, a free value (log 79). -/
def ifftSample (key : Nat) (ys : List (Int × Int)) (m : Nat) : Int × Int :=
  let sum := ys.zipIdx.foldl (fun (t : Int × Int) y =>
    let e := cis (30 * (((y.2 : Int) - (ys.length / 2 : Nat)) * m))
    (t.1 + y.1.1 * e.1 - y.1.2 * e.2, t.2 + y.1.1 * e.2 + y.1.2 * e.1)) (0, 0)
  let part := fun (i : Nat) (v : Int) =>
    clampI (-32768) 32767 (divRound (v + clampI (1 - 2 ^ 63) (2 ^ 63 - 1) (Config.ifftSlack key (2 * m + i))) (2 ^ 71))
  (part 0 sum.1, part 1 sum.2)

/-- Y of every subcarrier of a carrier on antenna p in symbol k (R173). -/
def antennaValues (s : State) (k c p : Nat) : List (Int × Int) :=
  (List.range (12 * (carrierOf s c).nprb)).map fun sc => antennaCode ((dlAcc s c (dlLive s k c) sc).getD p (0, 0)) (dlShiftOf s k c)

/-- A sample of an antenna stream held for symbol k, n counts after its tick; at a lower rate a sample stands for its 2, 4 or 8 counts
(R139, R235; log 79). -/
def streamSample (s : State) (k c p n : Nat) : Int × Int :=
  let j := n / 2 ^ (if s.air.spanKhz.isSome then (carrierOf s c).sr else 0)
  match (s.fh.direct.filter fun m => m.cc == c && m.id == p && m.sym == k).flatMap (·.secs) |>.find? fun x =>
      decide (64 * x.start ≤ j ∧ j < 64 * (x.start + x.num)) with
  | some x =>
    let l := sectionData s 1 c k x
    (l.getD (2 * (j - 64 * x.start)) 0, l.getD (2 * (j - 64 * x.start) + 1) 0)
  | none => (0, 0)

/-- A carrier contributes to the symbol by R233 and has downlink data held for path p: the antenna stream or the layers. -/
def carrierSends (s : State) (k p c : Nat) : Bool :=
  windowOk s c && !paused s c &&
    (if bit (setAt s c k) 1 then s.fh.direct.any fun m => m.cc == c && m.id == p && m.sym == k else !(dlLive s k c).isEmpty)

/-- A carrier's own sample n counts after the tick of symbol k, its cyclic prefix first (R235). -/
def carrierSample (s : State) (k p c : Nat) : Nat → Int × Int :=
  if bit (setAt s c k) 1 then streamSample s k c p
  else
    let ys := antennaValues s k c p
    fun n => ifftSample (128 * drawKey s + 64 * c + p) ys ((n + 16384 - cpOf k) % 16384)

/-- The combined signal of path p, n counts after the tick of symbol k, in units of 2^-64 of a code: each carrier shifted by its offset
from the span centre (R234). -/
def combined (s : State) (k p n : Nat) : Int × Int :=
  ((List.range 2).filter (carrierSends s k p)).foldl (fun (t : Int × Int) c =>
    let x := carrierSample s k p c n
    let e := cis ((if s.air.spanKhz.isSome then (carrierOf s c).ofsKhz else 0) * ((tickT s k + n : Nat) : Int))
    (t.1 + x.1 * e.1 - x.2 * e.2, t.2 + x.1 * e.2 + x.2 * e.1)) (0, 0)

/-! ### The mean limiter (R236) -/

/-- The power of path p summed over symbol k with its cyclic prefix, in units of 2^-158 of full scale (R11, R236). -/
def symbolPower (s : State) (k p : Nat) : Nat :=
  if (List.range 2).any (carrierSends s k p) then
    (List.range (symLen k)).foldl (fun a n =>
      let x := combined s k p n
      a + (x.1 * x.1 + x.2 * x.2).toNat) 0
  else 0

/-- A mean power over n samples exceeds −15.0 dBFS: 1,000 × mean² exceeds 1 (R236). -/
def overRef (n power : Nat) : Bool := decide (n ^ 2 * 2 ^ 316 < 1000 * power ^ 2)

/-- A mean power over n samples is below −35.0 dBFS, REF − 20 dB (R241). -/
def lowRef (n power : Nat) : Bool := decide (10 ^ 7 * power ^ 2 < n ^ 2 * 2 ^ 316)

/-- The limiters' measurement of the symbol whose downlink work ends (R236, R241). -/
def levelsTake (s : State) : State :=
  let k := s.cru.dlSym
  let power := (List.range 64).map (symbolPower s k)
  let mask := fun (f : Nat → Bool) => BitVec.ofNat 64 (maskOf ((List.range 64).filter fun p => f (power.getD p 0)))
  { s with tx := { s.tx with levelSym := some k, levelHigh := mask (overRef (symLen k)), levelLow := mask (lowRef (symLen k)) } }

end Sys2Proof.Machine
end

