-- ==== Sys2Proof/Machine/Ticks.lean ====
section
/-! DEFINITION. The ticks (R26–R31, R74, R76, R435): the commands due at an instant, checked again and applied together, and what
every unit does at the air ticks and the work ticks. -/

namespace Sys2Proof.Machine

/-! ### The commands due at a tick (R30, R76, R435) -/

/-- Bound to a tick of one of the kinds, number k or one that a void interval left out. -/
def cmdDue (kinds : List TickKind) (k : Nat) (c : Cmd) : Bool :=
  match c.stage with
  | .bound kind t _ => kinds.contains kind && decide (t ≤ k)
  | _ => false

/-- The commands due, in order of acceptance. -/
def cmdsDue (s : State) (kinds : List TickKind) (k : Nat) : List Cmd :=
  sortBy (fun (a b : Cmd) => keyLt [(a.acceptAt : Int), (a.seq : Int)] [(b.acceptAt : Int), (b.seq : Int)]) (s.host.cmds.filter (cmdDue kinds k))

/-- The settings of a command that commands accepted later make as well. -/
def keysLost (c : Cmd) (later : List Cmd) : List Nat :=
  let l := later.flatMap fun x => (defOf (dOp x.d)).keys x
  ((defOf (dOp c.d)).keys c).filter l.contains

/-- The settings of a command that a change of higher rank due at the same tick makes: the FLK master's decision (R52, R76);
Quench, regulatory enforcement and losses are bound to no tick (R30). -/
def keysBarred (pre : State) (k : Nat) (c : Cmd) : List Nat := ((defOf (dOp c.d)).keys c).filter (flaskKeys pre k).contains

/-- One due command takes effect at tick k, without the settings it lost to later commands or to a change of higher rank, with the
cause of R76; nothing if it has ended meanwhile. `pre` is the state before the tick. -/
def cmdApply (k : Nat) (pre : State) (later : List Cmd) (s : State) (c : Cmd) : State :=
  if !(s.host.cmds.any fun x => x.seq == c.seq) then s
  else
    let f := defOf (dOp c.d)
    let barred := keysBarred pre k c
    let lost := barred ++ (keysLost c later).filter fun x => !barred.contains x
    let to_ := if barred.isEmpty then cSameRank else cPrecedence
    let c1 := cmdAtTick s c k
    if lost.isEmpty then f.effect (cmdPut s c1) c1
    else if lost.length = (f.keys c).length then cmdDone s { c with lostTo := to_ }
    else
      let c2 := { f.strip c1 lost with lostTo := to_ }
      f.effect (cmdPut s c2) c2

/-- The due commands take effect one after another. -/
def cmdsApply (k : Nat) (pre : State) : List Cmd → State → State
  | [], s => s
  | c :: rest, s => cmdsApply k pre rest (cmdApply k pre rest s c)

/-- All commands due at a tick: the second check is made against the state just before the tick. -/
def tickCommands (kinds : List TickKind) (k : Nat) (pre s : State) : State :=
  let due := cmdsDue pre kinds k
  let s := due.foldl (fun s c =>
    let f := defOf (dOp c.d)
    match cmdCheck f pre c with
    | some r => cmdRefuse (f.refused s c r) c r
    | none => s) s
  cmdsApply k pre (due.filter fun c => (cmdCheck (defOf (dOp c.d)) pre c).isNone) s

/-! ### The air ticks (R7, R28, R30) -/

/-- What falls due before the commands of a tick are applied: the end of cross-fades, carriers that resume after REF_LOST (R294), the
tick error of a frame, COMP and ceilings of a slot. -/
def airBefore (k : Nat) (s : State) : State :=
  let s := { s with tb := { s.tb with airNext := k + 1 }, rx := { s.rx with path := vall s.rx.path fun _ r => { r with fade := 0 } } }
  let s := if k % 14 = 0 ∧ refReady s then { s with mod := { s.mod with refHeld := false } } else s
  let s := if k % 280 = 0 then tbFrameBefore s else s
  if k % 14 = 0 then txSlotBefore s else s

/-- CRU_SCALE of the slot that begins (R175, R431). -/
def shiftSlot (s : State) : State :=
  { s with cru := { s.cru with
    ulShiftNow := s.cru.ulShiftArm, dlShiftNow := s.cru.dlShiftArm, ulShiftArm := s.cru.ulShift, dlShiftArm := s.cru.dlShift } }

/-- The slot's own changes after the commands: paths, power, lanes, books, pots, scaling. -/
def slotUnits (s : State) : State := shiftSlot (potsSlot (booksSlot (lanesSlot (txSlotAfter (pathsSlot s)))))

/-- The rest of a slot tick: Anneal, the flask, LAYER_SET records, carriers that wake; `late`: the slot's table is not complete
(R31), `pre`: the state before the tick. -/
def slotRest (k : Nat) (late : Bool) (pre s : State) : State :=
  resumeSlot k (layerSetDone k (flaskSlot k late pre (anlSlot k s)))

/-- What every symbol tick does after the commands; `pre` is the state before the tick. -/
def symbolUnits (k : Nat) (pre s : State) : State :=
  let s := rxSymbol pre k (txSymbol k (temperObserve pre s))
  let s := lanesSymbol (orxSymbol k (biasSymbol k (dpdSymbol k s)))
  flaskSymbol (darkSymbol k (dealUnits (commitSymbol k s) k))

/-- What leaves the device at a symbol tick: credit records and uplink messages; then the trims of the timebase. -/
def symbolSends (k : Nat) (s : State) : State := refSelect (tbSymbol k (sendUplink (creditRecords k s)))

/-- After a tick: a measurement whose transmit state changed, the next domain entry, a conversion whose period changed. -/
def airAfter (pre s : State) : State := hkCheck pre (entryNext true (anlWatch pre s))

/-- The tick of symbol k, everything due at that instant applied together. A step of the timebase ends the frame there: no
symbol follows until the next frame tick (R311). -/
def airInstant (k : Nat) (seen : TickSeen) (pre : State) : State :=
  let slot := k % 14 == 0
  let frame := k % 280 == 0
  let s := rxSatCount (airBefore k pre) seen.rxSat
  let s := tickCommands ([.symbol] ++ (if slot then [.slot] else []) ++ (if frame then [.frame] else [])) k pre s
  let s := if frame then tbFrameAfter (flaskFrame s) else s
  let s := if slot then slotUnits s else s
  if s.tb.voidCounts ≠ 0 then airAfter pre s
  else
    let s := symbolUnits k pre s
    let s := if slot then slotRest k seen.late pre s else s
    let s := if frame then surveyFrameTick s else s
    airAfter pre (symbolSends k s)

/-- The next air tick, if it is of the kind asked for and the timebase runs. -/
def airTick (every : Nat) (seen : TickSeen) (s : State) : State :=
  let k := s.tb.airNext
  if tbOn s ∧ k % every = 0 then airInstant k seen (arriveAt (tickT s k) s) else arrive 0 s

/-- AIR_SYMBOL_TICK. -/
def execAirSymbolTick (seen : TickSeen) (s : State) : Host.Outcome State Fault Refusal := .next (airTick 1 seen s)

/-- AIR_SLOT_TICK. -/
def execAirSlotTick (seen : TickSeen) (s : State) : Host.Outcome State Fault Refusal := .next (airTick 14 seen s)

/-- AIR_FRAME_TICK. -/
def execAirFrameTick (seen : TickSeen) (s : State) : Host.Outcome State Fault Refusal := .next (airTick 280 seen s)

/-! ### The work ticks (R26, R31, R182) -/

/-- DL_WORK_TICK: W_DL of the next symbol; unfinished counts the products not finished in the window that closes, unreleased lists the
messages of the next symbol that the Tundish has not released. -/
def execDlWorkTick (unfinished : Nat) (unreleased : List Nat) (s : State) : Host.Outcome State Fault Refusal :=
  .next (if tbOn s then
      let k := s.tb.dlNext
      let pre := arriveAt (tickAt s .dlWork k) s
      dlWork unfinished unreleased k (levelsTake (tickCommands [.dlWork] k pre { pre with tb := { pre.tb with dlNext := k + 1 } }))
    else arrive 0 s)

/-- UL_WORK_TICK: W_UL of the next symbol, with the antenna values of its symbol; unfinished lists the layers not finished in
the window that closes. -/
def execUlWorkTick (unfinished : List LayerRef) (rx : List AntVal) (s : State) : Host.Outcome State Fault Refusal :=
  .next (if tbOn s then
      let k := s.tb.ulNext
      let pre := arriveAt (tickAt s .ulWork k) s
      ulWork unfinished rx (settlingMask pre) k (tickCommands [.ulWork] k pre { pre with tb := { pre.tb with ulNext := k + 1 } })
    else arrive 0 s)

end Sys2Proof.Machine
end

