-- ==== Sys2Proof/Machine/Dispatch.lean ====
section
/-! DEFINITION. One arm per command row: the direct call of its meaning. -/

namespace Sys2Proof.Machine

/-- The effect of a command on everything but the queue. -/
def exec (i : Instr) (s : State) : Host.Outcome State Fault Refusal :=
  match i with
  | .powerOnReset dt straps => Sys2Proof.Machine.execPowerOnReset dt straps s
  | .powerFail dt => Sys2Proof.Machine.execPowerFail dt s
  | .controlPortReset dt kind => Sys2Proof.Machine.execControlPortReset dt kind s
  | .fuseProgram dt bits => Sys2Proof.Machine.execFuseProgram dt bits s
  | .outOfReset dt => Sys2Proof.Machine.execOutOfReset dt s
  | .sourceQualified dt src => Sys2Proof.Machine.execSourceQualified dt src s
  | .sourceLost dt src => Sys2Proof.Machine.execSourceLost dt src s
  | .refLost => Sys2Proof.Machine.execRefLost s
  | .samplePllUnlock dt => Sys2Proof.Machine.execSamplePllUnlock dt s
  | .samplePllRelock dt ok => Sys2Proof.Machine.execSamplePllRelock dt ok s
  | .synUnlock dt n => Sys2Proof.Machine.execSynUnlock dt n s
  | .relockStart n => Sys2Proof.Machine.execRelockStart n s
  | .synLock dt n band => Sys2Proof.Machine.execSynLock dt n band s
  | .relockFail n => Sys2Proof.Machine.execRelockFail n s
  | .airSymbolTick seen => Sys2Proof.Machine.execAirSymbolTick seen s
  | .airSlotTick seen => Sys2Proof.Machine.execAirSlotTick seen s
  | .airFrameTick seen => Sys2Proof.Machine.execAirFrameTick seen s
  | .dlWorkTick unfinished unreleased => Sys2Proof.Machine.execDlWorkTick unfinished unreleased s
  | .ulWorkTick unfinished rx => Sys2Proof.Machine.execUlWorkTick unfinished rx s
  | .weightFill dir => Sys2Proof.Machine.execWeightFill dir s
  | .uplinkAssembly dt cc kind1 id samples => Sys2Proof.Machine.execUplinkAssembly dt cc kind1 id samples s
  | .psumRecordSend dt cc layer => Sys2Proof.Machine.execPsumRecordSend dt cc layer s
  | .lockCheck grants => Sys2Proof.Machine.execLockCheck grants s
  | .nop dt ref d => Sys2Proof.Machine.execNop dt ref d s
  | .modeSet dt ref d => Sys2Proof.Machine.execModeSet dt ref d s
  | .carrierCfg dt ref d => Sys2Proof.Machine.execCarrierCfg dt ref d s
  | .synCfg dt ref d => Sys2Proof.Machine.execSynCfg dt ref d s
  | .tbCfg dt ref d => Sys2Proof.Machine.execTbCfg dt ref d s
  | .tbStep dt ref d => Sys2Proof.Machine.execTbStep dt ref d s
  | .txCtrl dt ref d => Sys2Proof.Machine.execTxCtrl dt ref d s
  | .loTimeout ref => Sys2Proof.Machine.execLoTimeout ref s
  | .powerSet dt ref d => Sys2Proof.Machine.execPowerSet dt ref d s
  | .dpdCfg dt ref d => Sys2Proof.Machine.execDpdCfg dt ref d s
  | .coxCfg dt ref d => Sys2Proof.Machine.execCoxCfg dt ref d s
  | .rxCfg dt ref d => Sys2Proof.Machine.execRxCfg dt ref d s
  | .capture dt ref d => Sys2Proof.Machine.execCapture dt ref d s
  | .captureEnd dt ref data => Sys2Proof.Machine.execCaptureEnd dt ref data s
  | .captureNoGrant ref => Sys2Proof.Machine.execCaptureNoGrant ref s
  | .weightLoad dt ref d => Sys2Proof.Machine.execWeightLoad dt ref d s
  | .patternWrite dt ref d => Sys2Proof.Machine.execPatternWrite dt ref d s
  | .soundingCapture dt ref d => Sys2Proof.Machine.execSoundingCapture dt ref d s
  | .soundingCaptureEnd dt ref data => Sys2Proof.Machine.execSoundingCaptureEnd dt ref data s
  | .layerSet dt ref d => Sys2Proof.Machine.execLayerSet dt ref d s
  | .fhCfg dt ref d => Sys2Proof.Machine.execFhCfg dt ref d s
  | .assayCtx dt ref d => Sys2Proof.Machine.execAssayCtx dt ref d s
  | .laneCtrl dt ref d => Sys2Proof.Machine.execLaneCtrl dt ref d s
  | .anlRun dt ref d => Sys2Proof.Machine.execAnlRun dt ref d s
  | .domainSet dt ref d => Sys2Proof.Machine.execDomainSet dt ref d s
  | .hldCfg dt ref d => Sys2Proof.Machine.execHldCfg dt ref d s
  | .thmCfg dt ref d => Sys2Proof.Machine.execThmCfg dt ref d s
  | .fanForceEnd f => Sys2Proof.Machine.execFanForceEnd f s
  | .biasQueue dt ref d => Sys2Proof.Machine.execBiasQueue dt ref d s
  | .unitCtrl dt ref d => Sys2Proof.Machine.execUnitCtrl dt ref d s
  | .hbRead dt ref d => Sys2Proof.Machine.execHbRead dt ref d s
  | .hbClear dt ref d => Sys2Proof.Machine.execHbClear dt ref d s
  | .hbClearEraseEnd dt failed => Sys2Proof.Machine.execHbClearEraseEnd dt failed s
  | .ladleMove dt ref d => Sys2Proof.Machine.execLadleMove dt ref d s
  | .ladleWithdraw dt ref d => Sys2Proof.Machine.execLadleWithdraw dt ref d s
  | .ladleEngineStart dt => Sys2Proof.Machine.execLadleEngineStart dt s
  | .ladleMoveEnd dt read hostErr writeErr => Sys2Proof.Machine.execLadleMoveEnd dt read hostErr writeErr s
  | .commandDoorbell dt ring width value stores => Sys2Proof.Machine.execCommandDoorbell dt ring width value stores s
  | .consumerDoorbell dt ring width value stores => Sys2Proof.Machine.execConsumerDoorbell dt ring width value stores s
  | .descriptorFetch dt ring n errs => Sys2Proof.Machine.execDescriptorFetch dt ring n errs s
  | .heldCommandStart dt ref => Sys2Proof.Machine.execHeldCommandStart dt ref s
  | .ringEnable dt r value stores => Sys2Proof.Machine.execRingEnable dt r value stores s
  | .ringDisable dt r value => Sys2Proof.Machine.execRingDisable dt r value s
  | .coalesceTimer r => Sys2Proof.Machine.execCoalesceTimer r s
  | .msixUnmask dt vector => Sys2Proof.Machine.execMsixUnmask dt vector s
  | .lowWordRead dt req off => Sys2Proof.Machine.execLowWordRead dt req off s
  | .highWordRead dt req off => Sys2Proof.Machine.execHighWordRead dt req off s
  | .lowWordWrite dt req off value => Sys2Proof.Machine.execLowWordWrite dt req off value s
  | .highWordWrite dt req off value => Sys2Proof.Machine.execHighWordWrite dt req off value s
  | .hkaQpopRead dt => Sys2Proof.Machine.execHkaQpopRead dt s
  | .accessDark dt req => Sys2Proof.Machine.execAccessDark dt req s
  | .completerAbort dt req => Sys2Proof.Machine.execCompleterAbort dt req s
  | .registerWrite dt space req => Sys2Proof.Machine.execRegisterWrite dt space req s
  | .ctlWakeRequest dt req => Sys2Proof.Machine.execCtlWakeRequest dt req s
  | .fhFrameRx dt port frame => Sys2Proof.Machine.execFhFrameRx dt port frame s
  | .owdMessageRx dt port msg => Sys2Proof.Machine.execOwdMessageRx dt port msg s
  | .ptpFrameRx dt port msg => Sys2Proof.Machine.execPtpFrameRx dt port msg s
  | .ppsEdge dt => Sys2Proof.Machine.execPpsEdge dt s
  | .timeSourceLost dt => Sys2Proof.Machine.execTimeSourceLost dt s
  | .pourFrameRx dt side lane frame => Sys2Proof.Machine.execPourFrameRx dt side lane frame s
  | .noMasterTimeout dt => Sys2Proof.Machine.execNoMasterTimeout dt s
  | .modeAckTimeout dt => Sys2Proof.Machine.execModeAckTimeout dt s
  | .flkReadyTimeout dt => Sys2Proof.Machine.execFlkReadyTimeout dt s
  | .trainingFrameRx dt l f => Sys2Proof.Machine.execTrainingFrameRx dt l f s
  | .trainingFallback l => Sys2Proof.Machine.execTrainingFallback l s
  | .laneUp dt l => Sys2Proof.Machine.execLaneUp dt l s
  | .detectorAssert dt l det => Sys2Proof.Machine.execDetectorAssert dt l det s
  | .detectorClear dt l det => Sys2Proof.Machine.execDetectorClear dt l det s
  | .retryStart l => Sys2Proof.Machine.execRetryStart l s
  | .attemptFail l => Sys2Proof.Machine.execAttemptFail l s
  | .prbsSyncLost dt l errs nbits => Sys2Proof.Machine.execPrbsSyncLost dt l errs nbits s
  | .surveyPeriodEnd powers => Sys2Proof.Machine.execSurveyPeriodEnd powers s
  | .potFault dt pot residue => Sys2Proof.Machine.execPotFault dt pot residue s
  | .potRetestEnd dt pot pass => Sys2Proof.Machine.execPotRetestEnd dt pot pass s
  | .powerDetectorReport dt path mean => Sys2Proof.Machine.execPowerDetectorReport dt path mean s
  | .temperSolveEnd dt path sol => Sys2Proof.Machine.execTemperSolveEnd dt path sol s
  | .divergeRetry path => Sys2Proof.Machine.execDivergeRetry path s
  | .temperRefreshDue dt path => Sys2Proof.Machine.execTemperRefreshDue dt path s
  | .dpdStale dt path => Sys2Proof.Machine.execDpdStale dt path s
  | .rxOverload dt path code => Sys2Proof.Machine.execRxOverload dt path code s
  | .anlGuardPeriod dt noise grants => Sys2Proof.Machine.execAnlGuardPeriod dt noise grants s
  | .anlSolveEnd dt res => Sys2Proof.Machine.execAnlSolveEnd dt res s
  | .anlRepeatTimeout dt => Sys2Proof.Machine.execAnlRepeatTimeout dt s
  | .noGuard dt => Sys2Proof.Machine.execNoGuard dt s
  | .anlAgeTrigger dt => Sys2Proof.Machine.execAnlAgeTrigger dt s
  | .hkConversionDone dt code => Sys2Proof.Machine.execHkConversionDone dt code s
  | .hkRound dt => Sys2Proof.Machine.execHkRound dt s
  | .comparatorCrossing dt k above => Sys2Proof.Machine.execComparatorCrossing dt k above s
  | .quench dt cause sensor temp => Sys2Proof.Machine.execQuench dt cause sensor temp s
  | .biasUpdateTick dt => Sys2Proof.Machine.execBiasUpdateTick dt s
  | .domainEntryDone dt dom sigs => Sys2Proof.Machine.execDomainEntryDone dt dom sigs s
  | .domainExitStart dt dom => Sys2Proof.Machine.execDomainExitStart dt dom s
  | .domainExitDone dt dom sigs => Sys2Proof.Machine.execDomainExitDone dt dom sigs s
  | .ctlEntryStart => Sys2Proof.Machine.execCtlEntryStart s
  | .pwakeEdge dt => Sys2Proof.Machine.execPwakeEdge dt s
  | .holdingWindowEnd dt hits => Sys2Proof.Machine.execHoldingWindowEnd dt hits s
  | .darkCheck dt orx level => Sys2Proof.Machine.execDarkCheck dt orx level s
  | .hbSnapshotDue dt => Sys2Proof.Machine.execHbSnapshotDue dt s
  | .hbSnapshot dt failAt => Sys2Proof.Machine.execHbSnapshot dt failAt s
  | .hourComplete dt ok => Sys2Proof.Machine.execHourComplete dt ok s
  | .hbFreeScan dt => Sys2Proof.Machine.execHbFreeScan dt s
  | .checkerSync dt l => Sys2Proof.Machine.execCheckerSync dt l s
  | .comparatorRearm dt k => Sys2Proof.Machine.execComparatorRearm dt k s
  | .anlSaveEnd dt ok => Sys2Proof.Machine.execAnlSaveEnd dt ok s

end Sys2Proof.Machine
end

