-- ==== Sys2Proof/Safety.lean ====
section
/-! DEFINITION. The terms that claims use: which parts of the state a command may change, what radiates, which memories are in
canonical form, and which command lists are in order. -/

namespace Sys2Proof.Machine

/-- The parts of State; and of host memory what lies outside the completion and event rings, the device's own memories, and the
Heat Book's flash. -/
inductive Part where
  | hmem | dev | flash | tb | syn | air | mod | host | ldl | lanes | fh | cru | run | tx | rx | anl | pwr | hld | thm | hka | bias | hb | fus | gen
  | out | pending
  deriving DecidableEq, Repr

/-- Where ring r lies in host memory, and how many slots it has (R64). -/
def ringPlace (s : State) (r : Nat) : Nat × Nat := (ringBase (ringOf s r), ringSize (ringOf s r))

/-- An address lies in the memory of a completion or event ring: rings 16 to 35. -/
def inRing (s : State) (a : Nat) : Prop :=
  ∃ r, 16 ≤ r ∧ r < 36 ∧ (ringPlace s r).1 ≤ a ∧ a < (ringPlace s r).1 + 32 * (ringPlace s r).2

/-- Two states agree in one part. For hmem: every ring lies where it lay, and every byte of host memory outside the completion and
event rings reads as it read. -/
def Part.same : Part → State → State → Prop
  | .hmem, s, t => (∀ r, ringPlace t r = ringPlace s r) ∧ ∀ a, ¬ inRing s a → memRead 0 t.host.mem a = memRead 0 s.host.mem a
  | .dev, s, t => t.ldl.dram = s.ldl.dram ∧ t.ldl.rxCap = s.ldl.rxCap ∧ t.ldl.orxCap = s.ldl.orxCap ∧ t.ldl.commit = s.ldl.commit
  | .flash, s, t => t.hb.recs = s.hb.recs ∧ t.hb.clearLog = s.hb.clearLog
  | .tb, s, t => t.tb = s.tb
  | .syn, s, t => t.syn = s.syn
  | .air, s, t => t.air = s.air
  | .mod, s, t => t.mod = s.mod
  | .host, s, t => t.host = s.host
  | .ldl, s, t => t.ldl = s.ldl
  | .lanes, s, t => t.lanes = s.lanes
  | .fh, s, t => t.fh = s.fh
  | .cru, s, t => t.cru = s.cru
  | .run, s, t => t.run = s.run
  | .tx, s, t => t.tx = s.tx
  | .rx, s, t => t.rx = s.rx
  | .anl, s, t => t.anl = s.anl
  | .pwr, s, t => t.pwr = s.pwr
  | .hld, s, t => t.hld = s.hld
  | .thm, s, t => t.thm = s.thm
  | .hka, s, t => t.hka = s.hka
  | .bias, s, t => t.bias = s.bias
  | .hb, s, t => t.hb = s.hb
  | .fus, s, t => t.fus = s.fus
  | .gen, s, t => t.gen = s.gen
  | .out, s, t => t.out = s.out
  | .pending, s, t => t.pending = s.pending

/-- Every part outside a list is unchanged. -/
def changesOnly (l : List Part) (s t : State) : Prop := ∀ p, p ∉ l → p.same s t

/-- The parts that hold what the timebase and the outward reports of a command change: time, answers, records, signals. -/
def reportParts : List Part := [.tb, .host, .out]

/-- Those parts and others. -/
def withReports (l : List Part) : List Part := .tb :: .host :: .out :: l

/-- No path sends, its PA enable is inactive, and every bias output shows the safe value. -/
def txQuiet (s : State) : Prop :=
  (∀ p < 64, (txOf s p).radiating = false ∧ paenLine s p = false) ∧ ∀ o < 128, (vget s.bias.out o {}).shown = 0

/-- Every memory of the block is in its canonical form: the host's, the device's own, the weight halves with the rows of loads and
fills on their way, and the Heat Book's flash. -/
abbrev memOk (s : State) : Prop :=
  Memory.wf 0 s.host.mem ∧ Memory.wf 0 s.ldl.dram ∧ Memory.wf 0 s.ldl.rxCap ∧ Memory.wf 0 s.ldl.orxCap ∧ Memory.wf 0 s.ldl.commit ∧
  (∀ i < 2, Memory.wf 0 (vget s.cru.dl i {}).mem ∧ Memory.wf 0 (vget s.cru.ul i {}).mem ∧
    Memory.wf 0 ((vget s.cru.fillDram i none).getD [])) ∧
  (∀ l ∈ s.cru.loads, Memory.wf 0 l.rows) ∧ Memory.wf 0xFF s.hb.recs ∧ Memory.wf 0xFF s.hb.clearLog

/-- The commands fetched and not completed bear different numbers, below the next number. -/
abbrev cmdsOk (s : State) : Prop := (s.host.cmds.map (·.seq)).Nodup ∧ ∀ c ∈ s.host.cmds, c.seq < s.host.nextSeq

/-- A command waits for a tick. -/
def waitsForTick (c : Cmd) : Bool :=
  match c.stage with
  | .bound _ _ _ => true
  | _ => false

/-- No command waits for a tick. -/
abbrev noneBound (s : State) : Prop := ∀ c ∈ s.host.cmds, waitsForTick c = false

/-- A row by which one command starts: counts before it, its ring place, its descriptor, and what its opcode does. -/
structure CommandRow where
  dt : Nat
  ref : CmdRef
  d : Desc
  f : CmdDef

/-- The rows that are commands of R87. -/
def commandRow : Instr → Option CommandRow
  | .nop dt ref d => some ⟨dt, ref, d, nopDef⟩
  | .modeSet dt ref d => some ⟨dt, ref, d, modeSetDef⟩
  | .carrierCfg dt ref d => some ⟨dt, ref, d, carrierCfgDef⟩
  | .synCfg dt ref d => some ⟨dt, ref, d, synCfgDef⟩
  | .tbCfg dt ref d => some ⟨dt, ref, d, tbCfgDef⟩
  | .tbStep dt ref d => some ⟨dt, ref, d, tbStepDef⟩
  | .txCtrl dt ref d => some ⟨dt, ref, d, txCtrlDef⟩
  | .powerSet dt ref d => some ⟨dt, ref, d, powerSetDef⟩
  | .dpdCfg dt ref d => some ⟨dt, ref, d, dpdCfgDef⟩
  | .coxCfg dt ref d => some ⟨dt, ref, d, coxCfgDef⟩
  | .rxCfg dt ref d => some ⟨dt, ref, d, rxCfgDef⟩
  | .capture dt ref d => some ⟨dt, ref, d, captureDef⟩
  | .weightLoad dt ref d => some ⟨dt, ref, d, weightLoadDef⟩
  | .patternWrite dt ref d => some ⟨dt, ref, d, patternWriteDef⟩
  | .soundingCapture dt ref d => some ⟨dt, ref, d, soundingCaptureDef⟩
  | .layerSet dt ref d => some ⟨dt, ref, d, layerSetDef⟩
  | .fhCfg dt ref d => some ⟨dt, ref, d, fhCfgDef⟩
  | .assayCtx dt ref d => some ⟨dt, ref, d, assayCtxDef⟩
  | .laneCtrl dt ref d => some ⟨dt, ref, d, laneCtrlDef⟩
  | .anlRun dt ref d => some ⟨dt, ref, d, anlRunDef⟩
  | .domainSet dt ref d => some ⟨dt, ref, d, domainSetDef⟩
  | .hldCfg dt ref d => some ⟨dt, ref, d, hldCfgDef⟩
  | .thmCfg dt ref d => some ⟨dt, ref, d, thmCfgDef⟩
  | .biasQueue dt ref d => some ⟨dt, ref, d, biasQueueDef⟩
  | .unitCtrl dt ref d => some ⟨dt, ref, d, unitCtrlDef⟩
  | .hbRead dt ref d => some ⟨dt, ref, d, hbReadDef⟩
  | .hbClear dt ref d => some ⟨dt, ref, d, hbClearDef⟩
  | .ladleMove dt ref d => some ⟨dt, ref, d, ladleMoveDef⟩
  | .ladleWithdraw dt ref d => some ⟨dt, ref, d, ladleWithdrawDef⟩
  | _ => none

/-- The command of a row as it is when it has been fetched, and when it starts. -/
def rowCmd (x : CommandRow) (s : State) : Cmd := { ref := x.ref, d := withOp x.f.opcode x.d, seq := s.host.nextSeq }
def rowStart (x : CommandRow) (s : State) : Cmd := { rowCmd x s with acceptAt := s.tb.now + x.dt }

/-- The state in which the command of a row starts: at its count, fetched and listed. -/
def rowState (x : CommandRow) (s : State) : State :=
  let a := arrive x.dt s
  { a with host := { a.host with cmds := s.host.cmds ++ [rowCmd x s], nextSeq := s.host.nextSeq + 1 } }

/-- With CTL on, the command of a row starts as it is fetched and passes every check. -/
abbrev rowAccepted (x : CommandRow) (s : State) : Prop :=
  domOn s 1 = true ∧ cmdsOk s ∧ cmdHeld (rowState x s) (rowStart x s) = false ∧ cmdCheck x.f (rowState x s) (rowStart x s) = none

/-- The list of commands with the command of a row running at its end. -/
def rowRuns (x : CommandRow) (s : State) : List Cmd := s.host.cmds ++ [{ rowStart x s with stage := .running none }]

end Sys2Proof.Machine
end

