-- ==== Sys2Proof/Certificates/Slice0/Obligations.lean ====
section
/-! DEFINITION. The statements for the provers, family by family: what each row does from a state and operands that meet the
spec's conditions, and what it leaves alone; then the invariants that every step keeps. -/

open Sys2Proof Sys2Proof.Machine

/-- A step carries out the command at the front of the queue, and nothing where the queue is empty (95_what_each_step_holds.md). A step
on a state whose queue begins with a command is that command carried out on the state with the rest of the queue (the queue is the
model's own, log 7). With no command waiting the block idles: the step answers the state it had (the model's choice, log 7). -/
def Obligations.StepRunsFront : Prop :=
  (∀ (c : Instr) (rest : List Instr) (s : State), step { s with pending := c :: rest } = exec c { s with pending := rest }) ∧
  (∀ s : State, s.pending = [] → step s = .next s)

/-- After reset nothing is sent, every output is safe and only the supervision is on (R57, R369, R403, R432). At reset no path sends and
every PA enable is inactive, every bias output shows the safe value, Quench is armed, every fan runs at 255, CC0 is in set 2 (AST,
SURVEY) and CC1 in set 1, every ring is disabled, no memory lists a byte and no command waits (reset state just after power-on
reset, log 4). -/
def Obligations.ResetIsSafe : Prop :=
  txQuiet State.reset ∧ State.reset.thm.quench = false ∧ (∀ f < 4, (vget State.reset.thm.fan f {}).duty = 255) ∧
  hasMode State.reset 0 0 = true ∧ setOf State.reset 1 = 0 ∧ (∀ r < 36, (ringOf State.reset r).en = false) ∧
  memOk State.reset ∧ cmdsOk State.reset ∧ State.reset.pending = []

/-- A power failure takes PGOOD low and touches no output; a power-on reset leaves the reset state with fuses, straps and flash (R17,
R403, R432, R383, R404). POWER_ON_RESET answers a next state: the fuses are loaded from the array, the straps are latched, the heat
number counts up, flash, calibration copies and host memory stand, and every other part is as State.reset has it. POWER_FAIL answers
a next state in which PGOOD is low; the bias outputs and everything else but time, answer and signals stand. -/
def Obligations.PowerFailsAndReturns : Prop :=
  (∀ (dt : Nat) (st : Straps) (s : State), ∃ t, exec (.powerOnReset dt st) s = .next t ∧
     t.fus.loaded = s.fus.array ∧ t.fus.array = s.fus.array ∧
     t.gen.notx = st.notx ∧ t.gen.master = st.master ∧ t.gen.flaskId = st.flaskId.toNat ∧ t.gen.bootband = st.bootband.toNat ∧
     t.hb.heat = min 524288 (s.hb.heat + 1) ∧ t.hb.recs = s.hb.recs ∧ t.hb.clearLog = s.hb.clearLog ∧ t.hb.hours = s.hb.hours ∧
     t.anl.copies = s.anl.copies ∧ t.host = { State.reset.host with mem := s.host.mem } ∧ t.pending = s.pending ∧
     changesOnly [.hmem, .flash, .host, .anl, .hb, .fus, .gen, .pending] State.reset t) ∧
  (∀ (dt : Nat) (s : State), ∃ t, exec (.powerFail dt) s = .next t ∧ t.gen = { s.gen with pgood := false } ∧
     t.pwr = { s.pwr with powered := false } ∧ t.host.mem = s.host.mem ∧ changesOnly (withReports [.gen, .pwr]) s t)

/-- A control-port reset disables the rings and leaves the radio alone (R62, R102, R432). CONTROL_PORT_RESET answers a next state: every
ring and the MSI-X table are at their reset values, a Ladle channel with no move keeps its status and count, a move not yet started
is withdrawn with nothing moved, host memory stands, and modes, carriers, timebase, domains, transmit and receive are as they were. -/
def Obligations.ControlPortResetDisablesRings : Prop :=
  ∀ (dt : Nat) (k : PortReset) (s : State), ∃ t, exec (.controlPortReset dt k) s = .next t ∧
    t.host.rings = State.reset.host.rings ∧ t.host.msix = State.reset.host.msix ∧ t.host.msixEn = false ∧
    t.host.mem = s.host.mem ∧ t.gen.rst = s.gen.rst ||| (if k = .flr then 2 else 4) ∧
    (∀ c (h : c < 8), s.ldl.ch[c].move = none → t.ldl.ch[c] = { s.ldl.ch[c] with vector := 20 + c }) ∧
    (∀ c (h : c < 8) m, s.ldl.ch[c].move = some m → m.started = false →
      t.ldl.ch[c].move = none ∧ t.ldl.ch[c].cause = 11 ∧ t.ldl.ch[c].count = 0) ∧
    changesOnly (withReports [.hmem, .ldl, .fh, .cru, .run, .gen]) s t

/-- FUSE_PROGRAM blows only fuses of open fields, clears none, and loads none (R395, R393). FUSE_PROGRAM answers a next state: a blown
fuse stays blown, a fuse newly blown was listed and its field was not closed, a single listed fuse of an open field is blown, and
the loaded values wait for the next power-on reset. -/
def Obligations.FuseProgramBlowsOnlyOpenFuses : Prop :=
  ∀ (dt : Nat) (l : List (Fin 4096)) (s : State), ∃ t, exec (.fuseProgram dt l) s = .next t ∧
    (∀ b : Fin 4096, s.fus.array.getLsbD b = true → t.fus.array.getLsbD b = true) ∧
    (∀ b : Fin 4096, s.fus.array.getLsbD b = false → t.fus.array.getLsbD b = true → b ∈ l ∧ fuseOpen s.fus.array b = true) ∧
    (∀ b : Fin 4096, l = [b] → fuseOpen s.fus.array b = true → t.fus.array.getLsbD b = true) ∧
    t.fus.loaded = s.fus.loaded ∧ t.host.mem = s.host.mem ∧ changesOnly (withReports [.fus]) s t

/-- When SYN is first on, the grid is anchored and the fronthaul lanes start training (R57, R437, R306). With a reference and SYN not
yet on since power-on reset, OUT_OF_RESET answers a next state: SYN is on, the sample clock is locked, the next symbol tick is a
frame tick at this count, and every live fronthaul lane that is not in LTS is training. -/
def Obligations.OutOfResetStartsLanesAndTimebase : Prop :=
  ∀ (dt : Nat) (s : State), s.syn.everOn = false → s.syn.refState = .locked →
    ∃ t, exec (.outOfReset dt) s = .next t ∧ t.syn.everOn = true ∧ t.syn.pllLocked = true ∧ domOn t 3 = true ∧
      t.tb.now = s.tb.now + dt ∧ t.tb.gridAt = t.tb.now ∧ t.tb.airNext % 280 = 0 ∧ t.tb.gridK = t.tb.airNext ∧
      (∀ l < 16, laneLive s l = true → inLts s l = false → (laneOf t l).state = .training) ∧
      changesOnly (withReports [.syn, .pwr, .lanes, .anl]) s t

/-- A source that qualifies or is lost sets or clears its bit, and the cleaner follows (R290, R291, R437). With SYN on or coming up,
SOURCE_QUALIFIED sets the source's bit, and before SYN is first on the cleaner locks to the best source. SOURCE_LOST clears the bit,
and when no source is left the cleaner searches from that count with no active source. -/
def Obligations.SourceEventsSetQualification : Prop :=
  (∀ (dt : Nat) (src : Source) (s : State), src ≠ .none → vget s.pwr.dom 3 .off ≠ .off → vget s.pwr.dom 3 .off ≠ .retention →
    ∃ t, exec (.sourceQualified dt src) s = .next t ∧ t.syn.qual = s.syn.qual ||| 1#5 <<< src.code ∧
      (s.syn.everOn = false → bestSource t ≠ 0 → t.syn.refState = .locked ∧ t.syn.active = Source.ofCode (bestSource t)) ∧
      changesOnly (withReports [.syn, .fh, .cru, .run, .tx, .rx, .anl, .pwr, .hka]) s t) ∧
  (∀ (dt : Nat) (src : Source) (s : State), src ≠ .none →
    ∃ t, exec (.sourceLost dt src) s = .next t ∧ t.syn.qual = s.syn.qual &&& ~~~(1#5 <<< src.code) ∧
      (s.syn.everOn = true → s.syn.refLost = false → s.syn.active ≠ .none → bestSource t = 0 →
        t.syn.refState = .searching ∧ t.syn.active = .none ∧ t.syn.lastActive = s.syn.active ∧
          t.syn.holdoverAt = some t.tb.now) ∧
      changesOnly (withReports [.syn, .fh, .cru, .run, .tx, .rx, .anl, .pwr]) s t)

/-- REF_LOST and a sample-clock unlock take every path off the air at once; a relock attempt ends in lock or counts a fault (R291, R293,
R295, R376, R377). REF_LOST comes 10 ms after the search began, if that has not passed, and marks the
reference lost and the carriers as waiting to resume.
SAMPLE_PLL_UNLOCK marks the sample clock unlocked. After either, no path sends and every PA enable is inactive. With the sample
clock unlocked and not permanent and the reference there, SAMPLE_PLL_RELOCK in lock sets it locked; out of lock it counts a fault
while fewer than three are less than 60 s old, and makes the unit permanent otherwise. -/
def Obligations.ClockLossSilencesPathsAndRelockEnds : Prop :=
  ((∀ (s : State) (t0 : Nat), s.syn.holdoverAt = some t0 →
     ∃ t, exec .refLost s = .next t ∧ t.syn.refLost = true ∧ t.syn.refState = .lost ∧ t.syn.pllLocked = false ∧
       t.tb.now = max s.tb.now (t0 + 4915200) ∧
       (∀ n < 5, (synthOf t n).state = .retired ∨ (synthOf t n).state = .off ∨ (synthOf t n).state = .gated) ∧
       (∀ p < 64, (txOf t p).radiating = false ∧ paenLine t p = false) ∧
       t.mod.refHeld = true ∧ changesOnly (withReports [.syn, .mod, .tx, .rx, .anl, .pwr, .hka, .bias, .hb]) s t) ∧
   (∀ (dt : Nat) (s : State), s.syn.pllLocked = true → clkOn s = true → s.tx.retuned = 0 →
     ∃ t, exec (.samplePllUnlock dt) s = .next t ∧ t.syn.pllLocked = false ∧
       (∀ p < 64, (txOf t p).radiating = false ∧ paenLine t p = false) ∧
       changesOnly (withReports [.syn, .tx, .rx, .anl, .pwr, .hb]) s t)) ∧
  (∀ (dt : Nat) (ok : Bool) (s : State), s.syn.pllLocked = false → s.syn.pllRetired = false → clkOn s = true →
     ∃ t, exec (.samplePllRelock dt ok) s = .next t ∧ t.syn.pllLocked = ok ∧
       (ok = false → (recent (s.tb.now + dt) s.syn.pllFaults).length < 3 →
         t.syn.pllFaults = (s.tb.now + dt) :: recent (s.tb.now + dt) s.syn.pllFaults ∧ t.syn.pllRetired = false) ∧
       (ok = false → 3 ≤ (recent (s.tb.now + dt) s.syn.pllFaults).length → t.syn.pllRetired = true) ∧
       t.syn.synth = s.syn.synth ∧ changesOnly (withReports [.syn, .pwr, .hb]) s t)

/-- A synthesiser that loses lock is retried or retired; a retry that is due searches, and a search that finds lock locks (R300, R376,
R377, R378, R298, R299). SYN_UNLOCK of a locked synthesiser and RELOCK_FAIL of a running attempt count a fault: with fewer than
three faults less than 60 s old it is gated and its next attempt is due 100 µs later; otherwise it is retired. Every synthesiser but
it and the spare stands. RELOCK_START of a synthesiser whose retry is due, with its reference, quad and span centre there, leaves it
searching from that count. SYN_LOCK of a searching or locking synthesiser leaves it locked in the band found. Every other
synthesiser stands. -/
def Obligations.SynthesiserFaultsRetriesAndLocks : Prop :=
  (let after := fun (s t : State) (n : Nat) =>
     ((recent t.tb.now (synthOf s n).faults).length < 3 →
       (synthOf t n).state = .gated ∧ (synthOf t n).retryAt = some (t.tb.now + 49152) ∧
         (synthOf t n).faults = t.tb.now :: recent t.tb.now (synthOf s n).faults) ∧
     (3 ≤ (recent t.tb.now (synthOf s n).faults).length → (synthOf t n).state = .retired ∧ (synthOf t n).retired = true) ∧
     (∀ m < 4, m ≠ n → synthOf t m = synthOf s m) ∧
     changesOnly (withReports [.syn, .tx, .rx, .anl, .pwr, .hb]) s t
   (∀ (dt : Nat) (n : Fin 5) (s : State), (synthOf s n).state = .locked →
     ∃ t, exec (.synUnlock dt n) s = .next t ∧ t.tb.now = s.tb.now + dt ∧
       (synthOf t n).relocks = min 255 ((synthOf s n).relocks + 1) ∧ after s t n) ∧
   (∀ (n : Fin 5) (s : State) (a : Nat), (synthOf s n).attemptAt = some a →
     ∃ t, exec (.relockFail n) s = .next t ∧ t.tb.now = max s.tb.now (a + 491520) ∧ after s t n)) ∧
  ((∀ (n : Fin 5) (s : State) (a : Nat), (synthOf s n).retryAt = some a → synCanRun s n = true → (spanCentre s).isSome →
     ∃ t, exec (.relockStart n) s = .next t ∧ t.tb.now = max s.tb.now a ∧
       (synthOf t n).state = .search ∧ (synthOf t n).attemptAt = some t.tb.now ∧ (synthOf t n).retryAt = none ∧
       (∀ m, m ≠ n.val → synthOf t m = synthOf s m) ∧ t.host.mem = s.host.mem ∧ changesOnly (withReports [.syn]) s t) ∧
   (∀ (dt : Nat) (n : Fin 5) (band : BitVec 8) (s : State), (synthOf s n).state = .search ∨ (synthOf s n).state = .locking →
     ∃ t, exec (.synLock dt n band) s = .next t ∧
       synthOf t n = { synthOf s n with state := .locked, band := band, attemptAt := none } ∧
       (∀ m, m ≠ n.val → synthOf t m = synthOf s m) ∧ changesOnly (withReports [.syn, .rx, .pwr]) s t))

/-- A retry that is due trains and is counted; a lane that has held its conditions for 1 ms is UP and joins at a slot tick (R112, R129,
R130, R116). On a lane whose domain is on and whose attempt has both
sides ready or trains nothing, LANE_UP leaves the lane UP with its attempt over and its
detectors clear, due to join unless it is in LTS; no other lane changes. RETRY_START of a lane whose retry is due leaves it in
training from that count; an attempt of the lane's own is counted among its retries of the trailing 60 s, one made for a fault of a
mate is not (log 30). No other lane changes. -/
def Obligations.LanesRetryComeUpAndJoin : Prop :=
  (∀ (dt : Nat) (l : Fin 40) (s : State), domOn s (laneDom l) = true → trainedUp s l = true →
     ∃ t, exec (.laneUp dt l) s = .next t ∧ (laneOf t l).state = .up ∧ (laneOf t l).attempt = none ∧
       (laneOf t l).joinDue = !inLts s l ∧ (laneOf t l).inDist = (laneOf s l).inDist ∧ (laneOf t l).blockLock = true ∧
       (laneOf t l).los = false ∧ (laneOf t l).lol = false ∧ (laneOf t l).hiBer = false ∧ (laneOf t l).align = false ∧
       (∀ m, m ≠ l.val → laneOf t m = laneOf s m) ∧ changesOnly (withReports [.lanes, .run, .pwr]) s t) ∧
  (∀ (l : Fin 40) (s : State) (a : Nat), (laneOf s l).retryAt = some a →
     ∃ t, exec (.retryStart l) s = .next t ∧ t.tb.now = max s.tb.now a ∧ (laneOf t l).state = .training ∧
       (∃ x, (laneOf t l).attempt = some x ∧ x.startAt = t.tb.now) ∧ (laneOf t l).retryAt = none ∧
       (laneOf t l).retries = (if (laneOf s l).peer = true then (laneOf s l).retries else t.tb.now :: recent t.tb.now (laneOf s l).retries) ∧
       (∀ m, m ≠ l.val → laneOf t m = laneOf s m) ∧ t.host.mem = s.host.mem ∧ changesOnly (withReports [.lanes]) s t)

/-- Training moves taps one step, a detector that clears clears its flag, and the PRBS checker syncs and loses sync in LTS (R109, R110,
R111, R113, R114, R128, R125). A training frame on a lane in an attempt that is neither FIXED nor fallen back applies the requested
step to each tap within its range. TRAINING_FALLBACK of an AUTO attempt that has received none sets the PRESET taps and the attempt
goes on. No other lane changes. With the lane's domain on, DETECTOR_CLEAR of LOS on a DOWN, not retired fronthaul lane outside LTS
leaves it training once SYN and the reference give its clock; any other DETECTOR_CLEAR leaves the lane as it was but for that detector's flag. No other lane changes.
CHECKER_SYNC of a lane in LTS whose checker runs sets CHK_SYNC and nothing else of the lane. PRBS_SYNC_LOST of a lane in sync clears
it, adds the errors, saturating, and the bits, modulo 2^64. No other lane changes. -/
def Obligations.TrainingDetectorsAndChecker : Prop :=
  ((∀ (dt : Nat) (l : Fin 40) (f : TrainFrame) (s : State) (a : Attempt), domOn s (laneDom l) = true →
     (laneOf s l).attempt = some a → a.mode ≠ .fixed → a.fell = false →
     ∃ t, exec (.trainingFrameRx dt l f) s = .next t ∧
       (laneOf t l).pre = tapStep f.pre 12 (laneOf s l).post (laneOf s l).pre ∧
       (laneOf t l).post = tapStep f.post 24 (laneOf t l).pre (laneOf s l).post ∧
       (laneOf t l).attempt = some { a with got := true, ready := f.partnerReady && f.eyeDone } ∧
       (laneOf t l).state = (laneOf s l).state ∧ (∀ m, m ≠ l.val → laneOf t m = laneOf s m) ∧
       t.host.mem = s.host.mem ∧ changesOnly (withReports [.lanes, .run]) s t) ∧
   (∀ (l : Fin 40) (s : State) (a : Attempt), (laneOf s l).attempt = some a → a.mode = .auto → a.got = false → a.fell = false →
     ∃ t, exec (.trainingFallback l) s = .next t ∧ t.tb.now = max s.tb.now (a.startAt + 245760000) ∧
       laneOf t l = { laneOf s l with pre := tapsPreset.1, post := tapsPreset.2, preset := true, attempt := some { a with fell := true } } ∧
       (∀ m, m ≠ l.val → laneOf t m = laneOf s m) ∧ t.host.mem = s.host.mem ∧ changesOnly (withReports [.lanes]) s t)) ∧
  (∀ (dt : Nat) (l : Fin 40) (det : Detector) (s : State), domOn s (laneDom l) = true →
     ∃ t, exec (.detectorClear dt l det) s = .next t ∧
       (if clkOn s = true ∧ det = .los ∧ l.val < 16 ∧ (laneOf s l).state = .down ∧ (laneOf s l).retired = false ∧ inLts s l = false then
         (laneOf t l).state = .training ∧ ∃ a, (laneOf t l).attempt = some a ∧ a.kind = .first ∧ a.startAt = t.tb.now
       else laneOf t l = detSet det false (laneOf s l)) ∧
       (∀ m, m ≠ l.val → laneOf t m = laneOf s m) ∧ changesOnly (withReports [.lanes, .pwr]) s t) ∧
  ((∀ (dt : Nat) (l : Fin 40) (s : State), inLts s l = true → (laneOf s l).chk ≠ 0 →
     ∃ t, exec (.checkerSync dt l) s = .next t ∧ laneOf t l = { laneOf s l with chkSync := true } ∧
       (∀ m, m ≠ l.val → laneOf t m = laneOf s m) ∧ t.host.mem = s.host.mem ∧ changesOnly (withReports [.lanes]) s t) ∧
   (∀ (dt : Nat) (l : Fin 40) (e n : Nat) (s : State), (laneOf s l).chkSync = true →
     ∃ t, exec (.prbsSyncLost dt l e n) s = .next t ∧
       laneOf t l = { laneOf s l with
         chkSync := false, prbsErr := min 0xFFFFFFFF ((laneOf s l).prbsErr + e), prbsBits := (laneOf s l).prbsBits + BitVec.ofNat 64 n } ∧
       (∀ m, m ≠ l.val → laneOf t m = laneOf s m) ∧ changesOnly (withReports [.lanes, .pwr]) s t))

/-- A lane fault or a failed retry waits 1 ms for the next attempt, and the fourth in 60 s retires the lane (R114, R116, R117, R118,
R378). A detector that asserts on a live UP lane, and a retrain attempt whose time runs out, leave the lane waiting for a retry due
1 ms later while fewer than three retries are less than 60 s old, and retired and down otherwise; LAST_FAULT shows the detector's
code, or 7. A first attempt or one in LTS that runs out leaves the lane down. -/
def Obligations.LaneFaultRetriesOrRetires : Prop :=
  let after := fun (s t : State) (l cause : Nat) =>
    (laneOf t l).lastFault = cause ∧ (laneOf t l).attempt = none ∧
    ((recent t.tb.now (laneOf s l).retries).length < 3 →
      (laneOf t l).state = .retryWait ∧ (laneOf t l).retryAt = some (t.tb.now + 491520) ∧ (laneOf t l).retired = (laneOf s l).retired) ∧
    (3 ≤ (recent t.tb.now (laneOf s l).retries).length →
      (laneOf t l).state = .down ∧ (laneOf t l).retired = true ∧ (laneOf t l).retryAt = none)
  (∀ (dt : Nat) (l : Fin 40) (det : Detector) (s : State), domOn s (laneDom l) = true → inLts s l = false →
    (laneOf s l).state = .up → (laneOf s l).retired = false →
    ∃ t, exec (.detectorAssert dt l det) s = .next t ∧ after s t l det.code ∧
      changesOnly (withReports [.lanes, .fh, .pwr, .hb]) s t) ∧
  (∀ (l : Fin 40) (s : State) (a : Attempt), (laneOf s l).attempt = some a → ¬(a.mode = .auto ∧ a.got = false ∧ a.fell = false) →
    a.kind = .retry ∨ a.kind = .plain →
    ∃ t, exec (.attemptFail l) s = .next t ∧ t.tb.now = max s.tb.now (attemptLimit a) ∧ after s t l 7 ∧
      changesOnly (withReports [.lanes, .fh, .run, .pwr, .hb]) s t) ∧
  (∀ (l : Fin 40) (s : State) (a : Attempt), (laneOf s l).attempt = some a → ¬(a.mode = .auto ∧ a.got = false ∧ a.fell = false) →
    a.kind = .first ∨ a.kind = .lts →
    ∃ t, exec (.attemptFail l) s = .next t ∧ t.tb.now = max s.tb.now (attemptLimit a) ∧
      laneOf t l = { laneOf s l with attempt := none, state := .down } ∧ (∀ m, m ≠ l.val → laneOf t m = laneOf s m) ∧
      changesOnly (withReports [.lanes, .fh, .run, .pwr, .hb]) s t)

/-- A guard period granted to Anneal adds its injection frames, and sixteen end a measurement (R319, R320, R322, R326). With a run that
may use this guard period and whose preconditions hold, ANL_GUARD_PERIOD adds the frames that fit; when sixteen are reached in
measurement 1, measurement 2 begins with none. At the first guard period of measurement 1 the run's paths become stale. The
period is used, and holds the frames numbered on from those taken before. -/
def Obligations.GuardPeriodMeasures : Prop :=
  ∀ (dt : Nat) (noise : Int) (grants : BitVec 4) (s : State) (r : AnlRun),
    let s1 := landsSampled (arrive dt s) grants
    let x := guardOpen s1 r
    let n := x.2.frames + guardFrames (x.1.anl.gpEnd - x.1.anl.gpAt)
    s.anl.run = some r → guardUsable s1 r = true → (x.2.baseline = true ∨ (baselineOf x.1).isSome) →
    anlPrecondition x.1 x.2 noise = 0 →
    ∃ t, exec (.anlGuardPeriod dt noise grants) s = .next t ∧
      (n < 16 → t.anl.run = some { x.2 with frames := n }) ∧
      (16 ≤ n → x.2.meas = 1 → t.anl.run = some { x.2 with meas := 2, frames := 0, m1End := t.tb.now } ∧ t.anl.state = .meas2) ∧
      (16 ≤ n → x.2.meas ≠ 1 → t.anl.run = some { x.2 with frames := n }) ∧
      (r.meas = 1 → r.frames = 0 → t.anl.stale = x.2.paths) ∧
      t.anl.gpFrom = x.2.frames ∧ t.anl.gpN = min (16 - x.2.frames) (n - x.2.frames) ∧ t.anl.gpEnd = x.1.anl.gpEnd ∧
      t.anl.corr = s.anl.corr ∧ t.host.mem = s.host.mem ∧ changesOnly (withReports [.mod, .tx, .anl]) s t

/-- The solve of two measurements that agree schedules corrections; two that disagree repeat the run (R322, R323, R328, R334). With both
measurements taken, ANL_SOLVE_END of results that agree on every unretired path of the run leaves a calibration run applying with two sets of corrections due, and
completes a baseline run. If a path's two results disagree and fewer than four attempts were repeated, the run waits again for
measurement 1, with the failure counted and cause 8. No correction changes at this moment. -/
def Obligations.SolveSchedulesOrRetries : Prop :=
  ∀ (dt : Nat) (l : List AnlResult) (s : State) (r : AnlRun), s.anl.run = some r → r.meas = 2 → 16 ≤ r.frames → s.anl.state = .meas2 →
    ∃ t, exec (.anlSolveEnd dt l) s = .next t ∧ t.anl.corr = s.anl.corr ∧
      (((anlUsed s r l).all fun x => anlAgree s x) = true → r.baseline = false →
        t.anl.state = .applying ∧ t.anl.apply.length = s.anl.apply.length + 2 ∧ t.anl.run = some r) ∧
      (((anlUsed s r l).all fun x => anlAgree s x) = true → r.baseline = true → t.anl.done = min 0xFFFF (s.anl.done + 1) ∧ t.anl.lastAt = t.tb.now) ∧
      (((anlUsed s r l).all fun x => anlAgree s x) = false → s.anl.attempt < 4 →
        t.anl.state = .waiting ∧ t.anl.attempt = s.anl.attempt + 1 ∧ t.anl.lastCause = 8 ∧ t.anl.stale = 0 ∧
          t.anl.failed = min 0xFFFF (s.anl.failed + 1) ∧ t.anl.run = some { r with meas := 1, frames := 0, since := t.tb.now }) ∧
      changesOnly (withReports [.tx, .anl, .pwr, .hb]) s t

/-- Anneal's timers repeat a measurement, block a run, or start one; a SAVE that verifies replaces the older copy (R322, R325, R328,
R329, R334). ANL_REPEAT_TIMEOUT 100 ms after measurement 1, with measurement 2 not begun, takes measurement 1 again without counting
an attempt. NO_GUARD 1 s after the trigger of a waiting run blocks Anneal with cause 11 and no run. ANL_AGE_TRIGGER once MAX_AGE has
passed since an accepted run, with no run, a carrier with ANL and no bar, starts a waiting run of trigger 3. With a SAVE in progress, ANL_SAVE_END that
verified writes the corrections and baselines in force into the older of the two copies and makes it the newest; one that failed
leaves that copy empty and the other newest. The corrections in force stand. -/
def Obligations.AnnealTimersAndSavedCopies : Prop :=
  ((∀ (dt : Nat) (s : State) (r : AnlRun), s.anl.run = some r → r.meas = 2 → r.frames = 0 → r.m1End + 49152000 ≤ s.tb.now + dt →
     ∃ t, exec (.anlRepeatTimeout dt) s = .next t ∧
       t.anl = { s.anl with run := some { r with meas := 1, since := t.tb.now }, state := .waiting, obs := 0 } ∧ t.host.mem = s.host.mem ∧
       changesOnly (withReports [.anl]) s t) ∧
   (∀ (dt : Nat) (s : State) (r : AnlRun), s.anl.run = some r → s.anl.state = .waiting → r.since + 491520000 ≤ s.tb.now + dt →
     ∃ t, exec (.noGuard dt) s = .next t ∧ t.anl.run = none ∧ t.anl.state = .blocked ∧ t.anl.lastCause = 11 ∧ t.anl.stale = 0 ∧
       t.anl.failed = min 0xFFFF (s.anl.failed + 1) ∧ t.anl.corr = s.anl.corr ∧
       changesOnly (withReports [.anl, .pwr, .hb]) s t) ∧
   (∀ (dt : Nat) (s : State), maxAge s ≠ 0 → s.anl.last.isSome → s.anl.lastAt + maxAge s ≤ s.tb.now + dt → s.anl.state ≠ .blocked → txBarred s = false →
     anlCarriers s ≠ [] → s.anl.run = none →
     ∃ t, exec (.anlAgeTrigger dt) s = .next t ∧ t.anl.state = .waiting ∧ t.anl.trigger = 3 ∧ t.anl.attempt = 0 ∧
       (∃ r, t.anl.run = some r ∧ r.trigger = 3 ∧ r.since = t.tb.now ∧ r.meas = 1 ∧ r.frames = 0) ∧
       t.host.mem = s.host.mem ∧ changesOnly (withReports [.anl]) s t)) ∧
  (∀ (dt : Nat) (ok : Bool) (s : State) (ref : CmdRef), s.anl.saving = some ref → s.anl.newest < 2 →
     ∃ t, exec (.anlSaveEnd dt ok) s = .next t ∧ t.anl.saving = none ∧ t.anl.corr = s.anl.corr ∧
       vget t.anl.copies s.anl.newest none = vget s.anl.copies s.anl.newest none ∧
       (ok = true → t.anl.newest = 1 - s.anl.newest ∧
         vget t.anl.copies (1 - s.anl.newest) none = some ⟨s.anl.corr, s.anl.bases⟩) ∧
       (ok = false → t.anl.newest = s.anl.newest ∧ vget t.anl.copies (1 - s.anl.newest) none = none) ∧
       changesOnly (withReports [.anl]) s t)

/-- A conversion is written to its channel and queued, HKA_QPOP takes the oldest entry, and a round refreshes times and fans (R357,
R359, R361, R365, R366, R368). With a conversion of channel ch in progress, HK_CONVERSION_DONE writes HKA_LAST(ch) and appends the
word of channel and code to the queue, or, with 512 entries waiting, counts it lost. With CTL on and the block not dark,
HKA_QPOP_READ answers the oldest entry and removes it, or 0xFFFFFFFF. HK_ROUND answers a next state in which one more round is
counted, dated at its count, every path's power average begins anew, and, where Quench is then latched, every fan not assigned to Link Test
runs at 255 and the heater is inactive. -/
def Obligations.ConversionsRoundsAndQueue : Prop :=
  ((∀ (dt : Nat) (code : BitVec 24) (s : State) (ch : Nat), s.hka.busy = some ch → ch < 160 →
     ∃ t, exec (.hkConversionDone dt code) s = .next t ∧ vget t.hka.last ch none = some (code, s.thm.rounds) ∧
       (∀ j < 160, j ≠ ch → vget t.hka.last j none = vget s.hka.last j none) ∧
       (s.hka.queue.length < 512 → t.hka.queue = s.hka.queue ++ [BitVec.ofNat 32 (ch * 2 ^ 24 + code.toNat)] ∧ t.hka.lost = s.hka.lost) ∧
       (512 ≤ s.hka.queue.length → t.hka.queue = s.hka.queue ∧ t.hka.lost = min 0xFFFF (s.hka.lost + 1)) ∧
       changesOnly (withReports [.pwr, .hka]) s t) ∧
   (∀ (dt : Nat) (s : State), domOn s 1 = true → darkAt s 0x60030 = none →
     ∃ t, exec (.hkaQpopRead dt) s = .next t ∧
       (∀ w l, s.hka.queue = w :: l → t.hka.queue = l ∧ t.host.resp = .data (BitVec.ofNat 64 w.toNat)) ∧
       (s.hka.queue = [] → t.hka.queue = [] ∧ t.host.resp = .data 0xFFFFFFFF) ∧
       t.host.mem = s.host.mem ∧ changesOnly (withReports [.hka]) s t)) ∧
  (∀ (dt : Nat) (s : State), ∃ t, exec (.hkRound dt) s = .next t ∧ t.thm.rounds = s.thm.rounds + 1 ∧
     t.tb.now = s.tb.now + dt ∧ t.thm.roundAt = t.tb.now ∧ (∀ p < 64, (txOf t p).rnd = (0, 0)) ∧
     (t.thm.quench = true → (∀ f < 4, (vget t.thm.fan f {}).duty = if fanTest t f then 0 else 255) ∧ t.thm.heatOn = false) ∧
     (s.thm.quench = true → t.thm.quench = true) ∧
     changesOnly (withReports [.hmem, .syn, .ldl, .lanes, .fh, .cru, .run, .tx, .rx, .anl, .pwr, .hld, .thm, .bias, .hb, .gen]) s t)

/-- A comparator that crosses shows the side and re-arms inside; a fan force ends when its HOLD time expires (R360, R344, R365).
COMPARATOR_CROSSING of a working comparator whose STATE differs sets STATE to the side crossed; COMPARATOR_REARM of a working one
sets STATE inside. No other comparator's STATE changes. FAN_FORCE_END of a forced fan comes at the count of the force's end, or now
if that has passed, and ends the force; no other fan changes. -/
def Obligations.ComparatorsCrossAndFanForceEnds : Prop :=
  ((∀ (dt : Nat) (k : Fin 16) (above : Bool) (s : State), cmpLive s k = true → (cmpOf s k).state ≠ (if above then 2 else 1) →
     ∃ t, exec (.comparatorCrossing dt k above) s = .next t ∧ (cmpOf t k).state = (if above then 2 else 1) ∧
       (∀ j < 16, j ≠ k.val → (cmpOf t j).state = (cmpOf s j).state) ∧
       changesOnly (withReports [.lanes, .fh, .run, .pwr, .hld, .hka]) s t) ∧
   (∀ (dt : Nat) (k : Fin 16) (s : State), cmpLive s k = true →
     ∃ t, exec (.comparatorRearm dt k) s = .next t ∧ cmpOf t k = { cmpOf s k with state := 0 } ∧
       (∀ j, j ≠ k.val → cmpOf t j = cmpOf s j) ∧ t.host.mem = s.host.mem ∧ changesOnly (withReports [.hka]) s t)) ∧
  (∀ (f : Fin 4) (s : State) (x : Nat × Nat), (vget s.thm.fan f.val {}).force = some x →
     ∃ t, exec (.fanForceEnd f) s = .next t ∧ t.tb.now = max s.tb.now x.2 ∧
       vget t.thm.fan f.val {} = { vget s.thm.fan f.val {} with force := none } ∧
       (∀ g, g ≠ f.val → vget t.thm.fan g {} = vget s.thm.fan g {}) ∧ t.host.mem = s.host.mem ∧
       changesOnly (withReports [.thm]) s t)

/-- Quench latches and in one step makes the device safe (R367, R368, R372). QUENCH whose condition holds, with Quench not latched,
latches it with its cause and sensor: no path sends and every PA enable is inactive, every bias output shows code 0 with its queue
flushed, the quads, TMP and CRU are off, the heater is inactive, every fan not assigned to Link Test runs at 255 unforced, and QUENCH_N is
low. -/
def Obligations.QuenchMakesSafe : Prop :=
  ∀ (dt cause : Nat) (sensor : Fin 24) (temp : Int) (s : State), s.thm.quench = false →
    quenchMet (arrive dt s) cause sensor temp = true →
    ∃ t, exec (.quench dt cause sensor temp) s = .next t ∧ t.thm.quench = true ∧ t.thm.qCause = cause ∧ t.thm.qSensor = sensor.val ∧
      t.gen.quenchN = false ∧ t.thm.heatOn = false ∧ txQuiet t ∧ (∀ o < 128, (vget t.bias.out o {}).queue = []) ∧
      (∀ d ∈ quenchDoms, vget t.pwr.dom d .on = .off) ∧
      (∀ f < 4, (vget t.thm.fan f {}).duty = (if fanTest t f then 0 else 255) ∧ (vget t.thm.fan f {}).force = none) ∧
      changesOnly (withReports [.hmem, .syn, .ldl, .lanes, .fh, .cru, .run, .tx, .rx, .anl, .pwr, .hld, .thm, .bias, .hb, .gen]) s t

/-- An update tick releases the head entry of every output that awaits none (R370, R371). BIAS_UPDATE_TICK with the timebase on
releases, at every output with a queued entry and none released before, the head entry: a code entry leaves the queue, a span entry
leaves the switch to its span at code 0 as the next entry. What an output shows does not change at this moment. -/
def Obligations.BiasUpdateReleasesHeadEntries : Prop :=
  ∀ (dt : Nat) (s : State), tbOn s = true →
    ∃ t, exec (.biasUpdateTick dt) s = .next t ∧
      (∀ o < 128, ∀ e l, (vget s.bias.out o {}).queue = e :: l → (vget s.bias.out o {}).released = none →
        (vget t.bias.out o {}).released = some e ∧
        (vget t.bias.out o {}).queue = (match e with | .span n => .spanSwitch n :: l | _ => l)) ∧
      (∀ o < 128, (vget s.bias.out o {}).released ≠ none ∨ (vget s.bias.out o {}).queue = [] →
        vget t.bias.out o {} = vget s.bias.out o {}) ∧
      (∀ o < 128, (vget t.bias.out o {}).shown = (vget s.bias.out o {}).shown ∧ (vget t.bias.out o {}).code = (vget s.bias.out o {}).code) ∧
      t.host.mem = s.host.mem ∧ changesOnly (withReports [.bias]) s t

/-- A domain's entry and exit end in their state, and an exit with a wrong signature records the spoiled bank (R340, R341, R342, R343).
For any domain but CTL: DOMAIN_ENTRY_DONE of a moving domain whose target is not on leaves it at its target; DOMAIN_EXIT_START of a
domain whose exit can begin leaves it moving toward on with its origin kept, and changes no other domain; DOMAIN_EXIT_DONE of one
whose exit may be complete leaves it on. CTL_ENTRY_START, when due, leaves CTL moving toward its target. DOMAIN_EXIT_DONE of a kept
domain other than CTL in which a bank shows another signature than it had sets BANK_SPOILED and that bank's bit. With every
signature right, nothing is recorded as spoiled. -/
def Obligations.DomainEntriesExitsAndSpoiledBanks : Prop :=
  ((∀ (dt : Nat) (d : Fin 14) (sigs : List (BitVec 32)) (s : State), d.val ≠ 1 → vget s.pwr.dom d .off = .moving →
     vget s.pwr.target d .on ≠ .on →
     ∃ t, exec (.domainEntryDone dt d sigs) s = .next t ∧ vget t.pwr.dom d .on = vget s.pwr.target d .on ∧
       changesOnly (withReports [.hmem, .syn, .ldl, .lanes, .fh, .cru, .run, .tx, .rx, .pwr, .hld, .hka, .bias, .gen]) s t) ∧
   (∀ (dt : Nat) (d : Fin 14) (s : State), exitCan s d = true →
     ∃ t, exec (.domainExitStart dt d) s = .next t ∧ vget t.pwr.dom d .off = .moving ∧ vget t.pwr.target d .off = .on ∧
       vget t.pwr.origin d .on = vget s.pwr.dom d .off ∧
       (∀ e, e ≠ d.val → vget t.pwr.dom e .off = vget s.pwr.dom e .off) ∧ t.host.mem = s.host.mem ∧
       changesOnly (withReports [.pwr]) s t) ∧
   (∀ (dt : Nat) (d : Fin 14) (sigs : List (BitVec 32)) (s : State), d.val ≠ 1 → exitEnds s d = true →
     ∃ t, exec (.domainExitDone dt d sigs) s = .next t ∧ vget t.pwr.dom d .off = .on ∧ vget t.pwr.kept d true = false ∧
       changesOnly (withReports [.hmem, .dev, .syn, .mod, .ldl, .lanes, .fh, .cru, .run, .tx, .rx, .anl, .pwr, .hld, .hka, .bias,
         .hb, .fus, .gen]) s t) ∧
   (∀ (s : State) (a : Nat) (x : DomState), s.pwr.ctlEntryAt = some (a, x) →
     ∃ t, exec .ctlEntryStart s = .next t ∧ t.tb.now = max s.tb.now a ∧ t.pwr.ctlEntryAt = none ∧
       vget t.pwr.dom 1 .off = .moving ∧ vget t.pwr.target 1 .on = x ∧ vget t.pwr.origin 1 .on = vget s.pwr.dom 1 .off ∧
       changesOnly (withReports [.syn, .lanes, .fh, .tx, .rx, .pwr, .bias]) s t)) ∧
  (∀ (dt : Nat) (d : Fin 14) (sigs : List (BitVec 32)) (s : State), d.val ≠ 1 → exitEnds s d = true →
     vget s.pwr.origin d .off = .retention → vget s.pwr.kept d false = true →
     ∃ t, exec (.domainExitDone dt d sigs) s = .next t ∧
       (∀ i < (banksOf d).2, (banksOf d).1 + i < 32 → sigs.getD i 0 ≠ vget s.pwr.sign ((banksOf d).1 + i) 0 →
         t.pwr.bankSpoiled = true ∧ t.pwr.spoiled.getLsbD ((banksOf d).1 + i) = true) ∧
       ((∀ i < (banksOf d).2, sigs.getD i 0 = vget s.pwr.sign ((banksOf d).1 + i) 0) →
         t.pwr.bankSpoiled = s.pwr.bankSpoiled ∧ t.pwr.spoiled = s.pwr.spoiled) ∧ vget t.pwr.dom d .off = .on)

/-- A wake during a change of domains is latched; otherwise it acts; a request to a sleeping CTL waits (R344, R345, R346). PWAKE_EDGE
while a change of domains is in progress sets its latch and nothing else of the device. With none in progress, Quench not latched
and an action set, it records its source and, where some domain it brings up is not on, starts that change. CTL_WAKE_REQUEST while
CTL is in retention puts the request behind those that wait and, with no change in progress, starts CTL's exit. -/
def Obligations.WakesLatchOrActAndRequestsWait : Prop :=
  (∀ (dt : Nat) (s : State), pwrBusy s = true →
    ∃ t, exec (.pwakeEdge dt) s = .next t ∧ t.pwr = { s.pwr with wakeLatch := s.pwr.wakeLatch ||| 8 } ∧
      t.host.mem = s.host.mem ∧ changesOnly (withReports [.pwr]) s t) ∧
  (∀ (dt : Nat) (s : State), pwrBusy s = false → s.thm.quench = false → wakeAction s 4 = 1 → domOn s 1 = false →
    ∃ t, exec (.pwakeEdge dt) s = .next t ∧ t.hld.lastSrc = 4 ∧ (∃ c, t.pwr.cmd = some c ∧ c.names = 2) ∧
      t.pwr.dom = s.pwr.dom ∧ changesOnly (withReports [.lanes, .fh, .run, .pwr, .hld]) s t) ∧
  (∀ (dt : Nat) (req : BusReq) (s : State), vget s.pwr.dom 1 .on = .retention →
    ∃ t, exec (.ctlWakeRequest dt req) s = .next t ∧ t.host.waiting = s.host.waiting ++ [req] ∧
      (pwrBusy s = false → vget t.pwr.dom 1 .on = .moving ∧ vget t.pwr.target 1 .off = .on) ∧
      (pwrBusy s = true → t.pwr = s.pwr) ∧ t.host.mem = s.host.mem ∧ changesOnly (withReports [.pwr]) s t)

/-- A Holding window counts down BLIND and votes in WATCH, and a dark check counts a level above DARK_LVL (R347, R350, R351, R53, R54).
With no change waiting for a window: in BLIND, HOLDING_WINDOW_END counts one window down and watches after the last. In WATCH, each tap
that may vote keeps its newest 15 votes with this window's in front, and with too few taps holding enough hits Holding goes on
watching. With dark checks made and the octant's check due and holding its ORx, DARK_CHECK makes the next one due a second later, moves
the octant's rotation on past the path observed, and counts one failure exactly where the level exceeds DARK_LVL; otherwise it changes only time. No other
octant changes. -/
def Obligations.HoldingWindowVotesAndDarkCheck : Prop :=
  ((∀ (dt : Nat) (hits : BitVec 8) (s : State), s.hld.pend = [] → s.hld.state = .blind →
     ∃ t, exec (.holdingWindowEnd dt hits) s = .next t ∧
       t.hld = { s.hld with blindLeft := s.hld.blindLeft - 1, state := if s.hld.blindLeft ≤ 1 then .watch else .blind } ∧
       t.host.mem = s.host.mem ∧ changesOnly (withReports [.hld]) s t) ∧
   (∀ (dt : Nat) (hits : BitVec 8) (s : State), s.hld.pend = [] → s.hld.state = .watch →
     ∃ t, exec (.holdingWindowEnd dt hits) s = .next t ∧
       (∀ i < 8, tapVotes s i = false → tapOf t i = tapOf s i ∨ t.hld.state ≠ .watch) ∧
       (∀ i < 8, tapVotes s i = true → t.hld.state = .watch → (tapOf t i).votes = (hits.getLsbD i :: (tapOf s i).votes).take 15) ∧
       t.hld.decisions = (if t.hld.state = .watch then s.hld.decisions else min 0xFFFF (s.hld.decisions + 1)) ∧
       changesOnly (withReports [.lanes, .fh, .run, .pwr, .hld]) s t)) ∧
  ((∀ (dt : Nat) (o : Fin 8) (level : Int) (s : State), darkChecks s = true → (vget s.rx.orx o.val {}).holder = 3 →
     (vget s.rx.orx o.val {}).darkAt ≤ s.tb.now + dt →
     ∃ t, exec (.darkCheck dt o level) s = .next t ∧ t.tb.now = s.tb.now + dt ∧
       vget t.rx.orx o.val {} = { vget s.rx.orx o.val {} with darkAt := t.tb.now + 491520000 } ∧
       vget t.hld.rot o.val 0 = ((vget s.rx.orx o.val {}).coupler + 1) % 8 ∧
       (∀ q, q ≠ o.val → vget t.rx.orx q {} = vget s.rx.orx q {} ∧ vget t.hld.rot q 0 = vget s.hld.rot q 0) ∧
       t.hld.fails = (if sx 8 s.hld.darkLvl.toNat * 64 < level then min 0xFFFF (s.hld.fails + 1) else s.hld.fails) ∧
       changesOnly (withReports [.rx, .hld, .pwr, .hb]) s t) ∧
   (∀ (dt : Nat) (o : Fin 8) (level : Int) (s : State), darkChecks s = false ∨ (vget s.rx.orx o.val {}).holder ≠ 3 ∨
     s.tb.now + dt < (vget s.rx.orx o.val {}).darkAt →
     ∃ t, exec (.darkCheck dt o level) s = .next t ∧ changesOnly reportParts s t))

/-- A snapshot falls due, puts its 130 records at the next free place when it verifies, and a clear leaves the area empty (R386, R391,
R387, R390). With a snapshot in progress and no clear, HB_SNAPSHOT that verifies writes the image of 130 records of 96 bytes from
the next free record on, changes no other byte of the record area, and advances the free place by 130. One that fails at record k
sets HB_FAIL and the free place lies behind that record. HB_SNAPSHOT_DUE once INTERVAL hours have passed, with the Heat Book neither
read-only nor full nor writing another snapshot and room for 130 records, puts a snapshot in progress. HB_CLEAR_ERASE_END that
succeeds leaves the record area empty and the counts and histograms at 0; one that fails leaves HB_FAIL set. -/
def Obligations.SnapshotsFallDueAreWrittenAndErased : Prop :=
  (∀ (dt : Nat) (s : State) (x : SnapReq) (l : List SnapReq), s.hb.snaps = x :: l → snapRuns s = true → s.hb.clearing = none →
     (∃ t, exec (.hbSnapshot dt none) s = .next t ∧ t.hb.next = s.hb.next + 130 ∧
       t.hb.recs = memWriteBytes 0xFF s.hb.recs (96 * s.hb.next) (hbImage (arrive dt s) x.cause) ∧
       changesOnly (withReports [.flash, .hb, .pwr]) s t) ∧
     (∀ k < 130, ∃ t, exec (.hbSnapshot dt (some k)) s = .next t ∧ t.hb.fail = true ∧ t.hb.next = s.hb.next + k + 1 ∧
       changesOnly (withReports [.flash, .hb, .pwr, .fus]) s t)) ∧
  ((∀ (dt : Nat) (s : State), s.hb.lastSnapHours + s.hb.interval ≤ s.hb.hours → s.hb.fail = false → s.hb.full = false →
     s.hb.next + 130 ≤ recArea →
     ∃ t, exec (.hbSnapshotDue dt) s = .next t ∧ t.hb.lastSnapHours = s.hb.hours ∧ t.hb.snaps = s.hb.snaps ++ [⟨1, none⟩] ∧
       t.hb.recs = s.hb.recs ∧ changesOnly (withReports [.hb, .pwr]) s t) ∧
   (∀ (dt : Nat) (s : State) (ref : CmdRef), s.hb.clearing = some ref →
     ∃ t, exec (.hbClearEraseEnd dt none) s = .next t ∧ t.hb.recs = [] ∧ t.hb.next = 0 ∧ t.hb.full = false ∧
       t.hb.hPow = Vector.replicate 64 {} ∧ t.hb.hTemp = Vector.replicate 24 {} ∧
       changesOnly (withReports [.flash, .hb, .pwr]) s t) ∧
   (∀ (dt : Nat) (f : Fin 2) (s : State) (ref : CmdRef), s.hb.clearing = some ref →
     ∃ t, exec (.hbClearEraseEnd dt (some f)) s = .next t ∧ t.hb.fail = true ∧
       changesOnly (withReports [.flash, .hb, .pwr, .fus]) s t))

/-- A completed hour programs one bit, and the scan finds the first free record (R383, R385, R386). HOUR_COMPLETE with CTL on, HB_FAIL
clear and hours left that verifies counts one hour; while CTL is not on the programming waits; either way every lane's errors of the
hour are taken into its histogram and begin at 0. HB_FREE_SCAN with CTL on and no scan done marks the scan done. -/
def Obligations.HourAndScanAdvanceTheHeatBook : Prop :=
  (∀ (dt : Nat) (s : State), ∃ t, exec (.hourComplete dt true) s = .next t ∧
    (domOn s 1 = true → s.hb.fail = false → s.hb.hours < 524288 → t.hb.hours = s.hb.hours + 1) ∧
    (domOn s 1 = false → t.hb.hours = s.hb.hours ∧ t.hb.flashWait = s.hb.flashWait + 1) ∧
    (∀ l < 40, (laneOf t l).hourErr = 0 ∧ laneOf t l = { laneOf s l with hourErr := 0 }) ∧ t.host.mem = s.host.mem ∧
    changesOnly (withReports [.lanes, .hb, .pwr, .fus]) s t) ∧
  (∀ (dt : Nat) (s : State), domOn s 1 = true → s.hb.scanned = false →
    ∃ t, exec (.hbFreeScan dt) s = .next t ∧ t.hb.scanned = true ∧ t.hb.recs = s.hb.recs ∧
      (s.hb.recs = [] → t.hb.next = 0) ∧ changesOnly (withReports [.hb, .pwr]) s t)

/-- The free engine takes the next channel in cyclic order, and an ended move frees it with its outcome (R100, R101, R102,
R103). LADLE_ENGINE_START with the engine free takes the first channel after the last served, in cyclic order, whose move is ready, and
marks only that move started. LADLE_MOVE_END of the running channel leaves the engine free and the channel without a move, with EOC
set and its outcome and valid count shown; a failed read of host memory is noted by AER. -/
def Obligations.LadleEngineServesInCyclicOrder : Prop :=
  (∀ (dt : Nat) (s : State) (i : Nat), s.ldl.running = none → i < 8 → moveReady s ((s.ldl.lastServed + 1 + i) % 8) = true →
    (∀ j < i, moveReady s ((s.ldl.lastServed + 1 + j) % 8) = false) →
    ∃ t, exec (.ladleEngineStart dt) s = .next t ∧ t.ldl.running = some ((s.ldl.lastServed + 1 + i) % 8) ∧
      t.ldl.lastServed = (s.ldl.lastServed + 1 + i) % 8 ∧
      (∀ m, (chOf s ((s.ldl.lastServed + 1 + i) % 8)).move = some m →
        (chOf t ((s.ldl.lastServed + 1 + i) % 8)).move = some { m with started := true }) ∧
      (∀ c < 8, c ≠ (s.ldl.lastServed + 1 + i) % 8 → chOf t c = chOf s c) ∧ t.host.mem = s.host.mem ∧
      changesOnly (withReports [.ldl]) s t) ∧
  (∀ (dt read : Nat) (e : Option Nat) (we : List (Nat × Nat)) (s : State) (c : Nat) (m : Move), s.ldl.running = some c → c < 8 → (chOf s c).move = some m →
    ∃ t, exec (.ladleMoveEnd dt read e we) s = .next t ∧ t.ldl.running = none ∧ (chOf t c).move = none ∧ (chOf t c).eoc = true ∧
      (chOf t c).trunc = (moveOutcome m read e).trunc ∧ (chOf t c).cause = BitVec.ofNat 8 (moveOutcome m read e).cause ∧
      (chOf t c).count = BitVec.ofNat 32 (moveOutcome m read e).valid ∧
      ((moveOutcome m read e).cause = cHostRead → t.host.aerRead = true) ∧
      (∀ d < 8, d ≠ c → chOf t d = chOf s d) ∧ changesOnly (withReports [.hmem, .dev, .ldl, .cru]) s t)

/-- At a symbol tick a path sends only in a downlink symbol, on a locked quad, with its PA enabled (R7, R8, R256, R259, R260). With the
timebase running, no step open and no command bound, AIR_SYMBOL_TICK inside a slot comes at the tick's count, numbers the next
symbol, and leaves a path sending only if the symbol is a downlink symbol and the path's quad passed the lock check; its PAEN is
held through the symbol exactly where the path sends. -/
def Obligations.AirSymbolTickDrivesPathsByPattern : Prop :=
  ∀ (seen : TickSeen) (s : State), tbOn s = true → s.tb.airNext % 14 ≠ 0 → s.tb.voidCounts = 0 → noneBound s →
    ∃ t, exec (.airSymbolTick seen) s = .next t ∧ t.tb.airNext = s.tb.airNext + 1 ∧ t.tb.now = max s.tb.now (tickT s s.tb.airNext) ∧
      (∀ p < 64, (txOf t p).radiating = true → isDl s s.tb.airNext = true) ∧
      (∀ p < 64, (txOf t p).radiating = true → vget t.tx.lockOk (p / 16) false = true) ∧
      (∀ p < 64, (txOf t p).paen = (txOf t p).radiating) ∧ t.fus = s.fus ∧ t.air = s.air

/-- A slot tick is the symbol tick of symbol 0 and a frame tick the slot tick of slot 0, with their own effects (R7, R175, R306, R431).
AIR_SLOT_TICK at a symbol 0, and AIR_FRAME_TICK at a symbol 0 of slot 0, answer what AIR_SYMBOL_TICK answers there. At a slot tick
with no step open and no command bound CRU_SCALE takes the value armed a slot before; a frame tick with no step or grid change due,
at a device that takes its timing from no master, also records the tick error. -/
def Obligations.SlotAndFrameTicksAreSymbolTicks : Prop :=
  (∀ (seen : TickSeen) (s : State), s.tb.airNext % 14 = 0 → exec (.airSlotTick seen) s = exec (.airSymbolTick seen) s) ∧
  (∀ (seen : TickSeen) (s : State), s.tb.airNext % 280 = 0 → exec (.airFrameTick seen) s = exec (.airSymbolTick seen) s) ∧
  (∀ (seen : TickSeen) (s : State), tbOn s = true → s.tb.airNext % 14 = 0 → s.tb.airNext % 280 ≠ 0 → s.tb.voidCounts = 0 → noneBound s →
    ∃ t, exec (.airSlotTick seen) s = .next t ∧ t.tb.airNext = s.tb.airNext + 1 ∧ t.tb.now = max s.tb.now (tickT s s.tb.airNext) ∧
      t.cru.ulShiftNow = s.cru.ulShiftArm ∧ t.cru.dlShiftNow = s.cru.dlShiftArm ∧
      t.cru.ulShiftArm = s.cru.ulShift ∧ t.cru.dlShiftArm = s.cru.dlShift ∧ t.fus = s.fus ∧ t.air = s.air) ∧
  (∀ (seen : TickSeen) (s : State), tbOn s = true → s.tb.airNext % 280 = 0 → s.tb.gridPend = none → s.tb.stepDue = none → noneBound s →
    s.gen.master = true ∨ (s.run.state ≠ .aligning ∧ s.run.state ≠ .inService) →
    let p := arriveAt (tickT s s.tb.airNext) s
    ∃ t, exec (.airFrameTick seen) s = .next t ∧ t.tb.airNext = s.tb.airNext + 1 ∧ t.tb.now = max s.tb.now (tickT s s.tb.airNext) ∧
      t.tb.tickErr = tickErrNow { p with tb := { p.tb with airNext := s.tb.airNext + 1 } } ∧ t.tb.voidCounts = 0 ∧ t.fus = s.fus)

/-- Symbol ticks follow one another by the symbol lengths, and slots by 245,760 counts (R8). Within the grid in force the tick of the
next symbol lies 17,792 counts behind that of a symbol 0 and 17,536 behind that of any other, so that slots follow at 245,760
counts; with the timebase running and no step open, AIR_SYMBOL_TICK comes at exactly that count. -/
def Obligations.SymbolTicksFollowAtSymbolLengths : Prop :=
  (∀ (s : State) (k : Nat), s.tb.gridK ≤ k → s.tb.gridK % 14 = 0 →
    tickT s (k + 1) = tickT s k + (if k % 14 = 0 then 1408 + 16384 else 1152 + 16384) ∧ tickT s (k + 14) = tickT s k + 245760) ∧
  (1408 + 16384 = 17792 ∧ 1152 + 16384 = 17536) ∧
  (∀ (seen : TickSeen) (s : State), tbOn s = true → s.tb.airNext % 14 ≠ 0 → s.tb.voidCounts = 0 → noneBound s → s.tb.now ≤ tickT s s.tb.airNext →
    ∃ t, exec (.airSymbolTick seen) s = .next t ∧ t.tb.now = tickT s s.tb.airNext)

/-- A work tick closes the window before it and opens its own; a weight fill writes only the inactive half (R26, R31, R149, R174, R177,
R176, R178). With the timebase running and no command bound, DL_WORK_TICK opens the downlink window of its symbol with the messages
held for it, keeps no message of an earlier symbol, and numbers the next window; UL_WORK_TICK opens the uplink window of its symbol
with nothing of it sent, its antenna values all from paths that are on and not retired in it. WEIGHT_FILL comes 1,024 counts behind
the work tick of the symbol before and, with CRU and the timebase on, marks a fill of its direction in progress. The active half of
its direction and both halves of the other are as they were. -/
def Obligations.WorkTicksMoveWindowsAndFills : Prop :=
  ((∀ (n : Nat) (late : List Nat) (s : State), tbOn s = true → noneBound s →
     ∃ t, exec (.dlWorkTick n late) s = .next t ∧ t.tb.dlNext = s.tb.dlNext + 1 ∧ t.tb.now = max s.tb.now (tickAt s .dlWork s.tb.dlNext) ∧
       t.cru.dlSym = s.tb.dlNext ∧ (∀ m ∈ t.fh.held, s.tb.dlNext ≤ m.sym) ∧
       t.cru.dlWork = t.fh.held.filter (fun m => m.sym == s.tb.dlNext) ∧
       changesOnly (withReports [.fh, .cru, .tx, .pwr, .gen]) s t) ∧
   (∀ (l : List LayerRef) (rx : List AntVal) (s : State), tbOn s = true → noneBound s →
     ∃ t, exec (.ulWorkTick l rx) s = .next t ∧ t.tb.ulNext = s.tb.ulNext + 1 ∧
       t.tb.now = max s.tb.now (tickAt s .ulWork s.tb.ulNext) ∧ t.cru.ulSym = s.tb.ulNext ∧ t.cru.ulSent = [] ∧
       (∀ r ∈ t.cru.ulRx, r ∈ rx ∧ bit (retMaskOf t 1) r.ant.val = false ∧ domOn s (10 + r.ant.val / 16) = true) ∧
       changesOnly (withReports [.fh, .cru, .run, .pwr, .gen]) s t)) ∧
  (∀ (d : Fin 2) (s : State), domOn s 8 = true → tbOn s = true → actOf s d < 2 →
     let kind := if d.val = 0 then TickKind.dlWork else .ulWork
     let k := if d.val = 0 then s.tb.dlNext else s.tb.ulNext
     ∃ t, exec (.weightFill d) s = .next t ∧ t.tb.now = max s.tb.now (tickAt s kind (k - 1) + 1024) ∧
       (vget t.cru.filling d.val none).isSome ∧ t.cru.act = s.cru.act ∧
       (d.val = 0 → t.cru.ul = s.cru.ul ∧ ∀ h : actOf s d < 2, t.cru.dl[actOf s d] = s.cru.dl[actOf s d]) ∧
       (d.val = 1 → t.cru.dl = s.cru.dl ∧ ∀ h : actOf s d < 2, t.cru.ul[actOf s d] = s.cru.ul[actOf s d]) ∧
       t.host.mem = s.host.mem ∧ changesOnly (withReports [.cru]) s t)

/-- What an uplink window has finished leaves once: layers and samples from the end member, partial-sum records toward it (R157, R158,
R192, R193, R216, R278). While samples flow, UPLINK_ASSEMBLY of a layer not done, at its end member with every member's sums in, in an uplink symbol of a
carrier in BFS, marks the layer done; once done, or before every sum is in, it sends nothing more. UPLINK_ASSEMBLY of a path's samples,
in an uplink symbol of a carrier that streams, queues one message for every run of blocks on the carrier's port, or counts each of them
where that port carries no traffic; no unit of the Crucible changes. PSUM_RECORD_SEND of a layer placed here with its end elsewhere,
not done, on a carrier that is not suspended and with a lane toward the end member, sends the layer's next record where that lane
sends, and marks the layer done with its last one. -/
def Obligations.UplinkLayersLeaveOnce : Prop :=
  (∀ (dt : Nat) (c : Fin 2) (id : Nat) (l : List Sample) (s : State) (e : Entry), samplesFlow s = true → isUl s s.cru.ulSym = true →
    bit (setAt s c s.cru.ulSym) 2 = true → ((placedAt s c 1 s.cru.ulSym).find? fun e => e.layer == id && e.isEnd) = some e →
    ∃ t, exec (.uplinkAssembly dt c false id l) s = .next t ∧ t.host.mem = s.host.mem ∧ changesOnly (withReports [.fh, .cru]) s t ∧
      (ulDone s c id = false → missingMembers s c e = 0 → ulDone t c id = true) ∧
      (ulDone s c id = true ∨ missingMembers s c e ≠ 0 → t.fh = s.fh ∧ t.cru = s.cru)) ∧
  (∀ (dt : Nat) (c : Fin 2) (id : Nat) (l : List Sample) (s : State), samplesFlow s = true → isUl s s.cru.ulSym = true → id < 64 →
    bit (setAt s c s.cru.ulSym) 1 = true →
    let f := fhOf s c
    let n := (msgRuns (blockCount s 1 c s.cru.ulSym) 128 f.comp f.mtu).length
    let p := portOfCode f.astPort
    ∃ t, exec (.uplinkAssembly dt c true id l) s = .next t ∧ t.cru = s.cru ∧ t.host.mem = s.host.mem ∧ changesOnly (withReports [.fh]) s t ∧
      (portUp s p = true → portLeaving s p = false → t.fh.slag = s.fh.slag ∧
        ∃ q, t.fh.ulQueue = s.fh.ulQueue ++ q ∧ q.length = n ∧ ∀ m ∈ q, m.port = p ∧ m.cc = c.val ∧ m.sym = s.cru.ulSym) ∧
      (portUp s p = false → t.fh.ulQueue = s.fh.ulQueue ∧
        (vget s.fh.slag 18 0 ≤ 0xFFFFFFFF → vget t.fh.slag 18 0 = min 0xFFFFFFFF (vget s.fh.slag 18 0 + n)))) ∧
  (∀ (dt : Nat) (c : Fin 2) (id : Nat) (s : State) (e : Entry) (d lane : Nat),
    ((placedAt s c 1 s.cru.ulSym).find? fun e => e.layer == id && !e.isEnd && !e.isLocal) = some e →
    ulDone s c id = false → suspended s c = false → towardEnd s c e = some (d, lane) →
    ∃ t, exec (.psumRecordSend dt c id) s = .next t ∧ partsSent t c id = partsSent s c id + 1 ∧
      ulDone t c id = decide ((psumRuns s c).length ≤ partsSent s c id + 1) ∧ t.cru.psums = s.cru.psums ∧
      (partsSent s c id < (psumRuns s c).length → (laneOf s (16 + 12 * d + lane)).leaveIn = 0 →
        (laneOf s (16 + 12 * d + lane)).inDist = true → ∃ h b, t.out = [.pour d lane h b false]) ∧
      t.host.mem = s.host.mem ∧ changesOnly (withReports [.fh, .cru, .run]) s t)

/-- The lock check decides, quad by quad, whether the next symbol may be sent and received (R256, R257, R282). With the timebase running
and the next symbol not checked, LOCK_CHECK comes 1,024 counts before its tick, marks it checked, and records for every quad whether
its transmit and its receive synthesiser is then locked and not settling. -/
def Obligations.LockCheckDecidesTheNextSymbol : Prop :=
  ∀ (g : BitVec 4) (s : State), tbOn s = true → s.tx.checkedSym ≠ some s.tb.airNext →
    ∃ t, exec (.lockCheck g) s = .next t ∧ t.tb.now = max s.tb.now (tickT s s.tb.airNext - 1024) ∧
      t.tx.checkedSym = some s.tb.airNext ∧
      (∀ q < 4, vget t.tx.lockOk q false = quadReady (arriveAt (tickT s s.tb.airNext - 1024) s) q 0 s.tb.airNext) ∧
      (∀ q < 4, vget t.rx.lockOk q false = quadReady (arriveAt (tickT s s.tb.airNext - 1024) s) q 1 s.tb.airNext) ∧
      changesOnly (withReports [.tx, .rx, .pwr, .hb]) s t

/-- A faulty pot stops with no units and awaits its retest, or is retired (R195, R376, R377). With CRU on and the pot neither retired
nor stopped, POT_FAULT leaves it with no units, stopped while fewer than three faults are less than 60 s old and retired otherwise.
POT_RETEST_END of a pot under test that passes ends the test and the pot waits for the next table; one that fails counts a further
fault. -/
def Obligations.PotFaultDealsUnitsAndRetestEnds : Prop :=
  let counted := fun (s t : State) (i : Nat) =>
    ((recent t.tb.now (potOf s i).faults).length < 3 → (potOf t i).state = 1 ∧ (potOf t i).retired = (potOf s i).retired) ∧
    (3 ≤ (recent t.tb.now (potOf s i).faults).length → (potOf t i).state = 2 ∧ (potOf t i).retired = true)
  (∀ (dt : Nat) (i : Fin 8) (r : Bool) (s : State), domOn s 8 = true → (potOf s i).retired = false → (potOf s i).state ≠ 1 →
    ∃ t, exec (.potFault dt i r) s = .next t ∧ counted s t i ∧ vget t.cru.units i.val [] = [] ∧
      changesOnly (withReports [.cru, .pwr, .hb]) s t) ∧
  (∀ (dt : Nat) (i : Fin 8) (s : State), (potOf s i).testing = true →
    ∃ t, exec (.potRetestEnd dt i true) s = .next t ∧ potOf t i = { potOf s i with testing := false, passed := true } ∧
      (∀ j, j ≠ i.val → potOf t j = potOf s j) ∧ t.host.mem = s.host.mem ∧ changesOnly (withReports [.cru]) s t) ∧
  (∀ (dt : Nat) (i : Fin 8) (s : State), (potOf s i).testing = true →
    ∃ t, exec (.potRetestEnd dt i false) s = .next t ∧ counted s t i ∧ (potOf t i).testing = false ∧
      changesOnly (withReports [.cru, .pwr, .hb]) s t)

/-- A drive stage above PATH_MAX + 1 dB mutes its path at once, and an overload protects the LNA of a watched path (R253, R260, R279,
R280, R281). POWER_DETECTOR_REPORT shows its mean and, with a mean above PATH_MAX + 1 dB on a path not
muted so before, mutes it: it sends nothing and its PA enable is inactive. Every other path sends as it did. With the path's
protection on, its quad on and no transmit run's protection covering the path, RX_OVERLOAD sets LNAP, marks the overload and counts it; no
other path changes. -/
def Obligations.OverpowerMutesAndOverloadProtects : Prop :=
  (∀ (dt : Nat) (p : Fin 64) (mean : Int) (s : State),
     ∃ t, exec (.powerDetectorReport dt p mean) s = .next t ∧
       (txOf t p).meterOut = max (-32768) (min 32767 mean) ∧
       (pathMax s + 64 < mean → (txOf s p).regOver = false →
         (txOf t p).regOver = true ∧ (txOf t p).radiating = false ∧ paenLine t p = false) ∧
       (mean ≤ pathMax s + 64 → (txOf t p).regOver = (txOf s p).regOver ∧ (txOf t p).radiating = (txOf s p).radiating) ∧
       (∀ q < 64, q ≠ p.val → txOf t q = txOf s q) ∧
       changesOnly (withReports [.tx, .rx, .anl, .pwr, .hb]) s t) ∧
  (∀ (dt : Nat) (p : Fin 64) (code : BitVec 16) (s : State), (rxOf s p).protEn = true → domOn s (10 + p.val / 16) = true →
     runProtects (arrive dt s) p = false →
     ∃ t, exec (.rxOverload dt p code) s = .next t ∧ (rxOf t p).lnap = true ∧ (rxOf t p).ovl = true ∧ (rxOf t p).ovlRun = true ∧
       (rxOf t p).ovlCnt = min 0xFFFFFFFF ((rxOf s p).ovlCnt + 1) ∧ (∀ q, q ≠ p.val → rxOf t q = rxOf s q) ∧
       changesOnly (withReports [.rx, .pwr]) s t)

/-- A Temper solve is held or rejected and its timers raise requests; no coefficient is in force before its set (R241, R242, R243,
R244, R246, R376). With the path adapting, not retired and observed within 1 ms, TEMPER_SOLVE_END whose error is more than 0.5 dB above the last counts a rejection,
uses the observation up and changes nothing else of the path; an accepted one that is not poor is held pending, counted, and clears the path's dues. The set
in force stands in both cases, and no other path changes. TEMPER_REFRESH_DUE raises the half or the full request of a path whose age
has passed half or all of REFRESH, and lowers none. DPD_STALE of a sending path older than 4 × REFRESH and not stale marks it.
DIVERGE_RETRY, when due, adapts again, with the identity set to come at the next symbol tick. No other path changes. -/
def Obligations.TemperSolvesAndTimers : Prop :=
  (∀ (dt : Nat) (p : Fin 64) (sol : TemperSol) (s : State), (dpdOf s p).state = 1 → (txOf s p).retiredNow = false →
     (dpdOf s p).obs.any (fun n => decide (s.tb.now + dt ≤ n + 491520)) = true →
     ((dpdOf s p).nmse + 32 < sol.nmse →
       ∃ t, exec (.temperSolveEnd dt p sol) s = .next t ∧
         dpdOf t p = { dpdOf s p with rejects := min 255 ((dpdOf s p).rejects + 1), obs := none } ∧
         (∀ q, q ≠ p.val → dpdOf t q = dpdOf s q) ∧ t.host.mem = s.host.mem ∧ changesOnly (withReports [.tx]) s t) ∧
     (sol.nmse ≤ (dpdOf s p).nmse + 32 → sol.nmse ≤ -(64 * (s.tx.divThr : Int)) →
       ∃ t, exec (.temperSolveEnd dt p sol) s = .next t ∧ (dpdOf t p).pend.isSome ∧ (dpdOf t p).coef = (dpdOf s p).coef ∧
         (dpdOf t p).updates = min 0xFFFF ((dpdOf s p).updates + 1) ∧ (dpdOf t p).lastAt = t.tb.now ∧ (dpdOf t p).due = false ∧
         (dpdOf t p).half = false ∧ (dpdOf t p).stale = false ∧ (dpdOf t p).poor = 0 ∧ (dpdOf t p).obs = none ∧
         (∀ q, q ≠ p.val → dpdOf t q = dpdOf s q) ∧ t.host.mem = s.host.mem ∧ changesOnly (withReports [.tx]) s t)) ∧
  ((∀ (dt : Nat) (p : Fin 64) (s : State), ∃ t, exec (.temperRefreshDue dt p) s = .next t ∧
     dpdOf t p = { dpdOf s p with
       half := (dpdOf s p).half || decide (refreshCounts s ≤ 2 * (t.tb.now - (dpdOf s p).lastAt))
       due := (dpdOf s p).due || decide (refreshCounts s ≤ t.tb.now - (dpdOf s p).lastAt) } ∧
     (∀ q, q ≠ p.val → dpdOf t q = dpdOf s q) ∧ t.host.mem = s.host.mem ∧ changesOnly (withReports [.tx]) s t) ∧
   (∀ (dt : Nat) (p : Fin 64) (s : State), (txOf s p).radiating = true →
     4 * refreshCounts s ≤ s.tb.now + dt - (dpdOf s p).lastAt → (dpdOf s p).stale = false →
     ∃ t, exec (.dpdStale dt p) s = .next t ∧ dpdOf t p = { dpdOf s p with stale := true } ∧
       (∀ q, q ≠ p.val → dpdOf t q = dpdOf s q) ∧ changesOnly (withReports [.tx, .pwr]) s t) ∧
   (∀ (p : Fin 64) (s : State) (a : Nat), (dpdOf s p).retryAt = some a →
     ∃ t, exec (.divergeRetry p) s = .next t ∧ t.tb.now = max s.tb.now a ∧ (dpdOf t p).coef = (dpdOf s p).coef ∧
       (dpdOf t p).before = coefIdentity ∧ (dpdOf t p).restore = true ∧ (dpdOf t p).state = 1 ∧ (dpdOf t p).due = true ∧ (dpdOf t p).retryAt = none ∧ (dpdOf t p).pend = none ∧
       (∀ q, q ≠ p.val → dpdOf t q = dpdOf s q) ∧ t.host.mem = s.host.mem ∧ changesOnly (withReports [.tx]) s t))

/-- A capture's end puts its words into its memory and ends the command; timeouts end what waits (R198, R256, R277, R286,
R287, R288).
CAPTURE_END of a running CAPTURE whose last symbol has passed writes its words, zero where a path was settling or blanked, into the
receive or ORx buffer; SOUNDING_CAPTURE_END of
one whose symbols have passed writes into DRAM; CAPTURE_NO_GRANT at its due count, and LO_TIMEOUT of a waiting TX_CTRL at its due count, end the command. Each
ends with no command of that number left. -/
def Obligations.CapturesEndWithTheirData : Prop :=
  let gone := fun (t : State) (c : Cmd) => ∀ x ∈ t.host.cmds, x.seq ≠ c.seq
  (∀ (dt : Nat) (ref : CmdRef) (l : List CapWord) (s : State) (c : Cmd), runningOf s ref 0x0041 = some c →
    dB c.d 17 ≤ capDone (arrive dt s) c →
    ∃ t, exec (.captureEnd dt ref l) s = .next t ∧ gone t c ∧
      (dB c.d 16 ≠ 3 → t.ldl.orxCap = s.ldl.orxCap ∧ t.rx.capBytes = capBytesOf (arrive dt s) c.d c.note.toNat (dB c.d 17) ∧
        t.ldl.rxCap = captureWrite s.ldl.rxCap 0 t.rx.capBytes (capWord (arrive dt s) c) l) ∧
      (dB c.d 16 = 3 → t.ldl.rxCap = s.ldl.rxCap ∧
        t.ldl.orxCap = captureWrite s.ldl.orxCap 0 (capBytesOf (arrive dt s) c.d c.note.toNat (dB c.d 17)) (fun w => w.word.toNat) l) ∧
      t.ldl.dram = s.ldl.dram ∧ changesOnly (withReports [.dev, .ldl, .rx]) s t) ∧
  (∀ (dt : Nat) (ref : CmdRef) (l : List CapWord) (s : State) (c : Cmd) (due : Option Nat), cmdOf s ref = some c →
    c.stage = .running due → dOp c.d = 0x0052 → c.note.toNat + dB c.d 17 ≤ symNow (arrive dt s) →
    ∃ t, exec (.soundingCaptureEnd dt ref l) s = .next t ∧ gone t c ∧
      t.ldl.dram = captureWrite s.ldl.dram (dQ c.d 24) (soundBytes c.d) (soundWord (arrive dt s) c) l ∧
      t.ldl.rxCap = s.ldl.rxCap ∧ changesOnly (withReports [.dev, .ldl]) s t) ∧
  (∀ (ref : CmdRef) (s : State) (c : Cmd) (due : Nat), runningOf s ref 0x0041 = some c → c.stage = .running (some due) → c.note = 0 →
    ∃ t, exec (.captureNoGrant ref) s = .next t ∧ gone t c ∧ t.tb.now = max s.tb.now due ∧ changesOnly (withReports [.rx]) s t) ∧
  (∀ (ref : CmdRef) (s : State) (c : Cmd) (due : Nat), cmdOf s ref = some c → c.stage = .running (some due) → dOp c.d = 0x0030 →
    ∃ t, exec (.loTimeout ref) s = .next t ∧ gone t c ∧ t.tb.now = max s.tb.now due ∧ t.tx = s.tx ∧ changesOnly reportParts s t)

/-- A survey period that ends is mirrored, numbered and sent (R59, R60). With a survey running in a known band and its period over,
SURVEY_PERIOD_END numbers the next report, mirrors each path's RSSI, and begins the next period. -/
def Obligations.SurveyReportsAreNumberedAndSent : Prop :=
  ∀ (l : List SurveyPath) (s : State), surveyOn s = true → 11 ≤ s.mod.surveyFrames → noBand s = false →
    ∃ t, exec (.surveyPeriodEnd l) s = .next t ∧ t.mod.surveySeq = (s.mod.surveySeq + 1) % 256 ∧
      t.mod.surveyFrames = s.mod.surveyFrames - 10 ∧ (∀ p < 64, vget t.mod.rssi p 0 = (l.getD p {}).rssi) ∧
      t.host.mem = s.host.mem ∧ changesOnly (withReports [.mod]) s t

/-- A frame that fails a check is discarded under its cause; a downlink message that passes them all is held once (R131, R132, R133,
R146, R115, R134, R145, R148, R149, R150, R151). FH_FRAME_RX on a port that carries traffic answers a next state. The codewords corrected in it count in
its lane's FHL_FEC_CORR while the port's FEC is on. A frame under the minimum length leaves everything else but time; a wrong FCS counts under cause 0; then a frame with an uncorrectable codeword and FEC on
under 1 and in its lane's count, a lane leaving the distribution under 2, a foreign unicast address under 3, an EtherType other than
0xAEFE under 4, each once per message identified, at least once. A discarded frame changes nothing else. A frame of one message of
type 0 that passes the checks 0 to 13 and 15 is held: a KIND 1 message joins the direct stream buffers, and a KIND 0 message whose
flow has an open book with credit joins the Tundish, its book counting one arrival and one occupied slot. A KIND 1 message's arrival
counts in no Slag cause. -/
def Obligations.FramesAreDiscardedOrHeld : Prop :=
  (∀ (dt : Nat) (p : Port) (f : FhFrame) (s : State), portUp s p = true →
     let head := frameHead f.bytes
     let ecpri : Bool := head.2.1 ≤ 1 && head.2.2 == 0xAEFE
     let n := if ecpri then max 1 (splitMsgs 2300 (f.bytes.drop head.1)).1.length else 1
     let counted := fun (t : State) => ∀ m, laneOf t m = if portFecOn s p = true ∧ m = p.lane.val
       then { laneOf s m with fecCorr := min 0xFFFFFFFF ((laneOf s m).fecCorr + f.corrected) } else laneOf s m
     let fails := fun (cause count : Nat) => ∃ t, exec (.fhFrameRx dt p f) s = .next t ∧ t.tb.now = s.tb.now + dt ∧
       t.fh = { s.fh with slag := vmod s.fh.slag cause fun x => satTo 0xFFFFFFFF (x + count) } ∧ counted t ∧
       t.out = [] ∧ t.host.mem = s.host.mem ∧ changesOnly (withReports [.lanes, .fh]) s t
     (f.bytes.length < 60 → ∃ t, exec (.fhFrameRx dt p f) s = .next t ∧ t.tb.now = s.tb.now + dt ∧ t.out = [] ∧ t.fh = s.fh ∧ counted t ∧
       changesOnly (withReports [.lanes]) s t) ∧
     (60 ≤ f.bytes.length → f.fcsBad = true → fails 0 n) ∧
     (60 ≤ f.bytes.length → f.fcsBad = false → (f.fecBad = false ∨ portFecOn s p = false) → portLeaving s p = true → fails 2 n) ∧
     (60 ≤ f.bytes.length → f.fcsBad = false → f.fecBad = true → portFecOn s p = true →
       ∃ t, exec (.fhFrameRx dt p f) s = .next t ∧ t.fh.slag = (vmod s.fh.slag 1 fun x => satTo 0xFFFFFFFF (x + n)) ∧
         (laneOf t p.lane.val).fecUnc = min 0xFFFFFFFF ((laneOf s p.lane.val).fecUnc + 1) ∧
         changesOnly (withReports [.lanes, .fh]) s t) ∧
     (60 ≤ f.bytes.length → f.fcsBad = false → (f.fecBad = false ∨ portFecOn s p = false) → portLeaving s p = false →
       beAt f.bytes 0 6 ≠ portMac s p → beAt f.bytes 0 6 ≠ 2 ^ 48 - 1 → fails 3 n) ∧
     (60 ≤ f.bytes.length → f.fcsBad = false → (f.fecBad = false ∨ portFecOn s p = false) → portLeaving s p = false →
       beAt f.bytes 0 6 = portMac s p → ecpri = false → fails 4 1)) ∧
  (∀ (dt : Nat) (p : Port) (f : FhFrame) (s : State) (m : RxMsg) (x : Parsed), portUp s p = true →
     let a := arrive dt s
     60 ≤ f.bytes.length → f.fcsBad = false → f.fecBad = false → portLeaving s p = false →
     beAt f.bytes 0 6 = portMac s p → beAt f.bytes 0 6 ≠ 2 ^ 48 - 1 → (frameHead f.bytes).2.1 ≤ 1 → (frameHead f.bytes).2.2 = 0xAEFE →
     splitMsgs 2300 (f.bytes.drop (frameHead f.bytes).1) = ([m], true, 0) → (f.bytes.drop (frameHead f.bytes).1).length ≤ 9000 →
     m.rev = 1 → m.type = 0 → parseMsg a m = .ok x → x.ctrl = false → takesKind a x = true → isDl a x.sym = true →
     windowCause a x = none → layerShed a x = false → overlaps a x = false →
     (x.kind = 1 → ∃ t, exec (.fhFrameRx dt p f) s = .next t ∧ t.fh.slag = s.fh.slag ∧ t.fh.held = s.fh.held ∧
       t.fh.books = s.fh.books ∧
       t.fh.direct = s.fh.direct ++ [{ cc := x.cc, kind := 1, id := x.id, sym := x.sym, secs := x.secs, credited := false, dom := laneDom p.lane.val }] ∧
       changesOnly (withReports [.lanes, .fh, .run]) s t) ∧
     (∀ b, x.kind = 0 → bookOf a x.cc false x.id = some b → b.nextSeq = some x.seq → b.closing = 0 → 0 < bookHeld b →
       ∃ t c, exec (.fhFrameRx dt p f) s = .next t ∧ t.fh.direct = s.fh.direct ∧
         t.fh.held = s.fh.held ++ [{ cc := x.cc, kind := 0, id := x.id, sym := x.sym, secs := x.secs, credited := true, dom := laneDom p.lane.val }] ∧
         bookOf t x.cc false x.id = some c ∧ c.arrived = b.arrived + 1 ∧ c.occupied = b.occupied + 1 ∧ c.limit = b.limit ∧
         changesOnly (withReports [.lanes, .fh, .run]) s t))

/-- One-way delay requests are answered and measured; PTP frames act on the PTP port alone and count as foreign elsewhere (R160, R309,
R312). OWD_MESSAGE_RX on a port that carries traffic answers a next state: action 0 is answered at once; 1 is kept and not yet answered; 5
answers a kept one with its own arrival stamp, each with the port's receive correction; 2 to an open request of the device writes t2 − t1; 3 and 4 keep a request of the
device with the transmit correction and send it. Only the fronthaul and what is sent change. With the timebase on, PTP_FRAME_RX on a port other than TB_PTP.PORT
counts in FOREIGN and does nothing else. On the PTP port, in its domain, an Announce that wins selects its clock class, and a two-
step Sync waits for its Follow_Up; neither steers anything. -/
def Obligations.OneWayDelayAndPtpFrames : Prop :=
  (∀ (dt : Nat) (p : Port) (m : OwdMsg) (s : State), portUp s p = true →
     let a := arrive dt s
     let now := stampNow a (portAdjRx a p)
     let out := stampNow a (portAdjTx a p)
     ∃ t, exec (.owdMessageRx dt p m) s = .next t ∧ t.host.mem = s.host.mem ∧ changesOnly (withReports [.fh]) s t ∧
       (m.action.toNat = 0 → t.out = (owdSend a p m.src.toNat (owdPayload m.mid 2 now.1 now.2)).out ∧ t.fh = s.fh) ∧
       (m.action.toNat = 1 → t.out = [] ∧
         t.fh.owdReq = s.fh.owdReq ++ [{ port := p, mid := m.mid, own := false, stamp := stampNs now.1 now.2, src := m.src }]) ∧
       (∀ r, m.action.toNat = 5 → owdFind s p m.mid false = some r → r ∉ t.fh.owdReq ∧ t.out.length = 1 ∧ t.fh.owd = s.fh.owd) ∧
       (∀ r, m.action.toNat = 2 → owdFind s p m.mid true = some r → r ∉ t.fh.owdReq ∧ t.out = [] ∧
         vget t.fh.owd p.lane.val 0 = BitVec.ofNat 32 (tc 32 (stampNs m.sec.toNat m.ns.toNat - r.stamp))) ∧
       (m.action.toNat = 3 ∨ m.action.toNat = 4 →
         t.fh.owdReq = s.fh.owdReq ++ [{ port := p, mid := m.mid, own := true, stamp := stampNs out.1 out.2, src := m.src }] ∧
         t.out.length = m.action.toNat - 2)) ∧
  (∀ (dt : Nat) (p : Port) (m : PtpMsg) (s : State), tbOn s = true →
     let a := arrive dt s
     (p.code ≠ s.tb.ptpPort.toNat → ∃ t, exec (.ptpFrameRx dt p m) s = .next t ∧
       t.tb = { a.tb with ptpForeign := min 255 (s.tb.ptpForeign + 1) } ∧ t.host.mem = s.host.mem ∧ changesOnly reportParts s t) ∧
     (p.code = s.tb.ptpPort.toNat → m.domain = s.tb.ptpDomain → m.kind = .announce → m.best = true →
       ∃ t, exec (.ptpFrameRx dt p m) s = .next t ∧ t.tb = { a.tb with ptpSelected := true, ptpClass := m.clockClass } ∧
         t.host.mem = s.host.mem ∧ changesOnly reportParts s t) ∧
     (p.code = s.tb.ptpPort.toNat → m.domain = s.tb.ptpDomain → m.kind = .sync → m.twoStep = true →
       ∃ t, exec (.ptpFrameRx dt p m) s = .next t ∧ t.tb = { a.tb with ptpSync := some (m.seq, stamp16 a (portAdjRx a p)) } ∧
         t.host.mem = s.host.mem ∧ changesOnly reportParts s t))

/-- A 1PPS edge acquires by a step, is tracked by a phase shift or refused; a lost source leaves HOLDOVER with FTRIM held (R307, R308,
R310). With the timebase on, the source PPS and no flask timing, PPS_EDGE measures its offset. The first after a source change
acquires: with no carrier in BFS a step is due at the next frame tick. Later, an offset of at most TB_JUMP_LIM is slewed, and a
larger one is refused: JUMP_REFUSED is set and the offset recorded. In no case does the time of day itself move. With the timebase
on, the source PPS or PTP, and STATE ACQUIRING or LOCKED, TIME_SOURCE_LOST answers a next state: STATE is HOLDOVER, no phase
correction is left, FTRIM and its target stand, and the time of day goes on. -/
def Obligations.PpsServoAndHoldover : Prop :=
  (∀ (dt : Nat) (s : State), tbOn s = true → s.tb.source = .pps → flaskTimed s = false → s.run.state ≠ .suspended →
     let a := arrive dt s
     let ofs := ppsOffset a
     ∃ t, exec (.ppsEdge dt) s = .next t ∧ t.tb.tod = a.tb.tod ∧ t.tb.now = s.tb.now + dt ∧ t.tb.ppsPresent = true ∧
       changesOnly (withReports [.pwr]) s t ∧
       (s.tb.acquire = true → anyBfs s = false →
         t.tb.acquire = false ∧ t.tb.state = .acquiring ∧ t.tb.stepDue = some (-(ofs * todNs) / 16) ∧ t.tb.phaseLeft = a.tb.phaseLeft) ∧
       ((s.tb.acquire = true ∧ anyBfs s = true) ∨ (s.tb.acquire = false ∧ 16 * s.tb.jumpLim < ofs.natAbs) →
         t.tb.jumpRefused = true ∧ t.tb.refused = clampI (-2147483648) 2147483647 (ofs / 16) ∧ t.tb.phaseLeft = a.tb.phaseLeft ∧
           t.tb.stepDue = a.tb.stepDue) ∧
       (s.tb.acquire = false → ofs.natAbs ≤ 16 * s.tb.jumpLim →
         t.tb.phaseLeft = -ofs * phaseUnit ∧ t.tb.jumpRefused = a.tb.jumpRefused ∧ (s.tb.state = .holdover → t.tb.state = .locked))) ∧
  (∀ (dt : Nat) (s : State), tbOn s = true → s.tb.source = .pps ∨ s.tb.source = .ptp → s.tb.state = .locked ∨ s.tb.state = .acquiring →
     ∃ t, exec (.timeSourceLost dt) s = .next t ∧ t.tb.state = .holdover ∧ t.tb.phaseLeft = 0 ∧ t.tb.ftrimTarget = s.tb.ftrimTarget ∧
       t.tb.tod = (arrive dt s).tb.tod ∧ t.tb.source = s.tb.source ∧
       (s.tb.source = .pps → t.tb.ppsPresent = false) ∧ (s.tb.source = .ptp → t.tb.ptpSyncOk = false ∧ t.tb.ptpSelected = false) ∧
       changesOnly (withReports [.pwr]) s t)

/-- A Pour frame with a bad code, FCRC or length is discarded under CASCADE and counted on its side (R146, R206, R209). On an UP cascade
lane with domain RUN on, POUR_FRAME_RX of a frame that breaks R206 answers a next state: cause CASCADE and the side's discard count
rise by one, a frame with an invalid block moves no Assay context, the lane's run of bad frames grows, and modes, timebase,
carriers' credit, transmit and receive stand. -/
def Obligations.BrokenPourFrameIsDiscarded : Prop :=
  ∀ (dt : Nat) (d : Fin 2) (l : Fin 12) (f : PourFrame) (s : State), laneIsUp s (16 + 12 * d.val + l.val) = true → domOn s 6 = true →
    pourBadFrame f = true →
    ∃ t, exec (.pourFrameRx dt d l f) s = .next t ∧
      vget t.fh.slag 17 0 = min 0xFFFFFFFF (vget s.fh.slag 17 0 + 1) ∧
      (sideOf t d).disc = min 0xFFFFFFFF ((sideOf s d).disc + 1) ∧ t.fh.books = s.fh.books ∧
      (f.codeErr = true → t.fh.assay = s.fh.assay) ∧
      ((laneOf s (16 + 12 * d.val + l.val)).badPour < 3 →
        (laneOf t (16 + 12 * d.val + l.val)).badPour = (laneOf s (16 + 12 * d.val + l.val)).badPour + 1 ∧
        (laneOf t (16 + 12 * d.val + l.val)).state = .up) ∧
      changesOnly (withReports [.lanes, .fh, .run, .pwr, .hb]) s t

/-- Every Pour frame on an UP lane is taken, and a good one acts by its class (R191, R192, R207, R209, R210, R215, R216). With domain RUN
on, POUR_FRAME_RX on an UP cascade lane answers a next state that leaves transmit and receive alone. A frame that breaks neither R206
nor R207 acts by its class: a partial-sum record of a layer that this member combines, of a coming symbol, is kept; a copy of a
downlink message in time for a layer held here is held without credit; a TICK at a member clears its missed ticks; each leaves the
side's discard count and begins the lane's run of bad frames at 0. On a lane that is not UP and leaves no distribution only time
changes. -/
def Obligations.PourFramesAreTakenByClass : Prop :=
  (∀ (dt : Nat) (d : Fin 2) (l : Fin 12) (f : PourFrame) (s : State), laneIsUp s (16 + 12 * d.val + l.val) = true → domOn s 6 = true →
    ∃ t, exec (.pourFrameRx dt d l f) s = .next t ∧ t.tb.now = s.tb.now + dt ∧
      changesOnly (withReports [.mod, .lanes, .fh, .cru, .run, .pwr, .hb]) s t) ∧
  (∀ (dt : Nat) (d : Fin 2) (l : Fin 12) (f : PourFrame) (s : State), laneIsUp s (16 + 12 * d.val + l.val) = true → domOn s 6 = true →
    pourBadFrame f = false → pourBadHeader f = false →
    let h := f.hdr.toNat
    let a := arrive dt s
    let taken := fun (t : State) => (sideOf t d).disc = (sideOf s d).disc ∧ (laneOf t (16 + 12 * d.val + l.val)).badPour = 0
    (∀ p e, bits h 2 0 = 1 → psumRead a h (symNamed a (a.cru.ulSym - 14) (bits h 50 32)) f.payload = some p →
      entryAt a p.cc 1 p.layer p.sym = some e → e.shed = false → a.cru.ulSym < p.sym →
      ∃ t, exec (.pourFrameRx dt d l f) s = .next t ∧ t.cru = { s.cru with psums := s.cru.psums ++ [p] } ∧ t.fh.slag = s.fh.slag ∧ taken t) ∧
    (∀ m k x e, bits h 2 0 = 0 → (splitMsgs 2 f.payload).1 = m :: k → parseMsg a m = .ok x → x.ctrl = false → x.kind = 0 →
      x.past = false → a.tb.now + 26419 ≤ tickT a x.sym → entryAt a x.cc 0 x.id x.sym = some e → e.shed = false → takesKind a x = true →
      overlaps a x = false →
      ∃ t, exec (.pourFrameRx dt d l f) s = .next t ∧
        t.fh.held = s.fh.held ++ [{ cc := x.cc, kind := 0, id := x.id, sym := x.sym, secs := x.secs, credited := false, dom := x.dom }] ∧
        t.fh.books = s.fh.books ∧ taken t) ∧
    (bits h 2 0 = 2 → bits h 7 3 = 2 → s.gen.master = false →
      ∃ t, exec (.pourFrameRx dt d l f) s = .next t ∧ t.run.missedTicks = 0 ∧ t.run.state = s.run.state ∧ taken t)) ∧
  (∀ (dt : Nat) (d : Fin 2) (l : Fin 12) (f : PourFrame) (s : State), laneIsUp s (16 + 12 * d.val + l.val) = false →
    (laneOf s (16 + 12 * d.val + l.val)).leaveIn = 0 →
    ∃ t, exec (.pourFrameRx dt d l f) s = .next t ∧ t.tb.now = s.tb.now + dt ∧ changesOnly reportParts s t)

/-- A member without a master for 1 s is in CONFLICT; a flask-wide change unanswered for 1 ms or not in service in 2 s ends (R204, R46).
In DISCOVERING, 1 s after the chain is known and with no master on either side, NO_MASTER_TIMEOUT leaves a member that is not a
master in CONFLICT with code 2 and its own FLASK_ID; before 1 s it changes nothing but time. MODE_ACK_TIMEOUT at a master whose
announced change still misses a member's answer 1 ms after the MODE frame withdraws the change; before 1 ms it stays.
FLK_READY_TIMEOUT 2 s after acceptance, at a member not in service, withdraws its own requests; in service it changes nothing. -/
def Obligations.FlaskConflictAndTimeouts : Prop :=
  (∀ (dt k : Nat) (s : State), s.run.knownAt = some k → s.run.state = .discovering → s.gen.master = false → masterSide s = none →
     ∃ t, exec (.noMasterTimeout dt) s = .next t ∧
       (k + 491520000 ≤ s.tb.now + dt → t.run.state = .conflict ∧ t.run.conflict = 2 ∧ t.run.conflictId = ownId s ∧ t.run.ready = false) ∧
       (s.tb.now + dt < k + 491520000 → t.run = s.run) ∧
       changesOnly (withReports [.mod, .fh, .run, .pwr]) s t) ∧
  ((∀ (dt : Nat) (s : State) (q : FlkReq), s.run.modeReqs = [q] → q.sym.isSome = true → q.back = false → s.gen.master = true →
     ∃ t, exec (.modeAckTimeout dt) s = .next t ∧
       (q.since + 491520 ≤ s.tb.now + dt → ackMissing s q ≠ 0 → t.run.modeReqs = []) ∧
       (s.tb.now + dt < q.since + 491520 → t.run = s.run) ∧
       changesOnly (withReports [.mod, .fh, .run, .pwr]) s t) ∧
   (∀ (dt : Nat) (s : State) (q : FlkReq) (r : CmdRef) (c : Cmd), s.run.modeReqs = [q] → q.ref = some r → cmdOf s r = some c →
     ∃ t, exec (.flkReadyTimeout dt) s = .next t ∧
       (c.acceptAt + 983040000 ≤ s.tb.now + dt → s.run.state ≠ .inService → t.run.modeReqs = []) ∧
       (s.run.state = .inService → t.run = s.run) ∧
       changesOnly (withReports [.mod, .fh, .run, .pwr]) s t))

/-- A tick-bound command that passes its checks is accepted and bound to its tick, and no setting moves yet (R28, R29, R45, R71, R74,
R87, R182). For every command row that nothing holds and that passes its checks, with a tick-bound change (MODE_SET, CARRIER_CFG,
SYN_CFG, TB_STEP, TX_CTRL, POWER_SET, DPD_CFG, COX_CFG, RX_CFG, CAPTURE, WEIGHT_LOAD, SOUNDING_CAPTURE, LAYER_SET, FH_CFG,
BIAS_QUEUE, UNIT_CTRL, and ANL_RUN of RUN and BASELINE): exec answers a next state in which the command waits for the tick that its
binding gives, marked late where the binding says so; nothing is sent and no setting moves. A WEIGHT_LOAD besides reads its rows at
once, and a member of a flask reports to the master what that changes. A MODE_SET of a flask-wide bit, at a member that is no master and not yet in service, becomes a request that runs, with no
mode changed. -/
def Obligations.TickBoundCommandsWaitForTheirTick : Prop :=
  ∀ (i : Instr) (x : CommandRow) (s : State), commandRow i = some x → rowAccepted x s →
    let w := rowState x s
    let c := rowStart x s
    let b := x.f.bind w c
    let waits : Cmd := { c with stage := .bound (x.f.tick c) b.1 b.2, late := b.2 }
    x.f.tick c ≠ .none →
    (x.f.opcode ≠ 0x0050 → (x.f.opcode = 0x0010 → modeFlask w c.d = false) →
      ∃ t, exec i s = .next t ∧ t.host.cmds = s.host.cmds ++ [waits] ∧ t.host.nextSeq = s.host.nextSeq + 1 ∧
        t.host.rings = s.host.rings ∧ t.out = [] ∧ changesOnly reportParts s t) ∧
    (x.f.opcode = 0x0050 → ∃ t l, exec i s = .next t ∧ t.host.cmds = s.host.cmds ++ [waits] ∧ t.host.rings = s.host.rings ∧
      (s.run.state = .off → t.out = []) ∧ t.cru = { s.cru with loads := s.cru.loads ++ [l] } ∧ l.ref = x.ref ∧ l.sym = b.1 ∧
      l.rows = memSlice s.ldl.dram (dQ c.d 24) (256 * (dB c.d 18 * dH c.d 22)) 0 ∧ changesOnly (withReports [.fh, .cru, .run]) s t) ∧
    (x.f.opcode = 0x0010 → modeFlask w c.d = true → s.gen.master = false → s.run.ready = false → s.run.state ≠ .inService →
      ∃ t, exec i s = .next t ∧ t.host.cmds = s.host.cmds ++ [{ c with stage := .running none, note := 1 }] ∧
        t.run.modeReqs = s.run.modeReqs ++
          [{ ref := some x.ref, origin := ownId s, payload := BitVec.ofNat 72 (bits c.d.toNat 199 128) }] ∧
        (s.run.state = .off → t.run.state = .discovering) ∧ t.out = [] ∧ changesOnly (withReports [.lanes, .run]) s t)

/-- A command that fails a check ends REFUSED with its cause and changes no setting (R71, R73, R77, R78, R435). For every command row
that nothing holds and that fails a check, with CTL on: exec answers a next state in which the command is gone, and a record with its cause and
status REFUSED is written into the next slot of its completion ring, or held behind those that wait, or counted as lost when that
ring is disabled. Only a few rows' refusals leave anything more: LAST_CAUSE, the rows of a WEIGHT_LOAD, the nonce, and the idle
channel that a LADLE_MOVE, HB_READ or PATTERN_WRITE names. -/
def Obligations.RefusedCommandsRecordTheirCause : Prop :=
  ∀ (i : Instr) (x : CommandRow) (s : State) (q : Refuse), commandRow i = some x → domOn s 1 = true → cmdsOk s → memOk s →
    cmdHeld (rowState x s) (rowStart x s) = false → cmdCheck x.f (rowState x s) (rowStart x s) = some q → q.cause < 256 →
    let n := 16 + (ringOf s x.ref.ring.val).cplRing
    let g := ringOf s n
    ∃ t, exec i s = .next t ∧ t.host.cmds = s.host.cmds ∧
      (g.en = false → n < 36 → (ringOf t n).lost = min 255 (g.lost + 1)) ∧
      (g.en = true → (g.held ≠ [] ∨ ringFree g = 0) →
        ∃ r, (ringOf t n).held = g.held ++ [r] ∧ bits r.bits.toNat 23 16 = q.cause ∧ bits r.bits.toNat 30 28 = 1) ∧
      (g.en = true → g.held = [] → 0 < ringFree g →
        (ringOf t n).prod = g.prod + 1 ∧
        let v := leNat (hostRead t (ringBase g + 32 * (g.prod.toNat % ringSize g)) 32)
        bits v 23 16 = q.cause ∧ bits v 30 28 = 1 ∧ bits v 47 32 = dH x.d 4 ∧ bits v 95 64 = x.ref.index.toNat) ∧
      (x.f.opcode ∉ [0x0010, 0x0050, 0x0051, 0x0080, 0x00B1, 0x00B2, 0x00C0] → changesOnly reportParts s t) ∧
      changesOnly (withReports [.mod, .cru, .hb, .ldl]) s t

/-- A held command only waits; once nothing holds it, it starts and is accepted at that moment (R46, R71, R74). With CTL not on the
device takes no command (log 1). With it on, a command row that something of its ring holds is listed and has no effect. HELD_COMMAND_START of a command still held changes only time; of one that
nothing holds it starts it: a tick-bound one that passes its checks is accepted at that count and bound to its tick, and one that
fails them is gone. -/
def Obligations.HeldCommandsWaitAndStart : Prop :=
  (∀ (i : Instr) (x : CommandRow) (s : State), commandRow i = some x → domOn s 1 = false →
    ∃ t, exec i s = .next t ∧ t.host.cmds = s.host.cmds ∧ t.host.rings = s.host.rings ∧ t.out = [] ∧ changesOnly reportParts s t) ∧
  (∀ (i : Instr) (x : CommandRow) (s : State), commandRow i = some x → domOn s 1 = true → cmdHeld (rowState x s) (rowCmd x s) = true →
    ∃ t, exec i s = .next t ∧ t.host.cmds = s.host.cmds ++ [rowCmd x s] ∧ t.host.rings = s.host.rings ∧
      t.host.mem = s.host.mem ∧ t.out = [] ∧ changesOnly reportParts s t) ∧
  (∀ (dt : Nat) (r : CmdRef) (s : State) (c : Cmd), cmdsOk s →
    s.host.cmds.find? (fun y => y.ref == r && y.stage == .held) = some c →
    let a := arrive dt s
    let c' : Cmd := { c with acceptAt := s.tb.now + dt }
    let f := defOf (dOp c.d)
    (cmdHeld a c = true → ∃ t, exec (.heldCommandStart dt r) s = .next t ∧ t.host.cmds = s.host.cmds ∧
      t.host.rings = s.host.rings ∧ t.out = [] ∧ changesOnly reportParts s t) ∧
    (cmdHeld a c = false → cmdCheck f a c' = none → f.tick c' ≠ .none → dOp c.d ≠ 0x0010 → dOp c.d ≠ 0x0050 →
      ∃ t, exec (.heldCommandStart dt r) s = .next t ∧ t.out = [] ∧ changesOnly reportParts s t ∧
        t.host.cmds = s.host.cmds.map fun y => if y.seq = c.seq then
          { c' with stage := .bound (f.tick c') (f.bind a c').1 (f.bind a c').2, late := (f.bind a c').2 } else y) ∧
    (cmdHeld a c = false → (cmdCheck f a c').isSome = true →
      ∃ t, exec (.heldCommandStart dt r) s = .next t ∧ t.host.cmds = s.host.cmds.filter (fun y => y.seq ≠ c.seq) ∧
        changesOnly (withReports [.mod, .cru, .hb, .ldl]) s t))

/-- NOP completes with DONE, and with FENCE it waits for every earlier command of its ring (R88). With CTL on, a free slot in its completion
ring and no record held there, a NOP that nothing holds writes one record into the slot of the producer index: opcode NOP, no cause,
status DONE, its tag and index, and leaves no command behind; with QUIET it writes none. With FENCE, while an earlier command of its
ring is listed, it waits without a record. Either way no setting moves. -/
def Obligations.NopCompletesAndFencesBarrier : Prop :=
  ∀ (dt : Nat) (r : CmdRef) (d : Desc) (s : State), domOn s 1 = true → cmdsOk s → memOk s →
    let e := withOp 1 d
    let n := 16 + (ringOf s r.ring.val).cplRing
    let g := ringOf s n
    dHeadOk .none e = true →
    (cmdHeld s { ref := r, d := e, seq := s.host.nextSeq } = false →
      ∃ t, exec (.nop dt r d) s = .next t ∧ t.host.cmds = s.host.cmds ∧ changesOnly reportParts s t ∧
        (dQuiet e = true → t.host.rings = s.host.rings ∧ t.host.mem = s.host.mem) ∧
        (dQuiet e = false → g.en = true → g.held = [] → 0 < ringFree g →
          (ringOf t n).prod = g.prod + 1 ∧
          let v := leNat (hostRead t (ringBase g + 32 * (g.prod.toNat % ringSize g)) 32)
          bits v 15 0 = 1 ∧ bits v 23 16 = 0 ∧ bits v 24 24 = b2n (decide (g.prod.toNat / ringSize g % 2 = 0)) ∧
          bits v 31 25 = 0 ∧ bits v 47 32 = dH e 4 ∧ bits v 55 48 = r.ring.val ∧ bits v 95 64 = r.index.toNat)) ∧
    (dFence e = true → (∃ c ∈ s.host.cmds, c.ref.ring = r.ring ∧ c.silent = false) →
      ∃ t, exec (.nop dt r d) s = .next t ∧ t.host.cmds = s.host.cmds ++ [{ ref := r, d := e, seq := s.host.nextSeq }] ∧
        t.host.rings = s.host.rings ∧ t.host.mem = s.host.mem ∧ changesOnly reportParts s t)

/-- A doorbell moves the host's index, or is discarded with its error and the ring goes on as it was (R67, R70, R86). COMMAND_DOORBELL
and CONSUMER_DOORBELL with CTL on answer a next state. A 4-byte value that is not behind the last accepted one and not too far ahead
becomes the host's index and the last accepted value. Any other is discarded, in R70's order: wrong width BAD_WIDTH, a disabled ring
DISABLED, a value behind BACKWARD, one too far ahead OVERRUN; ERR and RING_ERR show it and the index stands. -/
def Obligations.DoorbellsMoveTheIndexOrAreDiscarded : Prop :=
  ∀ (dt width : Nat) (v : BitVec 32) (stores : List Host.Cell) (s : State), domOn s 1 = true →
    (∀ r : Fin 16, let g := ringOf s r.val
      ∃ t, exec (.commandDoorbell dt r width v stores) s = .next t ∧ changesOnly (withReports [.hmem, .pwr]) s t ∧
        (width ≠ 4 → ringOf t r.val = { g with err := 6 } ∧ t.host.ringErr = true) ∧
        (width = 4 → g.en = false → ringOf t r.val = { g with err := 7 } ∧ t.host.ringErr = true) ∧
        (width = 4 → g.en = true → 2 ^ 31 ≤ (v - g.lastDb).toNat → ringOf t r.val = { g with err := 2 } ∧ t.host.ringErr = true) ∧
        (width = 4 → g.en = true → (v - g.lastDb).toNat < 2 ^ 31 → ringSize g < (v - g.cons).toNat → (v - g.cons).toNat < 2 ^ 31 →
          ringOf t r.val = { g with err := 1 } ∧ t.host.ringErr = true) ∧
        (width = 4 → g.en = true → (v - g.lastDb).toNat < 2 ^ 31 →
          ((v - g.cons).toNat ≤ ringSize g ∨ 2 ^ 31 ≤ (v - g.cons).toNat) → ringOf t r.val = { g with prod := v, lastDb := v } ∧
            t.host.ringErr = s.host.ringErr)) ∧
    (∀ r : Fin 20, let g := ringOf s (16 + r.val)
      ∃ t, exec (.consumerDoorbell dt r width v stores) s = .next t ∧ changesOnly (withReports [.hmem, .pwr]) s t ∧
        let h := ringOf t (16 + r.val)
        let stands := h.cons = g.cons ∧ h.lastDb = g.lastDb ∧ t.host.ringErr = true
        (width ≠ 4 → h.err = 6 ∧ stands) ∧ (width = 4 → g.en = false → h.err = 7 ∧ stands) ∧
        (width = 4 → g.en = true → 2 ^ 31 ≤ (v - g.lastDb).toNat → h.err = 2 ∧ stands) ∧
        (width = 4 → g.en = true → (v - g.lastDb).toNat < 2 ^ 31 → 1 ≤ (v - g.prod).toNat → (v - g.prod).toNat < 2 ^ 31 →
          h.err = 1 ∧ stands) ∧
        (width = 4 → g.en = true → (v - g.lastDb).toNat < 2 ^ 31 → (v = g.prod ∨ 2 ^ 31 ≤ (v - g.prod).toNat) →
          h.cons = v ∧ h.lastDb = v ∧ h.err = g.err))

/-- Enabling a ring starts it empty, disabling one loses its held records or ends its commands, and the timer signals (R64, R66, R91,
R104). RING_ENABLE of a disabled ring with a legal size leaves it enabled with both indices, the last doorbell, ERR and LOST 0 and the
fields written. RING_DISABLE of an enabled ring that keeps its locked fields disables it: a completion or event ring discards its held
records into LOST, and of a command ring every command has ended, or runs on unseen, or waits for the withdrawal of its started move.
RING_DISABLE of a disabled ring with a legal size sets the fields written and leaves it disabled. COALESCE_TIMER ends the count of
unsignalled records and signals the vector: sent, pending while masked, or lost while MSI-X is disabled. -/
def Obligations.RingsEnableDisableAndCoalesce : Prop :=
  (∀ (dt : Nat) (r : Fin 36) (v : BitVec 32) (stores : List Host.Cell) (s : State), domOn s 1 = true → (ringOf s r.val).en = false →
    bit v.toNat 31 = true → 6 ≤ bits v.toNat 3 0 → bits v.toNat 3 0 ≤ 12 →
    ∃ t, exec (.ringEnable dt r v stores) s = .next t ∧
      ringOf t r.val = { ringOf s r.val with
        en := true, prod := 0, cons := 0, err := 0, lost := 0, lastDb := 0, held := [], unsig := 0, timerAt := none, overflow := 0
        cplRing := bits v.toNat 27 24, vector := bits v.toNat 21 16, coalCnt := bits v.toNat 15 8, coalTime := bits v.toNat 7 4
        sizeLog2 := bits v.toNat 3 0 } ∧
      (∀ q, q ≠ r.val → ringOf t q = ringOf s q) ∧ t.host.cmds = s.host.cmds ∧ t.host.mem = memPaste 0 s.host.mem stores ∧
      changesOnly (withReports [.hmem]) s t) ∧
  ((∀ (dt : Nat) (r : Fin 36) (v : BitVec 32) (s : State), domOn s 1 = true → (ringOf s r.val).en = true →
     bit v.toNat 31 = false → bits v.toNat 27 24 = (ringOf s r.val).cplRing → bits v.toNat 3 0 = (ringOf s r.val).sizeLog2 → cmdsOk s →
     ∃ t, exec (.ringDisable dt r v) s = .next t ∧ (ringOf t r.val).en = false ∧
       (16 ≤ r.val → (ringOf t r.val).held = [] ∧
         (ringOf t r.val).lost = min 255 ((ringOf s r.val).lost + (ringOf s r.val).held.length) ∧ t.host.cmds = s.host.cmds ∧
         t.host.mem = s.host.mem ∧ changesOnly reportParts s t) ∧
       (r.val < 16 → (∀ c ∈ t.host.cmds, c.ref.ring.val = r.val → c.silent = true ∨
           ∃ j < 8, ∃ m, (chOf t j).move = some m ∧ m.seq = c.seq ∧ m.started = true ∧ m.withdrawn = true) ∧
         (∀ c ∈ s.host.cmds, c.ref.ring.val ≠ r.val → c ∈ t.host.cmds)) ∧
       changesOnly (withReports [.hmem, .mod, .ldl, .fh, .cru, .run, .anl]) s t) ∧
   (∀ (dt : Nat) (r : Fin 36) (v : BitVec 32) (s : State), domOn s 1 = true → (ringOf s r.val).en = false →
     bit v.toNat 31 = false → 6 ≤ bits v.toNat 3 0 → bits v.toNat 3 0 ≤ 12 →
     ∃ t, exec (.ringDisable dt r v) s = .next t ∧
       ringOf t r.val = { ringOf s r.val with
         cplRing := bits v.toNat 27 24, vector := bits v.toNat 21 16, coalCnt := bits v.toNat 15 8, coalTime := bits v.toNat 7 4
         sizeLog2 := bits v.toNat 3 0 } ∧
       (∀ q, q ≠ r.val → ringOf t q = ringOf s q) ∧ t.host.cmds = s.host.cmds ∧ t.host.mem = s.host.mem ∧
       changesOnly (withReports [.hmem]) s t)) ∧
  (∀ (r : Fin 36) (s : State) (a : Nat), (ringOf s r.val).timerAt = some a →
    ∃ t, exec (.coalesceTimer r) s = .next t ∧ t.tb.now = max s.tb.now a ∧
      ringOf t r.val = { ringOf s r.val with unsig := 0, timerAt := none } ∧ (∀ q, q ≠ r.val → ringOf t q = ringOf s q) ∧
      t.host.mem = s.host.mem ∧ changesOnly reportParts s t ∧
      (let v := (ringOf s r.val).vector
       let e := vget s.host.msix v {}
       (s.host.msixEn = true → s.host.msixFnMask = false → e.masked = false → t.out = [.msix v e.addr e.data]) ∧
       (s.host.msixEn = true → (s.host.msixFnMask = true ∨ e.masked = true) → v < 64 →
          t.out = [] ∧ (vget t.host.msix v {}).pending = true) ∧
       (s.host.msixEn = false → t.out = [] ∧ t.host.msix = s.host.msix)))

/-- A fetch takes the descriptor at the device's index of the ring whose turn it is and starts its command, or refuses one that came
back in error (R69, R71, R75, R77, R434). DESCRIPTOR_FETCH of one descriptor from the ring whose turn it is moves the ring's index by
one: without error the command at that slot is fetched as its row would be; with one, no command is listed, AER notes the read, and
the ring alone moves besides its record. The turn is never that of a ring that is empty, disabled or stalled, and a fetch out of turn
fetches nothing. -/
def Obligations.DescriptorsAreFetchedInIndexOrder : Prop :=
  ∀ (dt : Nat) (ring : Fin 16) (s : State), domOn s 1 = true →
    let g := ringOf s ring.val
    let ref : CmdRef := ⟨ring, g.cons⟩
    let d : Desc := BitVec.ofNat 512 (leNat (hostRead s (ringBase g + 64 * (g.cons.toNat % ringSize g)) 64))
    (g.en = false ∨ g.prod = g.cons ∨ fetchStalled s ring.val = true → fetchTurn s ≠ some ring.val) ∧
    (fetchTurn s ≠ some ring.val → ∀ n errs,
      ∃ t, exec (.descriptorFetch dt ring n errs) s = .next t ∧ t.host.rings = s.host.rings ∧ t.host.cmds = s.host.cmds ∧
        changesOnly reportParts s t) ∧
    (fetchTurn s = some ring.val →
      (∃ t, exec (.descriptorFetch dt ring 1 [0]) s = .next t ∧ (ringOf t ring.val).cons = g.cons + 1 ∧ t.host.lastRing = ring.val ∧
        t.host.aerRead = true ∧ t.host.cmds = s.host.cmds ∧ changesOnly reportParts s t) ∧
      (cmdHeld s { ref := ref, d := d, seq := s.host.nextSeq } = true →
        ∃ t, exec (.descriptorFetch dt ring 1 []) s = .next t ∧ (ringOf t ring.val).cons = g.cons + 1 ∧ t.host.lastRing = ring.val ∧
          t.host.cmds = s.host.cmds ++ [{ ref := ref, d := d, seq := s.host.nextSeq }] ∧ changesOnly reportParts s t) ∧
      exec (.descriptorFetch dt ring 1 []) s = .next (cmdFetched (defOf (dOp d))
        (modRing { arrive dt s with host := { (arrive dt s).host with lastRing := ring.val } } ring.val fun h => { h with cons := h.cons + 1 })
        ref d))

/-- A low word read latches the high word; a low word written waits for its high word (R94, R96, R430). With CTL on and the block not
dark: LOW_WORD_READ answers the low word and latches the high word of that instant in the requester's shadow. HIGH_WORD_READ answers
and consumes that shadow, or answers the live word and sets SPLIT_MISS. LOW_WORD_WRITE of a RW quantity holds the word, changes no
register, and drops an earlier held word with SPLIT_MISS. HIGH_WORD_WRITE of the same quantity writes both words and holds neither. -/
def Obligations.SplitReadsAndWrites : Prop :=
  ∀ (dt : Nat) (req : BitVec 16) (off : BitVec 24) (s : State), domOn s 1 = true → off.toNat % 4 = 0 →
    let a := arrive dt s
    let o := off.toNat
    darkAt a o = none →
    ((lowWord o).isSome = true → o ≠ 0x60030 → ∃ t, exec (.lowWordRead dt req off) s = .next t ∧ changesOnly reportParts s t ∧ t.out = [] ∧
      t.host.resp = .data (BitVec.ofNat 64 (wordRead a o)) ∧
      shadowOf t req = some ⟨req, o, BitVec.ofNat 32 (wordRead a (o + 4))⟩) ∧
    ((highWord o).isSome = true → (lowWord o).isSome = false → o ≠ 0x60030 →
      ∃ t, exec (.highWordRead dt req off) s = .next t ∧ changesOnly reportParts s t ∧
        (∀ x, shadowOf s req = some x → x.off + 4 = o →
          t.host.resp = .data (x.word.setWidth 64) ∧ shadowOf t req = none ∧ t.host.splitMiss = s.host.splitMiss) ∧
        ((∀ x, shadowOf s req = some x → x.off + 4 ≠ o) →
          t.host.resp = .data (BitVec.ofNat 64 (wordRead a o)) ∧ t.host.shadows = s.host.shadows ∧ t.host.splitMiss = true)) ∧
    (∀ v, lowWord o = some true → wordDefined o = true →
      ∃ t, exec (.lowWordWrite dt req off v) s = .next t ∧ changesOnly reportParts s t ∧ t.host.resp = .written ∧
        heldOf t req = some ⟨req, o, v⟩ ∧ t.host.rings = s.host.rings ∧ t.host.mem = s.host.mem ∧
        t.host.splitMiss = (s.host.splitMiss || (heldOf s req).isSome)) ∧
    (∀ v x, highWord o = some true → (lowWord o).isSome = false → wordDefined o = true → heldOf s req = some x → x.off + 4 = o →
      exec (.highWordWrite dt req off v) s =
        .next (respond (wordSet (wordSet (heldDrop a req) x.off x.word.toNat) o v.toNat) .written) ∧
      heldOf (heldDrop a req) req = none)

/-- A dark block reads 0x0BAD00nn, takes no write and logs the access; an illegal size is aborted (R92, R93, R426, R427, R430). With CTL
on: ACCESS_DARK of a legal request answers 0x0BAD_00nn to a 4-byte read, discards a write, sets ACCESS_DARK, records offset and
direction and counts the access; only the first since the flag was cleared may post an event, and no register of the block moves.
COMPLETER_ABORT of an illegal size or alignment answers an abort and changes nothing else. -/
def Obligations.DarkAndIllegalRequests : Prop :=
  ∀ (dt : Nat) (q : BusReq) (s : State), domOn s 1 = true →
    (∀ b, reqAborts q.off.toNat q.len = false → 1 ≤ q.len → q.len ≤ 4 → darkAt (arrive dt s) q.off.toNat = some b →
      ∃ t, exec (.accessDark dt q) s = .next t ∧
        (q.len = 4 → t.host.resp = if q.write then .written else .data (BitVec.ofNat 64 (0x0BAD0000 + b))) ∧
        t.host.accessDark = true ∧ t.host.darkWr = q.write ∧ t.host.darkOffset = q.off ∧
        t.host.darkCount = min 255 (s.host.darkCount + 1) ∧
        (s.host.accessDark = true → t.out = [] ∧ t.host.rings = s.host.rings ∧ t.host.mem = s.host.mem ∧ changesOnly reportParts s t) ∧
        changesOnly (withReports [.pwr]) s t) ∧
    (reqAborts q.off.toNat q.len = true → ∃ t, exec (.completerAbort dt q) s = .next t ∧ t.host.resp = .abort ∧
      t.host.rings = s.host.rings ∧ t.host.mem = s.host.mem ∧ t.out = [] ∧ changesOnly reportParts s t)

/-- A register write is stored, rejected or ignored as R427 orders, and a pending vector goes out when unmasked (R90, R426, R427, R429).
With CTL on, a 4-byte REGISTER_WRITE to BAR 0: at an undefined offset nothing moves; a value the register refuses is recorded in
GEN_WR_REJ and the register stands; one it takes is stored; a narrow write is recorded and discarded. A word of the MSI-X table is
stored in its entry. MSIX_UNMASK of a pending vector, with MSI-X enabled and the function not masked, sends its message once and
clears the pending bit. -/
def Obligations.RegisterWritesAndUnmaskedVectors : Prop :=
  (∀ (dt : Nat) (q : BusReq) (s : State), domOn s 1 = true → q.write = true → reqAborts q.off.toNat q.len = false →
    let a := arrive dt s
    let o := q.off.toNat
    darkAt a o = none →
    (1 ≤ q.len → q.len ≤ 4 → wordDefined (o / 4 * 4) = false →
      ∃ t, exec (.registerWrite dt .bar0 q) s = .next t ∧ t.host = { s.host with resp := .written } ∧ changesOnly reportParts s t) ∧
    (1 ≤ q.len → q.len < 4 → wordDefined (o / 4 * 4) = true →
      ∃ t, exec (.registerWrite dt .bar0 q) s = .next t ∧ changesOnly (withReports [.gen]) s t ∧
        t.gen = { s.gen with wrRej := true, wrRejCount := min 0x7F (s.gen.wrRejCount + 1), wrRejOffset := q.off }) ∧
    (∀ b p r k, q.len = 4 → (lowWord o).isSome = false → (highWord o).isSome = false → locate o = some (b, p) →
      regAt b p = some (r, k) →
      (∀ u, r.write a k (q.value.toNat % 2 ^ 32) = some u →
        exec (.registerWrite dt .bar0 q) s = .next { u with host := { u.host with resp := .written } }) ∧
      (r.write a k (q.value.toNat % 2 ^ 32) = none →
        ∃ t, exec (.registerWrite dt .bar0 q) s = .next t ∧ changesOnly (withReports [.gen]) s t ∧
          t.gen = { s.gen with wrRej := true, wrRejCount := min 0x7F (s.gen.wrRejCount + 1), wrRejOffset := q.off }))) ∧
  (∀ (dt : Nat) (v : Fin 64) (w : Fin 4) (x : BitVec 32) (s : State), domOn s 1 = true →
    ∃ t, exec (.registerWrite dt .bar2 { write := true, off := BitVec.ofNat 24 (0x8000 + 16 * v.val + 4 * w.val), len := 4, value := x.setWidth 64 }) s
        = .next t ∧ changesOnly reportParts s t ∧
      (w.val = 2 → t.host.msix[v].data = x) ∧ (w.val = 3 → t.host.msix[v].masked = bit x.toNat 0) ∧
      (∀ u : Fin 64, u ≠ v → t.host.msix[u] = s.host.msix[u])) ∧
  (∀ (dt : Nat) (v : Fin 64) (s : State), domOn s 1 = true → s.host.msixEn = true → s.host.msixFnMask = false →
    ∃ t, exec (.msixUnmask dt (some v)) s = .next t ∧ t.host.msix[v].masked = false ∧ t.host.msix[v].pending = false ∧
      t.out = (if s.host.msix[v].pending then [.msix v.val s.host.msix[v].addr s.host.msix[v].data] else []) ∧
      t.host.mem = s.host.mem ∧ changesOnly reportParts s t)

/-- An accepted TB_CFG sets what its action names and nothing else of the timebase (R307, R308, R309, R314). TB_CFG that nothing holds
and that passes its checks takes effect at once, by its action: SOURCE, ADJ_FREQ, ADJ_PHASE (a shift of at most TB_JUMP_LIM is
added, a larger one is refused with JUMP_REFUSED), LIMITS, GRID (pending for the next frame tick), PPS delays, INC, PTP. The command
is complete. The time of day does not step. -/
def Obligations.TimebaseConfigTakesEffect : Prop :=
  ∀ (dt : Nat) (r : CmdRef) (d : Desc) (s : State), let x : CommandRow := ⟨dt, r, d, tbCfgDef⟩
    rowAccepted x s →
    let a := arrive dt s
    let e := (rowStart x s).d
    let w := dW e 20
    ∃ t, exec (.tbCfg dt r d) s = .next t ∧ t.host.cmds = s.host.cmds ∧ changesOnly (withReports [.pwr]) s t ∧
      t.tb.tod = a.tb.tod ∧
      (dB e 16 = 0 → (dB e 20 = 0 → t.tb.source = .none) ∧ (dB e 20 = 1 → t.tb.source = .pps) ∧ (dB e 20 = 2 → t.tb.source = .ptp) ∧
        (dB e 20 = 3 → t.tb.source = .external) ∧ (t.tb.source ≠ s.tb.source → t.tb.acquire = true ∧ t.tb.phaseLeft = 0)) ∧
      (dB e 16 = 1 → t.tb = { a.tb with ftrimTarget := sx 32 w }) ∧
      (dB e 16 = 2 → (sx 64 (dQ e 20)).natAbs ≤ 16 * s.tb.jumpLim →
        t.tb = { a.tb with phaseLeft := s.tb.phaseLeft + sx 64 (dQ e 20) * phaseUnit }) ∧
      (dB e 16 = 2 → 16 * s.tb.jumpLim < (sx 64 (dQ e 20)).natAbs →
        t.tb.jumpRefused = true ∧ t.tb.refused = clampI (-2147483648) 2147483647 (sx 64 (dQ e 20) / 16) ∧
          t.tb.phaseLeft = s.tb.phaseLeft) ∧
      (dB e 16 = 3 → t.tb = { a.tb with jumpLim := w, slew := dH e 24 }) ∧
      (dB e 16 = 4 → t.tb = { a.tb with gridPend := some (w, dH e 24) }) ∧
      (dB e 16 = 5 → t.tb = { a.tb with
        ppsInDelay := sx 32 w, ppsOutDelay := sx 32 (dW e 24), ppsOutEn := dB e 28 == 1 }) ∧
      (dB e 16 = 6 → t.tb = { a.tb with inc := BitVec.ofNat 64 (dQ e 20) }) ∧
      (dB e 16 = 7 → t.tb.ptpPort = BitVec.ofNat 8 (dB e 20) ∧ t.tb.ptpDomain = BitVec.ofNat 8 (dB e 21) ∧
        t.tb.ptpSelected = false ∧ t.tb.source = s.tb.source ∧ t.tb.phaseLeft = s.tb.phaseLeft)

/-- An accepted move occupies its channel and moves nothing yet; a withdrawal ends one not started (R97, R98, R101, R102, R189, R388).
LADLE_MOVE, PATTERN_WRITE and HB_READ of records, accepted: the channel named holds the move with its addresses and length, the
command runs, every other channel stands and no byte moves. LADLE_WITHDRAW, accepted: a channel without a move stands; a move not
started leaves its channel with cause WITHDRAWN and count 0; a started one is marked to end. -/
def Obligations.MovesEnterAndLeaveTheirChannel : Prop :=
  let enters := fun (i : Instr) (x : CommandRow) (s : State) (k : Nat) (m : Move) =>
    ∃ t, exec i s = .next t ∧ (chOf t k).move = some m ∧ (∀ j, j ≠ k → chOf t j = chOf s j) ∧ t.host.cmds = rowRuns x s ∧
      t.out = [] ∧ t.host.rings = s.host.rings ∧ changesOnly (withReports [.ldl]) s t
  (∀ (dt : Nat) (r : CmdRef) (d : Desc) (s : State), let x : CommandRow := ⟨dt, r, d, ladleMoveDef⟩
    rowAccepted x s → let e := (rowStart x s).d
    ∃ m, enters (.ladleMove dt r d) x s (dB e 16) m ∧ m.ref = r ∧ m.srcSp = bits (dB e 17) 1 0 ∧ m.dstSp = bits (dB e 17) 3 2 ∧
      m.src = dQ e 20 ∧ m.dst = dQ e 28 ∧ m.len = dW e 36 ∧ m.started = false) ∧
  (∀ (dt : Nat) (r : CmdRef) (d : Desc) (s : State), let x : CommandRow := ⟨dt, r, d, patternWriteDef⟩
    rowAccepted x s → let e := (rowStart x s).d
    ∃ m, enters (.patternWrite dt r d) x s (dB e 17) m ∧ m.ref = r ∧ m.kind = .pattern ∧ m.src = dQ e 28 ∧ m.len = 256 * dH e 24 ∧
      m.started = false) ∧
  (∀ (dt : Nat) (r : CmdRef) (d : Desc) (s : State), let x : CommandRow := ⟨dt, r, d, hbReadDef⟩
    rowAccepted x s → let e := (rowStart x s).d
    dB e 16 = 0 → ∃ m, enters (.hbRead dt r d) x s (dB e 18) m ∧ m.ref = r ∧ m.kind = .hbRead ∧ m.dst = dQ e 28 ∧
      m.len = (hbArea (dB e 17)).1 * dW e 24 ∧ m.started = false) ∧
  (∀ (dt : Nat) (r : CmdRef) (d : Desc) (s : State), let x : CommandRow := ⟨dt, r, d, ladleWithdrawDef⟩
    rowAccepted x s → let k := dB (rowStart x s).d 16
    ∃ t, exec (.ladleWithdraw dt r d) s = .next t ∧ (∀ j, j ≠ k → chOf t j = chOf s j) ∧ changesOnly (withReports [.ldl]) s t ∧
      ((chOf s k).move = none → t.ldl = s.ldl ∧ t.host.cmds = s.host.cmds) ∧
      (∀ m, (chOf s k).move = some m → m.started = true →
        chOf t k = { chOf s k with move := some { m with withdrawn := true } } ∧ t.host.cmds = s.host.cmds) ∧
      (∀ m, (chOf s k).move = some m → m.started = false →
        (chOf t k).move = none ∧ (chOf t k).eoc = true ∧ (chOf t k).trunc = true ∧ (chOf t k).cause = 11 ∧ (chOf t k).count = 0))

/-- ASSAY_CTX, HLD_CFG, LANE_CTRL and THM_CFG set what they name at once and nothing else (R123, R129, R162, R164, R354, R365, R373).
Accepted: ASSAY_CTX reads, writes or resets the one context it names. HLD_CFG adds its settings to those that await the next window, or,
while no window runs (the model's choice, log 40), sets them.
LANE_CTRL actions TRAIN_MODE, SET_TAPS, LOOPBACK and COUNT_CLEAR change exactly the lanes named. THM_CFG sets or clears the force of
the fans named, or the test mode. -/
def Obligations.ContextsTapsLanesAndFansAreSet : Prop :=
  (∀ (dt : Nat) (r : CmdRef) (d : Desc) (s : State), let x : CommandRow := ⟨dt, r, d, assayCtxDef⟩
    rowAccepted x s → let e := (rowStart x s).d
    ∃ t, exec (.assayCtx dt r d) s = .next t ∧ t.host.cmds = s.host.cmds ∧ changesOnly (withReports [.fh]) s t ∧
      t.fh = { s.fh with assay := t.fh.assay } ∧ (∀ j, j ≠ dH e 18 → assayOf t j = assayOf s j) ∧
      (dB e 16 = 0 → t.fh = s.fh) ∧
      (dB e 16 = 1 → assayOf t (dH e 18) = { crc := BitVec.ofNat 32 (dW e 20) ^^^ 0xFFFFFFFF, next := some (dB e 24) }) ∧
      (dB e 16 = 2 → assayOf t (dH e 18) = {})) ∧
  (∀ (dt : Nat) (r : CmdRef) (d : Desc) (s : State), let x : CommandRow := ⟨dt, r, d, hldCfgDef⟩
    rowAccepted x s →
    ∃ t, exec (.hldCfg dt r d) s = .next t ∧ t.host.cmds = s.host.cmds ∧ changesOnly (withReports [.hld]) s t ∧
      let v := BitVec.ofNat 384 ((rowStart x s).d.toNat / 2 ^ 128)
      (s.hld.state = .blind ∨ s.hld.state = .watch → t.hld = { s.hld with pend := s.hld.pend ++ [v] }) ∧
      (s.hld.state ≠ .blind → s.hld.state ≠ .watch → t.hld = (hldTake s v).hld)) ∧
  (∀ (dt : Nat) (r : CmdRef) (d : Desc) (s : State), let x : CommandRow := ⟨dt, r, d, laneCtrlDef⟩
    rowAccepted x s → let e := (rowStart x s).d
    dB e 16 = 1 ∨ dB e 16 = 2 ∨ dB e 16 = 6 ∨ dB e 16 = 7 →
    ∃ t, exec (.laneCtrl dt r d) s = .next t ∧ t.host.cmds = s.host.cmds ∧ changesOnly (withReports [.lanes]) s t ∧
      (∀ l, l ∉ ctrlLanes s e → laneOf t l = laneOf s l) ∧
      (∀ l ∈ ctrlLanes s e, laneOf t l =
        if dB e 16 = 1 then { laneOf s l with mode := if dB e 23 = 0 then .auto else if dB e 23 = 1 then .on else .fixed }
        else if dB e 16 = 2 then { laneOf s l with setTaps := some (dB e 23, dB e 24) }
        else if dB e 16 = 6 then
          { laneOf s l with loopback := dB e 23, squelch := bit (dB e 24) 0, gen := if dB e 23 = 3 then 0 else (laneOf s l).gen }
        else { laneOf s l with prbsErr := 0, prbsBits := 0 })) ∧
  (∀ (dt : Nat) (r : CmdRef) (d : Desc) (s : State), let x : CommandRow := ⟨dt, r, d, thmCfgDef⟩
    rowAccepted x s → let e := (rowStart x s).d
    ∃ t, exec (.thmCfg dt r d) s = .next t ∧ t.host.cmds = s.host.cmds ∧ changesOnly (withReports [.thm, .hka]) s t ∧
      (dB e 16 = 0 → t.hka = s.hka ∧ (∀ f < 4, bit (dB e 17) f = false → vget t.thm.fan f {} = vget s.thm.fan f {}) ∧
        (∀ f < 4, bit (dB e 17) f = true → (vget t.thm.fan f {}).force =
          if dH e 20 = 0 then none else some (dB e 18, t.tb.now + dH e 20 * 491520000))) ∧
      (dB e 16 ≠ 0 → t.thm = s.thm ∧ t.hka.test = decide (dB e 17 = 1)))

/-- DOMAIN_SET, HB_CLEAR, HB_READ SNAPSHOT and ANL_RUN begin what they command, and run until it ends (R325, R334, R336, R340, R341,
R386, R389, R390). Accepted: a DOMAIN_SET of one domain away from on starts that domain's entry and no other's, and runs. HB_CLEAR
with no snapshot in progress uses up the nonce, writes its CLEAR record at the next place of the log and runs. SNAPSHOT with room
joins the snapshots that are due. ANL_RUN: STOP ends the run in progress or changes nothing, LOAD and EDGE_SET leave the corrections
of both directions waiting for their ticks, SAVE begins. -/
def Obligations.LongCommandsBeginAndRun : Prop :=
  (∀ (dt : Nat) (r : CmdRef) (d : Desc) (s : State) (k : Nat), let x : CommandRow := ⟨dt, r, d, domainSetDef⟩
    rowAccepted x s → let e := (rowStart x s).d
    domNames e = 2 ^ k → k ∈ entryOrder → domTarget (domTargets e) k ≠ .on → vget s.pwr.dom k .off ≠ domTarget (domTargets e) k →
    (∀ j < 14, vget s.pwr.dom j .off ≠ .moving) → (k < 10 ∨ domOn s k = false ∨ tbOn s = false) →
    ∃ t, exec (.domainSet dt r d) s = .next t ∧ vget t.pwr.dom k .off = .moving ∧ vget t.pwr.target k .off = domTarget (domTargets e) k ∧
      (∀ j, j ≠ k → vget t.pwr.dom j .off = vget s.pwr.dom j .off) ∧ t.pwr.cmd.isSome = true ∧ t.host.cmds = rowRuns x s ∧
      changesOnly (withReports [.syn, .lanes, .fh, .tx, .rx, .pwr, .hka, .bias]) s t) ∧
  (∀ (dt : Nat) (r : CmdRef) (d : Desc) (s : State), let x : CommandRow := ⟨dt, r, d, hbClearDef⟩
    rowAccepted x s →
    (s.hb.snaps = [] → ∃ t, exec (.hbClear dt r d) s = .next t ∧ t.hb.clearing = some r ∧ t.hb.nonceCtr = s.hb.nonceCtr + 1 ∧
      t.hb.clearNext = s.hb.clearNext + 1 ∧ t.hb.recs = s.hb.recs ∧ t.hb.hours = s.hb.hours ∧
      (∀ a, a < 96 * s.hb.clearNext ∨ 96 * s.hb.clearNext + 96 ≤ a → memRead 0xFF t.hb.clearLog a = memRead 0xFF s.hb.clearLog a) ∧
      (∃ c ∈ t.host.cmds, c.seq = s.host.nextSeq ∧ c.ref = r) ∧ changesOnly (withReports [.hb, .flash]) s t) ∧
    (s.hb.snaps ≠ [] → ∃ t, exec (.hbClear dt r d) s = .next t ∧ (∃ c ∈ t.host.cmds, c.seq = s.host.nextSeq ∧ c.ref = r) ∧
      t.host.rings = s.host.rings ∧ changesOnly reportParts s t)) ∧
  (∀ (dt : Nat) (r : CmdRef) (d : Desc) (s : State), let x : CommandRow := ⟨dt, r, d, hbReadDef⟩
    rowAccepted x s → dB (rowStart x s).d 16 = 1 → s.hb.next + 130 ≤ recArea →
    ∃ t, exec (.hbRead dt r d) s = .next t ∧ t.hb = { s.hb with snaps := s.hb.snaps ++ [⟨3, some r⟩] } ∧ t.host.cmds = rowRuns x s ∧
      changesOnly (withReports [.hb]) s t) ∧
  (∀ (dt : Nat) (r : CmdRef) (d : Desc) (s : State), let x : CommandRow := ⟨dt, r, d, anlRunDef⟩
    rowAccepted x s → let e := (rowStart x s).d
    ∃ t, exec (.anlRun dt r d) s = .next t ∧
      (dB e 16 = 1 → s.anl.run = none → t.anl = s.anl ∧ t.host.cmds = s.host.cmds ∧ changesOnly reportParts s t) ∧
      (dB e 16 = 1 → s.anl.run.isSome = true → s.anl.next = none → t.anl.run = none ∧ t.anl.state = .idle ∧
        t.anl.corr = s.anl.corr ∧ changesOnly (withReports [.anl, .pwr, .hb]) s t) ∧
      (dB e 16 = 2 ∨ dB e 16 = 5 → t.anl.corr = s.anl.corr ∧ t.host.cmds = rowRuns x s ∧
        (∃ p q, t.anl.apply = s.anl.apply ++ [p, q] ∧ p.isTx = true ∧ q.isTx = false ∧ p.due = t.tb.now + 2048 ∧ q.due = t.tb.now + 2048) ∧
        changesOnly (withReports [.anl]) s t) ∧
      (dB e 16 = 4 → t.anl = { s.anl with saving := some r } ∧ t.host.cmds = rowRuns x s ∧ t.hb.nonceCtr = s.hb.nonceCtr + 1 ∧
        changesOnly (withReports [.anl, .hb]) s t))

/-- At its tick a command without rivals does exactly what it names (R76, R166, R219, R264, R285, R304, R374, R261, R262, R263, R302,
R315). A due command of which no setting is lost, to a later command or to the FLK master's change: FH_CFG replaces its carrier's settings and no other's; RX_CFG action 1 sets mode,
attenuation and digital gain of the paths named; COX_CFG sets its pair; SYN_CFG action 0 its synthesiser's outputs; BIAS_QUEUE
appends its entries or flushes; LAYER_SET's layers replace those of the same IDs, and its record waits for slot n. Nothing but the
part named and the record moves. A due command of which no setting is lost: TX_CTRL enables where the fused bounds leave room, disables, mutes or unmutes exactly the
named paths that are not retired, a path it disables being silent from that tick. POWER_SET gives the named paths their new SET.
CARRIER_CFG with the pattern field replaces the pattern, and leaves the modes. TB_STEP steps the time of day: messages held are
gone, and the next frame tick is a grid point on a whole count. DPD_CFG action 4 gives the named paths the identity set. A MODE_SET
of CC0 with no flask-wide bit gives it that set. CAPTURE and SOUNDING_CAPTURE begin to run, WEIGHT_LOAD ends, and UNIT_CTRL retires
the pots named. -/
def Obligations.DueCommandsTakeEffect : Prop :=
  (∀ (k : Nat) (pre s : State) (c : Cmd), cmdsOk s → c ∈ s.host.cmds → keysBarred pre k c = [] →
     let u := cmdApply k pre [] s c
     let d := dB c.d
     (dOp c.d = 0x0070 → d 16 < 2 → vget u.fh.cc (d 16) {} = fhCfgOf c.d ∧ (∀ j, j ≠ d 16 → vget u.fh.cc j {} = vget s.fh.cc j {}) ∧
       u.fh.held = s.fh.held ∧ (∀ y ∈ u.host.cmds, y.seq ≠ c.seq) ∧ changesOnly [.host, .out, .fh] s u) ∧
     (dOp c.d = 0x0040 → d 16 = 1 →
       (∀ p < 64, rxOf u p = if bit (dPaths c.d) p
         then { rxOf s p with gmode := d 18, att := d 19, dgain := sx 16 (dH c.d 20), gainAt := s.tb.now } else rxOf s p) ∧
       changesOnly [.host, .out, .rx] s u) ∧
     (dOp c.d = 0x0033 → d 16 < 4 → changesOnly [.host, .out, .tx] s u ∧
       (let x := vget u.tx.cox (d 16) {}
        x.en = bit (d 17) 0 ∧ x.reqPol = bit (d 17) 1 ∧ x.gntPol = bit (d 17) 2 ∧ x.reqLead = dH c.d 18 ∧
          x.paths = BitVec.ofNat 64 (dPaths c.d)) ∧ u.tx.path = s.tx.path) ∧
     (dOp c.d = 0x0021 → d 16 = 0 → d 17 < 5 → synthOf u (d 17) = { synthOf s (d 17) with outEn := BitVec.ofNat 4 (d 18), monK := some (d 19) } ∧
       (∀ j, j ≠ d 17 → synthOf u j = synthOf s j) ∧ changesOnly [.host, .out, .syn] s u) ∧
     (dOp c.d = 0x00A1 → (∀ o < 128, (biasOf u o).queue =
         if o ∈ setBits 128 (biasOutputs c.d) then (if d 16 = 1 then [] else (biasOf s o).queue ++ biasEntries c.d) else (biasOf s o).queue) ∧
       (∀ o < 128, (biasOf u o).shown = (biasOf s o).shown) ∧ changesOnly [.host, .out, .bias] s u) ∧
     (dOp c.d = 0x0060 → c.note = 0 → u.run.layers =
         (s.run.layers.filter fun l => !(l.dir == lsDir c.d && l.isLocal == lsLocal c.d && (lsLayers c.d).contains l.id)) ++
           (if lsRemove c.d then [] else (lsLayers c.d).map (lsLayer c.d)) ∧
       (∃ y ∈ u.host.cmds, y.seq = c.seq) ∧ u.host.rings = s.host.rings ∧ changesOnly [.host, .run] s u)) ∧
  (∀ (k : Nat) (pre s : State) (c : Cmd), cmdsOk s → c ∈ s.host.cmds → keysBarred pre k c = [] →
     let u := cmdApply k pre [] s c
     let d := dB c.d
     (dOp c.d = 0x0030 → ∀ p < 64,
       ((bit (dPaths c.d) p = false ∨ (txOf s p).retired = true) → txOf u p = txOf s p) ∧
       (bit (dPaths c.d) p = true → (txOf s p).retired = false →
         (d 16 = 0 → (txOf u p).radiating = (txOf s p).radiating ∧ ((txOf s p).en = true → txOf u p = txOf s p) ∧
           ((txOf s p).en = false → txOf u p = txOf s p ∨ txOf u p = { txOf s p with en := true, eff := -2560 }) ∧
           (-2560 ≤ pathMax s → tokSum s + 64 * tok (-2560) ≤ tokenPool s → (txOf u p).en = true)) ∧
         (d 16 = 1 → (txOf u p).en = false ∧ (txOf u p).radiating = false ∧ (txOf u p).paen = false) ∧
         (d 16 = 2 → (txOf u p).mute = true) ∧
         (d 16 = 3 → (txOf u p).mute = false ∧ (txOf u p).regOver = false))) ∧
     (dOp c.d = 0x0031 → (∀ p < 64, (txOf u p).set =
         if bit (dPaths c.d) p then (if bit (d 16) 0 then (txOf s p).set + pwrLevel c.d else pwrLevel c.d) else (txOf s p).set) ∧
       changesOnly [.host, .out, .tx, .pwr] s u) ∧
     (dOp c.d = 0x0020 → bit (d 16) 3 = true →
       u.air.period = d 48 ∧ u.air.sDl = d 49 ∧ u.air.sGp = d 50 ∧ u.air.sUl = d 51 ∧ u.air.slots = BitVec.ofNat 80 (bits c.d.toNat 495 416) ∧
         u.mod = s.mod ∧ changesOnly [.host, .out, .air, .syn, .pwr] s u) ∧
     (dOp c.d = 0x0023 → u.tb.valid = true ∧ u.tb.now = s.tb.now ∧ u.fh.held = [] ∧ u.fh.ctrl = [] ∧ u.fh.ulQueue = [] ∧
       u.tb.gridAt = s.tb.now + u.tb.voidCounts ∧ u.tb.airNext % 280 = 0 ∧ s.tb.airNext ≤ u.tb.airNext ∧
       (∃ m, u.tb.tod + u.tb.voidCounts * todRate u = m * gridStep + gridBase u) ∧
       (∀ p < 64, (txOf u p).radiating = false) ∧ u.mod = s.mod) ∧
     (dOp c.d = 0x0032 → d 16 = 4 → (∀ p < 64, dpdOf u p = if bit (dPaths c.d) p then { dpdOf s p with
         coef := coefIdentity, nmse := 0, qecPhase := 0, qecGain := 0, lolI := 0, lolQ := 0, pend := none, restore := false } else dpdOf s p) ∧
       changesOnly [.host, .out, .tx] s u) ∧
     (dOp c.d = 0x0010 → d 16 = 1 → d 17 < 64 → bit (d 17) 3 = false → flaskWide s 0 = false → hldWaits s c.d = false →
       setOf u 0 = d 17 ∧ setOf u 1 = setOf s 1 ∧ (∀ y ∈ u.host.cmds, y.seq ≠ c.seq) ∧ u.tb = s.tb ∧ u.air = s.air) ∧
     ((dOp c.d = 0x0041 ∧ d 16 ≠ 3) ∨ dOp c.d = 0x0052 →
       (∃ y ∈ u.host.cmds, y.seq = c.seq ∧ y.stage = .running none) ∧ changesOnly [.host] s u) ∧
     (dOp c.d = 0x0050 → (∀ y ∈ u.host.cmds, y.seq ≠ c.seq) ∧ changesOnly [.host, .out] s u) ∧
     (dOp c.d = 0x00B0 → d 16 = 0 → d 17 = 1 → (∀ i < 8, bit (unitMask c.d) i = true → (potOf u i).retired = true) ∧
       (∀ i < 8, bit (unitMask c.d) i = false → potOf u i = potOf s i)))

/-- Every step keeps every memory of the block in its canonical form (R64, R176, R182, R189, R287, R384, 95_what_each_step_holds.md).
From any state whose memories are canonical (addresses strictly rising, no entry equal to what an unlisted address reads as), every
step that answers a next state answers one whose memories are: host memory, the four memories of the device, the weight halves with
the rows waiting for them, and the record and clear areas of the Heat Book. ResetIsSafe states it of the reset state. -/
def Obligations.MemoriesStayCanonical : Prop :=
  ∀ s t : State, memOk s → step s = .next t → memOk t

/-- Every step keeps the commands in progress distinct and numbered below the next number (R71, R74, R75, R104). From any state in which
the commands fetched and not completed bear different numbers, all below the number the next one will bear, every step that answers
a next state keeps it so: no command is listed twice, and none comes back once it is gone. The numbers are the model's own, in the
order of the fetch (log 2). ResetIsSafe states it of the reset state. -/
def Obligations.CommandNumbersStayDistinct : Prop :=
  ∀ s t : State, cmdsOk s → step s = .next t → cmdsOk t

/-- No step clears a fuse, only FUSE_PROGRAM and a failing Heat Book blow one, only a power-on reset loads them (R17, R391, R393, R395,
R403). For every step that answers a next state: a fuse that is blown stays blown; the fuses outside the tally stand unless the step
carries out FUSE_PROGRAM; the loaded values stand unless it carries out POWER_ON_RESET, and after that they are the array. -/
def Obligations.FusesStayBlownAndLoadAtPowerOn : Prop :=
  ∀ s t : State, step s = .next t →
    (∀ b : Fin 4096, s.fus.array.getLsbD b = true → t.fus.array.getLsbD b = true) ∧
    ((∀ dt l, s.pending.head? ≠ some (.fuseProgram dt l)) →
      ∀ b : Fin 4096, b.val < 2880 ∨ 2944 ≤ b.val → t.fus.array.getLsbD b = s.fus.array.getLsbD b) ∧
    ((∀ dt st, s.pending.head? ≠ some (.powerOnReset dt st)) → t.fus.loaded = s.fus.loaded) ∧
    (∀ dt st, s.pending.head? = some (.powerOnReset dt st) → t.fus.loaded = s.fus.array)
end

