-- ==== Sys2Proof/Laws/Memory.lean ====
section
/-! SUPPORT. Memories: a write keeps the canonical form, reads back, and leaves every other byte as it was. -/

namespace Sys2Proof.Machine

/-- A canonical memory from a bound is canonical from any lower bound. -/
theorem memWfFrom_mono (d : Byte) : ∀ (m : Memory) {lo hi : Nat}, lo ≤ hi → memWfFrom d hi m = true → memWfFrom d lo m = true
  | [], _, _, _, _ => rfl
  | c :: cs, lo, hi, h, hw => by
    simp only [memWfFrom, Bool.and_eq_true, decide_eq_true_eq] at hw ⊢
    exact ⟨⟨le_trans h hw.1.1, hw.1.2⟩, hw.2⟩

/-- A write keeps the canonical form. -/
theorem memWrite_wfFrom (d : Byte) (a : Nat) (b : Byte) :
    ∀ (m : Memory) (lo : Nat), lo ≤ a → memWfFrom d lo m = true → memWfFrom d lo (memWrite d m a b) = true
  | [], lo, hlo, _ => by
    by_cases hb : b = d <;> simp [memWrite, hb, memWfFrom, hlo]
  | c :: cs, lo, hlo, hw => by
    have hc := hw
    simp only [memWfFrom, Bool.and_eq_true, decide_eq_true_eq] at hc
    by_cases h1 : a < c.1
    · by_cases hb : b = d
      · simpa [memWrite, h1, hb] using hw
      · have : memWfFrom d (a + 1) (c :: cs) = true := by
          simp only [memWfFrom, Bool.and_eq_true, decide_eq_true_eq]
          exact ⟨⟨h1, hc.1.2⟩, hc.2⟩
        simp [memWrite, h1, hb, memWfFrom, hlo] at this ⊢
        exact this
    · by_cases h2 : a = c.1
      · by_cases hb : b = d
        · simp only [memWrite, h2, hb, if_true, if_false, lt_irrefl]
          exact memWfFrom_mono d cs (by omega) hc.2
        · simp only [memWrite, h2, hb, if_true, if_false, lt_irrefl, memWfFrom, Bool.and_eq_true, decide_eq_true_eq]
          refine ⟨⟨by omega, by simp [hb]⟩, hc.2⟩
      · simp only [memWrite, h1, h2, if_false, memWfFrom, Bool.and_eq_true, decide_eq_true_eq]
        exact ⟨⟨hc.1.1, hc.1.2⟩, memWrite_wfFrom d a b cs (c.1 + 1) (by omega) hc.2⟩

/-- A write keeps a memory canonical. -/
theorem memWrite_wf (d : Byte) (m : Memory) (a : Nat) (b : Byte) (h : Memory.wf d m = true) : Memory.wf d (memWrite d m a b) = true :=
  memWrite_wfFrom d a b m 0 (Nat.zero_le _) h

/-- Cells pasted keep a memory canonical. -/
theorem memPaste_wf (d : Byte) : ∀ (cells : List Host.Cell) (m : Memory), Memory.wf d m = true → Memory.wf d (memPaste d m cells) = true
  | [], _, h => h
  | c :: cs, m, h => memPaste_wf d cs (memWrite d m c.1 c.2) (memWrite_wf d m c.1 c.2 h)

/-- Bytes written keep a memory canonical. -/
theorem memWriteBytes_wf (d : Byte) (m : Memory) (a : Nat) (bs : List Byte) (h : Memory.wf d m = true) :
    Memory.wf d (memWriteBytes d m a bs) = true := memPaste_wf d _ m h

/-- Cells left out keep a memory canonical. -/
theorem memFilter_wfFrom (d : Byte) (f : Host.Cell → Bool) :
    ∀ (m : Memory) (lo : Nat), memWfFrom d lo m = true → memWfFrom d lo (m.filter f) = true
  | [], _, _ => rfl
  | c :: cs, lo, h => by
    have hc := h
    simp only [memWfFrom, Bool.and_eq_true, decide_eq_true_eq] at hc
    by_cases hf : f c = true
    · simp only [List.filter, hf, memWfFrom, Bool.and_eq_true, decide_eq_true_eq]
      exact ⟨hc.1, memFilter_wfFrom d f cs _ hc.2⟩
    · simp only [List.filter, hf]
      exact memWfFrom_mono d _ (by omega) (memFilter_wfFrom d f cs _ hc.2)

/-- A cleared range keeps a memory canonical. -/
theorem memClear_wf (d : Byte) (m : Memory) (a n : Nat) (h : Memory.wf d m = true) : Memory.wf d (memClear m a n) = true :=
  memFilter_wfFrom d _ m 0 h

/-- Below the bound of a canonical memory every byte reads as the unlisted value. -/
theorem memRead_below (d : Byte) : ∀ (m : Memory) (lo a : Nat), memWfFrom d lo m = true → a < lo → memRead d m a = d
  | [], _, _, _, _ => rfl
  | c :: cs, lo, a, h, ha => by
    simp only [memWfFrom, Bool.and_eq_true, decide_eq_true_eq] at h
    have h1 : c.1 ≠ a := by omega
    simp only [memRead, h1, if_false]
    exact memRead_below d cs (c.1 + 1) a h.2 (by omega)

/-- A read after a write to the same address gives the value written. -/
theorem memRead_memWrite_same (d : Byte) (a : Nat) (b : Byte) :
    ∀ (m : Memory) (lo : Nat), memWfFrom d lo m = true → memRead d (memWrite d m a b) a = b
  | [], _, _ => by
    by_cases hb : b = d <;> simp [memWrite, memRead, hb]
  | c :: cs, lo, hw => by
    have hc := hw
    simp only [memWfFrom, Bool.and_eq_true, decide_eq_true_eq] at hc
    by_cases h1 : a < c.1
    · by_cases hb : b = d
      · have h2 : c.1 ≠ a := by omega
        simp only [memWrite, h1, hb, if_true, memRead, h2, if_false]
        exact memRead_below d cs (c.1 + 1) a hc.2 (by omega)
      · simp [memWrite, h1, hb, memRead]
    · by_cases h2 : a = c.1
      · by_cases hb : b = d
        · simp only [memWrite, h2, hb, if_true, if_false, lt_irrefl]
          exact memRead_below d cs (c.1 + 1) c.1 hc.2 (by omega)
        · simp [memWrite, h2, hb, memRead]
      · have h3 : c.1 ≠ a := fun e => h2 e.symm
        simp only [memWrite, h1, h2, if_false, memRead, h3]
        exact memRead_memWrite_same d a b cs (c.1 + 1) hc.2

/-- A write leaves every other byte as it was. -/
theorem memRead_memWrite_other (d : Byte) (a x : Nat) (b : Byte) (hx : x ≠ a) :
    ∀ m : Memory, memRead d (memWrite d m a b) x = memRead d m x
  | [] => by
    by_cases hb : b = d <;> simp [memWrite, memRead, hb, hx.symm]
  | c :: cs => by
    by_cases h1 : a < c.1
    · by_cases hb : b = d <;> simp [memWrite, h1, hb, memRead, hx.symm]
    · by_cases h2 : a = c.1
      · have h3 : c.1 ≠ x := fun e => hx (h2.trans e).symm
        by_cases hb : b = d <;> simp [memWrite, h2, hb, memRead, h3]
      · simp only [memWrite, h1, h2, if_false, memRead]
        rw [memRead_memWrite_other d a x b hx cs]

/-- Cells pasted elsewhere leave a byte as it was. -/
theorem memRead_memPaste_other (d : Byte) (x : Nat) :
    ∀ (cells : List Host.Cell) (m : Memory), (∀ c ∈ cells, c.1 ≠ x) → memRead d (memPaste d m cells) x = memRead d m x
  | [], _, _ => rfl
  | c :: cs, m, h => by
    have h1 := memRead_memPaste_other d x cs (memWrite d m c.1 c.2) (fun y hy => h y (List.mem_cons_of_mem c hy))
    exact h1.trans (memRead_memWrite_other d c.1 x c.2 (Ne.symm (h c (List.mem_cons_self ..))) m)

/-- The addresses of consecutive cells. -/
theorem cellsAt_mem : ∀ (a : Nat) (bs : List Byte) (c : Host.Cell), c ∈ cellsAt a bs → a ≤ c.1 ∧ c.1 < a + bs.length
  | _, [], _, h => by simp [cellsAt] at h
  | a, b :: bs, c, h => by
    simp only [cellsAt, List.mem_cons] at h
    rcases h with h | h
    · subst h; simp
    · have := cellsAt_mem (a + 1) bs c h
      simp only [List.length_cons]
      omega

/-- Bytes written from an address leave every byte outside them as it was. -/
theorem memRead_memWriteBytes_other (d : Byte) (m : Memory) (a x : Nat) (bs : List Byte) (h : x < a ∨ a + bs.length ≤ x) :
    memRead d (memWriteBytes d m a bs) x = memRead d m x :=
  memRead_memPaste_other d x _ m fun c hc => by
    have := cellsAt_mem a bs c hc
    omega

/-- The length of a number's bytes. -/
@[simp] theorem bytesLE_length : ∀ n v, (bytesLE n v).length = n
  | 0, _ => rfl
  | n + 1, v => by simp [bytesLE, bytesLE_length n]

end Sys2Proof.Machine
end

