-- ==== Sys2Proof/Laws/State.lean ====
section
/-! SUPPORT. One lemma per named update and part of State: what an update does not touch, it leaves as it was. -/

namespace Sys2Proof.Machine

/-! ### wait -/

@[simp] theorem wait_syn (dt : Nat) (s : State) :
    (wait dt s).syn = s.syn := by simp only [wait]
@[simp] theorem wait_air (dt : Nat) (s : State) :
    (wait dt s).air = s.air := by simp only [wait]
@[simp] theorem wait_mod (dt : Nat) (s : State) :
    (wait dt s).mod = s.mod := by simp only [wait]
@[simp] theorem wait_host (dt : Nat) (s : State) :
    (wait dt s).host = s.host := by simp only [wait]
@[simp] theorem wait_ldl (dt : Nat) (s : State) :
    (wait dt s).ldl = s.ldl := by simp only [wait]
@[simp] theorem wait_lanes (dt : Nat) (s : State) :
    (wait dt s).lanes = s.lanes := by simp only [wait]
@[simp] theorem wait_fh (dt : Nat) (s : State) :
    (wait dt s).fh = s.fh := by simp only [wait]
@[simp] theorem wait_cru (dt : Nat) (s : State) :
    (wait dt s).cru = s.cru := by simp only [wait]
@[simp] theorem wait_run (dt : Nat) (s : State) :
    (wait dt s).run = s.run := by simp only [wait]
@[simp] theorem wait_tx (dt : Nat) (s : State) :
    (wait dt s).tx = s.tx := by simp only [wait]
@[simp] theorem wait_rx (dt : Nat) (s : State) :
    (wait dt s).rx = s.rx := by simp only [wait]
@[simp] theorem wait_anl (dt : Nat) (s : State) :
    (wait dt s).anl = s.anl := by simp only [wait]
@[simp] theorem wait_pwr (dt : Nat) (s : State) :
    (wait dt s).pwr = s.pwr := by simp only [wait]
@[simp] theorem wait_hld (dt : Nat) (s : State) :
    (wait dt s).hld = s.hld := by simp only [wait]
@[simp] theorem wait_thm (dt : Nat) (s : State) :
    (wait dt s).thm = s.thm := by simp only [wait]
@[simp] theorem wait_hka (dt : Nat) (s : State) :
    (wait dt s).hka = s.hka := by simp only [wait]
@[simp] theorem wait_bias (dt : Nat) (s : State) :
    (wait dt s).bias = s.bias := by simp only [wait]
@[simp] theorem wait_hb (dt : Nat) (s : State) :
    (wait dt s).hb = s.hb := by simp only [wait]
@[simp] theorem wait_fus (dt : Nat) (s : State) :
    (wait dt s).fus = s.fus := by simp only [wait]
@[simp] theorem wait_gen (dt : Nat) (s : State) :
    (wait dt s).gen = s.gen := by simp only [wait]
@[simp] theorem wait_out (dt : Nat) (s : State) :
    (wait dt s).out = s.out := by simp only [wait]
@[simp] theorem wait_pending (dt : Nat) (s : State) :
    (wait dt s).pending = s.pending := by simp only [wait]

/-! ### arrive -/

@[simp] theorem arrive_syn (dt : Nat) (s : State) :
    (arrive dt s).syn = s.syn := by simp only [arrive, wait]
@[simp] theorem arrive_air (dt : Nat) (s : State) :
    (arrive dt s).air = s.air := by simp only [arrive, wait]
@[simp] theorem arrive_mod (dt : Nat) (s : State) :
    (arrive dt s).mod = s.mod := by simp only [arrive, wait]
@[simp] theorem arrive_ldl (dt : Nat) (s : State) :
    (arrive dt s).ldl = s.ldl := by simp only [arrive, wait]
@[simp] theorem arrive_lanes (dt : Nat) (s : State) :
    (arrive dt s).lanes = s.lanes := by simp only [arrive, wait]
@[simp] theorem arrive_fh (dt : Nat) (s : State) :
    (arrive dt s).fh = s.fh := by simp only [arrive, wait]
@[simp] theorem arrive_cru (dt : Nat) (s : State) :
    (arrive dt s).cru = s.cru := by simp only [arrive, wait]
@[simp] theorem arrive_run (dt : Nat) (s : State) :
    (arrive dt s).run = s.run := by simp only [arrive, wait]
@[simp] theorem arrive_tx (dt : Nat) (s : State) :
    (arrive dt s).tx = s.tx := by simp only [arrive, wait]
@[simp] theorem arrive_rx (dt : Nat) (s : State) :
    (arrive dt s).rx = s.rx := by simp only [arrive, wait]
@[simp] theorem arrive_anl (dt : Nat) (s : State) :
    (arrive dt s).anl = s.anl := by simp only [arrive, wait]
@[simp] theorem arrive_pwr (dt : Nat) (s : State) :
    (arrive dt s).pwr = s.pwr := by simp only [arrive, wait]
@[simp] theorem arrive_hld (dt : Nat) (s : State) :
    (arrive dt s).hld = s.hld := by simp only [arrive, wait]
@[simp] theorem arrive_thm (dt : Nat) (s : State) :
    (arrive dt s).thm = s.thm := by simp only [arrive, wait]
@[simp] theorem arrive_hka (dt : Nat) (s : State) :
    (arrive dt s).hka = s.hka := by simp only [arrive, wait]
@[simp] theorem arrive_bias (dt : Nat) (s : State) :
    (arrive dt s).bias = s.bias := by simp only [arrive, wait]
@[simp] theorem arrive_hb (dt : Nat) (s : State) :
    (arrive dt s).hb = s.hb := by simp only [arrive, wait]
@[simp] theorem arrive_fus (dt : Nat) (s : State) :
    (arrive dt s).fus = s.fus := by simp only [arrive, wait]
@[simp] theorem arrive_gen (dt : Nat) (s : State) :
    (arrive dt s).gen = s.gen := by simp only [arrive, wait]
@[simp] theorem arrive_pending (dt : Nat) (s : State) :
    (arrive dt s).pending = s.pending := by simp only [arrive, wait]

/-! ### modRing -/

@[simp] theorem modRing_tb (s : State) (r : Nat) (f : Ring → Ring) :
    (modRing s r f).tb = s.tb := by simp only [modRing]
@[simp] theorem modRing_syn (s : State) (r : Nat) (f : Ring → Ring) :
    (modRing s r f).syn = s.syn := by simp only [modRing]
@[simp] theorem modRing_air (s : State) (r : Nat) (f : Ring → Ring) :
    (modRing s r f).air = s.air := by simp only [modRing]
@[simp] theorem modRing_mod (s : State) (r : Nat) (f : Ring → Ring) :
    (modRing s r f).mod = s.mod := by simp only [modRing]
@[simp] theorem modRing_ldl (s : State) (r : Nat) (f : Ring → Ring) :
    (modRing s r f).ldl = s.ldl := by simp only [modRing]
@[simp] theorem modRing_lanes (s : State) (r : Nat) (f : Ring → Ring) :
    (modRing s r f).lanes = s.lanes := by simp only [modRing]
@[simp] theorem modRing_fh (s : State) (r : Nat) (f : Ring → Ring) :
    (modRing s r f).fh = s.fh := by simp only [modRing]
@[simp] theorem modRing_cru (s : State) (r : Nat) (f : Ring → Ring) :
    (modRing s r f).cru = s.cru := by simp only [modRing]
@[simp] theorem modRing_run (s : State) (r : Nat) (f : Ring → Ring) :
    (modRing s r f).run = s.run := by simp only [modRing]
@[simp] theorem modRing_tx (s : State) (r : Nat) (f : Ring → Ring) :
    (modRing s r f).tx = s.tx := by simp only [modRing]
@[simp] theorem modRing_rx (s : State) (r : Nat) (f : Ring → Ring) :
    (modRing s r f).rx = s.rx := by simp only [modRing]
@[simp] theorem modRing_anl (s : State) (r : Nat) (f : Ring → Ring) :
    (modRing s r f).anl = s.anl := by simp only [modRing]
@[simp] theorem modRing_pwr (s : State) (r : Nat) (f : Ring → Ring) :
    (modRing s r f).pwr = s.pwr := by simp only [modRing]
@[simp] theorem modRing_hld (s : State) (r : Nat) (f : Ring → Ring) :
    (modRing s r f).hld = s.hld := by simp only [modRing]
@[simp] theorem modRing_thm (s : State) (r : Nat) (f : Ring → Ring) :
    (modRing s r f).thm = s.thm := by simp only [modRing]
@[simp] theorem modRing_hka (s : State) (r : Nat) (f : Ring → Ring) :
    (modRing s r f).hka = s.hka := by simp only [modRing]
@[simp] theorem modRing_bias (s : State) (r : Nat) (f : Ring → Ring) :
    (modRing s r f).bias = s.bias := by simp only [modRing]
@[simp] theorem modRing_hb (s : State) (r : Nat) (f : Ring → Ring) :
    (modRing s r f).hb = s.hb := by simp only [modRing]
@[simp] theorem modRing_fus (s : State) (r : Nat) (f : Ring → Ring) :
    (modRing s r f).fus = s.fus := by simp only [modRing]
@[simp] theorem modRing_gen (s : State) (r : Nat) (f : Ring → Ring) :
    (modRing s r f).gen = s.gen := by simp only [modRing]
@[simp] theorem modRing_out (s : State) (r : Nat) (f : Ring → Ring) :
    (modRing s r f).out = s.out := by simp only [modRing]
@[simp] theorem modRing_pending (s : State) (r : Nat) (f : Ring → Ring) :
    (modRing s r f).pending = s.pending := by simp only [modRing]

/-! ### hostWrite -/

@[simp] theorem hostWrite_tb (s : State) (a : Nat) (bs : List Byte) :
    (hostWrite s a bs).tb = s.tb := by simp only [hostWrite]
@[simp] theorem hostWrite_syn (s : State) (a : Nat) (bs : List Byte) :
    (hostWrite s a bs).syn = s.syn := by simp only [hostWrite]
@[simp] theorem hostWrite_air (s : State) (a : Nat) (bs : List Byte) :
    (hostWrite s a bs).air = s.air := by simp only [hostWrite]
@[simp] theorem hostWrite_mod (s : State) (a : Nat) (bs : List Byte) :
    (hostWrite s a bs).mod = s.mod := by simp only [hostWrite]
@[simp] theorem hostWrite_ldl (s : State) (a : Nat) (bs : List Byte) :
    (hostWrite s a bs).ldl = s.ldl := by simp only [hostWrite]
@[simp] theorem hostWrite_lanes (s : State) (a : Nat) (bs : List Byte) :
    (hostWrite s a bs).lanes = s.lanes := by simp only [hostWrite]
@[simp] theorem hostWrite_fh (s : State) (a : Nat) (bs : List Byte) :
    (hostWrite s a bs).fh = s.fh := by simp only [hostWrite]
@[simp] theorem hostWrite_cru (s : State) (a : Nat) (bs : List Byte) :
    (hostWrite s a bs).cru = s.cru := by simp only [hostWrite]
@[simp] theorem hostWrite_run (s : State) (a : Nat) (bs : List Byte) :
    (hostWrite s a bs).run = s.run := by simp only [hostWrite]
@[simp] theorem hostWrite_tx (s : State) (a : Nat) (bs : List Byte) :
    (hostWrite s a bs).tx = s.tx := by simp only [hostWrite]
@[simp] theorem hostWrite_rx (s : State) (a : Nat) (bs : List Byte) :
    (hostWrite s a bs).rx = s.rx := by simp only [hostWrite]
@[simp] theorem hostWrite_anl (s : State) (a : Nat) (bs : List Byte) :
    (hostWrite s a bs).anl = s.anl := by simp only [hostWrite]
@[simp] theorem hostWrite_pwr (s : State) (a : Nat) (bs : List Byte) :
    (hostWrite s a bs).pwr = s.pwr := by simp only [hostWrite]
@[simp] theorem hostWrite_hld (s : State) (a : Nat) (bs : List Byte) :
    (hostWrite s a bs).hld = s.hld := by simp only [hostWrite]
@[simp] theorem hostWrite_thm (s : State) (a : Nat) (bs : List Byte) :
    (hostWrite s a bs).thm = s.thm := by simp only [hostWrite]
@[simp] theorem hostWrite_hka (s : State) (a : Nat) (bs : List Byte) :
    (hostWrite s a bs).hka = s.hka := by simp only [hostWrite]
@[simp] theorem hostWrite_bias (s : State) (a : Nat) (bs : List Byte) :
    (hostWrite s a bs).bias = s.bias := by simp only [hostWrite]
@[simp] theorem hostWrite_hb (s : State) (a : Nat) (bs : List Byte) :
    (hostWrite s a bs).hb = s.hb := by simp only [hostWrite]
@[simp] theorem hostWrite_fus (s : State) (a : Nat) (bs : List Byte) :
    (hostWrite s a bs).fus = s.fus := by simp only [hostWrite]
@[simp] theorem hostWrite_gen (s : State) (a : Nat) (bs : List Byte) :
    (hostWrite s a bs).gen = s.gen := by simp only [hostWrite]
@[simp] theorem hostWrite_out (s : State) (a : Nat) (bs : List Byte) :
    (hostWrite s a bs).out = s.out := by simp only [hostWrite]
@[simp] theorem hostWrite_pending (s : State) (a : Nat) (bs : List Byte) :
    (hostWrite s a bs).pending = s.pending := by simp only [hostWrite]

/-! ### send -/

@[simp] theorem send_tb (s : State) (o : Out) :
    (send s o).tb = s.tb := by simp only [send]
@[simp] theorem send_syn (s : State) (o : Out) :
    (send s o).syn = s.syn := by simp only [send]
@[simp] theorem send_air (s : State) (o : Out) :
    (send s o).air = s.air := by simp only [send]
@[simp] theorem send_mod (s : State) (o : Out) :
    (send s o).mod = s.mod := by simp only [send]
@[simp] theorem send_host (s : State) (o : Out) :
    (send s o).host = s.host := by simp only [send]
@[simp] theorem send_ldl (s : State) (o : Out) :
    (send s o).ldl = s.ldl := by simp only [send]
@[simp] theorem send_lanes (s : State) (o : Out) :
    (send s o).lanes = s.lanes := by simp only [send]
@[simp] theorem send_fh (s : State) (o : Out) :
    (send s o).fh = s.fh := by simp only [send]
@[simp] theorem send_cru (s : State) (o : Out) :
    (send s o).cru = s.cru := by simp only [send]
@[simp] theorem send_run (s : State) (o : Out) :
    (send s o).run = s.run := by simp only [send]
@[simp] theorem send_tx (s : State) (o : Out) :
    (send s o).tx = s.tx := by simp only [send]
@[simp] theorem send_rx (s : State) (o : Out) :
    (send s o).rx = s.rx := by simp only [send]
@[simp] theorem send_anl (s : State) (o : Out) :
    (send s o).anl = s.anl := by simp only [send]
@[simp] theorem send_pwr (s : State) (o : Out) :
    (send s o).pwr = s.pwr := by simp only [send]
@[simp] theorem send_hld (s : State) (o : Out) :
    (send s o).hld = s.hld := by simp only [send]
@[simp] theorem send_thm (s : State) (o : Out) :
    (send s o).thm = s.thm := by simp only [send]
@[simp] theorem send_hka (s : State) (o : Out) :
    (send s o).hka = s.hka := by simp only [send]
@[simp] theorem send_bias (s : State) (o : Out) :
    (send s o).bias = s.bias := by simp only [send]
@[simp] theorem send_hb (s : State) (o : Out) :
    (send s o).hb = s.hb := by simp only [send]
@[simp] theorem send_fus (s : State) (o : Out) :
    (send s o).fus = s.fus := by simp only [send]
@[simp] theorem send_gen (s : State) (o : Out) :
    (send s o).gen = s.gen := by simp only [send]
@[simp] theorem send_pending (s : State) (o : Out) :
    (send s o).pending = s.pending := by simp only [send]

/-! ### cmdDrop -/

@[simp] theorem cmdDrop_tb (s : State) (q : Nat) :
    (cmdDrop s q).tb = s.tb := by simp only [cmdDrop]
@[simp] theorem cmdDrop_syn (s : State) (q : Nat) :
    (cmdDrop s q).syn = s.syn := by simp only [cmdDrop]
@[simp] theorem cmdDrop_air (s : State) (q : Nat) :
    (cmdDrop s q).air = s.air := by simp only [cmdDrop]
@[simp] theorem cmdDrop_mod (s : State) (q : Nat) :
    (cmdDrop s q).mod = s.mod := by simp only [cmdDrop]
@[simp] theorem cmdDrop_ldl (s : State) (q : Nat) :
    (cmdDrop s q).ldl = s.ldl := by simp only [cmdDrop]
@[simp] theorem cmdDrop_lanes (s : State) (q : Nat) :
    (cmdDrop s q).lanes = s.lanes := by simp only [cmdDrop]
@[simp] theorem cmdDrop_fh (s : State) (q : Nat) :
    (cmdDrop s q).fh = s.fh := by simp only [cmdDrop]
@[simp] theorem cmdDrop_cru (s : State) (q : Nat) :
    (cmdDrop s q).cru = s.cru := by simp only [cmdDrop]
@[simp] theorem cmdDrop_run (s : State) (q : Nat) :
    (cmdDrop s q).run = s.run := by simp only [cmdDrop]
@[simp] theorem cmdDrop_tx (s : State) (q : Nat) :
    (cmdDrop s q).tx = s.tx := by simp only [cmdDrop]
@[simp] theorem cmdDrop_rx (s : State) (q : Nat) :
    (cmdDrop s q).rx = s.rx := by simp only [cmdDrop]
@[simp] theorem cmdDrop_anl (s : State) (q : Nat) :
    (cmdDrop s q).anl = s.anl := by simp only [cmdDrop]
@[simp] theorem cmdDrop_pwr (s : State) (q : Nat) :
    (cmdDrop s q).pwr = s.pwr := by simp only [cmdDrop]
@[simp] theorem cmdDrop_hld (s : State) (q : Nat) :
    (cmdDrop s q).hld = s.hld := by simp only [cmdDrop]
@[simp] theorem cmdDrop_thm (s : State) (q : Nat) :
    (cmdDrop s q).thm = s.thm := by simp only [cmdDrop]
@[simp] theorem cmdDrop_hka (s : State) (q : Nat) :
    (cmdDrop s q).hka = s.hka := by simp only [cmdDrop]
@[simp] theorem cmdDrop_bias (s : State) (q : Nat) :
    (cmdDrop s q).bias = s.bias := by simp only [cmdDrop]
@[simp] theorem cmdDrop_hb (s : State) (q : Nat) :
    (cmdDrop s q).hb = s.hb := by simp only [cmdDrop]
@[simp] theorem cmdDrop_fus (s : State) (q : Nat) :
    (cmdDrop s q).fus = s.fus := by simp only [cmdDrop]
@[simp] theorem cmdDrop_gen (s : State) (q : Nat) :
    (cmdDrop s q).gen = s.gen := by simp only [cmdDrop]
@[simp] theorem cmdDrop_out (s : State) (q : Nat) :
    (cmdDrop s q).out = s.out := by simp only [cmdDrop]
@[simp] theorem cmdDrop_pending (s : State) (q : Nat) :
    (cmdDrop s q).pending = s.pending := by simp only [cmdDrop]

/-! ### cmdPut -/

@[simp] theorem cmdPut_tb (s : State) (c : Cmd) :
    (cmdPut s c).tb = s.tb := by simp only [cmdPut]
@[simp] theorem cmdPut_syn (s : State) (c : Cmd) :
    (cmdPut s c).syn = s.syn := by simp only [cmdPut]
@[simp] theorem cmdPut_air (s : State) (c : Cmd) :
    (cmdPut s c).air = s.air := by simp only [cmdPut]
@[simp] theorem cmdPut_mod (s : State) (c : Cmd) :
    (cmdPut s c).mod = s.mod := by simp only [cmdPut]
@[simp] theorem cmdPut_ldl (s : State) (c : Cmd) :
    (cmdPut s c).ldl = s.ldl := by simp only [cmdPut]
@[simp] theorem cmdPut_lanes (s : State) (c : Cmd) :
    (cmdPut s c).lanes = s.lanes := by simp only [cmdPut]
@[simp] theorem cmdPut_fh (s : State) (c : Cmd) :
    (cmdPut s c).fh = s.fh := by simp only [cmdPut]
@[simp] theorem cmdPut_cru (s : State) (c : Cmd) :
    (cmdPut s c).cru = s.cru := by simp only [cmdPut]
@[simp] theorem cmdPut_run (s : State) (c : Cmd) :
    (cmdPut s c).run = s.run := by simp only [cmdPut]
@[simp] theorem cmdPut_tx (s : State) (c : Cmd) :
    (cmdPut s c).tx = s.tx := by simp only [cmdPut]
@[simp] theorem cmdPut_rx (s : State) (c : Cmd) :
    (cmdPut s c).rx = s.rx := by simp only [cmdPut]
@[simp] theorem cmdPut_anl (s : State) (c : Cmd) :
    (cmdPut s c).anl = s.anl := by simp only [cmdPut]
@[simp] theorem cmdPut_pwr (s : State) (c : Cmd) :
    (cmdPut s c).pwr = s.pwr := by simp only [cmdPut]
@[simp] theorem cmdPut_hld (s : State) (c : Cmd) :
    (cmdPut s c).hld = s.hld := by simp only [cmdPut]
@[simp] theorem cmdPut_thm (s : State) (c : Cmd) :
    (cmdPut s c).thm = s.thm := by simp only [cmdPut]
@[simp] theorem cmdPut_hka (s : State) (c : Cmd) :
    (cmdPut s c).hka = s.hka := by simp only [cmdPut]
@[simp] theorem cmdPut_bias (s : State) (c : Cmd) :
    (cmdPut s c).bias = s.bias := by simp only [cmdPut]
@[simp] theorem cmdPut_hb (s : State) (c : Cmd) :
    (cmdPut s c).hb = s.hb := by simp only [cmdPut]
@[simp] theorem cmdPut_fus (s : State) (c : Cmd) :
    (cmdPut s c).fus = s.fus := by simp only [cmdPut]
@[simp] theorem cmdPut_gen (s : State) (c : Cmd) :
    (cmdPut s c).gen = s.gen := by simp only [cmdPut]
@[simp] theorem cmdPut_out (s : State) (c : Cmd) :
    (cmdPut s c).out = s.out := by simp only [cmdPut]
@[simp] theorem cmdPut_pending (s : State) (c : Cmd) :
    (cmdPut s c).pending = s.pending := by simp only [cmdPut]

/-! ### modTx -/

@[simp] theorem modTx_tb (s : State) (p : Nat) (f : TxPath → TxPath) :
    (modTx s p f).tb = s.tb := by simp only [modTx]
@[simp] theorem modTx_syn (s : State) (p : Nat) (f : TxPath → TxPath) :
    (modTx s p f).syn = s.syn := by simp only [modTx]
@[simp] theorem modTx_air (s : State) (p : Nat) (f : TxPath → TxPath) :
    (modTx s p f).air = s.air := by simp only [modTx]
@[simp] theorem modTx_mod (s : State) (p : Nat) (f : TxPath → TxPath) :
    (modTx s p f).mod = s.mod := by simp only [modTx]
@[simp] theorem modTx_host (s : State) (p : Nat) (f : TxPath → TxPath) :
    (modTx s p f).host = s.host := by simp only [modTx]
@[simp] theorem modTx_ldl (s : State) (p : Nat) (f : TxPath → TxPath) :
    (modTx s p f).ldl = s.ldl := by simp only [modTx]
@[simp] theorem modTx_lanes (s : State) (p : Nat) (f : TxPath → TxPath) :
    (modTx s p f).lanes = s.lanes := by simp only [modTx]
@[simp] theorem modTx_fh (s : State) (p : Nat) (f : TxPath → TxPath) :
    (modTx s p f).fh = s.fh := by simp only [modTx]
@[simp] theorem modTx_cru (s : State) (p : Nat) (f : TxPath → TxPath) :
    (modTx s p f).cru = s.cru := by simp only [modTx]
@[simp] theorem modTx_run (s : State) (p : Nat) (f : TxPath → TxPath) :
    (modTx s p f).run = s.run := by simp only [modTx]
@[simp] theorem modTx_rx (s : State) (p : Nat) (f : TxPath → TxPath) :
    (modTx s p f).rx = s.rx := by simp only [modTx]
@[simp] theorem modTx_anl (s : State) (p : Nat) (f : TxPath → TxPath) :
    (modTx s p f).anl = s.anl := by simp only [modTx]
@[simp] theorem modTx_pwr (s : State) (p : Nat) (f : TxPath → TxPath) :
    (modTx s p f).pwr = s.pwr := by simp only [modTx]
@[simp] theorem modTx_hld (s : State) (p : Nat) (f : TxPath → TxPath) :
    (modTx s p f).hld = s.hld := by simp only [modTx]
@[simp] theorem modTx_thm (s : State) (p : Nat) (f : TxPath → TxPath) :
    (modTx s p f).thm = s.thm := by simp only [modTx]
@[simp] theorem modTx_hka (s : State) (p : Nat) (f : TxPath → TxPath) :
    (modTx s p f).hka = s.hka := by simp only [modTx]
@[simp] theorem modTx_bias (s : State) (p : Nat) (f : TxPath → TxPath) :
    (modTx s p f).bias = s.bias := by simp only [modTx]
@[simp] theorem modTx_hb (s : State) (p : Nat) (f : TxPath → TxPath) :
    (modTx s p f).hb = s.hb := by simp only [modTx]
@[simp] theorem modTx_fus (s : State) (p : Nat) (f : TxPath → TxPath) :
    (modTx s p f).fus = s.fus := by simp only [modTx]
@[simp] theorem modTx_gen (s : State) (p : Nat) (f : TxPath → TxPath) :
    (modTx s p f).gen = s.gen := by simp only [modTx]
@[simp] theorem modTx_out (s : State) (p : Nat) (f : TxPath → TxPath) :
    (modTx s p f).out = s.out := by simp only [modTx]
@[simp] theorem modTx_pending (s : State) (p : Nat) (f : TxPath → TxPath) :
    (modTx s p f).pending = s.pending := by simp only [modTx]

/-! ### modDpd -/

@[simp] theorem modDpd_tb (s : State) (p : Nat) (f : Dpd → Dpd) :
    (modDpd s p f).tb = s.tb := by simp only [modDpd]
@[simp] theorem modDpd_syn (s : State) (p : Nat) (f : Dpd → Dpd) :
    (modDpd s p f).syn = s.syn := by simp only [modDpd]
@[simp] theorem modDpd_air (s : State) (p : Nat) (f : Dpd → Dpd) :
    (modDpd s p f).air = s.air := by simp only [modDpd]
@[simp] theorem modDpd_mod (s : State) (p : Nat) (f : Dpd → Dpd) :
    (modDpd s p f).mod = s.mod := by simp only [modDpd]
@[simp] theorem modDpd_host (s : State) (p : Nat) (f : Dpd → Dpd) :
    (modDpd s p f).host = s.host := by simp only [modDpd]
@[simp] theorem modDpd_ldl (s : State) (p : Nat) (f : Dpd → Dpd) :
    (modDpd s p f).ldl = s.ldl := by simp only [modDpd]
@[simp] theorem modDpd_lanes (s : State) (p : Nat) (f : Dpd → Dpd) :
    (modDpd s p f).lanes = s.lanes := by simp only [modDpd]
@[simp] theorem modDpd_fh (s : State) (p : Nat) (f : Dpd → Dpd) :
    (modDpd s p f).fh = s.fh := by simp only [modDpd]
@[simp] theorem modDpd_cru (s : State) (p : Nat) (f : Dpd → Dpd) :
    (modDpd s p f).cru = s.cru := by simp only [modDpd]
@[simp] theorem modDpd_run (s : State) (p : Nat) (f : Dpd → Dpd) :
    (modDpd s p f).run = s.run := by simp only [modDpd]
@[simp] theorem modDpd_rx (s : State) (p : Nat) (f : Dpd → Dpd) :
    (modDpd s p f).rx = s.rx := by simp only [modDpd]
@[simp] theorem modDpd_anl (s : State) (p : Nat) (f : Dpd → Dpd) :
    (modDpd s p f).anl = s.anl := by simp only [modDpd]
@[simp] theorem modDpd_pwr (s : State) (p : Nat) (f : Dpd → Dpd) :
    (modDpd s p f).pwr = s.pwr := by simp only [modDpd]
@[simp] theorem modDpd_hld (s : State) (p : Nat) (f : Dpd → Dpd) :
    (modDpd s p f).hld = s.hld := by simp only [modDpd]
@[simp] theorem modDpd_thm (s : State) (p : Nat) (f : Dpd → Dpd) :
    (modDpd s p f).thm = s.thm := by simp only [modDpd]
@[simp] theorem modDpd_hka (s : State) (p : Nat) (f : Dpd → Dpd) :
    (modDpd s p f).hka = s.hka := by simp only [modDpd]
@[simp] theorem modDpd_bias (s : State) (p : Nat) (f : Dpd → Dpd) :
    (modDpd s p f).bias = s.bias := by simp only [modDpd]
@[simp] theorem modDpd_hb (s : State) (p : Nat) (f : Dpd → Dpd) :
    (modDpd s p f).hb = s.hb := by simp only [modDpd]
@[simp] theorem modDpd_fus (s : State) (p : Nat) (f : Dpd → Dpd) :
    (modDpd s p f).fus = s.fus := by simp only [modDpd]
@[simp] theorem modDpd_gen (s : State) (p : Nat) (f : Dpd → Dpd) :
    (modDpd s p f).gen = s.gen := by simp only [modDpd]
@[simp] theorem modDpd_out (s : State) (p : Nat) (f : Dpd → Dpd) :
    (modDpd s p f).out = s.out := by simp only [modDpd]
@[simp] theorem modDpd_pending (s : State) (p : Nat) (f : Dpd → Dpd) :
    (modDpd s p f).pending = s.pending := by simp only [modDpd]

/-! ### modCox -/

@[simp] theorem modCox_tb (s : State) (i : Nat) (f : Cox → Cox) :
    (modCox s i f).tb = s.tb := by simp only [modCox]
@[simp] theorem modCox_syn (s : State) (i : Nat) (f : Cox → Cox) :
    (modCox s i f).syn = s.syn := by simp only [modCox]
@[simp] theorem modCox_air (s : State) (i : Nat) (f : Cox → Cox) :
    (modCox s i f).air = s.air := by simp only [modCox]
@[simp] theorem modCox_mod (s : State) (i : Nat) (f : Cox → Cox) :
    (modCox s i f).mod = s.mod := by simp only [modCox]
@[simp] theorem modCox_host (s : State) (i : Nat) (f : Cox → Cox) :
    (modCox s i f).host = s.host := by simp only [modCox]
@[simp] theorem modCox_ldl (s : State) (i : Nat) (f : Cox → Cox) :
    (modCox s i f).ldl = s.ldl := by simp only [modCox]
@[simp] theorem modCox_lanes (s : State) (i : Nat) (f : Cox → Cox) :
    (modCox s i f).lanes = s.lanes := by simp only [modCox]
@[simp] theorem modCox_fh (s : State) (i : Nat) (f : Cox → Cox) :
    (modCox s i f).fh = s.fh := by simp only [modCox]
@[simp] theorem modCox_cru (s : State) (i : Nat) (f : Cox → Cox) :
    (modCox s i f).cru = s.cru := by simp only [modCox]
@[simp] theorem modCox_run (s : State) (i : Nat) (f : Cox → Cox) :
    (modCox s i f).run = s.run := by simp only [modCox]
@[simp] theorem modCox_rx (s : State) (i : Nat) (f : Cox → Cox) :
    (modCox s i f).rx = s.rx := by simp only [modCox]
@[simp] theorem modCox_anl (s : State) (i : Nat) (f : Cox → Cox) :
    (modCox s i f).anl = s.anl := by simp only [modCox]
@[simp] theorem modCox_pwr (s : State) (i : Nat) (f : Cox → Cox) :
    (modCox s i f).pwr = s.pwr := by simp only [modCox]
@[simp] theorem modCox_hld (s : State) (i : Nat) (f : Cox → Cox) :
    (modCox s i f).hld = s.hld := by simp only [modCox]
@[simp] theorem modCox_thm (s : State) (i : Nat) (f : Cox → Cox) :
    (modCox s i f).thm = s.thm := by simp only [modCox]
@[simp] theorem modCox_hka (s : State) (i : Nat) (f : Cox → Cox) :
    (modCox s i f).hka = s.hka := by simp only [modCox]
@[simp] theorem modCox_bias (s : State) (i : Nat) (f : Cox → Cox) :
    (modCox s i f).bias = s.bias := by simp only [modCox]
@[simp] theorem modCox_hb (s : State) (i : Nat) (f : Cox → Cox) :
    (modCox s i f).hb = s.hb := by simp only [modCox]
@[simp] theorem modCox_fus (s : State) (i : Nat) (f : Cox → Cox) :
    (modCox s i f).fus = s.fus := by simp only [modCox]
@[simp] theorem modCox_gen (s : State) (i : Nat) (f : Cox → Cox) :
    (modCox s i f).gen = s.gen := by simp only [modCox]
@[simp] theorem modCox_out (s : State) (i : Nat) (f : Cox → Cox) :
    (modCox s i f).out = s.out := by simp only [modCox]
@[simp] theorem modCox_pending (s : State) (i : Nat) (f : Cox → Cox) :
    (modCox s i f).pending = s.pending := by simp only [modCox]

/-! ### modRx -/

@[simp] theorem modRx_tb (s : State) (p : Nat) (f : RxPath → RxPath) :
    (modRx s p f).tb = s.tb := by simp only [modRx]
@[simp] theorem modRx_syn (s : State) (p : Nat) (f : RxPath → RxPath) :
    (modRx s p f).syn = s.syn := by simp only [modRx]
@[simp] theorem modRx_air (s : State) (p : Nat) (f : RxPath → RxPath) :
    (modRx s p f).air = s.air := by simp only [modRx]
@[simp] theorem modRx_mod (s : State) (p : Nat) (f : RxPath → RxPath) :
    (modRx s p f).mod = s.mod := by simp only [modRx]
@[simp] theorem modRx_host (s : State) (p : Nat) (f : RxPath → RxPath) :
    (modRx s p f).host = s.host := by simp only [modRx]
@[simp] theorem modRx_ldl (s : State) (p : Nat) (f : RxPath → RxPath) :
    (modRx s p f).ldl = s.ldl := by simp only [modRx]
@[simp] theorem modRx_lanes (s : State) (p : Nat) (f : RxPath → RxPath) :
    (modRx s p f).lanes = s.lanes := by simp only [modRx]
@[simp] theorem modRx_fh (s : State) (p : Nat) (f : RxPath → RxPath) :
    (modRx s p f).fh = s.fh := by simp only [modRx]
@[simp] theorem modRx_cru (s : State) (p : Nat) (f : RxPath → RxPath) :
    (modRx s p f).cru = s.cru := by simp only [modRx]
@[simp] theorem modRx_run (s : State) (p : Nat) (f : RxPath → RxPath) :
    (modRx s p f).run = s.run := by simp only [modRx]
@[simp] theorem modRx_tx (s : State) (p : Nat) (f : RxPath → RxPath) :
    (modRx s p f).tx = s.tx := by simp only [modRx]
@[simp] theorem modRx_anl (s : State) (p : Nat) (f : RxPath → RxPath) :
    (modRx s p f).anl = s.anl := by simp only [modRx]
@[simp] theorem modRx_pwr (s : State) (p : Nat) (f : RxPath → RxPath) :
    (modRx s p f).pwr = s.pwr := by simp only [modRx]
@[simp] theorem modRx_hld (s : State) (p : Nat) (f : RxPath → RxPath) :
    (modRx s p f).hld = s.hld := by simp only [modRx]
@[simp] theorem modRx_thm (s : State) (p : Nat) (f : RxPath → RxPath) :
    (modRx s p f).thm = s.thm := by simp only [modRx]
@[simp] theorem modRx_hka (s : State) (p : Nat) (f : RxPath → RxPath) :
    (modRx s p f).hka = s.hka := by simp only [modRx]
@[simp] theorem modRx_bias (s : State) (p : Nat) (f : RxPath → RxPath) :
    (modRx s p f).bias = s.bias := by simp only [modRx]
@[simp] theorem modRx_hb (s : State) (p : Nat) (f : RxPath → RxPath) :
    (modRx s p f).hb = s.hb := by simp only [modRx]
@[simp] theorem modRx_fus (s : State) (p : Nat) (f : RxPath → RxPath) :
    (modRx s p f).fus = s.fus := by simp only [modRx]
@[simp] theorem modRx_gen (s : State) (p : Nat) (f : RxPath → RxPath) :
    (modRx s p f).gen = s.gen := by simp only [modRx]
@[simp] theorem modRx_out (s : State) (p : Nat) (f : RxPath → RxPath) :
    (modRx s p f).out = s.out := by simp only [modRx]
@[simp] theorem modRx_pending (s : State) (p : Nat) (f : RxPath → RxPath) :
    (modRx s p f).pending = s.pending := by simp only [modRx]

/-! ### modOrx -/

@[simp] theorem modOrx_tb (s : State) (i : Nat) (f : OrxArb → OrxArb) :
    (modOrx s i f).tb = s.tb := by simp only [modOrx]
@[simp] theorem modOrx_syn (s : State) (i : Nat) (f : OrxArb → OrxArb) :
    (modOrx s i f).syn = s.syn := by simp only [modOrx]
@[simp] theorem modOrx_air (s : State) (i : Nat) (f : OrxArb → OrxArb) :
    (modOrx s i f).air = s.air := by simp only [modOrx]
@[simp] theorem modOrx_mod (s : State) (i : Nat) (f : OrxArb → OrxArb) :
    (modOrx s i f).mod = s.mod := by simp only [modOrx]
@[simp] theorem modOrx_host (s : State) (i : Nat) (f : OrxArb → OrxArb) :
    (modOrx s i f).host = s.host := by simp only [modOrx]
@[simp] theorem modOrx_ldl (s : State) (i : Nat) (f : OrxArb → OrxArb) :
    (modOrx s i f).ldl = s.ldl := by simp only [modOrx]
@[simp] theorem modOrx_lanes (s : State) (i : Nat) (f : OrxArb → OrxArb) :
    (modOrx s i f).lanes = s.lanes := by simp only [modOrx]
@[simp] theorem modOrx_fh (s : State) (i : Nat) (f : OrxArb → OrxArb) :
    (modOrx s i f).fh = s.fh := by simp only [modOrx]
@[simp] theorem modOrx_cru (s : State) (i : Nat) (f : OrxArb → OrxArb) :
    (modOrx s i f).cru = s.cru := by simp only [modOrx]
@[simp] theorem modOrx_run (s : State) (i : Nat) (f : OrxArb → OrxArb) :
    (modOrx s i f).run = s.run := by simp only [modOrx]
@[simp] theorem modOrx_tx (s : State) (i : Nat) (f : OrxArb → OrxArb) :
    (modOrx s i f).tx = s.tx := by simp only [modOrx]
@[simp] theorem modOrx_anl (s : State) (i : Nat) (f : OrxArb → OrxArb) :
    (modOrx s i f).anl = s.anl := by simp only [modOrx]
@[simp] theorem modOrx_pwr (s : State) (i : Nat) (f : OrxArb → OrxArb) :
    (modOrx s i f).pwr = s.pwr := by simp only [modOrx]
@[simp] theorem modOrx_hld (s : State) (i : Nat) (f : OrxArb → OrxArb) :
    (modOrx s i f).hld = s.hld := by simp only [modOrx]
@[simp] theorem modOrx_thm (s : State) (i : Nat) (f : OrxArb → OrxArb) :
    (modOrx s i f).thm = s.thm := by simp only [modOrx]
@[simp] theorem modOrx_hka (s : State) (i : Nat) (f : OrxArb → OrxArb) :
    (modOrx s i f).hka = s.hka := by simp only [modOrx]
@[simp] theorem modOrx_bias (s : State) (i : Nat) (f : OrxArb → OrxArb) :
    (modOrx s i f).bias = s.bias := by simp only [modOrx]
@[simp] theorem modOrx_hb (s : State) (i : Nat) (f : OrxArb → OrxArb) :
    (modOrx s i f).hb = s.hb := by simp only [modOrx]
@[simp] theorem modOrx_fus (s : State) (i : Nat) (f : OrxArb → OrxArb) :
    (modOrx s i f).fus = s.fus := by simp only [modOrx]
@[simp] theorem modOrx_gen (s : State) (i : Nat) (f : OrxArb → OrxArb) :
    (modOrx s i f).gen = s.gen := by simp only [modOrx]
@[simp] theorem modOrx_out (s : State) (i : Nat) (f : OrxArb → OrxArb) :
    (modOrx s i f).out = s.out := by simp only [modOrx]
@[simp] theorem modOrx_pending (s : State) (i : Nat) (f : OrxArb → OrxArb) :
    (modOrx s i f).pending = s.pending := by simp only [modOrx]

/-! ### modLane -/

@[simp] theorem modLane_tb (s : State) (l : Nat) (f : Lane → Lane) :
    (modLane s l f).tb = s.tb := by simp only [modLane]
@[simp] theorem modLane_syn (s : State) (l : Nat) (f : Lane → Lane) :
    (modLane s l f).syn = s.syn := by simp only [modLane]
@[simp] theorem modLane_air (s : State) (l : Nat) (f : Lane → Lane) :
    (modLane s l f).air = s.air := by simp only [modLane]
@[simp] theorem modLane_mod (s : State) (l : Nat) (f : Lane → Lane) :
    (modLane s l f).mod = s.mod := by simp only [modLane]
@[simp] theorem modLane_host (s : State) (l : Nat) (f : Lane → Lane) :
    (modLane s l f).host = s.host := by simp only [modLane]
@[simp] theorem modLane_ldl (s : State) (l : Nat) (f : Lane → Lane) :
    (modLane s l f).ldl = s.ldl := by simp only [modLane]
@[simp] theorem modLane_fh (s : State) (l : Nat) (f : Lane → Lane) :
    (modLane s l f).fh = s.fh := by simp only [modLane]
@[simp] theorem modLane_cru (s : State) (l : Nat) (f : Lane → Lane) :
    (modLane s l f).cru = s.cru := by simp only [modLane]
@[simp] theorem modLane_run (s : State) (l : Nat) (f : Lane → Lane) :
    (modLane s l f).run = s.run := by simp only [modLane]
@[simp] theorem modLane_tx (s : State) (l : Nat) (f : Lane → Lane) :
    (modLane s l f).tx = s.tx := by simp only [modLane]
@[simp] theorem modLane_rx (s : State) (l : Nat) (f : Lane → Lane) :
    (modLane s l f).rx = s.rx := by simp only [modLane]
@[simp] theorem modLane_anl (s : State) (l : Nat) (f : Lane → Lane) :
    (modLane s l f).anl = s.anl := by simp only [modLane]
@[simp] theorem modLane_pwr (s : State) (l : Nat) (f : Lane → Lane) :
    (modLane s l f).pwr = s.pwr := by simp only [modLane]
@[simp] theorem modLane_hld (s : State) (l : Nat) (f : Lane → Lane) :
    (modLane s l f).hld = s.hld := by simp only [modLane]
@[simp] theorem modLane_thm (s : State) (l : Nat) (f : Lane → Lane) :
    (modLane s l f).thm = s.thm := by simp only [modLane]
@[simp] theorem modLane_hka (s : State) (l : Nat) (f : Lane → Lane) :
    (modLane s l f).hka = s.hka := by simp only [modLane]
@[simp] theorem modLane_bias (s : State) (l : Nat) (f : Lane → Lane) :
    (modLane s l f).bias = s.bias := by simp only [modLane]
@[simp] theorem modLane_hb (s : State) (l : Nat) (f : Lane → Lane) :
    (modLane s l f).hb = s.hb := by simp only [modLane]
@[simp] theorem modLane_fus (s : State) (l : Nat) (f : Lane → Lane) :
    (modLane s l f).fus = s.fus := by simp only [modLane]
@[simp] theorem modLane_gen (s : State) (l : Nat) (f : Lane → Lane) :
    (modLane s l f).gen = s.gen := by simp only [modLane]
@[simp] theorem modLane_out (s : State) (l : Nat) (f : Lane → Lane) :
    (modLane s l f).out = s.out := by simp only [modLane]
@[simp] theorem modLane_pending (s : State) (l : Nat) (f : Lane → Lane) :
    (modLane s l f).pending = s.pending := by simp only [modLane]

/-! ### modSynth -/

@[simp] theorem modSynth_tb (s : State) (n : Nat) (f : Synth → Synth) :
    (modSynth s n f).tb = s.tb := by simp only [modSynth]
@[simp] theorem modSynth_air (s : State) (n : Nat) (f : Synth → Synth) :
    (modSynth s n f).air = s.air := by simp only [modSynth]
@[simp] theorem modSynth_mod (s : State) (n : Nat) (f : Synth → Synth) :
    (modSynth s n f).mod = s.mod := by simp only [modSynth]
@[simp] theorem modSynth_host (s : State) (n : Nat) (f : Synth → Synth) :
    (modSynth s n f).host = s.host := by simp only [modSynth]
@[simp] theorem modSynth_ldl (s : State) (n : Nat) (f : Synth → Synth) :
    (modSynth s n f).ldl = s.ldl := by simp only [modSynth]
@[simp] theorem modSynth_lanes (s : State) (n : Nat) (f : Synth → Synth) :
    (modSynth s n f).lanes = s.lanes := by simp only [modSynth]
@[simp] theorem modSynth_fh (s : State) (n : Nat) (f : Synth → Synth) :
    (modSynth s n f).fh = s.fh := by simp only [modSynth]
@[simp] theorem modSynth_cru (s : State) (n : Nat) (f : Synth → Synth) :
    (modSynth s n f).cru = s.cru := by simp only [modSynth]
@[simp] theorem modSynth_run (s : State) (n : Nat) (f : Synth → Synth) :
    (modSynth s n f).run = s.run := by simp only [modSynth]
@[simp] theorem modSynth_tx (s : State) (n : Nat) (f : Synth → Synth) :
    (modSynth s n f).tx = s.tx := by simp only [modSynth]
@[simp] theorem modSynth_rx (s : State) (n : Nat) (f : Synth → Synth) :
    (modSynth s n f).rx = s.rx := by simp only [modSynth]
@[simp] theorem modSynth_anl (s : State) (n : Nat) (f : Synth → Synth) :
    (modSynth s n f).anl = s.anl := by simp only [modSynth]
@[simp] theorem modSynth_pwr (s : State) (n : Nat) (f : Synth → Synth) :
    (modSynth s n f).pwr = s.pwr := by simp only [modSynth]
@[simp] theorem modSynth_hld (s : State) (n : Nat) (f : Synth → Synth) :
    (modSynth s n f).hld = s.hld := by simp only [modSynth]
@[simp] theorem modSynth_thm (s : State) (n : Nat) (f : Synth → Synth) :
    (modSynth s n f).thm = s.thm := by simp only [modSynth]
@[simp] theorem modSynth_hka (s : State) (n : Nat) (f : Synth → Synth) :
    (modSynth s n f).hka = s.hka := by simp only [modSynth]
@[simp] theorem modSynth_bias (s : State) (n : Nat) (f : Synth → Synth) :
    (modSynth s n f).bias = s.bias := by simp only [modSynth]
@[simp] theorem modSynth_hb (s : State) (n : Nat) (f : Synth → Synth) :
    (modSynth s n f).hb = s.hb := by simp only [modSynth]
@[simp] theorem modSynth_fus (s : State) (n : Nat) (f : Synth → Synth) :
    (modSynth s n f).fus = s.fus := by simp only [modSynth]
@[simp] theorem modSynth_gen (s : State) (n : Nat) (f : Synth → Synth) :
    (modSynth s n f).gen = s.gen := by simp only [modSynth]
@[simp] theorem modSynth_out (s : State) (n : Nat) (f : Synth → Synth) :
    (modSynth s n f).out = s.out := by simp only [modSynth]
@[simp] theorem modSynth_pending (s : State) (n : Nat) (f : Synth → Synth) :
    (modSynth s n f).pending = s.pending := by simp only [modSynth]

/-! ### modPot -/

@[simp] theorem modPot_tb (s : State) (i : Nat) (f : Pot → Pot) :
    (modPot s i f).tb = s.tb := by simp only [modPot]
@[simp] theorem modPot_syn (s : State) (i : Nat) (f : Pot → Pot) :
    (modPot s i f).syn = s.syn := by simp only [modPot]
@[simp] theorem modPot_air (s : State) (i : Nat) (f : Pot → Pot) :
    (modPot s i f).air = s.air := by simp only [modPot]
@[simp] theorem modPot_mod (s : State) (i : Nat) (f : Pot → Pot) :
    (modPot s i f).mod = s.mod := by simp only [modPot]
@[simp] theorem modPot_host (s : State) (i : Nat) (f : Pot → Pot) :
    (modPot s i f).host = s.host := by simp only [modPot]
@[simp] theorem modPot_ldl (s : State) (i : Nat) (f : Pot → Pot) :
    (modPot s i f).ldl = s.ldl := by simp only [modPot]
@[simp] theorem modPot_lanes (s : State) (i : Nat) (f : Pot → Pot) :
    (modPot s i f).lanes = s.lanes := by simp only [modPot]
@[simp] theorem modPot_fh (s : State) (i : Nat) (f : Pot → Pot) :
    (modPot s i f).fh = s.fh := by simp only [modPot]
@[simp] theorem modPot_run (s : State) (i : Nat) (f : Pot → Pot) :
    (modPot s i f).run = s.run := by simp only [modPot]
@[simp] theorem modPot_tx (s : State) (i : Nat) (f : Pot → Pot) :
    (modPot s i f).tx = s.tx := by simp only [modPot]
@[simp] theorem modPot_rx (s : State) (i : Nat) (f : Pot → Pot) :
    (modPot s i f).rx = s.rx := by simp only [modPot]
@[simp] theorem modPot_anl (s : State) (i : Nat) (f : Pot → Pot) :
    (modPot s i f).anl = s.anl := by simp only [modPot]
@[simp] theorem modPot_pwr (s : State) (i : Nat) (f : Pot → Pot) :
    (modPot s i f).pwr = s.pwr := by simp only [modPot]
@[simp] theorem modPot_hld (s : State) (i : Nat) (f : Pot → Pot) :
    (modPot s i f).hld = s.hld := by simp only [modPot]
@[simp] theorem modPot_thm (s : State) (i : Nat) (f : Pot → Pot) :
    (modPot s i f).thm = s.thm := by simp only [modPot]
@[simp] theorem modPot_hka (s : State) (i : Nat) (f : Pot → Pot) :
    (modPot s i f).hka = s.hka := by simp only [modPot]
@[simp] theorem modPot_bias (s : State) (i : Nat) (f : Pot → Pot) :
    (modPot s i f).bias = s.bias := by simp only [modPot]
@[simp] theorem modPot_hb (s : State) (i : Nat) (f : Pot → Pot) :
    (modPot s i f).hb = s.hb := by simp only [modPot]
@[simp] theorem modPot_fus (s : State) (i : Nat) (f : Pot → Pot) :
    (modPot s i f).fus = s.fus := by simp only [modPot]
@[simp] theorem modPot_gen (s : State) (i : Nat) (f : Pot → Pot) :
    (modPot s i f).gen = s.gen := by simp only [modPot]
@[simp] theorem modPot_out (s : State) (i : Nat) (f : Pot → Pot) :
    (modPot s i f).out = s.out := by simp only [modPot]
@[simp] theorem modPot_pending (s : State) (i : Nat) (f : Pot → Pot) :
    (modPot s i f).pending = s.pending := by simp only [modPot]

/-! ### modSensor -/

@[simp] theorem modSensor_tb (s : State) (i : Nat) (f : Sensor → Sensor) :
    (modSensor s i f).tb = s.tb := by simp only [modSensor]
@[simp] theorem modSensor_syn (s : State) (i : Nat) (f : Sensor → Sensor) :
    (modSensor s i f).syn = s.syn := by simp only [modSensor]
@[simp] theorem modSensor_air (s : State) (i : Nat) (f : Sensor → Sensor) :
    (modSensor s i f).air = s.air := by simp only [modSensor]
@[simp] theorem modSensor_mod (s : State) (i : Nat) (f : Sensor → Sensor) :
    (modSensor s i f).mod = s.mod := by simp only [modSensor]
@[simp] theorem modSensor_host (s : State) (i : Nat) (f : Sensor → Sensor) :
    (modSensor s i f).host = s.host := by simp only [modSensor]
@[simp] theorem modSensor_ldl (s : State) (i : Nat) (f : Sensor → Sensor) :
    (modSensor s i f).ldl = s.ldl := by simp only [modSensor]
@[simp] theorem modSensor_lanes (s : State) (i : Nat) (f : Sensor → Sensor) :
    (modSensor s i f).lanes = s.lanes := by simp only [modSensor]
@[simp] theorem modSensor_fh (s : State) (i : Nat) (f : Sensor → Sensor) :
    (modSensor s i f).fh = s.fh := by simp only [modSensor]
@[simp] theorem modSensor_cru (s : State) (i : Nat) (f : Sensor → Sensor) :
    (modSensor s i f).cru = s.cru := by simp only [modSensor]
@[simp] theorem modSensor_run (s : State) (i : Nat) (f : Sensor → Sensor) :
    (modSensor s i f).run = s.run := by simp only [modSensor]
@[simp] theorem modSensor_tx (s : State) (i : Nat) (f : Sensor → Sensor) :
    (modSensor s i f).tx = s.tx := by simp only [modSensor]
@[simp] theorem modSensor_rx (s : State) (i : Nat) (f : Sensor → Sensor) :
    (modSensor s i f).rx = s.rx := by simp only [modSensor]
@[simp] theorem modSensor_anl (s : State) (i : Nat) (f : Sensor → Sensor) :
    (modSensor s i f).anl = s.anl := by simp only [modSensor]
@[simp] theorem modSensor_pwr (s : State) (i : Nat) (f : Sensor → Sensor) :
    (modSensor s i f).pwr = s.pwr := by simp only [modSensor]
@[simp] theorem modSensor_hld (s : State) (i : Nat) (f : Sensor → Sensor) :
    (modSensor s i f).hld = s.hld := by simp only [modSensor]
@[simp] theorem modSensor_hka (s : State) (i : Nat) (f : Sensor → Sensor) :
    (modSensor s i f).hka = s.hka := by simp only [modSensor]
@[simp] theorem modSensor_bias (s : State) (i : Nat) (f : Sensor → Sensor) :
    (modSensor s i f).bias = s.bias := by simp only [modSensor]
@[simp] theorem modSensor_hb (s : State) (i : Nat) (f : Sensor → Sensor) :
    (modSensor s i f).hb = s.hb := by simp only [modSensor]
@[simp] theorem modSensor_fus (s : State) (i : Nat) (f : Sensor → Sensor) :
    (modSensor s i f).fus = s.fus := by simp only [modSensor]
@[simp] theorem modSensor_gen (s : State) (i : Nat) (f : Sensor → Sensor) :
    (modSensor s i f).gen = s.gen := by simp only [modSensor]
@[simp] theorem modSensor_out (s : State) (i : Nat) (f : Sensor → Sensor) :
    (modSensor s i f).out = s.out := by simp only [modSensor]
@[simp] theorem modSensor_pending (s : State) (i : Nat) (f : Sensor → Sensor) :
    (modSensor s i f).pending = s.pending := by simp only [modSensor]

/-! ### modGroup -/

@[simp] theorem modGroup_tb (s : State) (i : Nat) (f : Group → Group) :
    (modGroup s i f).tb = s.tb := by simp only [modGroup]
@[simp] theorem modGroup_syn (s : State) (i : Nat) (f : Group → Group) :
    (modGroup s i f).syn = s.syn := by simp only [modGroup]
@[simp] theorem modGroup_air (s : State) (i : Nat) (f : Group → Group) :
    (modGroup s i f).air = s.air := by simp only [modGroup]
@[simp] theorem modGroup_mod (s : State) (i : Nat) (f : Group → Group) :
    (modGroup s i f).mod = s.mod := by simp only [modGroup]
@[simp] theorem modGroup_host (s : State) (i : Nat) (f : Group → Group) :
    (modGroup s i f).host = s.host := by simp only [modGroup]
@[simp] theorem modGroup_ldl (s : State) (i : Nat) (f : Group → Group) :
    (modGroup s i f).ldl = s.ldl := by simp only [modGroup]
@[simp] theorem modGroup_lanes (s : State) (i : Nat) (f : Group → Group) :
    (modGroup s i f).lanes = s.lanes := by simp only [modGroup]
@[simp] theorem modGroup_fh (s : State) (i : Nat) (f : Group → Group) :
    (modGroup s i f).fh = s.fh := by simp only [modGroup]
@[simp] theorem modGroup_cru (s : State) (i : Nat) (f : Group → Group) :
    (modGroup s i f).cru = s.cru := by simp only [modGroup]
@[simp] theorem modGroup_run (s : State) (i : Nat) (f : Group → Group) :
    (modGroup s i f).run = s.run := by simp only [modGroup]
@[simp] theorem modGroup_tx (s : State) (i : Nat) (f : Group → Group) :
    (modGroup s i f).tx = s.tx := by simp only [modGroup]
@[simp] theorem modGroup_rx (s : State) (i : Nat) (f : Group → Group) :
    (modGroup s i f).rx = s.rx := by simp only [modGroup]
@[simp] theorem modGroup_anl (s : State) (i : Nat) (f : Group → Group) :
    (modGroup s i f).anl = s.anl := by simp only [modGroup]
@[simp] theorem modGroup_pwr (s : State) (i : Nat) (f : Group → Group) :
    (modGroup s i f).pwr = s.pwr := by simp only [modGroup]
@[simp] theorem modGroup_hld (s : State) (i : Nat) (f : Group → Group) :
    (modGroup s i f).hld = s.hld := by simp only [modGroup]
@[simp] theorem modGroup_hka (s : State) (i : Nat) (f : Group → Group) :
    (modGroup s i f).hka = s.hka := by simp only [modGroup]
@[simp] theorem modGroup_bias (s : State) (i : Nat) (f : Group → Group) :
    (modGroup s i f).bias = s.bias := by simp only [modGroup]
@[simp] theorem modGroup_hb (s : State) (i : Nat) (f : Group → Group) :
    (modGroup s i f).hb = s.hb := by simp only [modGroup]
@[simp] theorem modGroup_fus (s : State) (i : Nat) (f : Group → Group) :
    (modGroup s i f).fus = s.fus := by simp only [modGroup]
@[simp] theorem modGroup_gen (s : State) (i : Nat) (f : Group → Group) :
    (modGroup s i f).gen = s.gen := by simp only [modGroup]
@[simp] theorem modGroup_out (s : State) (i : Nat) (f : Group → Group) :
    (modGroup s i f).out = s.out := by simp only [modGroup]
@[simp] theorem modGroup_pending (s : State) (i : Nat) (f : Group → Group) :
    (modGroup s i f).pending = s.pending := by simp only [modGroup]

/-! ### modFan -/

@[simp] theorem modFan_tb (s : State) (i : Nat) (f : Fan → Fan) :
    (modFan s i f).tb = s.tb := by simp only [modFan]
@[simp] theorem modFan_syn (s : State) (i : Nat) (f : Fan → Fan) :
    (modFan s i f).syn = s.syn := by simp only [modFan]
@[simp] theorem modFan_air (s : State) (i : Nat) (f : Fan → Fan) :
    (modFan s i f).air = s.air := by simp only [modFan]
@[simp] theorem modFan_mod (s : State) (i : Nat) (f : Fan → Fan) :
    (modFan s i f).mod = s.mod := by simp only [modFan]
@[simp] theorem modFan_host (s : State) (i : Nat) (f : Fan → Fan) :
    (modFan s i f).host = s.host := by simp only [modFan]
@[simp] theorem modFan_ldl (s : State) (i : Nat) (f : Fan → Fan) :
    (modFan s i f).ldl = s.ldl := by simp only [modFan]
@[simp] theorem modFan_lanes (s : State) (i : Nat) (f : Fan → Fan) :
    (modFan s i f).lanes = s.lanes := by simp only [modFan]
@[simp] theorem modFan_fh (s : State) (i : Nat) (f : Fan → Fan) :
    (modFan s i f).fh = s.fh := by simp only [modFan]
@[simp] theorem modFan_cru (s : State) (i : Nat) (f : Fan → Fan) :
    (modFan s i f).cru = s.cru := by simp only [modFan]
@[simp] theorem modFan_run (s : State) (i : Nat) (f : Fan → Fan) :
    (modFan s i f).run = s.run := by simp only [modFan]
@[simp] theorem modFan_tx (s : State) (i : Nat) (f : Fan → Fan) :
    (modFan s i f).tx = s.tx := by simp only [modFan]
@[simp] theorem modFan_rx (s : State) (i : Nat) (f : Fan → Fan) :
    (modFan s i f).rx = s.rx := by simp only [modFan]
@[simp] theorem modFan_anl (s : State) (i : Nat) (f : Fan → Fan) :
    (modFan s i f).anl = s.anl := by simp only [modFan]
@[simp] theorem modFan_pwr (s : State) (i : Nat) (f : Fan → Fan) :
    (modFan s i f).pwr = s.pwr := by simp only [modFan]
@[simp] theorem modFan_hld (s : State) (i : Nat) (f : Fan → Fan) :
    (modFan s i f).hld = s.hld := by simp only [modFan]
@[simp] theorem modFan_hka (s : State) (i : Nat) (f : Fan → Fan) :
    (modFan s i f).hka = s.hka := by simp only [modFan]
@[simp] theorem modFan_bias (s : State) (i : Nat) (f : Fan → Fan) :
    (modFan s i f).bias = s.bias := by simp only [modFan]
@[simp] theorem modFan_hb (s : State) (i : Nat) (f : Fan → Fan) :
    (modFan s i f).hb = s.hb := by simp only [modFan]
@[simp] theorem modFan_fus (s : State) (i : Nat) (f : Fan → Fan) :
    (modFan s i f).fus = s.fus := by simp only [modFan]
@[simp] theorem modFan_gen (s : State) (i : Nat) (f : Fan → Fan) :
    (modFan s i f).gen = s.gen := by simp only [modFan]
@[simp] theorem modFan_out (s : State) (i : Nat) (f : Fan → Fan) :
    (modFan s i f).out = s.out := by simp only [modFan]
@[simp] theorem modFan_pending (s : State) (i : Nat) (f : Fan → Fan) :
    (modFan s i f).pending = s.pending := by simp only [modFan]

/-! ### modBias -/

@[simp] theorem modBias_tb (s : State) (o : Nat) (f : BiasOut → BiasOut) :
    (modBias s o f).tb = s.tb := by simp only [modBias]
@[simp] theorem modBias_syn (s : State) (o : Nat) (f : BiasOut → BiasOut) :
    (modBias s o f).syn = s.syn := by simp only [modBias]
@[simp] theorem modBias_air (s : State) (o : Nat) (f : BiasOut → BiasOut) :
    (modBias s o f).air = s.air := by simp only [modBias]
@[simp] theorem modBias_mod (s : State) (o : Nat) (f : BiasOut → BiasOut) :
    (modBias s o f).mod = s.mod := by simp only [modBias]
@[simp] theorem modBias_host (s : State) (o : Nat) (f : BiasOut → BiasOut) :
    (modBias s o f).host = s.host := by simp only [modBias]
@[simp] theorem modBias_ldl (s : State) (o : Nat) (f : BiasOut → BiasOut) :
    (modBias s o f).ldl = s.ldl := by simp only [modBias]
@[simp] theorem modBias_lanes (s : State) (o : Nat) (f : BiasOut → BiasOut) :
    (modBias s o f).lanes = s.lanes := by simp only [modBias]
@[simp] theorem modBias_fh (s : State) (o : Nat) (f : BiasOut → BiasOut) :
    (modBias s o f).fh = s.fh := by simp only [modBias]
@[simp] theorem modBias_cru (s : State) (o : Nat) (f : BiasOut → BiasOut) :
    (modBias s o f).cru = s.cru := by simp only [modBias]
@[simp] theorem modBias_run (s : State) (o : Nat) (f : BiasOut → BiasOut) :
    (modBias s o f).run = s.run := by simp only [modBias]
@[simp] theorem modBias_tx (s : State) (o : Nat) (f : BiasOut → BiasOut) :
    (modBias s o f).tx = s.tx := by simp only [modBias]
@[simp] theorem modBias_rx (s : State) (o : Nat) (f : BiasOut → BiasOut) :
    (modBias s o f).rx = s.rx := by simp only [modBias]
@[simp] theorem modBias_anl (s : State) (o : Nat) (f : BiasOut → BiasOut) :
    (modBias s o f).anl = s.anl := by simp only [modBias]
@[simp] theorem modBias_pwr (s : State) (o : Nat) (f : BiasOut → BiasOut) :
    (modBias s o f).pwr = s.pwr := by simp only [modBias]
@[simp] theorem modBias_hld (s : State) (o : Nat) (f : BiasOut → BiasOut) :
    (modBias s o f).hld = s.hld := by simp only [modBias]
@[simp] theorem modBias_thm (s : State) (o : Nat) (f : BiasOut → BiasOut) :
    (modBias s o f).thm = s.thm := by simp only [modBias]
@[simp] theorem modBias_hka (s : State) (o : Nat) (f : BiasOut → BiasOut) :
    (modBias s o f).hka = s.hka := by simp only [modBias]
@[simp] theorem modBias_hb (s : State) (o : Nat) (f : BiasOut → BiasOut) :
    (modBias s o f).hb = s.hb := by simp only [modBias]
@[simp] theorem modBias_fus (s : State) (o : Nat) (f : BiasOut → BiasOut) :
    (modBias s o f).fus = s.fus := by simp only [modBias]
@[simp] theorem modBias_gen (s : State) (o : Nat) (f : BiasOut → BiasOut) :
    (modBias s o f).gen = s.gen := by simp only [modBias]
@[simp] theorem modBias_out (s : State) (o : Nat) (f : BiasOut → BiasOut) :
    (modBias s o f).out = s.out := by simp only [modBias]
@[simp] theorem modBias_pending (s : State) (o : Nat) (f : BiasOut → BiasOut) :
    (modBias s o f).pending = s.pending := by simp only [modBias]

/-! ### modModCc -/

@[simp] theorem modModCc_tb (s : State) (c : Nat) (f : ModCc → ModCc) :
    (modModCc s c f).tb = s.tb := by simp only [modModCc]
@[simp] theorem modModCc_syn (s : State) (c : Nat) (f : ModCc → ModCc) :
    (modModCc s c f).syn = s.syn := by simp only [modModCc]
@[simp] theorem modModCc_air (s : State) (c : Nat) (f : ModCc → ModCc) :
    (modModCc s c f).air = s.air := by simp only [modModCc]
@[simp] theorem modModCc_host (s : State) (c : Nat) (f : ModCc → ModCc) :
    (modModCc s c f).host = s.host := by simp only [modModCc]
@[simp] theorem modModCc_ldl (s : State) (c : Nat) (f : ModCc → ModCc) :
    (modModCc s c f).ldl = s.ldl := by simp only [modModCc]
@[simp] theorem modModCc_lanes (s : State) (c : Nat) (f : ModCc → ModCc) :
    (modModCc s c f).lanes = s.lanes := by simp only [modModCc]
@[simp] theorem modModCc_fh (s : State) (c : Nat) (f : ModCc → ModCc) :
    (modModCc s c f).fh = s.fh := by simp only [modModCc]
@[simp] theorem modModCc_cru (s : State) (c : Nat) (f : ModCc → ModCc) :
    (modModCc s c f).cru = s.cru := by simp only [modModCc]
@[simp] theorem modModCc_run (s : State) (c : Nat) (f : ModCc → ModCc) :
    (modModCc s c f).run = s.run := by simp only [modModCc]
@[simp] theorem modModCc_tx (s : State) (c : Nat) (f : ModCc → ModCc) :
    (modModCc s c f).tx = s.tx := by simp only [modModCc]
@[simp] theorem modModCc_rx (s : State) (c : Nat) (f : ModCc → ModCc) :
    (modModCc s c f).rx = s.rx := by simp only [modModCc]
@[simp] theorem modModCc_anl (s : State) (c : Nat) (f : ModCc → ModCc) :
    (modModCc s c f).anl = s.anl := by simp only [modModCc]
@[simp] theorem modModCc_pwr (s : State) (c : Nat) (f : ModCc → ModCc) :
    (modModCc s c f).pwr = s.pwr := by simp only [modModCc]
@[simp] theorem modModCc_hld (s : State) (c : Nat) (f : ModCc → ModCc) :
    (modModCc s c f).hld = s.hld := by simp only [modModCc]
@[simp] theorem modModCc_thm (s : State) (c : Nat) (f : ModCc → ModCc) :
    (modModCc s c f).thm = s.thm := by simp only [modModCc]
@[simp] theorem modModCc_hka (s : State) (c : Nat) (f : ModCc → ModCc) :
    (modModCc s c f).hka = s.hka := by simp only [modModCc]
@[simp] theorem modModCc_bias (s : State) (c : Nat) (f : ModCc → ModCc) :
    (modModCc s c f).bias = s.bias := by simp only [modModCc]
@[simp] theorem modModCc_hb (s : State) (c : Nat) (f : ModCc → ModCc) :
    (modModCc s c f).hb = s.hb := by simp only [modModCc]
@[simp] theorem modModCc_fus (s : State) (c : Nat) (f : ModCc → ModCc) :
    (modModCc s c f).fus = s.fus := by simp only [modModCc]
@[simp] theorem modModCc_gen (s : State) (c : Nat) (f : ModCc → ModCc) :
    (modModCc s c f).gen = s.gen := by simp only [modModCc]
@[simp] theorem modModCc_out (s : State) (c : Nat) (f : ModCc → ModCc) :
    (modModCc s c f).out = s.out := by simp only [modModCc]
@[simp] theorem modModCc_pending (s : State) (c : Nat) (f : ModCc → ModCc) :
    (modModCc s c f).pending = s.pending := by simp only [modModCc]

/-! ### modSide -/

@[simp] theorem modSide_tb (s : State) (d : Nat) (f : Side → Side) :
    (modSide s d f).tb = s.tb := by simp only [modSide]
@[simp] theorem modSide_syn (s : State) (d : Nat) (f : Side → Side) :
    (modSide s d f).syn = s.syn := by simp only [modSide]
@[simp] theorem modSide_air (s : State) (d : Nat) (f : Side → Side) :
    (modSide s d f).air = s.air := by simp only [modSide]
@[simp] theorem modSide_mod (s : State) (d : Nat) (f : Side → Side) :
    (modSide s d f).mod = s.mod := by simp only [modSide]
@[simp] theorem modSide_host (s : State) (d : Nat) (f : Side → Side) :
    (modSide s d f).host = s.host := by simp only [modSide]
@[simp] theorem modSide_ldl (s : State) (d : Nat) (f : Side → Side) :
    (modSide s d f).ldl = s.ldl := by simp only [modSide]
@[simp] theorem modSide_lanes (s : State) (d : Nat) (f : Side → Side) :
    (modSide s d f).lanes = s.lanes := by simp only [modSide]
@[simp] theorem modSide_fh (s : State) (d : Nat) (f : Side → Side) :
    (modSide s d f).fh = s.fh := by simp only [modSide]
@[simp] theorem modSide_cru (s : State) (d : Nat) (f : Side → Side) :
    (modSide s d f).cru = s.cru := by simp only [modSide]
@[simp] theorem modSide_tx (s : State) (d : Nat) (f : Side → Side) :
    (modSide s d f).tx = s.tx := by simp only [modSide]
@[simp] theorem modSide_rx (s : State) (d : Nat) (f : Side → Side) :
    (modSide s d f).rx = s.rx := by simp only [modSide]
@[simp] theorem modSide_anl (s : State) (d : Nat) (f : Side → Side) :
    (modSide s d f).anl = s.anl := by simp only [modSide]
@[simp] theorem modSide_pwr (s : State) (d : Nat) (f : Side → Side) :
    (modSide s d f).pwr = s.pwr := by simp only [modSide]
@[simp] theorem modSide_hld (s : State) (d : Nat) (f : Side → Side) :
    (modSide s d f).hld = s.hld := by simp only [modSide]
@[simp] theorem modSide_thm (s : State) (d : Nat) (f : Side → Side) :
    (modSide s d f).thm = s.thm := by simp only [modSide]
@[simp] theorem modSide_hka (s : State) (d : Nat) (f : Side → Side) :
    (modSide s d f).hka = s.hka := by simp only [modSide]
@[simp] theorem modSide_bias (s : State) (d : Nat) (f : Side → Side) :
    (modSide s d f).bias = s.bias := by simp only [modSide]
@[simp] theorem modSide_hb (s : State) (d : Nat) (f : Side → Side) :
    (modSide s d f).hb = s.hb := by simp only [modSide]
@[simp] theorem modSide_fus (s : State) (d : Nat) (f : Side → Side) :
    (modSide s d f).fus = s.fus := by simp only [modSide]
@[simp] theorem modSide_gen (s : State) (d : Nat) (f : Side → Side) :
    (modSide s d f).gen = s.gen := by simp only [modSide]
@[simp] theorem modSide_out (s : State) (d : Nat) (f : Side → Side) :
    (modSide s d f).out = s.out := by simp only [modSide]
@[simp] theorem modSide_pending (s : State) (d : Nat) (f : Side → Side) :
    (modSide s d f).pending = s.pending := by simp only [modSide]

/-! ### modCh -/

@[simp] theorem modCh_tb (s : State) (c : Nat) (f : LdlCh → LdlCh) :
    (modCh s c f).tb = s.tb := by simp only [modCh]
@[simp] theorem modCh_syn (s : State) (c : Nat) (f : LdlCh → LdlCh) :
    (modCh s c f).syn = s.syn := by simp only [modCh]
@[simp] theorem modCh_air (s : State) (c : Nat) (f : LdlCh → LdlCh) :
    (modCh s c f).air = s.air := by simp only [modCh]
@[simp] theorem modCh_mod (s : State) (c : Nat) (f : LdlCh → LdlCh) :
    (modCh s c f).mod = s.mod := by simp only [modCh]
@[simp] theorem modCh_host (s : State) (c : Nat) (f : LdlCh → LdlCh) :
    (modCh s c f).host = s.host := by simp only [modCh]
@[simp] theorem modCh_lanes (s : State) (c : Nat) (f : LdlCh → LdlCh) :
    (modCh s c f).lanes = s.lanes := by simp only [modCh]
@[simp] theorem modCh_fh (s : State) (c : Nat) (f : LdlCh → LdlCh) :
    (modCh s c f).fh = s.fh := by simp only [modCh]
@[simp] theorem modCh_cru (s : State) (c : Nat) (f : LdlCh → LdlCh) :
    (modCh s c f).cru = s.cru := by simp only [modCh]
@[simp] theorem modCh_run (s : State) (c : Nat) (f : LdlCh → LdlCh) :
    (modCh s c f).run = s.run := by simp only [modCh]
@[simp] theorem modCh_tx (s : State) (c : Nat) (f : LdlCh → LdlCh) :
    (modCh s c f).tx = s.tx := by simp only [modCh]
@[simp] theorem modCh_rx (s : State) (c : Nat) (f : LdlCh → LdlCh) :
    (modCh s c f).rx = s.rx := by simp only [modCh]
@[simp] theorem modCh_anl (s : State) (c : Nat) (f : LdlCh → LdlCh) :
    (modCh s c f).anl = s.anl := by simp only [modCh]
@[simp] theorem modCh_pwr (s : State) (c : Nat) (f : LdlCh → LdlCh) :
    (modCh s c f).pwr = s.pwr := by simp only [modCh]
@[simp] theorem modCh_hld (s : State) (c : Nat) (f : LdlCh → LdlCh) :
    (modCh s c f).hld = s.hld := by simp only [modCh]
@[simp] theorem modCh_thm (s : State) (c : Nat) (f : LdlCh → LdlCh) :
    (modCh s c f).thm = s.thm := by simp only [modCh]
@[simp] theorem modCh_hka (s : State) (c : Nat) (f : LdlCh → LdlCh) :
    (modCh s c f).hka = s.hka := by simp only [modCh]
@[simp] theorem modCh_bias (s : State) (c : Nat) (f : LdlCh → LdlCh) :
    (modCh s c f).bias = s.bias := by simp only [modCh]
@[simp] theorem modCh_hb (s : State) (c : Nat) (f : LdlCh → LdlCh) :
    (modCh s c f).hb = s.hb := by simp only [modCh]
@[simp] theorem modCh_fus (s : State) (c : Nat) (f : LdlCh → LdlCh) :
    (modCh s c f).fus = s.fus := by simp only [modCh]
@[simp] theorem modCh_gen (s : State) (c : Nat) (f : LdlCh → LdlCh) :
    (modCh s c f).gen = s.gen := by simp only [modCh]
@[simp] theorem modCh_out (s : State) (c : Nat) (f : LdlCh → LdlCh) :
    (modCh s c f).out = s.out := by simp only [modCh]
@[simp] theorem modCh_pending (s : State) (c : Nat) (f : LdlCh → LdlCh) :
    (modCh s c f).pending = s.pending := by simp only [modCh]

/-! ### modFb -/

@[simp] theorem modFb_tb (s : State) (c : Nat) (f : AsyFb → AsyFb) :
    (modFb s c f).tb = s.tb := by simp only [modFb]
@[simp] theorem modFb_syn (s : State) (c : Nat) (f : AsyFb → AsyFb) :
    (modFb s c f).syn = s.syn := by simp only [modFb]
@[simp] theorem modFb_air (s : State) (c : Nat) (f : AsyFb → AsyFb) :
    (modFb s c f).air = s.air := by simp only [modFb]
@[simp] theorem modFb_mod (s : State) (c : Nat) (f : AsyFb → AsyFb) :
    (modFb s c f).mod = s.mod := by simp only [modFb]
@[simp] theorem modFb_host (s : State) (c : Nat) (f : AsyFb → AsyFb) :
    (modFb s c f).host = s.host := by simp only [modFb]
@[simp] theorem modFb_lanes (s : State) (c : Nat) (f : AsyFb → AsyFb) :
    (modFb s c f).lanes = s.lanes := by simp only [modFb]
@[simp] theorem modFb_fh (s : State) (c : Nat) (f : AsyFb → AsyFb) :
    (modFb s c f).fh = s.fh := by simp only [modFb]
@[simp] theorem modFb_cru (s : State) (c : Nat) (f : AsyFb → AsyFb) :
    (modFb s c f).cru = s.cru := by simp only [modFb]
@[simp] theorem modFb_run (s : State) (c : Nat) (f : AsyFb → AsyFb) :
    (modFb s c f).run = s.run := by simp only [modFb]
@[simp] theorem modFb_tx (s : State) (c : Nat) (f : AsyFb → AsyFb) :
    (modFb s c f).tx = s.tx := by simp only [modFb]
@[simp] theorem modFb_rx (s : State) (c : Nat) (f : AsyFb → AsyFb) :
    (modFb s c f).rx = s.rx := by simp only [modFb]
@[simp] theorem modFb_anl (s : State) (c : Nat) (f : AsyFb → AsyFb) :
    (modFb s c f).anl = s.anl := by simp only [modFb]
@[simp] theorem modFb_pwr (s : State) (c : Nat) (f : AsyFb → AsyFb) :
    (modFb s c f).pwr = s.pwr := by simp only [modFb]
@[simp] theorem modFb_hld (s : State) (c : Nat) (f : AsyFb → AsyFb) :
    (modFb s c f).hld = s.hld := by simp only [modFb]
@[simp] theorem modFb_thm (s : State) (c : Nat) (f : AsyFb → AsyFb) :
    (modFb s c f).thm = s.thm := by simp only [modFb]
@[simp] theorem modFb_hka (s : State) (c : Nat) (f : AsyFb → AsyFb) :
    (modFb s c f).hka = s.hka := by simp only [modFb]
@[simp] theorem modFb_bias (s : State) (c : Nat) (f : AsyFb → AsyFb) :
    (modFb s c f).bias = s.bias := by simp only [modFb]
@[simp] theorem modFb_hb (s : State) (c : Nat) (f : AsyFb → AsyFb) :
    (modFb s c f).hb = s.hb := by simp only [modFb]
@[simp] theorem modFb_fus (s : State) (c : Nat) (f : AsyFb → AsyFb) :
    (modFb s c f).fus = s.fus := by simp only [modFb]
@[simp] theorem modFb_gen (s : State) (c : Nat) (f : AsyFb → AsyFb) :
    (modFb s c f).gen = s.gen := by simp only [modFb]
@[simp] theorem modFb_out (s : State) (c : Nat) (f : AsyFb → AsyFb) :
    (modFb s c f).out = s.out := by simp only [modFb]
@[simp] theorem modFb_pending (s : State) (c : Nat) (f : AsyFb → AsyFb) :
    (modFb s c f).pending = s.pending := by simp only [modFb]

/-! ### modCmp -/

@[simp] theorem modCmp_tb (s : State) (k : Nat) (f : Cmp → Cmp) :
    (modCmp s k f).tb = s.tb := by simp only [modCmp]
@[simp] theorem modCmp_syn (s : State) (k : Nat) (f : Cmp → Cmp) :
    (modCmp s k f).syn = s.syn := by simp only [modCmp]
@[simp] theorem modCmp_air (s : State) (k : Nat) (f : Cmp → Cmp) :
    (modCmp s k f).air = s.air := by simp only [modCmp]
@[simp] theorem modCmp_mod (s : State) (k : Nat) (f : Cmp → Cmp) :
    (modCmp s k f).mod = s.mod := by simp only [modCmp]
@[simp] theorem modCmp_host (s : State) (k : Nat) (f : Cmp → Cmp) :
    (modCmp s k f).host = s.host := by simp only [modCmp]
@[simp] theorem modCmp_ldl (s : State) (k : Nat) (f : Cmp → Cmp) :
    (modCmp s k f).ldl = s.ldl := by simp only [modCmp]
@[simp] theorem modCmp_lanes (s : State) (k : Nat) (f : Cmp → Cmp) :
    (modCmp s k f).lanes = s.lanes := by simp only [modCmp]
@[simp] theorem modCmp_fh (s : State) (k : Nat) (f : Cmp → Cmp) :
    (modCmp s k f).fh = s.fh := by simp only [modCmp]
@[simp] theorem modCmp_cru (s : State) (k : Nat) (f : Cmp → Cmp) :
    (modCmp s k f).cru = s.cru := by simp only [modCmp]
@[simp] theorem modCmp_run (s : State) (k : Nat) (f : Cmp → Cmp) :
    (modCmp s k f).run = s.run := by simp only [modCmp]
@[simp] theorem modCmp_tx (s : State) (k : Nat) (f : Cmp → Cmp) :
    (modCmp s k f).tx = s.tx := by simp only [modCmp]
@[simp] theorem modCmp_rx (s : State) (k : Nat) (f : Cmp → Cmp) :
    (modCmp s k f).rx = s.rx := by simp only [modCmp]
@[simp] theorem modCmp_anl (s : State) (k : Nat) (f : Cmp → Cmp) :
    (modCmp s k f).anl = s.anl := by simp only [modCmp]
@[simp] theorem modCmp_pwr (s : State) (k : Nat) (f : Cmp → Cmp) :
    (modCmp s k f).pwr = s.pwr := by simp only [modCmp]
@[simp] theorem modCmp_hld (s : State) (k : Nat) (f : Cmp → Cmp) :
    (modCmp s k f).hld = s.hld := by simp only [modCmp]
@[simp] theorem modCmp_thm (s : State) (k : Nat) (f : Cmp → Cmp) :
    (modCmp s k f).thm = s.thm := by simp only [modCmp]
@[simp] theorem modCmp_bias (s : State) (k : Nat) (f : Cmp → Cmp) :
    (modCmp s k f).bias = s.bias := by simp only [modCmp]
@[simp] theorem modCmp_hb (s : State) (k : Nat) (f : Cmp → Cmp) :
    (modCmp s k f).hb = s.hb := by simp only [modCmp]
@[simp] theorem modCmp_fus (s : State) (k : Nat) (f : Cmp → Cmp) :
    (modCmp s k f).fus = s.fus := by simp only [modCmp]
@[simp] theorem modCmp_gen (s : State) (k : Nat) (f : Cmp → Cmp) :
    (modCmp s k f).gen = s.gen := by simp only [modCmp]
@[simp] theorem modCmp_out (s : State) (k : Nat) (f : Cmp → Cmp) :
    (modCmp s k f).out = s.out := by simp only [modCmp]
@[simp] theorem modCmp_pending (s : State) (k : Nat) (f : Cmp → Cmp) :
    (modCmp s k f).pending = s.pending := by simp only [modCmp]

/-! ### modCorr -/

@[simp] theorem modCorr_tb (s : State) (p : Nat) (f : AnlCorr → AnlCorr) :
    (modCorr s p f).tb = s.tb := by simp only [modCorr]
@[simp] theorem modCorr_syn (s : State) (p : Nat) (f : AnlCorr → AnlCorr) :
    (modCorr s p f).syn = s.syn := by simp only [modCorr]
@[simp] theorem modCorr_air (s : State) (p : Nat) (f : AnlCorr → AnlCorr) :
    (modCorr s p f).air = s.air := by simp only [modCorr]
@[simp] theorem modCorr_mod (s : State) (p : Nat) (f : AnlCorr → AnlCorr) :
    (modCorr s p f).mod = s.mod := by simp only [modCorr]
@[simp] theorem modCorr_host (s : State) (p : Nat) (f : AnlCorr → AnlCorr) :
    (modCorr s p f).host = s.host := by simp only [modCorr]
@[simp] theorem modCorr_ldl (s : State) (p : Nat) (f : AnlCorr → AnlCorr) :
    (modCorr s p f).ldl = s.ldl := by simp only [modCorr]
@[simp] theorem modCorr_lanes (s : State) (p : Nat) (f : AnlCorr → AnlCorr) :
    (modCorr s p f).lanes = s.lanes := by simp only [modCorr]
@[simp] theorem modCorr_fh (s : State) (p : Nat) (f : AnlCorr → AnlCorr) :
    (modCorr s p f).fh = s.fh := by simp only [modCorr]
@[simp] theorem modCorr_cru (s : State) (p : Nat) (f : AnlCorr → AnlCorr) :
    (modCorr s p f).cru = s.cru := by simp only [modCorr]
@[simp] theorem modCorr_run (s : State) (p : Nat) (f : AnlCorr → AnlCorr) :
    (modCorr s p f).run = s.run := by simp only [modCorr]
@[simp] theorem modCorr_tx (s : State) (p : Nat) (f : AnlCorr → AnlCorr) :
    (modCorr s p f).tx = s.tx := by simp only [modCorr]
@[simp] theorem modCorr_rx (s : State) (p : Nat) (f : AnlCorr → AnlCorr) :
    (modCorr s p f).rx = s.rx := by simp only [modCorr]
@[simp] theorem modCorr_pwr (s : State) (p : Nat) (f : AnlCorr → AnlCorr) :
    (modCorr s p f).pwr = s.pwr := by simp only [modCorr]
@[simp] theorem modCorr_hld (s : State) (p : Nat) (f : AnlCorr → AnlCorr) :
    (modCorr s p f).hld = s.hld := by simp only [modCorr]
@[simp] theorem modCorr_thm (s : State) (p : Nat) (f : AnlCorr → AnlCorr) :
    (modCorr s p f).thm = s.thm := by simp only [modCorr]
@[simp] theorem modCorr_hka (s : State) (p : Nat) (f : AnlCorr → AnlCorr) :
    (modCorr s p f).hka = s.hka := by simp only [modCorr]
@[simp] theorem modCorr_bias (s : State) (p : Nat) (f : AnlCorr → AnlCorr) :
    (modCorr s p f).bias = s.bias := by simp only [modCorr]
@[simp] theorem modCorr_hb (s : State) (p : Nat) (f : AnlCorr → AnlCorr) :
    (modCorr s p f).hb = s.hb := by simp only [modCorr]
@[simp] theorem modCorr_fus (s : State) (p : Nat) (f : AnlCorr → AnlCorr) :
    (modCorr s p f).fus = s.fus := by simp only [modCorr]
@[simp] theorem modCorr_gen (s : State) (p : Nat) (f : AnlCorr → AnlCorr) :
    (modCorr s p f).gen = s.gen := by simp only [modCorr]
@[simp] theorem modCorr_out (s : State) (p : Nat) (f : AnlCorr → AnlCorr) :
    (modCorr s p f).out = s.out := by simp only [modCorr]
@[simp] theorem modCorr_pending (s : State) (p : Nat) (f : AnlCorr → AnlCorr) :
    (modCorr s p f).pending = s.pending := by simp only [modCorr]

/-! ### hbCount -/

@[simp] theorem hbCount_tb (s : State) (i : Nat) :
    (hbCount s i).tb = s.tb := by simp only [hbCount]
@[simp] theorem hbCount_syn (s : State) (i : Nat) :
    (hbCount s i).syn = s.syn := by simp only [hbCount]
@[simp] theorem hbCount_air (s : State) (i : Nat) :
    (hbCount s i).air = s.air := by simp only [hbCount]
@[simp] theorem hbCount_mod (s : State) (i : Nat) :
    (hbCount s i).mod = s.mod := by simp only [hbCount]
@[simp] theorem hbCount_host (s : State) (i : Nat) :
    (hbCount s i).host = s.host := by simp only [hbCount]
@[simp] theorem hbCount_ldl (s : State) (i : Nat) :
    (hbCount s i).ldl = s.ldl := by simp only [hbCount]
@[simp] theorem hbCount_lanes (s : State) (i : Nat) :
    (hbCount s i).lanes = s.lanes := by simp only [hbCount]
@[simp] theorem hbCount_fh (s : State) (i : Nat) :
    (hbCount s i).fh = s.fh := by simp only [hbCount]
@[simp] theorem hbCount_cru (s : State) (i : Nat) :
    (hbCount s i).cru = s.cru := by simp only [hbCount]
@[simp] theorem hbCount_run (s : State) (i : Nat) :
    (hbCount s i).run = s.run := by simp only [hbCount]
@[simp] theorem hbCount_tx (s : State) (i : Nat) :
    (hbCount s i).tx = s.tx := by simp only [hbCount]
@[simp] theorem hbCount_rx (s : State) (i : Nat) :
    (hbCount s i).rx = s.rx := by simp only [hbCount]
@[simp] theorem hbCount_anl (s : State) (i : Nat) :
    (hbCount s i).anl = s.anl := by simp only [hbCount]
@[simp] theorem hbCount_pwr (s : State) (i : Nat) :
    (hbCount s i).pwr = s.pwr := by simp only [hbCount]
@[simp] theorem hbCount_hld (s : State) (i : Nat) :
    (hbCount s i).hld = s.hld := by simp only [hbCount]
@[simp] theorem hbCount_thm (s : State) (i : Nat) :
    (hbCount s i).thm = s.thm := by simp only [hbCount]
@[simp] theorem hbCount_hka (s : State) (i : Nat) :
    (hbCount s i).hka = s.hka := by simp only [hbCount]
@[simp] theorem hbCount_bias (s : State) (i : Nat) :
    (hbCount s i).bias = s.bias := by simp only [hbCount]
@[simp] theorem hbCount_fus (s : State) (i : Nat) :
    (hbCount s i).fus = s.fus := by simp only [hbCount]
@[simp] theorem hbCount_gen (s : State) (i : Nat) :
    (hbCount s i).gen = s.gen := by simp only [hbCount]
@[simp] theorem hbCount_out (s : State) (i : Nat) :
    (hbCount s i).out = s.out := by simp only [hbCount]
@[simp] theorem hbCount_pending (s : State) (i : Nat) :
    (hbCount s i).pending = s.pending := by simp only [hbCount]

/-! ### linesIdle -/

@[simp] theorem linesIdle_tb (s : State) (f : Nat → Bool) :
    (linesIdle s f).tb = s.tb := by simp only [linesIdle]
@[simp] theorem linesIdle_syn (s : State) (f : Nat → Bool) :
    (linesIdle s f).syn = s.syn := by simp only [linesIdle]
@[simp] theorem linesIdle_air (s : State) (f : Nat → Bool) :
    (linesIdle s f).air = s.air := by simp only [linesIdle]
@[simp] theorem linesIdle_mod (s : State) (f : Nat → Bool) :
    (linesIdle s f).mod = s.mod := by simp only [linesIdle]
@[simp] theorem linesIdle_host (s : State) (f : Nat → Bool) :
    (linesIdle s f).host = s.host := by simp only [linesIdle]
@[simp] theorem linesIdle_ldl (s : State) (f : Nat → Bool) :
    (linesIdle s f).ldl = s.ldl := by simp only [linesIdle]
@[simp] theorem linesIdle_lanes (s : State) (f : Nat → Bool) :
    (linesIdle s f).lanes = s.lanes := by simp only [linesIdle]
@[simp] theorem linesIdle_fh (s : State) (f : Nat → Bool) :
    (linesIdle s f).fh = s.fh := by simp only [linesIdle]
@[simp] theorem linesIdle_cru (s : State) (f : Nat → Bool) :
    (linesIdle s f).cru = s.cru := by simp only [linesIdle]
@[simp] theorem linesIdle_run (s : State) (f : Nat → Bool) :
    (linesIdle s f).run = s.run := by simp only [linesIdle]
@[simp] theorem linesIdle_anl (s : State) (f : Nat → Bool) :
    (linesIdle s f).anl = s.anl := by simp only [linesIdle]
@[simp] theorem linesIdle_pwr (s : State) (f : Nat → Bool) :
    (linesIdle s f).pwr = s.pwr := by simp only [linesIdle]
@[simp] theorem linesIdle_hld (s : State) (f : Nat → Bool) :
    (linesIdle s f).hld = s.hld := by simp only [linesIdle]
@[simp] theorem linesIdle_thm (s : State) (f : Nat → Bool) :
    (linesIdle s f).thm = s.thm := by simp only [linesIdle]
@[simp] theorem linesIdle_hka (s : State) (f : Nat → Bool) :
    (linesIdle s f).hka = s.hka := by simp only [linesIdle]
@[simp] theorem linesIdle_bias (s : State) (f : Nat → Bool) :
    (linesIdle s f).bias = s.bias := by simp only [linesIdle]
@[simp] theorem linesIdle_hb (s : State) (f : Nat → Bool) :
    (linesIdle s f).hb = s.hb := by simp only [linesIdle]
@[simp] theorem linesIdle_fus (s : State) (f : Nat → Bool) :
    (linesIdle s f).fus = s.fus := by simp only [linesIdle]
@[simp] theorem linesIdle_gen (s : State) (f : Nat → Bool) :
    (linesIdle s f).gen = s.gen := by simp only [linesIdle]
@[simp] theorem linesIdle_out (s : State) (f : Nat → Bool) :
    (linesIdle s f).out = s.out := by simp only [linesIdle]
@[simp] theorem linesIdle_pending (s : State) (f : Nat → Bool) :
    (linesIdle s f).pending = s.pending := by simp only [linesIdle]

/-! ### linesCut -/

@[simp] theorem linesCut_tb (s : State) (f : Nat → Bool) :
    (linesCut s f).tb = s.tb := by simp only [linesCut]
@[simp] theorem linesCut_syn (s : State) (f : Nat → Bool) :
    (linesCut s f).syn = s.syn := by simp only [linesCut]
@[simp] theorem linesCut_air (s : State) (f : Nat → Bool) :
    (linesCut s f).air = s.air := by simp only [linesCut]
@[simp] theorem linesCut_mod (s : State) (f : Nat → Bool) :
    (linesCut s f).mod = s.mod := by simp only [linesCut]
@[simp] theorem linesCut_host (s : State) (f : Nat → Bool) :
    (linesCut s f).host = s.host := by simp only [linesCut]
@[simp] theorem linesCut_ldl (s : State) (f : Nat → Bool) :
    (linesCut s f).ldl = s.ldl := by simp only [linesCut]
@[simp] theorem linesCut_lanes (s : State) (f : Nat → Bool) :
    (linesCut s f).lanes = s.lanes := by simp only [linesCut]
@[simp] theorem linesCut_fh (s : State) (f : Nat → Bool) :
    (linesCut s f).fh = s.fh := by simp only [linesCut]
@[simp] theorem linesCut_cru (s : State) (f : Nat → Bool) :
    (linesCut s f).cru = s.cru := by simp only [linesCut]
@[simp] theorem linesCut_run (s : State) (f : Nat → Bool) :
    (linesCut s f).run = s.run := by simp only [linesCut]
@[simp] theorem linesCut_rx (s : State) (f : Nat → Bool) :
    (linesCut s f).rx = s.rx := by simp only [linesCut]
@[simp] theorem linesCut_anl (s : State) (f : Nat → Bool) :
    (linesCut s f).anl = s.anl := by simp only [linesCut]
@[simp] theorem linesCut_pwr (s : State) (f : Nat → Bool) :
    (linesCut s f).pwr = s.pwr := by simp only [linesCut]
@[simp] theorem linesCut_hld (s : State) (f : Nat → Bool) :
    (linesCut s f).hld = s.hld := by simp only [linesCut]
@[simp] theorem linesCut_thm (s : State) (f : Nat → Bool) :
    (linesCut s f).thm = s.thm := by simp only [linesCut]
@[simp] theorem linesCut_hka (s : State) (f : Nat → Bool) :
    (linesCut s f).hka = s.hka := by simp only [linesCut]
@[simp] theorem linesCut_bias (s : State) (f : Nat → Bool) :
    (linesCut s f).bias = s.bias := by simp only [linesCut]
@[simp] theorem linesCut_hb (s : State) (f : Nat → Bool) :
    (linesCut s f).hb = s.hb := by simp only [linesCut]
@[simp] theorem linesCut_fus (s : State) (f : Nat → Bool) :
    (linesCut s f).fus = s.fus := by simp only [linesCut]
@[simp] theorem linesCut_gen (s : State) (f : Nat → Bool) :
    (linesCut s f).gen = s.gen := by simp only [linesCut]
@[simp] theorem linesCut_out (s : State) (f : Nat → Bool) :
    (linesCut s f).out = s.out := by simp only [linesCut]
@[simp] theorem linesCut_pending (s : State) (f : Nat → Bool) :
    (linesCut s f).pending = s.pending := by simp only [linesCut]

/-! ### biasForce -/

@[simp] theorem biasForce_tb (s : State) :
    (biasForce s).tb = s.tb := by simp only [biasForce]
@[simp] theorem biasForce_syn (s : State) :
    (biasForce s).syn = s.syn := by simp only [biasForce]
@[simp] theorem biasForce_air (s : State) :
    (biasForce s).air = s.air := by simp only [biasForce]
@[simp] theorem biasForce_mod (s : State) :
    (biasForce s).mod = s.mod := by simp only [biasForce]
@[simp] theorem biasForce_host (s : State) :
    (biasForce s).host = s.host := by simp only [biasForce]
@[simp] theorem biasForce_ldl (s : State) :
    (biasForce s).ldl = s.ldl := by simp only [biasForce]
@[simp] theorem biasForce_lanes (s : State) :
    (biasForce s).lanes = s.lanes := by simp only [biasForce]
@[simp] theorem biasForce_fh (s : State) :
    (biasForce s).fh = s.fh := by simp only [biasForce]
@[simp] theorem biasForce_cru (s : State) :
    (biasForce s).cru = s.cru := by simp only [biasForce]
@[simp] theorem biasForce_run (s : State) :
    (biasForce s).run = s.run := by simp only [biasForce]
@[simp] theorem biasForce_tx (s : State) :
    (biasForce s).tx = s.tx := by simp only [biasForce]
@[simp] theorem biasForce_rx (s : State) :
    (biasForce s).rx = s.rx := by simp only [biasForce]
@[simp] theorem biasForce_anl (s : State) :
    (biasForce s).anl = s.anl := by simp only [biasForce]
@[simp] theorem biasForce_pwr (s : State) :
    (biasForce s).pwr = s.pwr := by simp only [biasForce]
@[simp] theorem biasForce_hld (s : State) :
    (biasForce s).hld = s.hld := by simp only [biasForce]
@[simp] theorem biasForce_thm (s : State) :
    (biasForce s).thm = s.thm := by simp only [biasForce]
@[simp] theorem biasForce_hka (s : State) :
    (biasForce s).hka = s.hka := by simp only [biasForce]
@[simp] theorem biasForce_hb (s : State) :
    (biasForce s).hb = s.hb := by simp only [biasForce]
@[simp] theorem biasForce_fus (s : State) :
    (biasForce s).fus = s.fus := by simp only [biasForce]
@[simp] theorem biasForce_gen (s : State) :
    (biasForce s).gen = s.gen := by simp only [biasForce]
@[simp] theorem biasForce_out (s : State) :
    (biasForce s).out = s.out := by simp only [biasForce]
@[simp] theorem biasForce_pending (s : State) :
    (biasForce s).pending = s.pending := by simp only [biasForce]

/-! ### biasShow -/

@[simp] theorem biasShow_tb (s : State) :
    (biasShow s).tb = s.tb := by simp only [biasShow]
@[simp] theorem biasShow_syn (s : State) :
    (biasShow s).syn = s.syn := by simp only [biasShow]
@[simp] theorem biasShow_air (s : State) :
    (biasShow s).air = s.air := by simp only [biasShow]
@[simp] theorem biasShow_mod (s : State) :
    (biasShow s).mod = s.mod := by simp only [biasShow]
@[simp] theorem biasShow_host (s : State) :
    (biasShow s).host = s.host := by simp only [biasShow]
@[simp] theorem biasShow_ldl (s : State) :
    (biasShow s).ldl = s.ldl := by simp only [biasShow]
@[simp] theorem biasShow_lanes (s : State) :
    (biasShow s).lanes = s.lanes := by simp only [biasShow]
@[simp] theorem biasShow_fh (s : State) :
    (biasShow s).fh = s.fh := by simp only [biasShow]
@[simp] theorem biasShow_cru (s : State) :
    (biasShow s).cru = s.cru := by simp only [biasShow]
@[simp] theorem biasShow_run (s : State) :
    (biasShow s).run = s.run := by simp only [biasShow]
@[simp] theorem biasShow_tx (s : State) :
    (biasShow s).tx = s.tx := by simp only [biasShow]
@[simp] theorem biasShow_rx (s : State) :
    (biasShow s).rx = s.rx := by simp only [biasShow]
@[simp] theorem biasShow_anl (s : State) :
    (biasShow s).anl = s.anl := by simp only [biasShow]
@[simp] theorem biasShow_pwr (s : State) :
    (biasShow s).pwr = s.pwr := by simp only [biasShow]
@[simp] theorem biasShow_hld (s : State) :
    (biasShow s).hld = s.hld := by simp only [biasShow]
@[simp] theorem biasShow_thm (s : State) :
    (biasShow s).thm = s.thm := by simp only [biasShow]
@[simp] theorem biasShow_hka (s : State) :
    (biasShow s).hka = s.hka := by simp only [biasShow]
@[simp] theorem biasShow_hb (s : State) :
    (biasShow s).hb = s.hb := by simp only [biasShow]
@[simp] theorem biasShow_fus (s : State) :
    (biasShow s).fus = s.fus := by simp only [biasShow]
@[simp] theorem biasShow_gen (s : State) :
    (biasShow s).gen = s.gen := by simp only [biasShow]
@[simp] theorem biasShow_out (s : State) :
    (biasShow s).out = s.out := by simp only [biasShow]
@[simp] theorem biasShow_pending (s : State) :
    (biasShow s).pending = s.pending := by simp only [biasShow]

/-! ### respond -/

@[simp] theorem respond_tb (s : State) (r : Resp) :
    (respond s r).tb = s.tb := by simp only [respond]
@[simp] theorem respond_syn (s : State) (r : Resp) :
    (respond s r).syn = s.syn := by simp only [respond]
@[simp] theorem respond_air (s : State) (r : Resp) :
    (respond s r).air = s.air := by simp only [respond]
@[simp] theorem respond_mod (s : State) (r : Resp) :
    (respond s r).mod = s.mod := by simp only [respond]
@[simp] theorem respond_ldl (s : State) (r : Resp) :
    (respond s r).ldl = s.ldl := by simp only [respond]
@[simp] theorem respond_lanes (s : State) (r : Resp) :
    (respond s r).lanes = s.lanes := by simp only [respond]
@[simp] theorem respond_fh (s : State) (r : Resp) :
    (respond s r).fh = s.fh := by simp only [respond]
@[simp] theorem respond_cru (s : State) (r : Resp) :
    (respond s r).cru = s.cru := by simp only [respond]
@[simp] theorem respond_run (s : State) (r : Resp) :
    (respond s r).run = s.run := by simp only [respond]
@[simp] theorem respond_tx (s : State) (r : Resp) :
    (respond s r).tx = s.tx := by simp only [respond]
@[simp] theorem respond_rx (s : State) (r : Resp) :
    (respond s r).rx = s.rx := by simp only [respond]
@[simp] theorem respond_anl (s : State) (r : Resp) :
    (respond s r).anl = s.anl := by simp only [respond]
@[simp] theorem respond_pwr (s : State) (r : Resp) :
    (respond s r).pwr = s.pwr := by simp only [respond]
@[simp] theorem respond_hld (s : State) (r : Resp) :
    (respond s r).hld = s.hld := by simp only [respond]
@[simp] theorem respond_thm (s : State) (r : Resp) :
    (respond s r).thm = s.thm := by simp only [respond]
@[simp] theorem respond_hka (s : State) (r : Resp) :
    (respond s r).hka = s.hka := by simp only [respond]
@[simp] theorem respond_bias (s : State) (r : Resp) :
    (respond s r).bias = s.bias := by simp only [respond]
@[simp] theorem respond_hb (s : State) (r : Resp) :
    (respond s r).hb = s.hb := by simp only [respond]
@[simp] theorem respond_fus (s : State) (r : Resp) :
    (respond s r).fus = s.fus := by simp only [respond]
@[simp] theorem respond_gen (s : State) (r : Resp) :
    (respond s r).gen = s.gen := by simp only [respond]
@[simp] theorem respond_out (s : State) (r : Resp) :
    (respond s r).out = s.out := by simp only [respond]
@[simp] theorem respond_pending (s : State) (r : Resp) :
    (respond s r).pending = s.pending := by simp only [respond]

/-! ### hostStores -/

@[simp] theorem hostStores_tb (s : State) (l : List Host.Cell) :
    (hostStores s l).tb = s.tb := by simp only [hostStores]
@[simp] theorem hostStores_syn (s : State) (l : List Host.Cell) :
    (hostStores s l).syn = s.syn := by simp only [hostStores]
@[simp] theorem hostStores_air (s : State) (l : List Host.Cell) :
    (hostStores s l).air = s.air := by simp only [hostStores]
@[simp] theorem hostStores_mod (s : State) (l : List Host.Cell) :
    (hostStores s l).mod = s.mod := by simp only [hostStores]
@[simp] theorem hostStores_ldl (s : State) (l : List Host.Cell) :
    (hostStores s l).ldl = s.ldl := by simp only [hostStores]
@[simp] theorem hostStores_lanes (s : State) (l : List Host.Cell) :
    (hostStores s l).lanes = s.lanes := by simp only [hostStores]
@[simp] theorem hostStores_fh (s : State) (l : List Host.Cell) :
    (hostStores s l).fh = s.fh := by simp only [hostStores]
@[simp] theorem hostStores_cru (s : State) (l : List Host.Cell) :
    (hostStores s l).cru = s.cru := by simp only [hostStores]
@[simp] theorem hostStores_run (s : State) (l : List Host.Cell) :
    (hostStores s l).run = s.run := by simp only [hostStores]
@[simp] theorem hostStores_tx (s : State) (l : List Host.Cell) :
    (hostStores s l).tx = s.tx := by simp only [hostStores]
@[simp] theorem hostStores_rx (s : State) (l : List Host.Cell) :
    (hostStores s l).rx = s.rx := by simp only [hostStores]
@[simp] theorem hostStores_anl (s : State) (l : List Host.Cell) :
    (hostStores s l).anl = s.anl := by simp only [hostStores]
@[simp] theorem hostStores_pwr (s : State) (l : List Host.Cell) :
    (hostStores s l).pwr = s.pwr := by simp only [hostStores]
@[simp] theorem hostStores_hld (s : State) (l : List Host.Cell) :
    (hostStores s l).hld = s.hld := by simp only [hostStores]
@[simp] theorem hostStores_thm (s : State) (l : List Host.Cell) :
    (hostStores s l).thm = s.thm := by simp only [hostStores]
@[simp] theorem hostStores_hka (s : State) (l : List Host.Cell) :
    (hostStores s l).hka = s.hka := by simp only [hostStores]
@[simp] theorem hostStores_bias (s : State) (l : List Host.Cell) :
    (hostStores s l).bias = s.bias := by simp only [hostStores]
@[simp] theorem hostStores_hb (s : State) (l : List Host.Cell) :
    (hostStores s l).hb = s.hb := by simp only [hostStores]
@[simp] theorem hostStores_fus (s : State) (l : List Host.Cell) :
    (hostStores s l).fus = s.fus := by simp only [hostStores]
@[simp] theorem hostStores_gen (s : State) (l : List Host.Cell) :
    (hostStores s l).gen = s.gen := by simp only [hostStores]
@[simp] theorem hostStores_out (s : State) (l : List Host.Cell) :
    (hostStores s l).out = s.out := by simp only [hostStores]
@[simp] theorem hostStores_pending (s : State) (l : List Host.Cell) :
    (hostStores s l).pending = s.pending := by simp only [hostStores]

end Sys2Proof.Machine
end

