-- ==== Sys2Proof/Laws/Ops.lean ====
section
/-! SUPPORT. The shared operations of reports, each said once: the parts a record, an event, a unit fault or a command's end may
change. -/

namespace Sys2Proof.Machine

/-! ### Which parts change -/

/-- The rings lie where they lay. -/
theorem inRing_of_place {s t : State} (h : ∀ r, ringPlace t r = ringPlace s r) (a : Nat) : inRing t a ↔ inRing s a := by
  unfold inRing; simp only [h]

/-- Nothing changes nothing. -/
theorem changesOnly_refl (l : List Part) (s : State) : changesOnly l s s := fun p _ => by
  cases p <;> first | exact rfl | exact ⟨fun _ => rfl, fun _ _ => rfl⟩ | exact ⟨rfl, rfl, rfl, rfl⟩ | exact ⟨rfl, rfl⟩

/-- One change after another. -/
theorem changesOnly_trans {l : List Part} {s t u : State} (h : changesOnly l s t) (k : changesOnly l t u) : changesOnly l s u := by
  intro p hp
  have a := h p hp
  have b := k p hp
  cases p
  case hmem => exact ⟨fun r => (b.1 r).trans (a.1 r), fun x hx => (b.2 x (by rwa [inRing_of_place a.1])).trans (a.2 x hx)⟩
  case dev =>
    exact ⟨b.1.trans a.1, b.2.1.trans a.2.1, b.2.2.1.trans a.2.2.1, b.2.2.2.trans a.2.2.2⟩
  case flash => exact ⟨b.1.trans a.1, b.2.trans a.2⟩
  all_goals exact b.trans a

/-- An update that leaves the host interface, the Ladle and the Heat Book alone leaves the memories alone. -/
theorem changesOnly_of_parts {l : List Part} {s t : State} (hh : t.host.mem = s.host.mem ∧ t.host.rings = s.host.rings)
    (hd : t.ldl = s.ldl) (hf : t.hb = s.hb)
    (h : ∀ p, p ≠ .hmem → p ≠ .dev → p ≠ .flash → p ∉ l → p.same s t) : changesOnly l s t := by
  intro p hp
  by_cases a : p = .hmem
  · subst a
    have e : ∀ r, ringPlace t r = ringPlace s r := fun r => by unfold ringPlace ringOf; rw [hh.2]
    exact ⟨e, fun x _ => by rw [hh.1]⟩
  · by_cases b : p = .dev
    · subst b; show _ ∧ _; rw [hd]; exact ⟨rfl, rfl, rfl, rfl⟩
    · by_cases c : p = .flash
      · subst c; show _ ∧ _; rw [hf]; exact ⟨rfl, rfl⟩
      · exact h p a b c hp

/-- A larger list of parts allows more. -/
theorem changesOnly_mono {l m : List Part} {s t : State} (h : changesOnly l s t) (sub : ∀ p ∈ l, p ∈ m) : changesOnly m s t :=
  fun p hp => h p fun hl => hp (sub p hl)

/-- Changes along a list. -/
theorem changesOnly_foldl {α : Type} (l : List Part) (f : State → α → State) (h : ∀ s x, changesOnly l s (f s x)) :
    ∀ (xs : List α) (s : State), changesOnly l s (xs.foldl f s)
  | [], s => changesOnly_refl l s
  | x :: xs, s => changesOnly_trans (h s x) (changesOnly_foldl l f h xs (f s x))

/-- Either way of a choice. -/
theorem changesOnly_ite {l : List Part} {s t u : State} {c : Prop} [Decidable c] (ht : changesOnly l s t) (hu : changesOnly l s u) :
    changesOnly l s (if c then t else u) := by
  split
  · exact ht
  · exact hu

/-! ### Rings, records and events -/

/-- A change of a ring that leaves it where it lies. -/
theorem modRing_changes (s : State) (r : Nat) (f : Ring → Ring)
    (hf : ∀ g, (f g).baseHi = g.baseHi ∧ (f g).baseLo = g.baseLo ∧ (f g).sizeLog2 = g.sizeLog2 := by intro _; exact ⟨rfl, rfl, rfl⟩) :
    changesOnly [.host] s (modRing s r f) := by
  intro p hp
  cases p
  case hmem =>
    refine ⟨fun q => ?_, fun a _ => rfl⟩
    unfold ringPlace ringOf modRing vget vmod
    by_cases hq : q < 36
    · by_cases hr : r < 36
      · by_cases e : r = q
        · subst e; simp [hq, ringBase, ringSize, hf]
        · simp [hq, hr, Vector.getElem_set, e]
      · simp [hr]
    · simp [hq]
  case dev => exact ⟨rfl, rfl, rfl, rfl⟩
  case flash => exact ⟨rfl, rfl⟩
  case host => exact absurd (by decide) hp
  all_goals exact rfl

theorem hostWrite_changes (s : State) (a : Nat) (bs : List Byte) : changesOnly [.hmem, .host] s (hostWrite s a bs) := by
  intro p hp
  cases p
  case dev => exact ⟨rfl, rfl, rfl, rfl⟩
  case flash => exact ⟨rfl, rfl⟩
  case host => exact absurd (by decide) hp
  case hmem => exact absurd (by decide) hp
  all_goals exact rfl

theorem signal_changes (s : State) (v : Nat) : changesOnly [.host, .out] s (signal s v) := by
  unfold signal
  simp only
  split
  · exact changesOnly_refl _ s
  · split
    · exact changesOnly_of_parts ⟨rfl, rfl⟩ rfl rfl (by intro p _ _ _ hp; cases p <;> simp_all [Part.same])
    · exact changesOnly_of_parts ⟨rfl, rfl⟩ rfl rfl (by intro p _ _ _ hp; cases p <;> simp_all [Part.same])

theorem ringSignal_changes (s : State) (r : Nat) (b : Bool) : changesOnly [.host, .out] s (ringSignal s r b) := by
  unfold ringSignal
  exact changesOnly_ite
    (changesOnly_trans (changesOnly_mono (modRing_changes s r _) (by decide)) (signal_changes _ _))
    (changesOnly_mono (modRing_changes s r _) (by decide))

/-- A write to host memory moves no ring. -/
theorem ringPlace_hostWrite (s : State) (a : Nat) (bs : List Byte) (r : Nat) : ringPlace (hostWrite s a bs) r = ringPlace s r := rfl

/-- A write inside the memory of a completion or event ring. -/
theorem hostWrite_inRing (s : State) (r a : Nat) (bs : List Byte) (lo : 16 ≤ r) (hi : r < 36) (h0 : (ringPlace s r).1 ≤ a)
    (h1 : a + bs.length ≤ (ringPlace s r).1 + 32 * (ringPlace s r).2) : changesOnly [.host] s (hostWrite s a bs) := by
  intro p hp
  by_cases hm : p = .hmem
  · subst hm
    refine ⟨fun q => ringPlace_hostWrite s a bs q, fun x hx => memRead_memWriteBytes_other 0 _ _ _ _ ?_⟩
    by_contra hc
    exact hx ⟨r, lo, hi, by omega, by omega⟩
  · exact hostWrite_changes s a bs p (by simp_all)

/-- A slot put into a completion or event ring lies in that ring's memory. -/
theorem ringPut_changes (s : State) (r v : Nat) (lo : 16 ≤ r) (hi : r < 36) : changesOnly [.host, .out] s (ringPut s r v) := by
  unfold ringPut
  refine changesOnly_trans (changesOnly_mono (hostWrite_inRing s r _ _ lo hi ?_ ?_) (by decide))
    (changesOnly_mono (modRing_changes _ r _) (by decide))
  · exact Nat.le_add_right _ _
  · have hs : 0 < ringSize (ringOf s r) := Nat.two_pow_pos _
    have hm := Nat.mod_lt (ringOf s r).prod.toNat hs
    simp only [bytesLE_length, ringPlace]
    omega

theorem recordWrite_changes (s : State) (r : Nat) (x : Record) (lo : 16 ≤ r) (hi : r < 36) :
    changesOnly [.host, .out] s (recordWrite s r x) :=
  changesOnly_trans (ringPut_changes s r _ lo hi) (ringSignal_changes _ _ _)

/-- Only the rings 0 to 35 exist. -/
theorem ringOf_none (s : State) (r : Nat) (h : ¬ r < 36) : ringOf s r = {} := by simp [ringOf, vget, h]

/-- A completion record changes the rings, a slot of the completion ring, and the signals sent. -/
theorem recordPush_changes (s : State) (r : Nat) (x : Record) (lo : 16 ≤ r) : changesOnly [.host, .out] s (recordPush s r x) := by
  unfold recordPush
  by_cases hi : r < 36
  · exact changesOnly_ite (changesOnly_mono (modRing_changes s r _) (by decide))
      (changesOnly_ite (recordWrite_changes s r x lo hi) (changesOnly_mono (modRing_changes s r _) (by decide)))
  · rw [ringOf_none s r hi]
    exact changesOnly_mono (modRing_changes s r _) (by decide)

theorem recordDrain_changes : ∀ (n : Nat) (s : State) (r : Nat), 16 ≤ r → changesOnly [.host, .out] s (recordDrain n s r)
  | 0, s, _, _ => changesOnly_refl _ s
  | n + 1, s, r, lo => by
    unfold recordDrain
    split
    · exact changesOnly_refl _ s
    · rename_i x xs he
      have hi : r < 36 := by
        by_contra h
        rw [ringOf_none s r h] at he
        cases he
      exact changesOnly_ite
        (changesOnly_trans (changesOnly_trans (changesOnly_mono (modRing_changes s r _) (by decide))
          (recordWrite_changes _ _ _ lo hi)) (recordDrain_changes n _ r lo))
        (changesOnly_refl _ s)

theorem evtSlots_changes (s : State) (r : Nat) (e : Event) (lo : 16 ≤ r) (hi : r < 36) :
    changesOnly [.host, .out] s (evtSlots s r e) :=
  changesOnly_trans (ringPut_changes s r _ lo hi) (changesOnly_foldl _ _ (fun s _ => ringPut_changes s r _ lo hi) _ _)

theorem evtOverflow_changes (s : State) (r : Nat) (lo : 16 ≤ r) (hi : r < 36) : changesOnly [.host, .out] s (evtOverflow s r) := by
  unfold evtOverflow
  exact changesOnly_ite (changesOnly_refl _ s)
    (changesOnly_trans (changesOnly_trans (evtSlots_changes s r _ lo hi)
      (changesOnly_mono (modRing_changes _ r _) (by decide))) (ringSignal_changes _ _ _))

theorem evtTo_changes (e : Event) (s : State) (r : Nat) (lo : 16 ≤ r) (hi : r < 36) : changesOnly [.host, .out] s (evtTo e s r) := by
  unfold evtTo
  exact changesOnly_ite
    (changesOnly_trans (evtOverflow_changes s r lo hi) (changesOnly_mono (modRing_changes _ r _) (by decide)))
    (changesOnly_trans (evtOverflow_changes s r lo hi) (changesOnly_trans (evtSlots_changes _ r e lo hi) (ringSignal_changes _ _ _)))

/-- An event changes the event rings, slots of theirs, the signals sent, and AON's queue of POWER events. -/
theorem postEvent_changes (s : State) (e : Event) : changesOnly [.host, .out, .pwr] s (postEvent s e) := by
  unfold postEvent
  refine changesOnly_ite (changesOnly_foldl _ _ (fun s i => ?_) _ s) (changesOnly_ite (changesOnly_ite ?_ ?_) (changesOnly_refl _ s))
  · by_cases hi : 32 + i < 36
    · exact changesOnly_ite (changesOnly_mono (evtTo_changes e s _ (by omega) hi) (by decide)) (changesOnly_refl _ s)
    · rw [ringOf_none s _ hi]
      exact changesOnly_refl _ s
  · exact changesOnly_of_parts ⟨rfl, rfl⟩ rfl rfl (by intro p _ _ _ hp; cases p <;> simp_all [Part.same])
  · exact changesOnly_of_parts ⟨rfl, rfl⟩ rfl rfl (by intro p _ _ _ hp; cases p <;> simp_all [Part.same])

theorem post_changes (s : State) (code cls inst data : Nat) : changesOnly [.host, .out, .pwr] s (post s code cls inst data) :=
  postEvent_changes s _

/-! ### Unit faults, counts and the last gasp -/

theorem hbCount_changes (s : State) (i : Nat) : changesOnly [.hb] s (hbCount s i) := by
  intro p hp
  cases p
  case hb => exact absurd (by decide) hp
  case hmem => exact ⟨fun _ => rfl, fun _ _ => rfl⟩
  case dev => exact ⟨rfl, rfl, rfl, rfl⟩
  case flash => exact ⟨rfl, rfl⟩
  all_goals exact rfl

theorem lgEvent_changes (s : State) (code data : Nat) : changesOnly [.hb] s (lgEvent s code data) := by
  unfold lgEvent lgAdd
  refine changesOnly_ite (changesOnly_ite ?_ ?_) (changesOnly_refl _ s) <;>
    (intro p hp
     cases p
     case hmem => exact ⟨fun _ => rfl, fun _ _ => rfl⟩
     case dev => exact ⟨rfl, rfl, rfl, rfl⟩
     case flash => exact ⟨rfl, rfl⟩
     all_goals first | exact rfl | exact absurd (by decide) hp)

theorem postUnit_changes (s : State) (code ty inst data : Nat) : changesOnly [.host, .out, .pwr] s (postUnit s code ty inst data) :=
  postEvent_changes s _

/-- A transient fault is an event and a count. -/
theorem noteFault_changes (s : State) (ty inst n : Nat) : changesOnly [.host, .out, .pwr, .hb] s (noteFault s ty inst n) :=
  changesOnly_trans (changesOnly_mono (postUnit_changes s _ ty inst _) (by decide)) (changesOnly_mono (hbCount_changes _ 0) (by decide))

/-- A retirement's report is an event, a count and, while the Heat Book has failed, a last-gasp entry. -/
theorem noteRetired_changes (s : State) (ty inst b : Nat) : changesOnly [.host, .out, .pwr, .hb] s (noteRetired s ty inst b) :=
  changesOnly_trans
    (changesOnly_trans (changesOnly_mono (postUnit_changes s _ ty inst b) (by decide)) (changesOnly_mono (hbCount_changes _ _) (by decide)))
    (changesOnly_mono (lgEvent_changes _ _ _) (by decide))

/-! ### The end of a command -/

theorem cmdDrop_changes (s : State) (q : Nat) : changesOnly [.host] s (cmdDrop s q) := by
  intro p hp
  cases p
  case hmem => exact ⟨fun _ => rfl, fun _ _ => rfl⟩
  case dev => exact ⟨rfl, rfl, rfl, rfl⟩
  case flash => exact ⟨rfl, rfl⟩
  all_goals first | exact rfl | exact absurd (by decide) hp

theorem cmdPut_changes (s : State) (c : Cmd) : changesOnly [.host] s (cmdPut s c) := by
  intro p hp
  cases p
  case hmem => exact ⟨fun _ => rfl, fun _ _ => rfl⟩
  case dev => exact ⟨rfl, rfl, rfl, rfl⟩
  case flash => exact ⟨rfl, rfl⟩
  all_goals first | exact rfl | exact absurd (by decide) hp

/-- A command's end changes the commands that wait, the rings, host memory and the signals sent. -/
theorem cmdEnd_changes (s : State) (c : Cmd) (st : Nat) (tr : Bool) : changesOnly [.host, .out] s (cmdEnd s c st tr) := by
  unfold cmdEnd
  exact changesOnly_ite (changesOnly_mono (cmdDrop_changes s _) (by decide))
    (changesOnly_trans (changesOnly_mono (cmdDrop_changes s _) (by decide)) (recordPush_changes _ _ _ (by omega)))

theorem cmdDone_changes (s : State) (c : Cmd) : changesOnly [.host, .out] s (cmdDone s c) := by
  unfold cmdDone
  exact changesOnly_ite (cmdEnd_changes s c 0 false) (cmdEnd_changes s _ 3 false)

theorem cmdRefuse_changes (s : State) (c : Cmd) (r : Refuse) : changesOnly [.host, .out] s (cmdRefuse s c r) :=
  cmdEnd_changes s _ 1 false

theorem endRef_changes (s : State) (r : CmdRef) (st cause res : Nat) : changesOnly [.host, .out] s (endRef s r st cause res) := by
  unfold endRef
  split
  · exact changesOnly_refl _ s
  · exact cmdEnd_changes s _ st false

theorem doneRef_changes (s : State) (r : CmdRef) (res : Nat) : changesOnly [.host, .out] s (doneRef s r res) := by
  unfold doneRef
  split
  · exact changesOnly_refl _ s
  · exact cmdDone_changes s _

theorem arrive_changes (dt : Nat) (s : State) : changesOnly [.tb, .host, .out] s (arrive dt s) := by
  intro p hp
  cases p
  case hmem => exact ⟨fun _ => rfl, fun _ _ => rfl⟩
  case dev => exact ⟨rfl, rfl, rfl, rfl⟩
  case flash => exact ⟨rfl, rfl⟩
  all_goals first | exact rfl | exact absurd (by decide) hp

/-! ### The unchanged parts as rewrites -/

@[simp] theorem signal_tb (s : State) (v : Nat) : (signal s v).tb = s.tb := signal_changes s v .tb (by decide)
@[simp] theorem signal_syn (s : State) (v : Nat) : (signal s v).syn = s.syn := signal_changes s v .syn (by decide)
@[simp] theorem signal_air (s : State) (v : Nat) : (signal s v).air = s.air := signal_changes s v .air (by decide)
@[simp] theorem signal_mod (s : State) (v : Nat) : (signal s v).mod = s.mod := signal_changes s v .mod (by decide)
@[simp] theorem signal_ldl (s : State) (v : Nat) : (signal s v).ldl = s.ldl := signal_changes s v .ldl (by decide)
@[simp] theorem signal_lanes (s : State) (v : Nat) : (signal s v).lanes = s.lanes := signal_changes s v .lanes (by decide)
@[simp] theorem signal_fh (s : State) (v : Nat) : (signal s v).fh = s.fh := signal_changes s v .fh (by decide)
@[simp] theorem signal_cru (s : State) (v : Nat) : (signal s v).cru = s.cru := signal_changes s v .cru (by decide)
@[simp] theorem signal_run (s : State) (v : Nat) : (signal s v).run = s.run := signal_changes s v .run (by decide)
@[simp] theorem signal_tx (s : State) (v : Nat) : (signal s v).tx = s.tx := signal_changes s v .tx (by decide)
@[simp] theorem signal_rx (s : State) (v : Nat) : (signal s v).rx = s.rx := signal_changes s v .rx (by decide)
@[simp] theorem signal_anl (s : State) (v : Nat) : (signal s v).anl = s.anl := signal_changes s v .anl (by decide)
@[simp] theorem signal_pwr (s : State) (v : Nat) : (signal s v).pwr = s.pwr := signal_changes s v .pwr (by decide)
@[simp] theorem signal_hld (s : State) (v : Nat) : (signal s v).hld = s.hld := signal_changes s v .hld (by decide)
@[simp] theorem signal_thm (s : State) (v : Nat) : (signal s v).thm = s.thm := signal_changes s v .thm (by decide)
@[simp] theorem signal_hka (s : State) (v : Nat) : (signal s v).hka = s.hka := signal_changes s v .hka (by decide)
@[simp] theorem signal_bias (s : State) (v : Nat) : (signal s v).bias = s.bias := signal_changes s v .bias (by decide)
@[simp] theorem signal_hb (s : State) (v : Nat) : (signal s v).hb = s.hb := signal_changes s v .hb (by decide)
@[simp] theorem signal_fus (s : State) (v : Nat) : (signal s v).fus = s.fus := signal_changes s v .fus (by decide)
@[simp] theorem signal_gen (s : State) (v : Nat) : (signal s v).gen = s.gen := signal_changes s v .gen (by decide)
@[simp] theorem signal_pending (s : State) (v : Nat) : (signal s v).pending = s.pending := signal_changes s v .pending (by decide)

@[simp] theorem post_tb (s : State) (a b c d : Nat) : (post s a b c d).tb = s.tb := post_changes s a b c d .tb (by decide)
@[simp] theorem post_syn (s : State) (a b c d : Nat) : (post s a b c d).syn = s.syn := post_changes s a b c d .syn (by decide)
@[simp] theorem post_air (s : State) (a b c d : Nat) : (post s a b c d).air = s.air := post_changes s a b c d .air (by decide)
@[simp] theorem post_mod (s : State) (a b c d : Nat) : (post s a b c d).mod = s.mod := post_changes s a b c d .mod (by decide)
@[simp] theorem post_ldl (s : State) (a b c d : Nat) : (post s a b c d).ldl = s.ldl := post_changes s a b c d .ldl (by decide)
@[simp] theorem post_lanes (s : State) (a b c d : Nat) : (post s a b c d).lanes = s.lanes := post_changes s a b c d .lanes (by decide)
@[simp] theorem post_fh (s : State) (a b c d : Nat) : (post s a b c d).fh = s.fh := post_changes s a b c d .fh (by decide)
@[simp] theorem post_cru (s : State) (a b c d : Nat) : (post s a b c d).cru = s.cru := post_changes s a b c d .cru (by decide)
@[simp] theorem post_run (s : State) (a b c d : Nat) : (post s a b c d).run = s.run := post_changes s a b c d .run (by decide)
@[simp] theorem post_tx (s : State) (a b c d : Nat) : (post s a b c d).tx = s.tx := post_changes s a b c d .tx (by decide)
@[simp] theorem post_rx (s : State) (a b c d : Nat) : (post s a b c d).rx = s.rx := post_changes s a b c d .rx (by decide)
@[simp] theorem post_anl (s : State) (a b c d : Nat) : (post s a b c d).anl = s.anl := post_changes s a b c d .anl (by decide)
@[simp] theorem post_hld (s : State) (a b c d : Nat) : (post s a b c d).hld = s.hld := post_changes s a b c d .hld (by decide)
@[simp] theorem post_thm (s : State) (a b c d : Nat) : (post s a b c d).thm = s.thm := post_changes s a b c d .thm (by decide)
@[simp] theorem post_hka (s : State) (a b c d : Nat) : (post s a b c d).hka = s.hka := post_changes s a b c d .hka (by decide)
@[simp] theorem post_bias (s : State) (a b c d : Nat) : (post s a b c d).bias = s.bias := post_changes s a b c d .bias (by decide)
@[simp] theorem post_hb (s : State) (a b c d : Nat) : (post s a b c d).hb = s.hb := post_changes s a b c d .hb (by decide)
@[simp] theorem post_fus (s : State) (a b c d : Nat) : (post s a b c d).fus = s.fus := post_changes s a b c d .fus (by decide)
@[simp] theorem post_gen (s : State) (a b c d : Nat) : (post s a b c d).gen = s.gen := post_changes s a b c d .gen (by decide)
@[simp] theorem post_pending (s : State) (a b c d : Nat) : (post s a b c d).pending = s.pending := post_changes s a b c d .pending (by decide)

@[simp] theorem postEvent_tb (s : State) (e : Event) : (postEvent s e).tb = s.tb := postEvent_changes s e .tb (by decide)
@[simp] theorem postEvent_syn (s : State) (e : Event) : (postEvent s e).syn = s.syn := postEvent_changes s e .syn (by decide)
@[simp] theorem postEvent_air (s : State) (e : Event) : (postEvent s e).air = s.air := postEvent_changes s e .air (by decide)
@[simp] theorem postEvent_mod (s : State) (e : Event) : (postEvent s e).mod = s.mod := postEvent_changes s e .mod (by decide)
@[simp] theorem postEvent_ldl (s : State) (e : Event) : (postEvent s e).ldl = s.ldl := postEvent_changes s e .ldl (by decide)
@[simp] theorem postEvent_lanes (s : State) (e : Event) : (postEvent s e).lanes = s.lanes := postEvent_changes s e .lanes (by decide)
@[simp] theorem postEvent_fh (s : State) (e : Event) : (postEvent s e).fh = s.fh := postEvent_changes s e .fh (by decide)
@[simp] theorem postEvent_cru (s : State) (e : Event) : (postEvent s e).cru = s.cru := postEvent_changes s e .cru (by decide)
@[simp] theorem postEvent_run (s : State) (e : Event) : (postEvent s e).run = s.run := postEvent_changes s e .run (by decide)
@[simp] theorem postEvent_tx (s : State) (e : Event) : (postEvent s e).tx = s.tx := postEvent_changes s e .tx (by decide)
@[simp] theorem postEvent_rx (s : State) (e : Event) : (postEvent s e).rx = s.rx := postEvent_changes s e .rx (by decide)
@[simp] theorem postEvent_anl (s : State) (e : Event) : (postEvent s e).anl = s.anl := postEvent_changes s e .anl (by decide)
@[simp] theorem postEvent_hld (s : State) (e : Event) : (postEvent s e).hld = s.hld := postEvent_changes s e .hld (by decide)
@[simp] theorem postEvent_thm (s : State) (e : Event) : (postEvent s e).thm = s.thm := postEvent_changes s e .thm (by decide)
@[simp] theorem postEvent_hka (s : State) (e : Event) : (postEvent s e).hka = s.hka := postEvent_changes s e .hka (by decide)
@[simp] theorem postEvent_bias (s : State) (e : Event) : (postEvent s e).bias = s.bias := postEvent_changes s e .bias (by decide)
@[simp] theorem postEvent_hb (s : State) (e : Event) : (postEvent s e).hb = s.hb := postEvent_changes s e .hb (by decide)
@[simp] theorem postEvent_fus (s : State) (e : Event) : (postEvent s e).fus = s.fus := postEvent_changes s e .fus (by decide)
@[simp] theorem postEvent_gen (s : State) (e : Event) : (postEvent s e).gen = s.gen := postEvent_changes s e .gen (by decide)
@[simp] theorem postEvent_pending (s : State) (e : Event) : (postEvent s e).pending = s.pending := postEvent_changes s e .pending (by decide)

@[simp] theorem noteFault_tb (s : State) (a b c : Nat) : (noteFault s a b c).tb = s.tb := noteFault_changes s a b c .tb (by decide)
@[simp] theorem noteFault_syn (s : State) (a b c : Nat) : (noteFault s a b c).syn = s.syn := noteFault_changes s a b c .syn (by decide)
@[simp] theorem noteFault_air (s : State) (a b c : Nat) : (noteFault s a b c).air = s.air := noteFault_changes s a b c .air (by decide)
@[simp] theorem noteFault_mod (s : State) (a b c : Nat) : (noteFault s a b c).mod = s.mod := noteFault_changes s a b c .mod (by decide)
@[simp] theorem noteFault_ldl (s : State) (a b c : Nat) : (noteFault s a b c).ldl = s.ldl := noteFault_changes s a b c .ldl (by decide)
@[simp] theorem noteFault_lanes (s : State) (a b c : Nat) : (noteFault s a b c).lanes = s.lanes := noteFault_changes s a b c .lanes (by decide)
@[simp] theorem noteFault_fh (s : State) (a b c : Nat) : (noteFault s a b c).fh = s.fh := noteFault_changes s a b c .fh (by decide)
@[simp] theorem noteFault_cru (s : State) (a b c : Nat) : (noteFault s a b c).cru = s.cru := noteFault_changes s a b c .cru (by decide)
@[simp] theorem noteFault_run (s : State) (a b c : Nat) : (noteFault s a b c).run = s.run := noteFault_changes s a b c .run (by decide)
@[simp] theorem noteFault_tx (s : State) (a b c : Nat) : (noteFault s a b c).tx = s.tx := noteFault_changes s a b c .tx (by decide)
@[simp] theorem noteFault_rx (s : State) (a b c : Nat) : (noteFault s a b c).rx = s.rx := noteFault_changes s a b c .rx (by decide)
@[simp] theorem noteFault_anl (s : State) (a b c : Nat) : (noteFault s a b c).anl = s.anl := noteFault_changes s a b c .anl (by decide)
@[simp] theorem noteFault_hld (s : State) (a b c : Nat) : (noteFault s a b c).hld = s.hld := noteFault_changes s a b c .hld (by decide)
@[simp] theorem noteFault_thm (s : State) (a b c : Nat) : (noteFault s a b c).thm = s.thm := noteFault_changes s a b c .thm (by decide)
@[simp] theorem noteFault_hka (s : State) (a b c : Nat) : (noteFault s a b c).hka = s.hka := noteFault_changes s a b c .hka (by decide)
@[simp] theorem noteFault_bias (s : State) (a b c : Nat) : (noteFault s a b c).bias = s.bias := noteFault_changes s a b c .bias (by decide)
@[simp] theorem noteFault_fus (s : State) (a b c : Nat) : (noteFault s a b c).fus = s.fus := noteFault_changes s a b c .fus (by decide)
@[simp] theorem noteFault_gen (s : State) (a b c : Nat) : (noteFault s a b c).gen = s.gen := noteFault_changes s a b c .gen (by decide)
@[simp] theorem noteFault_pending (s : State) (a b c : Nat) : (noteFault s a b c).pending = s.pending := noteFault_changes s a b c .pending (by decide)

@[simp] theorem noteRetired_tb (s : State) (a b c : Nat) : (noteRetired s a b c).tb = s.tb := noteRetired_changes s a b c .tb (by decide)
@[simp] theorem noteRetired_syn (s : State) (a b c : Nat) : (noteRetired s a b c).syn = s.syn := noteRetired_changes s a b c .syn (by decide)
@[simp] theorem noteRetired_air (s : State) (a b c : Nat) : (noteRetired s a b c).air = s.air := noteRetired_changes s a b c .air (by decide)
@[simp] theorem noteRetired_mod (s : State) (a b c : Nat) : (noteRetired s a b c).mod = s.mod := noteRetired_changes s a b c .mod (by decide)
@[simp] theorem noteRetired_ldl (s : State) (a b c : Nat) : (noteRetired s a b c).ldl = s.ldl := noteRetired_changes s a b c .ldl (by decide)
@[simp] theorem noteRetired_lanes (s : State) (a b c : Nat) : (noteRetired s a b c).lanes = s.lanes := noteRetired_changes s a b c .lanes (by decide)
@[simp] theorem noteRetired_fh (s : State) (a b c : Nat) : (noteRetired s a b c).fh = s.fh := noteRetired_changes s a b c .fh (by decide)
@[simp] theorem noteRetired_cru (s : State) (a b c : Nat) : (noteRetired s a b c).cru = s.cru := noteRetired_changes s a b c .cru (by decide)
@[simp] theorem noteRetired_run (s : State) (a b c : Nat) : (noteRetired s a b c).run = s.run := noteRetired_changes s a b c .run (by decide)
@[simp] theorem noteRetired_tx (s : State) (a b c : Nat) : (noteRetired s a b c).tx = s.tx := noteRetired_changes s a b c .tx (by decide)
@[simp] theorem noteRetired_rx (s : State) (a b c : Nat) : (noteRetired s a b c).rx = s.rx := noteRetired_changes s a b c .rx (by decide)
@[simp] theorem noteRetired_anl (s : State) (a b c : Nat) : (noteRetired s a b c).anl = s.anl := noteRetired_changes s a b c .anl (by decide)
@[simp] theorem noteRetired_hld (s : State) (a b c : Nat) : (noteRetired s a b c).hld = s.hld := noteRetired_changes s a b c .hld (by decide)
@[simp] theorem noteRetired_thm (s : State) (a b c : Nat) : (noteRetired s a b c).thm = s.thm := noteRetired_changes s a b c .thm (by decide)
@[simp] theorem noteRetired_hka (s : State) (a b c : Nat) : (noteRetired s a b c).hka = s.hka := noteRetired_changes s a b c .hka (by decide)
@[simp] theorem noteRetired_bias (s : State) (a b c : Nat) : (noteRetired s a b c).bias = s.bias := noteRetired_changes s a b c .bias (by decide)
@[simp] theorem noteRetired_fus (s : State) (a b c : Nat) : (noteRetired s a b c).fus = s.fus := noteRetired_changes s a b c .fus (by decide)
@[simp] theorem noteRetired_gen (s : State) (a b c : Nat) : (noteRetired s a b c).gen = s.gen := noteRetired_changes s a b c .gen (by decide)
@[simp] theorem noteRetired_pending (s : State) (a b c : Nat) : (noteRetired s a b c).pending = s.pending := noteRetired_changes s a b c .pending (by decide)

@[simp] theorem cmdEnd_tb (s : State) (c : Cmd) (st : Nat) (tr : Bool) : (cmdEnd s c st tr).tb = s.tb := cmdEnd_changes s c st tr .tb (by decide)
@[simp] theorem cmdEnd_syn (s : State) (c : Cmd) (st : Nat) (tr : Bool) : (cmdEnd s c st tr).syn = s.syn := cmdEnd_changes s c st tr .syn (by decide)
@[simp] theorem cmdEnd_air (s : State) (c : Cmd) (st : Nat) (tr : Bool) : (cmdEnd s c st tr).air = s.air := cmdEnd_changes s c st tr .air (by decide)
@[simp] theorem cmdEnd_mod (s : State) (c : Cmd) (st : Nat) (tr : Bool) : (cmdEnd s c st tr).mod = s.mod := cmdEnd_changes s c st tr .mod (by decide)
@[simp] theorem cmdEnd_ldl (s : State) (c : Cmd) (st : Nat) (tr : Bool) : (cmdEnd s c st tr).ldl = s.ldl := cmdEnd_changes s c st tr .ldl (by decide)
@[simp] theorem cmdEnd_lanes (s : State) (c : Cmd) (st : Nat) (tr : Bool) : (cmdEnd s c st tr).lanes = s.lanes := cmdEnd_changes s c st tr .lanes (by decide)
@[simp] theorem cmdEnd_fh (s : State) (c : Cmd) (st : Nat) (tr : Bool) : (cmdEnd s c st tr).fh = s.fh := cmdEnd_changes s c st tr .fh (by decide)
@[simp] theorem cmdEnd_cru (s : State) (c : Cmd) (st : Nat) (tr : Bool) : (cmdEnd s c st tr).cru = s.cru := cmdEnd_changes s c st tr .cru (by decide)
@[simp] theorem cmdEnd_run (s : State) (c : Cmd) (st : Nat) (tr : Bool) : (cmdEnd s c st tr).run = s.run := cmdEnd_changes s c st tr .run (by decide)
@[simp] theorem cmdEnd_tx (s : State) (c : Cmd) (st : Nat) (tr : Bool) : (cmdEnd s c st tr).tx = s.tx := cmdEnd_changes s c st tr .tx (by decide)
@[simp] theorem cmdEnd_rx (s : State) (c : Cmd) (st : Nat) (tr : Bool) : (cmdEnd s c st tr).rx = s.rx := cmdEnd_changes s c st tr .rx (by decide)
@[simp] theorem cmdEnd_anl (s : State) (c : Cmd) (st : Nat) (tr : Bool) : (cmdEnd s c st tr).anl = s.anl := cmdEnd_changes s c st tr .anl (by decide)
@[simp] theorem cmdEnd_pwr (s : State) (c : Cmd) (st : Nat) (tr : Bool) : (cmdEnd s c st tr).pwr = s.pwr := cmdEnd_changes s c st tr .pwr (by decide)
@[simp] theorem cmdEnd_hld (s : State) (c : Cmd) (st : Nat) (tr : Bool) : (cmdEnd s c st tr).hld = s.hld := cmdEnd_changes s c st tr .hld (by decide)
@[simp] theorem cmdEnd_thm (s : State) (c : Cmd) (st : Nat) (tr : Bool) : (cmdEnd s c st tr).thm = s.thm := cmdEnd_changes s c st tr .thm (by decide)
@[simp] theorem cmdEnd_hka (s : State) (c : Cmd) (st : Nat) (tr : Bool) : (cmdEnd s c st tr).hka = s.hka := cmdEnd_changes s c st tr .hka (by decide)
@[simp] theorem cmdEnd_bias (s : State) (c : Cmd) (st : Nat) (tr : Bool) : (cmdEnd s c st tr).bias = s.bias := cmdEnd_changes s c st tr .bias (by decide)
@[simp] theorem cmdEnd_hb (s : State) (c : Cmd) (st : Nat) (tr : Bool) : (cmdEnd s c st tr).hb = s.hb := cmdEnd_changes s c st tr .hb (by decide)
@[simp] theorem cmdEnd_fus (s : State) (c : Cmd) (st : Nat) (tr : Bool) : (cmdEnd s c st tr).fus = s.fus := cmdEnd_changes s c st tr .fus (by decide)
@[simp] theorem cmdEnd_gen (s : State) (c : Cmd) (st : Nat) (tr : Bool) : (cmdEnd s c st tr).gen = s.gen := cmdEnd_changes s c st tr .gen (by decide)
@[simp] theorem cmdEnd_pending (s : State) (c : Cmd) (st : Nat) (tr : Bool) : (cmdEnd s c st tr).pending = s.pending := cmdEnd_changes s c st tr .pending (by decide)

@[simp] theorem cmdDone_tb (s : State) (c : Cmd) : (cmdDone s c).tb = s.tb := cmdDone_changes s c .tb (by decide)
@[simp] theorem cmdDone_syn (s : State) (c : Cmd) : (cmdDone s c).syn = s.syn := cmdDone_changes s c .syn (by decide)
@[simp] theorem cmdDone_air (s : State) (c : Cmd) : (cmdDone s c).air = s.air := cmdDone_changes s c .air (by decide)
@[simp] theorem cmdDone_mod (s : State) (c : Cmd) : (cmdDone s c).mod = s.mod := cmdDone_changes s c .mod (by decide)
@[simp] theorem cmdDone_ldl (s : State) (c : Cmd) : (cmdDone s c).ldl = s.ldl := cmdDone_changes s c .ldl (by decide)
@[simp] theorem cmdDone_lanes (s : State) (c : Cmd) : (cmdDone s c).lanes = s.lanes := cmdDone_changes s c .lanes (by decide)
@[simp] theorem cmdDone_fh (s : State) (c : Cmd) : (cmdDone s c).fh = s.fh := cmdDone_changes s c .fh (by decide)
@[simp] theorem cmdDone_cru (s : State) (c : Cmd) : (cmdDone s c).cru = s.cru := cmdDone_changes s c .cru (by decide)
@[simp] theorem cmdDone_run (s : State) (c : Cmd) : (cmdDone s c).run = s.run := cmdDone_changes s c .run (by decide)
@[simp] theorem cmdDone_tx (s : State) (c : Cmd) : (cmdDone s c).tx = s.tx := cmdDone_changes s c .tx (by decide)
@[simp] theorem cmdDone_rx (s : State) (c : Cmd) : (cmdDone s c).rx = s.rx := cmdDone_changes s c .rx (by decide)
@[simp] theorem cmdDone_anl (s : State) (c : Cmd) : (cmdDone s c).anl = s.anl := cmdDone_changes s c .anl (by decide)
@[simp] theorem cmdDone_pwr (s : State) (c : Cmd) : (cmdDone s c).pwr = s.pwr := cmdDone_changes s c .pwr (by decide)
@[simp] theorem cmdDone_hld (s : State) (c : Cmd) : (cmdDone s c).hld = s.hld := cmdDone_changes s c .hld (by decide)
@[simp] theorem cmdDone_thm (s : State) (c : Cmd) : (cmdDone s c).thm = s.thm := cmdDone_changes s c .thm (by decide)
@[simp] theorem cmdDone_hka (s : State) (c : Cmd) : (cmdDone s c).hka = s.hka := cmdDone_changes s c .hka (by decide)
@[simp] theorem cmdDone_bias (s : State) (c : Cmd) : (cmdDone s c).bias = s.bias := cmdDone_changes s c .bias (by decide)
@[simp] theorem cmdDone_hb (s : State) (c : Cmd) : (cmdDone s c).hb = s.hb := cmdDone_changes s c .hb (by decide)
@[simp] theorem cmdDone_fus (s : State) (c : Cmd) : (cmdDone s c).fus = s.fus := cmdDone_changes s c .fus (by decide)
@[simp] theorem cmdDone_gen (s : State) (c : Cmd) : (cmdDone s c).gen = s.gen := cmdDone_changes s c .gen (by decide)
@[simp] theorem cmdDone_pending (s : State) (c : Cmd) : (cmdDone s c).pending = s.pending := cmdDone_changes s c .pending (by decide)

@[simp] theorem cmdRefuse_tb (s : State) (c : Cmd) (r : Refuse) : (cmdRefuse s c r).tb = s.tb := cmdRefuse_changes s c r .tb (by decide)
@[simp] theorem cmdRefuse_syn (s : State) (c : Cmd) (r : Refuse) : (cmdRefuse s c r).syn = s.syn := cmdRefuse_changes s c r .syn (by decide)
@[simp] theorem cmdRefuse_air (s : State) (c : Cmd) (r : Refuse) : (cmdRefuse s c r).air = s.air := cmdRefuse_changes s c r .air (by decide)
@[simp] theorem cmdRefuse_mod (s : State) (c : Cmd) (r : Refuse) : (cmdRefuse s c r).mod = s.mod := cmdRefuse_changes s c r .mod (by decide)
@[simp] theorem cmdRefuse_ldl (s : State) (c : Cmd) (r : Refuse) : (cmdRefuse s c r).ldl = s.ldl := cmdRefuse_changes s c r .ldl (by decide)
@[simp] theorem cmdRefuse_lanes (s : State) (c : Cmd) (r : Refuse) : (cmdRefuse s c r).lanes = s.lanes := cmdRefuse_changes s c r .lanes (by decide)
@[simp] theorem cmdRefuse_fh (s : State) (c : Cmd) (r : Refuse) : (cmdRefuse s c r).fh = s.fh := cmdRefuse_changes s c r .fh (by decide)
@[simp] theorem cmdRefuse_cru (s : State) (c : Cmd) (r : Refuse) : (cmdRefuse s c r).cru = s.cru := cmdRefuse_changes s c r .cru (by decide)
@[simp] theorem cmdRefuse_run (s : State) (c : Cmd) (r : Refuse) : (cmdRefuse s c r).run = s.run := cmdRefuse_changes s c r .run (by decide)
@[simp] theorem cmdRefuse_tx (s : State) (c : Cmd) (r : Refuse) : (cmdRefuse s c r).tx = s.tx := cmdRefuse_changes s c r .tx (by decide)
@[simp] theorem cmdRefuse_rx (s : State) (c : Cmd) (r : Refuse) : (cmdRefuse s c r).rx = s.rx := cmdRefuse_changes s c r .rx (by decide)
@[simp] theorem cmdRefuse_anl (s : State) (c : Cmd) (r : Refuse) : (cmdRefuse s c r).anl = s.anl := cmdRefuse_changes s c r .anl (by decide)
@[simp] theorem cmdRefuse_pwr (s : State) (c : Cmd) (r : Refuse) : (cmdRefuse s c r).pwr = s.pwr := cmdRefuse_changes s c r .pwr (by decide)
@[simp] theorem cmdRefuse_hld (s : State) (c : Cmd) (r : Refuse) : (cmdRefuse s c r).hld = s.hld := cmdRefuse_changes s c r .hld (by decide)
@[simp] theorem cmdRefuse_thm (s : State) (c : Cmd) (r : Refuse) : (cmdRefuse s c r).thm = s.thm := cmdRefuse_changes s c r .thm (by decide)
@[simp] theorem cmdRefuse_hka (s : State) (c : Cmd) (r : Refuse) : (cmdRefuse s c r).hka = s.hka := cmdRefuse_changes s c r .hka (by decide)
@[simp] theorem cmdRefuse_bias (s : State) (c : Cmd) (r : Refuse) : (cmdRefuse s c r).bias = s.bias := cmdRefuse_changes s c r .bias (by decide)
@[simp] theorem cmdRefuse_hb (s : State) (c : Cmd) (r : Refuse) : (cmdRefuse s c r).hb = s.hb := cmdRefuse_changes s c r .hb (by decide)
@[simp] theorem cmdRefuse_fus (s : State) (c : Cmd) (r : Refuse) : (cmdRefuse s c r).fus = s.fus := cmdRefuse_changes s c r .fus (by decide)
@[simp] theorem cmdRefuse_gen (s : State) (c : Cmd) (r : Refuse) : (cmdRefuse s c r).gen = s.gen := cmdRefuse_changes s c r .gen (by decide)
@[simp] theorem cmdRefuse_pending (s : State) (c : Cmd) (r : Refuse) : (cmdRefuse s c r).pending = s.pending := cmdRefuse_changes s c r .pending (by decide)

@[simp] theorem endRef_tb (s : State) (r : CmdRef) (a b c : Nat) : (endRef s r a b c).tb = s.tb := endRef_changes s r a b c .tb (by decide)
@[simp] theorem endRef_syn (s : State) (r : CmdRef) (a b c : Nat) : (endRef s r a b c).syn = s.syn := endRef_changes s r a b c .syn (by decide)
@[simp] theorem endRef_air (s : State) (r : CmdRef) (a b c : Nat) : (endRef s r a b c).air = s.air := endRef_changes s r a b c .air (by decide)
@[simp] theorem endRef_mod (s : State) (r : CmdRef) (a b c : Nat) : (endRef s r a b c).mod = s.mod := endRef_changes s r a b c .mod (by decide)
@[simp] theorem endRef_ldl (s : State) (r : CmdRef) (a b c : Nat) : (endRef s r a b c).ldl = s.ldl := endRef_changes s r a b c .ldl (by decide)
@[simp] theorem endRef_lanes (s : State) (r : CmdRef) (a b c : Nat) : (endRef s r a b c).lanes = s.lanes := endRef_changes s r a b c .lanes (by decide)
@[simp] theorem endRef_fh (s : State) (r : CmdRef) (a b c : Nat) : (endRef s r a b c).fh = s.fh := endRef_changes s r a b c .fh (by decide)
@[simp] theorem endRef_cru (s : State) (r : CmdRef) (a b c : Nat) : (endRef s r a b c).cru = s.cru := endRef_changes s r a b c .cru (by decide)
@[simp] theorem endRef_run (s : State) (r : CmdRef) (a b c : Nat) : (endRef s r a b c).run = s.run := endRef_changes s r a b c .run (by decide)
@[simp] theorem endRef_tx (s : State) (r : CmdRef) (a b c : Nat) : (endRef s r a b c).tx = s.tx := endRef_changes s r a b c .tx (by decide)
@[simp] theorem endRef_rx (s : State) (r : CmdRef) (a b c : Nat) : (endRef s r a b c).rx = s.rx := endRef_changes s r a b c .rx (by decide)
@[simp] theorem endRef_anl (s : State) (r : CmdRef) (a b c : Nat) : (endRef s r a b c).anl = s.anl := endRef_changes s r a b c .anl (by decide)
@[simp] theorem endRef_pwr (s : State) (r : CmdRef) (a b c : Nat) : (endRef s r a b c).pwr = s.pwr := endRef_changes s r a b c .pwr (by decide)
@[simp] theorem endRef_hld (s : State) (r : CmdRef) (a b c : Nat) : (endRef s r a b c).hld = s.hld := endRef_changes s r a b c .hld (by decide)
@[simp] theorem endRef_thm (s : State) (r : CmdRef) (a b c : Nat) : (endRef s r a b c).thm = s.thm := endRef_changes s r a b c .thm (by decide)
@[simp] theorem endRef_hka (s : State) (r : CmdRef) (a b c : Nat) : (endRef s r a b c).hka = s.hka := endRef_changes s r a b c .hka (by decide)
@[simp] theorem endRef_bias (s : State) (r : CmdRef) (a b c : Nat) : (endRef s r a b c).bias = s.bias := endRef_changes s r a b c .bias (by decide)
@[simp] theorem endRef_hb (s : State) (r : CmdRef) (a b c : Nat) : (endRef s r a b c).hb = s.hb := endRef_changes s r a b c .hb (by decide)
@[simp] theorem endRef_fus (s : State) (r : CmdRef) (a b c : Nat) : (endRef s r a b c).fus = s.fus := endRef_changes s r a b c .fus (by decide)
@[simp] theorem endRef_gen (s : State) (r : CmdRef) (a b c : Nat) : (endRef s r a b c).gen = s.gen := endRef_changes s r a b c .gen (by decide)
@[simp] theorem endRef_pending (s : State) (r : CmdRef) (a b c : Nat) : (endRef s r a b c).pending = s.pending := endRef_changes s r a b c .pending (by decide)

@[simp] theorem doneRef_tb (s : State) (r : CmdRef) (a : Nat) : (doneRef s r a).tb = s.tb := doneRef_changes s r a .tb (by decide)
@[simp] theorem doneRef_syn (s : State) (r : CmdRef) (a : Nat) : (doneRef s r a).syn = s.syn := doneRef_changes s r a .syn (by decide)
@[simp] theorem doneRef_air (s : State) (r : CmdRef) (a : Nat) : (doneRef s r a).air = s.air := doneRef_changes s r a .air (by decide)
@[simp] theorem doneRef_mod (s : State) (r : CmdRef) (a : Nat) : (doneRef s r a).mod = s.mod := doneRef_changes s r a .mod (by decide)
@[simp] theorem doneRef_ldl (s : State) (r : CmdRef) (a : Nat) : (doneRef s r a).ldl = s.ldl := doneRef_changes s r a .ldl (by decide)
@[simp] theorem doneRef_lanes (s : State) (r : CmdRef) (a : Nat) : (doneRef s r a).lanes = s.lanes := doneRef_changes s r a .lanes (by decide)
@[simp] theorem doneRef_fh (s : State) (r : CmdRef) (a : Nat) : (doneRef s r a).fh = s.fh := doneRef_changes s r a .fh (by decide)
@[simp] theorem doneRef_cru (s : State) (r : CmdRef) (a : Nat) : (doneRef s r a).cru = s.cru := doneRef_changes s r a .cru (by decide)
@[simp] theorem doneRef_run (s : State) (r : CmdRef) (a : Nat) : (doneRef s r a).run = s.run := doneRef_changes s r a .run (by decide)
@[simp] theorem doneRef_tx (s : State) (r : CmdRef) (a : Nat) : (doneRef s r a).tx = s.tx := doneRef_changes s r a .tx (by decide)
@[simp] theorem doneRef_rx (s : State) (r : CmdRef) (a : Nat) : (doneRef s r a).rx = s.rx := doneRef_changes s r a .rx (by decide)
@[simp] theorem doneRef_anl (s : State) (r : CmdRef) (a : Nat) : (doneRef s r a).anl = s.anl := doneRef_changes s r a .anl (by decide)
@[simp] theorem doneRef_pwr (s : State) (r : CmdRef) (a : Nat) : (doneRef s r a).pwr = s.pwr := doneRef_changes s r a .pwr (by decide)
@[simp] theorem doneRef_hld (s : State) (r : CmdRef) (a : Nat) : (doneRef s r a).hld = s.hld := doneRef_changes s r a .hld (by decide)
@[simp] theorem doneRef_thm (s : State) (r : CmdRef) (a : Nat) : (doneRef s r a).thm = s.thm := doneRef_changes s r a .thm (by decide)
@[simp] theorem doneRef_hka (s : State) (r : CmdRef) (a : Nat) : (doneRef s r a).hka = s.hka := doneRef_changes s r a .hka (by decide)
@[simp] theorem doneRef_bias (s : State) (r : CmdRef) (a : Nat) : (doneRef s r a).bias = s.bias := doneRef_changes s r a .bias (by decide)
@[simp] theorem doneRef_hb (s : State) (r : CmdRef) (a : Nat) : (doneRef s r a).hb = s.hb := doneRef_changes s r a .hb (by decide)
@[simp] theorem doneRef_fus (s : State) (r : CmdRef) (a : Nat) : (doneRef s r a).fus = s.fus := doneRef_changes s r a .fus (by decide)
@[simp] theorem doneRef_gen (s : State) (r : CmdRef) (a : Nat) : (doneRef s r a).gen = s.gen := doneRef_changes s r a .gen (by decide)
@[simp] theorem doneRef_pending (s : State) (r : CmdRef) (a : Nat) : (doneRef s r a).pending = s.pending := doneRef_changes s r a .pending (by decide)

end Sys2Proof.Machine
end

