-- ==== Sys2Proof/Laws/Frames.lean ====
section
/-! SUPPORT. What every function that answers a state may change: one lemma per function, named after it, by the parts of State it
leaves to others; the callers cite the callees' lemmas. -/

set_option linter.unusedVariables false
set_option linter.unusedTactic false
set_option linter.unreachableTactic false
set_option linter.tactic.unusedName false

namespace Sys2Proof.Machine

theorem changesOnly_cut {l : List Part} {s u x : State} (h : changesOnly l s x) (k : changesOnly l s x → changesOnly l s u) :
    changesOnly l s u := k h

theorem changesOnly_step {k l : List Part} {s t u : State} (h : changesOnly k t u) (sub : ∀ p ∈ k, p ∈ l) (g : changesOnly l s t) :
    changesOnly l s u := changesOnly_trans g (changesOnly_mono h sub)

theorem changesOnly_ite' {l : List Part} {s t u : State} {c : Prop} [Decidable c] (ht : changesOnly l s t) (hu : changesOnly l s u) :
    changesOnly l s (if c then t else u) := changesOnly_ite ht hu

theorem changesOnly_foldl' {α : Type} {l : List Part} {s u : State} {f : State → α → State} (xs : List α) (hu : changesOnly l s u)
    (h : ∀ y a, changesOnly l s y → changesOnly l s (f y a)) : changesOnly l s (xs.foldl f u) := by
  induction xs generalizing u with
  | nil => exact hu
  | cons a xs ih => exact ih (h u a hu)

theorem changesOnly_all {l : List Part} {s u : State} {f : State → Nat → State} (n : Nat) (hu : changesOnly l s u)
    (h : ∀ y a, changesOnly l s y → changesOnly l s (f y a)) : changesOnly l s (forAll n u f) := changesOnly_foldl' _ hu h

theorem changesOnly_bits {l : List Part} {s u : State} {f : State → Nat → State} (n m : Nat) (hu : changesOnly l s u)
    (h : ∀ y a, changesOnly l s y → changesOnly l s (f y a)) : changesOnly l s (forBits n m u f) := changesOnly_foldl' _ hu h

theorem changesOnly_fold1 {α β : Type} {l : List Part} {s : State} {u : State × β} {f : State × β → α → State × β} (xs : List α)
    (hu : changesOnly l s u.1) (h : ∀ y a, changesOnly l s y.1 → changesOnly l s (f y a).1) :
    changesOnly l s (xs.foldl f u).1 := by
  induction xs generalizing u with
  | nil => exact hu
  | cons a xs ih => exact ih (h u a hu)

theorem changesOnly_fn {α : Type} {l : List Part} {s u : State} {x : α → State} (h : changesOnly l s u) : changesOnly l s u :=
  let _ := x; h

theorem changesOnly_fn2 {α β : Type} {l : List Part} {s u : State} {x : α → β → State} (h : changesOnly l s u) : changesOnly l s u :=
  let _ := x; h

theorem changesOnly_symm {l : List Part} {s t : State} (h : changesOnly l s t) : changesOnly l t s := by
  intro p hp
  have a := h p hp
  cases p
  case hmem => exact ⟨fun r => (a.1 r).symm, fun x hx => (a.2 x (by rwa [← inRing_of_place a.1])).symm⟩
  case dev => exact ⟨a.1.symm, a.2.1.symm, a.2.2.1.symm, a.2.2.2.symm⟩
  case flash => exact ⟨a.1.symm, a.2.symm⟩
  all_goals exact Eq.symm a

theorem changesOnly_letHostIf {l : List Part} {s u : State} {x : HostIf} (h : changesOnly l s u) : changesOnly l s u :=
  let _ := x; h

theorem changesOnly_letLadle {l : List Part} {s u : State} {x : Ladle} (h : changesOnly l s u) : changesOnly l s u :=
  let _ := x; h

theorem changesOnly_letHb {l : List Part} {s u : State} {x : Hb} (h : changesOnly l s u) : changesOnly l s u :=
  let _ := x; h

/-- Any change of a ring. -/
theorem modRing_any (s : State) (r : Nat) (f : Ring → Ring) : changesOnly [.hmem, .host] s (modRing s r f) := by
  intro p hp
  cases p
  case dev => exact ⟨rfl, rfl, rfl, rfl⟩
  case flash => exact ⟨rfl, rfl⟩
  all_goals first | exact rfl | exact absurd (by decide) hp

theorem changesOnly_set_air {l : List Part} {s x : State} {v0 : _} (m : ∀ p ∈ [.air], p ∈ l) :
    changesOnly l s { x with air := v0 } ↔ changesOnly l s x := by
  have e : changesOnly l x { x with air := v0 } := by
    intro p hp
    cases p
    case hmem => exact ⟨fun _ => rfl, fun _ _ => rfl⟩
    case dev => exact ⟨rfl, rfl, rfl, rfl⟩
    case flash => exact ⟨rfl, rfl⟩
    all_goals first | exact rfl | exact absurd (m _ (by decide)) hp
  exact ⟨fun h => changesOnly_trans h (changesOnly_symm e), fun h => changesOnly_trans h e⟩

theorem changesOnly_set_anl {l : List Part} {s x : State} {v0 : _} (m : ∀ p ∈ [.anl], p ∈ l) :
    changesOnly l s { x with anl := v0 } ↔ changesOnly l s x := by
  have e : changesOnly l x { x with anl := v0 } := by
    intro p hp
    cases p
    case hmem => exact ⟨fun _ => rfl, fun _ _ => rfl⟩
    case dev => exact ⟨rfl, rfl, rfl, rfl⟩
    case flash => exact ⟨rfl, rfl⟩
    all_goals first | exact rfl | exact absurd (m _ (by decide)) hp
  exact ⟨fun h => changesOnly_trans h (changesOnly_symm e), fun h => changesOnly_trans h e⟩

theorem changesOnly_set_bias {l : List Part} {s x : State} {v0 : _} (m : ∀ p ∈ [.bias], p ∈ l) :
    changesOnly l s { x with bias := v0 } ↔ changesOnly l s x := by
  have e : changesOnly l x { x with bias := v0 } := by
    intro p hp
    cases p
    case hmem => exact ⟨fun _ => rfl, fun _ _ => rfl⟩
    case dev => exact ⟨rfl, rfl, rfl, rfl⟩
    case flash => exact ⟨rfl, rfl⟩
    all_goals first | exact rfl | exact absurd (m _ (by decide)) hp
  exact ⟨fun h => changesOnly_trans h (changesOnly_symm e), fun h => changesOnly_trans h e⟩

theorem changesOnly_set_cru {l : List Part} {s x : State} {v0 : _} (m : ∀ p ∈ [.cru], p ∈ l) :
    changesOnly l s { x with cru := v0 } ↔ changesOnly l s x := by
  have e : changesOnly l x { x with cru := v0 } := by
    intro p hp
    cases p
    case hmem => exact ⟨fun _ => rfl, fun _ _ => rfl⟩
    case dev => exact ⟨rfl, rfl, rfl, rfl⟩
    case flash => exact ⟨rfl, rfl⟩
    all_goals first | exact rfl | exact absurd (m _ (by decide)) hp
  exact ⟨fun h => changesOnly_trans h (changesOnly_symm e), fun h => changesOnly_trans h e⟩

theorem changesOnly_set_fh {l : List Part} {s x : State} {v0 : _} (m : ∀ p ∈ [.fh], p ∈ l) :
    changesOnly l s { x with fh := v0 } ↔ changesOnly l s x := by
  have e : changesOnly l x { x with fh := v0 } := by
    intro p hp
    cases p
    case hmem => exact ⟨fun _ => rfl, fun _ _ => rfl⟩
    case dev => exact ⟨rfl, rfl, rfl, rfl⟩
    case flash => exact ⟨rfl, rfl⟩
    all_goals first | exact rfl | exact absurd (m _ (by decide)) hp
  exact ⟨fun h => changesOnly_trans h (changesOnly_symm e), fun h => changesOnly_trans h e⟩

theorem changesOnly_set_gen {l : List Part} {s x : State} {v0 : _} (m : ∀ p ∈ [.gen], p ∈ l) :
    changesOnly l s { x with gen := v0 } ↔ changesOnly l s x := by
  have e : changesOnly l x { x with gen := v0 } := by
    intro p hp
    cases p
    case hmem => exact ⟨fun _ => rfl, fun _ _ => rfl⟩
    case dev => exact ⟨rfl, rfl, rfl, rfl⟩
    case flash => exact ⟨rfl, rfl⟩
    all_goals first | exact rfl | exact absurd (m _ (by decide)) hp
  exact ⟨fun h => changesOnly_trans h (changesOnly_symm e), fun h => changesOnly_trans h e⟩

theorem changesOnly_set_hb {l : List Part} {s x : State} {v0 : Hb} (m : ∀ p ∈ [.hb], p ∈ l) (c : .flash ∈ l ∨ v0.recs = x.hb.recs ∧ v0.clearLog = x.hb.clearLog) :
    changesOnly l s { x with hb := v0 } ↔ changesOnly l s x := by
  have e : changesOnly l x { x with hb := v0 } := by
    intro p hp
    cases p
    case hmem => exact ⟨fun _ => rfl, fun _ _ => rfl⟩
    case dev => exact ⟨rfl, rfl, rfl, rfl⟩
    case flash => exact c.resolve_left hp
    all_goals first | exact rfl | exact absurd (m _ (by decide)) hp
  exact ⟨fun h => changesOnly_trans h (changesOnly_symm e), fun h => changesOnly_trans h e⟩

theorem changesOnly_set_hka {l : List Part} {s x : State} {v0 : _} (m : ∀ p ∈ [.hka], p ∈ l) :
    changesOnly l s { x with hka := v0 } ↔ changesOnly l s x := by
  have e : changesOnly l x { x with hka := v0 } := by
    intro p hp
    cases p
    case hmem => exact ⟨fun _ => rfl, fun _ _ => rfl⟩
    case dev => exact ⟨rfl, rfl, rfl, rfl⟩
    case flash => exact ⟨rfl, rfl⟩
    all_goals first | exact rfl | exact absurd (m _ (by decide)) hp
  exact ⟨fun h => changesOnly_trans h (changesOnly_symm e), fun h => changesOnly_trans h e⟩

theorem changesOnly_set_hld {l : List Part} {s x : State} {v0 : _} (m : ∀ p ∈ [.hld], p ∈ l) :
    changesOnly l s { x with hld := v0 } ↔ changesOnly l s x := by
  have e : changesOnly l x { x with hld := v0 } := by
    intro p hp
    cases p
    case hmem => exact ⟨fun _ => rfl, fun _ _ => rfl⟩
    case dev => exact ⟨rfl, rfl, rfl, rfl⟩
    case flash => exact ⟨rfl, rfl⟩
    all_goals first | exact rfl | exact absurd (m _ (by decide)) hp
  exact ⟨fun h => changesOnly_trans h (changesOnly_symm e), fun h => changesOnly_trans h e⟩

theorem changesOnly_set_host {l : List Part} {s x : State} {v0 : HostIf} (m : ∀ p ∈ [.host], p ∈ l) (a : .hmem ∈ l ∨ v0.mem = x.host.mem ∧ v0.rings = x.host.rings) :
    changesOnly l s { x with host := v0 } ↔ changesOnly l s x := by
  have e : changesOnly l x { x with host := v0 } := by
    intro p hp
    cases p
    case hmem => exact (a.resolve_left hp).elim fun h k => ⟨fun r => by unfold ringPlace ringOf; simp only [k], fun _ _ => by simp only [h]⟩
    case dev => exact ⟨rfl, rfl, rfl, rfl⟩
    case flash => exact ⟨rfl, rfl⟩
    all_goals first | exact rfl | exact absurd (m _ (by decide)) hp
  exact ⟨fun h => changesOnly_trans h (changesOnly_symm e), fun h => changesOnly_trans h e⟩

theorem changesOnly_set_lanes {l : List Part} {s x : State} {v0 : _} (m : ∀ p ∈ [.lanes], p ∈ l) :
    changesOnly l s { x with lanes := v0 } ↔ changesOnly l s x := by
  have e : changesOnly l x { x with lanes := v0 } := by
    intro p hp
    cases p
    case hmem => exact ⟨fun _ => rfl, fun _ _ => rfl⟩
    case dev => exact ⟨rfl, rfl, rfl, rfl⟩
    case flash => exact ⟨rfl, rfl⟩
    all_goals first | exact rfl | exact absurd (m _ (by decide)) hp
  exact ⟨fun h => changesOnly_trans h (changesOnly_symm e), fun h => changesOnly_trans h e⟩

theorem changesOnly_set_ldl {l : List Part} {s x : State} {v0 : Ladle} (m : ∀ p ∈ [.ldl], p ∈ l) (b : .dev ∈ l ∨ v0.dram = x.ldl.dram ∧ v0.rxCap = x.ldl.rxCap ∧ v0.orxCap = x.ldl.orxCap ∧ v0.commit = x.ldl.commit) :
    changesOnly l s { x with ldl := v0 } ↔ changesOnly l s x := by
  have e : changesOnly l x { x with ldl := v0 } := by
    intro p hp
    cases p
    case hmem => exact ⟨fun _ => rfl, fun _ _ => rfl⟩
    case dev => exact b.resolve_left hp
    case flash => exact ⟨rfl, rfl⟩
    all_goals first | exact rfl | exact absurd (m _ (by decide)) hp
  exact ⟨fun h => changesOnly_trans h (changesOnly_symm e), fun h => changesOnly_trans h e⟩

theorem changesOnly_set_mod {l : List Part} {s x : State} {v0 : _} (m : ∀ p ∈ [.mod], p ∈ l) :
    changesOnly l s { x with mod := v0 } ↔ changesOnly l s x := by
  have e : changesOnly l x { x with mod := v0 } := by
    intro p hp
    cases p
    case hmem => exact ⟨fun _ => rfl, fun _ _ => rfl⟩
    case dev => exact ⟨rfl, rfl, rfl, rfl⟩
    case flash => exact ⟨rfl, rfl⟩
    all_goals first | exact rfl | exact absurd (m _ (by decide)) hp
  exact ⟨fun h => changesOnly_trans h (changesOnly_symm e), fun h => changesOnly_trans h e⟩

theorem changesOnly_set_out {l : List Part} {s x : State} {v0 : _} (m : ∀ p ∈ [.out], p ∈ l) :
    changesOnly l s { x with out := v0 } ↔ changesOnly l s x := by
  have e : changesOnly l x { x with out := v0 } := by
    intro p hp
    cases p
    case hmem => exact ⟨fun _ => rfl, fun _ _ => rfl⟩
    case dev => exact ⟨rfl, rfl, rfl, rfl⟩
    case flash => exact ⟨rfl, rfl⟩
    all_goals first | exact rfl | exact absurd (m _ (by decide)) hp
  exact ⟨fun h => changesOnly_trans h (changesOnly_symm e), fun h => changesOnly_trans h e⟩

theorem changesOnly_set_pwr {l : List Part} {s x : State} {v0 : _} (m : ∀ p ∈ [.pwr], p ∈ l) :
    changesOnly l s { x with pwr := v0 } ↔ changesOnly l s x := by
  have e : changesOnly l x { x with pwr := v0 } := by
    intro p hp
    cases p
    case hmem => exact ⟨fun _ => rfl, fun _ _ => rfl⟩
    case dev => exact ⟨rfl, rfl, rfl, rfl⟩
    case flash => exact ⟨rfl, rfl⟩
    all_goals first | exact rfl | exact absurd (m _ (by decide)) hp
  exact ⟨fun h => changesOnly_trans h (changesOnly_symm e), fun h => changesOnly_trans h e⟩

theorem changesOnly_set_run {l : List Part} {s x : State} {v0 : _} (m : ∀ p ∈ [.run], p ∈ l) :
    changesOnly l s { x with run := v0 } ↔ changesOnly l s x := by
  have e : changesOnly l x { x with run := v0 } := by
    intro p hp
    cases p
    case hmem => exact ⟨fun _ => rfl, fun _ _ => rfl⟩
    case dev => exact ⟨rfl, rfl, rfl, rfl⟩
    case flash => exact ⟨rfl, rfl⟩
    all_goals first | exact rfl | exact absurd (m _ (by decide)) hp
  exact ⟨fun h => changesOnly_trans h (changesOnly_symm e), fun h => changesOnly_trans h e⟩

theorem changesOnly_set_rx {l : List Part} {s x : State} {v0 : _} (m : ∀ p ∈ [.rx], p ∈ l) :
    changesOnly l s { x with rx := v0 } ↔ changesOnly l s x := by
  have e : changesOnly l x { x with rx := v0 } := by
    intro p hp
    cases p
    case hmem => exact ⟨fun _ => rfl, fun _ _ => rfl⟩
    case dev => exact ⟨rfl, rfl, rfl, rfl⟩
    case flash => exact ⟨rfl, rfl⟩
    all_goals first | exact rfl | exact absurd (m _ (by decide)) hp
  exact ⟨fun h => changesOnly_trans h (changesOnly_symm e), fun h => changesOnly_trans h e⟩

theorem changesOnly_set_syn {l : List Part} {s x : State} {v0 : _} (m : ∀ p ∈ [.syn], p ∈ l) :
    changesOnly l s { x with syn := v0 } ↔ changesOnly l s x := by
  have e : changesOnly l x { x with syn := v0 } := by
    intro p hp
    cases p
    case hmem => exact ⟨fun _ => rfl, fun _ _ => rfl⟩
    case dev => exact ⟨rfl, rfl, rfl, rfl⟩
    case flash => exact ⟨rfl, rfl⟩
    all_goals first | exact rfl | exact absurd (m _ (by decide)) hp
  exact ⟨fun h => changesOnly_trans h (changesOnly_symm e), fun h => changesOnly_trans h e⟩

theorem changesOnly_set_tb {l : List Part} {s x : State} {v0 : Tb} (m : ∀ p ∈ [.tb], p ∈ l) :
    changesOnly l s { x with tb := v0 } ↔ changesOnly l s x := by
  have e : changesOnly l x { x with tb := v0 } := by
    intro p hp
    cases p
    case hmem => exact ⟨fun _ => rfl, fun _ _ => rfl⟩
    case dev => exact ⟨rfl, rfl, rfl, rfl⟩
    case flash => exact ⟨rfl, rfl⟩
    all_goals first | exact rfl | exact absurd (m _ (by decide)) hp
  exact ⟨fun h => changesOnly_trans h (changesOnly_symm e), fun h => changesOnly_trans h e⟩

theorem changesOnly_set_thm {l : List Part} {s x : State} {v0 : _} (m : ∀ p ∈ [.thm], p ∈ l) :
    changesOnly l s { x with thm := v0 } ↔ changesOnly l s x := by
  have e : changesOnly l x { x with thm := v0 } := by
    intro p hp
    cases p
    case hmem => exact ⟨fun _ => rfl, fun _ _ => rfl⟩
    case dev => exact ⟨rfl, rfl, rfl, rfl⟩
    case flash => exact ⟨rfl, rfl⟩
    all_goals first | exact rfl | exact absurd (m _ (by decide)) hp
  exact ⟨fun h => changesOnly_trans h (changesOnly_symm e), fun h => changesOnly_trans h e⟩

theorem changesOnly_set_tx {l : List Part} {s x : State} {v0 : _} (m : ∀ p ∈ [.tx], p ∈ l) :
    changesOnly l s { x with tx := v0 } ↔ changesOnly l s x := by
  have e : changesOnly l x { x with tx := v0 } := by
    intro p hp
    cases p
    case hmem => exact ⟨fun _ => rfl, fun _ _ => rfl⟩
    case dev => exact ⟨rfl, rfl, rfl, rfl⟩
    case flash => exact ⟨rfl, rfl⟩
    all_goals first | exact rfl | exact absurd (m _ (by decide)) hp
  exact ⟨fun h => changesOnly_trans h (changesOnly_symm e), fun h => changesOnly_trans h e⟩

theorem changesOnly_set_fh_cru {l : List Part} {s x : State} {v0 : _} {v1 : _} (m : ∀ p ∈ [.fh, .cru], p ∈ l) :
    changesOnly l s { x with fh := v0, cru := v1 } ↔ changesOnly l s x := by
  have e : changesOnly l x { x with fh := v0, cru := v1 } := by
    intro p hp
    cases p
    case hmem => exact ⟨fun _ => rfl, fun _ _ => rfl⟩
    case dev => exact ⟨rfl, rfl, rfl, rfl⟩
    case flash => exact ⟨rfl, rfl⟩
    all_goals first | exact rfl | exact absurd (m _ (by decide)) hp
  exact ⟨fun h => changesOnly_trans h (changesOnly_symm e), fun h => changesOnly_trans h e⟩

theorem changesOnly_set_hb_fus {l : List Part} {s x : State} {v0 : Hb} {v1 : _} (m : ∀ p ∈ [.hb, .fus], p ∈ l) (c : .flash ∈ l ∨ v0.recs = x.hb.recs ∧ v0.clearLog = x.hb.clearLog) :
    changesOnly l s { x with hb := v0, fus := v1 } ↔ changesOnly l s x := by
  have e : changesOnly l x { x with hb := v0, fus := v1 } := by
    intro p hp
    cases p
    case hmem => exact ⟨fun _ => rfl, fun _ _ => rfl⟩
    case dev => exact ⟨rfl, rfl, rfl, rfl⟩
    case flash => exact c.resolve_left hp
    all_goals first | exact rfl | exact absurd (m _ (by decide)) hp
  exact ⟨fun h => changesOnly_trans h (changesOnly_symm e), fun h => changesOnly_trans h e⟩

theorem changesOnly_set_host_out {l : List Part} {s x : State} {v0 : HostIf} {v1 : _} (m : ∀ p ∈ [.host, .out], p ∈ l) (a : .hmem ∈ l ∨ v0.mem = x.host.mem ∧ v0.rings = x.host.rings) :
    changesOnly l s { x with host := v0, out := v1 } ↔ changesOnly l s x := by
  have e : changesOnly l x { x with host := v0, out := v1 } := by
    intro p hp
    cases p
    case hmem => exact (a.resolve_left hp).elim fun h k => ⟨fun r => by unfold ringPlace ringOf; simp only [k], fun _ _ => by simp only [h]⟩
    case dev => exact ⟨rfl, rfl, rfl, rfl⟩
    case flash => exact ⟨rfl, rfl⟩
    all_goals first | exact rfl | exact absurd (m _ (by decide)) hp
  exact ⟨fun h => changesOnly_trans h (changesOnly_symm e), fun h => changesOnly_trans h e⟩

theorem changesOnly_set_ldl_cru {l : List Part} {s x : State} {v0 : Ladle} {v1 : _} (m : ∀ p ∈ [.ldl, .cru], p ∈ l) (b : .dev ∈ l ∨ v0.dram = x.ldl.dram ∧ v0.rxCap = x.ldl.rxCap ∧ v0.orxCap = x.ldl.orxCap ∧ v0.commit = x.ldl.commit) :
    changesOnly l s { x with ldl := v0, cru := v1 } ↔ changesOnly l s x := by
  have e : changesOnly l x { x with ldl := v0, cru := v1 } := by
    intro p hp
    cases p
    case hmem => exact ⟨fun _ => rfl, fun _ _ => rfl⟩
    case dev => exact b.resolve_left hp
    case flash => exact ⟨rfl, rfl⟩
    all_goals first | exact rfl | exact absurd (m _ (by decide)) hp
  exact ⟨fun h => changesOnly_trans h (changesOnly_symm e), fun h => changesOnly_trans h e⟩

theorem changesOnly_set_ldl_rx {l : List Part} {s x : State} {v0 : Ladle} {v1 : _} (m : ∀ p ∈ [.ldl, .rx], p ∈ l) (b : .dev ∈ l ∨ v0.dram = x.ldl.dram ∧ v0.rxCap = x.ldl.rxCap ∧ v0.orxCap = x.ldl.orxCap ∧ v0.commit = x.ldl.commit) :
    changesOnly l s { x with ldl := v0, rx := v1 } ↔ changesOnly l s x := by
  have e : changesOnly l x { x with ldl := v0, rx := v1 } := by
    intro p hp
    cases p
    case hmem => exact ⟨fun _ => rfl, fun _ _ => rfl⟩
    case dev => exact b.resolve_left hp
    case flash => exact ⟨rfl, rfl⟩
    all_goals first | exact rfl | exact absurd (m _ (by decide)) hp
  exact ⟨fun h => changesOnly_trans h (changesOnly_symm e), fun h => changesOnly_trans h e⟩

theorem changesOnly_set_mod_anl {l : List Part} {s x : State} {v0 : _} {v1 : _} (m : ∀ p ∈ [.mod, .anl], p ∈ l) :
    changesOnly l s { x with mod := v0, anl := v1 } ↔ changesOnly l s x := by
  have e : changesOnly l x { x with mod := v0, anl := v1 } := by
    intro p hp
    cases p
    case hmem => exact ⟨fun _ => rfl, fun _ _ => rfl⟩
    case dev => exact ⟨rfl, rfl, rfl, rfl⟩
    case flash => exact ⟨rfl, rfl⟩
    all_goals first | exact rfl | exact absurd (m _ (by decide)) hp
  exact ⟨fun h => changesOnly_trans h (changesOnly_symm e), fun h => changesOnly_trans h e⟩

theorem changesOnly_set_pwr_hld {l : List Part} {s x : State} {v0 : _} {v1 : _} (m : ∀ p ∈ [.pwr, .hld], p ∈ l) :
    changesOnly l s { x with pwr := v0, hld := v1 } ↔ changesOnly l s x := by
  have e : changesOnly l x { x with pwr := v0, hld := v1 } := by
    intro p hp
    cases p
    case hmem => exact ⟨fun _ => rfl, fun _ _ => rfl⟩
    case dev => exact ⟨rfl, rfl, rfl, rfl⟩
    case flash => exact ⟨rfl, rfl⟩
    all_goals first | exact rfl | exact absurd (m _ (by decide)) hp
  exact ⟨fun h => changesOnly_trans h (changesOnly_symm e), fun h => changesOnly_trans h e⟩

theorem changesOnly_set_tb_run {l : List Part} {s x : State} {v0 : Tb} {v1 : _} (m : ∀ p ∈ [.tb, .run], p ∈ l) :
    changesOnly l s { x with tb := v0, run := v1 } ↔ changesOnly l s x := by
  have e : changesOnly l x { x with tb := v0, run := v1 } := by
    intro p hp
    cases p
    case hmem => exact ⟨fun _ => rfl, fun _ _ => rfl⟩
    case dev => exact ⟨rfl, rfl, rfl, rfl⟩
    case flash => exact ⟨rfl, rfl⟩
    all_goals first | exact rfl | exact absurd (m _ (by decide)) hp
  exact ⟨fun h => changesOnly_trans h (changesOnly_symm e), fun h => changesOnly_trans h e⟩

theorem changesOnly_set_tb_syn {l : List Part} {s x : State} {v0 : Tb} {v1 : _} (m : ∀ p ∈ [.tb, .syn], p ∈ l) :
    changesOnly l s { x with tb := v0, syn := v1 } ↔ changesOnly l s x := by
  have e : changesOnly l x { x with tb := v0, syn := v1 } := by
    intro p hp
    cases p
    case hmem => exact ⟨fun _ => rfl, fun _ _ => rfl⟩
    case dev => exact ⟨rfl, rfl, rfl, rfl⟩
    case flash => exact ⟨rfl, rfl⟩
    all_goals first | exact rfl | exact absurd (m _ (by decide)) hp
  exact ⟨fun h => changesOnly_trans h (changesOnly_symm e), fun h => changesOnly_trans h e⟩

theorem changesOnly_set_thm_gen {l : List Part} {s x : State} {v0 : _} {v1 : _} (m : ∀ p ∈ [.thm, .gen], p ∈ l) :
    changesOnly l s { x with thm := v0, gen := v1 } ↔ changesOnly l s x := by
  have e : changesOnly l x { x with thm := v0, gen := v1 } := by
    intro p hp
    cases p
    case hmem => exact ⟨fun _ => rfl, fun _ _ => rfl⟩
    case dev => exact ⟨rfl, rfl, rfl, rfl⟩
    case flash => exact ⟨rfl, rfl⟩
    all_goals first | exact rfl | exact absurd (m _ (by decide)) hp
  exact ⟨fun h => changesOnly_trans h (changesOnly_symm e), fun h => changesOnly_trans h e⟩

theorem changesOnly_set_tx_rx {l : List Part} {s x : State} {v0 : _} {v1 : _} (m : ∀ p ∈ [.tx, .rx], p ∈ l) :
    changesOnly l s { x with tx := v0, rx := v1 } ↔ changesOnly l s x := by
  have e : changesOnly l x { x with tx := v0, rx := v1 } := by
    intro p hp
    cases p
    case hmem => exact ⟨fun _ => rfl, fun _ _ => rfl⟩
    case dev => exact ⟨rfl, rfl, rfl, rfl⟩
    case flash => exact ⟨rfl, rfl⟩
    all_goals first | exact rfl | exact absurd (m _ (by decide)) hp
  exact ⟨fun h => changesOnly_trans h (changesOnly_symm e), fun h => changesOnly_trans h e⟩

theorem changesOnly_set_tx_thm {l : List Part} {s x : State} {v0 : _} {v1 : _} (m : ∀ p ∈ [.tx, .thm], p ∈ l) :
    changesOnly l s { x with tx := v0, thm := v1 } ↔ changesOnly l s x := by
  have e : changesOnly l x { x with tx := v0, thm := v1 } := by
    intro p hp
    cases p
    case hmem => exact ⟨fun _ => rfl, fun _ _ => rfl⟩
    case dev => exact ⟨rfl, rfl, rfl, rfl⟩
    case flash => exact ⟨rfl, rfl⟩
    all_goals first | exact rfl | exact absurd (m _ (by decide)) hp
  exact ⟨fun h => changesOnly_trans h (changesOnly_symm e), fun h => changesOnly_trans h e⟩

theorem changesOnly_set_fh_cru_gen {l : List Part} {s x : State} {v0 : _} {v1 : _} {v2 : _} (m : ∀ p ∈ [.fh, .cru, .gen], p ∈ l) :
    changesOnly l s { x with fh := v0, cru := v1, gen := v2 } ↔ changesOnly l s x := by
  have e : changesOnly l x { x with fh := v0, cru := v1, gen := v2 } := by
    intro p hp
    cases p
    case hmem => exact ⟨fun _ => rfl, fun _ _ => rfl⟩
    case dev => exact ⟨rfl, rfl, rfl, rfl⟩
    case flash => exact ⟨rfl, rfl⟩
    all_goals first | exact rfl | exact absurd (m _ (by decide)) hp
  exact ⟨fun h => changesOnly_trans h (changesOnly_symm e), fun h => changesOnly_trans h e⟩

theorem changesOnly_set_host_ldl_cru_run {l : List Part} {s x : State} {v0 : HostIf} {v1 : Ladle} {v2 : _} {v3 : _} (m : ∀ p ∈ [.host, .ldl, .cru, .run], p ∈ l) (a : .hmem ∈ l ∨ v0.mem = x.host.mem ∧ v0.rings = x.host.rings) (b : .dev ∈ l ∨ v1.dram = x.ldl.dram ∧ v1.rxCap = x.ldl.rxCap ∧ v1.orxCap = x.ldl.orxCap ∧ v1.commit = x.ldl.commit) :
    changesOnly l s { x with host := v0, ldl := v1, cru := v2, run := v3 } ↔ changesOnly l s x := by
  have e : changesOnly l x { x with host := v0, ldl := v1, cru := v2, run := v3 } := by
    intro p hp
    cases p
    case hmem => exact (a.resolve_left hp).elim fun h k => ⟨fun r => by unfold ringPlace ringOf; simp only [k], fun _ _ => by simp only [h]⟩
    case dev => exact b.resolve_left hp
    case flash => exact ⟨rfl, rfl⟩
    all_goals first | exact rfl | exact absurd (m _ (by decide)) hp
  exact ⟨fun h => changesOnly_trans h (changesOnly_symm e), fun h => changesOnly_trans h e⟩

theorem changesOnly_set_host_anl_hb_fus_gen {l : List Part} {s x : State} {v0 : HostIf} {v1 : _} {v2 : Hb} {v3 : _} {v4 : _} (m : ∀ p ∈ [.host, .anl, .hb, .fus, .gen], p ∈ l) (a : .hmem ∈ l ∨ v0.mem = x.host.mem ∧ v0.rings = x.host.rings) (c : .flash ∈ l ∨ v2.recs = x.hb.recs ∧ v2.clearLog = x.hb.clearLog) :
    changesOnly l s { x with host := v0, anl := v1, hb := v2, fus := v3, gen := v4 } ↔ changesOnly l s x := by
  have e : changesOnly l x { x with host := v0, anl := v1, hb := v2, fus := v3, gen := v4 } := by
    intro p hp
    cases p
    case hmem => exact (a.resolve_left hp).elim fun h k => ⟨fun r => by unfold ringPlace ringOf; simp only [k], fun _ _ => by simp only [h]⟩
    case dev => exact ⟨rfl, rfl, rfl, rfl⟩
    case flash => exact c.resolve_left hp
    all_goals first | exact rfl | exact absurd (m _ (by decide)) hp
  exact ⟨fun h => changesOnly_trans h (changesOnly_symm e), fun h => changesOnly_trans h e⟩

theorem changesOnly_set_mod_ldl_lanes_fh_run_tx_rx_gen {l : List Part} {s x : State} {v0 : _} {v1 : Ladle} {v2 : _} {v3 : _} {v4 : _} {v5 : _} {v6 : _} {v7 : _} (m : ∀ p ∈ [.mod, .ldl, .lanes, .fh, .run, .tx, .rx, .gen], p ∈ l) (b : .dev ∈ l ∨ v1.dram = x.ldl.dram ∧ v1.rxCap = x.ldl.rxCap ∧ v1.orxCap = x.ldl.orxCap ∧ v1.commit = x.ldl.commit) :
    changesOnly l s { x with mod := v0, ldl := v1, lanes := v2, fh := v3, run := v4, tx := v5, rx := v6, gen := v7 } ↔ changesOnly l s x := by
  have e : changesOnly l x { x with mod := v0, ldl := v1, lanes := v2, fh := v3, run := v4, tx := v5, rx := v6, gen := v7 } := by
    intro p hp
    cases p
    case hmem => exact ⟨fun _ => rfl, fun _ _ => rfl⟩
    case dev => exact b.resolve_left hp
    case flash => exact ⟨rfl, rfl⟩
    all_goals first | exact rfl | exact absurd (m _ (by decide)) hp
  exact ⟨fun h => changesOnly_trans h (changesOnly_symm e), fun h => changesOnly_trans h e⟩

theorem changesOnly_set_syn_mod {l : List Part} {s x : State} {v0 : _} {v1 : _} (m : ∀ p ∈ [.syn, .mod], p ∈ l) :
    changesOnly l s { x with syn := v0, mod := v1 } ↔ changesOnly l s x := by
  have e : changesOnly l x { x with syn := v0, mod := v1 } := by
    intro p hp
    cases p
    case hmem => exact ⟨fun _ => rfl, fun _ _ => rfl⟩
    case dev => exact ⟨rfl, rfl, rfl, rfl⟩
    case flash => exact ⟨rfl, rfl⟩
    all_goals first | exact rfl | exact absurd (m _ (by decide)) hp
  exact ⟨fun h => changesOnly_trans h (changesOnly_symm e), fun h => changesOnly_trans h e⟩

theorem changesOnly_set_mod_host_ldl_lanes_fh_run_tx_rx_gen {l : List Part} {s x : State} {v0 : _} {v1 : HostIf} {v2 : Ladle} {v3 : _} {v4 : _} {v5 : _} {v6 : _} {v7 : _} {v8 : _} (m : ∀ p ∈ [.mod, .host, .ldl, .lanes, .fh, .run, .tx, .rx, .gen], p ∈ l) (a : .hmem ∈ l ∨ v1.mem = x.host.mem ∧ v1.rings = x.host.rings) (b : .dev ∈ l ∨ v2.dram = x.ldl.dram ∧ v2.rxCap = x.ldl.rxCap ∧ v2.orxCap = x.ldl.orxCap ∧ v2.commit = x.ldl.commit) :
    changesOnly l s { x with mod := v0, host := v1, ldl := v2, lanes := v3, fh := v4, run := v5, tx := v6, rx := v7, gen := v8 } ↔ changesOnly l s x := by
  have e : changesOnly l x { x with mod := v0, host := v1, ldl := v2, lanes := v3, fh := v4, run := v5, tx := v6, rx := v7, gen := v8 } := by
    intro p hp
    cases p
    case hmem => exact (a.resolve_left hp).elim fun h k => ⟨fun r => by unfold ringPlace ringOf; simp only [k], fun _ _ => by simp only [h]⟩
    case dev => exact b.resolve_left hp
    case flash => exact ⟨rfl, rfl⟩
    all_goals first | exact rfl | exact absurd (m _ (by decide)) hp
  exact ⟨fun h => changesOnly_trans h (changesOnly_symm e), fun h => changesOnly_trans h e⟩

theorem changesOnly_set_run_gen {l : List Part} {s x : State} {v0 : _} {v1 : _} (m : ∀ p ∈ [.run, .gen], p ∈ l) :
    changesOnly l s { x with run := v0, gen := v1 } ↔ changesOnly l s x := by
  have e : changesOnly l x { x with run := v0, gen := v1 } := by
    intro p hp
    cases p
    case hmem => exact ⟨fun _ => rfl, fun _ _ => rfl⟩
    case dev => exact ⟨rfl, rfl, rfl, rfl⟩
    case flash => exact ⟨rfl, rfl⟩
    all_goals first | exact rfl | exact absurd (m _ (by decide)) hp
  exact ⟨fun h => changesOnly_trans h (changesOnly_symm e), fun h => changesOnly_trans h e⟩

theorem changesOnly_set_tb_rx {l : List Part} {s x : State} {v0 : Tb} {v1 : _} (m : ∀ p ∈ [.tb, .rx], p ∈ l) :
    changesOnly l s { x with tb := v0, rx := v1 } ↔ changesOnly l s x := by
  have e : changesOnly l x { x with tb := v0, rx := v1 } := by
    intro p hp
    cases p
    case hmem => exact ⟨fun _ => rfl, fun _ _ => rfl⟩
    case dev => exact ⟨rfl, rfl, rfl, rfl⟩
    case flash => exact ⟨rfl, rfl⟩
    all_goals first | exact rfl | exact absurd (m _ (by decide)) hp
  exact ⟨fun h => changesOnly_trans h (changesOnly_symm e), fun h => changesOnly_trans h e⟩

theorem wait_changes (dt : ℕ) (s : State) : changesOnly [.tb] s (wait dt s) := by
  unfold wait
  repeat' first
    | simp -zeta -zetaUnused (disch := first | decide | (apply Or.inl; decide) | (apply Or.inr; apply And.intro rfl; first | rfl | exact And.intro rfl (And.intro rfl rfl))) only [changesOnly_set_tb]
    | with_reducible apply changesOnly_ite'
    | with_reducible assumption
    | with_reducible apply changesOnly_refl
    | split

theorem arriveAt_changes (due : ℕ) (s : State) : changesOnly [.tb, .host, .out] s (arriveAt due s) := by
  unfold arriveAt
  repeat' first
    | with_reducible assumption
    | with_reducible apply changesOnly_refl
    | (with_reducible apply changesOnly_step; with_reducible apply arrive_changes; decide)
    | split

theorem send_changes (s : State) (o : Out) : changesOnly [.out] s (send s o) := by
  unfold send
  repeat' first
    | simp -zeta -zetaUnused (disch := first | decide | (apply Or.inl; decide) | (apply Or.inr; apply And.intro rfl; first | rfl | exact And.intro rfl (And.intro rfl rfl))) only [changesOnly_set_out]
    | with_reducible assumption
    | with_reducible apply changesOnly_refl
    | split

theorem aerReport_changes (s : State) (write : Bool) : changesOnly [.host, .out] s (aerReport s write) := by
  unfold aerReport
  repeat' first
    | simp -zeta -zetaUnused (disch := first | decide | (apply Or.inl; decide) | (apply Or.inr; apply And.intro rfl; first | rfl | exact And.intro rfl (And.intro rfl rfl))) only [changesOnly_set_host]
    | with_reducible assumption
    | with_reducible apply changesOnly_refl
    | (with_reducible apply changesOnly_step; with_reducible apply send_changes; decide)
    | split

theorem endSeq_changes (s : State) (seq : Nat) (status cause : Nat) (result : Nat) : changesOnly [.host, .out] s (endSeq s seq status cause result) := by
  unfold endSeq
  repeat' first
    | with_reducible assumption
    | with_reducible apply changesOnly_refl
    | (with_reducible apply changesOnly_step; with_reducible apply cmdEnd_changes; decide)
    | split

theorem modTx_changes (s : State) (p0 : ℕ) (f : TxPath → TxPath) : changesOnly [.tx] s (modTx s p0 f) := by
  unfold modTx
  repeat' first
    | simp -zeta -zetaUnused (disch := first | decide | (apply Or.inl; decide) | (apply Or.inr; apply And.intro rfl; first | rfl | exact And.intro rfl (And.intro rfl rfl))) only [changesOnly_set_tx]
    | with_reducible assumption
    | with_reducible apply changesOnly_refl
    | split

theorem modDpd_changes (s : State) (p0 : ℕ) (f : Dpd → Dpd) : changesOnly [.tx] s (modDpd s p0 f) := by
  unfold modDpd
  repeat' first
    | simp -zeta -zetaUnused (disch := first | decide | (apply Or.inl; decide) | (apply Or.inr; apply And.intro rfl; first | rfl | exact And.intro rfl (And.intro rfl rfl))) only [changesOnly_set_tx]
    | with_reducible assumption
    | with_reducible apply changesOnly_refl
    | split

theorem modCox_changes (s : State) (i : ℕ) (f : Cox → Cox) : changesOnly [.tx] s (modCox s i f) := by
  unfold modCox
  repeat' first
    | simp -zeta -zetaUnused (disch := first | decide | (apply Or.inl; decide) | (apply Or.inr; apply And.intro rfl; first | rfl | exact And.intro rfl (And.intro rfl rfl))) only [changesOnly_set_tx]
    | with_reducible assumption
    | with_reducible apply changesOnly_refl
    | split

theorem modRx_changes (s : State) (p0 : ℕ) (f : RxPath → RxPath) : changesOnly [.rx] s (modRx s p0 f) := by
  unfold modRx
  repeat' first
    | simp -zeta -zetaUnused (disch := first | decide | (apply Or.inl; decide) | (apply Or.inr; apply And.intro rfl; first | rfl | exact And.intro rfl (And.intro rfl rfl))) only [changesOnly_set_rx]
    | with_reducible assumption
    | with_reducible apply changesOnly_refl
    | split

theorem modOrx_changes (s : State) (i : ℕ) (f : OrxArb → OrxArb) : changesOnly [.rx] s (modOrx s i f) := by
  unfold modOrx
  repeat' first
    | simp -zeta -zetaUnused (disch := first | decide | (apply Or.inl; decide) | (apply Or.inr; apply And.intro rfl; first | rfl | exact And.intro rfl (And.intro rfl rfl))) only [changesOnly_set_rx]
    | with_reducible assumption
    | with_reducible apply changesOnly_refl
    | split

theorem modLane_changes (s : State) (l : ℕ) (f : Lane → Lane) : changesOnly [.lanes] s (modLane s l f) := by
  unfold modLane
  repeat' first
    | simp -zeta -zetaUnused (disch := first | decide | (apply Or.inl; decide) | (apply Or.inr; apply And.intro rfl; first | rfl | exact And.intro rfl (And.intro rfl rfl))) only [changesOnly_set_lanes]
    | with_reducible assumption
    | with_reducible apply changesOnly_refl
    | split

theorem modSynth_changes (s : State) (n : ℕ) (f : Synth → Synth) : changesOnly [.syn] s (modSynth s n f) := by
  unfold modSynth
  repeat' first
    | simp -zeta -zetaUnused (disch := first | decide | (apply Or.inl; decide) | (apply Or.inr; apply And.intro rfl; first | rfl | exact And.intro rfl (And.intro rfl rfl))) only [changesOnly_set_syn]
    | with_reducible assumption
    | with_reducible apply changesOnly_refl
    | split

theorem modPot_changes (s : State) (i : ℕ) (f : Pot → Pot) : changesOnly [.cru] s (modPot s i f) := by
  unfold modPot
  repeat' first
    | simp -zeta -zetaUnused (disch := first | decide | (apply Or.inl; decide) | (apply Or.inr; apply And.intro rfl; first | rfl | exact And.intro rfl (And.intro rfl rfl))) only [changesOnly_set_cru]
    | with_reducible assumption
    | with_reducible apply changesOnly_refl
    | split

theorem modSensor_changes (s : State) (i : ℕ) (f : Sensor → Sensor) : changesOnly [.thm] s (modSensor s i f) := by
  unfold modSensor
  repeat' first
    | simp -zeta -zetaUnused (disch := first | decide | (apply Or.inl; decide) | (apply Or.inr; apply And.intro rfl; first | rfl | exact And.intro rfl (And.intro rfl rfl))) only [changesOnly_set_thm]
    | with_reducible assumption
    | with_reducible apply changesOnly_refl
    | split

theorem modGroup_changes (s : State) (i : ℕ) (f : Group → Group) : changesOnly [.thm] s (modGroup s i f) := by
  unfold modGroup
  repeat' first
    | simp -zeta -zetaUnused (disch := first | decide | (apply Or.inl; decide) | (apply Or.inr; apply And.intro rfl; first | rfl | exact And.intro rfl (And.intro rfl rfl))) only [changesOnly_set_thm]
    | with_reducible assumption
    | with_reducible apply changesOnly_refl
    | split

theorem modFan_changes (s : State) (i : ℕ) (f : Fan → Fan) : changesOnly [.thm] s (modFan s i f) := by
  unfold modFan
  repeat' first
    | simp -zeta -zetaUnused (disch := first | decide | (apply Or.inl; decide) | (apply Or.inr; apply And.intro rfl; first | rfl | exact And.intro rfl (And.intro rfl rfl))) only [changesOnly_set_thm]
    | with_reducible assumption
    | with_reducible apply changesOnly_refl
    | split

theorem modBias_changes (s : State) (o : ℕ) (f : BiasOut → BiasOut) : changesOnly [.bias] s (modBias s o f) := by
  unfold modBias
  repeat' first
    | simp -zeta -zetaUnused (disch := first | decide | (apply Or.inl; decide) | (apply Or.inr; apply And.intro rfl; first | rfl | exact And.intro rfl (And.intro rfl rfl))) only [changesOnly_set_bias]
    | with_reducible assumption
    | with_reducible apply changesOnly_refl
    | split

theorem modModCc_changes (s : State) (c : ℕ) (f : ModCc → ModCc) : changesOnly [.mod] s (modModCc s c f) := by
  unfold modModCc
  repeat' first
    | simp -zeta -zetaUnused (disch := first | decide | (apply Or.inl; decide) | (apply Or.inr; apply And.intro rfl; first | rfl | exact And.intro rfl (And.intro rfl rfl))) only [changesOnly_set_mod]
    | with_reducible assumption
    | with_reducible apply changesOnly_refl
    | split

theorem modSide_changes (s : State) (d : ℕ) (f : Side → Side) : changesOnly [.run] s (modSide s d f) := by
  unfold modSide
  repeat' first
    | simp -zeta -zetaUnused (disch := first | decide | (apply Or.inl; decide) | (apply Or.inr; apply And.intro rfl; first | rfl | exact And.intro rfl (And.intro rfl rfl))) only [changesOnly_set_run]
    | with_reducible assumption
    | with_reducible apply changesOnly_refl
    | split

theorem modCh_changes (s : State) (c : ℕ) (f : LdlCh → LdlCh) : changesOnly [.ldl] s (modCh s c f) := by
  unfold modCh
  repeat' first
    | simp -zeta -zetaUnused (disch := first | decide | (apply Or.inl; decide) | (apply Or.inr; apply And.intro rfl; first | rfl | exact And.intro rfl (And.intro rfl rfl))) only [changesOnly_set_ldl]
    | with_reducible assumption
    | with_reducible apply changesOnly_refl
    | split

theorem modFb_changes (s : State) (c : ℕ) (f : AsyFb → AsyFb) : changesOnly [.ldl] s (modFb s c f) := by
  unfold modFb
  repeat' first
    | simp -zeta -zetaUnused (disch := first | decide | (apply Or.inl; decide) | (apply Or.inr; apply And.intro rfl; first | rfl | exact And.intro rfl (And.intro rfl rfl))) only [changesOnly_set_ldl]
    | with_reducible assumption
    | with_reducible apply changesOnly_refl
    | split

theorem modCmp_changes (s : State) (k : ℕ) (f : Cmp → Cmp) : changesOnly [.hka] s (modCmp s k f) := by
  unfold modCmp
  repeat' first
    | simp -zeta -zetaUnused (disch := first | decide | (apply Or.inl; decide) | (apply Or.inr; apply And.intro rfl; first | rfl | exact And.intro rfl (And.intro rfl rfl))) only [changesOnly_set_hka]
    | with_reducible assumption
    | with_reducible apply changesOnly_refl
    | split

theorem modCorr_changes (s : State) (p0 : ℕ) (f : AnlCorr → AnlCorr) : changesOnly [.anl] s (modCorr s p0 f) := by
  unfold modCorr
  repeat' first
    | simp -zeta -zetaUnused (disch := first | decide | (apply Or.inl; decide) | (apply Or.inr; apply And.intro rfl; first | rfl | exact And.intro rfl (And.intro rfl rfl))) only [changesOnly_set_anl]
    | with_reducible assumption
    | with_reducible apply changesOnly_refl
    | split

theorem moveRefused_changes (s : State) (ch : Nat) (c : Cmd) (r : Refuse) : changesOnly [.host, .ldl, .out] s (moveRefused s ch c r) := by
  unfold moveRefused
  repeat' first
    | (extract_lets +onlyGivenNames x; refine changesOnly_cut (x := x) ?_ ?_; (on_goal 1 => (unfold x; clear x)); (on_goal 2 => (intro hx; try clear_value x)))
    | (extract_lets +onlyGivenNames x; refine changesOnly_letLadle (x := x) ?_; (try dsimp -zeta only [x]); clear x)
    | (extract_lets +onlyGivenNames x; refine changesOnly_fn (x := x) ?_; (try dsimp -zeta only [x]); clear x)
    | (extract_lets +onlyGivenNames x; refine changesOnly_fn2 (x := x) ?_; (try dsimp -zeta only [x]); clear x)
    | (extract_lets +onlyGivenNames x; try clear_value x)
    | with_reducible apply changesOnly_ite'
    | with_reducible assumption
    | with_reducible apply changesOnly_refl
    | (with_reducible apply changesOnly_step; with_reducible apply modCh_changes; decide)
    | (with_reducible apply changesOnly_step; with_reducible apply signal_changes; decide)
    | split

theorem settle_changes (s : State) (p lo hi : Nat) : changesOnly [.rx] s (settle s p lo hi) := by
  unfold settle
  repeat' first
    | with_reducible assumption
    | with_reducible apply changesOnly_refl
    | (with_reducible apply changesOnly_step; with_reducible apply modRx_changes; decide)
    | split

theorem fadeStart_changes (s : State) (p : Nat) : changesOnly [.rx] s (fadeStart s p) := by
  unfold fadeStart
  repeat' first
    | with_reducible assumption
    | with_reducible apply changesOnly_refl
    | (with_reducible apply changesOnly_step; with_reducible apply modRx_changes; decide)
    | split

theorem laneErr_changes (s : State) (l : ℕ) : changesOnly [.lanes] s (laneErr s l) := by
  unfold laneErr
  repeat' first
    | with_reducible assumption
    | with_reducible apply changesOnly_refl
    | (with_reducible apply changesOnly_step; with_reducible apply modLane_changes; decide)
    | split

theorem lgAdd_changes (s : State) (kind : ℕ) (code : ℕ) (off : ℕ) (data : BitVec 128) : changesOnly [.hb] s (lgAdd s kind code off data) := by
  unfold lgAdd
  repeat' first
    | simp -zeta -zetaUnused (disch := first | decide | (apply Or.inl; decide) | (apply Or.inr; apply And.intro rfl; first | rfl | exact And.intro rfl (And.intro rfl rfl))) only [changesOnly_set_hb]
    | with_reducible apply changesOnly_ite'
    | with_reducible assumption
    | with_reducible apply changesOnly_refl
    | split

theorem hbFailure_changes (s : State) (kind : ℕ) (cause : ℕ) (off : ℕ) (data : BitVec 128) : changesOnly [.host, .pwr, .hb, .fus, .out] s (hbFailure s kind cause off data) := by
  unfold hbFailure
  repeat' first
    | simp -zeta -zetaUnused (disch := first | decide | (apply Or.inl; decide) | (apply Or.inr; apply And.intro rfl; first | rfl | exact And.intro rfl (And.intro rfl rfl))) only [changesOnly_set_hb_fus]
    | (extract_lets +onlyGivenNames x; refine changesOnly_cut (x := x) ?_ ?_; (on_goal 1 => (unfold x; clear x)); (on_goal 2 => (intro hx; try clear_value x)))
    | (extract_lets +onlyGivenNames x; refine changesOnly_letHb (x := x) ?_; (try dsimp -zeta only [x]); clear x)
    | (extract_lets +onlyGivenNames x; try clear_value x)
    | with_reducible assumption
    | with_reducible apply changesOnly_refl
    | (with_reducible apply changesOnly_step; with_reducible apply lgAdd_changes; decide)
    | (with_reducible apply changesOnly_step; with_reducible apply post_changes; decide)
    | split

theorem retirePath_changes (s : State) (p0 : ℕ) (by_ : ℕ) : changesOnly [.host, .tx, .pwr, .hb, .out] s (retirePath s p0 by_) := by
  unfold retirePath
  repeat' first
    | with_reducible assumption
    | with_reducible apply changesOnly_refl
    | (with_reducible apply changesOnly_step; with_reducible apply noteRetired_changes; decide)
    | (with_reducible apply changesOnly_step; with_reducible apply modDpd_changes; decide)
    | (with_reducible apply changesOnly_step; with_reducible apply modTx_changes; decide)
    | split

theorem pathFault_changes (s : State) (p0 : ℕ) : changesOnly [.host, .tx, .pwr, .hb, .out] s (pathFault s p0) := by
  unfold pathFault
  repeat' first
    | (extract_lets +onlyGivenNames x; refine changesOnly_cut (x := x) ?_ ?_; (on_goal 1 => (unfold x; clear x)); (on_goal 2 => (intro hx; try clear_value x)))
    | (extract_lets +onlyGivenNames x; refine changesOnly_fn (x := x) ?_; (try dsimp -zeta only [x]); clear x)
    | (extract_lets +onlyGivenNames x; refine changesOnly_fn2 (x := x) ?_; (try dsimp -zeta only [x]); clear x)
    | (extract_lets +onlyGivenNames x; try clear_value x)
    | with_reducible apply changesOnly_ite'
    | with_reducible assumption
    | with_reducible apply changesOnly_refl
    | (with_reducible apply changesOnly_step; with_reducible apply noteFault_changes; decide)
    | (with_reducible apply changesOnly_step; with_reducible apply modTx_changes; decide)
    | (with_reducible apply changesOnly_step; with_reducible apply retirePath_changes; decide)
    | split

theorem linesIdle_changes (s : State) (chosen : Nat → Bool) : changesOnly [.tx, .rx] s (linesIdle s chosen) := by
  unfold linesIdle
  repeat' first
    | simp -zeta -zetaUnused (disch := first | decide | (apply Or.inl; decide) | (apply Or.inr; apply And.intro rfl; first | rfl | exact And.intro rfl (And.intro rfl rfl))) only [changesOnly_set_tx_rx]
    | with_reducible apply changesOnly_ite'
    | with_reducible assumption
    | with_reducible apply changesOnly_refl
    | split

theorem linesCut_changes (s : State) (chosen : Nat → Bool) : changesOnly [.tx] s (linesCut s chosen) := by
  unfold linesCut
  repeat' first
    | simp -zeta -zetaUnused (disch := first | decide | (apply Or.inl; decide) | (apply Or.inr; apply And.intro rfl; first | rfl | exact And.intro rfl (And.intro rfl rfl))) only [changesOnly_set_tx]
    | with_reducible apply changesOnly_ite'
    | with_reducible assumption
    | with_reducible apply changesOnly_refl
    | split

theorem biasForce_changes (s : State) : changesOnly [.bias] s (biasForce s) := by
  unfold biasForce
  repeat' first
    | simp -zeta -zetaUnused (disch := first | decide | (apply Or.inl; decide) | (apply Or.inr; apply And.intro rfl; first | rfl | exact And.intro rfl (And.intro rfl rfl))) only [changesOnly_set_bias]
    | with_reducible apply changesOnly_ite'
    | with_reducible assumption
    | with_reducible apply changesOnly_refl
    | split

theorem biasShow_changes (s : State) : changesOnly [.bias] s (biasShow s) := by
  unfold biasShow
  repeat' first
    | simp -zeta -zetaUnused (disch := first | decide | (apply Or.inl; decide) | (apply Or.inr; apply And.intro rfl; first | rfl | exact And.intro rfl (And.intro rfl rfl))) only [changesOnly_set_bias]
    | with_reducible apply changesOnly_ite'
    | with_reducible assumption
    | with_reducible apply changesOnly_refl
    | split

theorem setEff_changes (s : State) (p0 : ℕ) (c : ℤ) : changesOnly [.tx] s (setEff s p0 c) := by
  unfold setEff
  repeat' first
    | with_reducible assumption
    | with_reducible apply changesOnly_refl
    | (with_reducible apply changesOnly_step; with_reducible apply modTx_changes; decide)
    | split

theorem powerBatch_changes (s : State) (mask : ℕ) : changesOnly [.tx] s (powerBatch s mask).1 := by
  unfold powerBatch
  repeat' first
    | (extract_lets +onlyGivenNames x; refine changesOnly_cut (x := x) ?_ ?_; (on_goal 1 => (unfold x; clear x)); (on_goal 2 => (intro hx; try clear_value x)))
    | (extract_lets +onlyGivenNames x; refine changesOnly_fn (x := x) ?_; (try dsimp -zeta only [x]); clear x)
    | (extract_lets +onlyGivenNames x; refine changesOnly_fn2 (x := x) ?_; (try dsimp -zeta only [x]); clear x)
    | (extract_lets +onlyGivenNames x; try clear_value x)
    | with_reducible apply changesOnly_ite'
    | with_reducible assumption
    | with_reducible apply changesOnly_refl
    | (with_reducible apply changesOnly_foldl'; on_goal 2 => intro y a hy)
    | (with_reducible apply changesOnly_fold1; on_goal 2 => intro y a hy)
    | (with_reducible apply changesOnly_step; with_reducible apply setEff_changes; decide)
    | split
    | dsimp -zeta only

theorem postShort_changes (s : State) (l : List (ℕ × ℕ)) : changesOnly [.host, .pwr, .out] s (postShort s l) := by
  unfold postShort
  repeat' first
    | with_reducible assumption
    | with_reducible apply changesOnly_refl
    | (with_reducible apply changesOnly_foldl'; on_goal 2 => intro y a hy)
    | (with_reducible apply changesOnly_step; with_reducible apply post_changes; decide)
    | split

theorem postRegLimit_changes (s : State) (inst : ℕ) (why : ℕ) (k : ℕ) : changesOnly [.host, .pwr, .out] s (postRegLimit s inst why k) := by
  unfold postRegLimit
  repeat' first
    | with_reducible assumption
    | with_reducible apply changesOnly_refl
    | (with_reducible apply changesOnly_step; with_reducible apply post_changes; decide)
    | split

theorem windowLimit_changes (s : State) (k : ℕ) (mask : ℕ) : changesOnly [.host, .pwr, .out] s (windowLimit s k mask).1 := by
  unfold windowLimit
  repeat' first
    | (extract_lets +onlyGivenNames x; refine changesOnly_cut (x := x) ?_ ?_; (on_goal 1 => (unfold x; clear x)); (on_goal 2 => (intro hx; try clear_value x)))
    | (extract_lets +onlyGivenNames x; refine changesOnly_fn (x := x) ?_; (try dsimp -zeta only [x]); clear x)
    | (extract_lets +onlyGivenNames x; refine changesOnly_fn2 (x := x) ?_; (try dsimp -zeta only [x]); clear x)
    | (extract_lets +onlyGivenNames x; try clear_value x)
    | with_reducible assumption
    | with_reducible apply changesOnly_refl
    | (with_reducible apply changesOnly_foldl'; on_goal 2 => intro y a hy)
    | (with_reducible apply changesOnly_fold1; on_goal 2 => intro y a hy)
    | (with_reducible apply changesOnly_step; with_reducible apply postRegLimit_changes; decide)
    | split
    | dsimp -zeta only

theorem hkCheck_changes (was : State) (s : State) : changesOnly [.hka] s (hkCheck was s) := by
  unfold hkCheck
  repeat' first
    | simp -zeta -zetaUnused (disch := first | decide | (apply Or.inl; decide) | (apply Or.inr; apply And.intro rfl; first | rfl | exact And.intro rfl (And.intro rfl rfl))) only [changesOnly_set_hka]
    | with_reducible apply changesOnly_ite'
    | with_reducible assumption
    | with_reducible apply changesOnly_refl
    | split

theorem authChecked_changes (s : State) (ok : Bool) : changesOnly [.hb] s (authChecked s ok) := by
  unfold authChecked
  repeat' first
    | simp -zeta -zetaUnused (disch := first | decide | (apply Or.inl; decide) | (apply Or.inr; apply And.intro rfl; first | rfl | exact And.intro rfl (And.intro rfl rfl))) only [changesOnly_set_hb]
    | with_reducible apply changesOnly_ite'
    | with_reducible assumption
    | with_reducible apply changesOnly_refl
    | split

theorem anlBegin_changes (s : State) (r : AnlRun) : changesOnly [.anl] s (anlBegin s r) := by
  unfold anlBegin
  repeat' first
    | simp -zeta -zetaUnused (disch := first | decide | (apply Or.inl; decide) | (apply Or.inr; apply And.intro rfl; first | rfl | exact And.intro rfl (And.intro rfl rfl))) only [changesOnly_set_anl]
    | with_reducible assumption
    | with_reducible apply changesOnly_refl
    | split

theorem anlAsk_changes (s : State) (r : AnlRun) : changesOnly [.anl] s (anlAsk s r) := by
  unfold anlAsk
  repeat' first
    | simp -zeta -zetaUnused (disch := first | decide | (apply Or.inl; decide) | (apply Or.inr; apply And.intro rfl; first | rfl | exact And.intro rfl (And.intro rfl rfl))) only [changesOnly_set_anl]
    | (extract_lets +onlyGivenNames x; refine changesOnly_cut (x := x) ?_ ?_; (on_goal 1 => (unfold x; clear x)); (on_goal 2 => (intro hx; try clear_value x)))
    | (extract_lets +onlyGivenNames x; try clear_value x)
    | with_reducible assumption
    | with_reducible apply changesOnly_refl
    | (with_reducible apply changesOnly_step; with_reducible apply anlBegin_changes; decide)
    | split

theorem anlTrigger_changes (s : State) (code : ℕ) : changesOnly [.anl] s (anlTrigger s code) := by
  unfold anlTrigger
  repeat' first
    | simp -zeta -zetaUnused (disch := first | decide | (apply Or.inl; decide) | (apply Or.inr; apply And.intro rfl; first | rfl | exact And.intro rfl (And.intro rfl rfl))) only [changesOnly_set_anl]
    | with_reducible apply changesOnly_ite'
    | with_reducible assumption
    | with_reducible apply changesOnly_refl
    | (with_reducible apply changesOnly_step; with_reducible apply anlAsk_changes; decide)
    | split

theorem anlRelease_changes (s : State) (code : Nat) : changesOnly [.anl] s (anlRelease s code) := by
  unfold anlRelease
  repeat' first
    | simp -zeta -zetaUnused (disch := first | decide | (apply Or.inl; decide) | (apply Or.inr; apply And.intro rfl; first | rfl | exact And.intro rfl (And.intro rfl rfl))) only [changesOnly_set_anl]
    | with_reducible apply changesOnly_ite'
    | with_reducible assumption
    | with_reducible apply changesOnly_refl
    | (with_reducible apply changesOnly_step; with_reducible apply anlBegin_changes; decide)
    | (with_reducible apply changesOnly_step; with_reducible apply anlTrigger_changes; decide)
    | split

theorem anlOver_changes (s : State) (st : AnlState) : changesOnly [.anl] s (anlOver s st) := by
  unfold anlOver
  repeat' first
    | simp -zeta -zetaUnused (disch := first | decide | (apply Or.inl; decide) | (apply Or.inr; apply And.intro rfl; first | rfl | exact And.intro rfl (And.intro rfl rfl))) only [changesOnly_set_anl]
    | (extract_lets +onlyGivenNames x; refine changesOnly_cut (x := x) ?_ ?_; (on_goal 1 => (unfold x; clear x)); (on_goal 2 => (intro hx; try clear_value x)))
    | (extract_lets +onlyGivenNames x; try clear_value x)
    | with_reducible apply changesOnly_ite'
    | with_reducible assumption
    | with_reducible apply changesOnly_refl
    | (with_reducible apply changesOnly_step; with_reducible apply anlBegin_changes; decide)
    | split

theorem endRefs_changes (s : State) (l : List CmdRef) (status : ℕ) (cause : ℕ) : changesOnly [.host, .out] s (endRefs s l status cause) := by
  unfold endRefs
  repeat' first
    | with_reducible assumption
    | with_reducible apply changesOnly_refl
    | (with_reducible apply changesOnly_foldl'; on_goal 2 => intro y a hy)
    | (with_reducible apply changesOnly_step; with_reducible apply endRef_changes; decide)
    | split

theorem anlFail_changes (s : State) (code : Nat) : changesOnly [.host, .anl, .pwr, .hb, .out] s (anlFail s code) := by
  unfold anlFail
  repeat' first
    | simp -zeta -zetaUnused (disch := first | decide | (apply Or.inl; decide) | (apply Or.inr; apply And.intro rfl; first | rfl | exact And.intro rfl (And.intro rfl rfl))) only [changesOnly_set_anl]
    | (extract_lets +onlyGivenNames x; refine changesOnly_cut (x := x) ?_ ?_; (on_goal 1 => (unfold x; clear x)); (on_goal 2 => (intro hx; try clear_value x)))
    | (extract_lets +onlyGivenNames x; refine changesOnly_fn (x := x) ?_; (try dsimp -zeta only [x]); clear x)
    | (extract_lets +onlyGivenNames x; refine changesOnly_fn2 (x := x) ?_; (try dsimp -zeta only [x]); clear x)
    | (extract_lets +onlyGivenNames x; try clear_value x)
    | with_reducible apply changesOnly_ite'
    | with_reducible assumption
    | with_reducible apply changesOnly_refl
    | (with_reducible apply changesOnly_step; with_reducible apply post_changes; decide)
    | (with_reducible apply changesOnly_step; with_reducible apply endRefs_changes; decide)
    | (with_reducible apply changesOnly_step; with_reducible apply hbCount_changes; decide)
    | (with_reducible apply changesOnly_step; with_reducible apply anlOver_changes; decide)
    | split

theorem anlLoLost_changes (s : State) (q : Nat) : changesOnly [.host, .anl, .pwr, .hb, .out] s (anlLoLost s q) := by
  unfold anlLoLost
  repeat' first
    | with_reducible apply changesOnly_ite'
    | with_reducible assumption
    | with_reducible apply changesOnly_refl
    | (with_reducible apply changesOnly_step; with_reducible apply anlFail_changes; decide)
    | split

theorem anlWatch_changes (was s : State) : changesOnly [.host, .anl, .pwr, .hb, .out] s (anlWatch was s) := by
  unfold anlWatch
  repeat' first
    | with_reducible apply changesOnly_ite'
    | with_reducible assumption
    | with_reducible apply changesOnly_refl
    | (with_reducible apply changesOnly_step; with_reducible apply anlFail_changes; decide)
    | split

theorem guardOpen_changes (s : State) (r : AnlRun) : changesOnly [.mod, .anl] s (guardOpen s r).1 := by
  unfold guardOpen
  repeat' first
    | simp -zeta -zetaUnused (disch := first | decide | (apply Or.inl; decide) | (apply Or.inr; apply And.intro rfl; first | rfl | exact And.intro rfl (And.intro rfl rfl))) only [changesOnly_set_mod_anl]
    | (extract_lets +onlyGivenNames x; refine changesOnly_cut (x := x) ?_ ?_; (on_goal 1 => (unfold x; clear x)); (on_goal 2 => (intro hx; try clear_value x)))
    | (extract_lets +onlyGivenNames x; refine changesOnly_fn (x := x) ?_; (try dsimp -zeta only [x]); clear x)
    | (extract_lets +onlyGivenNames x; refine changesOnly_fn2 (x := x) ?_; (try dsimp -zeta only [x]); clear x)
    | (extract_lets +onlyGivenNames x; refine changesOnly_cut (x := x.1) ?_ ?_; (on_goal 1 => (unfold x; clear x)); (on_goal 2 => (intro hx; try clear_value x)))
    | (extract_lets +onlyGivenNames x; try clear_value x)
    | with_reducible apply changesOnly_ite'
    | with_reducible assumption
    | with_reducible apply changesOnly_refl
    | split
    | dsimp -zeta only

theorem landsSampled_changes (s : State) (grants : BitVec 4) : changesOnly [.tx] s (landsSampled s grants) := by
  unfold landsSampled
  repeat' first
    | simp -zeta -zetaUnused (disch := first | decide | (apply Or.inl; decide) | (apply Or.inr; apply And.intro rfl; first | rfl | exact And.intro rfl (And.intro rfl rfl))) only [changesOnly_set_tx]
    | with_reducible assumption
    | with_reducible apply changesOnly_refl
    | split

theorem partnerPeriod_changes (s : State) : changesOnly [.anl] s (partnerPeriod s) := by
  unfold partnerPeriod
  repeat' first
    | simp -zeta -zetaUnused (disch := first | decide | (apply Or.inl; decide) | (apply Or.inr; apply And.intro rfl; first | rfl | exact And.intro rfl (And.intro rfl rfl))) only [changesOnly_set_anl]
    | (extract_lets +onlyGivenNames x; refine changesOnly_cut (x := x) ?_ ?_; (on_goal 1 => (unfold x; clear x)); (on_goal 2 => (intro hx; try clear_value x)))
    | (extract_lets +onlyGivenNames x; try clear_value x)
    | with_reducible apply changesOnly_ite'
    | with_reducible assumption
    | with_reducible apply changesOnly_refl
    | split

theorem guardPeriod_changes (noise : Int) (grants : BitVec 4) (s : State) : changesOnly [.mod, .host, .tx, .anl, .pwr, .hb, .out] s (guardPeriod noise grants s) := by
  unfold guardPeriod
  repeat' first
    | simp -zeta -zetaUnused (disch := first | decide | (apply Or.inl; decide) | (apply Or.inr; apply And.intro rfl; first | rfl | exact And.intro rfl (And.intro rfl rfl))) only [changesOnly_set_anl]
    | (extract_lets +onlyGivenNames x; refine changesOnly_cut (x := x) ?_ ?_; (on_goal 1 => (unfold x; clear x)); (on_goal 2 => (intro hx; try clear_value x)))
    | (extract_lets +onlyGivenNames x; refine changesOnly_cut (x := x.1) ?_ ?_; (on_goal 1 => (unfold x; clear x)); (on_goal 2 => (intro hx; try clear_value x)))
    | (extract_lets +onlyGivenNames x; try clear_value x)
    | with_reducible apply changesOnly_ite'
    | with_reducible assumption
    | with_reducible apply changesOnly_refl
    | (with_reducible apply changesOnly_step; with_reducible apply landsSampled_changes; decide)
    | (with_reducible apply changesOnly_step; with_reducible apply partnerPeriod_changes; decide)
    | (with_reducible apply changesOnly_step; with_reducible apply guardOpen_changes; decide)
    | (with_reducible apply changesOnly_step; with_reducible apply anlFail_changes; decide)
    | (with_reducible apply changesOnly_step; with_reducible apply post_changes; decide)
    | split
    | dsimp -zeta only

theorem anlSchedule_changes (s : State) (r : AnlRun) (l : List AnlResult) : changesOnly [.host, .tx, .anl, .pwr, .hb, .out] s (anlSchedule s r l) := by
  unfold anlSchedule
  repeat' first
    | simp -zeta -zetaUnused (disch := first | decide | (apply Or.inl; decide) | (apply Or.inr; apply And.intro rfl; first | rfl | exact And.intro rfl (And.intro rfl rfl))) only [changesOnly_set_anl]
    | (extract_lets +onlyGivenNames x; refine changesOnly_cut (x := x) ?_ ?_; (on_goal 1 => (unfold x; clear x)); (on_goal 2 => (intro hx; try clear_value x)))
    | (extract_lets +onlyGivenNames x; refine changesOnly_fn (x := x) ?_; (try dsimp -zeta only [x]); clear x)
    | (extract_lets +onlyGivenNames x; refine changesOnly_fn2 (x := x) ?_; (try dsimp -zeta only [x]); clear x)
    | (extract_lets +onlyGivenNames x; try clear_value x)
    | with_reducible apply changesOnly_ite'
    | with_reducible assumption
    | with_reducible apply changesOnly_refl
    | (with_reducible apply changesOnly_foldl'; on_goal 2 => intro y a hy)
    | (with_reducible apply changesOnly_fold1; on_goal 2 => intro y a hy)
    | (with_reducible apply changesOnly_step; with_reducible apply pathFault_changes; decide)
    | (with_reducible apply changesOnly_step; with_reducible apply post_changes; decide)
    | split
    | dsimp -zeta only

theorem anlDone_changes (s : State) (r : AnlRun) (k : Nat) (result : BitVec 64) (n : Nat) : changesOnly [.host, .anl, .pwr, .out] s (anlDone s r k result n) := by
  unfold anlDone
  repeat' first
    | simp -zeta -zetaUnused (disch := first | decide | (apply Or.inl; decide) | (apply Or.inr; apply And.intro rfl; first | rfl | exact And.intro rfl (And.intro rfl rfl))) only [changesOnly_set_anl]
    | (extract_lets +onlyGivenNames x; refine changesOnly_cut (x := x) ?_ ?_; (on_goal 1 => (unfold x; clear x)); (on_goal 2 => (intro hx; try clear_value x)))
    | (extract_lets +onlyGivenNames x; refine changesOnly_fn (x := x) ?_; (try dsimp -zeta only [x]); clear x)
    | (extract_lets +onlyGivenNames x; refine changesOnly_fn2 (x := x) ?_; (try dsimp -zeta only [x]); clear x)
    | (extract_lets +onlyGivenNames x; try clear_value x)
    | with_reducible assumption
    | with_reducible apply changesOnly_refl
    | (with_reducible apply changesOnly_foldl'; on_goal 2 => intro y a hy)
    | (with_reducible apply changesOnly_fold1; on_goal 2 => intro y a hy)
    | (with_reducible apply changesOnly_step; with_reducible apply cmdDone_changes; decide)
    | (with_reducible apply changesOnly_step; with_reducible apply anlOver_changes; decide)
    | (with_reducible apply changesOnly_step; with_reducible apply post_changes; decide)
    | split
    | dsimp -zeta only

theorem anlBaseline_changes (s : State) (r : AnlRun) : changesOnly [.anl] s (anlBaseline s r) := by
  unfold anlBaseline
  repeat' first
    | simp -zeta -zetaUnused (disch := first | decide | (apply Or.inl; decide) | (apply Or.inr; apply And.intro rfl; first | rfl | exact And.intro rfl (And.intro rfl rfl))) only [changesOnly_set_anl]
    | (extract_lets +onlyGivenNames x; refine changesOnly_cut (x := x) ?_ ?_; (on_goal 1 => (unfold x; clear x)); (on_goal 2 => (intro hx; try clear_value x)))
    | (extract_lets +onlyGivenNames x; refine changesOnly_fn (x := x) ?_; (try dsimp -zeta only [x]); clear x)
    | (extract_lets +onlyGivenNames x; refine changesOnly_fn2 (x := x) ?_; (try dsimp -zeta only [x]); clear x)
    | (extract_lets +onlyGivenNames x; try clear_value x)
    | with_reducible assumption
    | with_reducible apply changesOnly_refl
    | split

theorem solveEnd_changes (l : List AnlResult) (s : State) : changesOnly [.host, .tx, .anl, .pwr, .hb, .out] s (solveEnd l s) := by
  unfold solveEnd
  repeat' first
    | simp -zeta -zetaUnused (disch := first | decide | (apply Or.inl; decide) | (apply Or.inr; apply And.intro rfl; first | rfl | exact And.intro rfl (And.intro rfl rfl))) only [changesOnly_set_anl]
    | with_reducible apply changesOnly_ite'
    | with_reducible assumption
    | with_reducible apply changesOnly_refl
    | (with_reducible apply changesOnly_step; with_reducible apply anlFail_changes; decide)
    | (with_reducible apply changesOnly_step; with_reducible apply anlDone_changes; decide)
    | (with_reducible apply changesOnly_step; with_reducible apply anlBaseline_changes; decide)
    | (with_reducible apply changesOnly_step; with_reducible apply anlSchedule_changes; decide)
    | split

theorem anlTake_changes (s : State) (a : AnlApply) : changesOnly [.syn, .tx, .rx, .anl] s (anlTake s a) := by
  unfold anlTake
  repeat' first
    | simp -zeta -zetaUnused (disch := first | decide | (apply Or.inl; decide) | (apply Or.inr; apply And.intro rfl; first | rfl | exact And.intro rfl (And.intro rfl rfl))) only [changesOnly_set_rx]
    | (extract_lets +onlyGivenNames x; refine changesOnly_cut (x := x) ?_ ?_; (on_goal 1 => (unfold x; clear x)); (on_goal 2 => (intro hx; try clear_value x)))
    | (extract_lets +onlyGivenNames x; refine changesOnly_fn (x := x) ?_; (try dsimp -zeta only [x]); clear x)
    | (extract_lets +onlyGivenNames x; refine changesOnly_fn2 (x := x) ?_; (try dsimp -zeta only [x]); clear x)
    | (extract_lets +onlyGivenNames x; try clear_value x)
    | with_reducible apply changesOnly_ite'
    | with_reducible assumption
    | with_reducible apply changesOnly_refl
    | (with_reducible apply changesOnly_foldl'; on_goal 2 => intro y a hy)
    | (with_reducible apply changesOnly_fold1; on_goal 2 => intro y a hy)
    | (with_reducible apply changesOnly_bits; on_goal 2 => intro y a hy)
    | (with_reducible apply changesOnly_step; with_reducible apply modCorr_changes; decide)
    | (with_reducible apply changesOnly_step; with_reducible apply modSynth_changes; decide)
    | (with_reducible apply changesOnly_step; with_reducible apply modRx_changes; decide)
    | (with_reducible apply changesOnly_step; with_reducible apply fadeStart_changes; decide)
    | (with_reducible apply changesOnly_step; with_reducible apply modDpd_changes; decide)
    | split
    | dsimp -zeta only

theorem anlSlot_changes (k : ℕ) (s : State) : changesOnly [.syn, .host, .tx, .rx, .anl, .pwr, .hb, .out] s (anlSlot k s) := by
  unfold anlSlot
  repeat' first
    | simp -zeta -zetaUnused (disch := first | decide | (apply Or.inl; decide) | (apply Or.inr; apply And.intro rfl; first | rfl | exact And.intro rfl (And.intro rfl rfl))) only [changesOnly_set_anl]
    | (extract_lets +onlyGivenNames x; refine changesOnly_cut (x := x) ?_ ?_; (on_goal 1 => (unfold x; clear x)); (on_goal 2 => (intro hx; try clear_value x)))
    | (extract_lets +onlyGivenNames x; refine changesOnly_fn (x := x) ?_; (try dsimp -zeta only [x]); clear x)
    | (extract_lets +onlyGivenNames x; refine changesOnly_fn2 (x := x) ?_; (try dsimp -zeta only [x]); clear x)
    | (extract_lets +onlyGivenNames x; try clear_value x)
    | with_reducible apply changesOnly_ite'
    | with_reducible assumption
    | with_reducible apply changesOnly_refl
    | (with_reducible apply changesOnly_foldl'; on_goal 2 => intro y a hy)
    | (with_reducible apply changesOnly_step; with_reducible apply anlTake_changes; decide)
    | (with_reducible apply changesOnly_step; with_reducible apply anlDone_changes; decide)
    | (with_reducible apply changesOnly_step; with_reducible apply cmdDone_changes; decide)
    | (with_reducible apply changesOnly_step; with_reducible apply anlFail_changes; decide)
    | (with_reducible apply changesOnly_step; with_reducible apply endRefs_changes; decide)
    | split

theorem anlWait_changes (s : State) (c : Cmd) (f : ℕ → AnlCorr → AnlCorr) : changesOnly [.anl] s (anlWait s c f) := by
  unfold anlWait
  repeat' first
    | simp -zeta -zetaUnused (disch := first | decide | (apply Or.inl; decide) | (apply Or.inr; apply And.intro rfl; first | rfl | exact And.intro rfl (And.intro rfl rfl))) only [changesOnly_set_anl]
    | (extract_lets +onlyGivenNames x; refine changesOnly_cut (x := x) ?_ ?_; (on_goal 1 => (unfold x; clear x)); (on_goal 2 => (intro hx; try clear_value x)))
    | (extract_lets +onlyGivenNames x; refine changesOnly_fn (x := x) ?_; (try dsimp -zeta only [x]); clear x)
    | (extract_lets +onlyGivenNames x; refine changesOnly_fn2 (x := x) ?_; (try dsimp -zeta only [x]); clear x)
    | (extract_lets +onlyGivenNames x; try clear_value x)
    | with_reducible assumption
    | with_reducible apply changesOnly_refl
    | split

theorem anlRunEffect_changes (s : State) (c : Cmd) : changesOnly [.host, .anl, .pwr, .hb, .out] s (anlRunEffect s c) := by
  unfold anlRunEffect
  repeat' first
    | simp -zeta -zetaUnused (disch := first | decide | (apply Or.inl; decide) | (apply Or.inr; apply And.intro rfl; first | rfl | exact And.intro rfl (And.intro rfl rfl))) only [changesOnly_set_anl]
    | (extract_lets +onlyGivenNames x; refine changesOnly_cut (x := x) ?_ ?_; (on_goal 1 => (unfold x; clear x)); (on_goal 2 => (intro hx; try clear_value x)))
    | (extract_lets +onlyGivenNames x; refine changesOnly_fn (x := x) ?_; (try dsimp -zeta only [x]); clear x)
    | (extract_lets +onlyGivenNames x; refine changesOnly_fn2 (x := x) ?_; (try dsimp -zeta only [x]); clear x)
    | (extract_lets +onlyGivenNames x; try clear_value x)
    | with_reducible apply changesOnly_ite'
    | with_reducible assumption
    | with_reducible apply changesOnly_refl
    | (with_reducible apply changesOnly_step; with_reducible apply cmdDone_changes; decide)
    | (with_reducible apply changesOnly_step; with_reducible apply anlFail_changes; decide)
    | (with_reducible apply changesOnly_step; with_reducible apply anlWait_changes; decide)
    | (with_reducible apply changesOnly_step; with_reducible apply authChecked_changes; decide)
    | (with_reducible apply changesOnly_step; with_reducible apply anlAsk_changes; decide)
    | split

theorem repeatTimeout_changes (s : State) : changesOnly [.anl] s (repeatTimeout s) := by
  unfold repeatTimeout
  repeat' first
    | simp -zeta -zetaUnused (disch := first | decide | (apply Or.inl; decide) | (apply Or.inr; apply And.intro rfl; first | rfl | exact And.intro rfl (And.intro rfl rfl))) only [changesOnly_set_anl]
    | with_reducible apply changesOnly_ite'
    | with_reducible assumption
    | with_reducible apply changesOnly_refl
    | split

theorem noGuardEnd_changes (s : State) : changesOnly [.host, .anl, .pwr, .hb, .out] s (noGuardEnd s) := by
  unfold noGuardEnd
  repeat' first
    | with_reducible apply changesOnly_ite'
    | with_reducible assumption
    | with_reducible apply changesOnly_refl
    | (with_reducible apply changesOnly_step; with_reducible apply anlFail_changes; decide)
    | split

theorem saveEnd_changes (ok : Bool) (s : State) : changesOnly [.host, .anl, .out] s (saveEnd ok s) := by
  unfold saveEnd
  repeat' first
    | simp -zeta -zetaUnused (disch := first | decide | (apply Or.inl; decide) | (apply Or.inr; apply And.intro rfl; first | rfl | exact And.intro rfl (And.intro rfl rfl))) only [changesOnly_set_anl]
    | (extract_lets +onlyGivenNames x; refine changesOnly_cut (x := x) ?_ ?_; (on_goal 1 => (unfold x; clear x)); (on_goal 2 => (intro hx; try clear_value x)))
    | (extract_lets +onlyGivenNames x; refine changesOnly_fn (x := x) ?_; (try dsimp -zeta only [x]); clear x)
    | (extract_lets +onlyGivenNames x; refine changesOnly_fn2 (x := x) ?_; (try dsimp -zeta only [x]); clear x)
    | (extract_lets +onlyGivenNames x; try clear_value x)
    | with_reducible apply changesOnly_ite'
    | with_reducible assumption
    | with_reducible apply changesOnly_refl
    | (with_reducible apply changesOnly_step; with_reducible apply doneRef_changes; decide)
    | (with_reducible apply changesOnly_step; with_reducible apply endRef_changes; decide)
    | split

theorem anlCold_changes (s : State) : changesOnly [.host, .anl, .pwr, .out] s (anlCold s) := by
  unfold anlCold
  repeat' first
    | simp -zeta -zetaUnused (disch := first | decide | (apply Or.inl; decide) | (apply Or.inr; apply And.intro rfl; first | rfl | exact And.intro rfl (And.intro rfl rfl))) only [changesOnly_set_anl]
    | (extract_lets +onlyGivenNames x; refine changesOnly_cut (x := x) ?_ ?_; (on_goal 1 => (unfold x; clear x)); (on_goal 2 => (intro hx; try clear_value x)))
    | (extract_lets +onlyGivenNames x; try clear_value x)
    | with_reducible assumption
    | with_reducible apply changesOnly_refl
    | (with_reducible apply changesOnly_step; with_reducible apply post_changes; decide)
    | split

theorem computeTables_changes (n : ℕ) (s : State) : changesOnly [.run] s (computeTables n s) := by
  unfold computeTables
  repeat' first
    | simp -zeta -zetaUnused (disch := first | decide | (apply Or.inl; decide) | (apply Or.inr; apply And.intro rfl; first | rfl | exact And.intro rfl (And.intro rfl rfl))) only [changesOnly_set_run]
    | (extract_lets +onlyGivenNames x; refine changesOnly_cut (x := x) ?_ ?_; (on_goal 1 => (unfold x; clear x)); (on_goal 2 => (intro hx; try clear_value x)))
    | (extract_lets +onlyGivenNames x; refine changesOnly_fn (x := x) ?_; (try dsimp -zeta only [x]); clear x)
    | (extract_lets +onlyGivenNames x; refine changesOnly_fn2 (x := x) ?_; (try dsimp -zeta only [x]); clear x)
    | (extract_lets +onlyGivenNames x; try clear_value x)
    | with_reducible apply changesOnly_ite'
    | with_reducible assumption
    | with_reducible apply changesOnly_refl
    | split

theorem postParts_changes (s : State) (t : Table) (es : List Entry) (flags : Nat) : changesOnly [.host, .pwr, .out] s (postParts s t es flags) := by
  unfold postParts
  repeat' first
    | (extract_lets +onlyGivenNames x; refine changesOnly_cut (x := x) ?_ ?_; (on_goal 1 => (unfold x; clear x)); (on_goal 2 => (intro hx; try clear_value x)))
    | (extract_lets +onlyGivenNames x; refine changesOnly_fn (x := x) ?_; (try dsimp -zeta only [x]); clear x)
    | (extract_lets +onlyGivenNames x; refine changesOnly_fn2 (x := x) ?_; (try dsimp -zeta only [x]); clear x)
    | (extract_lets +onlyGivenNames x; try clear_value x)
    | with_reducible assumption
    | with_reducible apply changesOnly_refl
    | (with_reducible apply changesOnly_foldl'; on_goal 2 => intro y a hy)
    | (with_reducible apply changesOnly_fold1; on_goal 2 => intro y a hy)
    | (with_reducible apply changesOnly_step; with_reducible apply postEvent_changes; decide)
    | split
    | dsimp -zeta only

theorem postTable_changes (s : State) (t : Table) (flags : Nat) : changesOnly [.host, .pwr, .out] s (postTable s t flags) := by
  unfold postTable
  repeat' first
    | with_reducible assumption
    | with_reducible apply changesOnly_refl
    | (with_reducible apply changesOnly_step; with_reducible apply postParts_changes; decide)
    | split

theorem publishTable_changes (n : ℕ) (s : State) : changesOnly [.host, .run, .pwr, .out] s (publishTable n s) := by
  unfold publishTable
  repeat' first
    | simp -zeta -zetaUnused (disch := first | decide | (apply Or.inl; decide) | (apply Or.inr; apply And.intro rfl; first | rfl | exact And.intro rfl (And.intro rfl rfl))) only [changesOnly_set_run]
    | (extract_lets +onlyGivenNames x; refine changesOnly_cut (x := x) ?_ ?_; (on_goal 1 => (unfold x; clear x)); (on_goal 2 => (intro hx; try clear_value x)))
    | (extract_lets +onlyGivenNames x; refine changesOnly_fn (x := x) ?_; (try dsimp -zeta only [x]); clear x)
    | (extract_lets +onlyGivenNames x; refine changesOnly_fn2 (x := x) ?_; (try dsimp -zeta only [x]); clear x)
    | (extract_lets +onlyGivenNames x; try clear_value x)
    | with_reducible assumption
    | with_reducible apply changesOnly_refl
    | (with_reducible apply changesOnly_step; with_reducible apply postTable_changes; decide)
    | split

theorem txCtrlOne_changes (a : Nat) (s : State) (p : Nat) : changesOnly [.tx] s (txCtrlOne a s p) := by
  unfold txCtrlOne
  repeat' first
    | with_reducible assumption
    | with_reducible apply changesOnly_refl
    | (with_reducible apply changesOnly_step; with_reducible apply modTx_changes; decide)
    | split

theorem txCtrlEffect_changes (s : State) (c : Cmd) : changesOnly [.host, .tx, .rx, .anl, .pwr, .bias, .out] s (txCtrlEffect s c) := by
  unfold txCtrlEffect
  repeat' first
    | (extract_lets +onlyGivenNames x; refine changesOnly_cut (x := x) ?_ ?_; (on_goal 1 => (unfold x; clear x)); (on_goal 2 => (intro hx; try clear_value x)))
    | (extract_lets +onlyGivenNames x; refine changesOnly_fn (x := x) ?_; (try dsimp -zeta only [x]); clear x)
    | (extract_lets +onlyGivenNames x; refine changesOnly_fn2 (x := x) ?_; (try dsimp -zeta only [x]); clear x)
    | (extract_lets +onlyGivenNames x; refine changesOnly_cut (x := x.1) ?_ ?_; (on_goal 1 => (unfold x; clear x)); (on_goal 2 => (intro hx; try clear_value x)))
    | (extract_lets +onlyGivenNames x; try clear_value x)
    | with_reducible apply changesOnly_ite'
    | with_reducible assumption
    | with_reducible apply changesOnly_refl
    | (with_reducible apply changesOnly_foldl'; on_goal 2 => intro y a hy)
    | (with_reducible apply changesOnly_fold1; on_goal 2 => intro y a hy)
    | (with_reducible apply changesOnly_step; with_reducible apply txCtrlOne_changes; decide)
    | (with_reducible apply changesOnly_step; with_reducible apply modDpd_changes; decide)
    | (with_reducible apply changesOnly_step; with_reducible apply biasForce_changes; decide)
    | (with_reducible apply changesOnly_step; with_reducible apply linesIdle_changes; decide)
    | (with_reducible apply changesOnly_step; with_reducible apply anlRelease_changes; decide)
    | (with_reducible apply changesOnly_step; with_reducible apply windowLimit_changes; decide)
    | (with_reducible apply changesOnly_step; with_reducible apply cmdPut_changes; decide)
    | (with_reducible apply changesOnly_step; with_reducible apply cmdDone_changes; decide)
    | split
    | dsimp -zeta only

theorem loTimeout_changes (r : CmdRef) (s : State) : changesOnly [.tb, .host, .out] s (loTimeout r s) := by
  unfold loTimeout
  repeat' first
    | (extract_lets +onlyGivenNames x; refine changesOnly_cut (x := x) ?_ ?_; (on_goal 1 => (unfold x; clear x)); (on_goal 2 => (intro hx; try clear_value x)))
    | (extract_lets +onlyGivenNames x; try clear_value x)
    | with_reducible apply changesOnly_ite'
    | with_reducible assumption
    | with_reducible apply changesOnly_refl
    | (with_reducible apply changesOnly_step; with_reducible apply arrive_changes; decide)
    | (with_reducible apply changesOnly_step; with_reducible apply arriveAt_changes; decide)
    | (with_reducible apply changesOnly_step; with_reducible apply cmdDone_changes; decide)
    | split

theorem powerSetEffect_changes (s : State) (c : Cmd) : changesOnly [.host, .tx, .pwr, .out] s (powerSetEffect s c) := by
  unfold powerSetEffect
  repeat' first
    | simp -zeta -zetaUnused (disch := first | decide | (apply Or.inl; decide) | (apply Or.inr; apply And.intro rfl; first | rfl | exact And.intro rfl (And.intro rfl rfl))) only [changesOnly_set_tx]
    | (extract_lets +onlyGivenNames x; refine changesOnly_cut (x := x) ?_ ?_; (on_goal 1 => (unfold x; clear x)); (on_goal 2 => (intro hx; try clear_value x)))
    | (extract_lets +onlyGivenNames x; refine changesOnly_fn (x := x) ?_; (try dsimp -zeta only [x]); clear x)
    | (extract_lets +onlyGivenNames x; refine changesOnly_fn2 (x := x) ?_; (try dsimp -zeta only [x]); clear x)
    | (extract_lets +onlyGivenNames x; refine changesOnly_cut (x := x.1) ?_ ?_; (on_goal 1 => (unfold x; clear x)); (on_goal 2 => (intro hx; try clear_value x)))
    | (extract_lets +onlyGivenNames x; try clear_value x)
    | with_reducible apply changesOnly_ite'
    | with_reducible assumption
    | with_reducible apply changesOnly_refl
    | (with_reducible apply changesOnly_foldl'; on_goal 2 => intro y a hy)
    | (with_reducible apply changesOnly_fold1; on_goal 2 => intro y a hy)
    | (with_reducible apply changesOnly_step; with_reducible apply modTx_changes; decide)
    | (with_reducible apply changesOnly_step; with_reducible apply powerBatch_changes; decide)
    | (with_reducible apply changesOnly_step; with_reducible apply postRegLimit_changes; decide)
    | (with_reducible apply changesOnly_step; with_reducible apply postShort_changes; decide)
    | (with_reducible apply changesOnly_step; with_reducible apply cmdDone_changes; decide)
    | split
    | dsimp -zeta only

theorem coxCfgEffect_changes (s : State) (c : Cmd) : changesOnly [.host, .tx, .out] s (coxCfgEffect s c) := by
  unfold coxCfgEffect
  repeat' first
    | (extract_lets +onlyGivenNames x; refine changesOnly_cut (x := x) ?_ ?_; (on_goal 1 => (unfold x; clear x)); (on_goal 2 => (intro hx; try clear_value x)))
    | (extract_lets +onlyGivenNames x; refine changesOnly_fn (x := x) ?_; (try dsimp -zeta only [x]); clear x)
    | (extract_lets +onlyGivenNames x; refine changesOnly_fn2 (x := x) ?_; (try dsimp -zeta only [x]); clear x)
    | (extract_lets +onlyGivenNames x; try clear_value x)
    | with_reducible assumption
    | with_reducible apply changesOnly_refl
    | (with_reducible apply changesOnly_step; with_reducible apply modCox_changes; decide)
    | (with_reducible apply changesOnly_step; with_reducible apply cmdDone_changes; decide)
    | split

theorem lockPassed_changes (s : State) (pass : ℕ) : changesOnly [.host, .out] s (lockPassed s pass) := by
  unfold lockPassed
  repeat' first
    | (extract_lets +onlyGivenNames x; refine changesOnly_cut (x := x) ?_ ?_; (on_goal 1 => (unfold x; clear x)); (on_goal 2 => (intro hx; try clear_value x)))
    | (extract_lets +onlyGivenNames x; refine changesOnly_fn (x := x) ?_; (try dsimp -zeta only [x]); clear x)
    | (extract_lets +onlyGivenNames x; refine changesOnly_fn2 (x := x) ?_; (try dsimp -zeta only [x]); clear x)
    | (extract_lets +onlyGivenNames x; try clear_value x)
    | with_reducible apply changesOnly_ite'
    | with_reducible assumption
    | with_reducible apply changesOnly_refl
    | (with_reducible apply changesOnly_foldl'; on_goal 2 => intro y a hy)
    | (with_reducible apply changesOnly_step; with_reducible apply cmdDone_changes; decide)
    | (with_reducible apply changesOnly_step; with_reducible apply cmdPut_changes; decide)
    | split

theorem lateTx_changes (s : State) (k q : Nat) (ok : Bool) : changesOnly [.host, .tx, .pwr, .hb, .out] s (lateTx s k q ok) := by
  unfold lateTx
  repeat' first
    | simp -zeta -zetaUnused (disch := first | decide | (apply Or.inl; decide) | (apply Or.inr; apply And.intro rfl; first | rfl | exact And.intro rfl (And.intro rfl rfl))) only [changesOnly_set_tx]
    | (extract_lets +onlyGivenNames x; refine changesOnly_cut (x := x) ?_ ?_; (on_goal 1 => (unfold x; clear x)); (on_goal 2 => (intro hx; try clear_value x)))
    | (extract_lets +onlyGivenNames x; refine changesOnly_fn (x := x) ?_; (try dsimp -zeta only [x]); clear x)
    | (extract_lets +onlyGivenNames x; refine changesOnly_fn2 (x := x) ?_; (try dsimp -zeta only [x]); clear x)
    | (extract_lets +onlyGivenNames x; try clear_value x)
    | with_reducible apply changesOnly_ite'
    | with_reducible assumption
    | with_reducible apply changesOnly_refl
    | (with_reducible apply changesOnly_step; with_reducible apply hbCount_changes; decide)
    | (with_reducible apply changesOnly_step; with_reducible apply post_changes; decide)
    | split

theorem lateRx_changes (s : State) (k : ℕ) (q : ℕ) (ok : Bool) : changesOnly [.host, .rx, .pwr, .hb, .out] s (lateRx s k q ok) := by
  unfold lateRx
  repeat' first
    | simp -zeta -zetaUnused (disch := first | decide | (apply Or.inl; decide) | (apply Or.inr; apply And.intro rfl; first | rfl | exact And.intro rfl (And.intro rfl rfl))) only [changesOnly_set_rx]
    | (extract_lets +onlyGivenNames x; refine changesOnly_cut (x := x) ?_ ?_; (on_goal 1 => (unfold x; clear x)); (on_goal 2 => (intro hx; try clear_value x)))
    | (extract_lets +onlyGivenNames x; refine changesOnly_fn (x := x) ?_; (try dsimp -zeta only [x]); clear x)
    | (extract_lets +onlyGivenNames x; refine changesOnly_fn2 (x := x) ?_; (try dsimp -zeta only [x]); clear x)
    | (extract_lets +onlyGivenNames x; try clear_value x)
    | with_reducible apply changesOnly_ite'
    | with_reducible assumption
    | with_reducible apply changesOnly_refl
    | (with_reducible apply changesOnly_step; with_reducible apply hbCount_changes; decide)
    | (with_reducible apply changesOnly_step; with_reducible apply post_changes; decide)
    | split

theorem lockCheckAt_changes (k : Nat) (s : State) : changesOnly [.host, .tx, .rx, .pwr, .hb, .out] s (lockCheckAt k s) := by
  unfold lockCheckAt
  repeat' first
    | simp -zeta -zetaUnused (disch := first | decide | (apply Or.inl; decide) | (apply Or.inr; apply And.intro rfl; first | rfl | exact And.intro rfl (And.intro rfl rfl))) only [changesOnly_set_rx, changesOnly_set_tx]
    | (extract_lets +onlyGivenNames x; refine changesOnly_cut (x := x) ?_ ?_; (on_goal 1 => (unfold x; clear x)); (on_goal 2 => (intro hx; try clear_value x)))
    | (extract_lets +onlyGivenNames x; refine changesOnly_fn (x := x) ?_; (try dsimp -zeta only [x]); clear x)
    | (extract_lets +onlyGivenNames x; refine changesOnly_fn2 (x := x) ?_; (try dsimp -zeta only [x]); clear x)
    | (extract_lets +onlyGivenNames x; try clear_value x)
    | with_reducible apply changesOnly_ite'
    | with_reducible assumption
    | with_reducible apply changesOnly_refl
    | (with_reducible apply changesOnly_all; on_goal 2 => intro y a hy)
    | (with_reducible apply changesOnly_step; with_reducible apply lateTx_changes; decide)
    | (with_reducible apply changesOnly_step; with_reducible apply lateRx_changes; decide)
    | (with_reducible apply changesOnly_step; with_reducible apply lockPassed_changes; decide)
    | split

theorem limiterSymbol_changes (k : Nat) (s : State) : changesOnly [.tx] s (limiterSymbol k s) := by
  unfold limiterSymbol
  repeat' first
    | simp -zeta -zetaUnused (disch := first | decide | (apply Or.inl; decide) | (apply Or.inr; apply And.intro rfl; first | rfl | exact And.intro rfl (And.intro rfl rfl))) only [changesOnly_set_tx]
    | (extract_lets +onlyGivenNames x; refine changesOnly_cut (x := x) ?_ ?_; (on_goal 1 => (unfold x; clear x)); (on_goal 2 => (intro hx; try clear_value x)))
    | (extract_lets +onlyGivenNames x; refine changesOnly_fn (x := x) ?_; (try dsimp -zeta only [x]); clear x)
    | (extract_lets +onlyGivenNames x; refine changesOnly_fn2 (x := x) ?_; (try dsimp -zeta only [x]); clear x)
    | (extract_lets +onlyGivenNames x; try clear_value x)
    | with_reducible apply changesOnly_ite'
    | with_reducible assumption
    | with_reducible apply changesOnly_refl
    | split

theorem txSymbol_changes (k : Nat) (s : State) : changesOnly [.host, .tx, .rx, .pwr, .hb, .out] s (txSymbol k s) := by
  unfold txSymbol
  repeat' first
    | simp -zeta -zetaUnused (disch := first | decide | (apply Or.inl; decide) | (apply Or.inr; apply And.intro rfl; first | rfl | exact And.intro rfl (And.intro rfl rfl))) only [changesOnly_set_tx_rx]
    | (extract_lets +onlyGivenNames x; refine changesOnly_cut (x := x) ?_ ?_; (on_goal 1 => (unfold x; clear x)); (on_goal 2 => (intro hx; try clear_value x)))
    | (extract_lets +onlyGivenNames x; refine changesOnly_fn (x := x) ?_; (try dsimp -zeta only [x]); clear x)
    | (extract_lets +onlyGivenNames x; refine changesOnly_fn2 (x := x) ?_; (try dsimp -zeta only [x]); clear x)
    | (extract_lets +onlyGivenNames x; try clear_value x)
    | with_reducible apply changesOnly_ite'
    | with_reducible assumption
    | with_reducible apply changesOnly_refl
    | (with_reducible apply changesOnly_step; with_reducible apply lockCheckAt_changes; decide)
    | (with_reducible apply changesOnly_step; with_reducible apply limiterSymbol_changes; decide)
    | split

theorem txSlotBefore_changes (s : State) : changesOnly [.tx, .thm] s (txSlotBefore s) := by
  unfold txSlotBefore
  repeat' first
    | simp -zeta -zetaUnused (disch := first | decide | (apply Or.inl; decide) | (apply Or.inr; apply And.intro rfl; first | rfl | exact And.intro rfl (And.intro rfl rfl))) only [changesOnly_set_tx_thm, changesOnly_set_tx]
    | (extract_lets +onlyGivenNames x; refine changesOnly_cut (x := x) ?_ ?_; (on_goal 1 => (unfold x; clear x)); (on_goal 2 => (intro hx; try clear_value x)))
    | (extract_lets +onlyGivenNames x; refine changesOnly_fn (x := x) ?_; (try dsimp -zeta only [x]); clear x)
    | (extract_lets +onlyGivenNames x; refine changesOnly_fn2 (x := x) ?_; (try dsimp -zeta only [x]); clear x)
    | (extract_lets +onlyGivenNames x; try clear_value x)
    | with_reducible apply changesOnly_ite'
    | with_reducible assumption
    | with_reducible apply changesOnly_refl
    | split

theorem txSlotAfter_changes (s : State) : changesOnly [.host, .tx, .pwr, .out] s (txSlotAfter s) := by
  unfold txSlotAfter
  repeat' first
    | simp -zeta -zetaUnused (disch := first | decide | (apply Or.inl; decide) | (apply Or.inr; apply And.intro rfl; first | rfl | exact And.intro rfl (And.intro rfl rfl))) only [changesOnly_set_tx]
    | (extract_lets +onlyGivenNames x; refine changesOnly_cut (x := x) ?_ ?_; (on_goal 1 => (unfold x; clear x)); (on_goal 2 => (intro hx; try clear_value x)))
    | (extract_lets +onlyGivenNames x; refine changesOnly_cut (x := x.1) ?_ ?_; (on_goal 1 => (unfold x; clear x)); (on_goal 2 => (intro hx; try clear_value x)))
    | (extract_lets +onlyGivenNames x; try clear_value x)
    | with_reducible apply changesOnly_ite'
    | with_reducible assumption
    | with_reducible apply changesOnly_refl
    | (with_reducible apply changesOnly_step; with_reducible apply powerBatch_changes; decide)
    | (with_reducible apply changesOnly_step; with_reducible apply postShort_changes; decide)
    | split
    | dsimp -zeta only

theorem detectorReport_changes (p : Nat) (mean : Int) (s : State) : changesOnly [.host, .tx, .rx, .anl, .pwr, .hb, .out] s (detectorReport p mean s) := by
  unfold detectorReport
  repeat' first
    | (extract_lets +onlyGivenNames x; refine changesOnly_cut (x := x) ?_ ?_; (on_goal 1 => (unfold x; clear x)); (on_goal 2 => (intro hx; try clear_value x)))
    | (extract_lets +onlyGivenNames x; refine changesOnly_fn (x := x) ?_; (try dsimp -zeta only [x]); clear x)
    | (extract_lets +onlyGivenNames x; refine changesOnly_fn2 (x := x) ?_; (try dsimp -zeta only [x]); clear x)
    | (extract_lets +onlyGivenNames x; try clear_value x)
    | with_reducible apply changesOnly_ite'
    | with_reducible assumption
    | with_reducible apply changesOnly_refl
    | (with_reducible apply changesOnly_step; with_reducible apply modTx_changes; decide)
    | (with_reducible apply changesOnly_step; with_reducible apply linesIdle_changes; decide)
    | (with_reducible apply changesOnly_step; with_reducible apply post_changes; decide)
    | (with_reducible apply changesOnly_step; with_reducible apply anlFail_changes; decide)
    | split
    | dsimp -zeta only

theorem slag_changes (s : State) (cause : ℕ) (n : ℕ) : changesOnly [.fh] s (slag s cause n) := by
  unfold slag
  repeat' first
    | simp -zeta -zetaUnused (disch := first | decide | (apply Or.inl; decide) | (apply Or.inr; apply And.intro rfl; first | rfl | exact And.intro rfl (And.intro rfl rfl))) only [changesOnly_set_fh]
    | with_reducible assumption
    | with_reducible apply changesOnly_refl
    | split

theorem assayPut_changes (s : State) (i : ℕ) (x0 : AssayCtx) : changesOnly [.fh] s (assayPut s i x0) := by
  unfold assayPut
  repeat' first
    | simp -zeta -zetaUnused (disch := first | decide | (apply Or.inl; decide) | (apply Or.inr; apply And.intro rfl; first | rfl | exact And.intro rfl (And.intro rfl rfl))) only [changesOnly_set_fh]
    | (extract_lets +onlyGivenNames x; refine changesOnly_cut (x := x) ?_ ?_; (on_goal 1 => (unfold x; clear x)); (on_goal 2 => (intro hx; try clear_value x)))
    | (extract_lets +onlyGivenNames x; refine changesOnly_fn (x := x) ?_; (try dsimp -zeta only [x]); clear x)
    | (extract_lets +onlyGivenNames x; refine changesOnly_fn2 (x := x) ?_; (try dsimp -zeta only [x]); clear x)
    | (extract_lets +onlyGivenNames x; refine changesOnly_cut (x := x.1) ?_ ?_; (on_goal 1 => (unfold x; clear x)); (on_goal 2 => (intro hx; try clear_value x)))
    | (extract_lets +onlyGivenNames x; try clear_value x)
    | with_reducible apply changesOnly_ite'
    | with_reducible assumption
    | with_reducible apply changesOnly_refl
    | split
    | dsimp -zeta only

theorem assaySnoop_changes (s : State) (i : ℕ) (seq : ℕ) (bs : List Byte) : changesOnly [.fh] s (assaySnoop s i seq bs) := by
  unfold assaySnoop
  repeat' first
    | (extract_lets +onlyGivenNames x; refine changesOnly_cut (x := x) ?_ ?_; (on_goal 1 => (unfold x; clear x)); (on_goal 2 => (intro hx; try clear_value x)))
    | (extract_lets +onlyGivenNames x; try clear_value x)
    | with_reducible assumption
    | with_reducible apply changesOnly_refl
    | (with_reducible apply changesOnly_step; with_reducible apply assayPut_changes; decide)
    | split

theorem nextTxSeq_changes (s : State) (key : ℕ) : changesOnly [.fh] s (nextTxSeq s key).1 := by
  unfold nextTxSeq
  repeat' first
    | simp -zeta -zetaUnused (disch := first | decide | (apply Or.inl; decide) | (apply Or.inr; apply And.intro rfl; first | rfl | exact And.intro rfl (And.intro rfl rfl))) only [changesOnly_set_fh]
    | (extract_lets +onlyGivenNames x; refine changesOnly_cut (x := x) ?_ ?_; (on_goal 1 => (unfold x; clear x)); (on_goal 2 => (intro hx; try clear_value x)))
    | (extract_lets +onlyGivenNames x; refine changesOnly_fn (x := x) ?_; (try dsimp -zeta only [x]); clear x)
    | (extract_lets +onlyGivenNames x; refine changesOnly_fn2 (x := x) ?_; (try dsimp -zeta only [x]); clear x)
    | (extract_lets +onlyGivenNames x; refine changesOnly_cut (x := x.1) ?_ ?_; (on_goal 1 => (unfold x; clear x)); (on_goal 2 => (intro hx; try clear_value x)))
    | (extract_lets +onlyGivenNames x; try clear_value x)
    | with_reducible assumption
    | with_reducible apply changesOnly_refl
    | split
    | dsimp -zeta only

theorem sendFlow_changes (s : State) (p0 : Port) (type : ℕ) (cc : ℕ) (key : ℕ) (body : List Byte) : changesOnly [.fh, .out] s (sendFlow s p0 type cc key body) := by
  unfold sendFlow
  repeat' first
    | (extract_lets +onlyGivenNames x; refine changesOnly_cut (x := x) ?_ ?_; (on_goal 1 => (unfold x; clear x)); (on_goal 2 => (intro hx; try clear_value x)))
    | (extract_lets +onlyGivenNames x; refine changesOnly_cut (x := x.1) ?_ ?_; (on_goal 1 => (unfold x; clear x)); (on_goal 2 => (intro hx; try clear_value x)))
    | (extract_lets +onlyGivenNames x; try clear_value x)
    | with_reducible assumption
    | with_reducible apply changesOnly_refl
    | (with_reducible apply changesOnly_step; with_reducible apply nextTxSeq_changes; decide)
    | (with_reducible apply changesOnly_step; with_reducible apply assaySnoop_changes; decide)
    | (with_reducible apply changesOnly_step; with_reducible apply send_changes; decide)
    | split
    | dsimp -zeta only

theorem modBook_changes (s : State) (c : ℕ) (ctrl : Bool) (id : ℕ) (f : Book → Book) : changesOnly [.fh] s (modBook s c ctrl id f) := by
  unfold modBook
  repeat' first
    | simp -zeta -zetaUnused (disch := first | decide | (apply Or.inl; decide) | (apply Or.inr; apply And.intro rfl; first | rfl | exact And.intro rfl (And.intro rfl rfl))) only [changesOnly_set_fh]
    | with_reducible apply changesOnly_ite'
    | with_reducible assumption
    | with_reducible apply changesOnly_refl
    | split

theorem openBook_changes (s : State) (c : ℕ) (ctrl : Bool) (id : ℕ) (pool : ℕ) : changesOnly [.fh] s (openBook s c ctrl id pool) := by
  unfold openBook
  repeat' first
    | simp -zeta -zetaUnused (disch := first | decide | (apply Or.inl; decide) | (apply Or.inr; apply And.intro rfl; first | rfl | exact And.intro rfl (And.intro rfl rfl))) only [changesOnly_set_fh]
    | (extract_lets +onlyGivenNames x; refine changesOnly_cut (x := x) ?_ ?_; (on_goal 1 => (unfold x; clear x)); (on_goal 2 => (intro hx; try clear_value x)))
    | (extract_lets +onlyGivenNames x; refine changesOnly_fn (x := x) ?_; (try dsimp -zeta only [x]); clear x)
    | (extract_lets +onlyGivenNames x; refine changesOnly_fn2 (x := x) ?_; (try dsimp -zeta only [x]); clear x)
    | (extract_lets +onlyGivenNames x; try clear_value x)
    | with_reducible apply changesOnly_ite'
    | with_reducible assumption
    | with_reducible apply changesOnly_refl
    | (with_reducible apply changesOnly_step; with_reducible apply modBook_changes; decide)
    | split

theorem closeBook_changes (s : State) (c : ℕ) (ctrl : Bool) (id : ℕ) : changesOnly [.fh] s (closeBook s c ctrl id) := by
  unfold closeBook
  repeat' first
    | with_reducible apply changesOnly_ite'
    | with_reducible assumption
    | with_reducible apply changesOnly_refl
    | (with_reducible apply changesOnly_step; with_reducible apply modBook_changes; decide)
    | split

theorem booksSlot_changes (s : State) : changesOnly [.fh] s (booksSlot s) := by
  unfold booksSlot
  repeat' first
    | simp -zeta -zetaUnused (disch := first | decide | (apply Or.inl; decide) | (apply Or.inr; apply And.intro rfl; first | rfl | exact And.intro rfl (And.intro rfl rfl))) only [changesOnly_set_fh]
    | with_reducible apply changesOnly_ite'
    | with_reducible assumption
    | with_reducible apply changesOnly_refl
    | split

theorem booksDrop_changes (s : State) : changesOnly [.fh] s (booksDrop s) := by
  unfold booksDrop
  repeat' first
    | simp -zeta -zetaUnused (disch := first | decide | (apply Or.inl; decide) | (apply Or.inr; apply And.intro rfl; first | rfl | exact And.intro rfl (And.intro rfl rfl))) only [changesOnly_set_fh]
    | with_reducible assumption
    | with_reducible apply changesOnly_refl
    | split

theorem releaseSlot_changes (s : State) (c : ℕ) (ctrl : Bool) (id : ℕ) : changesOnly [.fh] s (releaseSlot s c ctrl id) := by
  unfold releaseSlot
  repeat' first
    | with_reducible assumption
    | with_reducible apply changesOnly_refl
    | (with_reducible apply changesOnly_step; with_reducible apply modBook_changes; decide)
    | split

theorem dropHeld_changes (s : State) (chosen : HeldMsg → Bool) (cause : Option ℕ) : changesOnly [.fh] s (dropHeld s chosen cause) := by
  unfold dropHeld
  repeat' first
    | simp -zeta -zetaUnused (disch := first | decide | (apply Or.inl; decide) | (apply Or.inr; apply And.intro rfl; first | rfl | exact And.intro rfl (And.intro rfl rfl))) only [changesOnly_set_fh]
    | (extract_lets +onlyGivenNames x; refine changesOnly_cut (x := x) ?_ ?_; (on_goal 1 => (unfold x; clear x)); (on_goal 2 => (intro hx; try clear_value x)))
    | (extract_lets +onlyGivenNames x; refine changesOnly_fn (x := x) ?_; (try dsimp -zeta only [x]); clear x)
    | (extract_lets +onlyGivenNames x; refine changesOnly_fn2 (x := x) ?_; (try dsimp -zeta only [x]); clear x)
    | (extract_lets +onlyGivenNames x; try clear_value x)
    | with_reducible apply changesOnly_ite'
    | with_reducible assumption
    | with_reducible apply changesOnly_refl
    | (with_reducible apply changesOnly_foldl'; on_goal 2 => intro y a hy)
    | (with_reducible apply changesOnly_step; with_reducible apply releaseSlot_changes; decide)
    | (with_reducible apply changesOnly_step; with_reducible apply slag_changes; decide)
    | split

theorem dropCtrl_changes (s : State) (chosen : CtrlMsg → Bool) (cause : Option ℕ) : changesOnly [.fh] s (dropCtrl s chosen cause) := by
  unfold dropCtrl
  repeat' first
    | simp -zeta -zetaUnused (disch := first | decide | (apply Or.inl; decide) | (apply Or.inr; apply And.intro rfl; first | rfl | exact And.intro rfl (And.intro rfl rfl))) only [changesOnly_set_fh]
    | (extract_lets +onlyGivenNames x; refine changesOnly_cut (x := x) ?_ ?_; (on_goal 1 => (unfold x; clear x)); (on_goal 2 => (intro hx; try clear_value x)))
    | (extract_lets +onlyGivenNames x; refine changesOnly_fn (x := x) ?_; (try dsimp -zeta only [x]); clear x)
    | (extract_lets +onlyGivenNames x; refine changesOnly_fn2 (x := x) ?_; (try dsimp -zeta only [x]); clear x)
    | (extract_lets +onlyGivenNames x; try clear_value x)
    | with_reducible apply changesOnly_ite'
    | with_reducible assumption
    | with_reducible apply changesOnly_refl
    | (with_reducible apply changesOnly_foldl'; on_goal 2 => intro y a hy)
    | (with_reducible apply changesOnly_step; with_reducible apply releaseSlot_changes; decide)
    | (with_reducible apply changesOnly_step; with_reducible apply slag_changes; decide)
    | split

theorem dropDirect_changes (s : State) (chosen : HeldMsg → Bool) (cause : Option ℕ) : changesOnly [.fh] s (dropDirect s chosen cause) := by
  unfold dropDirect
  repeat' first
    | simp -zeta -zetaUnused (disch := first | decide | (apply Or.inl; decide) | (apply Or.inr; apply And.intro rfl; first | rfl | exact And.intro rfl (And.intro rfl rfl))) only [changesOnly_set_fh]
    | (extract_lets +onlyGivenNames x; refine changesOnly_cut (x := x) ?_ ?_; (on_goal 1 => (unfold x; clear x)); (on_goal 2 => (intro hx; try clear_value x)))
    | (extract_lets +onlyGivenNames x; refine changesOnly_fn (x := x) ?_; (try dsimp -zeta only [x]); clear x)
    | (extract_lets +onlyGivenNames x; refine changesOnly_fn2 (x := x) ?_; (try dsimp -zeta only [x]); clear x)
    | (extract_lets +onlyGivenNames x; try clear_value x)
    | with_reducible assumption
    | with_reducible apply changesOnly_refl
    | (with_reducible apply changesOnly_step; with_reducible apply slag_changes; decide)
    | split

theorem dropUplink_changes (s : State) (chosen : UlMsg → Bool) (cause : ℕ) : changesOnly [.fh] s (dropUplink s chosen cause) := by
  unfold dropUplink
  repeat' first
    | simp -zeta -zetaUnused (disch := first | decide | (apply Or.inl; decide) | (apply Or.inr; apply And.intro rfl; first | rfl | exact And.intro rfl (And.intro rfl rfl))) only [changesOnly_set_fh]
    | with_reducible assumption
    | with_reducible apply changesOnly_refl
    | (with_reducible apply changesOnly_step; with_reducible apply slag_changes; decide)
    | split

theorem sendUplink_changes (s : State) : changesOnly [.fh, .out] s (sendUplink s) := by
  unfold sendUplink
  repeat' first
    | simp -zeta -zetaUnused (disch := first | decide | (apply Or.inl; decide) | (apply Or.inr; apply And.intro rfl; first | rfl | exact And.intro rfl (And.intro rfl rfl))) only [changesOnly_set_fh]
    | (extract_lets +onlyGivenNames x; refine changesOnly_cut (x := x) ?_ ?_; (on_goal 1 => (unfold x; clear x)); (on_goal 2 => (intro hx; try clear_value x)))
    | (extract_lets +onlyGivenNames x; refine changesOnly_fn (x := x) ?_; (try dsimp -zeta only [x]); clear x)
    | (extract_lets +onlyGivenNames x; refine changesOnly_fn2 (x := x) ?_; (try dsimp -zeta only [x]); clear x)
    | (extract_lets +onlyGivenNames x; try clear_value x)
    | with_reducible assumption
    | with_reducible apply changesOnly_refl
    | (with_reducible apply changesOnly_foldl'; on_goal 2 => intro y a hy)
    | (with_reducible apply changesOnly_fold1; on_goal 2 => intro y a hy)
    | (with_reducible apply changesOnly_step; with_reducible apply sendFlow_changes; decide)
    | split
    | dsimp -zeta only

theorem holdMsg_changes (s : State) (m : Parsed) (credited : Bool) : changesOnly [.fh] s (holdMsg s m credited) := by
  unfold holdMsg
  repeat' first
    | simp -zeta -zetaUnused (disch := first | decide | (apply Or.inl; decide) | (apply Or.inr; apply And.intro rfl; first | rfl | exact And.intro rfl (And.intro rfl rfl))) only [changesOnly_set_fh]
    | (extract_lets +onlyGivenNames x; refine changesOnly_cut (x := x) ?_ ?_; (on_goal 1 => (unfold x; clear x)); (on_goal 2 => (intro hx; try clear_value x)))
    | (extract_lets +onlyGivenNames x; try clear_value x)
    | with_reducible apply changesOnly_ite'
    | with_reducible assumption
    | with_reducible apply changesOnly_refl
    | split

theorem offerCore_changes (s : State) (m : Parsed) : changesOnly [.fh] s (offerCore s m).1 := by
  unfold offerCore
  repeat' first
    | (extract_lets +onlyGivenNames x; refine changesOnly_cut (x := x) ?_ ?_; (on_goal 1 => (unfold x; clear x)); (on_goal 2 => (intro hx; try clear_value x)))
    | (extract_lets +onlyGivenNames x; refine changesOnly_fn (x := x) ?_; (try dsimp -zeta only [x]); clear x)
    | (extract_lets +onlyGivenNames x; refine changesOnly_fn2 (x := x) ?_; (try dsimp -zeta only [x]); clear x)
    | (extract_lets +onlyGivenNames x; refine changesOnly_cut (x := x.1) ?_ ?_; (on_goal 1 => (unfold x; clear x)); (on_goal 2 => (intro hx; try clear_value x)))
    | (extract_lets +onlyGivenNames x; try clear_value x)
    | with_reducible apply changesOnly_ite'
    | with_reducible assumption
    | with_reducible apply changesOnly_refl
    | (with_reducible apply changesOnly_step; with_reducible apply slag_changes; decide)
    | (with_reducible apply changesOnly_step; with_reducible apply holdMsg_changes; decide)
    | (with_reducible apply changesOnly_step; with_reducible apply modBook_changes; decide)
    | split
    | dsimp -zeta only

theorem offerMsg_changes (s : State) (m : Parsed) : changesOnly [.fh] s (offerMsg s m).1 := by
  unfold offerMsg
  repeat' first
    | (extract_lets +onlyGivenNames x; refine changesOnly_cut (x := x) ?_ ?_; (on_goal 1 => (unfold x; clear x)); (on_goal 2 => (intro hx; try clear_value x)))
    | (extract_lets +onlyGivenNames x; refine changesOnly_cut (x := x.1) ?_ ?_; (on_goal 1 => (unfold x; clear x)); (on_goal 2 => (intro hx; try clear_value x)))
    | (extract_lets +onlyGivenNames x; try clear_value x)
    | with_reducible apply changesOnly_ite'
    | with_reducible assumption
    | with_reducible apply changesOnly_refl
    | (with_reducible apply changesOnly_step; with_reducible apply offerCore_changes; decide)
    | (with_reducible apply changesOnly_step; with_reducible apply modBook_changes; decide)
    | split
    | dsimp -zeta only

theorem owdSend_changes (s : State) (p0 : Port) (dst : ℕ) (payload : List Byte) : changesOnly [.out] s (owdSend s p0 dst payload) := by
  unfold owdSend
  repeat' first
    | with_reducible assumption
    | with_reducible apply changesOnly_refl
    | (with_reducible apply changesOnly_step; with_reducible apply send_changes; decide)
    | split

theorem owdRecord_changes (s : State) (p0 : Port) (d : ℤ) : changesOnly [.fh] s (owdRecord s p0 d) := by
  unfold owdRecord
  repeat' first
    | simp -zeta -zetaUnused (disch := first | decide | (apply Or.inl; decide) | (apply Or.inr; apply And.intro rfl; first | rfl | exact And.intro rfl (And.intro rfl rfl))) only [changesOnly_set_fh]
    | with_reducible assumption
    | with_reducible apply changesOnly_refl
    | split

theorem owdDrop_changes (s : State) (r : OwdReq) : changesOnly [.fh] s (owdDrop s r) := by
  unfold owdDrop
  repeat' first
    | simp -zeta -zetaUnused (disch := first | decide | (apply Or.inl; decide) | (apply Or.inr; apply And.intro rfl; first | rfl | exact And.intro rfl (And.intro rfl rfl))) only [changesOnly_set_fh]
    | with_reducible assumption
    | with_reducible apply changesOnly_refl
    | split

theorem owdArrive_changes (s : State) (p : Port) (back : Nat) (m : OwdMsg) : changesOnly [.fh, .out] s (owdArrive s p back m) := by
  unfold owdArrive
  repeat' first
    | simp -zeta -zetaUnused (disch := first | decide | (apply Or.inl; decide) | (apply Or.inr; apply And.intro rfl; first | rfl | exact And.intro rfl (And.intro rfl rfl))) only [changesOnly_set_fh]
    | (extract_lets +onlyGivenNames x; refine changesOnly_cut (x := x) ?_ ?_; (on_goal 1 => (unfold x; clear x)); (on_goal 2 => (intro hx; try clear_value x)))
    | (extract_lets +onlyGivenNames x; refine changesOnly_fn (x := x) ?_; (try dsimp -zeta only [x]); clear x)
    | (extract_lets +onlyGivenNames x; refine changesOnly_fn2 (x := x) ?_; (try dsimp -zeta only [x]); clear x)
    | (extract_lets +onlyGivenNames x; try clear_value x)
    | with_reducible assumption
    | with_reducible apply changesOnly_refl
    | (with_reducible apply changesOnly_step; with_reducible apply owdSend_changes; decide)
    | (with_reducible apply changesOnly_step; with_reducible apply owdDrop_changes; decide)
    | (with_reducible apply changesOnly_step; with_reducible apply owdRecord_changes; decide)
    | split
    | dsimp -zeta only

theorem takeMsg_changes (p : Port) (src n : Nat) (a : State × List (Parsed × List Byte)) (m : RxMsg) : changesOnly [.fh, .out] a.1 (takeMsg p src n a m).1 := by
  unfold takeMsg
  repeat' first
    | (extract_lets +onlyGivenNames x; refine changesOnly_cut (x := x) ?_ ?_; (on_goal 1 => (unfold x; clear x)); (on_goal 2 => (intro hx; try clear_value x)))
    | (extract_lets +onlyGivenNames x; refine changesOnly_cut (x := x.1) ?_ ?_; (on_goal 1 => (unfold x; clear x)); (on_goal 2 => (intro hx; try clear_value x)))
    | (extract_lets +onlyGivenNames x; try clear_value x)
    | with_reducible apply changesOnly_ite'
    | with_reducible assumption
    | with_reducible apply changesOnly_refl
    | (with_reducible apply changesOnly_step; with_reducible apply slag_changes; decide)
    | (with_reducible apply changesOnly_step; with_reducible apply owdArrive_changes; decide)
    | (with_reducible apply changesOnly_step; with_reducible apply assaySnoop_changes; decide)
    | (with_reducible apply changesOnly_step; with_reducible apply offerMsg_changes; decide)
    | split
    | dsimp -zeta only

theorem frameTake_changes (s : State) (p : Port) (f : FhFrame) : changesOnly [.lanes, .fh, .out] s (frameTake s p f).1 := by
  unfold frameTake
  repeat' first
    | (extract_lets +onlyGivenNames x; refine changesOnly_cut (x := x) ?_ ?_; (on_goal 1 => (unfold x; clear x)); (on_goal 2 => (intro hx; try clear_value x)))
    | (extract_lets +onlyGivenNames x; refine changesOnly_fn (x := x) ?_; (try dsimp -zeta only [x]); clear x)
    | (extract_lets +onlyGivenNames x; refine changesOnly_fn2 (x := x) ?_; (try dsimp -zeta only [x]); clear x)
    | (extract_lets +onlyGivenNames x; refine changesOnly_cut (x := x.1) ?_ ?_; (on_goal 1 => (unfold x; clear x)); (on_goal 2 => (intro hx; try clear_value x)))
    | (extract_lets +onlyGivenNames x; try clear_value x)
    | with_reducible apply changesOnly_ite'
    | with_reducible assumption
    | with_reducible apply changesOnly_refl
    | (with_reducible apply changesOnly_foldl'; on_goal 2 => intro y a hy)
    | (with_reducible apply changesOnly_fold1; on_goal 2 => intro y a hy)
    | (with_reducible apply changesOnly_step; with_reducible apply modLane_changes; decide)
    | (with_reducible apply changesOnly_step; with_reducible apply slag_changes; decide)
    | (with_reducible apply changesOnly_step; with_reducible apply laneErr_changes; decide)
    | (with_reducible apply changesOnly_step; with_reducible apply takeMsg_changes; decide)
    | split
    | dsimp -zeta only

theorem creditRecord_changes (k : Nat) (s : State) (c : Nat) : changesOnly [.fh, .out] s (creditRecord k s c) := by
  unfold creditRecord
  repeat' first
    | (extract_lets +onlyGivenNames x; refine changesOnly_cut (x := x) ?_ ?_; (on_goal 1 => (unfold x; clear x)); (on_goal 2 => (intro hx; try clear_value x)))
    | (extract_lets +onlyGivenNames x; refine changesOnly_fn (x := x) ?_; (try dsimp -zeta only [x]); clear x)
    | (extract_lets +onlyGivenNames x; refine changesOnly_fn2 (x := x) ?_; (try dsimp -zeta only [x]); clear x)
    | (extract_lets +onlyGivenNames x; try clear_value x)
    | with_reducible apply changesOnly_ite'
    | with_reducible assumption
    | with_reducible apply changesOnly_refl
    | (with_reducible apply changesOnly_step; with_reducible apply sendFlow_changes; decide)
    | split

theorem creditRecords_changes (k : ℕ) (s : State) : changesOnly [.fh, .out] s (creditRecords k s) := by
  unfold creditRecords
  repeat' first
    | with_reducible assumption
    | with_reducible apply changesOnly_refl
    | (with_reducible apply changesOnly_step; with_reducible apply creditRecord_changes; decide)
    | (with_reducible apply changesOnly_step; with_reducible apply booksDrop_changes; decide)
    | split

theorem fhCfgEffect_changes (s : State) (c : Cmd) : changesOnly [.host, .fh, .out] s (fhCfgEffect s c) := by
  unfold fhCfgEffect
  repeat' first
    | simp -zeta -zetaUnused (disch := first | decide | (apply Or.inl; decide) | (apply Or.inr; apply And.intro rfl; first | rfl | exact And.intro rfl (And.intro rfl rfl))) only [changesOnly_set_fh]
    | (extract_lets +onlyGivenNames x; refine changesOnly_cut (x := x) ?_ ?_; (on_goal 1 => (unfold x; clear x)); (on_goal 2 => (intro hx; try clear_value x)))
    | (extract_lets +onlyGivenNames x; refine changesOnly_fn (x := x) ?_; (try dsimp -zeta only [x]); clear x)
    | (extract_lets +onlyGivenNames x; refine changesOnly_fn2 (x := x) ?_; (try dsimp -zeta only [x]); clear x)
    | (extract_lets +onlyGivenNames x; try clear_value x)
    | with_reducible apply changesOnly_ite'
    | with_reducible assumption
    | with_reducible apply changesOnly_refl
    | (with_reducible apply changesOnly_step; with_reducible apply cmdDone_changes; decide)
    | split

theorem assayCtxEffect_changes (s : State) (c : Cmd) : changesOnly [.host, .fh, .out] s (assayCtxEffect s c) := by
  unfold assayCtxEffect
  repeat' first
    | (extract_lets +onlyGivenNames x; refine changesOnly_cut (x := x) ?_ ?_; (on_goal 1 => (unfold x; clear x)); (on_goal 2 => (intro hx; try clear_value x)))
    | (extract_lets +onlyGivenNames x; try clear_value x)
    | with_reducible assumption
    | with_reducible apply changesOnly_refl
    | (with_reducible apply changesOnly_step; with_reducible apply assayPut_changes; decide)
    | (with_reducible apply changesOnly_step; with_reducible apply cmdDone_changes; decide)
    | split

theorem biasQueueEffect_changes (s : State) (c : Cmd) : changesOnly [.host, .bias, .out] s (biasQueueEffect s c) := by
  unfold biasQueueEffect
  repeat' first
    | (extract_lets +onlyGivenNames x; refine changesOnly_cut (x := x) ?_ ?_; (on_goal 1 => (unfold x; clear x)); (on_goal 2 => (intro hx; try clear_value x)))
    | (extract_lets +onlyGivenNames x; refine changesOnly_fn (x := x) ?_; (try dsimp -zeta only [x]); clear x)
    | (extract_lets +onlyGivenNames x; refine changesOnly_fn2 (x := x) ?_; (try dsimp -zeta only [x]); clear x)
    | (extract_lets +onlyGivenNames x; try clear_value x)
    | with_reducible apply changesOnly_ite'
    | with_reducible assumption
    | with_reducible apply changesOnly_refl
    | (with_reducible apply changesOnly_foldl'; on_goal 2 => intro y a hy)
    | (with_reducible apply changesOnly_step; with_reducible apply modBias_changes; decide)
    | (with_reducible apply changesOnly_step; with_reducible apply cmdDone_changes; decide)
    | split

theorem biasUpdate_changes (s : State) : changesOnly [.bias] s (biasUpdate s) := by
  unfold biasUpdate
  repeat' first
    | simp -zeta -zetaUnused (disch := first | decide | (apply Or.inl; decide) | (apply Or.inr; apply And.intro rfl; first | rfl | exact And.intro rfl (And.intro rfl rfl))) only [changesOnly_set_bias]
    | (extract_lets +onlyGivenNames x; refine changesOnly_cut (x := x) ?_ ?_; (on_goal 1 => (unfold x; clear x)); (on_goal 2 => (intro hx; try clear_value x)))
    | (extract_lets +onlyGivenNames x; refine changesOnly_fn (x := x) ?_; (try dsimp -zeta only [x]); clear x)
    | (extract_lets +onlyGivenNames x; refine changesOnly_fn2 (x := x) ?_; (try dsimp -zeta only [x]); clear x)
    | (extract_lets +onlyGivenNames x; try clear_value x)
    | with_reducible apply changesOnly_ite'
    | with_reducible assumption
    | with_reducible apply changesOnly_refl
    | (with_reducible apply changesOnly_step; with_reducible apply biasShow_changes; decide)
    | split

theorem biasSymbol_changes (k : ℕ) (s : State) : changesOnly [.bias] s (biasSymbol k s) := by
  unfold biasSymbol
  repeat' first
    | simp -zeta -zetaUnused (disch := first | decide | (apply Or.inl; decide) | (apply Or.inr; apply And.intro rfl; first | rfl | exact And.intro rfl (And.intro rfl rfl))) only [changesOnly_set_bias]
    | (extract_lets +onlyGivenNames x; refine changesOnly_cut (x := x) ?_ ?_; (on_goal 1 => (unfold x; clear x)); (on_goal 2 => (intro hx; try clear_value x)))
    | (extract_lets +onlyGivenNames x; refine changesOnly_fn (x := x) ?_; (try dsimp -zeta only [x]); clear x)
    | (extract_lets +onlyGivenNames x; refine changesOnly_fn2 (x := x) ?_; (try dsimp -zeta only [x]); clear x)
    | (extract_lets +onlyGivenNames x; try clear_value x)
    | with_reducible apply changesOnly_ite'
    | with_reducible assumption
    | with_reducible apply changesOnly_refl
    | (with_reducible apply changesOnly_step; with_reducible apply biasShow_changes; decide)
    | split

theorem dpdCfgEffect_changes (s : State) (c : Cmd) : changesOnly [.dev, .host, .ldl, .tx, .out] s (dpdCfgEffect s c) := by
  unfold dpdCfgEffect
  repeat' first
    | simp -zeta -zetaUnused (disch := first | decide | (apply Or.inl; decide) | (apply Or.inr; apply And.intro rfl; first | rfl | exact And.intro rfl (And.intro rfl rfl))) only [changesOnly_set_tx, changesOnly_set_ldl]
    | (extract_lets +onlyGivenNames x; refine changesOnly_cut (x := x) ?_ ?_; (on_goal 1 => (unfold x; clear x)); (on_goal 2 => (intro hx; try clear_value x)))
    | (extract_lets +onlyGivenNames x; refine changesOnly_letLadle (x := x) ?_; (try dsimp -zeta only [x]); clear x)
    | (extract_lets +onlyGivenNames x; refine changesOnly_fn (x := x) ?_; (try dsimp -zeta only [x]); clear x)
    | (extract_lets +onlyGivenNames x; refine changesOnly_fn2 (x := x) ?_; (try dsimp -zeta only [x]); clear x)
    | (extract_lets +onlyGivenNames x; try clear_value x)
    | with_reducible apply changesOnly_ite'
    | with_reducible assumption
    | with_reducible apply changesOnly_refl
    | (with_reducible apply changesOnly_foldl'; on_goal 2 => intro y a hy)
    | (with_reducible apply changesOnly_fold1; on_goal 2 => intro y a hy)
    | (with_reducible apply changesOnly_bits; on_goal 2 => intro y a hy)
    | (with_reducible apply changesOnly_step; with_reducible apply modDpd_changes; decide)
    | (with_reducible apply changesOnly_step; with_reducible apply cmdDone_changes; decide)
    | split
    | dsimp -zeta only

theorem diverge_changes (s : State) (p0 : ℕ) (nmse : ℤ) : changesOnly [.host, .tx, .pwr, .hb, .out] s (diverge s p0 nmse) := by
  unfold diverge
  repeat' first
    | (extract_lets +onlyGivenNames x; refine changesOnly_cut (x := x) ?_ ?_; (on_goal 1 => (unfold x; clear x)); (on_goal 2 => (intro hx; try clear_value x)))
    | (extract_lets +onlyGivenNames x; refine changesOnly_fn (x := x) ?_; (try dsimp -zeta only [x]); clear x)
    | (extract_lets +onlyGivenNames x; refine changesOnly_fn2 (x := x) ?_; (try dsimp -zeta only [x]); clear x)
    | (extract_lets +onlyGivenNames x; try clear_value x)
    | with_reducible assumption
    | with_reducible apply changesOnly_refl
    | (with_reducible apply changesOnly_step; with_reducible apply modDpd_changes; decide)
    | (with_reducible apply changesOnly_step; with_reducible apply pathFault_changes; decide)
    | (with_reducible apply changesOnly_step; with_reducible apply post_changes; decide)
    | split

theorem temperObserve_changes (was s : State) : changesOnly [.tx] s (temperObserve was s) := by
  unfold temperObserve
  repeat' first
    | simp -zeta -zetaUnused (disch := first | decide | (apply Or.inl; decide) | (apply Or.inr; apply And.intro rfl; first | rfl | exact And.intro rfl (And.intro rfl rfl))) only [changesOnly_set_tx]
    | with_reducible apply changesOnly_ite'
    | with_reducible assumption
    | with_reducible apply changesOnly_refl
    | split

theorem solveTemper_changes (p : Nat) (t : TemperSol) (s : State) : changesOnly [.host, .tx, .pwr, .hb, .out] s (solveTemper p t s) := by
  unfold solveTemper
  repeat' first
    | (extract_lets +onlyGivenNames x; refine changesOnly_cut (x := x) ?_ ?_; (on_goal 1 => (unfold x; clear x)); (on_goal 2 => (intro hx; try clear_value x)))
    | (extract_lets +onlyGivenNames x; refine changesOnly_fn (x := x) ?_; (try dsimp -zeta only [x]); clear x)
    | (extract_lets +onlyGivenNames x; refine changesOnly_fn2 (x := x) ?_; (try dsimp -zeta only [x]); clear x)
    | (extract_lets +onlyGivenNames x; try clear_value x)
    | with_reducible apply changesOnly_ite'
    | with_reducible assumption
    | with_reducible apply changesOnly_refl
    | (with_reducible apply changesOnly_step; with_reducible apply modDpd_changes; decide)
    | (with_reducible apply changesOnly_step; with_reducible apply diverge_changes; decide)
    | split

theorem dpdSymbol_changes (k : ℕ) (s : State) : changesOnly [.tx] s (dpdSymbol k s) := by
  unfold dpdSymbol
  repeat' first
    | simp -zeta -zetaUnused (disch := first | decide | (apply Or.inl; decide) | (apply Or.inr; apply And.intro rfl; first | rfl | exact And.intro rfl (And.intro rfl rfl))) only [changesOnly_set_tx]
    | with_reducible assumption
    | with_reducible apply changesOnly_refl
    | split

theorem divergeRetry_changes (p : Nat) (s : State) : changesOnly [.tb, .host, .tx, .out] s (divergeRetry p s) := by
  unfold divergeRetry
  repeat' first
    | with_reducible assumption
    | with_reducible apply changesOnly_refl
    | (with_reducible apply changesOnly_step; with_reducible apply arrive_changes; decide)
    | (with_reducible apply changesOnly_step; with_reducible apply modDpd_changes; decide)
    | (with_reducible apply changesOnly_step; with_reducible apply arriveAt_changes; decide)
    | split

theorem refreshDue_changes (p0 : ℕ) (s : State) : changesOnly [.tx] s (refreshDue p0 s) := by
  unfold refreshDue
  repeat' first
    | (extract_lets +onlyGivenNames x; refine changesOnly_cut (x := x) ?_ ?_; (on_goal 1 => (unfold x; clear x)); (on_goal 2 => (intro hx; try clear_value x)))
    | (extract_lets +onlyGivenNames x; refine changesOnly_fn (x := x) ?_; (try dsimp -zeta only [x]); clear x)
    | (extract_lets +onlyGivenNames x; refine changesOnly_fn2 (x := x) ?_; (try dsimp -zeta only [x]); clear x)
    | (extract_lets +onlyGivenNames x; try clear_value x)
    | with_reducible assumption
    | with_reducible apply changesOnly_refl
    | (with_reducible apply changesOnly_step; with_reducible apply modDpd_changes; decide)
    | split

theorem staleCheck_changes (p0 : ℕ) (s : State) : changesOnly [.host, .tx, .pwr, .out] s (staleCheck p0 s) := by
  unfold staleCheck
  repeat' first
    | (extract_lets +onlyGivenNames x; refine changesOnly_cut (x := x) ?_ ?_; (on_goal 1 => (unfold x; clear x)); (on_goal 2 => (intro hx; try clear_value x)))
    | (extract_lets +onlyGivenNames x; refine changesOnly_fn (x := x) ?_; (try dsimp -zeta only [x]); clear x)
    | (extract_lets +onlyGivenNames x; refine changesOnly_fn2 (x := x) ?_; (try dsimp -zeta only [x]); clear x)
    | (extract_lets +onlyGivenNames x; try clear_value x)
    | with_reducible apply changesOnly_ite'
    | with_reducible assumption
    | with_reducible apply changesOnly_refl
    | (with_reducible apply changesOnly_step; with_reducible apply post_changes; decide)
    | (with_reducible apply changesOnly_step; with_reducible apply modDpd_changes; decide)
    | split

theorem snapsDrop_changes (s : State) (cause : ℕ) : changesOnly [.host, .hb, .out] s (snapsDrop s cause) := by
  unfold snapsDrop
  repeat' first
    | simp -zeta -zetaUnused (disch := first | decide | (apply Or.inl; decide) | (apply Or.inr; apply And.intro rfl; first | rfl | exact And.intro rfl (And.intro rfl rfl))) only [changesOnly_set_hb]
    | (extract_lets +onlyGivenNames x; refine changesOnly_cut (x := x) ?_ ?_; (on_goal 1 => (unfold x; clear x)); (on_goal 2 => (intro hx; try clear_value x)))
    | (extract_lets +onlyGivenNames x; refine changesOnly_letHb (x := x) ?_; (try dsimp -zeta only [x]); clear x)
    | (extract_lets +onlyGivenNames x; refine changesOnly_fn (x := x) ?_; (try dsimp -zeta only [x]); clear x)
    | (extract_lets +onlyGivenNames x; refine changesOnly_fn2 (x := x) ?_; (try dsimp -zeta only [x]); clear x)
    | (extract_lets +onlyGivenNames x; try clear_value x)
    | with_reducible assumption
    | with_reducible apply changesOnly_refl
    | (with_reducible apply changesOnly_foldl'; on_goal 2 => intro y a hy)
    | (with_reducible apply changesOnly_step; with_reducible apply endRef_changes; decide)
    | split

theorem snapStart_changes (s : State) : changesOnly [.host, .pwr, .hb, .out] s (snapStart s) := by
  unfold snapStart
  repeat' first
    | simp -zeta -zetaUnused (disch := first | decide | (apply Or.inl; decide) | (apply Or.inr; apply And.intro rfl; first | rfl | exact And.intro rfl (And.intro rfl rfl))) only [changesOnly_set_hb]
    | (extract_lets +onlyGivenNames x; refine changesOnly_cut (x := x) ?_ ?_; (on_goal 1 => (unfold x; clear x)); (on_goal 2 => (intro hx; try clear_value x)))
    | (extract_lets +onlyGivenNames x; refine changesOnly_letHb (x := x) ?_; (try dsimp -zeta only [x]); clear x)
    | (extract_lets +onlyGivenNames x; try clear_value x)
    | with_reducible apply changesOnly_ite'
    | with_reducible assumption
    | with_reducible apply changesOnly_refl
    | (with_reducible apply changesOnly_step; with_reducible apply post_changes; decide)
    | (with_reducible apply changesOnly_step; with_reducible apply snapsDrop_changes; decide)
    | split

theorem snapAsk_changes (s : State) (cause : ℕ) (ref : Option CmdRef) : changesOnly [.host, .pwr, .hb, .out] s (snapAsk s cause ref) := by
  unfold snapAsk
  repeat' first
    | simp -zeta -zetaUnused (disch := first | decide | (apply Or.inl; decide) | (apply Or.inr; apply And.intro rfl; first | rfl | exact And.intro rfl (And.intro rfl rfl))) only [changesOnly_set_hb]
    | with_reducible apply changesOnly_ite'
    | with_reducible assumption
    | with_reducible apply changesOnly_refl
    | (with_reducible apply changesOnly_step; with_reducible apply snapStart_changes; decide)
    | split

theorem hbClearGo_changes (s : State) (c : Cmd) : changesOnly [.flash, .host, .hb] s (hbClearGo s c) := by
  unfold hbClearGo
  repeat' first
    | simp -zeta -zetaUnused (disch := first | decide | (apply Or.inl; decide) | (apply Or.inr; apply And.intro rfl; first | rfl | exact And.intro rfl (And.intro rfl rfl))) only [changesOnly_set_hb]
    | (extract_lets +onlyGivenNames x; refine changesOnly_cut (x := x) ?_ ?_; (on_goal 1 => (unfold x; clear x)); (on_goal 2 => (intro hx; try clear_value x)))
    | (extract_lets +onlyGivenNames x; refine changesOnly_letHb (x := x) ?_; (try dsimp -zeta only [x]); clear x)
    | (extract_lets +onlyGivenNames x; try clear_value x)
    | with_reducible assumption
    | with_reducible apply changesOnly_refl
    | (with_reducible apply changesOnly_step; with_reducible apply authChecked_changes; decide)
    | (with_reducible apply changesOnly_step; with_reducible apply cmdPut_changes; decide)
    | split

theorem hbClearRefused_changes (s : State) (c : Cmd) (r : Refuse) : changesOnly [.hb] s (hbClearRefused s c r) := by
  unfold hbClearRefused
  repeat' first
    | with_reducible apply changesOnly_ite'
    | with_reducible assumption
    | with_reducible apply changesOnly_refl
    | (with_reducible apply changesOnly_step; with_reducible apply authChecked_changes; decide)
    | split

theorem hbClearNext_changes (s : State) : changesOnly [.flash, .host, .hb, .out] s (hbClearNext s) := by
  unfold hbClearNext
  repeat' first
    | with_reducible apply changesOnly_ite'
    | with_reducible assumption
    | with_reducible apply changesOnly_refl
    | (with_reducible apply changesOnly_step; with_reducible apply cmdRefuse_changes; decide)
    | (with_reducible apply changesOnly_step; with_reducible apply hbClearRefused_changes; decide)
    | (with_reducible apply changesOnly_step; with_reducible apply hbClearGo_changes; decide)
    | split

theorem hourProgram_changes (ok : Bool) (s : State) : changesOnly [.host, .pwr, .hb, .fus, .out] s (hourProgram ok s) := by
  unfold hourProgram
  repeat' first
    | simp -zeta -zetaUnused (disch := first | decide | (apply Or.inl; decide) | (apply Or.inr; apply And.intro rfl; first | rfl | exact And.intro rfl (And.intro rfl rfl))) only [changesOnly_set_hb]
    | with_reducible apply changesOnly_ite'
    | with_reducible assumption
    | with_reducible apply changesOnly_refl
    | (with_reducible apply changesOnly_step; with_reducible apply hbFailure_changes; decide)
    | split

theorem flashResume_changes (s : State) : changesOnly [.host, .pwr, .hb, .fus, .out] s (flashResume s) := by
  unfold flashResume
  repeat' first
    | simp -zeta -zetaUnused (disch := first | decide | (apply Or.inl; decide) | (apply Or.inr; apply And.intro rfl; first | rfl | exact And.intro rfl (And.intro rfl rfl))) only [changesOnly_set_hb]
    | (extract_lets +onlyGivenNames x; refine changesOnly_cut (x := x) ?_ ?_; (on_goal 1 => (unfold x; clear x)); (on_goal 2 => (intro hx; try clear_value x)))
    | (extract_lets +onlyGivenNames x; refine changesOnly_letHb (x := x) ?_; (try dsimp -zeta only [x]); clear x)
    | (extract_lets +onlyGivenNames x; refine changesOnly_fn (x := x) ?_; (try dsimp -zeta only [x]); clear x)
    | (extract_lets +onlyGivenNames x; refine changesOnly_fn2 (x := x) ?_; (try dsimp -zeta only [x]); clear x)
    | (extract_lets +onlyGivenNames x; try clear_value x)
    | with_reducible assumption
    | with_reducible apply changesOnly_refl
    | (with_reducible apply changesOnly_foldl'; on_goal 2 => intro y a hy)
    | (with_reducible apply changesOnly_step; with_reducible apply snapStart_changes; decide)
    | (with_reducible apply changesOnly_step; with_reducible apply hourProgram_changes; decide)
    | split

theorem synceUpdate_changes (s : State) : changesOnly [.host, .lanes, .pwr, .out] s (synceUpdate s) := by
  unfold synceUpdate
  repeat' first
    | simp -zeta -zetaUnused (disch := first | decide | (apply Or.inl; decide) | (apply Or.inr; apply And.intro rfl; first | rfl | exact And.intro rfl (And.intro rfl rfl))) only [changesOnly_set_lanes]
    | (extract_lets +onlyGivenNames x; refine changesOnly_cut (x := x) ?_ ?_; (on_goal 1 => (unfold x; clear x)); (on_goal 2 => (intro hx; try clear_value x)))
    | (extract_lets +onlyGivenNames x; try clear_value x)
    | with_reducible apply changesOnly_ite'
    | with_reducible assumption
    | with_reducible apply changesOnly_refl
    | (with_reducible apply changesOnly_step; with_reducible apply post_changes; decide)
    | split

theorem laneLeave_changes (s : State) (l : ℕ) : changesOnly [.lanes, .fh] s (laneLeave s l) := by
  unfold laneLeave
  repeat' first
    | (extract_lets +onlyGivenNames x; refine changesOnly_cut (x := x) ?_ ?_; (on_goal 1 => (unfold x; clear x)); (on_goal 2 => (intro hx; try clear_value x)))
    | (extract_lets +onlyGivenNames x; refine changesOnly_fn (x := x) ?_; (try dsimp -zeta only [x]); clear x)
    | (extract_lets +onlyGivenNames x; refine changesOnly_fn2 (x := x) ?_; (try dsimp -zeta only [x]); clear x)
    | (extract_lets +onlyGivenNames x; try clear_value x)
    | with_reducible apply changesOnly_ite'
    | with_reducible assumption
    | with_reducible apply changesOnly_refl
    | (with_reducible apply changesOnly_step; with_reducible apply modLane_changes; decide)
    | (with_reducible apply changesOnly_step; with_reducible apply dropUplink_changes; decide)
    | split

theorem laneOut_changes (s : State) (l : ℕ) : changesOnly [.lanes] s (laneOut s l) := by
  unfold laneOut
  repeat' first
    | with_reducible assumption
    | with_reducible apply changesOnly_refl
    | (with_reducible apply changesOnly_step; with_reducible apply modLane_changes; decide)
    | split

theorem fecTake_changes (s : State) (l : ℕ) : changesOnly [.lanes] s (fecTake s l) := by
  unfold fecTake
  repeat' first
    | simp -zeta -zetaUnused (disch := first | decide | (apply Or.inl; decide) | (apply Or.inr; apply And.intro rfl; first | rfl | exact And.intro rfl (And.intro rfl rfl))) only [changesOnly_set_lanes]
    | (extract_lets +onlyGivenNames x; refine changesOnly_cut (x := x) ?_ ?_; (on_goal 1 => (unfold x; clear x)); (on_goal 2 => (intro hx; try clear_value x)))
    | (extract_lets +onlyGivenNames x; refine changesOnly_fn (x := x) ?_; (try dsimp -zeta only [x]); clear x)
    | (extract_lets +onlyGivenNames x; refine changesOnly_fn2 (x := x) ?_; (try dsimp -zeta only [x]); clear x)
    | (extract_lets +onlyGivenNames x; try clear_value x)
    | with_reducible apply changesOnly_ite'
    | with_reducible assumption
    | with_reducible apply changesOnly_refl
    | (with_reducible apply changesOnly_step; with_reducible apply modLane_changes; decide)
    | split

theorem startAttempt_changes (kind : AttemptKind) (s : State) (l : ℕ) : changesOnly [.lanes] s (startAttempt kind s l) := by
  unfold startAttempt
  repeat' first
    | (extract_lets +onlyGivenNames x; refine changesOnly_cut (x := x) ?_ ?_; (on_goal 1 => (unfold x; clear x)); (on_goal 2 => (intro hx; try clear_value x)))
    | (extract_lets +onlyGivenNames x; refine changesOnly_fn (x := x) ?_; (try dsimp -zeta only [x]); clear x)
    | (extract_lets +onlyGivenNames x; refine changesOnly_fn2 (x := x) ?_; (try dsimp -zeta only [x]); clear x)
    | (extract_lets +onlyGivenNames x; refine changesOnly_cut (x := x.1) ?_ ?_; (on_goal 1 => (unfold x; clear x)); (on_goal 2 => (intro hx; try clear_value x)))
    | (extract_lets +onlyGivenNames x; try clear_value x)
    | with_reducible apply changesOnly_ite'
    | with_reducible assumption
    | with_reducible apply changesOnly_refl
    | (with_reducible apply changesOnly_step; with_reducible apply modLane_changes; decide)
    | (with_reducible apply changesOnly_step; with_reducible apply fecTake_changes; decide)
    | split
    | dsimp -zeta only

theorem laneResolve_changes (s : State) (l : ℕ) (ok : Bool) : changesOnly [.host, .out] s (laneResolve s l ok) := by
  unfold laneResolve
  repeat' first
    | (extract_lets +onlyGivenNames x; refine changesOnly_cut (x := x) ?_ ?_; (on_goal 1 => (unfold x; clear x)); (on_goal 2 => (intro hx; try clear_value x)))
    | (extract_lets +onlyGivenNames x; refine changesOnly_fn (x := x) ?_; (try dsimp -zeta only [x]); clear x)
    | (extract_lets +onlyGivenNames x; refine changesOnly_fn2 (x := x) ?_; (try dsimp -zeta only [x]); clear x)
    | (extract_lets +onlyGivenNames x; try clear_value x)
    | with_reducible apply changesOnly_ite'
    | with_reducible assumption
    | with_reducible apply changesOnly_refl
    | (with_reducible apply changesOnly_foldl'; on_goal 2 => intro y a hy)
    | (with_reducible apply changesOnly_step; with_reducible apply cmdDone_changes; decide)
    | (with_reducible apply changesOnly_step; with_reducible apply cmdPut_changes; decide)
    | split

theorem laneRetire_changes (s : State) (l : ℕ) (by_ : ℕ) : changesOnly [.host, .lanes, .fh, .pwr, .hb, .out] s (laneRetire s l by_) := by
  unfold laneRetire
  repeat' first
    | (extract_lets +onlyGivenNames x; refine changesOnly_cut (x := x) ?_ ?_; (on_goal 1 => (unfold x; clear x)); (on_goal 2 => (intro hx; try clear_value x)))
    | (extract_lets +onlyGivenNames x; refine changesOnly_fn (x := x) ?_; (try dsimp -zeta only [x]); clear x)
    | (extract_lets +onlyGivenNames x; refine changesOnly_fn2 (x := x) ?_; (try dsimp -zeta only [x]); clear x)
    | (extract_lets +onlyGivenNames x; try clear_value x)
    | with_reducible assumption
    | with_reducible apply changesOnly_refl
    | (with_reducible apply changesOnly_step; with_reducible apply laneLeave_changes; decide)
    | (with_reducible apply changesOnly_step; with_reducible apply modLane_changes; decide)
    | (with_reducible apply changesOnly_step; with_reducible apply post_changes; decide)
    | (with_reducible apply changesOnly_step; with_reducible apply laneResolve_changes; decide)
    | (with_reducible apply changesOnly_step; with_reducible apply noteRetired_changes; decide)
    | split

theorem mateWait_changes (s : State) (m : Nat) : changesOnly [.host, .lanes, .fh, .out] s (mateWait s m) := by
  unfold mateWait
  repeat' first
    | (extract_lets +onlyGivenNames x; refine changesOnly_cut (x := x) ?_ ?_; (on_goal 1 => (unfold x; clear x)); (on_goal 2 => (intro hx; try clear_value x)))
    | (extract_lets +onlyGivenNames x; refine changesOnly_fn (x := x) ?_; (try dsimp -zeta only [x]); clear x)
    | (extract_lets +onlyGivenNames x; refine changesOnly_fn2 (x := x) ?_; (try dsimp -zeta only [x]); clear x)
    | (extract_lets +onlyGivenNames x; try clear_value x)
    | with_reducible apply changesOnly_ite'
    | with_reducible assumption
    | with_reducible apply changesOnly_refl
    | (with_reducible apply changesOnly_step; with_reducible apply modLane_changes; decide)
    | (with_reducible apply changesOnly_step; with_reducible apply laneLeave_changes; decide)
    | (with_reducible apply changesOnly_step; with_reducible apply laneResolve_changes; decide)
    | split

theorem laneFault_changes (s : State) (l cause : Nat) : changesOnly [.host, .lanes, .fh, .pwr, .hb, .out] s (laneFault s l cause) := by
  unfold laneFault
  repeat' first
    | (extract_lets +onlyGivenNames x; refine changesOnly_cut (x := x) ?_ ?_; (on_goal 1 => (unfold x; clear x)); (on_goal 2 => (intro hx; try clear_value x)))
    | (extract_lets +onlyGivenNames x; refine changesOnly_fn (x := x) ?_; (try dsimp -zeta only [x]); clear x)
    | (extract_lets +onlyGivenNames x; refine changesOnly_fn2 (x := x) ?_; (try dsimp -zeta only [x]); clear x)
    | (extract_lets +onlyGivenNames x; try clear_value x)
    | with_reducible apply changesOnly_ite'
    | with_reducible assumption
    | with_reducible apply changesOnly_refl
    | (with_reducible apply changesOnly_foldl'; on_goal 2 => intro y a hy)
    | (with_reducible apply changesOnly_fold1; on_goal 2 => intro y a hy)
    | (with_reducible apply changesOnly_step; with_reducible apply modLane_changes; decide)
    | (with_reducible apply changesOnly_step; with_reducible apply laneLeave_changes; decide)
    | (with_reducible apply changesOnly_step; with_reducible apply laneErr_changes; decide)
    | (with_reducible apply changesOnly_step; with_reducible apply post_changes; decide)
    | (with_reducible apply changesOnly_step; with_reducible apply laneRetire_changes; decide)
    | (with_reducible apply changesOnly_step; with_reducible apply noteFault_changes; decide)
    | (with_reducible apply changesOnly_step; with_reducible apply mateWait_changes; decide)
    | split
    | dsimp -zeta only

theorem sideCheck_changes (s : State) (d : ℕ) : changesOnly [.run] s (sideCheck s d) := by
  unfold sideCheck
  repeat' first
    | (extract_lets +onlyGivenNames x; refine changesOnly_cut (x := x) ?_ ?_; (on_goal 1 => (unfold x; clear x)); (on_goal 2 => (intro hx; try clear_value x)))
    | (extract_lets +onlyGivenNames x; refine changesOnly_fn (x := x) ?_; (try dsimp -zeta only [x]); clear x)
    | (extract_lets +onlyGivenNames x; refine changesOnly_fn2 (x := x) ?_; (try dsimp -zeta only [x]); clear x)
    | (extract_lets +onlyGivenNames x; try clear_value x)
    | with_reducible apply changesOnly_ite'
    | with_reducible assumption
    | with_reducible apply changesOnly_refl
    | (with_reducible apply changesOnly_step; with_reducible apply modSide_changes; decide)
    | split

theorem attemptFail_changes (s : State) (l : ℕ) : changesOnly [.host, .lanes, .fh, .run, .pwr, .hb, .out] s (attemptFail s l) := by
  unfold attemptFail
  repeat' first
    | (extract_lets +onlyGivenNames x; refine changesOnly_cut (x := x) ?_ ?_; (on_goal 1 => (unfold x; clear x)); (on_goal 2 => (intro hx; try clear_value x)))
    | (extract_lets +onlyGivenNames x; refine changesOnly_fn (x := x) ?_; (try dsimp -zeta only [x]); clear x)
    | (extract_lets +onlyGivenNames x; refine changesOnly_fn2 (x := x) ?_; (try dsimp -zeta only [x]); clear x)
    | (extract_lets +onlyGivenNames x; try clear_value x)
    | with_reducible apply changesOnly_ite'
    | with_reducible assumption
    | with_reducible apply changesOnly_refl
    | (with_reducible apply changesOnly_step; with_reducible apply modLane_changes; decide)
    | (with_reducible apply changesOnly_step; with_reducible apply laneResolve_changes; decide)
    | (with_reducible apply changesOnly_step; with_reducible apply sideCheck_changes; decide)
    | (with_reducible apply changesOnly_step; with_reducible apply startAttempt_changes; decide)
    | (with_reducible apply changesOnly_step; with_reducible apply laneFault_changes; decide)
    | split

theorem laneUp_changes (s : State) (l : ℕ) : changesOnly [.host, .lanes, .run, .pwr, .out] s (laneUp s l) := by
  unfold laneUp
  repeat' first
    | (extract_lets +onlyGivenNames x; refine changesOnly_cut (x := x) ?_ ?_; (on_goal 1 => (unfold x; clear x)); (on_goal 2 => (intro hx; try clear_value x)))
    | (extract_lets +onlyGivenNames x; refine changesOnly_fn (x := x) ?_; (try dsimp -zeta only [x]); clear x)
    | (extract_lets +onlyGivenNames x; refine changesOnly_fn2 (x := x) ?_; (try dsimp -zeta only [x]); clear x)
    | (extract_lets +onlyGivenNames x; try clear_value x)
    | with_reducible apply changesOnly_ite'
    | with_reducible assumption
    | with_reducible apply changesOnly_refl
    | (with_reducible apply changesOnly_step; with_reducible apply modLane_changes; decide)
    | (with_reducible apply changesOnly_step; with_reducible apply modSide_changes; decide)
    | (with_reducible apply changesOnly_step; with_reducible apply laneResolve_changes; decide)
    | (with_reducible apply changesOnly_step; with_reducible apply post_changes; decide)
    | split

theorem trainFrame_changes (s : State) (l : Nat) (f : TrainFrame) : changesOnly [.lanes, .run, .out] s (trainFrame s l f) := by
  unfold trainFrame
  repeat' first
    | (extract_lets +onlyGivenNames x; refine changesOnly_cut (x := x) ?_ ?_; (on_goal 1 => (unfold x; clear x)); (on_goal 2 => (intro hx; try clear_value x)))
    | (extract_lets +onlyGivenNames x; refine changesOnly_fn (x := x) ?_; (try dsimp -zeta only [x]); clear x)
    | (extract_lets +onlyGivenNames x; refine changesOnly_fn2 (x := x) ?_; (try dsimp -zeta only [x]); clear x)
    | (extract_lets +onlyGivenNames x; try clear_value x)
    | with_reducible apply changesOnly_ite'
    | with_reducible assumption
    | with_reducible apply changesOnly_refl
    | (with_reducible apply changesOnly_step; with_reducible apply modLane_changes; decide)
    | (with_reducible apply changesOnly_step; with_reducible apply send_changes; decide)
    | (with_reducible apply changesOnly_step; with_reducible apply modSide_changes; decide)
    | split

theorem detectorAssert_changes (s : State) (l : ℕ) (det : Detector) : changesOnly [.host, .lanes, .fh, .pwr, .hb, .out] s (detectorAssert s l det) := by
  unfold detectorAssert
  repeat' first
    | (extract_lets +onlyGivenNames x; refine changesOnly_cut (x := x) ?_ ?_; (on_goal 1 => (unfold x; clear x)); (on_goal 2 => (intro hx; try clear_value x)))
    | (extract_lets +onlyGivenNames x; refine changesOnly_fn (x := x) ?_; (try dsimp -zeta only [x]); clear x)
    | (extract_lets +onlyGivenNames x; refine changesOnly_fn2 (x := x) ?_; (try dsimp -zeta only [x]); clear x)
    | (extract_lets +onlyGivenNames x; try clear_value x)
    | with_reducible apply changesOnly_ite'
    | with_reducible assumption
    | with_reducible apply changesOnly_refl
    | (with_reducible apply changesOnly_step; with_reducible apply modLane_changes; decide)
    | (with_reducible apply changesOnly_step; with_reducible apply post_changes; decide)
    | (with_reducible apply changesOnly_step; with_reducible apply laneErr_changes; decide)
    | (with_reducible apply changesOnly_step; with_reducible apply laneFault_changes; decide)
    | split

theorem detectorClear_changes (s : State) (l : Nat) (det : Detector) : changesOnly [.lanes] s (detectorClear s l det) := by
  unfold detectorClear
  repeat' first
    | (extract_lets +onlyGivenNames x; refine changesOnly_cut (x := x) ?_ ?_; (on_goal 1 => (unfold x; clear x)); (on_goal 2 => (intro hx; try clear_value x)))
    | (extract_lets +onlyGivenNames x; try clear_value x)
    | with_reducible apply changesOnly_ite'
    | with_reducible assumption
    | with_reducible apply changesOnly_refl
    | (with_reducible apply changesOnly_step; with_reducible apply modLane_changes; decide)
    | (with_reducible apply changesOnly_step; with_reducible apply startAttempt_changes; decide)
    | split

theorem errorPulses_changes (s : State) (n : Nat) : changesOnly [.out] s (errorPulses s n) := by
  unfold errorPulses
  repeat' first
    | with_reducible apply changesOnly_ite'
    | with_reducible assumption
    | with_reducible apply changesOnly_refl
    | (with_reducible apply changesOnly_step; with_reducible apply send_changes; decide)
    | split

theorem patternPulse_changes (s : State) (l : Nat) : changesOnly [.out] s (patternPulse s l) := by
  unfold patternPulse
  repeat' first
    | with_reducible apply changesOnly_ite'
    | with_reducible assumption
    | with_reducible apply changesOnly_refl
    | (with_reducible apply changesOnly_step; with_reducible apply send_changes; decide)
    | split

theorem prbsStop_changes (s : State) (l : Nat) : changesOnly [.lanes, .out] s (prbsStop s l) := by
  unfold prbsStop
  repeat' first
    | with_reducible assumption
    | with_reducible apply changesOnly_refl
    | (with_reducible apply changesOnly_step; with_reducible apply errorPulses_changes; decide)
    | (with_reducible apply changesOnly_step; with_reducible apply modLane_changes; decide)
    | split

theorem testOff_changes (s : State) (l : Nat) : changesOnly [.lanes, .out] s (testOff s l) := by
  unfold testOff
  repeat' first
    | with_reducible assumption
    | with_reducible apply changesOnly_refl
    | (with_reducible apply changesOnly_step; with_reducible apply modLane_changes; decide)
    | (with_reducible apply changesOnly_step; with_reducible apply prbsStop_changes; decide)
    | split

theorem reassign_changes (s : State) : changesOnly [.host, .fh, .run, .pwr, .out] s (reassign s) := by
  unfold reassign
  repeat' first
    | simp -zeta -zetaUnused (disch := first | decide | (apply Or.inl; decide) | (apply Or.inr; apply And.intro rfl; first | rfl | exact And.intro rfl (And.intro rfl rfl))) only [changesOnly_set_run]
    | (extract_lets +onlyGivenNames x; refine changesOnly_cut (x := x) ?_ ?_; (on_goal 1 => (unfold x; clear x)); (on_goal 2 => (intro hx; try clear_value x)))
    | (extract_lets +onlyGivenNames x; refine changesOnly_fn (x := x) ?_; (try dsimp -zeta only [x]); clear x)
    | (extract_lets +onlyGivenNames x; refine changesOnly_fn2 (x := x) ?_; (try dsimp -zeta only [x]); clear x)
    | (extract_lets +onlyGivenNames x; try clear_value x)
    | with_reducible apply changesOnly_ite'
    | with_reducible assumption
    | with_reducible apply changesOnly_refl
    | (with_reducible apply changesOnly_foldl'; on_goal 2 => intro y a hy)
    | (with_reducible apply changesOnly_fold1; on_goal 2 => intro y a hy)
    | (with_reducible apply changesOnly_all; on_goal 2 => intro y a hy)
    | (with_reducible apply changesOnly_step; with_reducible apply closeBook_changes; decide)
    | (with_reducible apply changesOnly_step; with_reducible apply postParts_changes; decide)
    | split
    | dsimp -zeta only

theorem lanesSymbol_changes (s : State) : changesOnly [.host, .lanes, .fh, .run, .pwr, .hb, .out] s (lanesSymbol s) := by
  unfold lanesSymbol
  repeat' first
    | simp -zeta -zetaUnused (disch := first | decide | (apply Or.inl; decide) | (apply Or.inr; apply And.intro rfl; first | rfl | exact And.intro rfl (And.intro rfl rfl))) only [changesOnly_set_lanes]
    | (extract_lets +onlyGivenNames x; refine changesOnly_cut (x := x) ?_ ?_; (on_goal 1 => (unfold x; clear x)); (on_goal 2 => (intro hx; try clear_value x)))
    | (extract_lets +onlyGivenNames x; refine changesOnly_fn (x := x) ?_; (try dsimp -zeta only [x]); clear x)
    | (extract_lets +onlyGivenNames x; refine changesOnly_fn2 (x := x) ?_; (try dsimp -zeta only [x]); clear x)
    | (extract_lets +onlyGivenNames x; try clear_value x)
    | with_reducible apply changesOnly_ite'
    | with_reducible assumption
    | with_reducible apply changesOnly_refl
    | (with_reducible apply changesOnly_all; on_goal 2 => intro y a hy)
    | (with_reducible apply changesOnly_step; with_reducible apply reassign_changes; decide)
    | (with_reducible apply changesOnly_step; with_reducible apply synceUpdate_changes; decide)
    | (with_reducible apply changesOnly_step; with_reducible apply detectorAssert_changes; decide)
    | split

theorem lanesSlot_changes (s : State) : changesOnly [.lanes] s (lanesSlot s) := by
  unfold lanesSlot
  repeat' first
    | simp -zeta -zetaUnused (disch := first | decide | (apply Or.inl; decide) | (apply Or.inr; apply And.intro rfl; first | rfl | exact And.intro rfl (And.intro rfl rfl))) only [changesOnly_set_lanes]
    | with_reducible assumption
    | with_reducible apply changesOnly_refl
    | split

theorem hostRetrain_changes (s : State) (l : Nat) : changesOnly [.lanes, .fh, .out] s (hostRetrain s l) := by
  unfold hostRetrain
  repeat' first
    | (extract_lets +onlyGivenNames x; refine changesOnly_cut (x := x) ?_ ?_; (on_goal 1 => (unfold x; clear x)); (on_goal 2 => (intro hx; try clear_value x)))
    | (extract_lets +onlyGivenNames x; try clear_value x)
    | with_reducible apply changesOnly_ite'
    | with_reducible assumption
    | with_reducible apply changesOnly_refl
    | (with_reducible apply changesOnly_step; with_reducible apply startAttempt_changes; decide)
    | (with_reducible apply changesOnly_step; with_reducible apply testOff_changes; decide)
    | (with_reducible apply changesOnly_step; with_reducible apply laneLeave_changes; decide)
    | split

theorem cascadeAgain_changes (s : State) (ls : List Nat) : changesOnly [.run] s (cascadeAgain s ls) := by
  unfold cascadeAgain
  repeat' first
    | simp -zeta -zetaUnused (disch := first | decide | (apply Or.inl; decide) | (apply Or.inr; apply And.intro rfl; first | rfl | exact And.intro rfl (And.intro rfl rfl))) only [changesOnly_set_run]
    | (extract_lets +onlyGivenNames x; refine changesOnly_cut (x := x) ?_ ?_; (on_goal 1 => (unfold x; clear x)); (on_goal 2 => (intro hx; try clear_value x)))
    | (extract_lets +onlyGivenNames x; refine changesOnly_fn (x := x) ?_; (try dsimp -zeta only [x]); clear x)
    | (extract_lets +onlyGivenNames x; refine changesOnly_fn2 (x := x) ?_; (try dsimp -zeta only [x]); clear x)
    | (extract_lets +onlyGivenNames x; try clear_value x)
    | with_reducible apply changesOnly_ite'
    | with_reducible assumption
    | with_reducible apply changesOnly_refl
    | (with_reducible apply changesOnly_foldl'; on_goal 2 => intro y a hy)
    | (with_reducible apply changesOnly_fold1; on_goal 2 => intro y a hy)
    | (with_reducible apply changesOnly_step; with_reducible apply modSide_changes; decide)
    | split
    | dsimp -zeta only

theorem setFec_changes (b regroup : Bool) (s : State) (l : Nat) : changesOnly [.lanes, .fh, .out] s (setFec b regroup s l) := by
  unfold setFec
  repeat' first
    | with_reducible apply changesOnly_ite'
    | with_reducible assumption
    | with_reducible apply changesOnly_refl
    | (with_reducible apply changesOnly_step; with_reducible apply modLane_changes; decide)
    | (with_reducible apply changesOnly_step; with_reducible apply hostRetrain_changes; decide)
    | (with_reducible apply changesOnly_step; with_reducible apply fecTake_changes; decide)
    | split

theorem laneCtrlEffect_changes (s : State) (c : Cmd) : changesOnly [.host, .lanes, .fh, .run, .pwr, .out] s (laneCtrlEffect s c) := by
  unfold laneCtrlEffect
  repeat' first
    | simp -zeta -zetaUnused (disch := first | decide | (apply Or.inl; decide) | (apply Or.inr; apply And.intro rfl; first | rfl | exact And.intro rfl (And.intro rfl rfl))) only [changesOnly_set_lanes]
    | (extract_lets +onlyGivenNames x; refine changesOnly_cut (x := x) ?_ ?_; (on_goal 1 => (unfold x; clear x)); (on_goal 2 => (intro hx; try clear_value x)))
    | (extract_lets +onlyGivenNames x; refine changesOnly_fn (x := x) ?_; (try dsimp -zeta only [x]); clear x)
    | (extract_lets +onlyGivenNames x; refine changesOnly_fn2 (x := x) ?_; (try dsimp -zeta only [x]); clear x)
    | (extract_lets +onlyGivenNames x; try clear_value x)
    | with_reducible apply changesOnly_ite'
    | with_reducible assumption
    | with_reducible apply changesOnly_refl
    | (with_reducible apply changesOnly_foldl'; on_goal 2 => intro y a hy)
    | (with_reducible apply changesOnly_fold1; on_goal 2 => intro y a hy)
    | (with_reducible apply changesOnly_step; with_reducible apply modLane_changes; decide)
    | (with_reducible apply changesOnly_step; with_reducible apply cascadeAgain_changes; decide)
    | (with_reducible apply changesOnly_step; with_reducible apply hostRetrain_changes; decide)
    | (with_reducible apply changesOnly_step; with_reducible apply cmdDone_changes; decide)
    | (with_reducible apply changesOnly_step; with_reducible apply synceUpdate_changes; decide)
    | (with_reducible apply changesOnly_step; with_reducible apply cmdPut_changes; decide)
    | (with_reducible apply changesOnly_step; with_reducible apply laneLeave_changes; decide)
    | (with_reducible apply changesOnly_step; with_reducible apply setFec_changes; decide)
    | (with_reducible apply changesOnly_step; with_reducible apply patternPulse_changes; decide)
    | (with_reducible apply changesOnly_step; with_reducible apply prbsStop_changes; decide)
    | split
    | dsimp -zeta only

theorem setHalf_changes (s : State) (d : ℕ) (i : ℕ) (h : Half) : changesOnly [.cru] s (setHalf s d i h) := by
  unfold setHalf
  repeat' first
    | simp -zeta -zetaUnused (disch := first | decide | (apply Or.inl; decide) | (apply Or.inr; apply And.intro rfl; first | rfl | exact And.intro rfl (And.intro rfl rfl))) only [changesOnly_set_cru]
    | with_reducible apply changesOnly_ite'
    | with_reducible assumption
    | with_reducible apply changesOnly_refl
    | split

theorem weightFill_changes (d : Nat) (s : State) : changesOnly [.tb, .host, .cru, .out] s (weightFill d s) := by
  unfold weightFill
  repeat' first
    | simp -zeta -zetaUnused (disch := first | decide | (apply Or.inl; decide) | (apply Or.inr; apply And.intro rfl; first | rfl | exact And.intro rfl (And.intro rfl rfl))) only [changesOnly_set_cru]
    | (extract_lets +onlyGivenNames x; refine changesOnly_cut (x := x) ?_ ?_; (on_goal 1 => (unfold x; clear x)); (on_goal 2 => (intro hx; try clear_value x)))
    | (extract_lets +onlyGivenNames x; refine changesOnly_fn (x := x) ?_; (try dsimp -zeta only [x]); clear x)
    | (extract_lets +onlyGivenNames x; refine changesOnly_fn2 (x := x) ?_; (try dsimp -zeta only [x]); clear x)
    | (extract_lets +onlyGivenNames x; try clear_value x)
    | with_reducible apply changesOnly_ite'
    | with_reducible assumption
    | with_reducible apply changesOnly_refl
    | (with_reducible apply changesOnly_step; with_reducible apply arriveAt_changes; decide)
    | (with_reducible apply changesOnly_step; with_reducible apply setHalf_changes; decide)
    | split
    | dsimp -zeta only

theorem releaseCtrl_changes (s : State) (d : ℕ) (k : ℕ) : changesOnly [.fh] s (releaseCtrl s d k) := by
  unfold releaseCtrl
  repeat' first
    | simp -zeta -zetaUnused (disch := first | decide | (apply Or.inl; decide) | (apply Or.inr; apply And.intro rfl; first | rfl | exact And.intro rfl (And.intro rfl rfl))) only [changesOnly_set_fh]
    | (extract_lets +onlyGivenNames x; refine changesOnly_cut (x := x) ?_ ?_; (on_goal 1 => (unfold x; clear x)); (on_goal 2 => (intro hx; try clear_value x)))
    | (extract_lets +onlyGivenNames x; refine changesOnly_fn (x := x) ?_; (try dsimp -zeta only [x]); clear x)
    | (extract_lets +onlyGivenNames x; refine changesOnly_fn2 (x := x) ?_; (try dsimp -zeta only [x]); clear x)
    | (extract_lets +onlyGivenNames x; try clear_value x)
    | with_reducible apply changesOnly_ite'
    | with_reducible assumption
    | with_reducible apply changesOnly_refl
    | (with_reducible apply changesOnly_step; with_reducible apply dropCtrl_changes; decide)
    | split

theorem swapTick_changes (s : State) (d k : Nat) : changesOnly [.host, .fh, .cru, .pwr, .out] s (swapTick s d k) := by
  unfold swapTick
  repeat' first
    | simp -zeta -zetaUnused (disch := first | decide | (apply Or.inl; decide) | (apply Or.inr; apply And.intro rfl; first | rfl | exact And.intro rfl (And.intro rfl rfl))) only [changesOnly_set_cru]
    | (extract_lets +onlyGivenNames x; refine changesOnly_cut (x := x) ?_ ?_; (on_goal 1 => (unfold x; clear x)); (on_goal 2 => (intro hx; try clear_value x)))
    | (extract_lets +onlyGivenNames x; refine changesOnly_fn (x := x) ?_; (try dsimp -zeta only [x]); clear x)
    | (extract_lets +onlyGivenNames x; refine changesOnly_fn2 (x := x) ?_; (try dsimp -zeta only [x]); clear x)
    | (extract_lets +onlyGivenNames x; try clear_value x)
    | with_reducible apply changesOnly_ite'
    | with_reducible assumption
    | with_reducible apply changesOnly_refl
    | (with_reducible apply changesOnly_step; with_reducible apply setHalf_changes; decide)
    | (with_reducible apply changesOnly_step; with_reducible apply post_changes; decide)
    | (with_reducible apply changesOnly_step; with_reducible apply releaseCtrl_changes; decide)
    | split
    | dsimp -zeta only

theorem windowLate_changes (s : State) (dir : ℕ) (units : ℕ) (k : ℕ) : changesOnly [.host, .pwr, .gen, .out] s (windowLate s dir units k) := by
  unfold windowLate
  repeat' first
    | simp -zeta -zetaUnused (disch := first | decide | (apply Or.inl; decide) | (apply Or.inr; apply And.intro rfl; first | rfl | exact And.intro rfl (And.intro rfl rfl))) only [changesOnly_set_gen]
    | with_reducible assumption
    | with_reducible apply changesOnly_refl
    | (with_reducible apply changesOnly_step; with_reducible apply post_changes; decide)
    | split

theorem queueUplink_changes (s : State) (code : ℕ) (c : ℕ) (key : ℕ) (k : ℕ) (stl : Bool) (nc : Bool) (comp : ℕ) (start : ℕ) (num : ℕ) (data : List Byte) : changesOnly [.fh] s (queueUplink s code c key k stl nc comp start num data) := by
  unfold queueUplink
  repeat' first
    | simp -zeta -zetaUnused (disch := first | decide | (apply Or.inl; decide) | (apply Or.inr; apply And.intro rfl; first | rfl | exact And.intro rfl (And.intro rfl rfl))) only [changesOnly_set_fh]
    | (extract_lets +onlyGivenNames x; refine changesOnly_cut (x := x) ?_ ?_; (on_goal 1 => (unfold x; clear x)); (on_goal 2 => (intro hx; try clear_value x)))
    | (extract_lets +onlyGivenNames x; try clear_value x)
    | with_reducible apply changesOnly_ite'
    | with_reducible assumption
    | with_reducible apply changesOnly_refl
    | (with_reducible apply changesOnly_step; with_reducible apply slag_changes; decide)
    | split

theorem assembleLayer_changes (s : State) (c : Nat) (e : Entry) (nc : Bool) : changesOnly [.fh, .cru] s (assembleLayer s c e nc) := by
  unfold assembleLayer
  repeat' first
    | simp -zeta -zetaUnused (disch := first | decide | (apply Or.inl; decide) | (apply Or.inr; apply And.intro rfl; first | rfl | exact And.intro rfl (And.intro rfl rfl))) only [changesOnly_set_cru]
    | (extract_lets +onlyGivenNames x; refine changesOnly_cut (x := x) ?_ ?_; (on_goal 1 => (unfold x; clear x)); (on_goal 2 => (intro hx; try clear_value x)))
    | (extract_lets +onlyGivenNames x; refine changesOnly_fn (x := x) ?_; (try dsimp -zeta only [x]); clear x)
    | (extract_lets +onlyGivenNames x; refine changesOnly_fn2 (x := x) ?_; (try dsimp -zeta only [x]); clear x)
    | (extract_lets +onlyGivenNames x; try clear_value x)
    | with_reducible apply changesOnly_ite'
    | with_reducible assumption
    | with_reducible apply changesOnly_refl
    | (with_reducible apply changesOnly_foldl'; on_goal 2 => intro y a hy)
    | (with_reducible apply changesOnly_fold1; on_goal 2 => intro y a hy)
    | (with_reducible apply changesOnly_step; with_reducible apply slag_changes; decide)
    | (with_reducible apply changesOnly_step; with_reducible apply queueUplink_changes; decide)
    | split
    | dsimp -zeta only

theorem assembleStream_changes (s : State) (c path : Nat) (samples : List Sample) : changesOnly [.fh] s (assembleStream s c path samples) := by
  unfold assembleStream
  repeat' first
    | (extract_lets +onlyGivenNames x; refine changesOnly_cut (x := x) ?_ ?_; (on_goal 1 => (unfold x; clear x)); (on_goal 2 => (intro hx; try clear_value x)))
    | (extract_lets +onlyGivenNames x; refine changesOnly_fn (x := x) ?_; (try dsimp -zeta only [x]); clear x)
    | (extract_lets +onlyGivenNames x; refine changesOnly_fn2 (x := x) ?_; (try dsimp -zeta only [x]); clear x)
    | (extract_lets +onlyGivenNames x; try clear_value x)
    | with_reducible apply changesOnly_ite'
    | with_reducible assumption
    | with_reducible apply changesOnly_refl
    | (with_reducible apply changesOnly_foldl'; on_goal 2 => intro y a hy)
    | (with_reducible apply changesOnly_fold1; on_goal 2 => intro y a hy)
    | (with_reducible apply changesOnly_step; with_reducible apply queueUplink_changes; decide)
    | split
    | dsimp -zeta only

theorem sendPour_changes (s : State) (d : ℕ) (lane : ℕ) (cls : ℕ) (sub : ℕ) (symid : ℕ) (layer : ℕ) (cc : ℕ) (payload : List Byte) (bad : Bool) : changesOnly [.fh, .run, .out] s (sendPour s d lane cls sub symid layer cc payload bad) := by
  unfold sendPour
  repeat' first
    | simp -zeta -zetaUnused (disch := first | decide | (apply Or.inl; decide) | (apply Or.inr; apply And.intro rfl; first | rfl | exact And.intro rfl (And.intro rfl rfl))) only [changesOnly_set_run]
    | (extract_lets +onlyGivenNames x; refine changesOnly_cut (x := x) ?_ ?_; (on_goal 1 => (unfold x; clear x)); (on_goal 2 => (intro hx; try clear_value x)))
    | (extract_lets +onlyGivenNames x; try clear_value x)
    | with_reducible assumption
    | with_reducible apply changesOnly_refl
    | (with_reducible apply changesOnly_step; with_reducible apply assaySnoop_changes; decide)
    | (with_reducible apply changesOnly_step; with_reducible apply send_changes; decide)
    | split

theorem sendData_changes (s : State) (d lane cls symid layer cc : Nat) (payload : List Byte) (bad : Bool) : changesOnly [.fh, .run, .out] s (sendData s d lane cls symid layer cc payload bad) := by
  unfold sendData
  repeat' first
    | (extract_lets +onlyGivenNames x; refine changesOnly_cut (x := x) ?_ ?_; (on_goal 1 => (unfold x; clear x)); (on_goal 2 => (intro hx; try clear_value x)))
    | (extract_lets +onlyGivenNames x; try clear_value x)
    | with_reducible apply changesOnly_ite'
    | with_reducible assumption
    | with_reducible apply changesOnly_refl
    | (with_reducible apply changesOnly_step; with_reducible apply slag_changes; decide)
    | (with_reducible apply changesOnly_step; with_reducible apply sendPour_changes; decide)
    | split

theorem sendPartial_changes (s : State) (c : Nat) (e : Entry) (d lane : Nat) (r : Nat × Nat) : changesOnly [.fh, .cru, .run, .out] s (sendPartial s c e d lane r) := by
  unfold sendPartial
  repeat' first
    | simp -zeta -zetaUnused (disch := first | decide | (apply Or.inl; decide) | (apply Or.inr; apply And.intro rfl; first | rfl | exact And.intro rfl (And.intro rfl rfl))) only [changesOnly_set_cru]
    | (extract_lets +onlyGivenNames x; refine changesOnly_cut (x := x) ?_ ?_; (on_goal 1 => (unfold x; clear x)); (on_goal 2 => (intro hx; try clear_value x)))
    | (extract_lets +onlyGivenNames x; try clear_value x)
    | with_reducible assumption
    | with_reducible apply changesOnly_refl
    | (with_reducible apply changesOnly_step; with_reducible apply sendData_changes; decide)
    | split
    | dsimp -zeta only

theorem sendPartials_changes (s : State) (c : Nat) (e : Entry) (n : Nat) : changesOnly [.fh, .cru, .run, .out] s (sendPartials s c e n) := by
  unfold sendPartials
  repeat' first
    | simp -zeta -zetaUnused (disch := first | decide | (apply Or.inl; decide) | (apply Or.inr; apply And.intro rfl; first | rfl | exact And.intro rfl (And.intro rfl rfl))) only [changesOnly_set_cru]
    | (extract_lets +onlyGivenNames x; refine changesOnly_cut (x := x) ?_ ?_; (on_goal 1 => (unfold x; clear x)); (on_goal 2 => (intro hx; try clear_value x)))
    | (extract_lets +onlyGivenNames x; refine changesOnly_fn (x := x) ?_; (try dsimp -zeta only [x]); clear x)
    | (extract_lets +onlyGivenNames x; refine changesOnly_fn2 (x := x) ?_; (try dsimp -zeta only [x]); clear x)
    | (extract_lets +onlyGivenNames x; try clear_value x)
    | with_reducible apply changesOnly_ite'
    | with_reducible assumption
    | with_reducible apply changesOnly_refl
    | (with_reducible apply changesOnly_foldl'; on_goal 2 => intro y a hy)
    | (with_reducible apply changesOnly_fold1; on_goal 2 => intro y a hy)
    | (with_reducible apply changesOnly_step; with_reducible apply sendPartial_changes; decide)
    | split
    | dsimp -zeta only

theorem closeLayer_changes (late : Nat → Entry → Bool) (c : Nat) (s : State) (e : Entry) : changesOnly [.host, .fh, .cru, .run, .pwr, .out] s (closeLayer late c s e) := by
  unfold closeLayer
  repeat' first
    | simp -zeta -zetaUnused (disch := first | decide | (apply Or.inl; decide) | (apply Or.inr; apply And.intro rfl; first | rfl | exact And.intro rfl (And.intro rfl rfl))) only [changesOnly_set_cru]
    | (extract_lets +onlyGivenNames x; refine changesOnly_cut (x := x) ?_ ?_; (on_goal 1 => (unfold x; clear x)); (on_goal 2 => (intro hx; try clear_value x)))
    | (extract_lets +onlyGivenNames x; try clear_value x)
    | with_reducible apply changesOnly_ite'
    | with_reducible assumption
    | with_reducible apply changesOnly_refl
    | (with_reducible apply changesOnly_step; with_reducible apply sendPartials_changes; decide)
    | (with_reducible apply changesOnly_step; with_reducible apply assembleLayer_changes; decide)
    | (with_reducible apply changesOnly_step; with_reducible apply post_changes; decide)
    | split

theorem closeUplink_changes (unfinished : List LayerRef) (s : State) : changesOnly [.host, .fh, .cru, .run, .pwr, .gen, .out] s (closeUplink unfinished s) := by
  unfold closeUplink
  repeat' first
    | simp -zeta -zetaUnused (disch := first | decide | (apply Or.inl; decide) | (apply Or.inr; apply And.intro rfl; first | rfl | exact And.intro rfl (And.intro rfl rfl))) only [changesOnly_set_cru]
    | (extract_lets +onlyGivenNames x; refine changesOnly_cut (x := x) ?_ ?_; (on_goal 1 => (unfold x; clear x)); (on_goal 2 => (intro hx; try clear_value x)))
    | (extract_lets +onlyGivenNames x; refine changesOnly_fn (x := x) ?_; (try dsimp -zeta only [x]); clear x)
    | (extract_lets +onlyGivenNames x; refine changesOnly_fn2 (x := x) ?_; (try dsimp -zeta only [x]); clear x)
    | (extract_lets +onlyGivenNames x; try clear_value x)
    | with_reducible apply changesOnly_ite'
    | with_reducible assumption
    | with_reducible apply changesOnly_refl
    | (with_reducible apply changesOnly_foldl'; on_goal 2 => intro y a hy)
    | (with_reducible apply changesOnly_fold1; on_goal 2 => intro y a hy)
    | (with_reducible apply changesOnly_step; with_reducible apply closeLayer_changes; decide)
    | (with_reducible apply changesOnly_step; with_reducible apply windowLate_changes; decide)
    | split
    | dsimp -zeta only

theorem dealUnits_changes (s : State) (k : Nat) : changesOnly [.cru] s (dealUnits s k) := by
  unfold dealUnits
  repeat' first
    | simp -zeta -zetaUnused (disch := first | decide | (apply Or.inl; decide) | (apply Or.inr; apply And.intro rfl; first | rfl | exact And.intro rfl (And.intro rfl rfl))) only [changesOnly_set_cru]
    | (extract_lets +onlyGivenNames x; refine changesOnly_cut (x := x) ?_ ?_; (on_goal 1 => (unfold x; clear x)); (on_goal 2 => (intro hx; try clear_value x)))
    | (extract_lets +onlyGivenNames x; refine changesOnly_fn (x := x) ?_; (try dsimp -zeta only [x]); clear x)
    | (extract_lets +onlyGivenNames x; refine changesOnly_fn2 (x := x) ?_; (try dsimp -zeta only [x]); clear x)
    | (extract_lets +onlyGivenNames x; try clear_value x)
    | with_reducible apply changesOnly_ite'
    | with_reducible assumption
    | with_reducible apply changesOnly_refl
    | (with_reducible apply changesOnly_foldl'; on_goal 2 => intro y a hy)
    | (with_reducible apply changesOnly_fold1; on_goal 2 => intro y a hy)
    | split
    | dsimp -zeta only

theorem dealSlot_changes (s : State) (n : Nat) : changesOnly [.cru] s (dealSlot s n) := by
  unfold dealSlot
  repeat' first
    | simp -zeta -zetaUnused (disch := first | decide | (apply Or.inl; decide) | (apply Or.inr; apply And.intro rfl; first | rfl | exact And.intro rfl (And.intro rfl rfl))) only [changesOnly_set_cru]
    | with_reducible assumption
    | with_reducible apply changesOnly_refl
    | (with_reducible apply changesOnly_step; with_reducible apply dealUnits_changes; decide)
    | split

theorem redealTick_changes (s : State) (d : Nat) : changesOnly [.cru] s (redealTick s d) := by
  unfold redealTick
  repeat' first
    | simp -zeta -zetaUnused (disch := first | decide | (apply Or.inl; decide) | (apply Or.inr; apply And.intro rfl; first | rfl | exact And.intro rfl (And.intro rfl rfl))) only [changesOnly_set_cru]
    | (extract_lets +onlyGivenNames x; refine changesOnly_cut (x := x) ?_ ?_; (on_goal 1 => (unfold x; clear x)); (on_goal 2 => (intro hx; try clear_value x)))
    | (extract_lets +onlyGivenNames x; refine changesOnly_fn (x := x) ?_; (try dsimp -zeta only [x]); clear x)
    | (extract_lets +onlyGivenNames x; refine changesOnly_fn2 (x := x) ?_; (try dsimp -zeta only [x]); clear x)
    | (extract_lets +onlyGivenNames x; try clear_value x)
    | with_reducible apply changesOnly_ite'
    | with_reducible assumption
    | with_reducible apply changesOnly_refl
    | (with_reducible apply changesOnly_step; with_reducible apply dealUnits_changes; decide)
    | split

theorem potStop_changes (s : State) (i : Nat) : changesOnly [.cru] s (potStop s i) := by
  unfold potStop
  repeat' first
    | simp -zeta -zetaUnused (disch := first | decide | (apply Or.inl; decide) | (apply Or.inr; apply And.intro rfl; first | rfl | exact And.intro rfl (And.intro rfl rfl))) only [changesOnly_set_cru]
    | with_reducible assumption
    | with_reducible apply changesOnly_refl
    | split

theorem potCount_changes (s : State) (i : ℕ) : changesOnly [.host, .cru, .pwr, .hb, .out] s (potCount s i) := by
  unfold potCount
  repeat' first
    | (extract_lets +onlyGivenNames x; refine changesOnly_cut (x := x) ?_ ?_; (on_goal 1 => (unfold x; clear x)); (on_goal 2 => (intro hx; try clear_value x)))
    | (extract_lets +onlyGivenNames x; refine changesOnly_fn (x := x) ?_; (try dsimp -zeta only [x]); clear x)
    | (extract_lets +onlyGivenNames x; refine changesOnly_fn2 (x := x) ?_; (try dsimp -zeta only [x]); clear x)
    | (extract_lets +onlyGivenNames x; try clear_value x)
    | with_reducible apply changesOnly_ite'
    | with_reducible assumption
    | with_reducible apply changesOnly_refl
    | (with_reducible apply changesOnly_step; with_reducible apply noteFault_changes; decide)
    | (with_reducible apply changesOnly_step; with_reducible apply modPot_changes; decide)
    | (with_reducible apply changesOnly_step; with_reducible apply noteRetired_changes; decide)
    | split

theorem potsSlot_changes (s : State) : changesOnly [.cru] s (potsSlot s) := by
  unfold potsSlot
  repeat' first
    | simp -zeta -zetaUnused (disch := first | decide | (apply Or.inl; decide) | (apply Or.inr; apply And.intro rfl; first | rfl | exact And.intro rfl (And.intro rfl rfl))) only [changesOnly_set_cru]
    | with_reducible apply changesOnly_ite'
    | with_reducible assumption
    | with_reducible apply changesOnly_refl
    | split

theorem weightAccept_changes (s : State) (c : Cmd) : changesOnly [.cru] s (weightAccept s c) := by
  unfold weightAccept
  repeat' first
    | simp -zeta -zetaUnused (disch := first | decide | (apply Or.inl; decide) | (apply Or.inr; apply And.intro rfl; first | rfl | exact And.intro rfl (And.intro rfl rfl))) only [changesOnly_set_cru]
    | (extract_lets +onlyGivenNames x; refine changesOnly_cut (x := x) ?_ ?_; (on_goal 1 => (unfold x; clear x)); (on_goal 2 => (intro hx; try clear_value x)))
    | (extract_lets +onlyGivenNames x; try clear_value x)
    | with_reducible assumption
    | with_reducible apply changesOnly_refl
    | split

theorem patternEffect_changes (s : State) (c : Cmd) : changesOnly [.ldl] s (patternEffect s c) := by
  unfold patternEffect
  repeat' first
    | with_reducible assumption
    | with_reducible apply changesOnly_refl
    | (with_reducible apply changesOnly_step; with_reducible apply modCh_changes; decide)
    | split
    | dsimp -zeta only

theorem commitSymbol_changes (k : Nat) (s : State) : changesOnly [.dev, .host, .ldl, .cru, .out] s (commitSymbol k s) := by
  unfold commitSymbol
  repeat' first
    | simp -zeta -zetaUnused (disch := first | decide | (apply Or.inl; decide) | (apply Or.inr; apply And.intro rfl; first | rfl | exact And.intro rfl (And.intro rfl rfl))) only [changesOnly_set_ldl_cru]
    | (extract_lets +onlyGivenNames x; refine changesOnly_cut (x := x) ?_ ?_; (on_goal 1 => (unfold x; clear x)); (on_goal 2 => (intro hx; try clear_value x)))
    | (extract_lets +onlyGivenNames x; refine changesOnly_letLadle (x := x) ?_; (try dsimp -zeta only [x]); clear x)
    | (extract_lets +onlyGivenNames x; refine changesOnly_fn (x := x) ?_; (try dsimp -zeta only [x]); clear x)
    | (extract_lets +onlyGivenNames x; refine changesOnly_fn2 (x := x) ?_; (try dsimp -zeta only [x]); clear x)
    | (extract_lets +onlyGivenNames x; try clear_value x)
    | with_reducible apply changesOnly_ite'
    | with_reducible assumption
    | with_reducible apply changesOnly_refl
    | (with_reducible apply changesOnly_step; with_reducible apply endSeq_changes; decide)
    | split

theorem tundishLate_changes (s : State) (k : Nat) (unreleased : List Nat) : changesOnly [.host, .fh, .pwr, .gen, .out] s (tundishLate s k unreleased) := by
  unfold tundishLate
  repeat' first
    | simp -zeta -zetaUnused (disch := first | decide | (apply Or.inl; decide) | (apply Or.inr; apply And.intro rfl; first | rfl | exact And.intro rfl (And.intro rfl rfl))) only [changesOnly_set_gen]
    | (extract_lets +onlyGivenNames x; refine changesOnly_cut (x := x) ?_ ?_; (on_goal 1 => (unfold x; clear x)); (on_goal 2 => (intro hx; try clear_value x)))
    | (extract_lets +onlyGivenNames x; refine changesOnly_fn (x := x) ?_; (try dsimp -zeta only [x]); clear x)
    | (extract_lets +onlyGivenNames x; refine changesOnly_fn2 (x := x) ?_; (try dsimp -zeta only [x]); clear x)
    | (extract_lets +onlyGivenNames x; try clear_value x)
    | with_reducible apply changesOnly_ite'
    | with_reducible assumption
    | with_reducible apply changesOnly_refl
    | (with_reducible apply changesOnly_step; with_reducible apply dropHeld_changes; decide)
    | (with_reducible apply changesOnly_step; with_reducible apply post_changes; decide)
    | split
    | dsimp -zeta only

theorem dlWork_changes (unfinished : Nat) (unreleased : List Nat) (k : Nat) (s : State) : changesOnly [.host, .fh, .cru, .pwr, .gen, .out] s (dlWork unfinished unreleased k s) := by
  unfold dlWork
  repeat' first
    | simp -zeta -zetaUnused (disch := first | decide | (apply Or.inl; decide) | (apply Or.inr; apply And.intro rfl; first | rfl | exact And.intro rfl (And.intro rfl rfl))) only [changesOnly_set_cru, changesOnly_set_fh_cru]
    | (extract_lets +onlyGivenNames x; refine changesOnly_cut (x := x) ?_ ?_; (on_goal 1 => (unfold x; clear x)); (on_goal 2 => (intro hx; try clear_value x)))
    | (extract_lets +onlyGivenNames x; refine changesOnly_fn (x := x) ?_; (try dsimp -zeta only [x]); clear x)
    | (extract_lets +onlyGivenNames x; refine changesOnly_fn2 (x := x) ?_; (try dsimp -zeta only [x]); clear x)
    | (extract_lets +onlyGivenNames x; try clear_value x)
    | with_reducible apply changesOnly_ite'
    | with_reducible assumption
    | with_reducible apply changesOnly_refl
    | (with_reducible apply changesOnly_step; with_reducible apply windowLate_changes; decide)
    | (with_reducible apply changesOnly_step; with_reducible apply dropDirect_changes; decide)
    | (with_reducible apply changesOnly_step; with_reducible apply dropHeld_changes; decide)
    | (with_reducible apply changesOnly_step; with_reducible apply redealTick_changes; decide)
    | (with_reducible apply changesOnly_step; with_reducible apply swapTick_changes; decide)
    | (with_reducible apply changesOnly_step; with_reducible apply tundishLate_changes; decide)
    | split

theorem ulWork_changes (unfinished : List LayerRef) (rx : List AntVal) (stl : Nat) (k : Nat) (s : State) : changesOnly [.host, .fh, .cru, .run, .pwr, .gen, .out] s (ulWork unfinished rx stl k s) := by
  unfold ulWork
  repeat' first
    | simp -zeta -zetaUnused (disch := first | decide | (apply Or.inl; decide) | (apply Or.inr; apply And.intro rfl; first | rfl | exact And.intro rfl (And.intro rfl rfl))) only [changesOnly_set_cru]
    | (extract_lets +onlyGivenNames x; refine changesOnly_cut (x := x) ?_ ?_; (on_goal 1 => (unfold x; clear x)); (on_goal 2 => (intro hx; try clear_value x)))
    | (extract_lets +onlyGivenNames x; refine changesOnly_fn (x := x) ?_; (try dsimp -zeta only [x]); clear x)
    | (extract_lets +onlyGivenNames x; refine changesOnly_fn2 (x := x) ?_; (try dsimp -zeta only [x]); clear x)
    | (extract_lets +onlyGivenNames x; try clear_value x)
    | with_reducible apply changesOnly_ite'
    | with_reducible assumption
    | with_reducible apply changesOnly_refl
    | (with_reducible apply changesOnly_step; with_reducible apply sendUplink_changes; decide)
    | (with_reducible apply changesOnly_step; with_reducible apply closeUplink_changes; decide)
    | (with_reducible apply changesOnly_step; with_reducible apply redealTick_changes; decide)
    | (with_reducible apply changesOnly_step; with_reducible apply swapTick_changes; decide)
    | split

theorem levelsTake_changes (s : State) : changesOnly [.tx] s (levelsTake s) := by
  unfold levelsTake
  repeat' first
    | simp -zeta -zetaUnused (disch := first | decide | (apply Or.inl; decide) | (apply Or.inr; apply And.intro rfl; first | rfl | exact And.intro rfl (And.intro rfl rfl))) only [changesOnly_set_tx]
    | (extract_lets +onlyGivenNames x; refine changesOnly_cut (x := x) ?_ ?_; (on_goal 1 => (unfold x; clear x)); (on_goal 2 => (intro hx; try clear_value x)))
    | (extract_lets +onlyGivenNames x; refine changesOnly_fn (x := x) ?_; (try dsimp -zeta only [x]); clear x)
    | (extract_lets +onlyGivenNames x; refine changesOnly_fn2 (x := x) ?_; (try dsimp -zeta only [x]); clear x)
    | (extract_lets +onlyGivenNames x; try clear_value x)
    | with_reducible assumption
    | with_reducible apply changesOnly_refl
    | split

theorem syncReset_changes (s : State) (p : Nat) : changesOnly [.rx] s (syncReset s p) := by
  unfold syncReset
  repeat' first
    | with_reducible assumption
    | with_reducible apply changesOnly_refl
    | (with_reducible apply changesOnly_step; with_reducible apply settle_changes; decide)
    | split

theorem quadResets_changes (s : State) (q : ℕ) : changesOnly [.rx] s (quadResets s q) := by
  unfold quadResets
  repeat' first
    | with_reducible assumption
    | with_reducible apply changesOnly_refl
    | (with_reducible apply changesOnly_all; on_goal 2 => intro y a hy)
    | (with_reducible apply changesOnly_step; with_reducible apply forAll_changes; decide)
    | (with_reducible apply changesOnly_step; with_reducible apply modRx_changes; decide)
    | split

theorem rxSymbol_changes (was : State) (k : Nat) (s : State) : changesOnly [.rx] s (rxSymbol was k s) := by
  unfold rxSymbol
  repeat' first
    | simp -zeta -zetaUnused (disch := first | decide | (apply Or.inl; decide) | (apply Or.inr; apply And.intro rfl; first | rfl | exact And.intro rfl (And.intro rfl rfl))) only [changesOnly_set_rx]
    | (extract_lets +onlyGivenNames x; refine changesOnly_cut (x := x) ?_ ?_; (on_goal 1 => (unfold x; clear x)); (on_goal 2 => (intro hx; try clear_value x)))
    | (extract_lets +onlyGivenNames x; try clear_value x)
    | with_reducible assumption
    | with_reducible apply changesOnly_refl
    | split

theorem rxSatCount_changes (s : State) (l : List (Fin 64 × Nat)) : changesOnly [.rx] s (rxSatCount s l) := by
  unfold rxSatCount
  repeat' first
    | with_reducible apply changesOnly_ite'
    | with_reducible assumption
    | with_reducible apply changesOnly_refl
    | (with_reducible apply changesOnly_foldl'; on_goal 2 => intro y a hy)
    | (with_reducible apply changesOnly_fold1; on_goal 2 => intro y a hy)
    | (with_reducible apply changesOnly_step; with_reducible apply modRx_changes; decide)
    | split
    | dsimp -zeta only

theorem overload_changes (s : State) (p : Nat) (code : BitVec 16) : changesOnly [.host, .rx, .pwr, .out] s (overload s p code) := by
  unfold overload
  repeat' first
    | (extract_lets +onlyGivenNames x; refine changesOnly_cut (x := x) ?_ ?_; (on_goal 1 => (unfold x; clear x)); (on_goal 2 => (intro hx; try clear_value x)))
    | (extract_lets +onlyGivenNames x; refine changesOnly_fn (x := x) ?_; (try dsimp -zeta only [x]); clear x)
    | (extract_lets +onlyGivenNames x; refine changesOnly_fn2 (x := x) ?_; (try dsimp -zeta only [x]); clear x)
    | (extract_lets +onlyGivenNames x; try clear_value x)
    | with_reducible apply changesOnly_ite'
    | with_reducible assumption
    | with_reducible apply changesOnly_refl
    | (with_reducible apply changesOnly_step; with_reducible apply post_changes; decide)
    | (with_reducible apply changesOnly_step; with_reducible apply modRx_changes; decide)
    | split

theorem rxChain_changes (s : State) (d : Desc) (p0 : ℕ) : changesOnly [.rx] s (rxChain s d p0) := by
  unfold rxChain
  repeat' first
    | (extract_lets +onlyGivenNames x; refine changesOnly_cut (x := x) ?_ ?_; (on_goal 1 => (unfold x; clear x)); (on_goal 2 => (intro hx; try clear_value x)))
    | (extract_lets +onlyGivenNames x; refine changesOnly_fn (x := x) ?_; (try dsimp -zeta only [x]); clear x)
    | (extract_lets +onlyGivenNames x; refine changesOnly_fn2 (x := x) ?_; (try dsimp -zeta only [x]); clear x)
    | (extract_lets +onlyGivenNames x; try clear_value x)
    | with_reducible apply changesOnly_ite'
    | with_reducible assumption
    | with_reducible apply changesOnly_refl
    | (with_reducible apply changesOnly_step; with_reducible apply modRx_changes; decide)
    | (with_reducible apply changesOnly_step; with_reducible apply syncReset_changes; decide)
    | split

theorem rxCfgEffect_changes (s : State) (c : Cmd) : changesOnly [.host, .rx, .out] s (rxCfgEffect s c) := by
  unfold rxCfgEffect
  repeat' first
    | simp -zeta -zetaUnused (disch := first | decide | (apply Or.inl; decide) | (apply Or.inr; apply And.intro rfl; first | rfl | exact And.intro rfl (And.intro rfl rfl))) only [changesOnly_set_rx]
    | (extract_lets +onlyGivenNames x; refine changesOnly_cut (x := x) ?_ ?_; (on_goal 1 => (unfold x; clear x)); (on_goal 2 => (intro hx; try clear_value x)))
    | (extract_lets +onlyGivenNames x; refine changesOnly_letLadle (x := x) ?_; (try dsimp -zeta only [x]); clear x)
    | (extract_lets +onlyGivenNames x; refine changesOnly_fn (x := x) ?_; (try dsimp -zeta only [x]); clear x)
    | (extract_lets +onlyGivenNames x; refine changesOnly_fn2 (x := x) ?_; (try dsimp -zeta only [x]); clear x)
    | (extract_lets +onlyGivenNames x; try clear_value x)
    | with_reducible assumption
    | with_reducible apply changesOnly_refl
    | (with_reducible apply changesOnly_bits; on_goal 2 => intro y a hy)
    | (with_reducible apply changesOnly_step; with_reducible apply cmdDone_changes; decide)
    | (with_reducible apply changesOnly_step; with_reducible apply rxChain_changes; decide)
    | (with_reducible apply changesOnly_step; with_reducible apply modRx_changes; decide)
    | (with_reducible apply changesOnly_step; with_reducible apply fadeStart_changes; decide)
    | (with_reducible apply changesOnly_step; with_reducible apply modOrx_changes; decide)
    | split

theorem captureEffect_changes (s : State) (c : Cmd) : changesOnly [.host, .rx] s (captureEffect s c) := by
  unfold captureEffect
  repeat' first
    | (extract_lets +onlyGivenNames x; refine changesOnly_cut (x := x) ?_ ?_; (on_goal 1 => (unfold x; clear x)); (on_goal 2 => (intro hx; try clear_value x)))
    | (extract_lets +onlyGivenNames x; refine changesOnly_fn (x := x) ?_; (try dsimp -zeta only [x]); clear x)
    | (extract_lets +onlyGivenNames x; refine changesOnly_fn2 (x := x) ?_; (try dsimp -zeta only [x]); clear x)
    | (extract_lets +onlyGivenNames x; try clear_value x)
    | with_reducible apply changesOnly_ite'
    | with_reducible assumption
    | with_reducible apply changesOnly_refl
    | (with_reducible apply changesOnly_step; with_reducible apply modOrx_changes; decide)
    | (with_reducible apply changesOnly_step; with_reducible apply cmdPut_changes; decide)
    | split

theorem capRelease_changes (s : State) (c : Cmd) : changesOnly [.rx] s (capRelease s c) := by
  unfold capRelease
  repeat' first
    | with_reducible apply changesOnly_ite'
    | with_reducible assumption
    | with_reducible apply changesOnly_refl
    | (with_reducible apply changesOnly_step; with_reducible apply modOrx_changes; decide)
    | split

theorem captureFinish_changes (s : State) (c : Cmd) (data : List CapWord) : changesOnly [.dev, .host, .ldl, .rx, .out] s (captureFinish s c data) := by
  unfold captureFinish
  repeat' first
    | simp -zeta -zetaUnused (disch := first | decide | (apply Or.inl; decide) | (apply Or.inr; apply And.intro rfl; first | rfl | exact And.intro rfl (And.intro rfl rfl))) only [changesOnly_set_ldl, changesOnly_set_ldl_rx]
    | (extract_lets +onlyGivenNames x; refine changesOnly_cut (x := x) ?_ ?_; (on_goal 1 => (unfold x; clear x)); (on_goal 2 => (intro hx; try clear_value x)))
    | (extract_lets +onlyGivenNames x; refine changesOnly_letLadle (x := x) ?_; (try dsimp -zeta only [x]); clear x)
    | (extract_lets +onlyGivenNames x; refine changesOnly_fn (x := x) ?_; (try dsimp -zeta only [x]); clear x)
    | (extract_lets +onlyGivenNames x; refine changesOnly_fn2 (x := x) ?_; (try dsimp -zeta only [x]); clear x)
    | (extract_lets +onlyGivenNames x; try clear_value x)
    | with_reducible apply changesOnly_ite'
    | with_reducible assumption
    | with_reducible apply changesOnly_refl
    | (with_reducible apply changesOnly_step; with_reducible apply capRelease_changes; decide)
    | (with_reducible apply changesOnly_step; with_reducible apply cmdDone_changes; decide)
    | split

theorem capPreempt_changes (s : State) (c : Cmd) : changesOnly [.dev, .host, .ldl, .rx, .out] s (capPreempt s c) := by
  unfold capPreempt
  repeat' first
    | simp -zeta -zetaUnused (disch := first | decide | (apply Or.inl; decide) | (apply Or.inr; apply And.intro rfl; first | rfl | exact And.intro rfl (And.intro rfl rfl))) only [changesOnly_set_ldl, changesOnly_set_ldl_rx]
    | (extract_lets +onlyGivenNames x; refine changesOnly_cut (x := x) ?_ ?_; (on_goal 1 => (unfold x; clear x)); (on_goal 2 => (intro hx; try clear_value x)))
    | (extract_lets +onlyGivenNames x; refine changesOnly_letLadle (x := x) ?_; (try dsimp -zeta only [x]); clear x)
    | (extract_lets +onlyGivenNames x; refine changesOnly_fn (x := x) ?_; (try dsimp -zeta only [x]); clear x)
    | (extract_lets +onlyGivenNames x; refine changesOnly_fn2 (x := x) ?_; (try dsimp -zeta only [x]); clear x)
    | (extract_lets +onlyGivenNames x; try clear_value x)
    | with_reducible apply changesOnly_ite'
    | with_reducible assumption
    | with_reducible apply changesOnly_refl
    | (with_reducible apply changesOnly_step; with_reducible apply capRelease_changes; decide)
    | (with_reducible apply changesOnly_step; with_reducible apply cmdEnd_changes; decide)
    | split

theorem orxSymbolOne_changes (k : Nat) (s : State) (o : Nat) : changesOnly [.dev, .host, .ldl, .rx, .anl, .out] s (orxSymbolOne k s o) := by
  unfold orxSymbolOne
  repeat' first
    | simp -zeta -zetaUnused (disch := first | decide | (apply Or.inl; decide) | (apply Or.inr; apply And.intro rfl; first | rfl | exact And.intro rfl (And.intro rfl rfl))) only [changesOnly_set_anl]
    | (extract_lets +onlyGivenNames x; refine changesOnly_cut (x := x) ?_ ?_; (on_goal 1 => (unfold x; clear x)); (on_goal 2 => (intro hx; try clear_value x)))
    | (extract_lets +onlyGivenNames x; refine changesOnly_letHostIf (x := x) ?_; (try dsimp -zeta only [x]); clear x)
    | (extract_lets +onlyGivenNames x; refine changesOnly_fn (x := x) ?_; (try dsimp -zeta only [x]); clear x)
    | (extract_lets +onlyGivenNames x; refine changesOnly_fn2 (x := x) ?_; (try dsimp -zeta only [x]); clear x)
    | (extract_lets +onlyGivenNames x; try clear_value x)
    | with_reducible apply changesOnly_ite'
    | with_reducible assumption
    | with_reducible apply changesOnly_refl
    | (with_reducible apply changesOnly_foldl'; on_goal 2 => intro y a hy)
    | (with_reducible apply changesOnly_fold1; on_goal 2 => intro y a hy)
    | (with_reducible apply changesOnly_step; with_reducible apply modOrx_changes; decide)
    | (with_reducible apply changesOnly_step; with_reducible apply cmdPut_changes; decide)
    | (with_reducible apply changesOnly_step; with_reducible apply capPreempt_changes; decide)
    | split
    | dsimp -zeta only

theorem guardSymbol_changes (k : Nat) (s : State) : changesOnly [.dev, .mod, .host, .ldl, .rx, .anl, .pwr, .hb, .out] s (guardSymbol k s) := by
  unfold guardSymbol
  repeat' first
    | simp -zeta -zetaUnused (disch := first | decide | (apply Or.inl; decide) | (apply Or.inr; apply And.intro rfl; first | rfl | exact And.intro rfl (And.intro rfl rfl))) only [changesOnly_set_mod]
    | (extract_lets +onlyGivenNames x; refine changesOnly_cut (x := x) ?_ ?_; (on_goal 1 => (unfold x; clear x)); (on_goal 2 => (intro hx; try clear_value x)))
    | (extract_lets +onlyGivenNames x; refine changesOnly_letHostIf (x := x) ?_; (try dsimp -zeta only [x]); clear x)
    | (extract_lets +onlyGivenNames x; refine changesOnly_fn (x := x) ?_; (try dsimp -zeta only [x]); clear x)
    | (extract_lets +onlyGivenNames x; refine changesOnly_fn2 (x := x) ?_; (try dsimp -zeta only [x]); clear x)
    | (extract_lets +onlyGivenNames x; try clear_value x)
    | with_reducible apply changesOnly_ite'
    | with_reducible assumption
    | with_reducible apply changesOnly_refl
    | (with_reducible apply changesOnly_foldl'; on_goal 2 => intro y a hy)
    | (with_reducible apply changesOnly_fold1; on_goal 2 => intro y a hy)
    | (with_reducible apply changesOnly_step; with_reducible apply capPreempt_changes; decide)
    | (with_reducible apply changesOnly_step; with_reducible apply anlFail_changes; decide)
    | split
    | dsimp -zeta only

theorem orxSymbol_changes (k : Nat) (s : State) : changesOnly [.dev, .mod, .host, .ldl, .rx, .anl, .pwr, .hb, .out] s (orxSymbol k s) := by
  unfold orxSymbol
  repeat' first
    | with_reducible assumption
    | with_reducible apply changesOnly_refl
    | (with_reducible apply changesOnly_all; on_goal 2 => intro y a hy)
    | (with_reducible apply changesOnly_step; with_reducible apply guardSymbol_changes; decide)
    | (with_reducible apply changesOnly_step; with_reducible apply orxSymbolOne_changes; decide)
    | split

theorem synTune_changes (s : State) (n : ℕ) : changesOnly [.syn] s (synTune s n) := by
  unfold synTune
  repeat' first
    | with_reducible assumption
    | with_reducible apply changesOnly_refl
    | (with_reducible apply changesOnly_step; with_reducible apply modSynth_changes; decide)
    | split

theorem synSearch_changes (s : State) (n : ℕ) : changesOnly [.syn] s (synSearch s n) := by
  unfold synSearch
  repeat' first
    | with_reducible apply changesOnly_ite'
    | with_reducible assumption
    | with_reducible apply changesOnly_refl
    | (with_reducible apply changesOnly_step; with_reducible apply modSynth_changes; decide)
    | (with_reducible apply changesOnly_step; with_reducible apply synTune_changes; decide)
    | split

theorem synSearchAll_changes (s : State) : changesOnly [.syn] s (synSearchAll s) := by
  unfold synSearchAll
  repeat' first
    | with_reducible assumption
    | with_reducible apply changesOnly_refl
    | (with_reducible apply changesOnly_all; on_goal 2 => intro y a hy)
    | (with_reducible apply changesOnly_step; with_reducible apply forAll_changes; decide)
    | (with_reducible apply changesOnly_step; with_reducible apply synSearch_changes; decide)
    | split

theorem quadLost_changes (s : State) (q : Nat) : changesOnly [.host, .tx, .rx, .anl, .pwr, .hb, .out] s (quadLost s q) := by
  unfold quadLost
  repeat' first
    | simp -zeta -zetaUnused (disch := first | decide | (apply Or.inl; decide) | (apply Or.inr; apply And.intro rfl; first | rfl | exact And.intro rfl (And.intro rfl rfl))) only [changesOnly_set_tx, changesOnly_set_tx_rx]
    | (extract_lets +onlyGivenNames x; refine changesOnly_cut (x := x) ?_ ?_; (on_goal 1 => (unfold x; clear x)); (on_goal 2 => (intro hx; try clear_value x)))
    | (extract_lets +onlyGivenNames x; refine changesOnly_fn (x := x) ?_; (try dsimp -zeta only [x]); clear x)
    | (extract_lets +onlyGivenNames x; refine changesOnly_fn2 (x := x) ?_; (try dsimp -zeta only [x]); clear x)
    | (extract_lets +onlyGivenNames x; try clear_value x)
    | with_reducible apply changesOnly_ite'
    | with_reducible assumption
    | with_reducible apply changesOnly_refl
    | (with_reducible apply changesOnly_all; on_goal 2 => intro y a hy)
    | (with_reducible apply changesOnly_step; with_reducible apply linesCut_changes; decide)
    | (with_reducible apply changesOnly_step; with_reducible apply anlLoLost_changes; decide)
    | (with_reducible apply changesOnly_step; with_reducible apply lateRx_changes; decide)
    | (with_reducible apply changesOnly_step; with_reducible apply settle_changes; decide)
    | (with_reducible apply changesOnly_step; with_reducible apply modRx_changes; decide)
    | split

theorem spareIn_changes (s : State) (q : ℕ) : changesOnly [.syn, .host, .anl, .pwr, .out] s (spareIn s q) := by
  unfold spareIn
  repeat' first
    | simp -zeta -zetaUnused (disch := first | decide | (apply Or.inl; decide) | (apply Or.inr; apply And.intro rfl; first | rfl | exact And.intro rfl (And.intro rfl rfl))) only [changesOnly_set_syn]
    | with_reducible assumption
    | with_reducible apply changesOnly_refl
    | (with_reducible apply changesOnly_step; with_reducible apply anlTrigger_changes; decide)
    | (with_reducible apply changesOnly_step; with_reducible apply post_changes; decide)
    | (with_reducible apply changesOnly_step; with_reducible apply synSearch_changes; decide)
    | split

theorem synRetire_changes (s : State) (n : ℕ) (by_ : ℕ) : changesOnly [.syn, .host, .tx, .rx, .anl, .pwr, .hb, .out] s (synRetire s n by_) := by
  unfold synRetire
  generalize quadOf s n = q
  cases q <;> (try dsimp -zeta only)
  all_goals
  repeat' first
    | (extract_lets +onlyGivenNames x; refine changesOnly_cut (x := x) ?_ ?_; (on_goal 1 => (unfold x; clear x)); (on_goal 2 => (intro hx; try clear_value x)))
    | (extract_lets +onlyGivenNames x; refine changesOnly_fn (x := x) ?_; (try dsimp -zeta only [x]); clear x)
    | (extract_lets +onlyGivenNames x; refine changesOnly_fn2 (x := x) ?_; (try dsimp -zeta only [x]); clear x)
    | (extract_lets +onlyGivenNames x; try clear_value x)
    | with_reducible apply changesOnly_ite'
    | with_reducible assumption
    | with_reducible apply changesOnly_refl
    | (with_reducible apply changesOnly_step; with_reducible apply modSynth_changes; decide)
    | (with_reducible apply changesOnly_step; with_reducible apply noteRetired_changes; decide)
    | (with_reducible apply changesOnly_step; with_reducible apply quadLost_changes; decide)
    | (with_reducible apply changesOnly_step; with_reducible apply spareIn_changes; decide)
    | split

theorem synFault_changes (s : State) (n : ℕ) : changesOnly [.syn, .host, .tx, .rx, .anl, .pwr, .hb, .out] s (synFault s n) := by
  unfold synFault
  repeat' first
    | (extract_lets +onlyGivenNames x; refine changesOnly_cut (x := x) ?_ ?_; (on_goal 1 => (unfold x; clear x)); (on_goal 2 => (intro hx; try clear_value x)))
    | (extract_lets +onlyGivenNames x; refine changesOnly_fn (x := x) ?_; (try dsimp -zeta only [x]); clear x)
    | (extract_lets +onlyGivenNames x; refine changesOnly_fn2 (x := x) ?_; (try dsimp -zeta only [x]); clear x)
    | (extract_lets +onlyGivenNames x; try clear_value x)
    | with_reducible apply changesOnly_ite'
    | with_reducible assumption
    | with_reducible apply changesOnly_refl
    | (with_reducible apply changesOnly_step; with_reducible apply noteFault_changes; decide)
    | (with_reducible apply changesOnly_step; with_reducible apply modSynth_changes; decide)
    | (with_reducible apply changesOnly_step; with_reducible apply synRetire_changes; decide)
    | split

theorem synUnlock_changes (s : State) (n : ℕ) : changesOnly [.syn, .host, .tx, .rx, .anl, .pwr, .hb, .out] s (synUnlock s n) := by
  unfold synUnlock
  repeat' first
    | (extract_lets +onlyGivenNames x; refine changesOnly_cut (x := x) ?_ ?_; (on_goal 1 => (unfold x; clear x)); (on_goal 2 => (intro hx; try clear_value x)))
    | (extract_lets +onlyGivenNames x; refine changesOnly_fn (x := x) ?_; (try dsimp -zeta only [x]); clear x)
    | (extract_lets +onlyGivenNames x; refine changesOnly_fn2 (x := x) ?_; (try dsimp -zeta only [x]); clear x)
    | (extract_lets +onlyGivenNames x; try clear_value x)
    | with_reducible apply changesOnly_ite'
    | with_reducible assumption
    | with_reducible apply changesOnly_refl
    | (with_reducible apply changesOnly_step; with_reducible apply post_changes; decide)
    | (with_reducible apply changesOnly_step; with_reducible apply modSynth_changes; decide)
    | (with_reducible apply changesOnly_step; with_reducible apply quadLost_changes; decide)
    | (with_reducible apply changesOnly_step; with_reducible apply synFault_changes; decide)
    | split

theorem pllFault_changes (s : State) : changesOnly [.syn, .host, .pwr, .hb, .out] s (pllFault s) := by
  unfold pllFault
  repeat' first
    | simp -zeta -zetaUnused (disch := first | decide | (apply Or.inl; decide) | (apply Or.inr; apply And.intro rfl; first | rfl | exact And.intro rfl (And.intro rfl rfl))) only [changesOnly_set_syn]
    | (extract_lets +onlyGivenNames x; refine changesOnly_cut (x := x) ?_ ?_; (on_goal 1 => (unfold x; clear x)); (on_goal 2 => (intro hx; try clear_value x)))
    | (extract_lets +onlyGivenNames x; try clear_value x)
    | with_reducible apply changesOnly_ite'
    | with_reducible assumption
    | with_reducible apply changesOnly_refl
    | (with_reducible apply changesOnly_step; with_reducible apply noteFault_changes; decide)
    | (with_reducible apply changesOnly_step; with_reducible apply noteRetired_changes; decide)
    | split

theorem carrierCfgEffect_changes (s : State) (c : Cmd) : changesOnly [.syn, .air, .host, .pwr, .out] s (carrierCfgEffect s c) := by
  unfold carrierCfgEffect
  repeat' first
    | simp -zeta -zetaUnused (disch := first | decide | (apply Or.inl; decide) | (apply Or.inr; apply And.intro rfl; first | rfl | exact And.intro rfl (And.intro rfl rfl))) only [changesOnly_set_air]
    | (extract_lets +onlyGivenNames x; refine changesOnly_cut (x := x) ?_ ?_; (on_goal 1 => (unfold x; clear x)); (on_goal 2 => (intro hx; try clear_value x)))
    | (extract_lets +onlyGivenNames x; refine changesOnly_fn (x := x) ?_; (try dsimp -zeta only [x]); clear x)
    | (extract_lets +onlyGivenNames x; refine changesOnly_fn2 (x := x) ?_; (try dsimp -zeta only [x]); clear x)
    | (extract_lets +onlyGivenNames x; refine changesOnly_cut (x := x.1) ?_ ?_; (on_goal 1 => (unfold x; clear x)); (on_goal 2 => (intro hx; try clear_value x)))
    | (extract_lets +onlyGivenNames x; try clear_value x)
    | with_reducible apply changesOnly_ite'
    | with_reducible assumption
    | with_reducible apply changesOnly_refl
    | (with_reducible apply changesOnly_all; on_goal 2 => intro y a hy)
    | (with_reducible apply changesOnly_step; with_reducible apply forAll_changes; decide)
    | (with_reducible apply changesOnly_step; with_reducible apply synSearch_changes; decide)
    | (with_reducible apply changesOnly_step; with_reducible apply windowLimit_changes; decide)
    | (with_reducible apply changesOnly_step; with_reducible apply postRegLimit_changes; decide)
    | (with_reducible apply changesOnly_step; with_reducible apply cmdDone_changes; decide)
    | split
    | dsimp -zeta only

theorem spareOut_changes (s : State) : changesOnly [.syn, .host, .rx, .anl, .pwr, .out] s (spareOut s) := by
  unfold spareOut
  repeat' first
    | simp -zeta -zetaUnused (disch := first | decide | (apply Or.inl; decide) | (apply Or.inr; apply And.intro rfl; first | rfl | exact And.intro rfl (And.intro rfl rfl))) only [changesOnly_set_syn]
    | (extract_lets +onlyGivenNames x; refine changesOnly_cut (x := x) ?_ ?_; (on_goal 1 => (unfold x; clear x)); (on_goal 2 => (intro hx; try clear_value x)))
    | (extract_lets +onlyGivenNames x; refine changesOnly_fn (x := x) ?_; (try dsimp -zeta only [x]); clear x)
    | (extract_lets +onlyGivenNames x; refine changesOnly_fn2 (x := x) ?_; (try dsimp -zeta only [x]); clear x)
    | (extract_lets +onlyGivenNames x; try clear_value x)
    | with_reducible apply changesOnly_ite'
    | with_reducible assumption
    | with_reducible apply changesOnly_refl
    | (with_reducible apply changesOnly_step; with_reducible apply modSynth_changes; decide)
    | (with_reducible apply changesOnly_step; with_reducible apply quadResets_changes; decide)
    | (with_reducible apply changesOnly_step; with_reducible apply synSearch_changes; decide)
    | (with_reducible apply changesOnly_step; with_reducible apply anlTrigger_changes; decide)
    | (with_reducible apply changesOnly_step; with_reducible apply post_changes; decide)
    | split

theorem synCfgEffect_changes (s : State) (c : Cmd) : changesOnly [.syn, .host, .rx, .anl, .pwr, .out] s (synCfgEffect s c) := by
  unfold synCfgEffect
  repeat' first
    | (extract_lets +onlyGivenNames x; refine changesOnly_cut (x := x) ?_ ?_; (on_goal 1 => (unfold x; clear x)); (on_goal 2 => (intro hx; try clear_value x)))
    | (extract_lets +onlyGivenNames x; refine changesOnly_fn (x := x) ?_; (try dsimp -zeta only [x]); clear x)
    | (extract_lets +onlyGivenNames x; refine changesOnly_fn2 (x := x) ?_; (try dsimp -zeta only [x]); clear x)
    | (extract_lets +onlyGivenNames x; try clear_value x)
    | with_reducible apply changesOnly_ite'
    | with_reducible assumption
    | with_reducible apply changesOnly_refl
    | (with_reducible apply changesOnly_step; with_reducible apply cmdDone_changes; decide)
    | (with_reducible apply changesOnly_step; with_reducible apply modSynth_changes; decide)
    | (with_reducible apply changesOnly_step; with_reducible apply spareOut_changes; decide)
    | (with_reducible apply changesOnly_step; with_reducible apply spareIn_changes; decide)
    | (with_reducible apply changesOnly_step; with_reducible apply synSearch_changes; decide)
    | split

theorem voidClear_changes (s : State) : changesOnly [.fh, .cru, .tx, .rx] s (voidClear s) := by
  unfold voidClear
  repeat' first
    | simp -zeta -zetaUnused (disch := first | decide | (apply Or.inl; decide) | (apply Or.inr; apply And.intro rfl; first | rfl | exact And.intro rfl (And.intro rfl rfl))) only [changesOnly_set_cru]
    | (extract_lets +onlyGivenNames x; refine changesOnly_cut (x := x) ?_ ?_; (on_goal 1 => (unfold x; clear x)); (on_goal 2 => (intro hx; try clear_value x)))
    | (extract_lets +onlyGivenNames x; refine changesOnly_fn (x := x) ?_; (try dsimp -zeta only [x]); clear x)
    | (extract_lets +onlyGivenNames x; refine changesOnly_fn2 (x := x) ?_; (try dsimp -zeta only [x]); clear x)
    | (extract_lets +onlyGivenNames x; try clear_value x)
    | with_reducible assumption
    | with_reducible apply changesOnly_refl
    | (with_reducible apply changesOnly_step; with_reducible apply linesIdle_changes; decide)
    | (with_reducible apply changesOnly_step; with_reducible apply dropDirect_changes; decide)
    | (with_reducible apply changesOnly_step; with_reducible apply dropCtrl_changes; decide)
    | (with_reducible apply changesOnly_step; with_reducible apply dropHeld_changes; decide)
    | (with_reducible apply changesOnly_step; with_reducible apply dropUplink_changes; decide)
    | split

theorem reanchor_changes (s : State) : changesOnly [.tb, .fh, .cru, .tx, .rx] s (reanchor s) := by
  unfold reanchor
  repeat' first
    | simp -zeta -zetaUnused (disch := first | decide | (apply Or.inl; decide) | (apply Or.inr; apply And.intro rfl; first | rfl | exact And.intro rfl (And.intro rfl rfl))) only [changesOnly_set_tb]
    | (extract_lets +onlyGivenNames x; refine changesOnly_cut (x := x) ?_ ?_; (on_goal 1 => (unfold x; clear x)); (on_goal 2 => (intro hx; try clear_value x)))
    | (extract_lets +onlyGivenNames x; try clear_value x)
    | with_reducible assumption
    | with_reducible apply changesOnly_refl
    | (with_reducible apply changesOnly_step; with_reducible apply voidClear_changes; decide)
    | split

theorem tbStepTo_changes (s : State) (t : ℤ) : changesOnly [.tb, .host, .fh, .cru, .tx, .rx, .pwr, .out] s (tbStepTo s t) := by
  unfold tbStepTo
  repeat' first
    | simp -zeta -zetaUnused (disch := first | decide | (apply Or.inl; decide) | (apply Or.inr; apply And.intro rfl; first | rfl | exact And.intro rfl (And.intro rfl rfl))) only [changesOnly_set_tb]
    | (extract_lets +onlyGivenNames x; refine changesOnly_cut (x := x) ?_ ?_; (on_goal 1 => (unfold x; clear x)); (on_goal 2 => (intro hx; try clear_value x)))
    | (extract_lets +onlyGivenNames x; try clear_value x)
    | with_reducible assumption
    | with_reducible apply changesOnly_refl
    | (with_reducible apply changesOnly_step; with_reducible apply reanchor_changes; decide)
    | (with_reducible apply changesOnly_step; with_reducible apply post_changes; decide)
    | split

theorem tbStop_changes (s : State) : changesOnly [.syn] s (tbStop s) := by
  unfold tbStop
  repeat' first
    | simp -zeta -zetaUnused (disch := first | decide | (apply Or.inl; decide) | (apply Or.inr; apply And.intro rfl; first | rfl | exact And.intro rfl (And.intro rfl rfl))) only [changesOnly_set_syn]
    | with_reducible apply changesOnly_ite'
    | with_reducible assumption
    | with_reducible apply changesOnly_refl
    | split

theorem tbResume_changes (s : State) : changesOnly [.tb, .fh, .cru, .tx, .rx] s (tbResume s) := by
  unfold tbResume
  repeat' first
    | simp -zeta -zetaUnused (disch := first | decide | (apply Or.inl; decide) | (apply Or.inr; apply And.intro rfl; first | rfl | exact And.intro rfl (And.intro rfl rfl))) only [changesOnly_set_tb]
    | (extract_lets +onlyGivenNames x; refine changesOnly_cut (x := x) ?_ ?_; (on_goal 1 => (unfold x; clear x)); (on_goal 2 => (intro hx; try clear_value x)))
    | (extract_lets +onlyGivenNames x; try clear_value x)
    | with_reducible assumption
    | with_reducible apply changesOnly_refl
    | (with_reducible apply changesOnly_step; with_reducible apply reanchor_changes; decide)
    | split

theorem alignAgain_changes (s : State) : changesOnly [.run] s (alignAgain s) := by
  unfold alignAgain
  repeat' first
    | simp -zeta -zetaUnused (disch := first | decide | (apply Or.inl; decide) | (apply Or.inr; apply And.intro rfl; first | rfl | exact And.intro rfl (And.intro rfl rfl))) only [changesOnly_set_run]
    | with_reducible apply changesOnly_ite'
    | with_reducible assumption
    | with_reducible apply changesOnly_refl
    | split

theorem refResume_changes (s : State) (c : ℕ) : changesOnly [.tb, .syn, .fh, .cru, .run, .tx, .rx, .anl] s (refResume s c) := by
  unfold refResume
  repeat' first
    | simp -zeta -zetaUnused (disch := first | decide | (apply Or.inl; decide) | (apply Or.inr; apply And.intro rfl; first | rfl | exact And.intro rfl (And.intro rfl rfl))) only [changesOnly_set_syn]
    | (extract_lets +onlyGivenNames x; refine changesOnly_cut (x := x) ?_ ?_; (on_goal 1 => (unfold x; clear x)); (on_goal 2 => (intro hx; try clear_value x)))
    | (extract_lets +onlyGivenNames x; try clear_value x)
    | with_reducible apply changesOnly_ite'
    | with_reducible assumption
    | with_reducible apply changesOnly_refl
    | (with_reducible apply changesOnly_step; with_reducible apply tbResume_changes; decide)
    | (with_reducible apply changesOnly_step; with_reducible apply anlRelease_changes; decide)
    | (with_reducible apply changesOnly_step; with_reducible apply alignAgain_changes; decide)
    | (with_reducible apply changesOnly_step; with_reducible apply synSearchAll_changes; decide)
    | split

theorem refSelect_changes (s : State) : changesOnly [.tb, .syn, .host, .fh, .cru, .run, .tx, .rx, .anl, .pwr, .out] s (refSelect s) := by
  unfold refSelect
  repeat' first
    | simp -zeta -zetaUnused (disch := first | decide | (apply Or.inl; decide) | (apply Or.inr; apply And.intro rfl; first | rfl | exact And.intro rfl (And.intro rfl rfl))) only [changesOnly_set_syn]
    | (extract_lets +onlyGivenNames x; refine changesOnly_cut (x := x) ?_ ?_; (on_goal 1 => (unfold x; clear x)); (on_goal 2 => (intro hx; try clear_value x)))
    | (extract_lets +onlyGivenNames x; try clear_value x)
    | with_reducible apply changesOnly_ite'
    | with_reducible assumption
    | with_reducible apply changesOnly_refl
    | (with_reducible apply changesOnly_step; with_reducible apply refResume_changes; decide)
    | (with_reducible apply changesOnly_step; with_reducible apply post_changes; decide)
    | split

theorem refLostNow_changes (s : State) : changesOnly [.syn, .mod, .host, .tx, .rx, .anl, .pwr, .bias, .hb, .out] s (refLostNow s) := by
  unfold refLostNow
  repeat' first
    | simp -zeta -zetaUnused (disch := first | decide | (apply Or.inl; decide) | (apply Or.inr; apply And.intro rfl; first | rfl | exact And.intro rfl (And.intro rfl rfl))) only [changesOnly_set_syn_mod]
    | (extract_lets +onlyGivenNames x; refine changesOnly_cut (x := x) ?_ ?_; (on_goal 1 => (unfold x; clear x)); (on_goal 2 => (intro hx; try clear_value x)))
    | (extract_lets +onlyGivenNames x; refine changesOnly_fn (x := x) ?_; (try dsimp -zeta only [x]); clear x)
    | (extract_lets +onlyGivenNames x; refine changesOnly_fn2 (x := x) ?_; (try dsimp -zeta only [x]); clear x)
    | (extract_lets +onlyGivenNames x; try clear_value x)
    | with_reducible apply changesOnly_ite'
    | with_reducible assumption
    | with_reducible apply changesOnly_refl
    | (with_reducible apply changesOnly_all; on_goal 2 => intro y a hy)
    | (with_reducible apply changesOnly_step; with_reducible apply quadLost_changes; decide)
    | (with_reducible apply changesOnly_step; with_reducible apply tbStop_changes; decide)
    | (with_reducible apply changesOnly_step; with_reducible apply linesIdle_changes; decide)
    | (with_reducible apply changesOnly_step; with_reducible apply biasForce_changes; decide)
    | (with_reducible apply changesOnly_step; with_reducible apply anlFail_changes; decide)
    | (with_reducible apply changesOnly_step; with_reducible apply hbCount_changes; decide)
    | (with_reducible apply changesOnly_step; with_reducible apply post_changes; decide)
    | split

theorem jumpRefuse_changes (s : State) (ofs : ℤ) : changesOnly [.tb, .host, .pwr, .out] s (jumpRefuse s ofs) := by
  unfold jumpRefuse
  repeat' first
    | simp -zeta -zetaUnused (disch := first | decide | (apply Or.inl; decide) | (apply Or.inr; apply And.intro rfl; first | rfl | exact And.intro rfl (And.intro rfl rfl))) only [changesOnly_set_tb]
    | (extract_lets +onlyGivenNames x; refine changesOnly_cut (x := x) ?_ ?_; (on_goal 1 => (unfold x; clear x)); (on_goal 2 => (intro hx; try clear_value x)))
    | (extract_lets +onlyGivenNames x; try clear_value x)
    | with_reducible assumption
    | with_reducible apply changesOnly_refl
    | (with_reducible apply changesOnly_step; with_reducible apply post_changes; decide)
    | split

theorem phaseShift_changes (s : State) (x0 : ℤ) : changesOnly [.tb] s (phaseShift s x0) := by
  unfold phaseShift
  repeat' first
    | simp -zeta -zetaUnused (disch := first | decide | (apply Or.inl; decide) | (apply Or.inr; apply And.intro rfl; first | rfl | exact And.intro rfl (And.intro rfl rfl))) only [changesOnly_set_tb]
    | with_reducible assumption
    | with_reducible apply changesOnly_refl
    | split

theorem timeSrc_changes (s : State) (what : ℕ) : changesOnly [.host, .pwr, .out] s (timeSrc s what) := by
  unfold timeSrc
  repeat' first
    | with_reducible apply changesOnly_ite'
    | with_reducible assumption
    | with_reducible apply changesOnly_refl
    | (with_reducible apply changesOnly_step; with_reducible apply post_changes; decide)
    | split

theorem servo_changes (s : State) (ofs : ℤ) : changesOnly [.tb, .host, .pwr, .out] s (servo s ofs) := by
  unfold servo
  repeat' first
    | simp -zeta -zetaUnused (disch := first | decide | (apply Or.inl; decide) | (apply Or.inr; apply And.intro rfl; first | rfl | exact And.intro rfl (And.intro rfl rfl))) only [changesOnly_set_tb]
    | (extract_lets +onlyGivenNames x; refine changesOnly_cut (x := x) ?_ ?_; (on_goal 1 => (unfold x; clear x)); (on_goal 2 => (intro hx; try clear_value x)))
    | (extract_lets +onlyGivenNames x; try clear_value x)
    | with_reducible apply changesOnly_ite'
    | with_reducible assumption
    | with_reducible apply changesOnly_refl
    | (with_reducible apply changesOnly_step; with_reducible apply jumpRefuse_changes; decide)
    | (with_reducible apply changesOnly_step; with_reducible apply phaseShift_changes; decide)
    | (with_reducible apply changesOnly_step; with_reducible apply timeSrc_changes; decide)
    | split

theorem ptpSynced_changes (s : State) (p0 : Port) (ms : ℤ) : changesOnly [.tb, .host, .pwr, .out] s (ptpSynced s p0 ms) := by
  unfold ptpSynced
  repeat' first
    | simp -zeta -zetaUnused (disch := first | decide | (apply Or.inl; decide) | (apply Or.inr; apply And.intro rfl; first | rfl | exact And.intro rfl (And.intro rfl rfl))) only [changesOnly_set_tb]
    | (extract_lets +onlyGivenNames x; refine changesOnly_cut (x := x) ?_ ?_; (on_goal 1 => (unfold x; clear x)); (on_goal 2 => (intro hx; try clear_value x)))
    | (extract_lets +onlyGivenNames x; try clear_value x)
    | with_reducible apply changesOnly_ite'
    | with_reducible assumption
    | with_reducible apply changesOnly_refl
    | (with_reducible apply changesOnly_step; with_reducible apply send_changes; decide)
    | (with_reducible apply changesOnly_step; with_reducible apply servo_changes; decide)
    | split

theorem ptpTake_changes (s : State) (p0 : Port) (m : PtpMsg) : changesOnly [.tb, .host, .pwr, .out] s (ptpTake s p0 m) := by
  unfold ptpTake
  repeat' first
    | simp -zeta -zetaUnused (disch := first | decide | (apply Or.inl; decide) | (apply Or.inr; apply And.intro rfl; first | rfl | exact And.intro rfl (And.intro rfl rfl))) only [changesOnly_set_tb]
    | (extract_lets +onlyGivenNames x; refine changesOnly_cut (x := x) ?_ ?_; (on_goal 1 => (unfold x; clear x)); (on_goal 2 => (intro hx; try clear_value x)))
    | (extract_lets +onlyGivenNames x; try clear_value x)
    | with_reducible apply changesOnly_ite'
    | with_reducible assumption
    | with_reducible apply changesOnly_refl
    | (with_reducible apply changesOnly_step; with_reducible apply ptpSynced_changes; decide)
    | split

theorem tbCfgEffect_changes (s : State) (c : Cmd) : changesOnly [.tb, .host, .pwr, .out] s (tbCfgEffect s c) := by
  unfold tbCfgEffect
  repeat' first
    | simp -zeta -zetaUnused (disch := first | decide | (apply Or.inl; decide) | (apply Or.inr; apply And.intro rfl; first | rfl | exact And.intro rfl (And.intro rfl rfl))) only [changesOnly_set_tb]
    | (extract_lets +onlyGivenNames x; refine changesOnly_cut (x := x) ?_ ?_; (on_goal 1 => (unfold x; clear x)); (on_goal 2 => (intro hx; try clear_value x)))
    | (extract_lets +onlyGivenNames x; try clear_value x)
    | with_reducible apply changesOnly_ite'
    | with_reducible assumption
    | with_reducible apply changesOnly_refl
    | (with_reducible apply changesOnly_step; with_reducible apply cmdDone_changes; decide)
    | (with_reducible apply changesOnly_step; with_reducible apply jumpRefuse_changes; decide)
    | split

theorem tbStepEffect_changes (s : State) (c : Cmd) : changesOnly [.tb, .host, .fh, .cru, .tx, .rx, .pwr, .out] s (tbStepEffect s c) := by
  unfold tbStepEffect
  repeat' first
    | simp -zeta -zetaUnused (disch := first | decide | (apply Or.inl; decide) | (apply Or.inr; apply And.intro rfl; first | rfl | exact And.intro rfl (And.intro rfl rfl))) only [changesOnly_set_tb]
    | (extract_lets +onlyGivenNames x; refine changesOnly_cut (x := x) ?_ ?_; (on_goal 1 => (unfold x; clear x)); (on_goal 2 => (intro hx; try clear_value x)))
    | (extract_lets +onlyGivenNames x; try clear_value x)
    | with_reducible apply changesOnly_ite'
    | with_reducible assumption
    | with_reducible apply changesOnly_refl
    | (with_reducible apply changesOnly_step; with_reducible apply tbStepTo_changes; decide)
    | (with_reducible apply changesOnly_step; with_reducible apply cmdDone_changes; decide)
    | split

theorem tbSymbol_changes (k : ℕ) (s : State) : changesOnly [.tb, .syn] s (tbSymbol k s) := by
  unfold tbSymbol
  repeat' first
    | simp -zeta -zetaUnused (disch := first | decide | (apply Or.inl; decide) | (apply Or.inr; apply And.intro rfl; first | rfl | exact And.intro rfl (And.intro rfl rfl))) only [changesOnly_set_tb_syn]
    | (extract_lets +onlyGivenNames x; refine changesOnly_cut (x := x) ?_ ?_; (on_goal 1 => (unfold x; clear x)); (on_goal 2 => (intro hx; try clear_value x)))
    | (extract_lets +onlyGivenNames x; try clear_value x)
    | with_reducible apply changesOnly_ite'
    | with_reducible assumption
    | with_reducible apply changesOnly_refl
    | split

theorem tbFrameBefore_changes (s : State) : changesOnly [.tb] s (tbFrameBefore s) := by
  unfold tbFrameBefore
  repeat' first
    | simp -zeta -zetaUnused (disch := first | decide | (apply Or.inl; decide) | (apply Or.inr; apply And.intro rfl; first | rfl | exact And.intro rfl (And.intro rfl rfl))) only [changesOnly_set_tb]
    | with_reducible assumption
    | with_reducible apply changesOnly_refl
    | split

theorem tbFrameAfter_changes (s : State) : changesOnly [.tb, .host, .fh, .cru, .tx, .rx, .pwr, .out] s (tbFrameAfter s) := by
  unfold tbFrameAfter
  repeat' first
    | simp -zeta -zetaUnused (disch := first | decide | (apply Or.inl; decide) | (apply Or.inr; apply And.intro rfl; first | rfl | exact And.intro rfl (And.intro rfl rfl))) only [changesOnly_set_tb]
    | (extract_lets +onlyGivenNames x; refine changesOnly_cut (x := x) ?_ ?_; (on_goal 1 => (unfold x; clear x)); (on_goal 2 => (intro hx; try clear_value x)))
    | (extract_lets +onlyGivenNames x; try clear_value x)
    | with_reducible apply changesOnly_ite'
    | with_reducible assumption
    | with_reducible apply changesOnly_refl
    | (with_reducible apply changesOnly_step; with_reducible apply tbStepTo_changes; decide)
    | (with_reducible apply changesOnly_step; with_reducible apply timeSrc_changes; decide)
    | (with_reducible apply changesOnly_step; with_reducible apply reanchor_changes; decide)
    | split

theorem sendCtl_changes (s : State) (d : ℕ) (sub : ℕ) (payload : List Byte) : changesOnly [.fh, .run, .out] s (sendCtl s d sub payload) := by
  unfold sendCtl
  repeat' first
    | with_reducible assumption
    | with_reducible apply changesOnly_refl
    | (with_reducible apply changesOnly_step; with_reducible apply sendPour_changes; decide)
    | split

theorem toMaster_changes (s : State) (sub : ℕ) (payload : List Byte) : changesOnly [.fh, .run, .out] s (toMaster s sub payload) := by
  unfold toMaster
  repeat' first
    | with_reducible assumption
    | with_reducible apply changesOnly_refl
    | (with_reducible apply changesOnly_step; with_reducible apply sendCtl_changes; decide)
    | split

theorem outward_changes (s : State) (sub : ℕ) (payload : List Byte) : changesOnly [.fh, .run, .out] s (outward s sub payload) := by
  unfold outward
  repeat' first
    | with_reducible assumption
    | with_reducible apply changesOnly_refl
    | (with_reducible apply changesOnly_step; with_reducible apply sendCtl_changes; decide)
    | split

theorem setReqs_changes (s : State) (l : List FlkReq) : changesOnly [.run] s (setReqs s l) := by
  unfold setReqs
  repeat' first
    | simp -zeta -zetaUnused (disch := first | decide | (apply Or.inl; decide) | (apply Or.inr; apply And.intro rfl; first | rfl | exact And.intro rfl (And.intro rfl rfl))) only [changesOnly_set_run]
    | with_reducible assumption
    | with_reducible apply changesOnly_refl
    | split

theorem modeCause_changes (s : State) (names : ℕ) (cause : ℕ) : changesOnly [.mod] s (modeCause s names cause) := by
  unfold modeCause
  repeat' first
    | simp -zeta -zetaUnused (disch := first | decide | (apply Or.inl; decide) | (apply Or.inr; apply And.intro rfl; first | rfl | exact And.intro rfl (And.intro rfl rfl))) only [changesOnly_set_mod]
    | with_reducible apply changesOnly_ite'
    | with_reducible assumption
    | with_reducible apply changesOnly_refl
    | split

theorem reqRefuse_changes (s : State) (q : FlkReq) (r : Refuse) : changesOnly [.mod, .host, .out] s (reqRefuse s q r) := by
  unfold reqRefuse
  repeat' first
    | with_reducible assumption
    | with_reducible apply changesOnly_refl
    | (with_reducible apply changesOnly_step; with_reducible apply cmdRefuse_changes; decide)
    | (with_reducible apply changesOnly_step; with_reducible apply modeCause_changes; decide)
    | split

theorem reqWithdraw_changes (s : State) (q : FlkReq) : changesOnly [.fh, .run, .out] s (reqWithdraw s q) := by
  unfold reqWithdraw
  repeat' first
    | (extract_lets +onlyGivenNames x; refine changesOnly_cut (x := x) ?_ ?_; (on_goal 1 => (unfold x; clear x)); (on_goal 2 => (intro hx; try clear_value x)))
    | (extract_lets +onlyGivenNames x; try clear_value x)
    | with_reducible apply changesOnly_ite'
    | with_reducible assumption
    | with_reducible apply changesOnly_refl
    | (with_reducible apply changesOnly_step; with_reducible apply outward_changes; decide)
    | (with_reducible apply changesOnly_step; with_reducible apply toMaster_changes; decide)
    | split

theorem flkBack_changes (s : State) : changesOnly [.fh, .run, .out] s (flkBack s) := by
  unfold flkBack
  repeat' first
    | (extract_lets +onlyGivenNames x; refine changesOnly_cut (x := x) ?_ ?_; (on_goal 1 => (unfold x; clear x)); (on_goal 2 => (intro hx; try clear_value x)))
    | (extract_lets +onlyGivenNames x; refine changesOnly_fn (x := x) ?_; (try dsimp -zeta only [x]); clear x)
    | (extract_lets +onlyGivenNames x; refine changesOnly_fn2 (x := x) ?_; (try dsimp -zeta only [x]); clear x)
    | (extract_lets +onlyGivenNames x; try clear_value x)
    | with_reducible apply changesOnly_ite'
    | with_reducible assumption
    | with_reducible apply changesOnly_refl
    | (with_reducible apply changesOnly_foldl'; on_goal 2 => intro y a hy)
    | (with_reducible apply changesOnly_step; with_reducible apply setReqs_changes; decide)
    | (with_reducible apply changesOnly_step; with_reducible apply outward_changes; decide)
    | (with_reducible apply changesOnly_step; with_reducible apply toMaster_changes; decide)
    | split

theorem portReset_changes (s : State) : changesOnly [.hmem, .host, .ldl, .fh, .cru, .run, .out] s (portReset s) := by
  unfold portReset
  repeat' first
    | simp -zeta -zetaUnused (disch := first | decide | (apply Or.inl; decide) | (apply Or.inr; apply And.intro rfl; first | rfl | exact And.intro rfl (And.intro rfl rfl))) only [changesOnly_set_host_ldl_cru_run]
    | (extract_lets +onlyGivenNames x; refine changesOnly_cut (x := x) ?_ ?_; (on_goal 1 => (unfold x; clear x)); (on_goal 2 => (intro hx; try clear_value x)))
    | (extract_lets +onlyGivenNames x; refine changesOnly_letLadle (x := x) ?_; (try dsimp -zeta only [x]); clear x)
    | (extract_lets +onlyGivenNames x; refine changesOnly_letHostIf (x := x) ?_; (try dsimp -zeta only [x]); clear x)
    | (extract_lets +onlyGivenNames x; refine changesOnly_fn (x := x) ?_; (try dsimp -zeta only [x]); clear x)
    | (extract_lets +onlyGivenNames x; refine changesOnly_fn2 (x := x) ?_; (try dsimp -zeta only [x]); clear x)
    | (extract_lets +onlyGivenNames x; try clear_value x)
    | with_reducible apply changesOnly_ite'
    | with_reducible assumption
    | with_reducible apply changesOnly_refl
    | (with_reducible apply changesOnly_foldl'; on_goal 2 => intro y a hy)
    | (with_reducible apply changesOnly_fold1; on_goal 2 => intro y a hy)
    | (with_reducible apply changesOnly_step; with_reducible apply reqWithdraw_changes; decide)
    | split
    | dsimp -zeta only

theorem writeHalf_changes (s : State) (d off n valid : Nat) (cells : Memory) : changesOnly [.cru] s (writeHalf s d off n valid cells) := by
  unfold writeHalf
  repeat' first
    | simp -zeta -zetaUnused (disch := first | decide | (apply Or.inl; decide) | (apply Or.inr; apply And.intro rfl; first | rfl | exact And.intro rfl (And.intro rfl rfl))) only [changesOnly_set_cru]
    | (extract_lets +onlyGivenNames x; refine changesOnly_cut (x := x) ?_ ?_; (on_goal 1 => (unfold x; clear x)); (on_goal 2 => (intro hx; try clear_value x)))
    | (extract_lets +onlyGivenNames x; refine changesOnly_fn (x := x) ?_; (try dsimp -zeta only [x]); clear x)
    | (extract_lets +onlyGivenNames x; refine changesOnly_fn2 (x := x) ?_; (try dsimp -zeta only [x]); clear x)
    | (extract_lets +onlyGivenNames x; try clear_value x)
    | with_reducible assumption
    | with_reducible apply changesOnly_refl
    | (with_reducible apply changesOnly_step; with_reducible apply setHalf_changes; decide)
    | split

theorem moveWrite_changes (s : State) (m : Move) (n valid : Nat) (cells : Memory) : changesOnly [.hmem, .dev, .host, .ldl, .cru] s (moveWrite s m n valid cells) := by
  unfold moveWrite
  repeat' first
    | simp -zeta -zetaUnused (disch := first | decide | (apply Or.inl; decide) | (apply Or.inr; apply And.intro rfl; first | rfl | exact And.intro rfl (And.intro rfl rfl))) only [changesOnly_set_ldl, changesOnly_set_host]
    | (extract_lets +onlyGivenNames x; refine changesOnly_cut (x := x) ?_ ?_; (on_goal 1 => (unfold x; clear x)); (on_goal 2 => (intro hx; try clear_value x)))
    | (extract_lets +onlyGivenNames x; refine changesOnly_letLadle (x := x) ?_; (try dsimp -zeta only [x]); clear x)
    | (extract_lets +onlyGivenNames x; refine changesOnly_letHostIf (x := x) ?_; (try dsimp -zeta only [x]); clear x)
    | (extract_lets +onlyGivenNames x; try clear_value x)
    | with_reducible apply changesOnly_ite'
    | with_reducible assumption
    | with_reducible apply changesOnly_refl
    | (with_reducible apply changesOnly_step; with_reducible apply writeHalf_changes; decide)
    | split

theorem moveDone_changes (s : State) (c : Nat) (m : Move) (x : MoveEnd) (high : Nat) : changesOnly [.host, .ldl, .out] s (moveDone s c m x high) := by
  unfold moveDone
  repeat' first
    | simp -zeta -zetaUnused (disch := first | decide | (apply Or.inl; decide) | (apply Or.inr; apply And.intro rfl; first | rfl | exact And.intro rfl (And.intro rfl rfl))) only [changesOnly_set_host]
    | (extract_lets +onlyGivenNames x; refine changesOnly_cut (x := x) ?_ ?_; (on_goal 1 => (unfold x; clear x)); (on_goal 2 => (intro hx; try clear_value x)))
    | (extract_lets +onlyGivenNames x; refine changesOnly_letHostIf (x := x) ?_; (try dsimp -zeta only [x]); clear x)
    | (extract_lets +onlyGivenNames x; refine changesOnly_fn (x := x) ?_; (try dsimp -zeta only [x]); clear x)
    | (extract_lets +onlyGivenNames x; refine changesOnly_fn2 (x := x) ?_; (try dsimp -zeta only [x]); clear x)
    | (extract_lets +onlyGivenNames x; try clear_value x)
    | with_reducible apply changesOnly_ite'
    | with_reducible assumption
    | with_reducible apply changesOnly_refl
    | (with_reducible apply changesOnly_step; with_reducible apply modCh_changes; decide)
    | (with_reducible apply changesOnly_step; with_reducible apply signal_changes; decide)
    | (with_reducible apply changesOnly_step; with_reducible apply cmdEnd_changes; decide)
    | split

theorem moveFail_changes (s : State) (old : Memory) (m : Move) (l : List (Nat × Nat)) : changesOnly [.hmem, .host, .out] s (moveFail s old m l) := by
  unfold moveFail
  repeat' first
    | simp -zeta -zetaUnused (disch := first | decide | (apply Or.inl; decide) | (apply Or.inr; apply And.intro rfl; first | rfl | exact And.intro rfl (And.intro rfl rfl))) only [changesOnly_set_host]
    | (extract_lets +onlyGivenNames x; refine changesOnly_cut (x := x) ?_ ?_; (on_goal 1 => (unfold x; clear x)); (on_goal 2 => (intro hx; try clear_value x)))
    | (extract_lets +onlyGivenNames x; refine changesOnly_letHostIf (x := x) ?_; (try dsimp -zeta only [x]); clear x)
    | (extract_lets +onlyGivenNames x; refine changesOnly_fn (x := x) ?_; (try dsimp -zeta only [x]); clear x)
    | (extract_lets +onlyGivenNames x; refine changesOnly_fn2 (x := x) ?_; (try dsimp -zeta only [x]); clear x)
    | (extract_lets +onlyGivenNames x; try clear_value x)
    | with_reducible apply changesOnly_ite'
    | with_reducible assumption
    | with_reducible apply changesOnly_refl
    | (with_reducible apply changesOnly_foldl'; on_goal 2 => intro y a hy)
    | (with_reducible apply changesOnly_fold1; on_goal 2 => intro y a hy)
    | (with_reducible apply changesOnly_step; with_reducible apply aerReport_changes; decide)
    | split
    | dsimp -zeta only

theorem moveEnd_changes (s : State) (c : Nat) (m : Move) (read : Nat) (hostErr : Option Nat) (writeErr : List (Nat × Nat)) : changesOnly [.hmem, .dev, .host, .ldl, .cru, .out] s (moveEnd s c m read hostErr writeErr) := by
  unfold moveEnd
  repeat' first
    | simp -zeta -zetaUnused (disch := first | decide | (apply Or.inl; decide) | (apply Or.inr; apply And.intro rfl; first | rfl | exact And.intro rfl (And.intro rfl rfl))) only [changesOnly_set_ldl]
    | (extract_lets +onlyGivenNames x; refine changesOnly_cut (x := x) ?_ ?_; (on_goal 1 => (unfold x; clear x)); (on_goal 2 => (intro hx; try clear_value x)))
    | (extract_lets +onlyGivenNames x; refine changesOnly_letLadle (x := x) ?_; (try dsimp -zeta only [x]); clear x)
    | (extract_lets +onlyGivenNames x; refine changesOnly_letHostIf (x := x) ?_; (try dsimp -zeta only [x]); clear x)
    | (extract_lets +onlyGivenNames x; refine changesOnly_fn (x := x) ?_; (try dsimp -zeta only [x]); clear x)
    | (extract_lets +onlyGivenNames x; refine changesOnly_fn2 (x := x) ?_; (try dsimp -zeta only [x]); clear x)
    | (extract_lets +onlyGivenNames x; try clear_value x)
    | with_reducible apply changesOnly_ite'
    | with_reducible assumption
    | with_reducible apply changesOnly_refl
    | (with_reducible apply changesOnly_step; with_reducible apply aerReport_changes; decide)
    | (with_reducible apply changesOnly_step; with_reducible apply moveFail_changes; decide)
    | (with_reducible apply changesOnly_step; with_reducible apply moveWrite_changes; decide)
    | (with_reducible apply changesOnly_step; with_reducible apply modFb_changes; decide)
    | (with_reducible apply changesOnly_step; with_reducible apply moveDone_changes; decide)
    | split

theorem ladleMoveEffect_changes (s : State) (c : Cmd) : changesOnly [.ldl] s (ladleMoveEffect s c) := by
  unfold ladleMoveEffect
  repeat' first
    | (extract_lets +onlyGivenNames x; refine changesOnly_cut (x := x) ?_ ?_; (on_goal 1 => (unfold x; clear x)); (on_goal 2 => (intro hx; try clear_value x)))
    | (extract_lets +onlyGivenNames x; refine changesOnly_fn (x := x) ?_; (try dsimp -zeta only [x]); clear x)
    | (extract_lets +onlyGivenNames x; refine changesOnly_fn2 (x := x) ?_; (try dsimp -zeta only [x]); clear x)
    | (extract_lets +onlyGivenNames x; try clear_value x)
    | with_reducible apply changesOnly_ite'
    | with_reducible assumption
    | with_reducible apply changesOnly_refl
    | (with_reducible apply changesOnly_step; with_reducible apply modCh_changes; decide)
    | split
    | dsimp -zeta only

theorem withdraw_changes (s : State) (c : ℕ) : changesOnly [.host, .ldl, .out] s (withdraw s c) := by
  unfold withdraw
  repeat' first
    | with_reducible apply changesOnly_ite'
    | with_reducible assumption
    | with_reducible apply changesOnly_refl
    | (with_reducible apply changesOnly_step; with_reducible apply modCh_changes; decide)
    | (with_reducible apply changesOnly_step; with_reducible apply moveDone_changes; decide)
    | split

theorem ladleWithdrawEffect_changes (s : State) (c : Cmd) : changesOnly [.host, .ldl, .out] s (ladleWithdrawEffect s c) := by
  unfold ladleWithdrawEffect
  repeat' first
    | (extract_lets +onlyGivenNames x; refine changesOnly_cut (x := x) ?_ ?_; (on_goal 1 => (unfold x; clear x)); (on_goal 2 => (intro hx; try clear_value x)))
    | (extract_lets +onlyGivenNames x; try clear_value x)
    | with_reducible apply changesOnly_ite'
    | with_reducible assumption
    | with_reducible apply changesOnly_refl
    | (with_reducible apply changesOnly_step; with_reducible apply cmdDone_changes; decide)
    | (with_reducible apply changesOnly_step; with_reducible apply withdraw_changes; decide)
    | split

theorem hbReadEffect_changes (s : State) (c : Cmd) : changesOnly [.host, .ldl, .pwr, .hb, .out] s (hbReadEffect s c) := by
  unfold hbReadEffect
  repeat' first
    | (extract_lets +onlyGivenNames x; refine changesOnly_cut (x := x) ?_ ?_; (on_goal 1 => (unfold x; clear x)); (on_goal 2 => (intro hx; try clear_value x)))
    | (extract_lets +onlyGivenNames x; refine changesOnly_fn (x := x) ?_; (try dsimp -zeta only [x]); clear x)
    | (extract_lets +onlyGivenNames x; refine changesOnly_fn2 (x := x) ?_; (try dsimp -zeta only [x]); clear x)
    | (extract_lets +onlyGivenNames x; try clear_value x)
    | with_reducible apply changesOnly_ite'
    | with_reducible assumption
    | with_reducible apply changesOnly_refl
    | (with_reducible apply changesOnly_step; with_reducible apply modCh_changes; decide)
    | (with_reducible apply changesOnly_step; with_reducible apply snapAsk_changes; decide)
    | split
    | dsimp -zeta only

theorem setDom_changes (s : State) (d : ℕ) (x0 : DomState) : changesOnly [.pwr] s (setDom s d x0) := by
  unfold setDom
  repeat' first
    | simp -zeta -zetaUnused (disch := first | decide | (apply Or.inl; decide) | (apply Or.inr; apply And.intro rfl; first | rfl | exact And.intro rfl (And.intro rfl rfl))) only [changesOnly_set_pwr]
    | with_reducible assumption
    | with_reducible apply changesOnly_refl
    | split

theorem postDom_changes (s : State) (d : ℕ) (cause : ℕ) : changesOnly [.host, .pwr, .out] s (postDom s d cause) := by
  unfold postDom
  repeat' first
    | with_reducible assumption
    | with_reducible apply changesOnly_refl
    | (with_reducible apply changesOnly_step; with_reducible apply post_changes; decide)
    | split

theorem synStop_changes (s : State) (n : ℕ) : changesOnly [.syn] s (synStop s n) := by
  unfold synStop
  repeat' first
    | with_reducible apply changesOnly_ite'
    | with_reducible assumption
    | with_reducible apply changesOnly_refl
    | (with_reducible apply changesOnly_step; with_reducible apply modSynth_changes; decide)
    | split

theorem domLeave_changes (s : State) (d : Nat) : changesOnly [.syn, .host, .lanes, .fh, .tx, .rx, .pwr, .bias, .out] s (domLeave s d) := by
  unfold domLeave
  repeat' first
    | (extract_lets +onlyGivenNames x; refine changesOnly_cut (x := x) ?_ ?_; (on_goal 1 => (unfold x; clear x)); (on_goal 2 => (intro hx; try clear_value x)))
    | (extract_lets +onlyGivenNames x; refine changesOnly_fn (x := x) ?_; (try dsimp -zeta only [x]); clear x)
    | (extract_lets +onlyGivenNames x; refine changesOnly_fn2 (x := x) ?_; (try dsimp -zeta only [x]); clear x)
    | (extract_lets +onlyGivenNames x; try clear_value x)
    | with_reducible apply changesOnly_ite'
    | with_reducible assumption
    | with_reducible apply changesOnly_refl
    | (with_reducible apply changesOnly_foldl'; on_goal 2 => intro y a hy)
    | (with_reducible apply changesOnly_fold1; on_goal 2 => intro y a hy)
    | (with_reducible apply changesOnly_step; with_reducible apply linesIdle_changes; decide)
    | (with_reducible apply changesOnly_step; with_reducible apply synStop_changes; decide)
    | (with_reducible apply changesOnly_step; with_reducible apply biasForce_changes; decide)
    | (with_reducible apply changesOnly_step; with_reducible apply dropDirect_changes; decide)
    | (with_reducible apply changesOnly_step; with_reducible apply synceUpdate_changes; decide)
    | (with_reducible apply changesOnly_step; with_reducible apply modLane_changes; decide)
    | (with_reducible apply changesOnly_step; with_reducible apply laneLeave_changes; decide)
    | (with_reducible apply changesOnly_step; with_reducible apply dropCtrl_changes; decide)
    | (with_reducible apply changesOnly_step; with_reducible apply dropHeld_changes; decide)
    | (with_reducible apply changesOnly_step; with_reducible apply dropUplink_changes; decide)
    | split
    | dsimp -zeta only

theorem lanesDown_changes (s : State) (d : ℕ) : changesOnly [.host, .lanes, .out] s (lanesDown s d) := by
  unfold lanesDown
  repeat' first
    | with_reducible assumption
    | with_reducible apply changesOnly_refl
    | (with_reducible apply changesOnly_foldl'; on_goal 2 => intro y a hy)
    | (with_reducible apply changesOnly_step; with_reducible apply laneResolve_changes; decide)
    | (with_reducible apply changesOnly_step; with_reducible apply modLane_changes; decide)
    | split

theorem domLeft_changes (s : State) (d : Nat) : changesOnly [.hmem, .syn, .host, .ldl, .lanes, .fh, .cru, .run, .pwr, .gen, .out] s (domLeft s d) := by
  unfold domLeft
  repeat' first
    | simp -zeta -zetaUnused (disch := first | decide | (apply Or.inl; decide) | (apply Or.inr; apply And.intro rfl; first | rfl | exact And.intro rfl (And.intro rfl rfl))) only [changesOnly_set_fh, changesOnly_set_syn, changesOnly_set_gen]
    | (extract_lets +onlyGivenNames x; refine changesOnly_cut (x := x) ?_ ?_; (on_goal 1 => (unfold x; clear x)); (on_goal 2 => (intro hx; try clear_value x)))
    | (extract_lets +onlyGivenNames x; refine changesOnly_fn (x := x) ?_; (try dsimp -zeta only [x]); clear x)
    | (extract_lets +onlyGivenNames x; refine changesOnly_fn2 (x := x) ?_; (try dsimp -zeta only [x]); clear x)
    | (extract_lets +onlyGivenNames x; try clear_value x)
    | with_reducible apply changesOnly_ite'
    | with_reducible assumption
    | with_reducible apply changesOnly_refl
    | (with_reducible apply changesOnly_all; on_goal 2 => intro y a hy)
    | (with_reducible apply changesOnly_step; with_reducible apply lanesDown_changes; decide)
    | (with_reducible apply changesOnly_step; with_reducible apply reassign_changes; decide)
    | (with_reducible apply changesOnly_step; with_reducible apply synStop_changes; decide)
    | (with_reducible apply changesOnly_step; with_reducible apply portReset_changes; decide)
    | split

theorem entryStart_changes (s : State) (d : ℕ) (t : DomState) : changesOnly [.syn, .host, .lanes, .fh, .tx, .rx, .pwr, .bias, .out] s (entryStart s d t) := by
  unfold entryStart
  repeat' first
    | simp -zeta -zetaUnused (disch := first | decide | (apply Or.inl; decide) | (apply Or.inr; apply And.intro rfl; first | rfl | exact And.intro rfl (And.intro rfl rfl))) only [changesOnly_set_pwr]
    | (extract_lets +onlyGivenNames x; refine changesOnly_cut (x := x) ?_ ?_; (on_goal 1 => (unfold x; clear x)); (on_goal 2 => (intro hx; try clear_value x)))
    | (extract_lets +onlyGivenNames x; refine changesOnly_fn (x := x) ?_; (try dsimp -zeta only [x]); clear x)
    | (extract_lets +onlyGivenNames x; refine changesOnly_fn2 (x := x) ?_; (try dsimp -zeta only [x]); clear x)
    | (extract_lets +onlyGivenNames x; try clear_value x)
    | with_reducible apply changesOnly_ite'
    | with_reducible assumption
    | with_reducible apply changesOnly_refl
    | (with_reducible apply changesOnly_step; with_reducible apply tbStop_changes; decide)
    | (with_reducible apply changesOnly_step; with_reducible apply domLeave_changes; decide)
    | split

theorem entryNext_changes (atTick : Bool) (s : State) : changesOnly [.syn, .host, .lanes, .fh, .tx, .rx, .pwr, .bias, .out] s (entryNext atTick s) := by
  unfold entryNext
  repeat' first
    | with_reducible apply changesOnly_ite'
    | with_reducible assumption
    | with_reducible apply changesOnly_refl
    | (with_reducible apply changesOnly_step; with_reducible apply entryStart_changes; decide)
    | split

theorem coldQuad_changes (s : State) (q : ℕ) : changesOnly [.tx, .rx] s (coldQuad s q) := by
  unfold coldQuad
  repeat' first
    | simp -zeta -zetaUnused (disch := first | decide | (apply Or.inl; decide) | (apply Or.inr; apply And.intro rfl; first | rfl | exact And.intro rfl (And.intro rfl rfl))) only [changesOnly_set_tx_rx]
    | with_reducible apply changesOnly_ite'
    | with_reducible assumption
    | with_reducible apply changesOnly_refl
    | split

theorem coldLanes_changes (s : State) (d : ℕ) : changesOnly [.lanes] s (coldLanes s d) := by
  unfold coldLanes
  repeat' first
    | simp -zeta -zetaUnused (disch := first | decide | (apply Or.inl; decide) | (apply Or.inr; apply And.intro rfl; first | rfl | exact And.intro rfl (And.intro rfl rfl))) only [changesOnly_set_lanes]
    | (extract_lets +onlyGivenNames x; refine changesOnly_cut (x := x) ?_ ?_; (on_goal 1 => (unfold x; clear x)); (on_goal 2 => (intro hx; try clear_value x)))
    | (extract_lets +onlyGivenNames x; refine changesOnly_fn (x := x) ?_; (try dsimp -zeta only [x]); clear x)
    | (extract_lets +onlyGivenNames x; refine changesOnly_fn2 (x := x) ?_; (try dsimp -zeta only [x]); clear x)
    | (extract_lets +onlyGivenNames x; try clear_value x)
    | with_reducible apply changesOnly_ite'
    | with_reducible assumption
    | with_reducible apply changesOnly_refl
    | split

theorem coldCtl_changes (s : State) : changesOnly [.hmem, .mod, .host, .ldl, .lanes, .fh, .cru, .run, .tx, .rx, .gen, .out] s (coldCtl s) := by
  unfold coldCtl
  repeat' first
    | simp -zeta -zetaUnused (disch := first | decide | (apply Or.inl; decide) | (apply Or.inr; apply And.intro rfl; first | rfl | exact And.intro rfl (And.intro rfl rfl))) only [changesOnly_set_mod_host_ldl_lanes_fh_run_tx_rx_gen]
    | (extract_lets +onlyGivenNames x; refine changesOnly_cut (x := x) ?_ ?_; (on_goal 1 => (unfold x; clear x)); (on_goal 2 => (intro hx; try clear_value x)))
    | (extract_lets +onlyGivenNames x; refine changesOnly_letLadle (x := x) ?_; (try dsimp -zeta only [x]); clear x)
    | (extract_lets +onlyGivenNames x; refine changesOnly_letHostIf (x := x) ?_; (try dsimp -zeta only [x]); clear x)
    | (extract_lets +onlyGivenNames x; refine changesOnly_fn (x := x) ?_; (try dsimp -zeta only [x]); clear x)
    | (extract_lets +onlyGivenNames x; refine changesOnly_fn2 (x := x) ?_; (try dsimp -zeta only [x]); clear x)
    | (extract_lets +onlyGivenNames x; try clear_value x)
    | with_reducible assumption
    | with_reducible apply changesOnly_refl
    | (with_reducible apply changesOnly_step; with_reducible apply portReset_changes; decide)
    | split

theorem coldReset_changes (s : State) (d : Nat) : changesOnly [.hmem, .dev, .tb, .syn, .mod, .host, .ldl, .lanes, .fh, .cru, .run, .tx, .rx, .anl, .pwr, .gen, .out] s (coldReset s d) := by
  unfold coldReset
  repeat' first
    | simp -zeta -zetaUnused (disch := first | decide | (apply Or.inl; decide) | (apply Or.inr; apply And.intro rfl; first | rfl | exact And.intro rfl (And.intro rfl rfl))) only [changesOnly_set_tb, changesOnly_set_syn, changesOnly_set_fh, changesOnly_set_ldl_cru, changesOnly_set_tx_rx]
    | (extract_lets +onlyGivenNames x; refine changesOnly_cut (x := x) ?_ ?_; (on_goal 1 => (unfold x; clear x)); (on_goal 2 => (intro hx; try clear_value x)))
    | (extract_lets +onlyGivenNames x; refine changesOnly_letLadle (x := x) ?_; (try dsimp -zeta only [x]); clear x)
    | (extract_lets +onlyGivenNames x; refine changesOnly_fn (x := x) ?_; (try dsimp -zeta only [x]); clear x)
    | (extract_lets +onlyGivenNames x; refine changesOnly_fn2 (x := x) ?_; (try dsimp -zeta only [x]); clear x)
    | (extract_lets +onlyGivenNames x; try clear_value x)
    | with_reducible apply changesOnly_ite'
    | with_reducible assumption
    | with_reducible apply changesOnly_refl
    | (with_reducible apply changesOnly_step; with_reducible apply coldQuad_changes; decide)
    | (with_reducible apply changesOnly_step; with_reducible apply coldCtl_changes; decide)
    | (with_reducible apply changesOnly_step; with_reducible apply anlCold_changes; decide)
    | (with_reducible apply changesOnly_step; with_reducible apply coldLanes_changes; decide)
    | split

theorem bankZero_changes (s : State) : changesOnly [.cru] s (bankZero s) := by
  unfold bankZero
  repeat' first
    | simp -zeta -zetaUnused (disch := first | decide | (apply Or.inl; decide) | (apply Or.inr; apply And.intro rfl; first | rfl | exact And.intro rfl (And.intro rfl rfl))) only [changesOnly_set_cru]
    | with_reducible assumption
    | with_reducible apply changesOnly_refl
    | split

theorem domResume_changes (s : State) (d : ℕ) (cold : Bool) : changesOnly [.tb, .syn, .host, .lanes, .fh, .cru, .tx, .rx, .anl, .pwr, .bias, .hb, .fus, .out] s (domResume s d cold) := by
  unfold domResume
  repeat' first
    | simp -zeta -zetaUnused (disch := first | decide | (apply Or.inl; decide) | (apply Or.inr; apply And.intro rfl; first | rfl | exact And.intro rfl (And.intro rfl rfl))) only [changesOnly_set_tb, changesOnly_set_syn]
    | (extract_lets +onlyGivenNames x; refine changesOnly_cut (x := x) ?_ ?_; (on_goal 1 => (unfold x; clear x)); (on_goal 2 => (intro hx; try clear_value x)))
    | (extract_lets +onlyGivenNames x; refine changesOnly_fn (x := x) ?_; (try dsimp -zeta only [x]); clear x)
    | (extract_lets +onlyGivenNames x; refine changesOnly_fn2 (x := x) ?_; (try dsimp -zeta only [x]); clear x)
    | (extract_lets +onlyGivenNames x; try clear_value x)
    | with_reducible apply changesOnly_ite'
    | with_reducible assumption
    | with_reducible apply changesOnly_refl
    | (with_reducible apply changesOnly_foldl'; on_goal 2 => intro y a hy)
    | (with_reducible apply changesOnly_step; with_reducible apply biasForce_changes; decide)
    | (with_reducible apply changesOnly_step; with_reducible apply synSearch_changes; decide)
    | (with_reducible apply changesOnly_step; with_reducible apply anlTrigger_changes; decide)
    | (with_reducible apply changesOnly_step; with_reducible apply flashResume_changes; decide)
    | (with_reducible apply changesOnly_step; with_reducible apply tbResume_changes; decide)
    | (with_reducible apply changesOnly_step; with_reducible apply synSearchAll_changes; decide)
    | (with_reducible apply changesOnly_step; with_reducible apply bankZero_changes; decide)
    | (with_reducible apply changesOnly_step; with_reducible apply startAttempt_changes; decide)
    | split

theorem drainAll_changes (s : State) : changesOnly [.host, .out] s (drainAll s) := by
  unfold drainAll
  repeat' first
    | with_reducible assumption
    | with_reducible apply changesOnly_refl
    | (with_reducible apply changesOnly_foldl'; on_goal 2 => intro y a hy)
    | (with_reducible apply changesOnly_step; (on_goal 1 => (apply recordDrain_changes; omega)); decide)
    | split

theorem evtqPost_changes (s : State) : changesOnly [.host, .pwr, .out] s (evtqPost s) := by
  unfold evtqPost
  repeat' first
    | simp -zeta -zetaUnused (disch := first | decide | (apply Or.inl; decide) | (apply Or.inr; apply And.intro rfl; first | rfl | exact And.intro rfl (And.intro rfl rfl))) only [changesOnly_set_pwr]
    | (extract_lets +onlyGivenNames x; refine changesOnly_cut (x := x) ?_ ?_; (on_goal 1 => (unfold x; clear x)); (on_goal 2 => (intro hx; try clear_value x)))
    | (extract_lets +onlyGivenNames x; try clear_value x)
    | with_reducible assumption
    | with_reducible apply changesOnly_refl
    | (with_reducible apply changesOnly_foldl'; on_goal 2 => intro y a hy)
    | (with_reducible apply changesOnly_step; with_reducible apply postEvent_changes; decide)
    | split

theorem postWake_changes (s : State) (src : ℕ) (action : ℕ) (replayed : Bool) : changesOnly [.host, .pwr, .out] s (postWake s src action replayed) := by
  unfold postWake
  repeat' first
    | with_reducible assumption
    | with_reducible apply changesOnly_refl
    | (with_reducible apply changesOnly_step; with_reducible apply post_changes; decide)
    | split

theorem startExit_changes (s : State) (mask : ℕ) : changesOnly [.pwr] s (startExit s mask) := by
  unfold startExit
  repeat' first
    | simp -zeta -zetaUnused (disch := first | decide | (apply Or.inl; decide) | (apply Or.inr; apply And.intro rfl; first | rfl | exact And.intro rfl (And.intro rfl rfl))) only [changesOnly_set_pwr]
    | (extract_lets +onlyGivenNames x; refine changesOnly_cut (x := x) ?_ ?_; (on_goal 1 => (unfold x; clear x)); (on_goal 2 => (intro hx; try clear_value x)))
    | (extract_lets +onlyGivenNames x; refine changesOnly_fn (x := x) ?_; (try dsimp -zeta only [x]); clear x)
    | (extract_lets +onlyGivenNames x; refine changesOnly_fn2 (x := x) ?_; (try dsimp -zeta only [x]); clear x)
    | (extract_lets +onlyGivenNames x; try clear_value x)
    | with_reducible apply changesOnly_ite'
    | with_reducible assumption
    | with_reducible apply changesOnly_refl
    | (with_reducible apply changesOnly_foldl'; on_goal 2 => intro y a hy)
    | split

theorem sidleWake_changes (s : State) : changesOnly [.lanes] s (sidleWake s) := by
  unfold sidleWake
  repeat' first
    | (extract_lets +onlyGivenNames x; refine changesOnly_cut (x := x) ?_ ?_; (on_goal 1 => (unfold x; clear x)); (on_goal 2 => (intro hx; try clear_value x)))
    | (extract_lets +onlyGivenNames x; refine changesOnly_fn (x := x) ?_; (try dsimp -zeta only [x]); clear x)
    | (extract_lets +onlyGivenNames x; refine changesOnly_fn2 (x := x) ?_; (try dsimp -zeta only [x]); clear x)
    | (extract_lets +onlyGivenNames x; try clear_value x)
    | with_reducible apply changesOnly_ite'
    | with_reducible assumption
    | with_reducible apply changesOnly_refl
    | (with_reducible apply changesOnly_foldl'; on_goal 2 => intro y a hy)
    | (with_reducible apply changesOnly_step; with_reducible apply startAttempt_changes; decide)
    | split

theorem sidleEnter_changes (s : State) : changesOnly [.lanes] s (sidleEnter s) := by
  unfold sidleEnter
  repeat' first
    | with_reducible apply changesOnly_ite'
    | with_reducible assumption
    | with_reducible apply changesOnly_refl
    | (with_reducible apply changesOnly_foldl'; on_goal 2 => intro y a hy)
    | (with_reducible apply changesOnly_step; with_reducible apply modLane_changes; decide)
    | split

theorem applyWake_changes (s : State) (src : ℕ) (action : ℕ) (replayed : Bool) : changesOnly [.host, .lanes, .fh, .run, .pwr, .hld, .out] s (applyWake s src action replayed) := by
  unfold applyWake
  repeat' first
    | simp -zeta -zetaUnused (disch := first | decide | (apply Or.inl; decide) | (apply Or.inr; apply And.intro rfl; first | rfl | exact And.intro rfl (And.intro rfl rfl))) only [changesOnly_set_hld, changesOnly_set_pwr]
    | (extract_lets +onlyGivenNames x; refine changesOnly_cut (x := x) ?_ ?_; (on_goal 1 => (unfold x; clear x)); (on_goal 2 => (intro hx; try clear_value x)))
    | (extract_lets +onlyGivenNames x; refine changesOnly_fn (x := x) ?_; (try dsimp -zeta only [x]); clear x)
    | (extract_lets +onlyGivenNames x; refine changesOnly_fn2 (x := x) ?_; (try dsimp -zeta only [x]); clear x)
    | (extract_lets +onlyGivenNames x; try clear_value x)
    | with_reducible apply changesOnly_ite'
    | with_reducible assumption
    | with_reducible apply changesOnly_refl
    | (with_reducible apply changesOnly_step; with_reducible apply sidleWake_changes; decide)
    | (with_reducible apply changesOnly_step; with_reducible apply flkBack_changes; decide)
    | (with_reducible apply changesOnly_step; with_reducible apply startExit_changes; decide)
    | (with_reducible apply changesOnly_step; with_reducible apply postWake_changes; decide)
    | split

theorem decidedNext_changes (s : State) : changesOnly [.hld] s (decidedNext s) := by
  unfold decidedNext
  repeat' first
    | simp -zeta -zetaUnused (disch := first | decide | (apply Or.inl; decide) | (apply Or.inr; apply And.intro rfl; first | rfl | exact And.intro rfl (And.intro rfl rfl))) only [changesOnly_set_hld]
    | with_reducible apply changesOnly_ite'
    | with_reducible assumption
    | with_reducible apply changesOnly_refl
    | split

theorem wake_changes (s : State) (src : ℕ) : changesOnly [.host, .lanes, .fh, .run, .pwr, .hld, .out] s (wake s src) := by
  unfold wake
  repeat' first
    | simp -zeta -zetaUnused (disch := first | decide | (apply Or.inl; decide) | (apply Or.inr; apply And.intro rfl; first | rfl | exact And.intro rfl (And.intro rfl rfl))) only [changesOnly_set_pwr]
    | with_reducible apply changesOnly_ite'
    | with_reducible assumption
    | with_reducible apply changesOnly_refl
    | (with_reducible apply changesOnly_step; with_reducible apply decidedNext_changes; decide)
    | (with_reducible apply changesOnly_step; with_reducible apply applyWake_changes; decide)
    | split

theorem wakesReplay_changes (s : State) : changesOnly [.host, .lanes, .fh, .run, .pwr, .hld, .out] s (wakesReplay s) := by
  unfold wakesReplay
  repeat' first
    | simp -zeta -zetaUnused (disch := first | decide | (apply Or.inl; decide) | (apply Or.inr; apply And.intro rfl; first | rfl | exact And.intro rfl (And.intro rfl rfl))) only [changesOnly_set_pwr_hld]
    | (extract_lets +onlyGivenNames x; refine changesOnly_cut (x := x) ?_ ?_; (on_goal 1 => (unfold x; clear x)); (on_goal 2 => (intro hx; try clear_value x)))
    | (extract_lets +onlyGivenNames x; refine changesOnly_fn (x := x) ?_; (try dsimp -zeta only [x]); clear x)
    | (extract_lets +onlyGivenNames x; refine changesOnly_fn2 (x := x) ?_; (try dsimp -zeta only [x]); clear x)
    | (extract_lets +onlyGivenNames x; refine changesOnly_cut (x := x.1) ?_ ?_; (on_goal 1 => (unfold x; clear x)); (on_goal 2 => (intro hx; try clear_value x)))
    | (extract_lets +onlyGivenNames x; try clear_value x)
    | with_reducible apply changesOnly_ite'
    | with_reducible assumption
    | with_reducible apply changesOnly_refl
    | (with_reducible apply changesOnly_foldl'; on_goal 2 => intro y a hy)
    | (with_reducible apply changesOnly_fold1; on_goal 2 => intro y a hy)
    | (with_reducible apply changesOnly_step; with_reducible apply decidedNext_changes; decide)
    | (with_reducible apply changesOnly_step; with_reducible apply applyWake_changes; decide)
    | split
    | dsimp -zeta only

theorem hostExit_changes (s : State) : changesOnly [.pwr] s (hostExit s) := by
  unfold hostExit
  repeat' first
    | simp -zeta -zetaUnused (disch := first | decide | (apply Or.inl; decide) | (apply Or.inr; apply And.intro rfl; first | rfl | exact And.intro rfl (And.intro rfl rfl))) only [changesOnly_set_pwr]
    | (extract_lets +onlyGivenNames x; refine changesOnly_cut (x := x) ?_ ?_; (on_goal 1 => (unfold x; clear x)); (on_goal 2 => (intro hx; try clear_value x)))
    | (extract_lets +onlyGivenNames x; refine changesOnly_fn (x := x) ?_; (try dsimp -zeta only [x]); clear x)
    | (extract_lets +onlyGivenNames x; refine changesOnly_fn2 (x := x) ?_; (try dsimp -zeta only [x]); clear x)
    | (extract_lets +onlyGivenNames x; try clear_value x)
    | with_reducible apply changesOnly_ite'
    | with_reducible assumption
    | with_reducible apply changesOnly_refl
    | (with_reducible apply changesOnly_step; with_reducible apply startExit_changes; decide)
    | split

theorem domFinish_changes (s : State) : changesOnly [.host, .lanes, .fh, .run, .pwr, .hld, .out] s (domFinish s) := by
  unfold domFinish
  repeat' first
    | simp -zeta -zetaUnused (disch := first | decide | (apply Or.inl; decide) | (apply Or.inr; apply And.intro rfl; first | rfl | exact And.intro rfl (And.intro rfl rfl))) only [changesOnly_set_pwr]
    | (extract_lets +onlyGivenNames x; refine changesOnly_cut (x := x) ?_ ?_; (on_goal 1 => (unfold x; clear x)); (on_goal 2 => (intro hx; try clear_value x)))
    | (extract_lets +onlyGivenNames x; refine changesOnly_fn (x := x) ?_; (try dsimp -zeta only [x]); clear x)
    | (extract_lets +onlyGivenNames x; refine changesOnly_fn2 (x := x) ?_; (try dsimp -zeta only [x]); clear x)
    | (extract_lets +onlyGivenNames x; try clear_value x)
    | with_reducible apply changesOnly_ite'
    | with_reducible assumption
    | with_reducible apply changesOnly_refl
    | (with_reducible apply changesOnly_step; with_reducible apply endRef_changes; decide)
    | (with_reducible apply changesOnly_step; with_reducible apply doneRef_changes; decide)
    | (with_reducible apply changesOnly_step; with_reducible apply hostExit_changes; decide)
    | (with_reducible apply changesOnly_step; with_reducible apply wakesReplay_changes; decide)
    | split

theorem domReached_changes (s : State) (d : ℕ) (cold : Bool) : changesOnly [.pwr] s (domReached s d cold) := by
  unfold domReached
  repeat' first
    | simp -zeta -zetaUnused (disch := first | decide | (apply Or.inl; decide) | (apply Or.inr; apply And.intro rfl; first | rfl | exact And.intro rfl (And.intro rfl rfl))) only [changesOnly_set_pwr]
    | with_reducible apply changesOnly_ite'
    | with_reducible assumption
    | with_reducible apply changesOnly_refl
    | split

theorem domBegin_changes (s : State) (c : DomCmd) : changesOnly [.syn, .host, .lanes, .fh, .run, .tx, .rx, .pwr, .hld, .bias, .out] s (domBegin s c) := by
  unfold domBegin
  repeat' first
    | simp -zeta -zetaUnused (disch := first | decide | (apply Or.inl; decide) | (apply Or.inr; apply And.intro rfl; first | rfl | exact And.intro rfl (And.intro rfl rfl))) only [changesOnly_set_pwr]
    | (extract_lets +onlyGivenNames x; refine changesOnly_cut (x := x) ?_ ?_; (on_goal 1 => (unfold x; clear x)); (on_goal 2 => (intro hx; try clear_value x)))
    | (extract_lets +onlyGivenNames x; refine changesOnly_fn (x := x) ?_; (try dsimp -zeta only [x]); clear x)
    | (extract_lets +onlyGivenNames x; refine changesOnly_fn2 (x := x) ?_; (try dsimp -zeta only [x]); clear x)
    | (extract_lets +onlyGivenNames x; try clear_value x)
    | with_reducible assumption
    | with_reducible apply changesOnly_refl
    | (with_reducible apply changesOnly_step; with_reducible apply domFinish_changes; decide)
    | (with_reducible apply changesOnly_step; with_reducible apply entryNext_changes; decide)
    | split

theorem entryDone_changes (s : State) (d : ℕ) (sigs : List (BitVec 32)) : changesOnly [.hmem, .syn, .host, .ldl, .lanes, .fh, .cru, .run, .tx, .rx, .pwr, .hld, .bias, .gen, .out] s (entryDone s d sigs) := by
  unfold entryDone
  repeat' first
    | simp -zeta -zetaUnused (disch := first | decide | (apply Or.inl; decide) | (apply Or.inr; apply And.intro rfl; first | rfl | exact And.intro rfl (And.intro rfl rfl))) only [changesOnly_set_pwr]
    | (extract_lets +onlyGivenNames x; refine changesOnly_cut (x := x) ?_ ?_; (on_goal 1 => (unfold x; clear x)); (on_goal 2 => (intro hx; try clear_value x)))
    | (extract_lets +onlyGivenNames x; refine changesOnly_fn (x := x) ?_; (try dsimp -zeta only [x]); clear x)
    | (extract_lets +onlyGivenNames x; refine changesOnly_fn2 (x := x) ?_; (try dsimp -zeta only [x]); clear x)
    | (extract_lets +onlyGivenNames x; refine changesOnly_cut (x := x.1) ?_ ?_; (on_goal 1 => (unfold x; clear x)); (on_goal 2 => (intro hx; try clear_value x)))
    | (extract_lets +onlyGivenNames x; try clear_value x)
    | with_reducible apply changesOnly_ite'
    | with_reducible assumption
    | with_reducible apply changesOnly_refl
    | (with_reducible apply changesOnly_step; with_reducible apply domLeft_changes; decide)
    | (with_reducible apply changesOnly_step; with_reducible apply postDom_changes; decide)
    | (with_reducible apply changesOnly_step; with_reducible apply setDom_changes; decide)
    | (with_reducible apply changesOnly_step; with_reducible apply domFinish_changes; decide)
    | (with_reducible apply changesOnly_step; with_reducible apply entryNext_changes; decide)
    | (with_reducible apply changesOnly_step; with_reducible apply domReached_changes; decide)
    | (with_reducible apply changesOnly_step; with_reducible apply hostExit_changes; decide)
    | (with_reducible apply changesOnly_step; with_reducible apply wakesReplay_changes; decide)
    | split
    | dsimp -zeta only

theorem bankSpoil_changes (d : ℕ) (s : State) (b : ℕ) : changesOnly [.host, .pwr, .hb, .out] s (bankSpoil d s b) := by
  unfold bankSpoil
  repeat' first
    | simp -zeta -zetaUnused (disch := first | decide | (apply Or.inl; decide) | (apply Or.inr; apply And.intro rfl; first | rfl | exact And.intro rfl (And.intro rfl rfl))) only [changesOnly_set_pwr]
    | (extract_lets +onlyGivenNames x; refine changesOnly_cut (x := x) ?_ ?_; (on_goal 1 => (unfold x; clear x)); (on_goal 2 => (intro hx; try clear_value x)))
    | (extract_lets +onlyGivenNames x; try clear_value x)
    | with_reducible assumption
    | with_reducible apply changesOnly_refl
    | (with_reducible apply changesOnly_step; with_reducible apply lgEvent_changes; decide)
    | (with_reducible apply changesOnly_step; with_reducible apply hbCount_changes; decide)
    | (with_reducible apply changesOnly_step; with_reducible apply post_changes; decide)
    | split

theorem exitDone_changes (s : State) (d : ℕ) (sigs : List (BitVec 32)) : changesOnly [.hmem, .dev, .tb, .syn, .mod, .host, .ldl, .lanes, .fh, .cru, .run, .tx, .rx, .anl, .pwr, .hld, .bias, .hb, .fus, .gen, .out] s (exitDone s d sigs) := by
  unfold exitDone
  repeat' first
    | simp -zeta -zetaUnused (disch := first | decide | (apply Or.inl; decide) | (apply Or.inr; apply And.intro rfl; first | rfl | exact And.intro rfl (And.intro rfl rfl))) only [changesOnly_set_pwr]
    | (extract_lets +onlyGivenNames x; refine changesOnly_cut (x := x) ?_ ?_; (on_goal 1 => (unfold x; clear x)); (on_goal 2 => (intro hx; try clear_value x)))
    | (extract_lets +onlyGivenNames x; refine changesOnly_fn (x := x) ?_; (try dsimp -zeta only [x]); clear x)
    | (extract_lets +onlyGivenNames x; refine changesOnly_fn2 (x := x) ?_; (try dsimp -zeta only [x]); clear x)
    | (extract_lets +onlyGivenNames x; refine changesOnly_cut (x := x.1) ?_ ?_; (on_goal 1 => (unfold x; clear x)); (on_goal 2 => (intro hx; try clear_value x)))
    | (extract_lets +onlyGivenNames x; try clear_value x)
    | with_reducible apply changesOnly_ite'
    | with_reducible assumption
    | with_reducible apply changesOnly_refl
    | (with_reducible apply changesOnly_foldl'; on_goal 2 => intro y a hy)
    | (with_reducible apply changesOnly_fold1; on_goal 2 => intro y a hy)
    | (with_reducible apply changesOnly_step; with_reducible apply bankSpoil_changes; decide)
    | (with_reducible apply changesOnly_step; with_reducible apply coldReset_changes; decide)
    | (with_reducible apply changesOnly_step; with_reducible apply domResume_changes; decide)
    | (with_reducible apply changesOnly_step; with_reducible apply setDom_changes; decide)
    | (with_reducible apply changesOnly_step; with_reducible apply postDom_changes; decide)
    | (with_reducible apply changesOnly_step; with_reducible apply drainAll_changes; decide)
    | (with_reducible apply changesOnly_step; with_reducible apply evtqPost_changes; decide)
    | (with_reducible apply changesOnly_step; with_reducible apply domFinish_changes; decide)
    | (with_reducible apply changesOnly_step; with_reducible apply domReached_changes; decide)
    | split
    | dsimp -zeta only

theorem ctlEntry_changes (s : State) : changesOnly [.tb, .syn, .host, .lanes, .fh, .tx, .rx, .pwr, .bias, .out] s (ctlEntry s) := by
  unfold ctlEntry
  repeat' first
    | simp -zeta -zetaUnused (disch := first | decide | (apply Or.inl; decide) | (apply Or.inr; apply And.intro rfl; first | rfl | exact And.intro rfl (And.intro rfl rfl))) only [changesOnly_set_pwr]
    | (extract_lets +onlyGivenNames x; refine changesOnly_cut (x := x) ?_ ?_; (on_goal 1 => (unfold x; clear x)); (on_goal 2 => (intro hx; try clear_value x)))
    | (extract_lets +onlyGivenNames x; try clear_value x)
    | with_reducible assumption
    | with_reducible apply changesOnly_refl
    | (with_reducible apply changesOnly_step; with_reducible apply arriveAt_changes; decide)
    | (with_reducible apply changesOnly_step; with_reducible apply entryStart_changes; decide)
    | split

theorem hldTake_changes (s : State) (x0 : BitVec 384) : changesOnly [.hld] s (hldTake s x0) := by
  unfold hldTake
  repeat' first
    | simp -zeta -zetaUnused (disch := first | decide | (apply Or.inl; decide) | (apply Or.inr; apply And.intro rfl; first | rfl | exact And.intro rfl (And.intro rfl rfl))) only [changesOnly_set_hld]
    | (extract_lets +onlyGivenNames x; refine changesOnly_cut (x := x) ?_ ?_; (on_goal 1 => (unfold x; clear x)); (on_goal 2 => (intro hx; try clear_value x)))
    | (extract_lets +onlyGivenNames x; refine changesOnly_fn (x := x) ?_; (try dsimp -zeta only [x]); clear x)
    | (extract_lets +onlyGivenNames x; refine changesOnly_fn2 (x := x) ?_; (try dsimp -zeta only [x]); clear x)
    | (extract_lets +onlyGivenNames x; try clear_value x)
    | with_reducible assumption
    | with_reducible apply changesOnly_refl
    | split

theorem hldPend_changes (s : State) : changesOnly [.hld] s (hldPend s) := by
  unfold hldPend
  repeat' first
    | simp -zeta -zetaUnused (disch := first | decide | (apply Or.inl; decide) | (apply Or.inr; apply And.intro rfl; first | rfl | exact And.intro rfl (And.intro rfl rfl))) only [changesOnly_set_hld]
    | (extract_lets +onlyGivenNames x; refine changesOnly_cut (x := x) ?_ ?_; (on_goal 1 => (unfold x; clear x)); (on_goal 2 => (intro hx; try clear_value x)))
    | (extract_lets +onlyGivenNames x; try clear_value x)
    | with_reducible assumption
    | with_reducible apply changesOnly_refl
    | (with_reducible apply changesOnly_foldl'; on_goal 2 => intro y a hy)
    | (with_reducible apply changesOnly_step; with_reducible apply hldTake_changes; decide)
    | split

theorem hldArm_changes (s : State) : changesOnly [.hld] s (hldArm s) := by
  unfold hldArm
  repeat' first
    | simp -zeta -zetaUnused (disch := first | decide | (apply Or.inl; decide) | (apply Or.inr; apply And.intro rfl; first | rfl | exact And.intro rfl (And.intro rfl rfl))) only [changesOnly_set_hld]
    | (extract_lets +onlyGivenNames x; refine changesOnly_cut (x := x) ?_ ?_; (on_goal 1 => (unfold x; clear x)); (on_goal 2 => (intro hx; try clear_value x)))
    | (extract_lets +onlyGivenNames x; refine changesOnly_fn (x := x) ?_; (try dsimp -zeta only [x]); clear x)
    | (extract_lets +onlyGivenNames x; refine changesOnly_fn2 (x := x) ?_; (try dsimp -zeta only [x]); clear x)
    | (extract_lets +onlyGivenNames x; try clear_value x)
    | with_reducible apply changesOnly_ite'
    | with_reducible assumption
    | with_reducible apply changesOnly_refl
    | split

theorem windowEnd_changes (s : State) (hits : Nat) : changesOnly [.host, .lanes, .fh, .run, .pwr, .hld, .out] s (windowEnd s hits) := by
  unfold windowEnd
  repeat' first
    | simp -zeta -zetaUnused (disch := first | decide | (apply Or.inl; decide) | (apply Or.inr; apply And.intro rfl; first | rfl | exact And.intro rfl (And.intro rfl rfl))) only [changesOnly_set_hld]
    | (extract_lets +onlyGivenNames x; refine changesOnly_cut (x := x) ?_ ?_; (on_goal 1 => (unfold x; clear x)); (on_goal 2 => (intro hx; try clear_value x)))
    | (extract_lets +onlyGivenNames x; refine changesOnly_fn (x := x) ?_; (try dsimp -zeta only [x]); clear x)
    | (extract_lets +onlyGivenNames x; refine changesOnly_fn2 (x := x) ?_; (try dsimp -zeta only [x]); clear x)
    | (extract_lets +onlyGivenNames x; try clear_value x)
    | with_reducible apply changesOnly_ite'
    | with_reducible assumption
    | with_reducible apply changesOnly_refl
    | (with_reducible apply changesOnly_step; with_reducible apply hldPend_changes; decide)
    | (with_reducible apply changesOnly_step; with_reducible apply wake_changes; decide)
    | split

theorem darkApply_changes (s : State) : changesOnly [.syn, .host, .lanes, .fh, .run, .tx, .rx, .pwr, .hld, .bias, .out] s (darkApply s) := by
  unfold darkApply
  repeat' first
    | simp -zeta -zetaUnused (disch := first | decide | (apply Or.inl; decide) | (apply Or.inr; apply And.intro rfl; first | rfl | exact And.intro rfl (And.intro rfl rfl))) only [changesOnly_set_hld]
    | (extract_lets +onlyGivenNames x; refine changesOnly_cut (x := x) ?_ ?_; (on_goal 1 => (unfold x; clear x)); (on_goal 2 => (intro hx; try clear_value x)))
    | (extract_lets +onlyGivenNames x; refine changesOnly_fn (x := x) ?_; (try dsimp -zeta only [x]); clear x)
    | (extract_lets +onlyGivenNames x; refine changesOnly_fn2 (x := x) ?_; (try dsimp -zeta only [x]); clear x)
    | (extract_lets +onlyGivenNames x; refine changesOnly_cut (x := x.1) ?_ ?_; (on_goal 1 => (unfold x; clear x)); (on_goal 2 => (intro hx; try clear_value x)))
    | (extract_lets +onlyGivenNames x; try clear_value x)
    | with_reducible apply changesOnly_ite'
    | with_reducible assumption
    | with_reducible apply changesOnly_refl
    | (with_reducible apply changesOnly_foldl'; on_goal 2 => intro y a hy)
    | (with_reducible apply changesOnly_fold1; on_goal 2 => intro y a hy)
    | (with_reducible apply changesOnly_step; with_reducible apply postDom_changes; decide)
    | (with_reducible apply changesOnly_step; with_reducible apply domBegin_changes; decide)
    | split
    | dsimp -zeta only

theorem darkSymbol_changes (k : ℕ) (s : State) : changesOnly [.syn, .host, .lanes, .fh, .run, .tx, .rx, .pwr, .hld, .bias, .out] s (darkSymbol k s) := by
  unfold darkSymbol
  repeat' first
    | simp -zeta -zetaUnused (disch := first | decide | (apply Or.inl; decide) | (apply Or.inr; apply And.intro rfl; first | rfl | exact And.intro rfl (And.intro rfl rfl))) only [changesOnly_set_hld]
    | with_reducible apply changesOnly_ite'
    | with_reducible assumption
    | with_reducible apply changesOnly_refl
    | (with_reducible apply changesOnly_step; with_reducible apply darkApply_changes; decide)
    | split

theorem ltsMove_changes (mask : Nat) (s : State) (l : Nat) : changesOnly [.lanes, .out] s (ltsMove mask s l) := by
  unfold ltsMove
  repeat' first
    | (extract_lets +onlyGivenNames x; refine changesOnly_cut (x := x) ?_ ?_; (on_goal 1 => (unfold x; clear x)); (on_goal 2 => (intro hx; try clear_value x)))
    | (extract_lets +onlyGivenNames x; refine changesOnly_fn (x := x) ?_; (try dsimp -zeta only [x]); clear x)
    | (extract_lets +onlyGivenNames x; refine changesOnly_fn2 (x := x) ?_; (try dsimp -zeta only [x]); clear x)
    | (extract_lets +onlyGivenNames x; try clear_value x)
    | with_reducible apply changesOnly_ite'
    | with_reducible assumption
    | with_reducible apply changesOnly_refl
    | (with_reducible apply changesOnly_step; with_reducible apply laneOut_changes; decide)
    | (with_reducible apply changesOnly_step; with_reducible apply modLane_changes; decide)
    | (with_reducible apply changesOnly_step; with_reducible apply startAttempt_changes; decide)
    | (with_reducible apply changesOnly_step; with_reducible apply testOff_changes; decide)
    | split

theorem ltsApply_changes (s : State) (mask : Nat) : changesOnly [.mod, .host, .lanes, .fh, .run, .pwr, .out] s (ltsApply s mask) := by
  unfold ltsApply
  repeat' first
    | simp -zeta -zetaUnused (disch := first | decide | (apply Or.inl; decide) | (apply Or.inr; apply And.intro rfl; first | rfl | exact And.intro rfl (And.intro rfl rfl))) only [changesOnly_set_mod]
    | (extract_lets +onlyGivenNames x; refine changesOnly_cut (x := x) ?_ ?_; (on_goal 1 => (unfold x; clear x)); (on_goal 2 => (intro hx; try clear_value x)))
    | (extract_lets +onlyGivenNames x; refine changesOnly_fn (x := x) ?_; (try dsimp -zeta only [x]); clear x)
    | (extract_lets +onlyGivenNames x; refine changesOnly_fn2 (x := x) ?_; (try dsimp -zeta only [x]); clear x)
    | (extract_lets +onlyGivenNames x; try clear_value x)
    | with_reducible apply changesOnly_ite'
    | with_reducible assumption
    | with_reducible apply changesOnly_refl
    | (with_reducible apply changesOnly_all; on_goal 2 => intro y a hy)
    | (with_reducible apply changesOnly_bits; on_goal 2 => intro y a hy)
    | (with_reducible apply changesOnly_step; with_reducible apply ltsMove_changes; decide)
    | (with_reducible apply changesOnly_step; with_reducible apply startAttempt_changes; decide)
    | (with_reducible apply changesOnly_step; with_reducible apply reassign_changes; decide)
    | (with_reducible apply changesOnly_step; with_reducible apply synceUpdate_changes; decide)
    | split

theorem modeDiscard_changes (s : State) (c : ℕ) (k : ℕ) (acceptAt : ℕ) : changesOnly [.fh, .cru, .gen] s (modeDiscard s c k acceptAt) := by
  unfold modeDiscard
  repeat' first
    | simp -zeta -zetaUnused (disch := first | decide | (apply Or.inl; decide) | (apply Or.inr; apply And.intro rfl; first | rfl | exact And.intro rfl (And.intro rfl rfl))) only [changesOnly_set_fh_cru_gen]
    | (extract_lets +onlyGivenNames x; refine changesOnly_cut (x := x) ?_ ?_; (on_goal 1 => (unfold x; clear x)); (on_goal 2 => (intro hx; try clear_value x)))
    | (extract_lets +onlyGivenNames x; refine changesOnly_fn (x := x) ?_; (try dsimp -zeta only [x]); clear x)
    | (extract_lets +onlyGivenNames x; refine changesOnly_fn2 (x := x) ?_; (try dsimp -zeta only [x]); clear x)
    | (extract_lets +onlyGivenNames x; try clear_value x)
    | with_reducible assumption
    | with_reducible apply changesOnly_refl
    | split

theorem flaskOff_changes (s : State) : changesOnly [.run] s (flaskOff s) := by
  unfold flaskOff
  repeat' first
    | simp -zeta -zetaUnused (disch := first | decide | (apply Or.inl; decide) | (apply Or.inr; apply And.intro rfl; first | rfl | exact And.intro rfl (And.intro rfl rfl))) only [changesOnly_set_run]
    | with_reducible apply changesOnly_ite'
    | with_reducible assumption
    | with_reducible apply changesOnly_refl
    | split

theorem tablesGone_changes (s : State) (k : Nat) (gone : Entry → Bool) : changesOnly [.run] s (tablesGone s k gone) := by
  unfold tablesGone
  repeat' first
    | simp -zeta -zetaUnused (disch := first | decide | (apply Or.inl; decide) | (apply Or.inr; apply And.intro rfl; first | rfl | exact And.intro rfl (And.intro rfl rfl))) only [changesOnly_set_run]
    | (extract_lets +onlyGivenNames x; refine changesOnly_cut (x := x) ?_ ?_; (on_goal 1 => (unfold x; clear x)); (on_goal 2 => (intro hx; try clear_value x)))
    | (extract_lets +onlyGivenNames x; refine changesOnly_fn (x := x) ?_; (try dsimp -zeta only [x]); clear x)
    | (extract_lets +onlyGivenNames x; refine changesOnly_fn2 (x := x) ?_; (try dsimp -zeta only [x]); clear x)
    | (extract_lets +onlyGivenNames x; try clear_value x)
    | with_reducible apply changesOnly_ite'
    | with_reducible assumption
    | with_reducible apply changesOnly_refl
    | split

theorem applySet_changes (s : State) (c new k acceptAt : Nat) (host : Bool) : changesOnly [.mod, .host, .lanes, .fh, .cru, .run, .anl, .pwr, .hld, .hb, .gen, .out] s (applySet s c new k acceptAt host) := by
  unfold applySet
  repeat' first
    | simp -zeta -zetaUnused (disch := first | decide | (apply Or.inl; decide) | (apply Or.inr; apply And.intro rfl; first | rfl | exact And.intro rfl (And.intro rfl rfl))) only [changesOnly_set_mod, changesOnly_set_hld, changesOnly_set_pwr]
    | (extract_lets +onlyGivenNames x; refine changesOnly_cut (x := x) ?_ ?_; (on_goal 1 => (unfold x; clear x)); (on_goal 2 => (intro hx; try clear_value x)))
    | (extract_lets +onlyGivenNames x; refine changesOnly_fn (x := x) ?_; (try dsimp -zeta only [x]); clear x)
    | (extract_lets +onlyGivenNames x; refine changesOnly_fn2 (x := x) ?_; (try dsimp -zeta only [x]); clear x)
    | (extract_lets +onlyGivenNames x; try clear_value x)
    | with_reducible apply changesOnly_ite'
    | with_reducible assumption
    | with_reducible apply changesOnly_refl
    | (with_reducible apply changesOnly_foldl'; on_goal 2 => intro y a hy)
    | (with_reducible apply changesOnly_fold1; on_goal 2 => intro y a hy)
    | (with_reducible apply changesOnly_step; with_reducible apply modeDiscard_changes; decide)
    | (with_reducible apply changesOnly_step; with_reducible apply modModCc_changes; decide)
    | (with_reducible apply changesOnly_step; with_reducible apply dropCtrl_changes; decide)
    | (with_reducible apply changesOnly_step; with_reducible apply dropHeld_changes; decide)
    | (with_reducible apply changesOnly_step; with_reducible apply closeBook_changes; decide)
    | (with_reducible apply changesOnly_step; with_reducible apply openBook_changes; decide)
    | (with_reducible apply changesOnly_step; with_reducible apply dropDirect_changes; decide)
    | (with_reducible apply changesOnly_step; with_reducible apply tablesGone_changes; decide)
    | (with_reducible apply changesOnly_step; with_reducible apply hldArm_changes; decide)
    | (with_reducible apply changesOnly_step; with_reducible apply sidleEnter_changes; decide)
    | (with_reducible apply changesOnly_step; with_reducible apply sidleWake_changes; decide)
    | (with_reducible apply changesOnly_step; with_reducible apply anlRelease_changes; decide)
    | (with_reducible apply changesOnly_step; with_reducible apply anlFail_changes; decide)
    | (with_reducible apply changesOnly_step; with_reducible apply flaskOff_changes; decide)
    | split
    | dsimp -zeta only

theorem modeTake_changes (s : State) (d : Desc) (k : ℕ) (acceptAt : ℕ) : changesOnly [.mod, .host, .lanes, .fh, .cru, .run, .anl, .pwr, .hld, .hb, .gen, .out] s (modeTake s d k acceptAt) := by
  unfold modeTake
  repeat' first
    | (extract_lets +onlyGivenNames x; refine changesOnly_cut (x := x) ?_ ?_; (on_goal 1 => (unfold x; clear x)); (on_goal 2 => (intro hx; try clear_value x)))
    | (extract_lets +onlyGivenNames x; refine changesOnly_fn (x := x) ?_; (try dsimp -zeta only [x]); clear x)
    | (extract_lets +onlyGivenNames x; refine changesOnly_fn2 (x := x) ?_; (try dsimp -zeta only [x]); clear x)
    | (extract_lets +onlyGivenNames x; try clear_value x)
    | with_reducible apply changesOnly_ite'
    | with_reducible assumption
    | with_reducible apply changesOnly_refl
    | (with_reducible apply changesOnly_all; on_goal 2 => intro y a hy)
    | (with_reducible apply changesOnly_step; with_reducible apply forAll_changes; decide)
    | (with_reducible apply changesOnly_step; with_reducible apply applySet_changes; decide)
    | (with_reducible apply changesOnly_step; with_reducible apply ltsApply_changes; decide)
    | split

theorem modeEffect_changes (s : State) (c : Cmd) : changesOnly [.mod, .host, .lanes, .fh, .cru, .run, .anl, .pwr, .hld, .hb, .gen, .out] s (modeEffect s c) := by
  unfold modeEffect
  repeat' first
    | with_reducible apply changesOnly_ite'
    | with_reducible assumption
    | with_reducible apply changesOnly_refl
    | (with_reducible apply changesOnly_step; with_reducible apply cmdDone_changes; decide)
    | (with_reducible apply changesOnly_step; with_reducible apply cmdPut_changes; decide)
    | (with_reducible apply changesOnly_step; with_reducible apply modeTake_changes; decide)
    | split

theorem flkStart_changes (s : State) : changesOnly [.lanes, .run] s (flkStart s) := by
  unfold flkStart
  repeat' first
    | simp -zeta -zetaUnused (disch := first | decide | (apply Or.inl; decide) | (apply Or.inr; apply And.intro rfl; first | rfl | exact And.intro rfl (And.intro rfl rfl))) only [changesOnly_set_run]
    | (extract_lets +onlyGivenNames x; refine changesOnly_cut (x := x) ?_ ?_; (on_goal 1 => (unfold x; clear x)); (on_goal 2 => (intro hx; try clear_value x)))
    | (extract_lets +onlyGivenNames x; refine changesOnly_fn (x := x) ?_; (try dsimp -zeta only [x]); clear x)
    | (extract_lets +onlyGivenNames x; refine changesOnly_fn2 (x := x) ?_; (try dsimp -zeta only [x]); clear x)
    | (extract_lets +onlyGivenNames x; try clear_value x)
    | with_reducible apply changesOnly_ite'
    | with_reducible assumption
    | with_reducible apply changesOnly_refl
    | (with_reducible apply changesOnly_foldl'; on_goal 2 => intro y a hy)
    | (with_reducible apply changesOnly_step; with_reducible apply startAttempt_changes; decide)
    | split

theorem flkDeny_changes (s : State) (q : FlkReq) : changesOnly [.mod, .host, .run, .out] s (flkDeny s q) := by
  unfold flkDeny
  repeat' first
    | with_reducible assumption
    | with_reducible apply changesOnly_refl
    | (with_reducible apply changesOnly_step; with_reducible apply reqRefuse_changes; decide)
    | (with_reducible apply changesOnly_step; with_reducible apply setReqs_changes; decide)
    | split

theorem flkTake_changes (s : State) : changesOnly [.mod, .host, .fh, .run, .out] s (flkTake s) := by
  unfold flkTake
  repeat' first
    | (extract_lets +onlyGivenNames x; refine changesOnly_cut (x := x) ?_ ?_; (on_goal 1 => (unfold x; clear x)); (on_goal 2 => (intro hx; try clear_value x)))
    | (extract_lets +onlyGivenNames x; refine changesOnly_fn (x := x) ?_; (try dsimp -zeta only [x]); clear x)
    | (extract_lets +onlyGivenNames x; refine changesOnly_fn2 (x := x) ?_; (try dsimp -zeta only [x]); clear x)
    | (extract_lets +onlyGivenNames x; try clear_value x)
    | with_reducible apply changesOnly_ite'
    | with_reducible assumption
    | with_reducible apply changesOnly_refl
    | (with_reducible apply changesOnly_step; with_reducible apply flkDeny_changes; decide)
    | (with_reducible apply changesOnly_step; with_reducible apply outward_changes; decide)
    | (with_reducible apply changesOnly_step; with_reducible apply setReqs_changes; decide)
    | split

theorem flkPump_changes (s : State) : changesOnly [.mod, .host, .fh, .run, .out] s (flkPump s) := by
  unfold flkPump
  repeat' first
    | (extract_lets +onlyGivenNames x; refine changesOnly_cut (x := x) ?_ ?_; (on_goal 1 => (unfold x; clear x)); (on_goal 2 => (intro hx; try clear_value x)))
    | (extract_lets +onlyGivenNames x; refine changesOnly_fn (x := x) ?_; (try dsimp -zeta only [x]); clear x)
    | (extract_lets +onlyGivenNames x; refine changesOnly_fn2 (x := x) ?_; (try dsimp -zeta only [x]); clear x)
    | (extract_lets +onlyGivenNames x; try clear_value x)
    | with_reducible apply changesOnly_ite'
    | with_reducible assumption
    | with_reducible apply changesOnly_refl
    | (with_reducible apply changesOnly_foldl'; on_goal 2 => intro y a hy)
    | (with_reducible apply changesOnly_step; with_reducible apply flkTake_changes; decide)
    | (with_reducible apply changesOnly_step; with_reducible apply toMaster_changes; decide)
    | (with_reducible apply changesOnly_step; with_reducible apply setReqs_changes; decide)
    | split

theorem modeAccepted_changes (s : State) (c : Cmd) : changesOnly [.mod, .host, .lanes, .fh, .run, .out] s (modeAccepted s c) := by
  unfold modeAccepted
  repeat' first
    | (extract_lets +onlyGivenNames x; refine changesOnly_cut (x := x) ?_ ?_; (on_goal 1 => (unfold x; clear x)); (on_goal 2 => (intro hx; try clear_value x)))
    | (extract_lets +onlyGivenNames x; try clear_value x)
    | with_reducible apply changesOnly_ite'
    | with_reducible assumption
    | with_reducible apply changesOnly_refl
    | (with_reducible apply changesOnly_step; with_reducible apply flkPump_changes; decide)
    | (with_reducible apply changesOnly_step; with_reducible apply flkStart_changes; decide)
    | (with_reducible apply changesOnly_step; with_reducible apply setReqs_changes; decide)
    | (with_reducible apply changesOnly_step; with_reducible apply cmdPut_changes; decide)
    | split

theorem resumeSlot_changes (k : Nat) (s : State) : changesOnly [.mod, .host, .lanes, .fh, .cru, .run, .anl, .pwr, .hld, .hb, .gen, .out] s (resumeSlot k s) := by
  unfold resumeSlot
  repeat' first
    | simp -zeta -zetaUnused (disch := first | decide | (apply Or.inl; decide) | (apply Or.inr; apply And.intro rfl; first | rfl | exact And.intro rfl (And.intro rfl rfl))) only [changesOnly_set_pwr]
    | with_reducible apply changesOnly_ite'
    | with_reducible assumption
    | with_reducible apply changesOnly_refl
    | (with_reducible apply changesOnly_bits; on_goal 2 => intro y a hy)
    | (with_reducible apply changesOnly_step; with_reducible apply applySet_changes; decide)
    | split

theorem surveyReport_changes (s : State) (l : List SurveyPath) : changesOnly [.mod, .out] s (surveyReport s l) := by
  unfold surveyReport
  repeat' first
    | simp -zeta -zetaUnused (disch := first | decide | (apply Or.inl; decide) | (apply Or.inr; apply And.intro rfl; first | rfl | exact And.intro rfl (And.intro rfl rfl))) only [changesOnly_set_mod]
    | (extract_lets +onlyGivenNames x; refine changesOnly_cut (x := x) ?_ ?_; (on_goal 1 => (unfold x; clear x)); (on_goal 2 => (intro hx; try clear_value x)))
    | (extract_lets +onlyGivenNames x; refine changesOnly_fn (x := x) ?_; (try dsimp -zeta only [x]); clear x)
    | (extract_lets +onlyGivenNames x; refine changesOnly_fn2 (x := x) ?_; (try dsimp -zeta only [x]); clear x)
    | (extract_lets +onlyGivenNames x; try clear_value x)
    | with_reducible assumption
    | with_reducible apply changesOnly_refl
    | (with_reducible apply changesOnly_foldl'; on_goal 2 => intro y a hy)
    | (with_reducible apply changesOnly_step; with_reducible apply send_changes; decide)
    | split

theorem surveyFrameTick_changes (s : State) : changesOnly [.mod] s (surveyFrameTick s) := by
  unfold surveyFrameTick
  repeat' first
    | simp -zeta -zetaUnused (disch := first | decide | (apply Or.inl; decide) | (apply Or.inr; apply And.intro rfl; first | rfl | exact And.intro rfl (And.intro rfl rfl))) only [changesOnly_set_mod]
    | with_reducible apply changesOnly_ite'
    | with_reducible assumption
    | with_reducible apply changesOnly_refl
    | split

theorem hkNext_changes (s : State) (ch : ℕ) : changesOnly [.hka] s (hkNext s ch) := by
  unfold hkNext
  repeat' first
    | simp -zeta -zetaUnused (disch := first | decide | (apply Or.inl; decide) | (apply Or.inr; apply And.intro rfl; first | rfl | exact And.intro rfl (And.intro rfl rfl))) only [changesOnly_set_hka]
    | with_reducible apply changesOnly_ite'
    | with_reducible assumption
    | with_reducible apply changesOnly_refl
    | (with_reducible apply changesOnly_step; with_reducible apply modCmp_changes; decide)
    | split

theorem hkQueue_changes (s : State) (w : BitVec 32) : changesOnly [.host, .pwr, .hka, .out] s (hkQueue s w) := by
  unfold hkQueue
  repeat' first
    | simp -zeta -zetaUnused (disch := first | decide | (apply Or.inl; decide) | (apply Or.inr; apply And.intro rfl; first | rfl | exact And.intro rfl (And.intro rfl rfl))) only [changesOnly_set_hka]
    | (extract_lets +onlyGivenNames x; refine changesOnly_cut (x := x) ?_ ?_; (on_goal 1 => (unfold x; clear x)); (on_goal 2 => (intro hx; try clear_value x)))
    | (extract_lets +onlyGivenNames x; try clear_value x)
    | with_reducible apply changesOnly_ite'
    | with_reducible assumption
    | with_reducible apply changesOnly_refl
    | (with_reducible apply changesOnly_step; with_reducible apply post_changes; decide)
    | split

theorem conversionDone_changes (code : BitVec 24) (s : State) : changesOnly [.host, .pwr, .hka, .out] s (conversionDone code s) := by
  unfold conversionDone
  repeat' first
    | simp -zeta -zetaUnused (disch := first | decide | (apply Or.inl; decide) | (apply Or.inr; apply And.intro rfl; first | rfl | exact And.intro rfl (And.intro rfl rfl))) only [changesOnly_set_hka]
    | (extract_lets +onlyGivenNames x; refine changesOnly_cut (x := x) ?_ ?_; (on_goal 1 => (unfold x; clear x)); (on_goal 2 => (intro hx; try clear_value x)))
    | (extract_lets +onlyGivenNames x; refine changesOnly_fn (x := x) ?_; (try dsimp -zeta only [x]); clear x)
    | (extract_lets +onlyGivenNames x; refine changesOnly_fn2 (x := x) ?_; (try dsimp -zeta only [x]); clear x)
    | (extract_lets +onlyGivenNames x; try clear_value x)
    | with_reducible assumption
    | with_reducible apply changesOnly_refl
    | (with_reducible apply changesOnly_step; with_reducible apply hkNext_changes; decide)
    | (with_reducible apply changesOnly_step; with_reducible apply hkQueue_changes; decide)
    | split

theorem cmpCross_changes (s : State) (k : ℕ) (st : ℕ) : changesOnly [.host, .lanes, .fh, .run, .pwr, .hld, .hka, .out] s (cmpCross s k st) := by
  unfold cmpCross
  repeat' first
    | (extract_lets +onlyGivenNames x; refine changesOnly_cut (x := x) ?_ ?_; (on_goal 1 => (unfold x; clear x)); (on_goal 2 => (intro hx; try clear_value x)))
    | (extract_lets +onlyGivenNames x; refine changesOnly_fn (x := x) ?_; (try dsimp -zeta only [x]); clear x)
    | (extract_lets +onlyGivenNames x; refine changesOnly_fn2 (x := x) ?_; (try dsimp -zeta only [x]); clear x)
    | (extract_lets +onlyGivenNames x; try clear_value x)
    | with_reducible apply changesOnly_ite'
    | with_reducible assumption
    | with_reducible apply changesOnly_refl
    | (with_reducible apply changesOnly_step; with_reducible apply post_changes; decide)
    | (with_reducible apply changesOnly_step; with_reducible apply modCmp_changes; decide)
    | (with_reducible apply changesOnly_step; with_reducible apply wake_changes; decide)
    | (with_reducible apply changesOnly_step; with_reducible apply hkNext_changes; decide)
    | split

theorem fanRound_changes (s : State) : changesOnly [.thm] s (fanRound s) := by
  unfold fanRound
  repeat' first
    | simp -zeta -zetaUnused (disch := first | decide | (apply Or.inl; decide) | (apply Or.inr; apply And.intro rfl; first | rfl | exact And.intro rfl (And.intro rfl rfl))) only [changesOnly_set_thm]
    | with_reducible apply changesOnly_ite'
    | with_reducible assumption
    | with_reducible apply changesOnly_refl
    | split

theorem heaterSet_changes (s : State) (on : Bool) : changesOnly [.host, .pwr, .thm, .out] s (heaterSet s on) := by
  unfold heaterSet
  repeat' first
    | simp -zeta -zetaUnused (disch := first | decide | (apply Or.inl; decide) | (apply Or.inr; apply And.intro rfl; first | rfl | exact And.intro rfl (And.intro rfl rfl))) only [changesOnly_set_thm]
    | with_reducible apply changesOnly_ite'
    | with_reducible assumption
    | with_reducible apply changesOnly_refl
    | (with_reducible apply changesOnly_step; with_reducible apply post_changes; decide)
    | split

theorem heaterRound_changes (s : State) : changesOnly [.host, .pwr, .thm, .out] s (heaterRound s) := by
  unfold heaterRound
  repeat' first
    | (extract_lets +onlyGivenNames x; refine changesOnly_cut (x := x) ?_ ?_; (on_goal 1 => (unfold x; clear x)); (on_goal 2 => (intro hx; try clear_value x)))
    | (extract_lets +onlyGivenNames x; refine changesOnly_fn (x := x) ?_; (try dsimp -zeta only [x]); clear x)
    | (extract_lets +onlyGivenNames x; refine changesOnly_fn2 (x := x) ?_; (try dsimp -zeta only [x]); clear x)
    | (extract_lets +onlyGivenNames x; try clear_value x)
    | with_reducible apply changesOnly_ite'
    | with_reducible assumption
    | with_reducible apply changesOnly_refl
    | (with_reducible apply changesOnly_foldl'; on_goal 2 => intro y a hy)
    | (with_reducible apply changesOnly_step; with_reducible apply heaterSet_changes; decide)
    | split

theorem domQuench_changes (s : State) (d : ℕ) : changesOnly [.hmem, .syn, .host, .ldl, .lanes, .fh, .cru, .run, .tx, .rx, .pwr, .bias, .gen, .out] s (domQuench s d) := by
  unfold domQuench
  repeat' first
    | simp -zeta -zetaUnused (disch := first | decide | (apply Or.inl; decide) | (apply Or.inr; apply And.intro rfl; first | rfl | exact And.intro rfl (And.intro rfl rfl))) only [changesOnly_set_pwr]
    | (extract_lets +onlyGivenNames x; refine changesOnly_cut (x := x) ?_ ?_; (on_goal 1 => (unfold x; clear x)); (on_goal 2 => (intro hx; try clear_value x)))
    | (extract_lets +onlyGivenNames x; refine changesOnly_fn (x := x) ?_; (try dsimp -zeta only [x]); clear x)
    | (extract_lets +onlyGivenNames x; refine changesOnly_fn2 (x := x) ?_; (try dsimp -zeta only [x]); clear x)
    | (extract_lets +onlyGivenNames x; try clear_value x)
    | with_reducible apply changesOnly_ite'
    | with_reducible assumption
    | with_reducible apply changesOnly_refl
    | (with_reducible apply changesOnly_step; with_reducible apply domLeft_changes; decide)
    | (with_reducible apply changesOnly_step; with_reducible apply domLeave_changes; decide)
    | (with_reducible apply changesOnly_step; with_reducible apply postDom_changes; decide)
    | (with_reducible apply changesOnly_step; with_reducible apply setDom_changes; decide)
    | split

theorem quenchLatch_changes (s : State) (cause sensor : Nat) (temp : Int) : changesOnly [.hmem, .syn, .host, .ldl, .lanes, .fh, .cru, .run, .tx, .rx, .anl, .pwr, .hld, .thm, .bias, .hb, .gen, .out] s (quenchLatch s cause sensor temp) := by
  unfold quenchLatch
  repeat' first
    | simp -zeta -zetaUnused (disch := first | decide | (apply Or.inl; decide) | (apply Or.inr; apply And.intro rfl; first | rfl | exact And.intro rfl (And.intro rfl rfl))) only [changesOnly_set_thm_gen, changesOnly_set_bias]
    | (extract_lets +onlyGivenNames x; refine changesOnly_cut (x := x) ?_ ?_; (on_goal 1 => (unfold x; clear x)); (on_goal 2 => (intro hx; try clear_value x)))
    | (extract_lets +onlyGivenNames x; refine changesOnly_fn (x := x) ?_; (try dsimp -zeta only [x]); clear x)
    | (extract_lets +onlyGivenNames x; refine changesOnly_fn2 (x := x) ?_; (try dsimp -zeta only [x]); clear x)
    | (extract_lets +onlyGivenNames x; try clear_value x)
    | with_reducible apply changesOnly_ite'
    | with_reducible assumption
    | with_reducible apply changesOnly_refl
    | (with_reducible apply changesOnly_foldl'; on_goal 2 => intro y a hy)
    | (with_reducible apply changesOnly_fold1; on_goal 2 => intro y a hy)
    | (with_reducible apply changesOnly_step; with_reducible apply biasForce_changes; decide)
    | (with_reducible apply changesOnly_step; with_reducible apply linesIdle_changes; decide)
    | (with_reducible apply changesOnly_step; with_reducible apply domFinish_changes; decide)
    | (with_reducible apply changesOnly_step; with_reducible apply entryNext_changes; decide)
    | (with_reducible apply changesOnly_step; with_reducible apply domQuench_changes; decide)
    | (with_reducible apply changesOnly_step; with_reducible apply heaterSet_changes; decide)
    | (with_reducible apply changesOnly_step; with_reducible apply anlFail_changes; decide)
    | (with_reducible apply changesOnly_step; with_reducible apply hbCount_changes; decide)
    | (with_reducible apply changesOnly_step; with_reducible apply post_changes; decide)
    | (with_reducible apply changesOnly_step; with_reducible apply snapAsk_changes; decide)
    | (with_reducible apply changesOnly_step; with_reducible apply lgEvent_changes; decide)
    | split
    | dsimp -zeta only

theorem sensorBroken_changes (s : State) (i : ℕ) (why : ℕ) (c : ℕ) : changesOnly [.host, .pwr, .thm, .hb, .out] s (sensorBroken s i why c) := by
  unfold sensorBroken
  repeat' first
    | (extract_lets +onlyGivenNames x; refine changesOnly_cut (x := x) ?_ ?_; (on_goal 1 => (unfold x; clear x)); (on_goal 2 => (intro hx; try clear_value x)))
    | (extract_lets +onlyGivenNames x; refine changesOnly_fn (x := x) ?_; (try dsimp -zeta only [x]); clear x)
    | (extract_lets +onlyGivenNames x; refine changesOnly_fn2 (x := x) ?_; (try dsimp -zeta only [x]); clear x)
    | (extract_lets +onlyGivenNames x; try clear_value x)
    | with_reducible apply changesOnly_ite'
    | with_reducible assumption
    | with_reducible apply changesOnly_refl
    | (with_reducible apply changesOnly_step; with_reducible apply modSensor_changes; decide)
    | (with_reducible apply changesOnly_step; with_reducible apply post_changes; decide)
    | (with_reducible apply changesOnly_step; with_reducible apply noteFault_changes; decide)
    | (with_reducible apply changesOnly_step; with_reducible apply noteRetired_changes; decide)
    | split

theorem rangeCheck_changes (s : State) (i : ℕ) : changesOnly [.host, .pwr, .thm, .hb, .out] s (rangeCheck s i) := by
  unfold rangeCheck
  repeat' first
    | with_reducible apply changesOnly_ite'
    | with_reducible assumption
    | with_reducible apply changesOnly_refl
    | (with_reducible apply changesOnly_step; with_reducible apply sensorBroken_changes; decide)
    | split

theorem crossCheck_changes (pre : State) (s : State) (i : ℕ) : changesOnly [.host, .pwr, .thm, .hb, .out] s (crossCheck pre s i) := by
  unfold crossCheck
  repeat' first
    | (extract_lets +onlyGivenNames x; refine changesOnly_cut (x := x) ?_ ?_; (on_goal 1 => (unfold x; clear x)); (on_goal 2 => (intro hx; try clear_value x)))
    | (extract_lets +onlyGivenNames x; refine changesOnly_fn (x := x) ?_; (try dsimp -zeta only [x]); clear x)
    | (extract_lets +onlyGivenNames x; refine changesOnly_fn2 (x := x) ?_; (try dsimp -zeta only [x]); clear x)
    | (extract_lets +onlyGivenNames x; try clear_value x)
    | with_reducible apply changesOnly_ite'
    | with_reducible assumption
    | with_reducible apply changesOnly_refl
    | (with_reducible apply changesOnly_step; with_reducible apply modSensor_changes; decide)
    | (with_reducible apply changesOnly_step; with_reducible apply sensorBroken_changes; decide)
    | split

theorem readmit_changes (pre : State) (s : State) (i : ℕ) : changesOnly [.thm] s (readmit pre s i) := by
  unfold readmit
  repeat' first
    | (extract_lets +onlyGivenNames x; refine changesOnly_cut (x := x) ?_ ?_; (on_goal 1 => (unfold x; clear x)); (on_goal 2 => (intro hx; try clear_value x)))
    | (extract_lets +onlyGivenNames x; refine changesOnly_fn (x := x) ?_; (try dsimp -zeta only [x]); clear x)
    | (extract_lets +onlyGivenNames x; refine changesOnly_fn2 (x := x) ?_; (try dsimp -zeta only [x]); clear x)
    | (extract_lets +onlyGivenNames x; try clear_value x)
    | with_reducible apply changesOnly_ite'
    | with_reducible assumption
    | with_reducible apply changesOnly_refl
    | (with_reducible apply changesOnly_step; with_reducible apply modSensor_changes; decide)
    | split

theorem sensorRound_changes (s : State) : changesOnly [.host, .pwr, .thm, .hb, .out] s (sensorRound s) := by
  unfold sensorRound
  repeat' first
    | simp -zeta -zetaUnused (disch := first | decide | (apply Or.inl; decide) | (apply Or.inr; apply And.intro rfl; first | rfl | exact And.intro rfl (And.intro rfl rfl))) only [changesOnly_set_thm]
    | (extract_lets +onlyGivenNames x; refine changesOnly_cut (x := x) ?_ ?_; (on_goal 1 => (unfold x; clear x)); (on_goal 2 => (intro hx; try clear_value x)))
    | (extract_lets +onlyGivenNames x; try clear_value x)
    | with_reducible assumption
    | with_reducible apply changesOnly_refl
    | (with_reducible apply changesOnly_all; on_goal 2 => intro y a hy)
    | (with_reducible apply changesOnly_step; with_reducible apply forAll_changes; decide)
    | (with_reducible apply changesOnly_step; with_reducible apply rangeCheck_changes; decide)
    | (with_reducible apply changesOnly_step; with_reducible apply crossCheck_changes; decide)
    | (with_reducible apply changesOnly_step; with_reducible apply readmit_changes; decide)
    | split

theorem quenchRound_changes (s : State) : changesOnly [.hmem, .syn, .host, .ldl, .lanes, .fh, .cru, .run, .tx, .rx, .anl, .pwr, .hld, .thm, .bias, .hb, .gen, .out] s (quenchRound s) := by
  unfold quenchRound
  repeat' first
    | with_reducible apply changesOnly_ite'
    | with_reducible assumption
    | with_reducible apply changesOnly_refl
    | (with_reducible apply changesOnly_step; with_reducible apply quenchLatch_changes; decide)
    | split

theorem groupModel_changes (s : State) (g : ℕ) (x0 : Group) (ts : ℤ) (p0 : ℕ) (dc : ℕ) : changesOnly [.thm] s (groupModel s g x0 ts p0 dc).1 := by
  unfold groupModel
  repeat' first
    | (extract_lets +onlyGivenNames x; refine changesOnly_cut (x := x) ?_ ?_; (on_goal 1 => (unfold x; clear x)); (on_goal 2 => (intro hx; try clear_value x)))
    | (extract_lets +onlyGivenNames x; refine changesOnly_fn (x := x) ?_; (try dsimp -zeta only [x]); clear x)
    | (extract_lets +onlyGivenNames x; refine changesOnly_fn2 (x := x) ?_; (try dsimp -zeta only [x]); clear x)
    | (extract_lets +onlyGivenNames x; try clear_value x)
    | with_reducible assumption
    | with_reducible apply changesOnly_refl
    | (with_reducible apply changesOnly_step; with_reducible apply modGroup_changes; decide)
    | split
    | dsimp -zeta only

theorem setCeil_changes (s : State) (g : ℕ) (c : ℤ) : changesOnly [.tx, .thm] s (setCeil s g c) := by
  unfold setCeil
  repeat' first
    | simp -zeta -zetaUnused (disch := first | decide | (apply Or.inl; decide) | (apply Or.inr; apply And.intro rfl; first | rfl | exact And.intro rfl (And.intro rfl rfl))) only [changesOnly_set_tx]
    | with_reducible apply changesOnly_ite'
    | with_reducible assumption
    | with_reducible apply changesOnly_refl
    | (with_reducible apply changesOnly_step; with_reducible apply modGroup_changes; decide)
    | split

theorem groupCeil_changes (s : State) (g : ℕ) (ts : ℤ) (p0 : ℕ) (pred : ℤ) : changesOnly [.host, .tx, .pwr, .thm, .out] s (groupCeil s g ts p0 pred) := by
  unfold groupCeil
  repeat' first
    | (extract_lets +onlyGivenNames x; refine changesOnly_cut (x := x) ?_ ?_; (on_goal 1 => (unfold x; clear x)); (on_goal 2 => (intro hx; try clear_value x)))
    | (extract_lets +onlyGivenNames x; try clear_value x)
    | with_reducible apply changesOnly_ite'
    | with_reducible assumption
    | with_reducible apply changesOnly_refl
    | (with_reducible apply changesOnly_step; with_reducible apply post_changes; decide)
    | (with_reducible apply changesOnly_step; with_reducible apply setCeil_changes; decide)
    | split

theorem groupRound_changes (dc : ℕ) (s : State) (g : ℕ) : changesOnly [.host, .tx, .pwr, .thm, .out] s (groupRound dc s g) := by
  unfold groupRound
  repeat' first
    | (extract_lets +onlyGivenNames x; refine changesOnly_cut (x := x) ?_ ?_; (on_goal 1 => (unfold x; clear x)); (on_goal 2 => (intro hx; try clear_value x)))
    | (extract_lets +onlyGivenNames x; refine changesOnly_cut (x := x.1) ?_ ?_; (on_goal 1 => (unfold x; clear x)); (on_goal 2 => (intro hx; try clear_value x)))
    | (extract_lets +onlyGivenNames x; try clear_value x)
    | with_reducible apply changesOnly_ite'
    | with_reducible assumption
    | with_reducible apply changesOnly_refl
    | (with_reducible apply changesOnly_step; with_reducible apply setCeil_changes; decide)
    | (with_reducible apply changesOnly_step; with_reducible apply groupModel_changes; decide)
    | (with_reducible apply changesOnly_step; with_reducible apply groupCeil_changes; decide)
    | split
    | dsimp -zeta only

theorem compRound_changes (s : State) : changesOnly [.tx] s (compRound s) := by
  unfold compRound
  repeat' first
    | simp -zeta -zetaUnused (disch := first | decide | (apply Or.inl; decide) | (apply Or.inr; apply And.intro rfl; first | rfl | exact And.intro rfl (And.intro rfl rfl))) only [changesOnly_set_tx]
    | with_reducible assumption
    | with_reducible apply changesOnly_refl
    | split

theorem anlRound_changes (was : State) (s : State) : changesOnly [.anl] s (anlRound was s) := by
  unfold anlRound
  repeat' first
    | simp -zeta -zetaUnused (disch := first | decide | (apply Or.inl; decide) | (apply Or.inr; apply And.intro rfl; first | rfl | exact And.intro rfl (And.intro rfl rfl))) only [changesOnly_set_anl]
    | with_reducible apply changesOnly_ite'
    | with_reducible assumption
    | with_reducible apply changesOnly_refl
    | (with_reducible apply changesOnly_step; with_reducible apply anlTrigger_changes; decide)
    | split

theorem hbRound_changes (s : State) : changesOnly [.hb] s (hbRound s) := by
  unfold hbRound
  repeat' first
    | simp -zeta -zetaUnused (disch := first | decide | (apply Or.inl; decide) | (apply Or.inr; apply And.intro rfl; first | rfl | exact And.intro rfl (And.intro rfl rfl))) only [changesOnly_set_hb]
    | (extract_lets +onlyGivenNames x; refine changesOnly_cut (x := x) ?_ ?_; (on_goal 1 => (unfold x; clear x)); (on_goal 2 => (intro hx; try clear_value x)))
    | (extract_lets +onlyGivenNames x; refine changesOnly_letHb (x := x) ?_; (try dsimp -zeta only [x]); clear x)
    | (extract_lets +onlyGivenNames x; refine changesOnly_fn (x := x) ?_; (try dsimp -zeta only [x]); clear x)
    | (extract_lets +onlyGivenNames x; refine changesOnly_fn2 (x := x) ?_; (try dsimp -zeta only [x]); clear x)
    | (extract_lets +onlyGivenNames x; refine changesOnly_cut (x := x.1) ?_ ?_; (on_goal 1 => (unfold x; clear x)); (on_goal 2 => (intro hx; try clear_value x)))
    | (extract_lets +onlyGivenNames x; try clear_value x)
    | with_reducible apply changesOnly_ite'
    | with_reducible assumption
    | with_reducible apply changesOnly_refl
    | split
    | dsimp -zeta only

theorem hkRound_changes (s : State) : changesOnly [.hmem, .syn, .host, .ldl, .lanes, .fh, .cru, .run, .tx, .rx, .anl, .pwr, .hld, .thm, .bias, .hb, .gen, .out] s (hkRound s) := by
  unfold hkRound
  repeat' first
    | simp -zeta -zetaUnused (disch := first | decide | (apply Or.inl; decide) | (apply Or.inr; apply And.intro rfl; first | rfl | exact And.intro rfl (And.intro rfl rfl))) only [changesOnly_set_thm, changesOnly_set_tx_thm]
    | (extract_lets +onlyGivenNames x; refine changesOnly_cut (x := x) ?_ ?_; (on_goal 1 => (unfold x; clear x)); (on_goal 2 => (intro hx; try clear_value x)))
    | (extract_lets +onlyGivenNames x; refine changesOnly_fn (x := x) ?_; (try dsimp -zeta only [x]); clear x)
    | (extract_lets +onlyGivenNames x; refine changesOnly_fn2 (x := x) ?_; (try dsimp -zeta only [x]); clear x)
    | (extract_lets +onlyGivenNames x; try clear_value x)
    | with_reducible assumption
    | with_reducible apply changesOnly_refl
    | (with_reducible apply changesOnly_all; on_goal 2 => intro y a hy)
    | (with_reducible apply changesOnly_step; with_reducible apply quenchRound_changes; decide)
    | (with_reducible apply changesOnly_step; with_reducible apply sensorRound_changes; decide)
    | (with_reducible apply changesOnly_step; with_reducible apply forAll_changes; decide)
    | (with_reducible apply changesOnly_step; with_reducible apply groupRound_changes; decide)
    | (with_reducible apply changesOnly_step; with_reducible apply heaterRound_changes; decide)
    | (with_reducible apply changesOnly_step; with_reducible apply fanRound_changes; decide)
    | (with_reducible apply changesOnly_step; with_reducible apply anlRound_changes; decide)
    | (with_reducible apply changesOnly_step; with_reducible apply compRound_changes; decide)
    | (with_reducible apply changesOnly_step; with_reducible apply hbRound_changes; decide)
    | split

theorem thmCfgEffect_changes (s : State) (c : Cmd) : changesOnly [.host, .thm, .hka, .out] s (thmCfgEffect s c) := by
  unfold thmCfgEffect
  repeat' first
    | simp -zeta -zetaUnused (disch := first | decide | (apply Or.inl; decide) | (apply Or.inr; apply And.intro rfl; first | rfl | exact And.intro rfl (And.intro rfl rfl))) only [changesOnly_set_hka]
    | (extract_lets +onlyGivenNames x; refine changesOnly_cut (x := x) ?_ ?_; (on_goal 1 => (unfold x; clear x)); (on_goal 2 => (intro hx; try clear_value x)))
    | (extract_lets +onlyGivenNames x; refine changesOnly_fn (x := x) ?_; (try dsimp -zeta only [x]); clear x)
    | (extract_lets +onlyGivenNames x; refine changesOnly_fn2 (x := x) ?_; (try dsimp -zeta only [x]); clear x)
    | (extract_lets +onlyGivenNames x; try clear_value x)
    | with_reducible apply changesOnly_ite'
    | with_reducible assumption
    | with_reducible apply changesOnly_refl
    | (with_reducible apply changesOnly_bits; on_goal 2 => intro y a hy)
    | (with_reducible apply changesOnly_step; with_reducible apply forBits_changes; decide)
    | (with_reducible apply changesOnly_step; with_reducible apply modFan_changes; decide)
    | (with_reducible apply changesOnly_step; with_reducible apply hkNext_changes; decide)
    | (with_reducible apply changesOnly_step; with_reducible apply cmdDone_changes; decide)
    | split

theorem hostRetire_changes (s : State) (ty i : Nat) : changesOnly [.syn, .host, .lanes, .fh, .cru, .tx, .rx, .anl, .pwr, .thm, .hb, .out] s (hostRetire s ty i) := by
  unfold hostRetire
  repeat' first
    | with_reducible assumption
    | with_reducible apply changesOnly_refl
    | (with_reducible apply changesOnly_step; with_reducible apply retirePath_changes; decide)
    | (with_reducible apply changesOnly_step; with_reducible apply noteRetired_changes; decide)
    | (with_reducible apply changesOnly_step; with_reducible apply modPot_changes; decide)
    | (with_reducible apply changesOnly_step; with_reducible apply synceUpdate_changes; decide)
    | (with_reducible apply changesOnly_step; with_reducible apply laneRetire_changes; decide)
    | (with_reducible apply changesOnly_step; with_reducible apply synRetire_changes; decide)
    | (with_reducible apply changesOnly_step; with_reducible apply modSensor_changes; decide)
    | split

theorem hostRestore_changes (s : State) (ty : ℕ) (i : ℕ) : changesOnly [.syn, .host, .lanes, .cru, .tx, .pwr, .thm, .out] s (hostRestore s ty i) := by
  unfold hostRestore
  repeat' first
    | simp -zeta -zetaUnused (disch := first | decide | (apply Or.inl; decide) | (apply Or.inr; apply And.intro rfl; first | rfl | exact And.intro rfl (And.intro rfl rfl))) only [changesOnly_set_syn]
    | (extract_lets +onlyGivenNames x; refine changesOnly_cut (x := x) ?_ ?_; (on_goal 1 => (unfold x; clear x)); (on_goal 2 => (intro hx; try clear_value x)))
    | (extract_lets +onlyGivenNames x; refine changesOnly_fn (x := x) ?_; (try dsimp -zeta only [x]); clear x)
    | (extract_lets +onlyGivenNames x; refine changesOnly_fn2 (x := x) ?_; (try dsimp -zeta only [x]); clear x)
    | (extract_lets +onlyGivenNames x; try clear_value x)
    | with_reducible apply changesOnly_ite'
    | with_reducible assumption
    | with_reducible apply changesOnly_refl
    | (with_reducible apply changesOnly_step; with_reducible apply modTx_changes; decide)
    | (with_reducible apply changesOnly_step; with_reducible apply modPot_changes; decide)
    | (with_reducible apply changesOnly_step; with_reducible apply modLane_changes; decide)
    | (with_reducible apply changesOnly_step; with_reducible apply startAttempt_changes; decide)
    | (with_reducible apply changesOnly_step; with_reducible apply synSearch_changes; decide)
    | (with_reducible apply changesOnly_step; with_reducible apply modSynth_changes; decide)
    | (with_reducible apply changesOnly_step; with_reducible apply modSensor_changes; decide)
    | (with_reducible apply changesOnly_step; with_reducible apply postUnit_changes; decide)
    | split

theorem unitCtrlEffect_changes (s : State) (c : Cmd) : changesOnly [.syn, .host, .lanes, .fh, .cru, .tx, .rx, .anl, .pwr, .thm, .hb, .out] s (unitCtrlEffect s c) := by
  unfold unitCtrlEffect
  repeat' first
    | (extract_lets +onlyGivenNames x; refine changesOnly_cut (x := x) ?_ ?_; (on_goal 1 => (unfold x; clear x)); (on_goal 2 => (intro hx; try clear_value x)))
    | (extract_lets +onlyGivenNames x; refine changesOnly_fn (x := x) ?_; (try dsimp -zeta only [x]); clear x)
    | (extract_lets +onlyGivenNames x; refine changesOnly_fn2 (x := x) ?_; (try dsimp -zeta only [x]); clear x)
    | (extract_lets +onlyGivenNames x; try clear_value x)
    | with_reducible apply changesOnly_ite'
    | with_reducible assumption
    | with_reducible apply changesOnly_refl
    | (with_reducible apply changesOnly_foldl'; on_goal 2 => intro y a hy)
    | (with_reducible apply changesOnly_step; with_reducible apply hostRetire_changes; decide)
    | (with_reducible apply changesOnly_step; with_reducible apply hostRestore_changes; decide)
    | (with_reducible apply changesOnly_step; with_reducible apply cmdDone_changes; decide)
    | split

theorem pathBack_changes (s : State) (p : Nat) : changesOnly [.tx, .rx, .anl] s (pathBack s p) := by
  unfold pathBack
  repeat' first
    | (extract_lets +onlyGivenNames x; refine changesOnly_cut (x := x) ?_ ?_; (on_goal 1 => (unfold x; clear x)); (on_goal 2 => (intro hx; try clear_value x)))
    | (extract_lets +onlyGivenNames x; refine changesOnly_fn (x := x) ?_; (try dsimp -zeta only [x]); clear x)
    | (extract_lets +onlyGivenNames x; refine changesOnly_fn2 (x := x) ?_; (try dsimp -zeta only [x]); clear x)
    | (extract_lets +onlyGivenNames x; try clear_value x)
    | with_reducible assumption
    | with_reducible apply changesOnly_refl
    | (with_reducible apply changesOnly_step; with_reducible apply anlTrigger_changes; decide)
    | (with_reducible apply changesOnly_step; with_reducible apply syncReset_changes; decide)
    | (with_reducible apply changesOnly_step; with_reducible apply modTx_changes; decide)
    | split

theorem pathsSlot_changes (s : State) : changesOnly [.host, .cru, .tx, .rx, .anl, .pwr, .bias, .out] s (pathsSlot s) := by
  unfold pathsSlot
  repeat' first
    | simp -zeta -zetaUnused (disch := first | decide | (apply Or.inl; decide) | (apply Or.inr; apply And.intro rfl; first | rfl | exact And.intro rfl (And.intro rfl rfl))) only [changesOnly_set_cru]
    | (extract_lets +onlyGivenNames x; refine changesOnly_cut (x := x) ?_ ?_; (on_goal 1 => (unfold x; clear x)); (on_goal 2 => (intro hx; try clear_value x)))
    | (extract_lets +onlyGivenNames x; refine changesOnly_fn (x := x) ?_; (try dsimp -zeta only [x]); clear x)
    | (extract_lets +onlyGivenNames x; refine changesOnly_fn2 (x := x) ?_; (try dsimp -zeta only [x]); clear x)
    | (extract_lets +onlyGivenNames x; try clear_value x)
    | with_reducible apply changesOnly_ite'
    | with_reducible assumption
    | with_reducible apply changesOnly_refl
    | (with_reducible apply changesOnly_foldl'; on_goal 2 => intro y a hy)
    | (with_reducible apply changesOnly_fold1; on_goal 2 => intro y a hy)
    | (with_reducible apply changesOnly_step; with_reducible apply modTx_changes; decide)
    | (with_reducible apply changesOnly_step; with_reducible apply pathBack_changes; decide)
    | (with_reducible apply changesOnly_step; with_reducible apply biasForce_changes; decide)
    | (with_reducible apply changesOnly_step; with_reducible apply post_changes; decide)
    | split
    | dsimp -zeta only

theorem flkEvent_changes (s : State) (what : ℕ) (code : ℕ) (inst : ℕ) : changesOnly [.host, .pwr, .out] s (flkEvent s what code inst) := by
  unfold flkEvent
  repeat' first
    | with_reducible assumption
    | with_reducible apply changesOnly_refl
    | (with_reducible apply changesOnly_step; with_reducible apply post_changes; decide)
    | split

theorem conflictSet_changes (s : State) (code : ℕ) (id : ℕ) : changesOnly [.mod, .host, .fh, .run, .pwr, .out] s (conflictSet s code id) := by
  unfold conflictSet
  repeat' first
    | simp -zeta -zetaUnused (disch := first | decide | (apply Or.inl; decide) | (apply Or.inr; apply And.intro rfl; first | rfl | exact And.intro rfl (And.intro rfl rfl))) only [changesOnly_set_run]
    | (extract_lets +onlyGivenNames x; refine changesOnly_cut (x := x) ?_ ?_; (on_goal 1 => (unfold x; clear x)); (on_goal 2 => (intro hx; try clear_value x)))
    | (extract_lets +onlyGivenNames x; refine changesOnly_fn (x := x) ?_; (try dsimp -zeta only [x]); clear x)
    | (extract_lets +onlyGivenNames x; refine changesOnly_fn2 (x := x) ?_; (try dsimp -zeta only [x]); clear x)
    | (extract_lets +onlyGivenNames x; try clear_value x)
    | with_reducible apply changesOnly_ite'
    | with_reducible assumption
    | with_reducible apply changesOnly_refl
    | (with_reducible apply changesOnly_foldl'; on_goal 2 => intro y a hy)
    | (with_reducible apply changesOnly_step; with_reducible apply flkDeny_changes; decide)
    | (with_reducible apply changesOnly_step; with_reducible apply reqWithdraw_changes; decide)
    | (with_reducible apply changesOnly_step; with_reducible apply flkEvent_changes; decide)
    | split

theorem memberHeard_changes (s : State) (id : ℕ) (pos : ℕ) : changesOnly [.mod, .host, .fh, .run, .pwr, .out] s (memberHeard s id pos) := by
  unfold memberHeard
  repeat' first
    | simp -zeta -zetaUnused (disch := first | decide | (apply Or.inl; decide) | (apply Or.inr; apply And.intro rfl; first | rfl | exact And.intro rfl (And.intro rfl rfl))) only [changesOnly_set_run]
    | (extract_lets +onlyGivenNames x; refine changesOnly_cut (x := x) ?_ ?_; (on_goal 1 => (unfold x; clear x)); (on_goal 2 => (intro hx; try clear_value x)))
    | (extract_lets +onlyGivenNames x; refine changesOnly_fn (x := x) ?_; (try dsimp -zeta only [x]); clear x)
    | (extract_lets +onlyGivenNames x; refine changesOnly_fn2 (x := x) ?_; (try dsimp -zeta only [x]); clear x)
    | (extract_lets +onlyGivenNames x; refine changesOnly_cut (x := x.1) ?_ ?_; (on_goal 1 => (unfold x; clear x)); (on_goal 2 => (intro hx; try clear_value x)))
    | (extract_lets +onlyGivenNames x; try clear_value x)
    | with_reducible apply changesOnly_ite'
    | with_reducible assumption
    | with_reducible apply changesOnly_refl
    | (with_reducible apply changesOnly_step; with_reducible apply conflictSet_changes; decide)
    | split
    | dsimp -zeta only

theorem positionSet_changes (s : State) (p0 : ℕ) : changesOnly [.run] s (positionSet s p0) := by
  unfold positionSet
  repeat' first
    | simp -zeta -zetaUnused (disch := first | decide | (apply Or.inl; decide) | (apply Or.inr; apply And.intro rfl; first | rfl | exact And.intro rfl (And.intro rfl rfl))) only [changesOnly_set_run]
    | with_reducible apply changesOnly_ite'
    | with_reducible assumption
    | with_reducible apply changesOnly_refl
    | split
    | dsimp -zeta only

theorem alignStart_changes (s : State) : changesOnly [.mod, .host, .fh, .run, .out] s (alignStart s) := by
  unfold alignStart
  repeat' first
    | simp -zeta -zetaUnused (disch := first | decide | (apply Or.inl; decide) | (apply Or.inr; apply And.intro rfl; first | rfl | exact And.intro rfl (And.intro rfl rfl))) only [changesOnly_set_run]
    | with_reducible apply changesOnly_ite'
    | with_reducible assumption
    | with_reducible apply changesOnly_refl
    | (with_reducible apply changesOnly_step; with_reducible apply flkPump_changes; decide)
    | split

theorem chainUpdate_changes (s : State) : changesOnly [.mod, .host, .fh, .run, .pwr, .out] s (chainUpdate s) := by
  unfold chainUpdate
  repeat' first
    | simp -zeta -zetaUnused (disch := first | decide | (apply Or.inl; decide) | (apply Or.inr; apply And.intro rfl; first | rfl | exact And.intro rfl (And.intro rfl rfl))) only [changesOnly_set_run]
    | (extract_lets +onlyGivenNames x; refine changesOnly_cut (x := x) ?_ ?_; (on_goal 1 => (unfold x; clear x)); (on_goal 2 => (intro hx; try clear_value x)))
    | (extract_lets +onlyGivenNames x; refine changesOnly_fn (x := x) ?_; (try dsimp -zeta only [x]); clear x)
    | (extract_lets +onlyGivenNames x; refine changesOnly_fn2 (x := x) ?_; (try dsimp -zeta only [x]); clear x)
    | (extract_lets +onlyGivenNames x; try clear_value x)
    | with_reducible apply changesOnly_ite'
    | with_reducible assumption
    | with_reducible apply changesOnly_refl
    | (with_reducible apply changesOnly_foldl'; on_goal 2 => intro y a hy)
    | (with_reducible apply changesOnly_fold1; on_goal 2 => intro y a hy)
    | (with_reducible apply changesOnly_step; with_reducible apply positionSet_changes; decide)
    | (with_reducible apply changesOnly_step; with_reducible apply memberHeard_changes; decide)
    | (with_reducible apply changesOnly_step; with_reducible apply alignStart_changes; decide)
    | split
    | dsimp -zeta only

theorem beats_changes (s : State) : changesOnly [.fh, .run, .out] s (beats s) := by
  unfold beats
  repeat' first
    | with_reducible assumption
    | with_reducible apply changesOnly_refl
    | (with_reducible apply changesOnly_foldl'; on_goal 2 => intro y a hy)
    | (with_reducible apply changesOnly_bits; on_goal 2 => intro y a hy)
    | (with_reducible apply changesOnly_step; with_reducible apply forBits_changes; decide)
    | (with_reducible apply changesOnly_step; with_reducible apply sendPour_changes; decide)
    | split

theorem beatTake_changes (s : State) (d : ℕ) (bs : List Byte) : changesOnly [.mod, .host, .fh, .run, .pwr, .out] s (beatTake s d bs) := by
  unfold beatTake
  repeat' first
    | simp -zeta -zetaUnused (disch := first | decide | (apply Or.inl; decide) | (apply Or.inr; apply And.intro rfl; first | rfl | exact And.intro rfl (And.intro rfl rfl))) only [changesOnly_set_run]
    | (extract_lets +onlyGivenNames x; refine changesOnly_cut (x := x) ?_ ?_; (on_goal 1 => (unfold x; clear x)); (on_goal 2 => (intro hx; try clear_value x)))
    | (extract_lets +onlyGivenNames x; refine changesOnly_fn (x := x) ?_; (try dsimp -zeta only [x]); clear x)
    | (extract_lets +onlyGivenNames x; refine changesOnly_fn2 (x := x) ?_; (try dsimp -zeta only [x]); clear x)
    | (extract_lets +onlyGivenNames x; try clear_value x)
    | with_reducible apply changesOnly_ite'
    | with_reducible assumption
    | with_reducible apply changesOnly_refl
    | (with_reducible apply changesOnly_step; with_reducible apply modSide_changes; decide)
    | (with_reducible apply changesOnly_step; with_reducible apply conflictSet_changes; decide)
    | (with_reducible apply changesOnly_step; with_reducible apply chainUpdate_changes; decide)
    | split

theorem flkSuspend_changes (s : State) : changesOnly [.tb, .host, .fh, .run, .pwr, .out] s (flkSuspend s) := by
  unfold flkSuspend
  repeat' first
    | simp -zeta -zetaUnused (disch := first | decide | (apply Or.inl; decide) | (apply Or.inr; apply And.intro rfl; first | rfl | exact And.intro rfl (And.intro rfl rfl))) only [changesOnly_set_run, changesOnly_set_tb]
    | (extract_lets +onlyGivenNames x; refine changesOnly_cut (x := x) ?_ ?_; (on_goal 1 => (unfold x; clear x)); (on_goal 2 => (intro hx; try clear_value x)))
    | (extract_lets +onlyGivenNames x; refine changesOnly_fn (x := x) ?_; (try dsimp -zeta only [x]); clear x)
    | (extract_lets +onlyGivenNames x; refine changesOnly_fn2 (x := x) ?_; (try dsimp -zeta only [x]); clear x)
    | (extract_lets +onlyGivenNames x; try clear_value x)
    | with_reducible apply changesOnly_ite'
    | with_reducible assumption
    | with_reducible apply changesOnly_refl
    | (with_reducible apply changesOnly_all; on_goal 2 => intro y a hy)
    | (with_reducible apply changesOnly_step; with_reducible apply forAll_changes; decide)
    | (with_reducible apply changesOnly_step; with_reducible apply dropUplink_changes; decide)
    | (with_reducible apply changesOnly_step; with_reducible apply dropCtrl_changes; decide)
    | (with_reducible apply changesOnly_step; with_reducible apply dropHeld_changes; decide)
    | (with_reducible apply changesOnly_step; with_reducible apply flkEvent_changes; decide)
    | split

theorem suspendSymbol_changes (s : State) : changesOnly [.tb, .host, .fh, .run, .pwr, .out] s (suspendSymbol s) := by
  unfold suspendSymbol
  repeat' first
    | simp -zeta -zetaUnused (disch := first | decide | (apply Or.inl; decide) | (apply Or.inr; apply And.intro rfl; first | rfl | exact And.intro rfl (And.intro rfl rfl))) only [changesOnly_set_run]
    | with_reducible apply changesOnly_ite'
    | with_reducible assumption
    | with_reducible apply changesOnly_refl
    | (with_reducible apply changesOnly_step; with_reducible apply flkSuspend_changes; decide)
    | split

theorem sendTable_changes (s : State) (t : Table) : changesOnly [.fh, .run, .out] s (sendTable s t) := by
  unfold sendTable
  repeat' first
    | with_reducible assumption
    | with_reducible apply changesOnly_refl
    | (with_reducible apply changesOnly_foldl'; on_goal 2 => intro y a hy)
    | (with_reducible apply changesOnly_fold1; on_goal 2 => intro y a hy)
    | (with_reducible apply changesOnly_step; with_reducible apply sendCtl_changes; decide)
    | split
    | dsimp -zeta only

theorem sendTables_changes (s : State) (n : ℕ) : changesOnly [.fh, .run, .out] s (sendTables s n) := by
  unfold sendTables
  repeat' first
    | with_reducible assumption
    | with_reducible apply changesOnly_refl
    | (with_reducible apply changesOnly_foldl'; on_goal 2 => intro y a hy)
    | (with_reducible apply changesOnly_step; with_reducible apply sendTable_changes; decide)
    | split

theorem recompute_changes (s : State) (n : ℕ) (revised : Bool) : changesOnly [.fh, .run, .out] s (recompute s n revised) := by
  unfold recompute
  repeat' first
    | simp -zeta -zetaUnused (disch := first | decide | (apply Or.inl; decide) | (apply Or.inr; apply And.intro rfl; first | rfl | exact And.intro rfl (And.intro rfl rfl))) only [changesOnly_set_run]
    | (extract_lets +onlyGivenNames x; refine changesOnly_cut (x := x) ?_ ?_; (on_goal 1 => (unfold x; clear x)); (on_goal 2 => (intro hx; try clear_value x)))
    | (extract_lets +onlyGivenNames x; refine changesOnly_fn (x := x) ?_; (try dsimp -zeta only [x]); clear x)
    | (extract_lets +onlyGivenNames x; refine changesOnly_fn2 (x := x) ?_; (try dsimp -zeta only [x]); clear x)
    | (extract_lets +onlyGivenNames x; try clear_value x)
    | with_reducible apply changesOnly_ite'
    | with_reducible assumption
    | with_reducible apply changesOnly_refl
    | (with_reducible apply changesOnly_step; with_reducible apply computeTables_changes; decide)
    | (with_reducible apply changesOnly_step; with_reducible apply sendTables_changes; decide)
    | split

theorem membersLost_changes (s : State) (gone : List Nat) : changesOnly [.host, .fh, .run, .pwr, .out] s (membersLost s gone) := by
  unfold membersLost
  repeat' first
    | simp -zeta -zetaUnused (disch := first | decide | (apply Or.inl; decide) | (apply Or.inr; apply And.intro rfl; first | rfl | exact And.intro rfl (And.intro rfl rfl))) only [changesOnly_set_run]
    | (extract_lets +onlyGivenNames x; refine changesOnly_cut (x := x) ?_ ?_; (on_goal 1 => (unfold x; clear x)); (on_goal 2 => (intro hx; try clear_value x)))
    | (extract_lets +onlyGivenNames x; refine changesOnly_fn (x := x) ?_; (try dsimp -zeta only [x]); clear x)
    | (extract_lets +onlyGivenNames x; refine changesOnly_fn2 (x := x) ?_; (try dsimp -zeta only [x]); clear x)
    | (extract_lets +onlyGivenNames x; try clear_value x)
    | with_reducible apply changesOnly_ite'
    | with_reducible assumption
    | with_reducible apply changesOnly_refl
    | (with_reducible apply changesOnly_foldl'; on_goal 2 => intro y a hy)
    | (with_reducible apply changesOnly_fold1; on_goal 2 => intro y a hy)
    | (with_reducible apply changesOnly_step; with_reducible apply flkEvent_changes; decide)
    | (with_reducible apply changesOnly_step; with_reducible apply recompute_changes; decide)
    | split
    | dsimp -zeta only

theorem sideLost_changes (s : State) (pos : ℕ) (d : ℕ) : changesOnly [.host, .fh, .run, .pwr, .out] s (sideLost s pos d) := by
  unfold sideLost
  repeat' first
    | with_reducible apply changesOnly_ite'
    | with_reducible assumption
    | with_reducible apply changesOnly_refl
    | (with_reducible apply changesOnly_step; with_reducible apply membersLost_changes; decide)
    | split

theorem linkSymbol_changes (s : State) (d : ℕ) : changesOnly [.host, .fh, .run, .pwr, .out] s (linkSymbol s d) := by
  unfold linkSymbol
  repeat' first
    | (extract_lets +onlyGivenNames x; refine changesOnly_cut (x := x) ?_ ?_; (on_goal 1 => (unfold x; clear x)); (on_goal 2 => (intro hx; try clear_value x)))
    | (extract_lets +onlyGivenNames x; refine changesOnly_fn (x := x) ?_; (try dsimp -zeta only [x]); clear x)
    | (extract_lets +onlyGivenNames x; refine changesOnly_fn2 (x := x) ?_; (try dsimp -zeta only [x]); clear x)
    | (extract_lets +onlyGivenNames x; try clear_value x)
    | with_reducible apply changesOnly_ite'
    | with_reducible assumption
    | with_reducible apply changesOnly_refl
    | (with_reducible apply changesOnly_step; with_reducible apply modSide_changes; decide)
    | (with_reducible apply changesOnly_step; with_reducible apply sideLost_changes; decide)
    | (with_reducible apply changesOnly_step; with_reducible apply toMaster_changes; decide)
    | split

theorem sendReady_changes (s : State) : changesOnly [.fh, .run, .out] s (sendReady s) := by
  unfold sendReady
  repeat' first
    | simp -zeta -zetaUnused (disch := first | decide | (apply Or.inl; decide) | (apply Or.inr; apply And.intro rfl; first | rfl | exact And.intro rfl (And.intro rfl rfl))) only [changesOnly_set_run]
    | with_reducible assumption
    | with_reducible apply changesOnly_refl
    | (with_reducible apply changesOnly_step; with_reducible apply toMaster_changes; decide)
    | split

theorem resSymbol_changes (s : State) : changesOnly [.fh, .run, .out] s (resSymbol s) := by
  unfold resSymbol
  repeat' first
    | simp -zeta -zetaUnused (disch := first | decide | (apply Or.inl; decide) | (apply Or.inr; apply And.intro rfl; first | rfl | exact And.intro rfl (And.intro rfl rfl))) only [changesOnly_set_run]
    | with_reducible apply changesOnly_ite'
    | with_reducible assumption
    | with_reducible apply changesOnly_refl
    | (with_reducible apply changesOnly_step; with_reducible apply toMaster_changes; decide)
    | split

theorem anlAsked_changes (s : State) (id side : Nat) : changesOnly [.run] s (anlAsked s id side) := by
  unfold anlAsked
  repeat' first
    | simp -zeta -zetaUnused (disch := first | decide | (apply Or.inl; decide) | (apply Or.inr; apply And.intro rfl; first | rfl | exact And.intro rfl (And.intro rfl rfl))) only [changesOnly_set_run]
    | with_reducible apply changesOnly_ite'
    | with_reducible assumption
    | with_reducible apply changesOnly_refl
    | split
    | dsimp -zeta only

theorem anlAskSymbol_changes (s : State) : changesOnly [.fh, .run, .anl, .out] s (anlAskSymbol s) := by
  unfold anlAskSymbol
  repeat' first
    | simp -zeta -zetaUnused (disch := first | decide | (apply Or.inl; decide) | (apply Or.inr; apply And.intro rfl; first | rfl | exact And.intro rfl (And.intro rfl rfl))) only [changesOnly_set_anl]
    | (extract_lets +onlyGivenNames x; refine changesOnly_cut (x := x) ?_ ?_; (on_goal 1 => (unfold x; clear x)); (on_goal 2 => (intro hx; try clear_value x)))
    | (extract_lets +onlyGivenNames x; try clear_value x)
    | with_reducible apply changesOnly_ite'
    | with_reducible assumption
    | with_reducible apply changesOnly_refl
    | (with_reducible apply changesOnly_step; with_reducible apply anlAsked_changes; decide)
    | (with_reducible apply changesOnly_step; with_reducible apply toMaster_changes; decide)
    | split

theorem backSymbol_changes (s : State) : changesOnly [.fh, .run, .out] s (backSymbol s) := by
  unfold backSymbol
  repeat' first
    | (extract_lets +onlyGivenNames x; refine changesOnly_cut (x := x) ?_ ?_; (on_goal 1 => (unfold x; clear x)); (on_goal 2 => (intro hx; try clear_value x)))
    | (extract_lets +onlyGivenNames x; refine changesOnly_fn (x := x) ?_; (try dsimp -zeta only [x]); clear x)
    | (extract_lets +onlyGivenNames x; refine changesOnly_fn2 (x := x) ?_; (try dsimp -zeta only [x]); clear x)
    | (extract_lets +onlyGivenNames x; try clear_value x)
    | with_reducible apply changesOnly_ite'
    | with_reducible assumption
    | with_reducible apply changesOnly_refl
    | (with_reducible apply changesOnly_step; with_reducible apply setReqs_changes; decide)
    | (with_reducible apply changesOnly_step; with_reducible apply sendReady_changes; decide)
    | (with_reducible apply changesOnly_step; with_reducible apply outward_changes; decide)
    | split

theorem alignTake_changes (s : State) (d lane phase : Nat) (bs : List Byte) : changesOnly [.fh, .run, .out] s (alignTake s d lane phase bs) := by
  unfold alignTake
  repeat' first
    | (extract_lets +onlyGivenNames x; refine changesOnly_cut (x := x) ?_ ?_; (on_goal 1 => (unfold x; clear x)); (on_goal 2 => (intro hx; try clear_value x)))
    | (extract_lets +onlyGivenNames x; refine changesOnly_fn (x := x) ?_; (try dsimp -zeta only [x]); clear x)
    | (extract_lets +onlyGivenNames x; refine changesOnly_fn2 (x := x) ?_; (try dsimp -zeta only [x]); clear x)
    | (extract_lets +onlyGivenNames x; try clear_value x)
    | with_reducible apply changesOnly_ite'
    | with_reducible assumption
    | with_reducible apply changesOnly_refl
    | (with_reducible apply changesOnly_step; with_reducible apply sendPour_changes; decide)
    | (with_reducible apply changesOnly_step; with_reducible apply modSide_changes; decide)
    | split
    | dsimp -zeta only

theorem alignAct_changes (s : State) (d : ℕ) (th : ℤ) : changesOnly [.tb, .mod, .host, .fh, .run, .pwr, .out] s (alignAct s d th) := by
  unfold alignAct
  repeat' first
    | simp -zeta -zetaUnused (disch := first | decide | (apply Or.inl; decide) | (apply Or.inr; apply And.intro rfl; first | rfl | exact And.intro rfl (And.intro rfl rfl))) only [changesOnly_set_tb_run, changesOnly_set_tb, changesOnly_set_run]
    | (extract_lets +onlyGivenNames x; refine changesOnly_cut (x := x) ?_ ?_; (on_goal 1 => (unfold x; clear x)); (on_goal 2 => (intro hx; try clear_value x)))
    | (extract_lets +onlyGivenNames x; try clear_value x)
    | with_reducible apply changesOnly_ite'
    | with_reducible assumption
    | with_reducible apply changesOnly_refl
    | (with_reducible apply changesOnly_step; with_reducible apply flkPump_changes; decide)
    | (with_reducible apply changesOnly_step; with_reducible apply sendReady_changes; decide)
    | (with_reducible apply changesOnly_step; with_reducible apply post_changes; decide)
    | (with_reducible apply changesOnly_step; with_reducible apply flkSuspend_changes; decide)
    | split

theorem flaskFrame_changes (s : State) : changesOnly [.tb, .mod, .host, .fh, .run, .pwr, .out] s (flaskFrame s) := by
  unfold flaskFrame
  repeat' first
    | simp -zeta -zetaUnused (disch := first | decide | (apply Or.inl; decide) | (apply Or.inr; apply And.intro rfl; first | rfl | exact And.intro rfl (And.intro rfl rfl))) only [changesOnly_set_run]
    | (extract_lets +onlyGivenNames x; refine changesOnly_cut (x := x) ?_ ?_; (on_goal 1 => (unfold x; clear x)); (on_goal 2 => (intro hx; try clear_value x)))
    | (extract_lets +onlyGivenNames x; refine changesOnly_fn (x := x) ?_; (try dsimp -zeta only [x]); clear x)
    | (extract_lets +onlyGivenNames x; refine changesOnly_fn2 (x := x) ?_; (try dsimp -zeta only [x]); clear x)
    | (extract_lets +onlyGivenNames x; try clear_value x)
    | with_reducible apply changesOnly_ite'
    | with_reducible assumption
    | with_reducible apply changesOnly_refl
    | (with_reducible apply changesOnly_bits; on_goal 2 => intro y a hy)
    | (with_reducible apply changesOnly_step; with_reducible apply alignAct_changes; decide)
    | (with_reducible apply changesOnly_step; with_reducible apply modSide_changes; decide)
    | (with_reducible apply changesOnly_step; with_reducible apply sendPour_changes; decide)
    | split

theorem joinSend_changes (s : State) (id since : Nat) : changesOnly [.fh, .run, .out] s (joinSend s id since) := by
  unfold joinSend
  repeat' first
    | (extract_lets +onlyGivenNames x; refine changesOnly_cut (x := x) ?_ ?_; (on_goal 1 => (unfold x; clear x)); (on_goal 2 => (intro hx; try clear_value x)))
    | (extract_lets +onlyGivenNames x; try clear_value x)
    | with_reducible assumption
    | with_reducible apply changesOnly_refl
    | (with_reducible apply changesOnly_step; with_reducible apply outward_changes; decide)
    | split

theorem serviceStart_changes (s : State) (asked : BitVec 16) : changesOnly [.host, .fh, .run, .pwr, .out] s (serviceStart s asked) := by
  unfold serviceStart
  repeat' first
    | simp -zeta -zetaUnused (disch := first | decide | (apply Or.inl; decide) | (apply Or.inr; apply And.intro rfl; first | rfl | exact And.intro rfl (And.intro rfl rfl))) only [changesOnly_set_run]
    | (extract_lets +onlyGivenNames x; refine changesOnly_cut (x := x) ?_ ?_; (on_goal 1 => (unfold x; clear x)); (on_goal 2 => (intro hx; try clear_value x)))
    | (extract_lets +onlyGivenNames x; refine changesOnly_fn (x := x) ?_; (try dsimp -zeta only [x]); clear x)
    | (extract_lets +onlyGivenNames x; refine changesOnly_fn2 (x := x) ?_; (try dsimp -zeta only [x]); clear x)
    | (extract_lets +onlyGivenNames x; try clear_value x)
    | with_reducible apply changesOnly_ite'
    | with_reducible assumption
    | with_reducible apply changesOnly_refl
    | (with_reducible apply changesOnly_foldl'; on_goal 2 => intro y a hy)
    | (with_reducible apply changesOnly_fold1; on_goal 2 => intro y a hy)
    | (with_reducible apply changesOnly_step; with_reducible apply flkEvent_changes; decide)
    | (with_reducible apply changesOnly_step; with_reducible apply joinSend_changes; decide)
    | split
    | dsimp -zeta only

theorem reqDone_changes (s : State) (q : FlkReq) (k : ℕ) : changesOnly [.mod, .host, .lanes, .fh, .run, .pwr, .out] s (reqDone s q k) := by
  unfold reqDone
  repeat' first
    | (extract_lets +onlyGivenNames x; refine changesOnly_cut (x := x) ?_ ?_; (on_goal 1 => (unfold x; clear x)); (on_goal 2 => (intro hx; try clear_value x)))
    | (extract_lets +onlyGivenNames x; try clear_value x)
    | with_reducible assumption
    | with_reducible apply changesOnly_refl
    | (with_reducible apply changesOnly_step; with_reducible apply ltsApply_changes; decide)
    | (with_reducible apply changesOnly_step; with_reducible apply cmdDone_changes; decide)
    | split

theorem hldAborts_changes (s : State) (c new : Nat) : changesOnly [.host, .anl, .pwr, .hb, .out] s (hldAborts s c new) := by
  unfold hldAborts
  repeat' first
    | with_reducible apply changesOnly_ite'
    | with_reducible assumption
    | with_reducible apply changesOnly_refl
    | (with_reducible apply changesOnly_step; with_reducible apply anlFail_changes; decide)
    | split

theorem reqApply_changes (k : Nat) (pre s : State) (q : FlkReq) : changesOnly [.mod, .host, .lanes, .fh, .cru, .run, .anl, .pwr, .hld, .hb, .gen, .out] s (reqApply k pre s q) := by
  unfold reqApply
  repeat' first
    | (extract_lets +onlyGivenNames x; refine changesOnly_cut (x := x) ?_ ?_; (on_goal 1 => (unfold x; clear x)); (on_goal 2 => (intro hx; try clear_value x)))
    | (extract_lets +onlyGivenNames x; refine changesOnly_fn (x := x) ?_; (try dsimp -zeta only [x]); clear x)
    | (extract_lets +onlyGivenNames x; refine changesOnly_fn2 (x := x) ?_; (try dsimp -zeta only [x]); clear x)
    | (extract_lets +onlyGivenNames x; try clear_value x)
    | with_reducible apply changesOnly_ite'
    | with_reducible assumption
    | with_reducible apply changesOnly_refl
    | (with_reducible apply changesOnly_bits; on_goal 2 => intro y a hy)
    | (with_reducible apply changesOnly_step; with_reducible apply outward_changes; decide)
    | (with_reducible apply changesOnly_step; with_reducible apply reqRefuse_changes; decide)
    | (with_reducible apply changesOnly_step; with_reducible apply setReqs_changes; decide)
    | (with_reducible apply changesOnly_step; with_reducible apply applySet_changes; decide)
    | (with_reducible apply changesOnly_step; with_reducible apply hldAborts_changes; decide)
    | (with_reducible apply changesOnly_step; with_reducible apply serviceStart_changes; decide)
    | (with_reducible apply changesOnly_step; with_reducible apply reqDone_changes; decide)
    | split

theorem reqMet_changes (k : ℕ) (s : State) (q : FlkReq) : changesOnly [.mod, .host, .lanes, .fh, .cru, .run, .anl, .pwr, .hld, .hb, .gen, .out] s (reqMet k s q) := by
  unfold reqMet
  repeat' first
    | (extract_lets +onlyGivenNames x; refine changesOnly_cut (x := x) ?_ ?_; (on_goal 1 => (unfold x; clear x)); (on_goal 2 => (intro hx; try clear_value x)))
    | (extract_lets +onlyGivenNames x; refine changesOnly_fn (x := x) ?_; (try dsimp -zeta only [x]); clear x)
    | (extract_lets +onlyGivenNames x; refine changesOnly_fn2 (x := x) ?_; (try dsimp -zeta only [x]); clear x)
    | (extract_lets +onlyGivenNames x; try clear_value x)
    | with_reducible apply changesOnly_ite'
    | with_reducible assumption
    | with_reducible apply changesOnly_refl
    | (with_reducible apply changesOnly_bits; on_goal 2 => intro y a hy)
    | (with_reducible apply changesOnly_step; with_reducible apply reqWithdraw_changes; decide)
    | (with_reducible apply changesOnly_step; with_reducible apply setReqs_changes; decide)
    | (with_reducible apply changesOnly_step; with_reducible apply reqDone_changes; decide)
    | (with_reducible apply changesOnly_step; with_reducible apply forBits_changes; decide)
    | (with_reducible apply changesOnly_step; with_reducible apply applySet_changes; decide)
    | split

theorem joinSlot_changes (k : ℕ) (s : State) : changesOnly [.host, .run, .pwr, .out] s (joinSlot k s) := by
  unfold joinSlot
  repeat' first
    | simp -zeta -zetaUnused (disch := first | decide | (apply Or.inl; decide) | (apply Or.inr; apply And.intro rfl; first | rfl | exact And.intro rfl (And.intro rfl rfl))) only [changesOnly_set_run]
    | (extract_lets +onlyGivenNames x; refine changesOnly_cut (x := x) ?_ ?_; (on_goal 1 => (unfold x; clear x)); (on_goal 2 => (intro hx; try clear_value x)))
    | (extract_lets +onlyGivenNames x; refine changesOnly_fn (x := x) ?_; (try dsimp -zeta only [x]); clear x)
    | (extract_lets +onlyGivenNames x; refine changesOnly_fn2 (x := x) ?_; (try dsimp -zeta only [x]); clear x)
    | (extract_lets +onlyGivenNames x; refine changesOnly_cut (x := x.1) ?_ ?_; (on_goal 1 => (unfold x; clear x)); (on_goal 2 => (intro hx; try clear_value x)))
    | (extract_lets +onlyGivenNames x; try clear_value x)
    | with_reducible apply changesOnly_ite'
    | with_reducible assumption
    | with_reducible apply changesOnly_refl
    | (with_reducible apply changesOnly_foldl'; on_goal 2 => intro y a hy)
    | (with_reducible apply changesOnly_fold1; on_goal 2 => intro y a hy)
    | (with_reducible apply changesOnly_step; with_reducible apply flkEvent_changes; decide)
    | split
    | dsimp -zeta only

theorem flaskApply_changes (k : Nat) (pre s : State) : changesOnly [.mod, .host, .lanes, .fh, .cru, .run, .anl, .pwr, .hld, .hb, .gen, .out] s (flaskApply k pre s) := by
  unfold flaskApply
  repeat' first
    | (extract_lets +onlyGivenNames x; refine changesOnly_cut (x := x) ?_ ?_; (on_goal 1 => (unfold x; clear x)); (on_goal 2 => (intro hx; try clear_value x)))
    | (extract_lets +onlyGivenNames x; refine changesOnly_fn (x := x) ?_; (try dsimp -zeta only [x]); clear x)
    | (extract_lets +onlyGivenNames x; refine changesOnly_fn2 (x := x) ?_; (try dsimp -zeta only [x]); clear x)
    | (extract_lets +onlyGivenNames x; try clear_value x)
    | with_reducible assumption
    | with_reducible apply changesOnly_refl
    | (with_reducible apply changesOnly_foldl'; on_goal 2 => intro y a hy)
    | (with_reducible apply changesOnly_fold1; on_goal 2 => intro y a hy)
    | (with_reducible apply changesOnly_step; with_reducible apply reqApply_changes; decide)
    | (with_reducible apply changesOnly_step; with_reducible apply reqMet_changes; decide)
    | (with_reducible apply changesOnly_step; with_reducible apply flkPump_changes; decide)
    | (with_reducible apply changesOnly_step; with_reducible apply joinSlot_changes; decide)
    | split
    | dsimp -zeta only

theorem grantSlot_changes (n : Nat) (s : State) : changesOnly [.fh, .run, .out] s (grantSlot n s) := by
  unfold grantSlot
  repeat' first
    | simp -zeta -zetaUnused (disch := first | decide | (apply Or.inl; decide) | (apply Or.inr; apply And.intro rfl; first | rfl | exact And.intro rfl (And.intro rfl rfl))) only [changesOnly_set_run]
    | (extract_lets +onlyGivenNames x; refine changesOnly_cut (x := x) ?_ ?_; (on_goal 1 => (unfold x; clear x)); (on_goal 2 => (intro hx; try clear_value x)))
    | (extract_lets +onlyGivenNames x; refine changesOnly_fn (x := x) ?_; (try dsimp -zeta only [x]); clear x)
    | (extract_lets +onlyGivenNames x; refine changesOnly_fn2 (x := x) ?_; (try dsimp -zeta only [x]); clear x)
    | (extract_lets +onlyGivenNames x; try clear_value x)
    | with_reducible apply changesOnly_ite'
    | with_reducible assumption
    | with_reducible apply changesOnly_refl
    | (with_reducible apply changesOnly_step; with_reducible apply outward_changes; decide)
    | split
    | dsimp -zeta only

theorem tableBooks_changes (s : State) (fs : List (ℕ × ℕ)) : changesOnly [.fh] s (tableBooks s fs) := by
  unfold tableBooks
  repeat' first
    | (extract_lets +onlyGivenNames x; refine changesOnly_cut (x := x) ?_ ?_; (on_goal 1 => (unfold x; clear x)); (on_goal 2 => (intro hx; try clear_value x)))
    | (extract_lets +onlyGivenNames x; refine changesOnly_fn (x := x) ?_; (try dsimp -zeta only [x]); clear x)
    | (extract_lets +onlyGivenNames x; refine changesOnly_fn2 (x := x) ?_; (try dsimp -zeta only [x]); clear x)
    | (extract_lets +onlyGivenNames x; refine changesOnly_cut (x := x.1) ?_ ?_; (on_goal 1 => (unfold x; clear x)); (on_goal 2 => (intro hx; try clear_value x)))
    | (extract_lets +onlyGivenNames x; try clear_value x)
    | with_reducible assumption
    | with_reducible apply changesOnly_refl
    | (with_reducible apply changesOnly_foldl'; on_goal 2 => intro y a hy)
    | (with_reducible apply changesOnly_fold1; on_goal 2 => intro y a hy)
    | (with_reducible apply changesOnly_step; with_reducible apply closeBook_changes; decide)
    | (with_reducible apply changesOnly_step; with_reducible apply openBook_changes; decide)
    | split
    | dsimp -zeta only

theorem tableLate_changes (n : Nat) (s : State) (t : Table) : changesOnly [.host, .run, .pwr, .gen, .out] s (tableLate n s t) := by
  unfold tableLate
  repeat' first
    | simp -zeta -zetaUnused (disch := first | decide | (apply Or.inl; decide) | (apply Or.inr; apply And.intro rfl; first | rfl | exact And.intro rfl (And.intro rfl rfl))) only [changesOnly_set_run_gen]
    | (extract_lets +onlyGivenNames x; refine changesOnly_cut (x := x) ?_ ?_; (on_goal 1 => (unfold x; clear x)); (on_goal 2 => (intro hx; try clear_value x)))
    | (extract_lets +onlyGivenNames x; refine changesOnly_fn (x := x) ?_; (try dsimp -zeta only [x]); clear x)
    | (extract_lets +onlyGivenNames x; refine changesOnly_fn2 (x := x) ?_; (try dsimp -zeta only [x]); clear x)
    | (extract_lets +onlyGivenNames x; try clear_value x)
    | with_reducible assumption
    | with_reducible apply changesOnly_refl
    | (with_reducible apply changesOnly_step; with_reducible apply postTable_changes; decide)
    | (with_reducible apply changesOnly_step; with_reducible apply post_changes; decide)
    | split

theorem tableForce_changes (n : Nat) (late : Bool) (s : State) : changesOnly [.host, .fh, .run, .pwr, .gen, .out] s (tableForce n late s) := by
  unfold tableForce
  repeat' first
    | simp -zeta -zetaUnused (disch := first | decide | (apply Or.inl; decide) | (apply Or.inr; apply And.intro rfl; first | rfl | exact And.intro rfl (And.intro rfl rfl))) only [changesOnly_set_run]
    | (extract_lets +onlyGivenNames x; refine changesOnly_cut (x := x) ?_ ?_; (on_goal 1 => (unfold x; clear x)); (on_goal 2 => (intro hx; try clear_value x)))
    | (extract_lets +onlyGivenNames x; try clear_value x)
    | with_reducible apply changesOnly_ite'
    | with_reducible assumption
    | with_reducible apply changesOnly_refl
    | (with_reducible apply changesOnly_step; with_reducible apply tableLate_changes; decide)
    | (with_reducible apply changesOnly_step; with_reducible apply tableBooks_changes; decide)
    | split

theorem tableAgain_changes (n : ℕ) (s : State) : changesOnly [.host, .run, .pwr, .out] s (tableAgain n s) := by
  unfold tableAgain
  repeat' first
    | with_reducible apply changesOnly_ite'
    | with_reducible assumption
    | with_reducible apply changesOnly_refl
    | (with_reducible apply changesOnly_step; with_reducible apply publishTable_changes; decide)
    | split

theorem tableSlot_changes (n : Nat) (late : Bool) (s : State) : changesOnly [.host, .fh, .cru, .run, .pwr, .gen, .out] s (tableSlot n late s) := by
  unfold tableSlot
  repeat' first
    | simp -zeta -zetaUnused (disch := first | decide | (apply Or.inl; decide) | (apply Or.inr; apply And.intro rfl; first | rfl | exact And.intro rfl (And.intro rfl rfl))) only [changesOnly_set_run]
    | (extract_lets +onlyGivenNames x; refine changesOnly_cut (x := x) ?_ ?_; (on_goal 1 => (unfold x; clear x)); (on_goal 2 => (intro hx; try clear_value x)))
    | (extract_lets +onlyGivenNames x; refine changesOnly_fn (x := x) ?_; (try dsimp -zeta only [x]); clear x)
    | (extract_lets +onlyGivenNames x; refine changesOnly_fn2 (x := x) ?_; (try dsimp -zeta only [x]); clear x)
    | (extract_lets +onlyGivenNames x; try clear_value x)
    | with_reducible apply changesOnly_ite'
    | with_reducible assumption
    | with_reducible apply changesOnly_refl
    | (with_reducible apply changesOnly_step; with_reducible apply dealSlot_changes; decide)
    | (with_reducible apply changesOnly_step; with_reducible apply tableForce_changes; decide)
    | (with_reducible apply changesOnly_step; with_reducible apply publishTable_changes; decide)
    | (with_reducible apply changesOnly_step; with_reducible apply tableAgain_changes; decide)
    | (with_reducible apply changesOnly_step; with_reducible apply computeTables_changes; decide)
    | (with_reducible apply changesOnly_step; with_reducible apply sendTables_changes; decide)
    | split

theorem flaskSymbol_changes (s : State) : changesOnly [.tb, .mod, .host, .lanes, .fh, .run, .anl, .pwr, .out] s (flaskSymbol s) := by
  unfold flaskSymbol
  repeat' first
    | (extract_lets +onlyGivenNames x; refine changesOnly_cut (x := x) ?_ ?_; (on_goal 1 => (unfold x; clear x)); (on_goal 2 => (intro hx; try clear_value x)))
    | (extract_lets +onlyGivenNames x; try clear_value x)
    | with_reducible apply changesOnly_ite'
    | with_reducible assumption
    | with_reducible apply changesOnly_refl
    | (with_reducible apply changesOnly_step; with_reducible apply flkStart_changes; decide)
    | (with_reducible apply changesOnly_step; with_reducible apply linkSymbol_changes; decide)
    | (with_reducible apply changesOnly_step; with_reducible apply suspendSymbol_changes; decide)
    | (with_reducible apply changesOnly_step; with_reducible apply chainUpdate_changes; decide)
    | (with_reducible apply changesOnly_step; with_reducible apply beats_changes; decide)
    | (with_reducible apply changesOnly_step; with_reducible apply backSymbol_changes; decide)
    | (with_reducible apply changesOnly_step; with_reducible apply anlAskSymbol_changes; decide)
    | (with_reducible apply changesOnly_step; with_reducible apply resSymbol_changes; decide)
    | split

theorem flaskSlot_changes (k : Nat) (late : Bool) (pre s : State) : changesOnly [.mod, .host, .lanes, .fh, .cru, .run, .anl, .pwr, .hld, .hb, .gen, .out] s (flaskSlot k late pre s) := by
  unfold flaskSlot
  repeat' first
    | simp -zeta -zetaUnused (disch := first | decide | (apply Or.inl; decide) | (apply Or.inr; apply And.intro rfl; first | rfl | exact And.intro rfl (And.intro rfl rfl))) only [changesOnly_set_run]
    | (extract_lets +onlyGivenNames x; refine changesOnly_cut (x := x) ?_ ?_; (on_goal 1 => (unfold x; clear x)); (on_goal 2 => (intro hx; try clear_value x)))
    | (extract_lets +onlyGivenNames x; try clear_value x)
    | with_reducible apply changesOnly_ite'
    | with_reducible assumption
    | with_reducible apply changesOnly_refl
    | (with_reducible apply changesOnly_step; with_reducible apply grantSlot_changes; decide)
    | (with_reducible apply changesOnly_step; with_reducible apply tableSlot_changes; decide)
    | (with_reducible apply changesOnly_step; with_reducible apply flaskApply_changes; decide)
    | (with_reducible apply changesOnly_step; with_reducible apply outward_changes; decide)
    | split

theorem passOn_changes (s : State) (d : ℕ) (sub : ℕ) (symid : ℕ) (bs : List Byte) : changesOnly [.fh, .run, .out] s (passOn s d sub symid bs) := by
  unfold passOn
  repeat' first
    | with_reducible assumption
    | with_reducible apply changesOnly_refl
    | (with_reducible apply changesOnly_step; with_reducible apply sendPour_changes; decide)
    | split

theorem tableTake_changes (s : State) (bs : List Byte) : changesOnly [.run] s (tableTake s bs) := by
  unfold tableTake
  repeat' first
    | simp -zeta -zetaUnused (disch := first | decide | (apply Or.inl; decide) | (apply Or.inr; apply And.intro rfl; first | rfl | exact And.intro rfl (And.intro rfl rfl))) only [changesOnly_set_run]
    | (extract_lets +onlyGivenNames x; refine changesOnly_cut (x := x) ?_ ?_; (on_goal 1 => (unfold x; clear x)); (on_goal 2 => (intro hx; try clear_value x)))
    | (extract_lets +onlyGivenNames x; refine changesOnly_fn (x := x) ?_; (try dsimp -zeta only [x]); clear x)
    | (extract_lets +onlyGivenNames x; refine changesOnly_fn2 (x := x) ?_; (try dsimp -zeta only [x]); clear x)
    | (extract_lets +onlyGivenNames x; try clear_value x)
    | with_reducible apply changesOnly_ite'
    | with_reducible assumption
    | with_reducible apply changesOnly_refl
    | split

theorem readyTake_changes (s : State) (id : Nat) : changesOnly [.fh, .run, .out] s (readyTake s id) := by
  unfold readyTake
  repeat' first
    | simp -zeta -zetaUnused (disch := first | decide | (apply Or.inl; decide) | (apply Or.inr; apply And.intro rfl; first | rfl | exact And.intro rfl (And.intro rfl rfl))) only [changesOnly_set_run]
    | (extract_lets +onlyGivenNames x; refine changesOnly_cut (x := x) ?_ ?_; (on_goal 1 => (unfold x; clear x)); (on_goal 2 => (intro hx; try clear_value x)))
    | (extract_lets +onlyGivenNames x; refine changesOnly_fn (x := x) ?_; (try dsimp -zeta only [x]); clear x)
    | (extract_lets +onlyGivenNames x; refine changesOnly_fn2 (x := x) ?_; (try dsimp -zeta only [x]); clear x)
    | (extract_lets +onlyGivenNames x; try clear_value x)
    | with_reducible apply changesOnly_ite'
    | with_reducible assumption
    | with_reducible apply changesOnly_refl
    | (with_reducible apply changesOnly_step; with_reducible apply setReqs_changes; decide)
    | (with_reducible apply changesOnly_step; with_reducible apply joinSend_changes; decide)
    | split

theorem ackTake_changes (s : State) (id : ℕ) (cause : ℕ) : changesOnly [.mod, .host, .fh, .run, .out] s (ackTake s id cause) := by
  unfold ackTake
  repeat' first
    | with_reducible apply changesOnly_ite'
    | with_reducible assumption
    | with_reducible apply changesOnly_refl
    | (with_reducible apply changesOnly_step; with_reducible apply setReqs_changes; decide)
    | (with_reducible apply changesOnly_step; with_reducible apply flkPump_changes; decide)
    | (with_reducible apply changesOnly_step; with_reducible apply flkDeny_changes; decide)
    | (with_reducible apply changesOnly_step; with_reducible apply outward_changes; decide)
    | split

theorem statusTake_changes (s : State) (bs : List Byte) : changesOnly [.mod, .host, .fh, .run, .pwr, .out] s (statusTake s bs) := by
  unfold statusTake
  repeat' first
    | simp -zeta -zetaUnused (disch := first | decide | (apply Or.inl; decide) | (apply Or.inr; apply And.intro rfl; first | rfl | exact And.intro rfl (And.intro rfl rfl))) only [changesOnly_set_run]
    | (extract_lets +onlyGivenNames x; refine changesOnly_cut (x := x) ?_ ?_; (on_goal 1 => (unfold x; clear x)); (on_goal 2 => (intro hx; try clear_value x)))
    | (extract_lets +onlyGivenNames x; refine changesOnly_fn (x := x) ?_; (try dsimp -zeta only [x]); clear x)
    | (extract_lets +onlyGivenNames x; refine changesOnly_fn2 (x := x) ?_; (try dsimp -zeta only [x]); clear x)
    | (extract_lets +onlyGivenNames x; try clear_value x)
    | with_reducible apply changesOnly_ite'
    | with_reducible assumption
    | with_reducible apply changesOnly_refl
    | (with_reducible apply changesOnly_step; with_reducible apply memberHeard_changes; decide)
    | (with_reducible apply changesOnly_step; with_reducible apply readyTake_changes; decide)
    | (with_reducible apply changesOnly_step; with_reducible apply sideLost_changes; decide)
    | (with_reducible apply changesOnly_step; with_reducible apply anlAsked_changes; decide)
    | (with_reducible apply changesOnly_step; with_reducible apply ackTake_changes; decide)
    | split
    | dsimp -zeta only

theorem backStart_changes (s : State) : changesOnly [.lanes, .pwr] s (backStart s) := by
  unfold backStart
  repeat' first
    | simp -zeta -zetaUnused (disch := first | decide | (apply Or.inl; decide) | (apply Or.inr; apply And.intro rfl; first | rfl | exact And.intro rfl (And.intro rfl rfl))) only [changesOnly_set_pwr]
    | (extract_lets +onlyGivenNames x; refine changesOnly_cut (x := x) ?_ ?_; (on_goal 1 => (unfold x; clear x)); (on_goal 2 => (intro hx; try clear_value x)))
    | (extract_lets +onlyGivenNames x; refine changesOnly_fn (x := x) ?_; (try dsimp -zeta only [x]); clear x)
    | (extract_lets +onlyGivenNames x; refine changesOnly_fn2 (x := x) ?_; (try dsimp -zeta only [x]); clear x)
    | (extract_lets +onlyGivenNames x; try clear_value x)
    | with_reducible apply changesOnly_ite'
    | with_reducible assumption
    | with_reducible apply changesOnly_refl
    | (with_reducible apply changesOnly_step; with_reducible apply sidleWake_changes; decide)
    | (with_reducible apply changesOnly_step; with_reducible apply startExit_changes; decide)
    | split

theorem modeFromMember_changes (s : State) (bs : List Byte) : changesOnly [.mod, .host, .lanes, .fh, .run, .pwr, .out] s (modeFromMember s bs) := by
  unfold modeFromMember
  repeat' first
    | (extract_lets +onlyGivenNames x; refine changesOnly_cut (x := x) ?_ ?_; (on_goal 1 => (unfold x; clear x)); (on_goal 2 => (intro hx; try clear_value x)))
    | (extract_lets +onlyGivenNames x; refine changesOnly_fn (x := x) ?_; (try dsimp -zeta only [x]); clear x)
    | (extract_lets +onlyGivenNames x; refine changesOnly_fn2 (x := x) ?_; (try dsimp -zeta only [x]); clear x)
    | (extract_lets +onlyGivenNames x; try clear_value x)
    | with_reducible apply changesOnly_ite'
    | with_reducible assumption
    | with_reducible apply changesOnly_refl
    | (with_reducible apply changesOnly_step; with_reducible apply flkPump_changes; decide)
    | (with_reducible apply changesOnly_step; with_reducible apply setReqs_changes; decide)
    | (with_reducible apply changesOnly_step; with_reducible apply outward_changes; decide)
    | (with_reducible apply changesOnly_step; with_reducible apply backStart_changes; decide)
    | (with_reducible apply changesOnly_step; with_reducible apply flkStart_changes; decide)
    | split

theorem modeFromMaster_changes (s : State) (bs : List Byte) : changesOnly [.mod, .host, .lanes, .fh, .run, .pwr, .out] s (modeFromMaster s bs) := by
  unfold modeFromMaster
  repeat' first
    | simp -zeta -zetaUnused (disch := first | decide | (apply Or.inl; decide) | (apply Or.inr; apply And.intro rfl; first | rfl | exact And.intro rfl (And.intro rfl rfl))) only [changesOnly_set_run]
    | (extract_lets +onlyGivenNames x; refine changesOnly_cut (x := x) ?_ ?_; (on_goal 1 => (unfold x; clear x)); (on_goal 2 => (intro hx; try clear_value x)))
    | (extract_lets +onlyGivenNames x; refine changesOnly_fn (x := x) ?_; (try dsimp -zeta only [x]); clear x)
    | (extract_lets +onlyGivenNames x; refine changesOnly_fn2 (x := x) ?_; (try dsimp -zeta only [x]); clear x)
    | (extract_lets +onlyGivenNames x; try clear_value x)
    | with_reducible apply changesOnly_ite'
    | with_reducible assumption
    | with_reducible apply changesOnly_refl
    | (with_reducible apply changesOnly_step; with_reducible apply flkDeny_changes; decide)
    | (with_reducible apply changesOnly_step; with_reducible apply backStart_changes; decide)
    | (with_reducible apply changesOnly_step; with_reducible apply setReqs_changes; decide)
    | (with_reducible apply changesOnly_step; with_reducible apply toMaster_changes; decide)
    | split

theorem ctrlTake_changes (s : State) (d sub symid : Nat) (bs : List Byte) : changesOnly [.mod, .host, .lanes, .fh, .run, .pwr, .out] s (ctrlTake s d sub symid bs) := by
  unfold ctrlTake
  repeat' first
    | simp -zeta -zetaUnused (disch := first | decide | (apply Or.inl; decide) | (apply Or.inr; apply And.intro rfl; first | rfl | exact And.intro rfl (And.intro rfl rfl))) only [changesOnly_set_run]
    | (extract_lets +onlyGivenNames x; refine changesOnly_cut (x := x) ?_ ?_; (on_goal 1 => (unfold x; clear x)); (on_goal 2 => (intro hx; try clear_value x)))
    | (extract_lets +onlyGivenNames x; refine changesOnly_fn (x := x) ?_; (try dsimp -zeta only [x]); clear x)
    | (extract_lets +onlyGivenNames x; refine changesOnly_fn2 (x := x) ?_; (try dsimp -zeta only [x]); clear x)
    | (extract_lets +onlyGivenNames x; try clear_value x)
    | with_reducible apply changesOnly_ite'
    | with_reducible assumption
    | with_reducible apply changesOnly_refl
    | (with_reducible apply changesOnly_step; with_reducible apply beatTake_changes; decide)
    | (with_reducible apply changesOnly_step; with_reducible apply passOn_changes; decide)
    | (with_reducible apply changesOnly_step; with_reducible apply tableTake_changes; decide)
    | (with_reducible apply changesOnly_step; with_reducible apply statusTake_changes; decide)
    | (with_reducible apply changesOnly_step; with_reducible apply modeFromMember_changes; decide)
    | (with_reducible apply changesOnly_step; with_reducible apply modeFromMaster_changes; decide)
    | split

theorem pourDrop_changes (s : State) (d : ℕ) (lane : ℕ) : changesOnly [.host, .lanes, .fh, .run, .pwr, .hb, .out] s (pourDrop s d lane) := by
  unfold pourDrop
  repeat' first
    | (extract_lets +onlyGivenNames x; refine changesOnly_cut (x := x) ?_ ?_; (on_goal 1 => (unfold x; clear x)); (on_goal 2 => (intro hx; try clear_value x)))
    | (extract_lets +onlyGivenNames x; refine changesOnly_fn (x := x) ?_; (try dsimp -zeta only [x]); clear x)
    | (extract_lets +onlyGivenNames x; refine changesOnly_fn2 (x := x) ?_; (try dsimp -zeta only [x]); clear x)
    | (extract_lets +onlyGivenNames x; try clear_value x)
    | with_reducible apply changesOnly_ite'
    | with_reducible assumption
    | with_reducible apply changesOnly_refl
    | (with_reducible apply changesOnly_step; with_reducible apply modSide_changes; decide)
    | (with_reducible apply changesOnly_step; with_reducible apply slag_changes; decide)
    | (with_reducible apply changesOnly_step; with_reducible apply modLane_changes; decide)
    | (with_reducible apply changesOnly_step; with_reducible apply laneErr_changes; decide)
    | (with_reducible apply changesOnly_step; with_reducible apply synceUpdate_changes; decide)
    | (with_reducible apply changesOnly_step; with_reducible apply detectorAssert_changes; decide)
    | split

theorem pourGood_changes (s : State) (d : ℕ) (lane : ℕ) : changesOnly [.lanes] s (pourGood s d lane) := by
  unfold pourGood
  repeat' first
    | (extract_lets +onlyGivenNames x; refine changesOnly_cut (x := x) ?_ ?_; (on_goal 1 => (unfold x; clear x)); (on_goal 2 => (intro hx; try clear_value x)))
    | (extract_lets +onlyGivenNames x; refine changesOnly_fn (x := x) ?_; (try dsimp -zeta only [x]); clear x)
    | (extract_lets +onlyGivenNames x; refine changesOnly_fn2 (x := x) ?_; (try dsimp -zeta only [x]); clear x)
    | (extract_lets +onlyGivenNames x; try clear_value x)
    | with_reducible apply changesOnly_ite'
    | with_reducible assumption
    | with_reducible apply changesOnly_refl
    | (with_reducible apply changesOnly_step; with_reducible apply modLane_changes; decide)
    | (with_reducible apply changesOnly_step; with_reducible apply detectorClear_changes; decide)
    | split

theorem copyTake_changes (s : State) (d lane : Nat) (h : Nat) (bs : List Byte) : changesOnly [.fh, .run, .out] s (copyTake s d lane h bs).1 := by
  unfold copyTake
  repeat' first
    | (extract_lets +onlyGivenNames x; refine changesOnly_cut (x := x) ?_ ?_; (on_goal 1 => (unfold x; clear x)); (on_goal 2 => (intro hx; try clear_value x)))
    | (extract_lets +onlyGivenNames x; refine changesOnly_cut (x := x.1) ?_ ?_; (on_goal 1 => (unfold x; clear x)); (on_goal 2 => (intro hx; try clear_value x)))
    | (extract_lets +onlyGivenNames x; try clear_value x)
    | with_reducible apply changesOnly_ite'
    | with_reducible assumption
    | with_reducible apply changesOnly_refl
    | (with_reducible apply changesOnly_step; with_reducible apply slag_changes; decide)
    | (with_reducible apply changesOnly_step; with_reducible apply holdMsg_changes; decide)
    | (with_reducible apply changesOnly_step; with_reducible apply sendData_changes; decide)
    | split
    | dsimp -zeta only

theorem copyBad_changes (s : State) (d lane : Nat) (f : PourFrame) : changesOnly [.fh, .run, .out] s (copyBad s d lane f) := by
  unfold copyBad
  repeat' first
    | (extract_lets +onlyGivenNames x; refine changesOnly_cut (x := x) ?_ ?_; (on_goal 1 => (unfold x; clear x)); (on_goal 2 => (intro hx; try clear_value x)))
    | (extract_lets +onlyGivenNames x; try clear_value x)
    | with_reducible apply changesOnly_ite'
    | with_reducible assumption
    | with_reducible apply changesOnly_refl
    | (with_reducible apply changesOnly_step; with_reducible apply sendData_changes; decide)
    | split

theorem psumTake_changes (s : State) (d lane : Nat) (h : Nat) (bs : List Byte) : changesOnly [.fh, .cru, .run, .out] s (psumTake s d lane h bs).1 := by
  unfold psumTake
  repeat' first
    | simp -zeta -zetaUnused (disch := first | decide | (apply Or.inl; decide) | (apply Or.inr; apply And.intro rfl; first | rfl | exact And.intro rfl (And.intro rfl rfl))) only [changesOnly_set_cru]
    | (extract_lets +onlyGivenNames x; refine changesOnly_cut (x := x) ?_ ?_; (on_goal 1 => (unfold x; clear x)); (on_goal 2 => (intro hx; try clear_value x)))
    | (extract_lets +onlyGivenNames x; refine changesOnly_fn (x := x) ?_; (try dsimp -zeta only [x]); clear x)
    | (extract_lets +onlyGivenNames x; refine changesOnly_fn2 (x := x) ?_; (try dsimp -zeta only [x]); clear x)
    | (extract_lets +onlyGivenNames x; refine changesOnly_cut (x := x.1) ?_ ?_; (on_goal 1 => (unfold x; clear x)); (on_goal 2 => (intro hx; try clear_value x)))
    | (extract_lets +onlyGivenNames x; try clear_value x)
    | with_reducible apply changesOnly_ite'
    | with_reducible assumption
    | with_reducible apply changesOnly_refl
    | (with_reducible apply changesOnly_step; with_reducible apply sendData_changes; decide)
    | split
    | dsimp -zeta only

theorem pourTake_changes (s : State) (d lane : Nat) (f : PourFrame) : changesOnly [.mod, .host, .lanes, .fh, .cru, .run, .pwr, .hb, .out] s (pourTake s d lane f) := by
  unfold pourTake
  repeat' first
    | (extract_lets +onlyGivenNames x; refine changesOnly_cut (x := x) ?_ ?_; (on_goal 1 => (unfold x; clear x)); (on_goal 2 => (intro hx; try clear_value x)))
    | (extract_lets +onlyGivenNames x; refine changesOnly_cut (x := x.1) ?_ ?_; (on_goal 1 => (unfold x; clear x)); (on_goal 2 => (intro hx; try clear_value x)))
    | (extract_lets +onlyGivenNames x; try clear_value x)
    | with_reducible apply changesOnly_ite'
    | with_reducible assumption
    | with_reducible apply changesOnly_refl
    | (with_reducible apply changesOnly_step; with_reducible apply pourDrop_changes; decide)
    | (with_reducible apply changesOnly_step; with_reducible apply copyBad_changes; decide)
    | (with_reducible apply changesOnly_step; with_reducible apply assaySnoop_changes; decide)
    | (with_reducible apply changesOnly_step; with_reducible apply copyTake_changes; decide)
    | (with_reducible apply changesOnly_step; with_reducible apply psumTake_changes; decide)
    | (with_reducible apply changesOnly_step; with_reducible apply ctrlTake_changes; decide)
    | (with_reducible apply changesOnly_step; with_reducible apply alignTake_changes; decide)
    | (with_reducible apply changesOnly_step; with_reducible apply pourGood_changes; decide)
    | split
    | dsimp -zeta only

theorem sendCopies_changes (s : State) (x : Parsed × List Byte) : changesOnly [.fh, .run, .out] s (sendCopies s x) := by
  unfold sendCopies
  repeat' first
    | (extract_lets +onlyGivenNames x; refine changesOnly_cut (x := x) ?_ ?_; (on_goal 1 => (unfold x; clear x)); (on_goal 2 => (intro hx; try clear_value x)))
    | (extract_lets +onlyGivenNames x; refine changesOnly_fn (x := x) ?_; (try dsimp -zeta only [x]); clear x)
    | (extract_lets +onlyGivenNames x; refine changesOnly_fn2 (x := x) ?_; (try dsimp -zeta only [x]); clear x)
    | (extract_lets +onlyGivenNames x; try clear_value x)
    | with_reducible apply changesOnly_ite'
    | with_reducible assumption
    | with_reducible apply changesOnly_refl
    | (with_reducible apply changesOnly_foldl'; on_goal 2 => intro y a hy)
    | (with_reducible apply changesOnly_fold1; on_goal 2 => intro y a hy)
    | (with_reducible apply changesOnly_step; with_reducible apply sendData_changes; decide)
    | split
    | dsimp -zeta only

theorem rsvUpdate_changes (s : State) : changesOnly [.run] s (rsvUpdate s) := by
  unfold rsvUpdate
  repeat' first
    | simp -zeta -zetaUnused (disch := first | decide | (apply Or.inl; decide) | (apply Or.inr; apply And.intro rfl; first | rfl | exact And.intro rfl (And.intro rfl rfl))) only [changesOnly_set_run]
    | with_reducible assumption
    | with_reducible apply changesOnly_refl
    | split

theorem layerSetEffect_changes (s : State) (c : Cmd) : changesOnly [.host, .run] s (layerSetEffect s c) := by
  unfold layerSetEffect
  repeat' first
    | simp -zeta -zetaUnused (disch := first | decide | (apply Or.inl; decide) | (apply Or.inr; apply And.intro rfl; first | rfl | exact And.intro rfl (And.intro rfl rfl))) only [changesOnly_set_run]
    | (extract_lets +onlyGivenNames x; refine changesOnly_cut (x := x) ?_ ?_; (on_goal 1 => (unfold x; clear x)); (on_goal 2 => (intro hx; try clear_value x)))
    | (extract_lets +onlyGivenNames x; refine changesOnly_fn (x := x) ?_; (try dsimp -zeta only [x]); clear x)
    | (extract_lets +onlyGivenNames x; refine changesOnly_fn2 (x := x) ?_; (try dsimp -zeta only [x]); clear x)
    | (extract_lets +onlyGivenNames x; refine changesOnly_cut (x := x.1) ?_ ?_; (on_goal 1 => (unfold x; clear x)); (on_goal 2 => (intro hx; try clear_value x)))
    | (extract_lets +onlyGivenNames x; try clear_value x)
    | with_reducible apply changesOnly_ite'
    | with_reducible assumption
    | with_reducible apply changesOnly_refl
    | (with_reducible apply changesOnly_step; with_reducible apply rsvUpdate_changes; decide)
    | (with_reducible apply changesOnly_step; with_reducible apply cmdPut_changes; decide)
    | split
    | dsimp -zeta only

theorem layerSetDone_changes (k : ℕ) (s : State) : changesOnly [.host, .out] s (layerSetDone k s) := by
  unfold layerSetDone
  repeat' first
    | with_reducible assumption
    | with_reducible apply changesOnly_refl
    | (with_reducible apply changesOnly_foldl'; on_goal 2 => intro y a hy)
    | (with_reducible apply changesOnly_step; with_reducible apply cmdDone_changes; decide)
    | split

theorem heatWrite_changes (s : State) (v : ℕ) : changesOnly [.host, .pwr, .thm, .out] s (heatWrite s v) := by
  unfold heatWrite
  repeat' first
    | simp -zeta -zetaUnused (disch := first | decide | (apply Or.inl; decide) | (apply Or.inr; apply And.intro rfl; first | rfl | exact And.intro rfl (And.intro rfl rfl))) only [changesOnly_set_thm]
    | (extract_lets +onlyGivenNames x; refine changesOnly_cut (x := x) ?_ ?_; (on_goal 1 => (unfold x; clear x)); (on_goal 2 => (intro hx; try clear_value x)))
    | (extract_lets +onlyGivenNames x; try clear_value x)
    | with_reducible apply changesOnly_ite'
    | with_reducible assumption
    | with_reducible apply changesOnly_refl
    | (with_reducible apply changesOnly_step; with_reducible apply heaterSet_changes; decide)
    | split

theorem hkPop_changes (s : State) : changesOnly [.hka] s (hkPop s) := by
  unfold hkPop
  repeat' first
    | simp -zeta -zetaUnused (disch := first | decide | (apply Or.inl; decide) | (apply Or.inr; apply And.intro rfl; first | rfl | exact And.intro rfl (And.intro rfl rfl))) only [changesOnly_set_hka]
    | (extract_lets +onlyGivenNames x; refine changesOnly_cut (x := x) ?_ ?_; (on_goal 1 => (unfold x; clear x)); (on_goal 2 => (intro hx; try clear_value x)))
    | (extract_lets +onlyGivenNames x; try clear_value x)
    | with_reducible assumption
    | with_reducible apply changesOnly_refl
    | split

theorem ringError_changes (s : State) (r : ℕ) (code : ℕ) (value : ℕ) : changesOnly [.host, .pwr, .out] s (ringError s r code value) := by
  unfold ringError
  repeat' first
    | simp -zeta -zetaUnused (disch := first | decide | (apply Or.inl; decide) | (apply Or.inr; apply And.intro rfl; first | rfl | exact And.intro rfl (And.intro rfl rfl))) only [changesOnly_set_host]
    | (extract_lets +onlyGivenNames x; refine changesOnly_cut (x := x) ?_ ?_; (on_goal 1 => (unfold x; clear x)); (on_goal 2 => (intro hx; try clear_value x)))
    | (extract_lets +onlyGivenNames x; refine changesOnly_letHostIf (x := x) ?_; (try dsimp -zeta only [x]); clear x)
    | (extract_lets +onlyGivenNames x; refine changesOnly_fn (x := x) ?_; (try dsimp -zeta only [x]); clear x)
    | (extract_lets +onlyGivenNames x; refine changesOnly_fn2 (x := x) ?_; (try dsimp -zeta only [x]); clear x)
    | (extract_lets +onlyGivenNames x; try clear_value x)
    | with_reducible assumption
    | with_reducible apply changesOnly_refl
    | (with_reducible apply changesOnly_step; with_reducible apply post_changes; decide)
    | (with_reducible apply changesOnly_step; (on_goal 1 => (apply modRing_changes; intro _; exact ⟨rfl, rfl, rfl⟩)); decide)
    | (with_reducible apply changesOnly_step; with_reducible apply modRing_any; decide)
    | split

theorem cmdRingOff.recordRing_changes (s : State) (c : Cmd) : changesOnly [.host, .out] s (cmdRingOff.recordRing s c) := by
  unfold cmdRingOff.recordRing
  repeat' first
    | simp -zeta -zetaUnused (disch := first | decide | (apply Or.inl; decide) | (apply Or.inr; apply And.intro rfl; first | rfl | exact And.intro rfl (And.intro rfl rfl))) only [changesOnly_set_host]
    | (extract_lets +onlyGivenNames x; refine changesOnly_cut (x := x) ?_ ?_; (on_goal 1 => (unfold x; clear x)); (on_goal 2 => (intro hx; try clear_value x)))
    | (extract_lets +onlyGivenNames x; refine changesOnly_letHostIf (x := x) ?_; (try dsimp -zeta only [x]); clear x)
    | (extract_lets +onlyGivenNames x; refine changesOnly_fn (x := x) ?_; (try dsimp -zeta only [x]); clear x)
    | (extract_lets +onlyGivenNames x; refine changesOnly_fn2 (x := x) ?_; (try dsimp -zeta only [x]); clear x)
    | (extract_lets +onlyGivenNames x; refine changesOnly_cut (x := x.1) ?_ ?_; (on_goal 1 => (unfold x; clear x)); (on_goal 2 => (intro hx; try clear_value x)))
    | (extract_lets +onlyGivenNames x; try clear_value x)
    | with_reducible apply changesOnly_ite'
    | with_reducible assumption
    | with_reducible apply changesOnly_refl
    | (with_reducible apply changesOnly_step; with_reducible apply cmdEnd_changes; decide)
    | split
    | dsimp -zeta only

theorem cmdRingOff_changes (s : State) (c : Cmd) : changesOnly [.mod, .host, .ldl, .fh, .cru, .run, .anl, .out] s (cmdRingOff s c) := by
  unfold cmdRingOff
  repeat' first
    | simp -zeta -zetaUnused (disch := first | decide | (apply Or.inl; decide) | (apply Or.inr; apply And.intro rfl; first | rfl | exact And.intro rfl (And.intro rfl rfl))) only [changesOnly_set_run, changesOnly_set_anl, changesOnly_set_cru]
    | (extract_lets +onlyGivenNames x; refine changesOnly_cut (x := x) ?_ ?_; (on_goal 1 => (unfold x; clear x)); (on_goal 2 => (intro hx; try clear_value x)))
    | (extract_lets +onlyGivenNames x; refine changesOnly_fn (x := x) ?_; (try dsimp -zeta only [x]); clear x)
    | (extract_lets +onlyGivenNames x; refine changesOnly_fn2 (x := x) ?_; (try dsimp -zeta only [x]); clear x)
    | (extract_lets +onlyGivenNames x; try clear_value x)
    | with_reducible apply changesOnly_ite'
    | with_reducible assumption
    | with_reducible apply changesOnly_refl
    | (with_reducible apply changesOnly_foldl'; on_goal 2 => intro y a hy)
    | (with_reducible apply changesOnly_fold1; on_goal 2 => intro y a hy)
    | (with_reducible apply changesOnly_step; with_reducible apply reqWithdraw_changes; decide)
    | (with_reducible apply changesOnly_step; with_reducible apply cmdRefuse_changes; decide)
    | (with_reducible apply changesOnly_step; with_reducible apply modeCause_changes; decide)
    | (with_reducible apply changesOnly_step; with_reducible apply withdraw_changes; decide)
    | (with_reducible apply changesOnly_step; with_reducible apply cmdRingOff.recordRing_changes; decide)
    | (with_reducible apply changesOnly_step; with_reducible apply moveRefused_changes; decide)
    | split
    | dsimp -zeta only

theorem ringDisable_changes (s : State) (r : ℕ) : changesOnly [.mod, .host, .ldl, .fh, .cru, .run, .anl, .out] s (ringDisable s r) := by
  unfold ringDisable
  repeat' first
    | (extract_lets +onlyGivenNames x; refine changesOnly_cut (x := x) ?_ ?_; (on_goal 1 => (unfold x; clear x)); (on_goal 2 => (intro hx; try clear_value x)))
    | (extract_lets +onlyGivenNames x; refine changesOnly_fn (x := x) ?_; (try dsimp -zeta only [x]); clear x)
    | (extract_lets +onlyGivenNames x; refine changesOnly_fn2 (x := x) ?_; (try dsimp -zeta only [x]); clear x)
    | (extract_lets +onlyGivenNames x; try clear_value x)
    | with_reducible apply changesOnly_ite'
    | with_reducible assumption
    | with_reducible apply changesOnly_refl
    | (with_reducible apply changesOnly_foldl'; on_goal 2 => intro y a hy)
    | (with_reducible apply changesOnly_step; with_reducible apply cmdRingOff_changes; decide)
    | (with_reducible apply changesOnly_step; (on_goal 1 => (apply modRing_changes; intro _; exact ⟨rfl, rfl, rfl⟩)); decide)
    | (with_reducible apply changesOnly_step; with_reducible apply modRing_any; decide)
    | split

theorem ringEnable_changes (s : State) (r : ℕ) : changesOnly [.host] s (ringEnable s r) := by
  unfold ringEnable
  repeat' first
    | with_reducible assumption
    | with_reducible apply changesOnly_refl
    | (with_reducible apply changesOnly_step; (on_goal 1 => (apply modRing_changes; intro _; exact ⟨rfl, rfl, rfl⟩)); decide)
    | (with_reducible apply changesOnly_step; with_reducible apply modRing_any; decide)
    | split

theorem ringCoal_changes (s : State) (r : Nat) : changesOnly [.host, .out] s (ringCoal s r) := by
  unfold ringCoal
  repeat' first
    | (extract_lets +onlyGivenNames x; refine changesOnly_cut (x := x) ?_ ?_; (on_goal 1 => (unfold x; clear x)); (on_goal 2 => (intro hx; try clear_value x)))
    | (extract_lets +onlyGivenNames x; refine changesOnly_fn (x := x) ?_; (try dsimp -zeta only [x]); clear x)
    | (extract_lets +onlyGivenNames x; refine changesOnly_fn2 (x := x) ?_; (try dsimp -zeta only [x]); clear x)
    | (extract_lets +onlyGivenNames x; try clear_value x)
    | with_reducible apply changesOnly_ite'
    | with_reducible assumption
    | with_reducible apply changesOnly_refl
    | (with_reducible apply changesOnly_step; with_reducible apply signal_changes; decide)
    | (with_reducible apply changesOnly_step; (on_goal 1 => (apply modRing_changes; intro _; exact ⟨rfl, rfl, rfl⟩)); decide)
    | (with_reducible apply changesOnly_step; with_reducible apply modRing_any; decide)
    | split

theorem ringCfgWrite_changes (s : State) (r v : Nat) : changesOnly [.hmem, .mod, .host, .ldl, .fh, .cru, .run, .anl, .pwr, .out] s (ringCfgWrite s r v) := by
  unfold ringCfgWrite
  repeat' first
    | (extract_lets +onlyGivenNames x; refine changesOnly_cut (x := x) ?_ ?_; (on_goal 1 => (unfold x; clear x)); (on_goal 2 => (intro hx; try clear_value x)))
    | (extract_lets +onlyGivenNames x; refine changesOnly_fn (x := x) ?_; (try dsimp -zeta only [x]); clear x)
    | (extract_lets +onlyGivenNames x; refine changesOnly_fn2 (x := x) ?_; (try dsimp -zeta only [x]); clear x)
    | (extract_lets +onlyGivenNames x; try clear_value x)
    | with_reducible apply changesOnly_ite'
    | with_reducible assumption
    | with_reducible apply changesOnly_refl
    | (with_reducible apply changesOnly_step; (on_goal 1 => (apply modRing_changes; intro _; exact ⟨rfl, rfl, rfl⟩)); decide)
    | (with_reducible apply changesOnly_step; with_reducible apply modRing_any; decide)
    | (with_reducible apply changesOnly_step; with_reducible apply ringError_changes; decide)
    | (with_reducible apply changesOnly_step; with_reducible apply ringCoal_changes; decide)
    | (with_reducible apply changesOnly_step; with_reducible apply ringEnable_changes; decide)
    | (with_reducible apply changesOnly_step; with_reducible apply ringDisable_changes; decide)
    | split

theorem shiftWrite_changes (s : State) (c : ℕ) (ul : ℕ) (dl : ℕ) : changesOnly [.cru] s (shiftWrite s c ul dl) := by
  unfold shiftWrite
  repeat' first
    | simp -zeta -zetaUnused (disch := first | decide | (apply Or.inl; decide) | (apply Or.inr; apply And.intro rfl; first | rfl | exact And.intro rfl (And.intro rfl rfl))) only [changesOnly_set_cru]
    | (extract_lets +onlyGivenNames x; refine changesOnly_cut (x := x) ?_ ?_; (on_goal 1 => (unfold x; clear x)); (on_goal 2 => (intro hx; try clear_value x)))
    | (extract_lets +onlyGivenNames x; refine changesOnly_fn (x := x) ?_; (try dsimp -zeta only [x]); clear x)
    | (extract_lets +onlyGivenNames x; refine changesOnly_fn2 (x := x) ?_; (try dsimp -zeta only [x]); clear x)
    | (extract_lets +onlyGivenNames x; try clear_value x)
    | with_reducible apply changesOnly_ite'
    | with_reducible assumption
    | with_reducible apply changesOnly_refl
    | split

theorem pinfnWrite_changes (s : State) (v : Nat) : changesOnly [.mod, .thm] s (pinfnWrite s v) := by
  unfold pinfnWrite
  repeat' first
    | simp -zeta -zetaUnused (disch := first | decide | (apply Or.inl; decide) | (apply Or.inr; apply And.intro rfl; first | rfl | exact And.intro rfl (And.intro rfl rfl))) only [changesOnly_set_mod, changesOnly_set_thm]
    | (extract_lets +onlyGivenNames x; refine changesOnly_cut (x := x) ?_ ?_; (on_goal 1 => (unfold x; clear x)); (on_goal 2 => (intro hx; try clear_value x)))
    | (extract_lets +onlyGivenNames x; refine changesOnly_fn (x := x) ?_; (try dsimp -zeta only [x]); clear x)
    | (extract_lets +onlyGivenNames x; refine changesOnly_fn2 (x := x) ?_; (try dsimp -zeta only [x]); clear x)
    | (extract_lets +onlyGivenNames x; try clear_value x)
    | with_reducible apply changesOnly_ite'
    | with_reducible assumption
    | with_reducible apply changesOnly_refl
    | split

theorem respond_changes (s : State) (r : Resp) : changesOnly [.host] s (respond s r) := by
  unfold respond
  repeat' first
    | simp -zeta -zetaUnused (disch := first | decide | (apply Or.inl; decide) | (apply Or.inr; apply And.intro rfl; first | rfl | exact And.intro rfl (And.intro rfl rfl))) only [changesOnly_set_host]
    | with_reducible assumption
    | with_reducible apply changesOnly_refl
    | split

theorem darkNote_changes (s : State) (off : ℕ) (wr : Bool) (b : ℕ) (v : ℕ) : changesOnly [.host, .pwr, .out] s (darkNote s off wr b v) := by
  unfold darkNote
  repeat' first
    | simp -zeta -zetaUnused (disch := first | decide | (apply Or.inl; decide) | (apply Or.inr; apply And.intro rfl; first | rfl | exact And.intro rfl (And.intro rfl rfl))) only [changesOnly_set_host]
    | (extract_lets +onlyGivenNames x; refine changesOnly_cut (x := x) ?_ ?_; (on_goal 1 => (unfold x; clear x)); (on_goal 2 => (intro hx; try clear_value x)))
    | (extract_lets +onlyGivenNames x; refine changesOnly_letHostIf (x := x) ?_; (try dsimp -zeta only [x]); clear x)
    | (extract_lets +onlyGivenNames x; try clear_value x)
    | with_reducible apply changesOnly_ite'
    | with_reducible assumption
    | with_reducible apply changesOnly_refl
    | (with_reducible apply changesOnly_step; with_reducible apply post_changes; decide)
    | split

theorem shadowLatch_changes (s : State) (x0 : Shadow) : changesOnly [.host] s (shadowLatch s x0) := by
  unfold shadowLatch
  repeat' first
    | simp -zeta -zetaUnused (disch := first | decide | (apply Or.inl; decide) | (apply Or.inr; apply And.intro rfl; first | rfl | exact And.intro rfl (And.intro rfl rfl))) only [changesOnly_set_host]
    | with_reducible assumption
    | with_reducible apply changesOnly_refl
    | split

theorem shadowDrop_changes (s : State) (req : BitVec 16) : changesOnly [.host] s (shadowDrop s req) := by
  unfold shadowDrop
  repeat' first
    | simp -zeta -zetaUnused (disch := first | decide | (apply Or.inl; decide) | (apply Or.inr; apply And.intro rfl; first | rfl | exact And.intro rfl (And.intro rfl rfl))) only [changesOnly_set_host]
    | with_reducible assumption
    | with_reducible apply changesOnly_refl
    | split

theorem splitMiss_changes (s : State) : changesOnly [.host] s (splitMiss s) := by
  unfold splitMiss
  repeat' first
    | simp -zeta -zetaUnused (disch := first | decide | (apply Or.inl; decide) | (apply Or.inr; apply And.intro rfl; first | rfl | exact And.intro rfl (And.intro rfl rfl))) only [changesOnly_set_host]
    | with_reducible assumption
    | with_reducible apply changesOnly_refl
    | split

theorem wordGet_changes (s : State) (req : BitVec 16) (off : ℕ) : changesOnly [.host, .hka] s (wordGet s req off).1 := by
  unfold wordGet
  repeat' first
    | with_reducible apply changesOnly_ite'
    | with_reducible assumption
    | with_reducible apply changesOnly_refl
    | (with_reducible apply changesOnly_step; with_reducible apply hkPop_changes; decide)
    | (with_reducible apply changesOnly_step; with_reducible apply shadowLatch_changes; decide)
    | (with_reducible apply changesOnly_step; with_reducible apply shadowDrop_changes; decide)
    | (with_reducible apply changesOnly_step; with_reducible apply splitMiss_changes; decide)
    | split
    | dsimp -zeta only

theorem partRead_changes (s : State) (req : BitVec 16) (off : ℕ) (len : ℕ) : changesOnly [.host, .pwr, .hka, .out] s (partRead s req off len).1 := by
  unfold partRead
  repeat' first
    | (extract_lets +onlyGivenNames x; refine changesOnly_cut (x := x) ?_ ?_; (on_goal 1 => (unfold x; clear x)); (on_goal 2 => (intro hx; try clear_value x)))
    | (extract_lets +onlyGivenNames x; refine changesOnly_cut (x := x.1) ?_ ?_; (on_goal 1 => (unfold x; clear x)); (on_goal 2 => (intro hx; try clear_value x)))
    | (extract_lets +onlyGivenNames x; try clear_value x)
    | with_reducible assumption
    | with_reducible apply changesOnly_refl
    | (with_reducible apply changesOnly_step; with_reducible apply darkNote_changes; decide)
    | (with_reducible apply changesOnly_step; with_reducible apply wordGet_changes; decide)
    | split
    | dsimp -zeta only

theorem busRead_changes (s : State) (req : BitVec 16) (off : ℕ) (len : ℕ) : changesOnly [.host, .pwr, .hka, .out] s (busRead s req off len) := by
  unfold busRead
  repeat' first
    | (extract_lets +onlyGivenNames x; refine changesOnly_cut (x := x) ?_ ?_; (on_goal 1 => (unfold x; clear x)); (on_goal 2 => (intro hx; try clear_value x)))
    | (extract_lets +onlyGivenNames x; refine changesOnly_cut (x := x.1) ?_ ?_; (on_goal 1 => (unfold x; clear x)); (on_goal 2 => (intro hx; try clear_value x)))
    | (extract_lets +onlyGivenNames x; try clear_value x)
    | with_reducible apply changesOnly_ite'
    | with_reducible assumption
    | with_reducible apply changesOnly_refl
    | (with_reducible apply changesOnly_step; with_reducible apply respond_changes; decide)
    | (with_reducible apply changesOnly_step; with_reducible apply darkNote_changes; decide)
    | (with_reducible apply changesOnly_step; with_reducible apply partRead_changes; decide)
    | split
    | dsimp -zeta only

theorem writeReject_changes (s : State) (off : ℕ) : changesOnly [.gen] s (writeReject s off) := by
  unfold writeReject
  repeat' first
    | simp -zeta -zetaUnused (disch := first | decide | (apply Or.inl; decide) | (apply Or.inr; apply And.intro rfl; first | rfl | exact And.intro rfl (And.intro rfl rfl))) only [changesOnly_set_gen]
    | with_reducible assumption
    | with_reducible apply changesOnly_refl
    | split

theorem heldDrop_changes (s : State) (req : BitVec 16) : changesOnly [.host] s (heldDrop s req) := by
  unfold heldDrop
  repeat' first
    | simp -zeta -zetaUnused (disch := first | decide | (apply Or.inl; decide) | (apply Or.inr; apply And.intro rfl; first | rfl | exact And.intro rfl (And.intro rfl rfl))) only [changesOnly_set_host]
    | with_reducible assumption
    | with_reducible apply changesOnly_refl
    | split

theorem heldMiss_changes (s : State) (req : BitVec 16) : changesOnly [.host] s (heldMiss s req) := by
  unfold heldMiss
  repeat' first
    | with_reducible apply changesOnly_ite'
    | with_reducible assumption
    | with_reducible apply changesOnly_refl
    | (with_reducible apply changesOnly_step; with_reducible apply splitMiss_changes; decide)
    | (with_reducible apply changesOnly_step; with_reducible apply heldDrop_changes; decide)
    | split

theorem pendingSend_changes (s : State) (v : ℕ) : changesOnly [.host, .out] s (pendingSend s v) := by
  unfold pendingSend
  repeat' first
    | simp -zeta -zetaUnused (disch := first | decide | (apply Or.inl; decide) | (apply Or.inr; apply And.intro rfl; first | rfl | exact And.intro rfl (And.intro rfl rfl))) only [changesOnly_set_host]
    | (extract_lets +onlyGivenNames x; refine changesOnly_cut (x := x) ?_ ?_; (on_goal 1 => (unfold x; clear x)); (on_goal 2 => (intro hx; try clear_value x)))
    | (extract_lets +onlyGivenNames x; refine changesOnly_letHostIf (x := x) ?_; (try dsimp -zeta only [x]); clear x)
    | (extract_lets +onlyGivenNames x; refine changesOnly_fn (x := x) ?_; (try dsimp -zeta only [x]); clear x)
    | (extract_lets +onlyGivenNames x; refine changesOnly_fn2 (x := x) ?_; (try dsimp -zeta only [x]); clear x)
    | (extract_lets +onlyGivenNames x; try clear_value x)
    | with_reducible apply changesOnly_ite'
    | with_reducible assumption
    | with_reducible apply changesOnly_refl
    | (with_reducible apply changesOnly_step; with_reducible apply send_changes; decide)
    | split

theorem msixWord_changes (s : State) (v : ℕ) (w : ℕ) (x0 : ℕ) : changesOnly [.host, .out] s (msixWord s v w x0) := by
  unfold msixWord
  repeat' first
    | simp -zeta -zetaUnused (disch := first | decide | (apply Or.inl; decide) | (apply Or.inr; apply And.intro rfl; first | rfl | exact And.intro rfl (And.intro rfl rfl))) only [changesOnly_set_host]
    | (extract_lets +onlyGivenNames x; refine changesOnly_cut (x := x) ?_ ?_; (on_goal 1 => (unfold x; clear x)); (on_goal 2 => (intro hx; try clear_value x)))
    | (extract_lets +onlyGivenNames x; refine changesOnly_letHostIf (x := x) ?_; (try dsimp -zeta only [x]); clear x)
    | (extract_lets +onlyGivenNames x; refine changesOnly_fn (x := x) ?_; (try dsimp -zeta only [x]); clear x)
    | (extract_lets +onlyGivenNames x; refine changesOnly_fn2 (x := x) ?_; (try dsimp -zeta only [x]); clear x)
    | (extract_lets +onlyGivenNames x; try clear_value x)
    | with_reducible assumption
    | with_reducible apply changesOnly_refl
    | (with_reducible apply changesOnly_step; with_reducible apply pendingSend_changes; decide)
    | split

theorem bar2Write_changes (s : State) (off : ℕ) (x0 : ℕ) : changesOnly [.host, .out] s (bar2Write s off x0) := by
  unfold bar2Write
  repeat' first
    | with_reducible apply changesOnly_ite'
    | with_reducible assumption
    | with_reducible apply changesOnly_refl
    | (with_reducible apply changesOnly_step; with_reducible apply msixWord_changes; decide)
    | split

theorem doorbell_changes (s : State) (r : ℕ) (width : ℕ) (v : BitVec 32) (hr : r < 36) : changesOnly [.host, .pwr, .out] s (doorbell s r width v) := by
  unfold doorbell
  extract_lets g err
  refine changesOnly_ite (changesOnly_mono (ringError_changes s r _ _) (by decide)) ?_
  by_cases h : r < 16
  · rw [if_pos h]
    exact changesOnly_mono (modRing_changes s r _) (by decide)
  · rw [if_neg h]
    refine changesOnly_trans (changesOnly_mono (modRing_changes s r fun g => { g with cons := v, lastDb := v }) (by decide)) ?_
    exact changesOnly_ite (changesOnly_mono (recordDrain_changes _ _ r (by omega)) (by decide))
      (changesOnly_mono (evtOverflow_changes _ r (by omega) hr) (by decide))

theorem bar2Access_changes (s : State) (q : BusReq) : changesOnly [.host, .out] s (bar2Access s q) := by
  unfold bar2Access
  repeat' first
    | (extract_lets +onlyGivenNames x; refine changesOnly_cut (x := x) ?_ ?_; (on_goal 1 => (unfold x; clear x)); (on_goal 2 => (intro hx; try clear_value x)))
    | (extract_lets +onlyGivenNames x; try clear_value x)
    | with_reducible apply changesOnly_ite'
    | with_reducible assumption
    | with_reducible apply changesOnly_refl
    | (with_reducible apply changesOnly_step; with_reducible apply bar2Write_changes; decide)
    | (with_reducible apply changesOnly_step; with_reducible apply respond_changes; decide)
    | split

theorem msixControlWrite_changes (s : State) (v : ℕ) : changesOnly [.host, .out] s (msixControlWrite s v) := by
  unfold msixControlWrite
  repeat' first
    | simp -zeta -zetaUnused (disch := first | decide | (apply Or.inl; decide) | (apply Or.inr; apply And.intro rfl; first | rfl | exact And.intro rfl (And.intro rfl rfl))) only [changesOnly_set_host]
    | with_reducible assumption
    | with_reducible apply changesOnly_refl
    | (with_reducible apply changesOnly_all; on_goal 2 => intro y a hy)
    | (with_reducible apply changesOnly_step; with_reducible apply forAll_changes; decide)
    | (with_reducible apply changesOnly_step; with_reducible apply pendingSend_changes; decide)
    | split

theorem configWrite_changes (s : State) (x : Space) (v : Nat) : changesOnly [.host, .out] s (configWrite s x v) := by
  unfold configWrite
  repeat' first
    | simp -zeta -zetaUnused (disch := first | decide | (apply Or.inl; decide) | (apply Or.inr; apply And.intro rfl; first | rfl | exact And.intro rfl (And.intro rfl rfl))) only [changesOnly_set_host]
    | with_reducible assumption
    | with_reducible apply changesOnly_refl
    | (with_reducible apply changesOnly_step; with_reducible apply msixControlWrite_changes; decide)
    | (with_reducible apply changesOnly_step; with_reducible apply respond_changes; decide)
    | split

theorem hostStores_changes (s : State) (stores : List Host.Cell) : changesOnly [.hmem, .host] s (hostStores s stores) := by
  unfold hostStores
  repeat' first
    | simp -zeta -zetaUnused (disch := first | decide | (apply Or.inl; decide) | (apply Or.inr; apply And.intro rfl; first | rfl | exact And.intro rfl (And.intro rfl rfl))) only [changesOnly_set_host]
    | with_reducible assumption
    | with_reducible apply changesOnly_refl
    | split

theorem airBefore_changes (k : Nat) (s : State) : changesOnly [.tb, .mod, .tx, .rx, .thm] s (airBefore k s) := by
  unfold airBefore
  repeat' first
    | simp -zeta -zetaUnused (disch := first | decide | (apply Or.inl; decide) | (apply Or.inr; apply And.intro rfl; first | rfl | exact And.intro rfl (And.intro rfl rfl))) only [changesOnly_set_tb_rx, changesOnly_set_mod]
    | (extract_lets +onlyGivenNames x; refine changesOnly_cut (x := x) ?_ ?_; (on_goal 1 => (unfold x; clear x)); (on_goal 2 => (intro hx; try clear_value x)))
    | (extract_lets +onlyGivenNames x; refine changesOnly_fn (x := x) ?_; (try dsimp -zeta only [x]); clear x)
    | (extract_lets +onlyGivenNames x; refine changesOnly_fn2 (x := x) ?_; (try dsimp -zeta only [x]); clear x)
    | (extract_lets +onlyGivenNames x; try clear_value x)
    | with_reducible apply changesOnly_ite'
    | with_reducible assumption
    | with_reducible apply changesOnly_refl
    | (with_reducible apply changesOnly_step; with_reducible apply tbFrameBefore_changes; decide)
    | (with_reducible apply changesOnly_step; with_reducible apply txSlotBefore_changes; decide)
    | split

theorem shiftSlot_changes (s : State) : changesOnly [.cru] s (shiftSlot s) := by
  unfold shiftSlot
  repeat' first
    | simp -zeta -zetaUnused (disch := first | decide | (apply Or.inl; decide) | (apply Or.inr; apply And.intro rfl; first | rfl | exact And.intro rfl (And.intro rfl rfl))) only [changesOnly_set_cru]
    | with_reducible assumption
    | with_reducible apply changesOnly_refl
    | split

theorem slotUnits_changes (s : State) : changesOnly [.host, .lanes, .fh, .cru, .tx, .rx, .anl, .pwr, .bias, .out] s (slotUnits s) := by
  unfold slotUnits
  repeat' first
    | with_reducible assumption
    | with_reducible apply changesOnly_refl
    | (with_reducible apply changesOnly_step; with_reducible apply shiftSlot_changes; decide)
    | (with_reducible apply changesOnly_step; with_reducible apply potsSlot_changes; decide)
    | (with_reducible apply changesOnly_step; with_reducible apply booksSlot_changes; decide)
    | (with_reducible apply changesOnly_step; with_reducible apply lanesSlot_changes; decide)
    | (with_reducible apply changesOnly_step; with_reducible apply txSlotAfter_changes; decide)
    | (with_reducible apply changesOnly_step; with_reducible apply pathsSlot_changes; decide)
    | split

theorem slotRest_changes (k : Nat) (late : Bool) (pre s : State) : changesOnly [.syn, .mod, .host, .lanes, .fh, .cru, .run, .tx, .rx, .anl, .pwr, .hld, .hb, .gen, .out] s (slotRest k late pre s) := by
  unfold slotRest
  repeat' first
    | with_reducible assumption
    | with_reducible apply changesOnly_refl
    | (with_reducible apply changesOnly_step; with_reducible apply resumeSlot_changes; decide)
    | (with_reducible apply changesOnly_step; with_reducible apply layerSetDone_changes; decide)
    | (with_reducible apply changesOnly_step; with_reducible apply flaskSlot_changes; decide)
    | (with_reducible apply changesOnly_step; with_reducible apply anlSlot_changes; decide)
    | split

theorem symbolUnits_changes (k : Nat) (pre s : State) : changesOnly [.dev, .tb, .syn, .mod, .host, .ldl, .lanes, .fh, .cru, .run, .tx, .rx, .anl, .pwr, .hld, .bias, .hb, .out] s (symbolUnits k pre s) := by
  unfold symbolUnits
  repeat' first
    | (extract_lets +onlyGivenNames x; refine changesOnly_cut (x := x) ?_ ?_; (on_goal 1 => (unfold x; clear x)); (on_goal 2 => (intro hx; try clear_value x)))
    | (extract_lets +onlyGivenNames x; try clear_value x)
    | with_reducible assumption
    | with_reducible apply changesOnly_refl
    | (with_reducible apply changesOnly_step; with_reducible apply rxSymbol_changes; decide)
    | (with_reducible apply changesOnly_step; with_reducible apply txSymbol_changes; decide)
    | (with_reducible apply changesOnly_step; with_reducible apply temperObserve_changes; decide)
    | (with_reducible apply changesOnly_step; with_reducible apply lanesSymbol_changes; decide)
    | (with_reducible apply changesOnly_step; with_reducible apply orxSymbol_changes; decide)
    | (with_reducible apply changesOnly_step; with_reducible apply biasSymbol_changes; decide)
    | (with_reducible apply changesOnly_step; with_reducible apply dpdSymbol_changes; decide)
    | (with_reducible apply changesOnly_step; with_reducible apply flaskSymbol_changes; decide)
    | (with_reducible apply changesOnly_step; with_reducible apply darkSymbol_changes; decide)
    | (with_reducible apply changesOnly_step; with_reducible apply dealUnits_changes; decide)
    | (with_reducible apply changesOnly_step; with_reducible apply commitSymbol_changes; decide)
    | split

theorem symbolSends_changes (k : ℕ) (s : State) : changesOnly [.tb, .syn, .host, .fh, .cru, .run, .tx, .rx, .anl, .pwr, .out] s (symbolSends k s) := by
  unfold symbolSends
  repeat' first
    | with_reducible assumption
    | with_reducible apply changesOnly_refl
    | (with_reducible apply changesOnly_step; with_reducible apply refSelect_changes; decide)
    | (with_reducible apply changesOnly_step; with_reducible apply tbSymbol_changes; decide)
    | (with_reducible apply changesOnly_step; with_reducible apply sendUplink_changes; decide)
    | (with_reducible apply changesOnly_step; with_reducible apply creditRecords_changes; decide)
    | split

theorem airAfter_changes (pre s : State) : changesOnly [.syn, .host, .lanes, .fh, .tx, .rx, .anl, .pwr, .hka, .bias, .hb, .out] s (airAfter pre s) := by
  unfold airAfter
  repeat' first
    | with_reducible assumption
    | with_reducible apply changesOnly_refl
    | (with_reducible apply changesOnly_step; with_reducible apply hkCheck_changes; decide)
    | (with_reducible apply changesOnly_step; with_reducible apply entryNext_changes; decide)
    | (with_reducible apply changesOnly_step; with_reducible apply anlWatch_changes; decide)
    | split

end Sys2Proof.Machine
end

