-- ==== Sys2Proof/WellFormed.lean ====
section
/-! DEFINITION. Which commands are well formed: operands that the spec or the host's and environment's side can send at all. exec is
total and does not rely on it; a statement may ask for it. -/

namespace Sys2Proof

/-- Byte stores of the host lie in its 64-bit address space (R98). -/
def storesOk (l : List Host.Cell) : Bool := l.all fun c => decide (c.1 < 2 ^ 64)

/-- A part of a value fits 16 bits (R273). -/
def part16 (i : Int) : Bool := decide (-32768 ≤ i ∧ i ≤ 32767)

/-- A request of a BAR 0 row has at least one byte and at most a payload's (R61, R426). -/
def reqOk (q : BusReq) : Bool := decide (1 ≤ q.len ∧ q.len ≤ 512)

/-- A value is given at most once per path. -/
def pathsOnce (l : List (Fin 64)) : Bool := decide l.Nodup

/-- The command's operands are ones its event can carry. -/
def Instr.wf : Instr → Bool
  | .fuseProgram _ bits => decide bits.Nodup
  | .ulWorkTick unfinished rx => (unfinished.all fun r => decide (r.layer < 32)) && rx.all fun x => decide (x.k < 13104) && part16 x.i && part16 x.q
  | .uplinkAssembly _ _ _ _ samples => samples.all fun x => part16 x.i && part16 x.q
  | .psumRecordSend _ _ layer => decide (layer < 512)
  | .captureEnd _ _ data => data.all fun w => decide (w.off % 4 = 0)
  | .soundingCaptureEnd _ _ data => data.all fun w => decide (w.off % 4 = 0)
  | .commandDoorbell _ _ width _ stores => decide (1 ≤ width ∧ width ≤ 512) && storesOk stores
  | .consumerDoorbell _ _ width _ stores => decide (1 ≤ width ∧ width ≤ 512) && storesOk stores
  | .descriptorFetch _ _ n errs => decide (1 ≤ n ∧ n ≤ 8) && errs.all fun i => decide (i < n)
  | .ringEnable _ _ value stores => value.getLsbD 31 && storesOk stores
  | .ringDisable _ _ value => !value.getLsbD 31
  | .lowWordRead _ _ off => decide (off.toNat % 8 = 0)
  | .highWordRead _ _ off => decide (off.toNat % 8 = 4)
  | .lowWordWrite _ _ off _ => decide (off.toNat % 8 = 0)
  | .highWordWrite _ _ off _ => decide (off.toNat % 8 = 4)
  | .accessDark _ req => reqOk req
  | .completerAbort _ req => reqOk req
  | .registerWrite _ _ req => reqOk req
  | .ctlWakeRequest _ req => reqOk req
  | .prbsSyncLost _ _ errs nbits => decide (errs ≤ nbits)
  | .surveyPeriodEnd powers => decide (powers.length ≤ 64) && powers.all fun x => decide (x.bins.length ≤ 256)
  | .powerDetectorReport _ _ mean => part16 mean
  | .anlSolveEnd _ res => pathsOnce (res.map (·.path))
  | .airSymbolTick seen | .airSlotTick seen | .airFrameTick seen => pathsOnce (seen.rxSat.map Prod.fst)
  | .pourFrameRx _ _ _ frame => decide (frame.phase < 4070)
  | .quench _ cause _ _ => decide (1 ≤ cause ∧ cause ≤ 3)
  | .domainEntryDone _ _ sigs => decide (sigs.length ≤ 32)
  | .domainExitDone _ _ sigs => decide (sigs.length ≤ 32)
  | .powerOnReset .. | .powerFail .. | .controlPortReset .. | .outOfReset .. | .sourceQualified .. | .sourceLost ..
  | .refLost .. | .samplePllUnlock .. | .samplePllRelock .. | .synUnlock .. | .relockStart .. | .synLock .. | .relockFail ..
  | .dlWorkTick .. | .weightFill .. | .lockCheck .. | .nop ..
  | .modeSet .. | .carrierCfg .. | .synCfg .. | .tbCfg .. | .tbStep .. | .txCtrl .. | .loTimeout .. | .powerSet ..
  | .dpdCfg .. | .coxCfg .. | .rxCfg .. | .capture .. | .captureNoGrant .. | .weightLoad .. | .patternWrite ..
  | .soundingCapture .. | .layerSet .. | .fhCfg .. | .assayCtx .. | .laneCtrl .. | .anlRun .. | .domainSet .. | .hldCfg ..
  | .thmCfg .. | .fanForceEnd .. | .biasQueue .. | .unitCtrl .. | .hbRead .. | .hbClear .. | .hbClearEraseEnd ..
  | .ladleMove .. | .ladleWithdraw .. | .ladleEngineStart .. | .ladleMoveEnd .. | .heldCommandStart .. | .coalesceTimer ..
  | .msixUnmask .. | .hkaQpopRead .. | .fhFrameRx .. | .owdMessageRx .. | .ptpFrameRx .. | .ppsEdge .. | .timeSourceLost ..
  | .noMasterTimeout .. | .modeAckTimeout .. | .flkReadyTimeout .. | .trainingFrameRx ..
  | .trainingFallback .. | .laneUp .. | .detectorAssert .. | .detectorClear .. | .retryStart .. | .attemptFail ..
  | .potFault .. | .potRetestEnd .. | .temperSolveEnd .. | .divergeRetry .. | .temperRefreshDue .. | .dpdStale ..
  | .rxOverload .. | .anlGuardPeriod .. | .anlRepeatTimeout .. | .noGuard .. | .anlAgeTrigger .. | .hkConversionDone ..
  | .hkRound .. | .comparatorCrossing .. | .biasUpdateTick .. | .domainExitStart .. | .ctlEntryStart .. | .pwakeEdge ..
  | .holdingWindowEnd .. | .darkCheck .. | .hbSnapshotDue .. | .hbSnapshot .. | .hourComplete .. | .hbFreeScan ..
  | .checkerSync .. | .comparatorRearm .. | .anlSaveEnd .. => true

end Sys2Proof
end

