-- ==== Sys2Proof/Tests/Slice0.lean ====
section
/-! SUPPORT. Small checks of the model: ill-formed operands are refused, every statement's hypotheses are met by a concrete state, and
single steps give what the spec's own numbers give. -/

namespace Sys2Proof.Tests
open Sys2Proof.Machine

set_option maxRecDepth 20000
set_option Elab.async false

/-! ### States and descriptors to try -/

/-- Two places in command ring 0. -/
def ref0 : CmdRef := ⟨0, 0⟩
def ref1 : CmdRef := ⟨0, 1⟩

/-- A descriptor with VERSION 1 and the given (byte, value) pairs. -/
def desc (l : List (Nat × Nat)) : Desc := BitVec.ofNat 512 (l.foldl (fun n p => n ||| p.2 <<< (8 * p.1)) (1 <<< 24))

/-- Every domain on, the reference and the sample clock locked, and SYN on once. -/
def on : State := { State.reset with
  syn := { State.reset.syn with everOn := true, refState := .locked, active := .refIn, qual := 2, pllLocked := true }
  pwr := { State.reset.pwr with dom := Vector.replicate 14 .on } }

/-- `on` with a carrier of 24 PRB in BFS on each carrier and a pattern of a downlink and an uplink slot, inside slot 1. -/
def ran : State := { on with
  air := { on.air with spanKhz := some 3500000, cc := Vector.replicate 2 { nprb := 24, bwMhz := 10 }, period := 2, slots := 4 }
  mod := { on.mod with cc := Vector.replicate 2 ⟨4, 0, 0⟩ }
  tb := { on.tb with airNext := 19, dlNext := 21, ulNext := 18 } }

/-- `on` with one command in the list, and the next number 1. -/
def onCmd (c : Cmd) : State := { on with host := { on.host with cmds := [c], nextSeq := 1 } }

/-- The row of a command at ring place 0. -/
def row (f : CmdDef) (d : Desc) : CommandRow := ⟨0, ref0, d, f⟩

/-- The state that a command leaves. -/
def after (i : Instr) (s : State) : State :=
  match exec i s with
  | .next t => t
  | _ => s

/-! ### Well-formed commands -/

theorem wf_fuse_twice : (Instr.fuseProgram 0 [300, 300]).wf = false := by decide
theorem wf_uplink_layer : (Instr.ulWorkTick [⟨0, 32⟩] []).wf = false := by decide
theorem wf_uplink_part : (Instr.uplinkAssembly 0 0 false 0 [{ i := 32768, q := 0 }]).wf = false := by decide
theorem wf_psum_layer : (Instr.psumRecordSend 0 0 512).wf = false := by decide
theorem wf_capture_word : (Instr.captureEnd 0 ref0 [{ off := 2, word := 0 }]).wf = false := by decide
theorem wf_doorbell_width : (Instr.commandDoorbell 0 0 0 0 []).wf = false := by decide
theorem wf_doorbell_store : (Instr.consumerDoorbell 0 0 4 0 [(2 ^ 64, 0)]).wf = false := by decide
theorem wf_fetch_nine : (Instr.descriptorFetch 0 0 9 []).wf = false := by decide
theorem wf_fetch_error : (Instr.descriptorFetch 0 0 1 [1]).wf = false := by decide
theorem wf_enable_off : (Instr.ringEnable 0 0 0 []).wf = false := by decide
theorem wf_disable_on : (Instr.ringDisable 0 0 0x80000000).wf = false := by decide
theorem wf_low_word : (Instr.lowWordRead 0 0 4).wf = false := by decide
theorem wf_high_word : (Instr.highWordWrite 0 0 8 0).wf = false := by decide
theorem wf_request_empty : (Instr.accessDark 0 { len := 0 }).wf = false := by decide
theorem wf_request_long : (Instr.registerWrite 0 .bar0 { len := 513 }).wf = false := by decide
theorem wf_prbs_errors : (Instr.prbsSyncLost 0 0 2 1).wf = false := by decide
theorem wf_survey_paths : (Instr.surveyPeriodEnd (List.replicate 65 {})).wf = false := by decide
theorem wf_detector_mean : (Instr.powerDetectorReport 0 0 40000).wf = false := by decide
theorem wf_saturated_twice : (Instr.airSlotTick { rxSat := [(0, 1), (0, 1)] }).wf = false := by decide
theorem wf_pour_phase : (Instr.pourFrameRx 0 0 0 { hdr := 0, phase := 4070 }).wf = false := by decide
theorem wf_quench_cause : (Instr.quench 0 4 0 0).wf = false := by decide
theorem wf_signatures : (Instr.domainEntryDone 0 2 (List.replicate 33 0)).wf = false := by decide
theorem wf_nop : (Instr.nop 0 ref0 (desc [])).wf = true := by decide

/-! ### Witnesses: supervision, resets, clocks and synthesisers -/

theorem witness_StepRunsFront_idle : State.reset.pending = [] := rfl
theorem witness_ControlPortReset : on.ldl.ch[7].move = none := by decide +kernel
def withdrawn : State := modCh on 0 fun x => { x with move := some { ref := ref0, dstSp := 1, len := 64 } }
theorem witness_ControlPortReset_waiting : withdrawn.ldl.ch[0].move = some { ref := ref0, dstSp := 1, len := 64 } := by decide +kernel
theorem witness_FuseProgram : (1#4096).getLsbD 0 = true ∧ (1#4096).getLsbD 4095 = false ∧
    fuseOpen State.reset.fus.array 2943 = true := by decide +kernel
def notYetOn : State := { on with syn := { on.syn with everOn := false } }
theorem witness_OutOfReset : notYetOn.syn.everOn = false ∧ notYetOn.syn.refState = .locked ∧ laneLive notYetOn 15 = true ∧
    inLts notYetOn 15 = false := by decide +kernel
theorem witness_SourceEvents : Source.refIn ≠ .none ∧ vget notYetOn.pwr.dom 3 .off ≠ .off ∧ vget notYetOn.pwr.dom 3 .off ≠ .retention ∧
    notYetOn.syn.everOn = false ∧ bestSource (after (.sourceQualified 0 .refIn) notYetOn) ≠ 0 := by decide +kernel
theorem witness_SourceEvents_lost : on.syn.everOn = true ∧ on.syn.refLost = false ∧ on.syn.active ≠ .none ∧
    bestSource (after (.sourceLost 0 .refIn) on) = 0 := by decide +kernel
def searching : State := { on with syn := { on.syn with holdoverAt := some 0 } }
theorem witness_ClockLoss : searching.syn.holdoverAt = some 0 ∧ on.syn.pllLocked = true ∧ clkOn on = true ∧ on.tx.retuned = 0 := by
  decide +kernel
def pllDown (l : List Nat) : State := { on with syn := { on.syn with pllLocked := false, pllFaults := l } }
theorem witness_Relock : (pllDown [0, 0]).syn.pllLocked = false ∧ (pllDown [0, 0]).syn.pllRetired = false ∧ clkOn (pllDown [0, 0]) = true ∧
    (recent 0 (pllDown [0, 0]).syn.pllFaults).length < 3 ∧ 3 ≤ (recent 0 (pllDown [0, 0, 0]).syn.pllFaults).length := by decide +kernel
def synth4 (f : Synth → Synth) : State := modSynth { on with air := ran.air, syn := { on.syn with serves := 3 } } 4 f
def locked4 (l : List Nat) : State := synth4 fun x => { x with state := .locked, faults := l }
theorem witness_SynUnlock : (synthOf (locked4 [0, 0]) 4).state = .locked ∧ (recent 0 (synthOf (locked4 [0, 0]) 4).faults).length < 3 ∧
    3 ≤ (recent 0 (synthOf (locked4 [0, 0, 0]) 4).faults).length := by decide +kernel
def tries4 : State := synth4 fun x => { x with state := .search, attemptAt := some 0 }
theorem witness_RelockFail_SynLock : (synthOf tries4 4).attemptAt = some 0 ∧ (synthOf tries4 4).state = .search := by decide +kernel
def waits4 : State := synth4 fun x => { x with state := .gated, retryAt := some 0 }
theorem witness_RelockStart : (synthOf waits4 4).retryAt = some 0 ∧ synCanRun waits4 4 = true ∧ (spanCentre waits4).isSome := by
  decide +kernel

/-! ### Witnesses: lanes -/

def lane39 (f : Lane → Lane) : State := modLane on 39 f
def tries39 (k : AttemptKind) (m : TrainMode) (got : Bool) (l : List Nat) : State :=
  lane39 fun x => { x with state := .training, attempt := some { kind := k, startAt := 0, mode := m, got := got }, retries := l }
theorem witness_LaneUp : domOn (tries39 .first .fixed false []) (laneDom 39) = true ∧ trainedUp (tries39 .first .fixed false []) 39 = true := by
  decide +kernel
theorem witness_RetryStart : (laneOf (lane39 fun x => { x with retryAt := some 0 }) 39).retryAt = some 0 := by decide +kernel
theorem witness_TrainingFrame : (laneOf (tries39 .first .on false []) 39).attempt = some { kind := .first, startAt := 0, mode := .on } ∧
    TrainMode.on ≠ .fixed := by decide +kernel
theorem witness_TrainingFallback : (laneOf (tries39 .first .auto false []) 39).attempt =
    some { kind := .first, startAt := 0, mode := .auto } := by decide +kernel
theorem witness_DetectorClear : domOn on (laneDom 15) = true ∧ clkOn on = true ∧ (laneOf on 15).state = .down ∧ (laneOf on 15).retired = false ∧
    inLts on 15 = false ∧ domOn on (laneDom 39) = true := by decide +kernel
def lts0 : State := { modLane on 0 (fun x => { x with chk := 1, chkSync := true }) with mod := { on.mod with ltsFh := 1 } }
theorem witness_Checker : inLts lts0 0 = true ∧ (laneOf lts0 0).chk ≠ 0 ∧ (laneOf lts0 0).chkSync = true := by decide +kernel
def up39 (l : List Nat) : State := lane39 fun x => { x with state := .up, inDist := true, retries := l }
theorem witness_LaneFault : domOn (up39 [0, 0]) (laneDom 39) = true ∧ inLts (up39 [0, 0]) 39 = false ∧ (laneOf (up39 [0, 0]) 39).state = .up ∧
    (laneOf (up39 [0, 0]) 39).retired = false ∧ (recent 0 (laneOf (up39 [0, 0]) 39).retries).length < 3 ∧
    3 ≤ (recent 0 (laneOf (up39 [0, 0, 0]) 39).retries).length := by decide +kernel
theorem witness_AttemptFail : (laneOf (tries39 .retry .on true [0, 0, 0]) 39).attempt =
      some { kind := .retry, startAt := 0, mode := .on, got := true } ∧
    (laneOf (tries39 .lts .fixed false []) 39).attempt = some { kind := .lts, startAt := 0, mode := .fixed } ∧
    3 ≤ (recent (attemptLimit { kind := .retry, startAt := 0, mode := .on, got := true }) (laneOf (tries39 .retry .on true [0, 0, 0]) 39).retries).length := by
  decide +kernel

/-! ### Witnesses: Anneal -/

/-- A run with both measurements taken, path 63 among its paths. -/
def solved (b : Bool) : AnlRun := { baseline := b, meas := 2, frames := 16, paths := 1#64 <<< 63 }

/-- Symbol `n` of a special slot is the present one, and a baseline run waits on a carrier with ANL. -/
def guarding (gp : Nat) : State := { ran with
  air := { ran.air with period := 1, sDl := 6, sGp := gp, sUl := 8 - gp, slots := 2 }
  mod := { on.mod with cc := Vector.replicate 2 ⟨20, 0, 0⟩ }
  tb := { on.tb with airNext := 21 }
  anl := { on.anl with state := .waiting, run := some { baseline := true } } }
def guardRun (s : State) : State × AnlRun := guardOpen (landsSampled (arrive 0 s) 0) { baseline := true }
def guardCount (s : State) : Nat := (guardRun s).2.frames + guardFrames ((guardRun s).1.anl.gpEnd - (guardRun s).1.anl.gpAt)
theorem witness_GuardPeriod : (guarding 2).anl.run = some { baseline := true } ∧
    guardUsable (landsSampled (arrive 0 (guarding 2)) 0) { baseline := true } = true ∧ (guardRun (guarding 2)).2.baseline = true ∧
    anlPrecondition (guardRun (guarding 2)).1 (guardRun (guarding 2)).2 (-3841) = 0 ∧ guardCount (guarding 1) < 16 ∧
    16 ≤ guardCount (guarding 2) := by decide +kernel
def solving (b : Bool) (n : Nat) : State :=
  { on with anl := { on.anl with state := .meas2, attempt := n, run := some (solved b) } }
def apart : AnlResult := { path := 63, m1 := { txPhase := 32767 } }
theorem witness_SolveEnd : (solving false 3).anl.run = some (solved false) ∧ (solving false 3).anl.state = .meas2 ∧
    ((anlUsed (solving false 3) (solved false) []).all fun x => anlAgree (solving false 3) x) = true ∧
    ((anlUsed (solving false 3) (solved false) [apart]).all fun x => anlAgree (solving false 3) x) = false ∧
    (solving false 3).anl.attempt < 4 := by decide +kernel
def timed (r : AnlRun) (st : AnlState) : State := { on with anl := { on.anl with state := st, run := some r } }
theorem witness_AnlTimers : (timed { meas := 2 } .meas1).anl.run = some { meas := 2 } ∧
    ({ meas := 2 } : AnlRun).m1End + 49152000 ≤ (timed { meas := 2 } .meas1).tb.now + 49152000 ∧
    (timed {} .waiting).anl.state = .waiting ∧ ({} : AnlRun).since + 491520000 ≤ (timed {} .waiting).tb.now + 491520000 := by decide +kernel
def aged : State := { guarding 1 with anl := { on.anl with run := none, last := some 0 } }
theorem witness_AnlAge : maxAge aged ≠ 0 ∧ aged.anl.last.isSome ∧ aged.anl.lastAt + maxAge aged ≤ aged.tb.now + maxAge aged ∧ aged.anl.state ≠ .blocked ∧
    txBarred aged = false ∧ anlCarriers aged ≠ [] ∧ aged.anl.run = none := by decide +kernel
def saves : State := { on with anl := { on.anl with saving := some ref0, newest := 1 } }
theorem witness_AnlSave : saves.anl.saving = some ref0 ∧ saves.anl.newest < 2 := by decide +kernel

/-! ### Witnesses: housekeeping, comparators, fans and Quench -/

def converting (n : Nat) : State := { on with hka := { on.hka with busy := some 159, queue := List.replicate n 1 } }
theorem witness_Conversion : (converting 511).hka.busy = some 159 ∧ (converting 511).hka.queue.length < 512 ∧
    512 ≤ (converting 512).hka.queue.length := by decide +kernel
theorem witness_Qpop : domOn (converting 1) 1 = true ∧ darkAt (converting 1) 0x60030 = none ∧ (converting 1).hka.queue = 1 :: [] := by
  decide +kernel
def quenched : State := { on with thm := { on.thm with quench := true } }
theorem witness_HkRound : quenched.thm.quench = true ∧ (after (.hkRound 0) quenched).thm.quench = true := by decide +kernel
def compares : State := modCmp on 15 fun x => { x with en := true, ch := 95 }
theorem witness_Comparator : cmpLive compares 15 = true ∧ (cmpOf compares 15).state ≠ 2 := by decide +kernel
def forced : State := modFan on 3 fun x => { x with force := some (64, 491520000) }
theorem witness_FanForceEnd : (vget forced.thm.fan 3 {}).force = some (64, 491520000) := by decide +kernel
def hot (j : Nat) (f : Sensor → Sensor) : State :=
  { modSensor on j f with fus := { on.fus with loaded := 0x7D#4096 <<< 2808 } }
theorem witness_Quench : (hot 15 fun x => { x with type := 1 }).thm.quench = false ∧
    quenchMet (arrive 0 (hot 23 id)) 1 23 1000 = true ∧ quenchMet (arrive 0 (hot 15 fun x => { x with type := 1 })) 2 15 1000 = true ∧
    quenchMet (arrive 0 (hot 15 fun x => { x with type := 1, broken := true, temp := some 1000 })) 3 15 1000 = true := by decide +kernel
def queues : State := modBias (modBias on 0 fun x => { x with queue := [.code 9, .span 1] }) 127 fun x => { x with queue := [.span 0] }
theorem witness_BiasUpdate : tbOn queues = true ∧ (vget queues.bias.out 0 {}).queue = [.code 9, .span 1] ∧
    (vget queues.bias.out 127 {}).queue = [.span 0] ∧ (vget queues.bias.out 127 {}).released = none ∧
    (vget queues.bias.out 1 {}).queue = [] := by decide +kernel

/-! ### Witnesses: power domains, wakes and Holding -/

def moves (d : Nat) (x : DomState) : State :=
  { on with pwr := { on.pwr with dom := vmod on.pwr.dom d (fun _ => .moving), target := vmod on.pwr.target d (fun _ => x) } }
theorem witness_EntryDone : vget (moves 13 .retention).pwr.dom 13 .off = .moving ∧ vget (moves 13 .retention).pwr.target 13 .on ≠ .on := by
  decide +kernel
def exits (d : Nat) : State := { on with pwr := { on.pwr with
  dom := vmod on.pwr.dom d (fun _ => .retention), cmd := some { names := 0x3FFE, target := 0xFFFFFFF } } }
theorem witness_ExitStart : exitCan (exits 13) 13 = true ∧ exitCan (exits 1) 1 = true := by decide +kernel
theorem witness_ExitDone : exitEnds (moves 13 .on) 13 = true ∧ exitEnds (moves 3 .on) 3 = true := by decide +kernel
def entersCtl : State := { on with pwr := { on.pwr with ctlEntryAt := some (49152, .off) } }
theorem witness_CtlEntry : entersCtl.pwr.ctlEntryAt = some (49152, .off) := by decide +kernel
def keeps (d : Nat) : State :=
  { moves d .on with pwr := { (moves d .on).pwr with origin := vmod on.pwr.origin d (fun _ => .retention), kept := vmod on.pwr.kept d (fun _ => true) } }
theorem witness_ExitDone_kept : exitEnds (keeps 8) 8 = true ∧ vget (keeps 8).pwr.origin 8 .off = .retention ∧
    vget (keeps 8).pwr.kept 8 false = true ∧ 0 < (banksOf 8).2 ∧ (banksOf 8).1 + (banksOf 8).2 ≤ 32 ∧
    [1].getD 0 0 ≠ vget (keeps 8).pwr.sign (banksOf 8).1 0 := by decide +kernel
def ctlSleeps (c : Option DomCmd) : State :=
  { on with pwr := { on.pwr with dom := vmod on.pwr.dom 1 (fun _ => .retention), cmd := c }, hld := { on.hld with wakeCfg := 0x40 } }
theorem witness_Wakes : pwrBusy (ctlSleeps (some {})) = true ∧ pwrBusy (ctlSleeps none) = false ∧ (ctlSleeps none).thm.quench = false ∧
    wakeAction (ctlSleeps none) 4 = 1 ∧ domOn (ctlSleeps none) 1 = false ∧ vget (ctlSleeps none).pwr.dom 1 .on = .retention := by
  decide +kernel
def holding (st : HldState) : State := { modModCc on 1 (fun x => { x with set := 0x22 }) with
  hld := { on.hld with state := st, blindLeft := 1, tap := vmod on.hld.tap 7 (fun _ => { en := true, path := 63, votes := List.replicate 15 false }) } }
theorem witness_HoldingWindow : (holding .blind).hld.pend = [] ∧ (holding .blind).hld.state = .blind ∧ (holding .watch).hld.state = .watch ∧
    tapVotes (holding .watch) 7 = true ∧ tapVotes (holding .watch) 0 = false ∧
    (after (.holdingWindowEnd 0 128) (holding .watch)).hld.state = .watch := by decide +kernel
def darkens : State := modOrx (holding .watch) 7 fun x => { x with holder := 3 }
theorem witness_DarkCheck : darkChecks darkens = true ∧ (vget darkens.rx.orx 7 {}).holder = 3 ∧ (vget darkens.rx.orx 7 {}).darkAt ≤ darkens.tb.now + 0 ∧
    (vget darkens.rx.orx 6 {}).holder ≠ 3 ∧ sx 8 darkens.hld.darkLvl.toNat * 64 < 0 := by decide +kernel

/-! ### Witnesses: the Heat Book -/

def snapping (l : List SnapReq) (h : Nat) : State :=
  { on with hb := { on.hb with snaps := l, scanned := true, hours := h, next := recArea - 130 } }
theorem witness_Snapshot : (snapping [⟨1, none⟩] 0).hb.snaps = [⟨1, none⟩] ∧ snapRuns (snapping [⟨1, none⟩] 0) = true ∧
    (snapping [⟨1, none⟩] 0).hb.clearing = none := by decide +kernel
theorem witness_SnapshotDue : (snapping [] 168).hb.lastSnapHours + (snapping [] 168).hb.interval ≤ (snapping [] 168).hb.hours ∧
    (snapping [] 168).hb.fail = false ∧ (snapping [] 168).hb.full = false ∧ (snapping [] 168).hb.next + 130 ≤ recArea := by decide +kernel
def erases : State := { on with hb := { on.hb with clearing := some ref0 } }
theorem witness_EraseEnd : erases.hb.clearing = some ref0 := by decide +kernel
theorem witness_Hour : domOn on 1 = true ∧ on.hb.fail = false ∧ on.hb.hours < 524288 ∧ domOn (ctlSleeps none) 1 = false ∧
    on.hb.scanned = false ∧ on.hb.recs = [] := by decide +kernel

/-! ### Witnesses: Ladle, ticks, windows and the Crucible -/

def moving (k : MoveKind) (st : Bool) : State := { modCh on 7 (fun x => { x with move := some { ref := ref0, kind := k, len := 64, started := st } }) with
  host := { on.host with cmds := [{ ref := ref0, d := desc [], stage := .running none }], nextSeq := 1 } }
def engine (r : Option Nat) : State :=
  { moving .pattern r.isSome with ldl := { (moving .pattern r.isSome).ldl with running := r, lastServed := 7 } }
theorem witness_EngineStart : (engine none).ldl.running = none ∧
    moveReady (engine none) (((engine none).ldl.lastServed + 1 + 7) % 8) = true ∧
    (∀ j < 7, moveReady (engine none) (((engine none).ldl.lastServed + 1 + j) % 8) = false) := by decide +kernel
theorem witness_MoveEnd : (engine (some 7)).ldl.running = some 7 ∧
    (chOf (engine (some 7)) 7).move = some { ref := ref0, kind := .pattern, len := 64, started := true } ∧
    (moveOutcome { ref := ref0, kind := .pattern, len := 64, started := true } 0 (some 0)).cause = cHostRead := by decide +kernel
def tickAtSym (k : Nat) : State := { ran with tb := { ran.tb with airNext := k } }
theorem witness_AirSymbolTick : tbOn ran = true ∧ ran.tb.airNext % 14 ≠ 0 ∧ ran.tb.voidCounts = 0 ∧ noneBound ran ∧
    ran.tb.now ≤ tickT ran ran.tb.airNext := by decide +kernel
theorem witness_AirSlotTick : tbOn (tickAtSym 14) = true ∧ (tickAtSym 14).tb.airNext % 14 = 0 ∧ (tickAtSym 14).tb.airNext % 280 ≠ 0 ∧
    (tickAtSym 14).tb.voidCounts = 0 ∧ noneBound (tickAtSym 14) := by decide +kernel
theorem witness_AirFrameTick : tbOn (tickAtSym 560) = true ∧ (tickAtSym 560).tb.airNext % 280 = 0 ∧ (tickAtSym 560).tb.gridPend = none ∧
    (tickAtSym 560).tb.stepDue = none ∧ noneBound (tickAtSym 560) ∧ (tickAtSym 560).run.state ≠ .aligning ∧
    (tickAtSym 560).run.state ≠ .inService := by decide +kernel
theorem witness_SymbolTicks : ran.tb.gridK ≤ 14 ∧ ran.tb.gridK % 14 = 0 := by decide +kernel
theorem witness_WeightFill : domOn ran 8 = true ∧ tbOn ran = true ∧ actOf ran 0 < 2 ∧ actOf ran 1 < 2 := by
  decide +kernel
/-- The uplink window of symbol 14 is open, with layer 0 placed here: its end is member `e`. -/
def assembling (e : Nat) : State := { ran with
  gen := { ran.gen with flaskId := 0 }, cru := { ran.cru with ulSym := 14 }
  mod := { ran.mod with cc := Vector.replicate 2 ⟨12, 0, 0⟩ }
  run := { ran.run with
    position := 1, members := [(3, 0)], state := .inService
    computed := [{ member := 0, slotAbs := 1, entries := [
      { layer := 0, dir := 1, ccs := 3, isEnd := e == 0, endMember := e, port := 0, cope := (0, 11), span := 1 }] }] } }
theorem witness_UplinkAssembly : samplesFlow (assembling 0) = true ∧ isUl (assembling 0) (assembling 0).cru.ulSym = true ∧
    bit (setAt (assembling 0) 1 (assembling 0).cru.ulSym) 2 = true ∧ ulDone (assembling 0) 1 0 = false ∧
    ((placedAt (assembling 0) 1 1 (assembling 0).cru.ulSym).find? fun e => e.layer == 0 && e.isEnd).any
      (fun e => missingMembers (assembling 0) 1 e == 0) = true ∧
    ulDone (after (.uplinkAssembly 0 1 false 0 []) (assembling 0)) 1 0 = true := by decide +kernel
/-- The same window on carriers that stream, with the carriers' port in traffic or not. -/
def streaming (up : Bool) : State := { modLane (assembling 0) 0 (fun x => { x with state := .up, inDist := up }) with
  mod := { ran.mod with cc := Vector.replicate 2 ⟨2, 0, 0⟩ } }
theorem witness_UplinkAssembly_stream : samplesFlow (streaming true) = true ∧ isUl (streaming true) (streaming true).cru.ulSym = true ∧
    bit (setAt (streaming true) 1 (streaming true).cru.ulSym) 1 = true ∧ portUp (streaming true) (portOfCode 0) = true ∧
    portLeaving (streaming true) (portOfCode 0) = false ∧ portUp (streaming false) (portOfCode 0) = false ∧
    (fhOf (streaming true) 1).astPort = 0 := by decide +kernel
def sending : State := { modLane (assembling 3) 27 (fun x => { x with state := .up, inDist := true }) with gen := { ran.gen with master := true } }
theorem witness_PsumRecordSend : ulDone sending 1 0 = false ∧ suspended sending 1 = false ∧
    (((placedAt sending 1 1 sending.cru.ulSym).find? fun e => e.layer == 0 && !e.isEnd && !e.isLocal).bind (towardEnd sending 1)) = some (0, 11) ∧
    partsSent sending 1 0 < (psumRuns sending 1).length ∧ (laneOf sending (16 + 12 * 0 + 11)).leaveIn = 0 ∧
    (laneOf sending (16 + 12 * 0 + 11)).inDist = true := by decide +kernel
theorem witness_LockCheck : tbOn ran = true ∧ ran.tx.checkedSym ≠ some ran.tb.airNext := by decide +kernel
def potWith (f : Pot → Pot) : State := modPot on 7 f
theorem witness_PotFault : domOn (potWith id) 8 = true ∧ (potOf (potWith id) 7).retired = false ∧ (potOf (potWith id) 7).state ≠ 1 ∧
    (recent 0 (potOf (potWith fun x => { x with faults := [0, 0] }) 7).faults).length < 3 ∧
    3 ≤ (recent 0 (potOf (potWith fun x => { x with faults := [0, 0, 0] }) 7).faults).length ∧
    (potOf (potWith fun x => { x with state := 1, testing := true }) 7).testing = true := by decide +kernel

/-! ### Witnesses: transmit, receive, captures and the survey -/

def path63 (f : TxPath → TxPath) : State := modTx on 63 f
theorem witness_Overpower : pathMax (path63 id) + 64 < 577 ∧ (txOf (path63 id) 63).regOver = false ∧ (576 : Int) ≤ pathMax (path63 id) + 64 ∧
    (rxOf on 63).protEn = true ∧ domOn on (10 + 63 / 16) = true ∧ runProtects (arrive 0 on) 63 = false := by decide +kernel
def adapts : State := modDpd on 63 fun x => { x with state := 1, nmse := -2560, obs := some 0 }
theorem witness_TemperSolve : (dpdOf adapts 63).state = 1 ∧ (dpdOf adapts 63).obs.any (fun n => decide (adapts.tb.now + 491520 ≤ n + 491520)) = true ∧ (txOf adapts 63).retiredNow = false ∧ (dpdOf adapts 63).nmse + 32 < -2527 ∧
    (-2528 : Int) ≤ (dpdOf adapts 63).nmse + 32 ∧ (-2528 : Int) ≤ -(64 * (adapts.tx.divThr : Int)) := by decide +kernel
theorem witness_DpdStale : (txOf (path63 fun x => { x with radiating := true }) 63).radiating = true ∧
    4 * refreshCounts on ≤ on.tb.now + 4 * refreshCounts on - (dpdOf on 63).lastAt ∧ (dpdOf on 63).stale = false := by decide +kernel
theorem witness_DivergeRetry : (dpdOf (modDpd on 63 fun x => { x with retryAt := some 0 }) 63).retryAt = some 0 := by decide +kernel
/-- A command of opcode `op` that runs at ring place 0. -/
def runsCmd (op : Nat) (l : List (Nat × Nat)) (due : Option Nat) (note : BitVec 64) : Cmd :=
  { ref := ref0, d := withOp op (desc l), stage := .running due, note := note }
def captures (op : Nat) (l : List (Nat × Nat)) (due : Option Nat) (note : BitVec 64) : State :=
  { onCmd (runsCmd op l due note) with tb := ran.tb, air := ran.air }
theorem witness_CaptureEnd : runningOf (captures 0x41 [(16, 2), (17, 18)] none 0) ref0 0x0041 = some (runsCmd 0x41 [(16, 2), (17, 18)] none 0) ∧
    dB (runsCmd 0x41 [(16, 2), (17, 18)] none 0).d 17 ≤
      capDone (arrive 0 (captures 0x41 [(16, 2), (17, 18)] none 0)) (runsCmd 0x41 [(16, 2), (17, 18)] none 0) := by decide +kernel
theorem witness_CaptureEnd_orx : runningOf (captures 0x41 [(16, 3), (17, 1)] none 1) ref0 0x0041 = some (runsCmd 0x41 [(16, 3), (17, 1)] none 1) ∧
    dB (runsCmd 0x41 [(16, 3), (17, 1)] none 1).d 17 ≤
      capDone (arrive 0 (captures 0x41 [(16, 3), (17, 1)] none 1)) (runsCmd 0x41 [(16, 3), (17, 1)] none 1) := by decide +kernel
theorem witness_SoundingCaptureEnd : cmdOf (captures 0x52 [] none 0) ref0 = some (runsCmd 0x52 [] none 0) ∧
    dOp (runsCmd 0x52 [] none 0).d = 0x0052 ∧
    (runsCmd 0x52 [] none 0).note.toNat + dB (runsCmd 0x52 [] none 0).d 17 ≤ symNow (arrive 0 (captures 0x52 [] none 0)) := by decide +kernel
theorem witness_NoGrant_LoTimeout :
    runningOf (captures 0x41 [(16, 3)] (some 491520000) 0) ref0 0x0041 = some (runsCmd 0x41 [(16, 3)] (some 491520000) 0) ∧
    cmdOf (captures 0x30 [] (some 491520000) 0) ref0 = some (runsCmd 0x30 [] (some 491520000) 0) ∧
    dOp (runsCmd 0x30 [] (some 491520000) 0).d = 0x0030 := by decide +kernel
def surveys : State := { on with air := ran.air, mod := { on.mod with surveyFrames := 11 } }
theorem witness_Survey : surveyOn surveys = true ∧ 11 ≤ surveys.mod.surveyFrames ∧ noBand surveys = false := by decide +kernel

/-! ### Witnesses: fronthaul frames, one-way delay, PTP, 1PPS -/

/-- Port 15 carries traffic; the grid's slot 2 is downlink and its window is open; a book of layer 0 expects message 7. -/
def listens (leave : Nat) : State := { modLane ran 15 (fun x => { x with state := .up, inDist := true, leaveIn := leave }) with
  tb := { ran.tb with now := 430000 }
  mod := { ran.mod with cc := Vector.replicate 2 ⟨6, 0, 0⟩ }
  fh := { ran.fh with books := [{ pool := 64, limit := 1, nextSeq := some 7 }] } }
def port15 : Port := .single 15
/-- An Ethernet frame to an address with an EtherType, and an eCPRI message of type 0 and one section. -/
def ether (to_ type : Nat) (l : List Byte) : List Byte := bytesBE 6 to_ ++ bytesBE 6 1 ++ bytesBE 2 type ++ l
def iqMsg (kind : Nat) (n : Nat) : List Byte :=
  let body : List Byte := bytesBE 2 (kind * 4096) ++ ([7, 0x80] : List Byte) ++ bytesLE 4 (1 <<< 24 ||| 2 <<< 10) ++ bytesLE 4 0 ++
    bytesLE 4 (1 <<< 22 ||| 1 <<< 11) ++ bytesLE 4 0 ++ List.replicate n 0
  ([0x10, 0] : List Byte) ++ bytesBE 2 body.length ++ body
def frameTo (to_ kind n : Nat) : FhFrame := { bytes := ether to_ 0xAEFE (iqMsg kind n) }
theorem witness_Discards : portUp (listens 0) port15 = true ∧ 60 ≤ (frameTo 15 0 88).bytes.length ∧ ([] : List Byte).length < 60 ∧
    portFecOn (listens 0) port15 = false ∧ portLeaving (listens 1) port15 = true ∧ portLeaving (listens 0) port15 = false ∧
    beAt (frameTo 16 0 88).bytes 0 6 ≠ portMac (listens 0) port15 ∧ beAt (frameTo 16 0 88).bytes 0 6 ≠ 2 ^ 48 - 1 ∧
    beAt (ether 15 0x0800 (List.replicate 46 0)) 0 6 = portMac (listens 0) port15 ∧
    60 ≤ (ether 15 0x0800 (List.replicate 46 0)).length ∧ (frameHead (ether 15 0x0800 (List.replicate 46 0))).2.2 ≠ 0xAEFE := by decide +kernel
theorem witness_Discards_fec : portFecOn { listens 0 with lanes := { (listens 0).lanes with portFec := 0x8000 } } port15 = true := by
  decide +kernel
/-- The frame passes every check of a downlink message in the state. -/
def passes (f : FhFrame) (s : State) (q : Parsed → Bool) : Bool :=
  let a := arrive 0 s
  portUp s port15 && decide (60 ≤ f.bytes.length) && !portLeaving s port15 && beAt f.bytes 0 6 == portMac s port15 &&
  decide ((frameHead f.bytes).2.1 ≤ 1) && (frameHead f.bytes).2.2 == 0xAEFE && decide ((f.bytes.drop (frameHead f.bytes).1).length ≤ 9000) &&
  match splitMsgs 2300 (f.bytes.drop (frameHead f.bytes).1) with
  | ([m], true, 0) => m.rev == 1 && m.type == 0 && (match parseMsg a m with
      | .ok x => !x.ctrl && takesKind a x && isDl a x.sym && (windowCause a x).isNone && !layerShed a x && !overlaps a x && q x
      | .error _ => false)
  | _ => false
theorem witness_Held_direct : passes (frameTo 15 1 116) (listens 0) (fun x => x.kind == 1) = true := by decide +kernel
theorem witness_Held_credited : passes (frameTo 15 0 88) (listens 0) (fun x => x.kind == 0 && (bookOf (listens 0) x.cc false x.id).any
    fun b => b.nextSeq == some x.seq && b.closing == 0 && decide (0 < bookHeld b)) = true := by decide +kernel
def owdOpen (own : Bool) : State :=
  { listens 0 with fh := { ran.fh with owdReq := [{ port := port15, mid := 255, own := own, stamp := 0 }] } }
theorem witness_Owd : portUp (owdOpen true) port15 = true ∧ (owdFind (owdOpen true) port15 255 true).isSome ∧
    (owdFind (owdOpen false) port15 255 false).isSome := by decide +kernel
def ptpOn15 : State := { listens 0 with tb := { on.tb with ptpPort := 15 } }
theorem witness_Ptp : tbOn ptpOn15 = true ∧ port15.code = ptpOn15.tb.ptpPort.toNat ∧ (Port.single 0).code ≠ ptpOn15.tb.ptpPort.toNat ∧
    ptpOn15.tb.ptpDomain = 24 := by decide +kernel
/-- An edge that the device stamps `x` ns after its second. -/
def edgeAt (x : Nat) (acq : Bool) (base : State) : State :=
  { base with tb := { base.tb with tod := x * todNs, acquire := acq, state := .holdover } }
theorem witness_Pps : tbOn (edgeAt 1000 false on) = true ∧ (edgeAt 1000 false on).tb.source = .pps ∧ flaskTimed (edgeAt 1000 false on) = false ∧
    (edgeAt 1000 false on).run.state ≠ .suspended ∧ (edgeAt 1000 false on).tb.acquire = false ∧
    (ppsOffset (arrive 0 (edgeAt 1000 false on))).natAbs ≤ 16 * (edgeAt 1000 false on).tb.jumpLim ∧
    16 * (edgeAt 1001 false on).tb.jumpLim < (ppsOffset (arrive 0 (edgeAt 1001 false on))).natAbs ∧
    anyBfs (edgeAt 1000 true on) = false ∧ anyBfs (edgeAt 1000 true ran) = true := by decide +kernel
theorem witness_TimeSourceLost : tbOn { on with tb := { on.tb with state := .locked } } = true ∧ on.tb.source = .pps := by decide +kernel

/-! ### Witnesses: the cascade and the flask -/

def pours (n : Nat) : State := modLane on 39 fun x => { x with state := .up, badPour := n }
def pourHead (cls sub n layer sym : Nat) : BitVec 96 := BitVec.ofNat 96 (cls ||| sub <<< 3 ||| n <<< 16 ||| sym <<< 32 ||| layer <<< 64)
/-- A Pour frame with its FCRC. -/
def pourOf (cls sub layer sym : Nat) (l : List Byte) : PourFrame :=
  { hdr := pourHead cls sub l.length layer sym, payload := l
    fcrc := crc32cNext 0xFFFFFFFF (bytesLE 12 (pourHead cls sub l.length layer sym).toNat ++ l) ^^^ 0xFFFFFFFF }
theorem witness_PourFrame : laneIsUp (pours 2) (16 + 12 * 1 + 11) = true ∧ domOn (pours 2) 6 = true ∧
    pourBadFrame { hdr := 0, codeErr := true } = true ∧ pourBadFrame { hdr := 0 } = true ∧ (laneOf (pours 2) 39).badPour < 3 ∧
    laneIsUp on 39 = false ∧ (laneOf on 39).leaveIn = 0 := by decide +kernel
theorem witness_PourFrame_tick : pourBadFrame (pourOf 2 2 0 0 (List.replicate 12 0)) = false ∧
    pourBadHeader (pourOf 2 2 0 0 (List.replicate 12 0)) = false ∧ (pours 2).gen.master = false := by decide +kernel
/-- A member that combines layer 0 of CC0 in uplink slot 1, window 14 open, and holds layer 2 downlink in slot 2. -/
def joined : State := { modLane (assembling 0) 39 (fun x => { x with state := .up, badPour := 2 }) with
  tb := { ran.tb with now := 430000 }
  run := { (assembling 0).run with computed := (assembling 0).run.computed ++ [{ member := 0, slotAbs := 2, entries := [
    { layer := 0, dir := 0, ccs := 1, isEnd := false, endMember := 1, port := 0, span := 3 }] }] } }
def psumBytes : List Byte := psumRecord 0 0 (symId joined 20) 0 1 2 false (sectionVals joined 0 0 20 0 1) (List.replicate 48 { i := 0, q := 0 })
theorem witness_PourFrame_psum : pourBadFrame (pourOf 1 0 0 (symId joined 20) psumBytes) = false ∧
    pourBadHeader (pourOf 1 0 0 (symId joined 20) psumBytes) = false ∧
    (let a := arrive 0 joined
     let h := (pourOf 1 0 0 (symId joined 20) psumBytes).hdr.toNat
     (psumRead a h (symNamed a (a.cru.ulSym - 14) (bits h 50 32)) psumBytes).any fun p =>
       (entryAt a p.cc 1 p.layer p.sym).any fun e => !e.shed && decide (a.cru.ulSym < p.sym)) = true := by decide +kernel
theorem witness_PourFrame_copy : pourBadFrame (pourOf 0 0 0 (2 <<< 10) (iqMsg 0 88)) = false ∧
    pourBadHeader (pourOf 0 0 0 (2 <<< 10) (iqMsg 0 88)) = false ∧
    (let a := arrive 0 joined
     (splitMsgs 2 (iqMsg 0 88)).1.any fun m => match parseMsg a m with
       | .ok x => !x.ctrl && x.kind == 0 && !x.past && decide (a.tb.now + 26419 ≤ tickT a x.sym) && takesKind a x && !overlaps a x &&
           (entryAt a x.cc 0 x.id x.sym).any fun e => !e.shed
       | .error _ => false) = true := by decide +kernel
def seeks : State := { on with run := { on.run with state := .discovering, knownAt := some 0 } }
theorem witness_NoMaster : seeks.run.knownAt = some 0 ∧ seeks.run.state = .discovering ∧ seeks.gen.master = false ∧ masterSide seeks = none ∧
    0 + 491520000 ≤ seeks.tb.now + 491520000 ∧ seeks.tb.now + 491519999 < 0 + 491520000 := by decide +kernel
def asks : State := { on with
  gen := { on.gen with master := true }
  run := { on.run with modeReqs := [{ sym := some 28, asked := 2 }], inSvc := 2, state := .inService } }
theorem witness_ModeAck : asks.run.modeReqs = [{ sym := some 28, asked := 2 }] ∧ asks.gen.master = true ∧
    ackMissing asks { sym := some 28, asked := 2 } ≠ 0 := by decide +kernel
def forming (st : FlkState) : State := { onCmd { ref := ref0, d := desc [], stage := .running none } with
  run := { on.run with modeReqs := [{ ref := some ref0 }], state := st } }
theorem witness_FlkReady : (forming .aligning).run.modeReqs = [{ ref := some ref0 }] ∧
    cmdOf (forming .aligning) ref0 = some { ref := ref0, d := desc [], stage := .running none } ∧ (forming .aligning).run.state ≠ .inService ∧
    (forming .inService).run.state = .inService := by decide +kernel

/-! ### Witnesses: commands -/

/-- The commands on a fronthaul port in traffic, every ring enabled, with room. -/
def rings (en : Bool) (held : List Record) (cons : BitVec 32) (s : State) : State :=
  { s with host := { s.host with rings := vall s.host.rings fun _ g => { g with en := en, held := held, cons := cons } } }
/-- A command row that its checks accept, in a state. -/
abbrev accepts (f : CmdDef) (l : List (Nat × Nat)) (s : State) : Prop := rowAccepted (row f (desc l)) s
/-- A command row that fails a check with a cause. -/
abbrev refuses (f : CmdDef) (l : List (Nat × Nat)) (cause : Nat) (s : State) : Prop :=
  domOn s 1 = true ∧ cmdsOk s ∧ memOk s ∧ cmdHeld (rowState (row f (desc l)) s) (rowStart (row f (desc l)) s) = false ∧
    (cmdCheck f (rowState (row f (desc l)) s) (rowStart (row f (desc l)) s)).any (fun q => q.cause == cause) = true

theorem witness_TickBound_modeSet : accepts modeSetDef [(16, 1), (17, 0x14)] ran ∧
    modeFlask (rowState (row modeSetDef (desc [(16, 1), (17, 0x14)])) ran) (rowStart (row modeSetDef (desc [(16, 1), (17, 0x14)])) ran).d = false := by
  decide +kernel
def flaskReady : State := { ran with run := { ran.run with state := .off }, gen := { ran.gen with flaskId := 3 } }
theorem witness_TickBound_flask : accepts modeSetDef [(16, 3), (17, 0xC), (18, 0xC)] flaskReady ∧
    modeFlask (rowState (row modeSetDef (desc [(16, 3), (17, 0xC), (18, 0xC)])) flaskReady)
      (rowStart (row modeSetDef (desc [(16, 3), (17, 0xC), (18, 0xC)])) flaskReady).d = true ∧ flaskReady.gen.master = false ∧
    flaskReady.run.ready = false ∧ flaskReady.run.state ≠ .inService := by decide +kernel
theorem witness_TickBound_carrierCfg : accepts carrierCfgDef [] on := by decide +kernel
theorem witness_TickBound_synCfg : accepts synCfgDef [(17, 4), (18, 15), (19, 6)] on := by decide +kernel
theorem witness_TickBound_tbStep : accepts tbStepDef [(32, 999999999)] on := by decide +kernel
theorem witness_TickBound_txCtrl : accepts txCtrlDef [(16, 3), (24, 2 ^ 63)] ran := by decide +kernel
theorem witness_TickBound_powerSet : accepts powerSetDef [(18, 1280), (24, 2 ^ 63)] ran := by decide +kernel
theorem witness_TickBound_dpdCfg : accepts dpdCfgDef [(16, 4), (24, 2 ^ 63)] ran := by decide +kernel
theorem witness_TickBound_coxCfg : accepts coxCfgDef [(16, 3), (17, 7), (18, 49152)] ran := by decide +kernel
theorem witness_TickBound_rxCfg : accepts rxCfgDef [(16, 1), (24, 2 ^ 63)] ran := by decide +kernel
theorem witness_TickBound_capture : accepts captureDef [(17, 1), (24, 1)] ran := by decide +kernel
theorem witness_TickBound_soundingCapture : accepts soundingCaptureDef [(17, 1)] ran := by decide +kernel
theorem witness_TickBound_layerSet : accepts layerSetDef [(16, 4), (17, 3), (18, 31), (20, 1)] ran := by decide +kernel
theorem witness_TickBound_fhCfg : accepts fhCfgDef [(17, 2), (18, 9000), (20, 245760), (32, 64)] on := by decide +kernel
theorem witness_TickBound_biasQueue : accepts biasQueueDef [(18, 1), (24, 1), (36, 4095)] on := by decide +kernel
theorem witness_TickBound_unitCtrl : accepts unitCtrlDef [(17, 1), (20, 1)] on := by decide +kernel
theorem witness_TickBound_anlRun : accepts anlRunDef [] ran := by decide +kernel
theorem witness_TickBound_weightLoad : accepts weightLoadDef [(16, 3), (17, 15), (18, 1), (22, 1), (24, 0x2000000)] ran := by decide +kernel

def ladle (f : LdlCh → LdlCh) : State := modCh on 7 f
theorem witness_Enters_ladleMove : accepts ladleMoveDef [(16, 7), (17, 8), (28, 64), (36, 64)] on := by decide +kernel
theorem witness_Enters_patternWrite : accepts patternWriteDef [(17, 7), (24, 1)] on := by decide +kernel
theorem witness_Enters_hbRead : accepts hbReadDef [(18, 7), (24, 1)] on := by decide +kernel
theorem witness_Leaves_withdraw : accepts ladleWithdrawDef [(16, 7)] (moving .ladle true) ∧ accepts ladleWithdrawDef [(16, 7)] (moving .ladle false) ∧
    accepts ladleWithdrawDef [(16, 7)] on ∧ (chOf on 7).move = none := by decide +kernel
theorem witness_Sets_assayCtx : accepts assayCtxDef [(16, 2), (18, 0x21FF)] on ∧ accepts assayCtxDef [(16, 1), (18, 0)] on ∧
    accepts assayCtxDef [] on := by decide +kernel
theorem witness_Sets_hldCfg : accepts hldCfgDef [(16, 2)] on ∧ on.hld.state = .disarmed ∧ accepts hldCfgDef [(16, 2)] (holding .watch) := by decide +kernel
theorem witness_Sets_laneCtrl : accepts laneCtrlDef [(16, 1), (18, 1), (23, 2)] on ∧ accepts laneCtrlDef [(16, 2), (18, 1), (24, 24)] on ∧
    accepts laneCtrlDef [(16, 6), (18, 1), (23, 1)] lts0 ∧ accepts laneCtrlDef [(16, 7), (18, 1)] lts0 := by decide +kernel
theorem witness_Sets_thmCfg : accepts thmCfgDef [(17, 1), (18, 255), (20, 1)] on := by decide +kernel
theorem witness_Timebase : accepts tbCfgDef [(20, 1)] on ∧ accepts tbCfgDef [(16, 3), (20, 100), (24, 1000)] on ∧
    accepts tbCfgDef [(16, 4), (20, 9999999), (24, 1023)] on ∧ accepts tbCfgDef [(16, 5)] on ∧
    accepts tbCfgDef [(16, 6), (20, 0x208D55555)] on ∧ accepts tbCfgDef [(16, 7), (20, 0x83), (21, 43)] on := by decide +kernel
def ext : State := { on with tb := { on.tb with source := .external } }
theorem witness_Timebase_external : accepts tbCfgDef [(16, 1)] ext ∧ accepts tbCfgDef [(16, 2), (20, 16000)] ext ∧
    accepts tbCfgDef [(16, 2), (20, 16001)] ext ∧ (sx 64 16000).natAbs ≤ 16 * ext.tb.jumpLim ∧ 16 * ext.tb.jumpLim < (sx 64 16001).natAbs := by
  decide +kernel
def unused : State := { on with mod := { on.mod with cc := Vector.replicate 2 ⟨0, 0, 0⟩ } }
theorem witness_Begins_domainSet : accepts domainSetDef [(16, 512)] unused ∧
    domNames (rowStart (row domainSetDef (desc [(16, 512)])) unused).d = 2 ^ 9 ∧ 9 ∈ entryOrder ∧
    domTarget (domTargets (rowStart (row domainSetDef (desc [(16, 512)])) unused).d) 9 = .off := by decide +kernel
theorem witness_Begins_snapshot : accepts hbReadDef [(16, 1)] on ∧ on.hb.next + 130 ≤ recArea := by decide +kernel
theorem witness_Begins_anlRun : accepts anlRunDef [(16, 1)] on ∧ on.anl.run = none ∧ accepts anlRunDef [(16, 2), (24, 0x2000000)] on ∧
    accepts anlRunDef [(16, 5)] on ∧ accepts anlRunDef [(16, 1)] (timed {} .waiting) ∧ (timed {} .waiting).anl.next = none := by decide +kernel
def busyPower : State := { unused with pwr := { on.pwr with cmd := some {} } }
theorem witness_Refused : refuses domainSetDef [(16, 512)] 68 busyPower ∧ refuses nopDef [(6, 1)] 10 on ∧
    refuses ladleMoveDef [(16, 7)] 12 (moving .ladle true) := by decide +kernel
theorem witness_Refused_rings : (ringOf on 16).en = false ∧ 16 + (ringOf on 0).cplRing = 16 ∧ (ringOf (rings true [] 0 on) 16).en = true ∧
    0 < ringFree (ringOf (rings true [] 0 on) 16) ∧ (ringOf (rings true [] 0 on) 16).held = [] ∧ domOn (rings true [] 0 on) 1 = true ∧
    (ringOf (rings true [⟨0, false⟩] 0 on) 16).held ≠ [] := by decide +kernel

/-! ### Witnesses: held commands, rings, doorbells and fetches -/

/-- A command of ring 0 at its second place that waits behind another of its ring. -/
def heldBehind (first : Bool) (c : Cmd) : State :=
  { on with host := { on.host with
    cmds := (if first then [{ ref := ref0, d := desc [], seq := 0, stage := .running none }] else []) ++ [c], nextSeq := 2 } }
def fenced (op : Nat) (l : List (Nat × Nat)) : Cmd := { ref := ref1, d := withOp op (desc ((2, 1) :: l)), seq := 1 }
theorem witness_Held : domOn (ctlSleeps none) 1 = false ∧ domOn (heldBehind true (fenced 1 [])) 1 = true ∧ cmdHeld (rowState (row nopDef (desc [(2, 1)])) (heldBehind true (fenced 1 [])))
    (rowCmd (row nopDef (desc [(2, 1)])) (heldBehind true (fenced 1 []))) = true := by decide +kernel
/-- The hypotheses of HELD_COMMAND_START: the command is listed as held, and whether it still is. -/
def heldListed (s : State) (c : Cmd) : Bool := (s.host.cmds.find? fun y => y.ref == ref1 && y.stage == .held) == some c
theorem witness_HeldStart : cmdsOk (heldBehind true (fenced 1 [])) ∧ heldListed (heldBehind true (fenced 1 [])) (fenced 1 []) = true ∧
    cmdHeld (arrive 0 (heldBehind true (fenced 1 []))) (fenced 1 []) = true ∧
    heldListed (heldBehind false (fenced 0x21 [(18, 15), (19, 6)])) (fenced 0x21 [(18, 15), (19, 6)]) = true ∧
    cmdHeld (arrive 0 (heldBehind false (fenced 0x21 [(18, 15), (19, 6)]))) (fenced 0x21 [(18, 15), (19, 6)]) = false ∧
    cmdCheck (defOf 0x21) (arrive 0 (heldBehind false (fenced 0x21 [(18, 15), (19, 6)]))) { fenced 0x21 [(18, 15), (19, 6)] with acceptAt := 0 } = none ∧
    (defOf 0x21).tick (fenced 0x21 [(18, 15), (19, 6)]) ≠ .none ∧
    (cmdCheck (defOf 0x21) (arrive 0 (heldBehind false (fenced 0x21 []))) (fenced 0x21 [])).isSome = true := by decide +kernel
theorem witness_Nop : cmdsOk (rings true [] 0 on) ∧ memOk (rings true [] 0 on) ∧ dHeadOk .none (withOp 1 (desc [])) = true ∧
    cmdHeld (rings true [] 0 on) { ref := ref0, d := withOp 1 (desc []), seq := 0 } = false ∧ dQuiet (withOp 1 (desc [])) = false ∧
    dQuiet (withOp 1 (desc [(2, 2)])) = true ∧ dHeadOk .none (withOp 1 (desc [(2, 2)])) = true ∧
    dFence (withOp 1 (desc [(2, 1)])) = true ∧ dHeadOk .none (withOp 1 (desc [(2, 1)])) = true := by decide +kernel
theorem witness_Doorbells : domOn (rings true [] 0 on) 1 = true ∧ (ringOf (rings true [] 0 on) 15).en = true ∧
    (2 ^ 31 : Nat) ≤ (0x80000000#32 - (ringOf (rings true [] 0 on) 15).lastDb).toNat ∧
    ringSize (ringOf (rings true [] 0 on) 15) < (65#32 - (ringOf (rings true [] 0 on) 15).cons).toNat ∧
    (64#32 - (ringOf (rings true [] 0 on) 15).cons).toNat ≤ ringSize (ringOf (rings true [] 0 on) 15) ∧
    1 ≤ (1#32 - (ringOf (rings true [] 0 on) 35).prod).toNat := by decide +kernel
theorem witness_RingEnable : (ringOf on 35).en = false ∧ bit (0x8000000C#32).toNat 31 = true ∧ bits (0x8000000C#32).toNat 3 0 = 12 ∧
    bits (0x80000006#32).toNat 3 0 = 6 := by decide +kernel
theorem witness_RingDisable : (ringOf (rings true [] 0 on) 35).en = true ∧ bit (6#32).toNat 31 = false ∧
    bits (6#32).toNat 27 24 = (ringOf (rings true [] 0 on) 35).cplRing ∧ bits (6#32).toNat 3 0 = (ringOf (rings true [] 0 on) 35).sizeLog2 ∧
    (ringOf (rings true [] 0 on) 0).cplRing = bits (6#32).toNat 27 24 ∧ cmdsOk (rings true [] 0 on) ∧ (ringOf on 0).en = false := by decide +kernel
def timer35 (m : Bool) : State := { modRing on 35 (fun g => { g with timerAt := some 491 }) with
  host := { (modRing on 35 fun g => { g with timerAt := some 491 }).host with
    msixEn := true, msix := vmod on.host.msix 19 fun e => { e with masked := m } } }
theorem witness_Coalesce : (ringOf (timer35 true) 35).timerAt = some 491 ∧ (timer35 true).host.msixEn = true ∧
    (timer35 true).host.msixFnMask = false ∧ (vget (timer35 true).host.msix (ringOf (timer35 true) 35).vector {}).masked = true ∧
    (vget (timer35 false).host.msix (ringOf (timer35 false) 35).vector {}).masked = false ∧ on.host.msixEn = false := by decide +kernel
/-- Ring 15 is enabled with one descriptor to fetch. -/
def fetches (l : List Record) (cons : BitVec 32) : State := modRing (rings true l cons on) 15 fun g => { g with prod := 1, cons := 0 }
theorem witness_Fetch : domOn (fetches [] 0) 1 = true ∧ fetchTurn (fetches [] 0) = some 15 ∧ fetchTurn (fetches [] 0) ≠ some 0 ∧
    (ringOf on 15).en = false ∧ fetchStalled (fetches (List.replicate 16 ⟨0, false⟩) (0 - 64)) 15 = true := by decide +kernel
def fetchFenced : State := { fetches [] 0 with host := { (fetches [] 0).host with
  cmds := [{ ref := ⟨15, 9⟩, d := desc [], seq := 0, stage := .held }], nextSeq := 1 } }
theorem witness_Fetch_held : fetchTurn fetchFenced = some 15 ∧ cmdHeld fetchFenced
    { ref := ⟨15, 0⟩, d := BitVec.ofNat 512 (leNat (hostRead fetchFenced (ringBase (ringOf fetchFenced 15)) 64)), seq := 1 } = true := by
  decide +kernel

/-! ### Witnesses: registers -/

def split : State := { on with host := { on.host with shadows := [⟨1, 0xB0008, 7⟩], heldLow := [⟨1, 0x110040, 5⟩] } }
theorem witness_Split : domOn split 1 = true ∧ darkAt (arrive 0 split) 0xB0008 = none ∧ (lowWord 0xB0008).isSome = true ∧
    darkAt (arrive 0 split) 0xB000C = none ∧ (highWord 0xB000C).isSome = true ∧ (lowWord 0xB000C).isSome = false ∧
    shadowOf split 1 = some ⟨1, 0xB0008, 7⟩ ∧ shadowOf split 2 = none := by decide +kernel
theorem witness_Split_write : darkAt (arrive 0 split) 0x110048 = none ∧ lowWord 0x110048 = some true ∧ wordDefined 0x110048 = true ∧
    highWord 0x110044 = some true ∧ (lowWord 0x110044).isSome = false ∧ wordDefined 0x110044 = true ∧ heldOf split 1 = some ⟨1, 0x110040, 5⟩ := by
  decide +kernel
def dark13 (seen : Bool) : State := { on with
  pwr := { on.pwr with dom := vmod on.pwr.dom 9 fun _ => .off }, host := { on.host with accessDark := seen } }
theorem witness_Dark : domOn (dark13 true) 1 = true ∧ reqAborts 0x110000 4 = false ∧ darkAt (arrive 0 (dark13 true)) 0x110000 = some 0x11 ∧
    (dark13 true).host.accessDark = true ∧ reqAborts 2 3 = true ∧ reqAborts 4 8 = true ∧ reqAborts 1 512 = true := by decide +kernel
theorem witness_RegisterWrite : reqAborts 0x110040 4 = false ∧ darkAt (arrive 0 on) 0x14FFFC = none ∧ wordDefined 0x14FFFC = false ∧
    darkAt (arrive 0 on) 0x10 = none ∧ wordDefined 0x10 = true ∧ (lowWord 0x10).isSome = false ∧ (highWord 0x10).isSome = false ∧
    locate 0x10 = some (0, 0x10) := by decide +kernel
theorem witness_RegisterWrite_taken : ((regAt 0 0x10).bind fun x => x.1.write (arrive 0 on) x.2 1).isSome = true ∧
    ((regAt 0x0C 0).bind fun x => x.1.write (arrive 0 on) x.2 5).isSome = false ∧ (regAt 0x0C 0).isSome = true ∧ darkAt (arrive 0 on) 0xC0000 = none := by decide +kernel
theorem witness_MsixUnmask : (timer35 true).host.msix[19].masked = true ∧ domOn (timer35 true) 1 = true := by decide +kernel

/-- Worked example of 08: +7.0 dBm a path, +24.0 dBm summed, every path enabled at code 320 and set to 384. -/
def arena : State := { on with
  fus := { on.fus with loaded := 448#4096 <<< 2560 ||| 251188#4096 <<< 2576 }
  tx := { on.tx with path := Vector.replicate 64 { en := true, eff := 320, set := 384 } } }

/-! ### Witnesses: commands at their tick, and the invariants -/

/-- A command bound to the tick of symbol 28. -/
def due (op : Nat) (l : List (Nat × Nat)) : Cmd := { ref := ref0, d := withOp op (desc l), seq := 0, stage := .bound .slot 28 false }
def listsIt (s : State) (c : Cmd) : State := { s with host := { s.host with cmds := [c], nextSeq := 1 } }
theorem witness_Due : cmdsOk (listsIt ran (due 0x70 [(16, 1)])) ∧ due 0x70 [(16, 1)] ∈ (listsIt ran (due 0x70 [(16, 1)])).host.cmds ∧
    keysBarred ran 28 (due 0x70 [(16, 1)]) = [] ∧ dOp (due 0x70 [(16, 1)]).d = 0x0070 ∧ dB (due 0x70 [(16, 1)]).d 16 = 1 := by decide +kernel
theorem witness_Due_set : dOp (due 0x40 [(16, 1)]).d = 0x0040 ∧ dB (due 0x40 [(16, 1)]).d 16 = 1 ∧ dB (due 0x33 [(16, 3)]).d 16 = 3 ∧
    dB (due 0x21 [(17, 4)]).d 17 = 4 ∧ dOp (due 0xA1 []).d = 0x00A1 ∧ (due 0x60 []).note = 0 := by decide +kernel
theorem witness_Due_enable : -2560 ≤ pathMax arena ∧ tokSum { arena with tx := ran.tx } + 64 * tok (-2560) ≤ tokenPool arena ∧
    (txOf ran 63).en = false := by decide +kernel
theorem witness_Due_act : bit (dPaths (due 0x30 [(24, 2 ^ 63)]).d) 63 = true ∧ (txOf ran 63).retired = false ∧
    bit (dB (due 0x20 [(16, 8)]).d 16) 3 = true ∧ dB (due 0x32 [(16, 4)]).d 16 = 4 ∧ dOp (due 0x23 []).d = 0x0023 ∧
    dB (due 0xB0 [(17, 1)]).d 17 = 1 := by decide +kernel
theorem witness_Due_modeSet : dB (due 0x10 [(16, 1), (17, 0x17)]).d 16 = 1 ∧ dB (due 0x10 [(16, 1), (17, 0x17)]).d 17 < 64 ∧
    bit (dB (due 0x10 [(16, 1), (17, 0x17)]).d 17) 3 = false ∧ flaskWide ran 0 = false ∧ hldWaits ran (due 0x10 [(16, 1), (17, 0x17)]).d = false := by
  decide +kernel
theorem witness_Memories : memOk ran ∧ memOk { ran with host := { ran.host with mem := [(2 ^ 64 - 1, 1)] } } := by decide +kernel
theorem witness_Numbers : cmdsOk (heldBehind true (fenced 1 [])) := by decide +kernel
theorem witness_Steps : (after (.airSymbolTick {}) ran).tb.airNext = 20 ∧
    step { ran with pending := [.airSymbolTick {}] } = exec (.airSymbolTick {}) ran := by
  constructor
  · decide +kernel
  · rfl
theorem witness_Fuses : ({ on with pending := [.fuseProgram 0 [2616]] } : State).pending.head? = some (.fuseProgram 0 [2616]) ∧
    (after (.fuseProgram 0 [2616]) on).fus.array = 1#4096 <<< 2616 := by decide +kernel

/-! ### Witnesses: the commands that carry a tag, whose value the nonce leaves open (log 10) -/

/-- `on` with a device key. -/
def keyed : State := { on with fus := { on.fus with loaded := 1#4096 <<< 256 } }

theorem leNat_lt : ∀ l : List Byte, leNat l < 256 ^ l.length
  | [] => by decide
  | b :: l => by
    have := leNat_lt l
    have := b.isLt
    simp only [leNat, List.length_cons, Nat.pow_succ]
    omega

theorem authTag_lt (s : State) (op act : Nat) : authTag s op act < 2 ^ 32 := by
  have h := leNat_lt ((hmacSha256 (deviceKey s) (bytesLE 4 (nonceNow s).toNat ++ bytesLE 2 op ++ bytesLE 1 act)).take 4)
  refine lt_of_lt_of_le h ?_
  calc 256 ^ _ ≤ 256 ^ 4 := Nat.pow_le_pow_right (by decide) (by simp [List.length_take])
    _ = 2 ^ 32 := by decide

theorem authTag_same (s t : State) (op act : Nat) (hf : t.fus = s.fus) (hh : t.hb = s.hb) : authTag t op act = authTag s op act := by
  simp only [authTag, deviceKey, nonceNow, fuse, hf, hh]

/-- A descriptor that carries a tag at byte `b`, and its number. -/
def tagged (n b t : Nat) : Desc := BitVec.ofNat 512 (n + t * 2 ^ (8 * b))

theorem tagged_toNat (op n b t : Nat) (ho : op < 65536) (hn : n < 2 ^ 128) (hb : b = 16 ∨ b = 20) (ht : t < 2 ^ 32) :
    (withOp op (tagged n b t)).toNat = n / 65536 * 65536 + op + t * 2 ^ (8 * b) := by
  rcases hb with rfl | rfl <;> simp only [withOp, tagged, BitVec.toNat_ofNat] <;> omega

theorem authOpen_same (s t : State) (hf : t.fus = s.fus) (hh : t.hb = s.hb) : authOpen t = authOpen s := by
  unfold authOpen fuse
  rw [hf, hh]

theorem rowState_fus (x : CommandRow) (s : State) : (rowState x s).fus = s.fus := rfl
theorem rowState_hb (x : CommandRow) (s : State) : (rowState x s).hb = s.hb := rfl
theorem rowStart_d (x : CommandRow) (s : State) : (rowStart x s).d = withOp x.f.opcode x.d := rfl
theorem row_alone (x : CommandRow) (s : State) (h : s.host.cmds = []) : cmdHeld (rowState x s) (rowStart x s) = false := by
  simp [cmdHeld, rowState, rowStart, rowCmd, h]

theorem keyed_open : authOpen keyed = true := by decide +kernel

/-- HB_CLEAR with its tag passes its checks where no snapshot is in progress. -/
theorem hbClear_passes (w : State) (c : Cmd) (t : Nat) (ht : t < 2 ^ 32) (hc : c.d = withOp 0x00B2 (tagged (1 <<< 24) 16 t))
    (ho : authOpen w = true) (ha : authTag w 0x00B2 0 = t) (hs : w.hb.snaps = []) (hf : w.hb.fail = false) (hn : w.hb.clearNext = 0) :
    cmdCheck hbClearDef w c = none := by
  have hd := tagged_toNat 0x00B2 (1 <<< 24) 16 t (by decide) (by decide) (.inl rfl) ht
  have hw : dW c.d 16 = t := by simp only [hc, dW, bits, hd, Nat.shiftRight_eq_div_pow]; omega
  have hz : hbClearRange c.d = true := by
    simp only [hc, hbClearRange, dZero, bits, hd, Nat.shiftRight_eq_div_pow, decide_eq_true_eq]; omega
  have hh : dHeadOk .none c.d = true := by
    simp only [hc, dHeadOk, dZero, dB, bits, hd, Nat.shiftRight_eq_div_pow, Bool.and_eq_true, decide_eq_true_eq]
    refine ⟨⟨⟨⟨?_, ?_⟩, ?_⟩, ?_⟩, rfl⟩ <;> omega
  simp [cmdCheck, hbClearDef, hh, hz, hs, hbClearRefuse, authOk, ho, ha, hw, hf, hn, firstRefuse, clearArea]

theorem witness_Begins_hbClear : ∃ d : Desc, rowAccepted (row hbClearDef d) keyed ∧ keyed.hb.snaps = [] := by
  refine ⟨tagged (1 <<< 24) 16 (authTag keyed 0x00B2 0), ⟨by decide +kernel, by decide +kernel, row_alone _ _ (by decide +kernel), ?_⟩, by decide +kernel⟩
  refine hbClear_passes _ _ _ (authTag_lt _ _ _) (rowStart_d _ _) ((authOpen_same _ _ (rowState_fus _ _) (rowState_hb _ _)).trans keyed_open)
    (authTag_same _ _ _ _ (rowState_fus _ _) (rowState_hb _ _)) ?_ ?_ ?_ <;> rw [rowState_hb] <;> decide +kernel

/-- ANL_RUN SAVE with its tag passes its checks where TMP is on. -/
theorem save_passes (w : State) (c : Cmd) (t : Nat) (ht : t < 2 ^ 32) (hc : c.d = withOp 0x0080 (tagged (1 <<< 24 + 4 <<< 128) 20 t))
    (ho : authOpen w = true) (ha : authTag w 0x0080 4 = t) (hm : missing w [9] = 0) :
    cmdCheck anlRunDef w c = none ∧ dB c.d 16 = 4 := by
  have hd : c.d.toNat = 1 <<< 24 + 4 <<< 128 + 0x80 + t * 2 ^ 160 := by
    simp only [hc, withOp, tagged, BitVec.toNat_ofNat]; omega
  have h4 : dB c.d 16 = 4 := by simp only [dB, bits, hd, Nat.shiftRight_eq_div_pow]; omega
  have h17 : dB c.d 17 = 0 := by simp only [dB, bits, hd, Nat.shiftRight_eq_div_pow]; omega
  have hw : dW c.d 20 = t := by simp only [dW, bits, hd, Nat.shiftRight_eq_div_pow]; omega
  have z19 : dZero c.d 19 19 = true := by simp only [dZero, bits, hd, Nat.shiftRight_eq_div_pow, decide_eq_true_eq]; omega
  have z24 : dZero c.d 24 31 = true := by simp only [dZero, bits, hd, Nat.shiftRight_eq_div_pow, decide_eq_true_eq]; omega
  have z32 : dZero c.d 32 39 = true := by simp only [dZero, bits, hd, Nat.shiftRight_eq_div_pow, decide_eq_true_eq]; omega
  have z40 : dZero c.d 40 63 = true := by simp only [dZero, bits, hd, Nat.shiftRight_eq_div_pow, decide_eq_true_eq]; omega
  have hh : dHeadOk .none c.d = true := by
    simp only [dHeadOk, dZero, dB, bits, hd, Nat.shiftRight_eq_div_pow, Bool.and_eq_true, decide_eq_true_eq]
    refine ⟨⟨⟨⟨?_, ?_⟩, ?_⟩, ?_⟩, rfl⟩ <;> omega
  refine ⟨?_, h4⟩
  simp [cmdCheck, anlRunDef, h4, h17, hh, hw, z19, z24, z32, z40, anlRunCheck, authOk, ho, ha, hm]

def saveRow : CommandRow := row anlRunDef (tagged (1 <<< 24 + 4 <<< 128) 20 (authTag keyed 0x0080 4))
theorem witness_Begins_save : rowAccepted saveRow keyed ∧ dB (rowStart saveRow keyed).d 16 = 4 := by
  have hm : missing (rowState saveRow keyed) [9] = 0 := (by decide +kernel : missing keyed [9] = 0)
  have h := save_passes (rowState saveRow keyed) _ _ (authTag_lt _ _ _) (rowStart_d saveRow keyed)
    ((authOpen_same _ _ (rowState_fus _ _) (rowState_hb _ _)).trans keyed_open)
    (authTag_same _ _ _ _ (rowState_fus _ _) (rowState_hb _ _)) hm
  exact ⟨⟨by decide +kernel, by decide +kernel, row_alone _ _ (by decide +kernel), h.1⟩, h.2⟩

/-! ### The spec's own numbers

Each expected value is one that the spec prints: a worked example, a table or a register's reset value. -/

theorem test_fused_limits : pathMax arena = 448 ∧ tokenPool arena = 251188 := by decide +kernel
theorem test_tokens : tok 320 = 3163 ∧ tok 384 = 3982 ∧ tok 379 = 3911 ∧ tok 380 = 3925 := by decide +kernel
theorem test_batch_codes : (powerBatch arena (2 ^ 64 - 1)).1.tx.path[0].eff = 379 := by decide +kernel
theorem test_batch_held : tokSum (powerBatch arena (2 ^ 64 - 1)).1 = 250304 := by decide +kernel

/-- Worked example of 13: group 2 after a rise in load. -/
def loaded2 : State := modGroup { arena with tx := { arena.tx with path := Vector.replicate 64 { en := true, eff := 384 } } } 2 fun x =>
  { x with cfg := 150#32 <<< 24, r := 2#32 <<< 24 ||| 160#32 <<< 12 ||| 96#32, tau := 1200#32 <<< 16 ||| 2000#32, dT1 := 45 * 2 ^ 32, dT2 := 42 * 2 ^ 32 }
def predicted2 : State := let m := groupModel loaded2 2 (vget loaded2.thm.group 2 {}) 496 120000000 0; groupCeil m.1 2 496 120000000 m.2
theorem test_group_temperatures : (predicted2.thm.group[2].tPred, predicted2.thm.group[2].tJ) = (0x04BD#16, 0x04A8#16) := by decide +kernel
theorem test_group_power : (predicted2.thm.group[2].ceil, predicted2.thm.group[2].p) = (374, 0x0780) := by decide +kernel

/-- Worked example of 10: the LO of a 3.8 GHz span. -/
theorem test_dividers : dividersOf 3800000 = some (1, 61, 104320) := by decide

/-- Worked examples of 01, on a grid whose frame tick is count 0. -/
theorem test_downlink_ticks : tickT on 33 = 579456 ∧ tickAt on .dlWork 33 = 553037 ∧ tickAt on .dlWork 34 = 570573 := by decide
theorem test_uplink_ticks : tickT on 61 = 1070976 ∧ tickAt on .ulWork 61 = 1093632 ∧ tickAt on .ulWork 62 = 1111168 := by decide

/-- Example of 02: a change accepted 100,000 counts into slot 7 comes at T(f, 10, 0). -/
theorem test_flask_change : tickFrom { on with tb := { on.tb with airNext := 104 } } .slot (1820320 + 491520) = 140 ∧ tickT on 140 = 2457600 := by
  decide

/-- Worked example of 06: one path of 64 with equal weights retired, and one that held half the power. -/
def even : Memory := (List.range 64).flatMap fun a => [(4 * a + 1, 8#8), (4 * a + 3, 8#8)]
theorem test_gain : gainCode (2 ^ 21) 18383 even = 16514 := by decide +kernel
theorem test_gain_weights : ((effWeights { on.cru.dl[0] with mem := even, gain := [(0, 16514)] } (2 ^ 21) 0).getD 20 (0, 0),
    (effWeights { on.cru.dl[0] with mem := even, gain := [(0, 16514)] } (2 ^ 21) 0).getD 21 (1, 1)) = ((2064, 2064), (0, 0)) := by decide +kernel
theorem test_gain_capped : gainCode (2 ^ 21) 18383 [(80 + 1, 8#8), (84 + 1, 8#8)] = 18383 := by decide +kernel

/-- Example of 05: a 200 MHz layer at 9 bits goes in messages of 69 and 68 blocks, a 400 MHz layer in 69, 68, 68 and 68. -/
theorem test_messages : msgRuns 137 96 2 9000 = [(0, 69), (69, 68)] ∧ msgRuns 273 96 2 9000 = [(0, 69), (69, 68), (137, 68), (205, 68)] := by
  decide +kernel

/-- Example of 07: θ of −11 ps is taken out by 2 ps a frame. -/
theorem test_alignment : (alignAct { on with run := { on.run with state := .inService } } 0 (-44)).tb.phaseLeft = 8 * 1966080 := by decide +kernel

/-- Example of 09: D 2 and 65 taps settle for 108 counts. -/
theorem test_settling : nSettle { on.rx.path[0] with cicDec := 0, cicOrder := 5, firLen := 2 } = 108 := by decide +kernel

/-- Example of 11: the transmit corrections of path 37, its results in 1/1,024 degree, 1/4,096 dB and 1/16 ps. -/
theorem test_corrections : phaseStep 188 166 = -31 ∧ ampStep (-29) (-24) = 27 ∧ dlyStep 10 6 = -2 := by decide

/-- Table of 16: dark words. -/
def dark : State := { on with pwr := { on.pwr with dom := vall on.pwr.dom fun i x => if i < 4 then x else .off } }
theorem test_dark_words : (darkAt dark 0x225004, darkAt dark 0x62500C, darkAt dark 0xA2512C, darkAt dark 0xD1240) =
    (some 0x15, some 0x16, some 0x17, some 0x0D) ∧ darkAt dark 0x240008 = none := by
  decide +kernel

/-- The check values that the two CRCs and SHA-256 publish. -/
def digits : List Byte := [0x31, 0x32, 0x33, 0x34, 0x35, 0x36, 0x37, 0x38, 0x39]
theorem test_crcs : crc32 digits = 0xCBF43926#32 ∧ crc32c digits = 0xE3069283#32 := by decide +kernel
theorem test_sha256 : (sha256 [0x61, 0x62, 0x63]).take 4 = [0xBA, 0x78, 0x16, 0xBF] := by decide +kernel

/-- Examples of 04: 48 flows of a 200 MHz layer, six a port; FH6 leaves, and later FH3. -/
def flows (lost : Nat) : List Flow := (List.range 48).map fun i =>
  { prio := i / 2, dir := 1, layer := i / 2, loc := false, cc := i % 2, rate := rateOf 14860, at_ := if i / 6 = lost then none else some (i / 6) }
def packed : List Flow × List Flow := repack portLimit [0, 1, 2, 3, 4, 5, 7] 25 (flows 6) []
theorem test_flow_rate : rateOf 14860 = 3328640000 := by decide
theorem test_port_loss : packed.2 = [] ∧ [0, 5, 7].map (fun p => (packed.1.filter fun f => f.at_ == some p).length) = [7, 7, 6] := by decide +kernel
theorem test_shed : (repack portLimit [0, 1, 2, 4, 5, 7] 25 (packed.1.map fun f => if f.at_ = some 3 then { f with at_ := none } else f) []).2.map
    (fun f => f.layer) = [0, 1, 2] := by decide +kernel

/-- Example of 05: the window of symbol (f, 2, 5) opens at 304,205 and that of (f, 2, 6) shuts at 567,501. -/
def arrives (now k : Nat) : Option Nat :=
  windowCause { on with fh := { on.fh with cc := Vector.replicate 2 { on.fh.cc[0] with adv := 245760 } }, tb := { on.tb with now := now } }
    { ctrl := false, kind := 0, cc := 0, id := 40, seq := 0, sym := k, past := false }
theorem test_arrival_window : [arrives 304204 33, arrives 304205 33, arrives 567501 34, arrives 567502 34] = [some 11, none, none, some 12] := by
  decide +kernel

/-- Example of 11: the guard period of two symbols, and the frames it holds. -/
theorem test_guard : symLen 10 + symLen 11 = 35072 ∧ guardFrames 35072 = 16 := by decide

/-- The frames of a guard period that starts at count 912,896 (11_anneal.md, "a temperature step at member 2"). -/
def injected (now : Nat) : Option Nat :=
  frameNow { on with anl := { on.anl with gpAt := 912896, gpEnd := 947968, gpN := 16 }, tb := { on.tb with now := now } }

theorem test_injection_frames : injected 914431 = none ∧ injected 914432 = some 0 ∧ injected 947199 = some 15 ∧ injected 947200 = none := by
  decide

/-- R94: TB_TOD shows the seconds above the nanoseconds, here 1 s and 6,103 ns. -/
def second : State := { on with tb := { on.tb with tod := 1000006103 * todNs } }
theorem test_tod_words : (busRead second 0 0xB0008 8).host.resp = .data 0x1000017D7#64 := by decide +kernel

/-- R166: FH_CFG TAG 0xB456 sends PCP 3 and VID 0x456, in the places of 802.1Q. -/
theorem test_tag : tagOf { vid := 0x456, pcp := 3, tagEn := true } = some 0x6456 := by decide

/-- R175: symbol 0 of slot 1 is worked before its slot tick, with what that tick applies. -/
def shifts : State := { on with
  tb := { on.tb with airNext := 14 }
  cru := { on.cru with dlShiftNow := Vector.replicate 2 5, dlShiftArm := Vector.replicate 2 0 } }
theorem test_dl_shift : [dlShiftOf shifts 13 0, dlShiftOf shifts 14 0] = [5, 0] := by decide

/-- R429: SIZE_LOG2 5 on a ring that stays disabled is discarded. -/
theorem test_ring_size : [ringCfgBad on 3 0x03000105, ringCfgBad on 3 0x0300010C] = [true, false] := by decide +kernel

end Sys2Proof.Tests
end

section
/-! The parts of the state that a command may change, for the commands of R87 one by one and for all of them together: what the rows of
commands, the fetch of descriptors and the commands due at a tick leave alone. -/

namespace Sys2Proof.Machine

/-- A command changes only the parts of a list: by its effect, by what its refusal also does and by what its acceptance does at once. -/
structure CmdDef.ChangesOnly (l : List Part) (f : CmdDef) : Prop where
  effect : ∀ s c, changesOnly l s (f.effect s c)
  refused : ∀ s c r, changesOnly l s (f.refused s c r)
  accepted : ∀ s c, changesOnly l s (f.accepted s c)

/-- Most commands do nothing more at a refusal or at their acceptance. -/
theorem CmdDef.ChangesOnly.of_effect {l : List Part} {f : CmdDef} (effect : ∀ s c, changesOnly l s (f.effect s c))
    (refused : f.refused = fun s _ _ => s) (accepted : f.accepted = fun s _ => s) : f.ChangesOnly l :=
  ⟨effect, fun s _ _ => refused ▸ changesOnly_refl l s, fun s _ => accepted ▸ changesOnly_refl l s⟩

theorem CmdDef.ChangesOnly.mono {l m : List Part} {f : CmdDef} (h : f.ChangesOnly l) (sub : ∀ p ∈ l, p ∈ m) : f.ChangesOnly m :=
  ⟨fun s c => changesOnly_mono (h.effect s c) sub, fun s c r => changesOnly_mono (h.refused s c r) sub,
    fun s c => changesOnly_mono (h.accepted s c) sub⟩

theorem mem_withReports_of_mem {l : List Part} {p : Part} (h : p ∈ l) : p ∈ withReports l := by
  simp only [withReports, List.mem_cons, h, or_true]

/-- Answers, records and signals are among the reports. -/
theorem changesOnly_reports {l : List Part} {s t : State} (h : changesOnly [.host, .out] s t) : changesOnly (withReports l) s t :=
  changesOnly_mono h (by simp [withReports])

/-- A start changes what the command changes, the list of commands and the records. -/
theorem cmdStart_changes {l : List Part} {f : CmdDef} (h : f.ChangesOnly l) (s : State) (c : Cmd) :
    changesOnly (withReports l) s (cmdStart f s c) := by
  have put : ∀ (s : State) c, changesOnly (withReports l) s (cmdPut s c) := fun s c =>
    changesOnly_reports (changesOnly_mono (cmdPut_changes s c) (by decide))
  unfold cmdStart
  extract_lets c
  split
  · exact changesOnly_trans (changesOnly_mono (h.refused s c _) fun _ => mem_withReports_of_mem) (changesOnly_reports (cmdRefuse_changes _ _ _))
  · refine changesOnly_ite ?_ ?_
    · exact changesOnly_trans (put s _) (changesOnly_mono (h.effect _ _) fun _ => mem_withReports_of_mem)
    · exact changesOnly_trans (put s _) (changesOnly_mono (h.accepted _ _) fun _ => mem_withReports_of_mem)

/-- A fetched command is listed, and starts or is held. -/
theorem cmdFetched_changes {l : List Part} {f : CmdDef} (h : f.ChangesOnly l) (s : State) (r : CmdRef) (d : Desc) :
    changesOnly (withReports l) s (cmdFetched f s r d) := by
  have listed : ∀ x : HostIf, x.mem = s.host.mem → x.rings = s.host.rings → changesOnly (withReports l) s { s with host := x } :=
    fun x hm hr => (changesOnly_set_host (by simp [withReports]) (.inr ⟨hm, hr⟩)).2 (changesOnly_refl _ s)
  unfold cmdFetched
  refine changesOnly_ite ?_ (changesOnly_trans ?_ (cmdStart_changes h _ _)) <;> exact listed _ rfl rfl

/-- The row of a command changes what its command changes, and the reports. -/
theorem runCmd_changes {l : List Part} {f : CmdDef} (h : f.ChangesOnly l) (dt : Nat) (r : CmdRef) (d : Desc) (s : State) :
    changesOnly (withReports l) s (runCmd f dt r d s) := by
  have waits : changesOnly (withReports l) s (arrive dt s) := changesOnly_mono (arrive_changes dt s) (by simp [withReports])
  unfold runCmd
  exact changesOnly_ite (changesOnly_trans waits (cmdFetched_changes h _ r _)) waits

/-! ### The commands one by one -/

theorem nopDef_changes : nopDef.ChangesOnly [.host, .out] :=
  .of_effect cmdDone_changes rfl rfl

theorem modeSetDef_changes :
    modeSetDef.ChangesOnly [.mod, .host, .lanes, .fh, .cru, .run, .anl, .pwr, .hld, .hb, .gen, .out] where
  effect := modeEffect_changes
  refused s c r := changesOnly_ite (changesOnly_mono (modeCause_changes s _ _) (by decide)) (changesOnly_refl _ s)
  accepted s c := changesOnly_mono (modeAccepted_changes s c) (by decide)

theorem carrierCfgDef_changes : carrierCfgDef.ChangesOnly [.syn, .air, .host, .pwr, .out] :=
  .of_effect carrierCfgEffect_changes rfl rfl

theorem synCfgDef_changes : synCfgDef.ChangesOnly [.syn, .host, .rx, .anl, .pwr, .out] :=
  .of_effect synCfgEffect_changes rfl rfl

theorem tbCfgDef_changes : tbCfgDef.ChangesOnly [.tb, .host, .pwr, .out] :=
  .of_effect tbCfgEffect_changes rfl rfl

theorem tbStepDef_changes : tbStepDef.ChangesOnly [.tb, .host, .fh, .cru, .tx, .rx, .pwr, .out] :=
  .of_effect tbStepEffect_changes rfl rfl

theorem txCtrlDef_changes : txCtrlDef.ChangesOnly [.host, .tx, .rx, .anl, .pwr, .bias, .out] :=
  .of_effect txCtrlEffect_changes rfl rfl

theorem powerSetDef_changes : powerSetDef.ChangesOnly [.host, .tx, .pwr, .out] :=
  .of_effect powerSetEffect_changes rfl rfl

theorem dpdCfgDef_changes : dpdCfgDef.ChangesOnly [.dev, .host, .ldl, .tx, .out] :=
  .of_effect dpdCfgEffect_changes rfl rfl

theorem coxCfgDef_changes : coxCfgDef.ChangesOnly [.host, .tx, .out] :=
  .of_effect coxCfgEffect_changes rfl rfl

theorem rxCfgDef_changes : rxCfgDef.ChangesOnly [.host, .rx, .out] :=
  .of_effect rxCfgEffect_changes rfl rfl

theorem captureDef_changes : captureDef.ChangesOnly [.host, .rx] :=
  .of_effect captureEffect_changes rfl rfl

/-- A load takes effect where its rows are: at a refusal they go, at acceptance they are taken in (R182). -/
theorem weightLoadDef_changes : weightLoadDef.ChangesOnly [.host, .fh, .cru, .run, .out] where
  effect s c := changesOnly_mono (cmdDone_changes s c) (by decide)
  refused s c r := (changesOnly_set_cru (by decide)).2 (changesOnly_refl _ s)
  accepted s c := changesOnly_trans (changesOnly_mono (weightAccept_changes s c) (by decide))
    (changesOnly_mono (resSymbol_changes _) (by decide))

theorem patternWriteDef_changes : patternWriteDef.ChangesOnly [.host, .ldl, .out] where
  effect s c := changesOnly_mono (patternEffect_changes s c) (by decide)
  refused s c r := moveRefused_changes s _ c r
  accepted s _ := changesOnly_refl _ s

theorem soundingCaptureDef_changes : soundingCaptureDef.ChangesOnly [.host] :=
  .of_effect (fun s _ => cmdPut_changes s _) rfl rfl

theorem layerSetDef_changes : layerSetDef.ChangesOnly [.host, .run] :=
  .of_effect layerSetEffect_changes rfl rfl

theorem fhCfgDef_changes : fhCfgDef.ChangesOnly [.host, .fh, .out] :=
  .of_effect fhCfgEffect_changes rfl rfl

theorem assayCtxDef_changes : assayCtxDef.ChangesOnly [.host, .fh, .out] :=
  .of_effect assayCtxEffect_changes rfl rfl

theorem laneCtrlDef_changes : laneCtrlDef.ChangesOnly [.host, .lanes, .fh, .run, .pwr, .out] :=
  .of_effect laneCtrlEffect_changes rfl rfl

theorem anlRunDef_changes : anlRunDef.ChangesOnly [.host, .anl, .pwr, .hb, .out] where
  effect := anlRunEffect_changes
  refused s c r := changesOnly_ite (changesOnly_mono (authChecked_changes s false) (by decide)) (changesOnly_refl _ s)
  accepted s _ := changesOnly_refl _ s

theorem domainSetDef_changes : domainSetDef.ChangesOnly [.syn, .host, .lanes, .fh, .run, .tx, .rx, .pwr, .hld, .bias, .out] :=
  .of_effect (fun s _ => domBegin_changes s _) rfl rfl

theorem hldCfgDef_changes : hldCfgDef.ChangesOnly [.host, .hld, .out] :=
  .of_effect (fun s c => changesOnly_trans
    (changesOnly_ite ((changesOnly_set_hld (by decide)).2 (changesOnly_refl _ s)) (changesOnly_mono (hldTake_changes s _) (by decide)))
    (changesOnly_mono (cmdDone_changes _ c) (by decide))) rfl rfl

theorem thmCfgDef_changes : thmCfgDef.ChangesOnly [.host, .thm, .hka, .out] :=
  .of_effect thmCfgEffect_changes rfl rfl

theorem biasQueueDef_changes : biasQueueDef.ChangesOnly [.host, .bias, .out] :=
  .of_effect biasQueueEffect_changes rfl rfl

theorem unitCtrlDef_changes : unitCtrlDef.ChangesOnly [.syn, .host, .lanes, .fh, .cru, .tx, .rx, .anl, .pwr, .thm, .hb, .out] :=
  .of_effect unitCtrlEffect_changes rfl rfl

theorem hbReadDef_changes : hbReadDef.ChangesOnly [.host, .ldl, .pwr, .hb, .out] where
  effect := hbReadEffect_changes
  refused s c r := changesOnly_ite (changesOnly_mono (moveRefused_changes s _ c r) (by decide)) (changesOnly_refl _ s)
  accepted s _ := changesOnly_refl _ s

theorem hbClearDef_changes : hbClearDef.ChangesOnly [.flash, .host, .hb, .out] where
  effect s c := changesOnly_ite (changesOnly_mono (hbClearGo_changes s c) (by decide)) (changesOnly_mono (cmdPut_changes s _) (by decide))
  refused s c r := changesOnly_mono (hbClearRefused_changes s c r) (by decide)
  accepted s _ := changesOnly_refl _ s

theorem ladleMoveDef_changes : ladleMoveDef.ChangesOnly [.host, .ldl, .out] where
  effect s c := changesOnly_mono (ladleMoveEffect_changes s c) (by decide)
  refused s c r := moveRefused_changes s _ c r
  accepted s _ := changesOnly_refl _ s

theorem ladleWithdrawDef_changes : ladleWithdrawDef.ChangesOnly [.host, .ldl, .out] :=
  .of_effect ladleWithdrawEffect_changes rfl rfl

theorem badOpDef_changes (op : Nat) : (badOpDef op).ChangesOnly [] :=
  .of_effect (fun s _ => changesOnly_refl _ s) rfl rfl

/-! ### All commands together -/

/-- What some command changes: every part but host memory outside the rings, the fuses and the queue. -/
def commandParts : List Part :=
  [.dev, .flash, .tb, .syn, .air, .mod, .host, .ldl, .lanes, .fh, .cru, .run, .tx, .rx, .anl, .pwr, .hld, .thm, .hka, .bias, .hb, .gen, .out]

theorem commandDefs_change : ∀ f ∈ commandDefs, f.ChangesOnly commandParts := by
  simp only [commandDefs, List.forall_mem_cons, List.not_mem_nil, false_imp_iff, implies_true, and_true]
  exact ⟨nopDef_changes.mono (by decide), modeSetDef_changes.mono (by decide), carrierCfgDef_changes.mono (by decide),
    synCfgDef_changes.mono (by decide), tbCfgDef_changes.mono (by decide), tbStepDef_changes.mono (by decide),
    txCtrlDef_changes.mono (by decide), powerSetDef_changes.mono (by decide), dpdCfgDef_changes.mono (by decide),
    coxCfgDef_changes.mono (by decide), rxCfgDef_changes.mono (by decide), captureDef_changes.mono (by decide),
    weightLoadDef_changes.mono (by decide), patternWriteDef_changes.mono (by decide), soundingCaptureDef_changes.mono (by decide),
    layerSetDef_changes.mono (by decide), fhCfgDef_changes.mono (by decide), assayCtxDef_changes.mono (by decide),
    laneCtrlDef_changes.mono (by decide), anlRunDef_changes.mono (by decide), domainSetDef_changes.mono (by decide),
    hldCfgDef_changes.mono (by decide), thmCfgDef_changes.mono (by decide), biasQueueDef_changes.mono (by decide),
    unitCtrlDef_changes.mono (by decide), hbReadDef_changes.mono (by decide), hbClearDef_changes.mono (by decide),
    ladleMoveDef_changes.mono (by decide), ladleWithdrawDef_changes.mono (by decide)⟩

/-- Every opcode has a command of the list, or none at all. -/
theorem defOf_changes (op : Nat) : (defOf op).ChangesOnly commandParts := by
  unfold defOf
  cases h : commandDefs.find? fun f => f.opcode == op with
  | none => exact (badOpDef_changes op).mono (by decide)
  | some f => exact commandDefs_change f (List.mem_of_find?_eq_some h)

theorem changesOnly_commandParts {s t : State} (h : changesOnly (withReports commandParts) s t) : changesOnly commandParts s t :=
  changesOnly_mono h (by decide)

/-- A due command changes what its command changes. -/
theorem cmdApply_changes (k : Nat) (pre : State) (later : List Cmd) (s : State) (c : Cmd) :
    changesOnly commandParts s (cmdApply k pre later s c) := by
  have effect : ∀ x y : Cmd, changesOnly commandParts s ((defOf (dOp c.d)).effect (cmdPut s x) y) := fun x y =>
    changesOnly_trans (changesOnly_mono (cmdPut_changes s x) (by decide)) ((defOf_changes _).effect _ y)
  unfold cmdApply
  exact changesOnly_ite (changesOnly_refl _ s) (changesOnly_ite (effect _ _)
    (changesOnly_ite (changesOnly_mono (cmdDone_changes s _) (by decide)) (effect _ _)))

theorem cmdsApply_changes (k : Nat) (pre : State) : ∀ (l : List Cmd) (s : State), changesOnly commandParts s (cmdsApply k pre l s)
  | [], s => changesOnly_refl _ s
  | c :: rest, s => changesOnly_trans (cmdApply_changes k pre rest s c) (cmdsApply_changes k pre rest _)

/-- The commands due at a tick change what commands change. -/
theorem tickCommands_changes (kinds : List TickKind) (k : Nat) (pre s : State) :
    changesOnly commandParts s (tickCommands kinds k pre s) := by
  unfold tickCommands
  refine changesOnly_trans (changesOnly_foldl commandParts _ (fun s c => ?_) _ s) (cmdsApply_changes k pre _ _)
  dsimp only
  split
  · exact changesOnly_trans ((defOf_changes _).refused s c _) (changesOnly_mono (cmdRefuse_changes _ c _) (by decide))
  · exact changesOnly_refl _ s

/-- With no command bound to a tick a tick applies none. -/
theorem tickCommands_of_noneBound {pre : State} (h : noneBound pre) (kinds : List TickKind) (k : Nat) (s : State) :
    tickCommands kinds k pre s = s := by
  have none_due : cmdsDue pre kinds k = [] := by
    have : pre.host.cmds.filter (cmdDue kinds k) = [] := by
      refine List.filter_eq_nil_iff.2 fun c hc => ?_
      have hw := h c hc
      unfold waitsForTick at hw
      unfold cmdDue
      split <;> simp_all
    rw [cmdsDue, this]
    rfl
  rw [tickCommands, none_due]
  rfl

/-! ### The air ticks -/

/-- The kinds of tick that fall at the tick of symbol k (R7, R30). -/
def airKinds (k : Nat) : List TickKind :=
  [.symbol] ++ (if k % 14 == 0 then [.slot] else []) ++ (if k % 280 == 0 then [.frame] else [])

/-- An air tick up to the commands due at it. -/
def airCommands (k : Nat) (seen : TickSeen) (pre : State) : State :=
  tickCommands (airKinds k) k pre (rxSatCount (airBefore k pre) seen.rxSat)

/-- What a frame tick and a slot tick do after the commands. -/
def airSlotPart (k : Nat) (s : State) : State :=
  let s := if k % 280 == 0 then tbFrameAfter (flaskFrame s) else s
  if k % 14 == 0 then slotUnits s else s

/-- What the units do at the tick of symbol k, unless a step opened a void interval. -/
def airSymbolPart (k : Nat) (late : Bool) (pre s : State) : State :=
  let s := symbolUnits k pre s
  let s := if k % 14 == 0 then slotRest k late pre s else s
  if k % 280 == 0 then surveyFrameTick s else s

/-- An air tick as its stages. -/
theorem airInstant_eq (k : Nat) (seen : TickSeen) (pre : State) :
    airInstant k seen pre =
      if (airSlotPart k (airCommands k seen pre)).tb.voidCounts ≠ 0 then airAfter pre (airSlotPart k (airCommands k seen pre))
      else airAfter pre (symbolSends k (airSymbolPart k seen.late pre (airSlotPart k (airCommands k seen pre)))) := rfl

/-- What the units change at an air tick. -/
def airParts : List Part :=
  [.dev, .tb, .syn, .mod, .host, .ldl, .lanes, .fh, .cru, .run, .tx, .rx, .anl, .pwr, .hld, .thm, .hka, .bias, .hb, .gen, .out]

theorem airSlotPart_changes (k : Nat) (s : State) : changesOnly airParts s (airSlotPart k s) := by
  unfold airSlotPart
  have frame : changesOnly airParts s (if k % 280 == 0 then tbFrameAfter (flaskFrame s) else s) :=
    changesOnly_ite (changesOnly_trans (changesOnly_mono (flaskFrame_changes s) (by decide))
      (changesOnly_mono (tbFrameAfter_changes _) (by decide))) (changesOnly_refl _ s)
  exact changesOnly_ite (changesOnly_trans frame (changesOnly_mono (slotUnits_changes _) (by decide))) frame

theorem airSymbolPart_changes (k : Nat) (late : Bool) (pre s : State) : changesOnly airParts s (airSymbolPart k late pre s) := by
  unfold airSymbolPart
  have units : changesOnly airParts s (symbolUnits k pre s) := changesOnly_mono (symbolUnits_changes k pre s) (by decide)
  have slot : changesOnly airParts s (if k % 14 == 0 then slotRest k late pre (symbolUnits k pre s) else symbolUnits k pre s) :=
    changesOnly_ite (changesOnly_trans units (changesOnly_mono (slotRest_changes k late pre _) (by decide))) units
  exact changesOnly_ite (changesOnly_trans slot (changesOnly_mono (surveyFrameTick_changes _) (by decide))) slot

/-- An air tick changes what its commands change and what its units change. -/
theorem airInstant_changes {l : List Part} (k : Nat) (seen : TickSeen) (pre : State)
    (commands : ∀ s, changesOnly l s (tickCommands (airKinds k) k pre s)) (units : ∀ p ∈ airParts, p ∈ l) :
    changesOnly l pre (airInstant k seen pre) := by
  have before : changesOnly l pre (rxSatCount (airBefore k pre) seen.rxSat) :=
    changesOnly_mono (l := airParts) (changesOnly_trans (changesOnly_mono (airBefore_changes k pre) (by decide))
      (changesOnly_mono (rxSatCount_changes _ _) (by decide))) units
  have slot : changesOnly l pre (airSlotPart k (airCommands k seen pre)) :=
    changesOnly_trans (changesOnly_trans before (commands _)) (changesOnly_mono (airSlotPart_changes k _) units)
  have after : ∀ s, changesOnly l s (airAfter pre s) := fun s =>
    changesOnly_mono (l := airParts) (changesOnly_mono (airAfter_changes pre s) (by decide)) units
  rw [airInstant_eq]
  refine changesOnly_ite (changesOnly_trans slot (after _)) (changesOnly_trans (changesOnly_trans slot ?_) (after _))
  exact changesOnly_mono (l := airParts) (changesOnly_trans (airSymbolPart_changes k seen.late pre _)
    (changesOnly_mono (symbolSends_changes k _) (by decide))) units

end Sys2Proof.Machine
end

section
/-! The fuses from step to step (R17, R391, R393, R395, R403): which rows touch them, and what each of those does to them. -/

namespace Sys2Proof.Machine

/-- What leaves the fuses out of the parts it changes leaves them as they were. -/
theorem changesOnly.fus {l : List Part} {s t : State} (h : changesOnly l s t) (hl : l.contains Part.fus = false) : t.fus = s.fus :=
  h .fus fun hm => by simp [hm] at hl

theorem fus_ite {c : Prop} [Decidable c] {s t u : State} (ht : t.fus = s.fus) (hu : u.fus = s.fus) : (if c then t else u).fus = s.fus := by
  split
  · exact ht
  · exact hu

theorem fus_foldl {α : Type} {f : State → α → State} (h : ∀ s x, (f s x).fus = s.fus) :
    ∀ (l : List α) (s : State), (l.foldl f s).fus = s.fus
  | [], _ => rfl
  | x :: l, s => (fus_foldl h l (f s x)).trans (h s x)

/-! ### Requests of the control port -/

/-- No write of a register touches the fuses: they have no writable register (R393). -/
def RegDef.KeepsFuses (r : RegDef) : Prop := ∀ s i v, ∀ t ∈ r.write s i v, t.fus = s.fus

/-- A write that is always accepted. -/
theorem forall_mem_some {s : State} {P : State → Prop} : (∀ t ∈ some s, P t) ↔ P s := by simp

/-- A write accepted only under a condition. -/
theorem forall_mem_accept {ok : Bool} {s : State} {P : State → Prop} : (∀ t ∈ accept ok s, P t) ↔ (ok = true → P s) := by
  cases ok <;> simp [accept]

theorem grpCfgWrite_fus (s : State) (g v : Nat) : ∀ t ∈ grpCfgWrite s g v, t.fus = s.fus :=
  forall_mem_accept.2 fun _ => fus_ite ((setCeil_changes _ g 32767).fus rfl) rfl

theorem refCfgWrite_fus (s : State) (v : Nat) : ∀ t ∈ refCfgWrite s v, t.fus = s.fus :=
  forall_mem_accept.2 fun _ => fus_ite (((hkCheck_changes _ _).fus rfl).trans ((refSelect_changes _).fus rfl)) rfl

theorem genRegs_keepFuses : ∀ r ∈ genRegs, r.KeepsFuses := by
  simp [genRegs, RegDef.KeepsFuses, forall_mem_some, apply_ite State.fus, -Option.mem_def]

theorem fusRegs_keepFuses : ∀ r ∈ fusRegs, r.KeepsFuses := by
  simp [fusRegs, RegDef.KeepsFuses, forall_mem_some, -Option.mem_def]

theorem pwrRegs_keepFuses : ∀ r ∈ pwrRegs, r.KeepsFuses := by
  simp [pwrRegs, RegDef.KeepsFuses, forall_mem_some, apply_ite State.fus, -Option.mem_def]

theorem hldRegs_keepFuses : ∀ r ∈ hldRegs, r.KeepsFuses := by
  simp [hldRegs, RegDef.KeepsFuses, forall_mem_some, -Option.mem_def]

theorem thmRegs_keepFuses : ∀ r ∈ thmRegs, r.KeepsFuses := by
  simpa [thmRegs, RegDef.KeepsFuses, forall_mem_some, forall_mem_accept, (heatWrite_changes _ _).fus rfl, -Option.mem_def] using grpCfgWrite_fus

theorem biaRegs_keepFuses : ∀ r ∈ biaRegs, r.KeepsFuses := by
  simp [biaRegs, RegDef.KeepsFuses, forall_mem_some, -Option.mem_def]

theorem hkaRegs_keepFuses : ∀ r ∈ hkaRegs, r.KeepsFuses := by
  simp [hkaRegs, RegDef.KeepsFuses, forall_mem_some, forall_mem_accept, apply_ite State.fus, (hkCheck_changes _ _).fus rfl,
    (hkNext_changes _ _).fus rfl, -Option.mem_def]

theorem hbkRegs_keepFuses : ∀ r ∈ hbkRegs, r.KeepsFuses := by
  simp [hbkRegs, RegDef.KeepsFuses, forall_mem_some, forall_mem_accept, -Option.mem_def]

theorem rngRegs_keepFuses : ∀ r ∈ rngRegs, r.KeepsFuses := by
  simp [rngRegs, RegDef.KeepsFuses, forall_mem_some, forall_mem_accept, apply_ite State.fus, (ringCfgWrite_changes _ _ _).fus rfl, -Option.mem_def]

theorem ldlRegs_keepFuses : ∀ r ∈ ldlRegs, r.KeepsFuses := by
  simp [ldlRegs, RegDef.KeepsFuses, forall_mem_some, apply_ite State.fus, -Option.mem_def]

theorem tbRegs_keepFuses : ∀ r ∈ tbRegs, r.KeepsFuses := by
  simp [tbRegs, RegDef.KeepsFuses, forall_mem_some, apply_ite State.fus, -Option.mem_def]

theorem synRegs_keepFuses : ∀ r ∈ synRegs, r.KeepsFuses := by
  simpa [synRegs, RegDef.KeepsFuses, forall_mem_some, -Option.mem_def] using refCfgWrite_fus

theorem fhlRegs_keepFuses : ∀ r ∈ fhlRegs, r.KeepsFuses := by
  simp [fhlRegs, RegDef.KeepsFuses, forall_mem_some, forall_mem_accept, (synceUpdate_changes _).fus rfl, -Option.mem_def]

theorem laneRegs_keepFuses : ∀ r ∈ laneRegs, r.KeepsFuses := by
  simp [laneRegs, RegDef.KeepsFuses, forall_mem_some, -Option.mem_def]

theorem fhmRegs_keepFuses : ∀ r ∈ fhmRegs, r.KeepsFuses := by
  simp [fhmRegs, RegDef.KeepsFuses, forall_mem_some, apply_ite State.fus, -Option.mem_def]

theorem cruRegs_keepFuses : ∀ r ∈ cruRegs, r.KeepsFuses := by
  simp [cruRegs, RegDef.KeepsFuses, forall_mem_some, cruCount, forall_mem_accept, apply_ite State.fus,
    (shiftWrite_changes _ _ _ _).fus rfl, -Option.mem_def]

theorem runRegs_keepFuses : ∀ r ∈ runRegs, r.KeepsFuses := by
  simp [runRegs, RegDef.KeepsFuses, forall_mem_some, apply_ite State.fus, -Option.mem_def]

theorem anlRegs_keepFuses : ∀ r ∈ anlRegs, r.KeepsFuses := by
  simp [anlRegs, RegDef.KeepsFuses, forall_mem_some, forall_mem_accept, -Option.mem_def]

theorem modRegs_keepFuses : ∀ r ∈ modRegs, r.KeepsFuses := by
  simp [modRegs, RegDef.KeepsFuses, forall_mem_some, (pinfnWrite_changes _ _).fus rfl, -Option.mem_def]

theorem cxgRegs_keepFuses : ∀ r ∈ cxgRegs, r.KeepsFuses := by
  simp [cxgRegs, RegDef.KeepsFuses, forall_mem_some, apply_ite State.fus, -Option.mem_def]

theorem tmpRegs_keepFuses : ∀ r ∈ tmpRegs, r.KeepsFuses := by
  simp [tmpRegs, RegDef.KeepsFuses, forall_mem_some, -Option.mem_def]

theorem txpRegs_keepFuses : ∀ r ∈ txpRegs, r.KeepsFuses := by
  simp [txpRegs, RegDef.KeepsFuses, forall_mem_some, forall_mem_accept, apply_ite State.fus, -Option.mem_def]

theorem rxpRegs_keepFuses : ∀ r ∈ rxpRegs, r.KeepsFuses := by
  simp [rxpRegs, RegDef.KeepsFuses, forall_mem_some, apply_ite State.fus, -Option.mem_def]

theorem dpdRegs_keepFuses : ∀ r ∈ dpdRegs, r.KeepsFuses := by
  simp [dpdRegs, RegDef.KeepsFuses, forall_mem_some, -Option.mem_def]

/-- Every block's registers. -/
theorem blockRegs_keepFuses (b : Nat) : ∀ r ∈ blockRegs b, r.KeepsFuses := by
  have tables : ∀ l ∈ [genRegs, fusRegs, pwrRegs, hldRegs, thmRegs, biaRegs, hkaRegs, hbkRegs, rngRegs, ldlRegs, ldlRegs, tbRegs, synRegs,
      fhlRegs ++ laneRegs, fhmRegs, cruRegs, runRegs, anlRegs, modRegs, cxgRegs, tmpRegs, txpRegs, rxpRegs, dpdRegs],
      ∀ r ∈ l, r.KeepsFuses := by
    simp only [List.forall_mem_cons, List.not_mem_nil, false_imp_iff, implies_true, and_true]
    exact ⟨genRegs_keepFuses, fusRegs_keepFuses, pwrRegs_keepFuses, hldRegs_keepFuses, thmRegs_keepFuses, biaRegs_keepFuses,
      hkaRegs_keepFuses, hbkRegs_keepFuses, rngRegs_keepFuses, ldlRegs_keepFuses, ldlRegs_keepFuses, tbRegs_keepFuses,
      synRegs_keepFuses, List.forall_mem_append.2 ⟨fhlRegs_keepFuses, laneRegs_keepFuses⟩, fhmRegs_keepFuses, cruRegs_keepFuses,
      runRegs_keepFuses, anlRegs_keepFuses, modRegs_keepFuses, cxgRegs_keepFuses, tmpRegs_keepFuses, txpRegs_keepFuses,
      rxpRegs_keepFuses, dpdRegs_keepFuses⟩
  intro r hr
  by_cases hb : b < 24
  · exact tables _ (List.getElem_mem hb) r (by rwa [blockRegs, List.getD_eq_getElem _ _ hb] at hr)
  · rw [blockRegs, List.getD_eq_default _ _ (by simpa using hb)] at hr
    exact absurd hr List.not_mem_nil

theorem regAt_keepsFuses {b o i : Nat} {r : RegDef} (h : regAt b o = some (r, i)) : r.KeepsFuses := by
  unfold regAt at h
  split at h
  · split at h
    · cases h
      exact fun s i v => forall_mem_some.2 rfl
    · cases h
  · obtain ⟨x, hx, hf⟩ := List.exists_of_findSome?_eq_some h
    split at hf
    · obtain ⟨j, -, hj⟩ := Option.map_eq_some_iff.1 hf
      cases hj
      exact blockRegs_keepFuses b r hx
    · cases hf

theorem wordSet_fus (s : State) (off v : Nat) : (wordSet s off v).fus = s.fus := by
  unfold wordSet
  split
  · rfl
  · split
    · rfl
    · next r i hr =>
      split
      · next t ht => exact regAt_keepsFuses hr s i v t ht
      · rfl

theorem wordPut_fus (s : State) (req : BitVec 16) (off v : Nat) : (wordPut s req off v).fus = s.fus := by
  have miss := (heldMiss_changes s req).fus rfl
  unfold wordPut
  refine fus_ite (fus_ite miss ((wordSet_fus _ off v).trans miss)) (fus_ite ?_ (wordSet_fus s off v))
  split
  · exact fus_ite ((wordSet_fus _ _ _).trans ((wordSet_fus _ _ _).trans ((heldDrop_changes s req).fus rfl))) ((wordSet_fus _ off v).trans miss)
  · exact wordSet_fus s off v

theorem partWrite_fus (s : State) (req : BitVec 16) (off len v : Nat) : (partWrite s req off len v).fus = s.fus := by
  unfold partWrite
  split
  · exact (darkNote_changes s off true _ 0).fus rfl
  · exact fus_ite rfl (fus_ite ((writeReject_changes s off).fus rfl) (wordPut_fus s req off _))

theorem busWrite_fus (s : State) (req : BitVec 16) (off len v : Nat) : (busWrite s req off len v).fus = s.fus := by
  unfold busWrite
  refine fus_ite rfl (fus_ite rfl (fus_ite (fus_ite ?_ ?_) (partWrite_fus s req off len v)))
  · split
    · exact (darkNote_changes s off true _ 0).fus rfl
    · exact (wordSet_fus _ _ _).trans (wordSet_fus s off _)
  · exact (partWrite_fus _ req _ 4 _).trans (partWrite_fus s req off 4 v)

theorem busAccess_fus (s : State) (q : BusReq) : (busAccess s q).fus = s.fus :=
  fus_ite (busWrite_fus s _ _ _ _) ((busRead_changes s _ _ _).fus rfl)

theorem busIf_fus (dt : Nat) (ok : Bool) (q : BusReq) (s : State) : (busIf dt ok q s).fus = s.fus :=
  fus_ite (busAccess_fus _ q) rfl

theorem answerWaiting_fus (s : State) : (answerWaiting s).fus = s.fus := fus_foldl busAccess_fus _ _

/-! ### Commands and ticks -/

theorem runCmd_fus {l : List Part} {f : CmdDef} (h : f.ChangesOnly l) (dt : Nat) (r : CmdRef) (d : Desc) (s : State)
    (hl : (withReports l).contains Part.fus = false) : (runCmd f dt r d s).fus = s.fus :=
  (runCmd_changes h dt r d s).fus hl

theorem fetchOne_fus (s : State) (r : Fin 16) (err : Bool) : (fetchOne s r err).fus = s.fus := by
  unfold fetchOne
  refine fus_ite rfl (fus_ite ?_ ((cmdFetched_changes (defOf_changes _) _ _ _).fus rfl))
  exact ((aerReport_changes _ _).fus rfl).trans ((recordPush_changes _ _ _ (by omega)).fus rfl)

theorem airTick_fus (every : Nat) (seen : TickSeen) (s : State) : (airTick every seen s).fus = s.fus :=
  fus_ite ((airInstant_changes _ seen _ (tickCommands_changes _ _ _) (by decide)).fus rfl) rfl

/-! ### The tally (R391) -/

/-- The fuses with one more tally bit programmed. -/
def tallied (f : Fus) : Fus := { f with array := tallyProgram f.array }

/-- A fuse blown reads 1, and every other fuse reads what it read. -/
theorem getLsbD_or_one_shiftLeft (a : BitVec 4096) (i b : Nat) (hi : i < 4096) :
    (a ||| (1#4096 <<< i)).getLsbD b = (a.getLsbD b || decide (b = i)) := by
  simp only [BitVec.getLsbD_or, BitVec.getLsbD_shiftLeft, BitVec.getLsbD_one]
  congr 1
  by_cases h : b = i
  · simp [h, hi]
  · simp only [h, decide_false]
    by_cases hb : b < i
    · simp [hb]
    · simp; omega

theorem tallyProgram_getLsbD (a : BitVec 4096) (b : Nat) :
    (tallyProgram a).getLsbD b = true ↔ a.getLsbD b = true ∨
      ((List.range 64).find? fun i => !bit a.toNat (2880 + i)) = some (b - 2880) ∧ 2880 ≤ b := by
  unfold tallyProgram
  cases h : (List.range 64).find? fun i => !bit a.toNat (2880 + i) with
  | none => simp
  | some i =>
    have hi : i < 64 := List.mem_range.1 (List.mem_of_find?_eq_some h)
    dsimp only
    rw [getLsbD_or_one_shiftLeft a (2880 + i) b (by omega)]
    simp only [Bool.or_eq_true, decide_eq_true_eq, Option.some.injEq]
    refine or_congr_right ?_
    omega

theorem tallyProgram_kept {a : BitVec 4096} {b : Nat} (h : a.getLsbD b = true) : (tallyProgram a).getLsbD b = true :=
  (tallyProgram_getLsbD a b).2 (.inl h)

/-- The tally bits are fuses 2880 to 2943. -/
theorem tallyProgram_outside (a : BitVec 4096) {b : Nat} (h : b < 2880 ∨ 2944 ≤ b) : (tallyProgram a).getLsbD b = a.getLsbD b := by
  rw [Bool.eq_iff_iff, tallyProgram_getLsbD]
  refine or_iff_left fun ⟨hf, lo⟩ => ?_
  have hi : b - 2880 < 64 := List.mem_range.1 (List.mem_of_find?_eq_some hf)
  omega

theorem hbFailure_fus (s : State) (kind cause off : Nat) (data : BitVec 128) : (hbFailure s kind cause off data).fus = tallied s.fus := by
  rw [hbFailure, post_fus, (lgAdd_changes s kind 0 off data).fus rfl, tallied]

/-- An hour bit that passes its verify touches no fuse; one that fails it is a failure of the Heat Book. -/
theorem hourProgram_true_fus (s : State) : (hourProgram true s).fus = s.fus := fus_ite rfl rfl

theorem hourProgram_false_fus (s : State) : (hourProgram false s).fus = s.fus ∨ (hourProgram false s).fus = tallied s.fus := by
  unfold hourProgram
  split
  · exact .inl rfl
  · exact .inr (hbFailure_fus s 3 3 _ 0)

/-- The hours that waited for CTL are programmed without a failure. -/
theorem flashResume_fus (s : State) : (flashResume s).fus = s.fus :=
  ((snapStart_changes _).fus rfl).trans (fus_foldl (fun s _ => hourProgram_true_fus s) _ _)

theorem domResume_fus (s : State) (d : Nat) (cold : Bool) : (domResume s d cold).fus = s.fus := by
  unfold domResume
  refine fus_ite (((anlTrigger_changes _ 6).fus rfl).trans (((biasForce_changes _).fus rfl).trans ((synSearch_changes s _).fus rfl))) ?_
  split
  · exact flashResume_fus s
  · exact fus_ite (((tbResume_changes _).fus rfl).trans (fus_ite rfl rfl)) rfl
  · exact (synSearchAll_changes _).fus rfl
  · exact (bankZero_changes s).fus rfl
  · refine fus_ite (fus_foldl (fun s l => ?_) _ s) rfl
    exact fus_ite rfl (fus_ite ((startAttempt_changes _ s l).fus rfl) (fus_ite rfl ((startAttempt_changes _ s l).fus rfl)))

theorem exitDone_fus (s : State) (d : Nat) (sigs : List (BitVec 32)) : (exitDone s d sigs).fus = s.fus := by
  unfold exitDone
  extract_lets kept b bad cold s1 _ s2 s3 s4 s5 s6
  have h1 : s1.fus = s.fus := fus_foldl (fun s i => (bankSpoil_changes d s _).fus rfl) bad s
  have h3 : s3.fus = s.fus := fus_ite (((coldReset_changes s2 d).fus rfl).trans h1) h1
  have h4 : s4.fus = s.fus := (domResume_fus _ d cold).trans h3
  have h5 : s5.fus = s.fus := ((postDom_changes s4 d 0).fus rfl).trans h4
  have h6 : s6.fus = s.fus := fus_ite (((drainAll_changes _).fus rfl).trans (((evtqPost_changes s5).fus rfl).trans h5)) h5
  exact ((domFinish_changes _).fus rfl).trans (((domReached_changes s6 d _).fus rfl).trans h6)

/-! ### The rows -/

/-- A row of a command runs that command, which is one of R87; DOMAIN_SET may also change the period of a conversion. -/
theorem exec_of_commandRow {i : Instr} {x : CommandRow} (h : commandRow i = some x) (s : State) :
    x.f ∈ commandDefs ∧ (exec i s = .next (runCmd x.f x.dt x.ref x.d s) ∨ exec i s = .next (hkCheck s (runCmd x.f x.dt x.ref x.d s))) := by
  cases i <;> cases h <;> refine ⟨by simp [commandDefs], ?_⟩
  case domainSet dt ref d => exact .inr rfl
  all_goals exact .inl rfl

theorem exec_commandRow_fus {i : Instr} {x : CommandRow} (h : commandRow i = some x) (s : State) :
    ∃ t, exec i s = .next t ∧ t.fus = s.fus := by
  obtain ⟨hf, he⟩ := exec_of_commandRow h s
  have ran := runCmd_fus (commandDefs_change x.f hf) x.dt x.ref x.d s rfl
  rcases he with he | he
  · exact ⟨_, he, ran⟩
  · exact ⟨_, he, ((hkCheck_changes s _).fus rfl).trans ran⟩

/-- The rows that load or may blow fuses (R17, R391, R395). -/
def touchesFuses : Instr → Bool
  | .powerOnReset .. | .fuseProgram .. | .hbClearEraseEnd .. | .hbSnapshot .. | .hourComplete .. => true
  | _ => false

/-- Time alone touches no fuse: what holds against the state at the row's count holds against the state before it. -/
theorem fus_arrive (dt : Nat) {s t : State} (h : t.fus = (arrive dt s).fus) : t.fus = s.fus := h.trans (arrive_fus dt s)

theorem fus_arriveAt (due : Nat) {s t : State} (h : t.fus = (arriveAt due s).fus) : t.fus = s.fus := fus_arrive _ h

/-- Every other row leaves the fuses as they were. -/
theorem exec_fus (i : Instr) (s : State) (h : touchesFuses i = false) : ∃ t, exec i s = .next t ∧ t.fus = s.fus := by
  cases i with
  | powerOnReset | fuseProgram | hbClearEraseEnd | hbSnapshot | hourComplete => cases h
  | nop | modeSet | carrierCfg | synCfg | tbCfg | tbStep | txCtrl | powerSet | dpdCfg | coxCfg | rxCfg | capture | weightLoad
  | patternWrite | soundingCapture | layerSet | fhCfg | assayCtx | laneCtrl | anlRun | domainSet | hldCfg | thmCfg | biasQueue
  | unitCtrl | hbRead | hbClear | ladleMove | ladleWithdraw => exact exec_commandRow_fus rfl s
  | powerFail dt => exact ⟨_, rfl, arrive_fus dt s⟩
  | controlPortReset dt kind => exact ⟨_, rfl, fus_arrive dt ((portReset_changes _).fus rfl)⟩
  | outOfReset dt =>
    refine ⟨_, rfl, fus_arrive dt (fus_ite rfl (((anlCold_changes _).fus rfl).trans ?_))⟩
    exact (fus_foldl (fun s l => fus_ite ((startAttempt_changes _ s l).fus rfl) rfl) _ _).trans ((synSearchAll_changes _).fus rfl)
  | sourceQualified dt src => exact ⟨_, rfl, fus_arrive dt (fus_ite rfl (((hkCheck_changes _ _).fus rfl).trans ((refSelect_changes _).fus rfl)))⟩
  | sourceLost dt src => exact ⟨_, rfl, fus_arrive dt (fus_ite rfl ((refSelect_changes _).fus rfl))⟩
  | refLost =>
    refine ⟨_, rfl, ?_⟩
    split
    · exact fus_arriveAt _ (((hkCheck_changes s _).fus rfl).trans ((refLostNow_changes _).fus rfl))
    · exact arrive_fus 0 s
  | samplePllUnlock dt =>
    refine ⟨_, rfl, fus_arrive dt (fus_ite (((pllFault_changes _).fus rfl).trans ?_) rfl)⟩
    exact (fus_foldl (fun s q => (quadLost_changes s q).fus rfl) _ _).trans (post_fus _ _ _ _ _)
  | samplePllRelock dt ok => exact ⟨_, rfl, fus_arrive dt (fus_ite rfl (fus_ite (post_fus _ _ _ _ _) ((pllFault_changes _).fus rfl)))⟩
  | synUnlock dt n => exact ⟨_, rfl, fus_arrive dt ((synUnlock_changes _ _).fus rfl)⟩
  | relockStart n =>
    refine ⟨_, rfl, ?_⟩
    split
    · exact fus_arriveAt _ ((synSearch_changes _ _).fus rfl)
    · exact arrive_fus 0 s
  | synLock dt n band =>
    refine ⟨_, rfl, fus_arrive dt (fus_ite ?_ rfl)⟩
    have locked := fun f => (post_fus (modSynth (arrive dt s) n.val f) 0x0A02 5 n.val band.toNat).trans (modSynth_fus _ _ _)
    dsimp only
    split
    · exact ((quadResets_changes _ _).fus rfl).trans (locked _)
    · exact locked _
  | relockFail n =>
    refine ⟨_, rfl, ?_⟩
    split
    · exact fus_arriveAt _ ((synFault_changes _ _).fus rfl)
    · exact arrive_fus 0 s
  | airSymbolTick seen => exact ⟨_, rfl, airTick_fus 1 seen s⟩
  | airSlotTick seen => exact ⟨_, rfl, airTick_fus 14 seen s⟩
  | airFrameTick seen => exact ⟨_, rfl, airTick_fus 280 seen s⟩
  | dlWorkTick unfinished unreleased =>
    refine ⟨_, rfl, fus_ite (fus_arriveAt (tickAt s .dlWork s.tb.dlNext) ?_) (arrive_fus 0 s)⟩
    exact ((dlWork_changes _ _ _ _).fus rfl).trans (((levelsTake_changes _).fus rfl).trans ((tickCommands_changes _ _ _ _).fus rfl))
  | ulWorkTick unfinished rx =>
    refine ⟨_, rfl, fus_ite (fus_arriveAt (tickAt s .ulWork s.tb.ulNext) ?_) (arrive_fus 0 s)⟩
    exact ((ulWork_changes _ _ _ _ _).fus rfl).trans ((tickCommands_changes _ _ _ _).fus rfl)
  | weightFill dir => exact ⟨_, rfl, (weightFill_changes _ s).fus rfl⟩
  | uplinkAssembly dt cc kind1 id samples =>
    refine ⟨_, rfl, fus_arrive dt (fus_ite (fus_ite ((assembleStream_changes _ _ id samples).fus rfl) rfl) (fus_ite rfl ?_))⟩
    split
    · exact fus_ite ((assembleLayer_changes _ _ _ false).fus rfl) rfl
    · rfl
  | psumRecordSend dt cc layer =>
    refine ⟨_, rfl, fus_arrive dt ?_⟩
    split
    · exact fus_ite rfl ((sendPartials_changes _ _ _ 1).fus rfl)
    · rfl
  | lockCheck grants => exact ⟨_, rfl, fus_ite (fus_arriveAt (tickT s s.tb.airNext - 1024) ((lockCheckAt_changes _ _).fus rfl)) (arrive_fus 0 s)⟩
  | loTimeout ref => exact ⟨_, rfl, (loTimeout_changes ref s).fus rfl⟩
  | captureEnd dt ref data =>
    refine ⟨_, rfl, fus_arrive dt ?_⟩
    split
    · exact fus_ite ((captureFinish_changes _ _ data).fus rfl) rfl
    · rfl
  | captureNoGrant ref =>
    refine ⟨_, rfl, ?_⟩
    split
    · split
      · exact fus_ite (fus_arriveAt _ ((cmdEnd_fus _ _ _ _).trans ((capRelease_changes _ _).fus rfl))) (arrive_fus 0 s)
      · exact arrive_fus 0 s
    · exact arrive_fus 0 s
  | soundingCaptureEnd dt ref data =>
    refine ⟨_, rfl, fus_arrive dt ?_⟩
    split
    · split
      · exact fus_ite (cmdDone_fus _ _) rfl
      · rfl
    · rfl
  | fanForceEnd f =>
    refine ⟨_, rfl, ?_⟩
    split
    · exact fus_arriveAt _ (modFan_fus _ _ _)
    · exact arrive_fus 0 s
  | ladleEngineStart dt =>
    refine ⟨_, rfl, fus_arrive dt (fus_ite rfl ?_)⟩
    split
    · rfl
    · simp only [modCh_fus]
      split
      · split
        · exact modFb_fus _ _ _
        · rfl
      · rfl
  | ladleMoveEnd dt read hostErr writeErr =>
    refine ⟨_, rfl, fus_arrive dt ?_⟩
    split
    · rfl
    · split
      · rfl
      · exact (moveEnd_changes _ _ _ read hostErr writeErr).fus rfl
  | commandDoorbell dt ring width value stores =>
    have stored := hostStores_fus (arrive dt s) stores
    exact ⟨_, rfl, fus_arrive dt (fus_ite (((doorbell_changes _ _ width value (by omega)).fus rfl).trans stored) stored)⟩
  | consumerDoorbell dt ring width value stores =>
    have stored := hostStores_fus (arrive dt s) stores
    exact ⟨_, rfl, fus_arrive dt (fus_ite (((doorbell_changes _ _ width value (by omega)).fus rfl).trans stored) stored)⟩
  | descriptorFetch dt ring n errs => exact ⟨_, rfl, fus_arrive dt (fus_ite (fus_foldl (fun s i => fetchOne_fus s ring _) _ _) rfl)⟩
  | heldCommandStart dt ref =>
    refine ⟨_, rfl, fus_arrive dt ?_⟩
    split
    · exact fus_ite rfl ((cmdStart_changes (defOf_changes _) _ _).fus rfl)
    · rfl
  | ringEnable dt r value stores =>
    have stored := hostStores_fus (arrive dt s) stores
    exact ⟨_, rfl, fus_arrive dt (fus_ite (((ringCfgWrite_changes _ _ _).fus rfl).trans stored) stored)⟩
  | ringDisable dt r value =>
    exact ⟨_, rfl, fus_arrive dt (fus_ite (fus_ite ((writeReject_changes _ _).fus rfl) ((ringCfgWrite_changes _ _ _).fus rfl)) rfl)⟩
  | coalesceTimer r =>
    refine ⟨_, rfl, ?_⟩
    split
    · rfl
    · exact fus_arriveAt _ ((signal_fus _ _).trans (modRing_fus _ _ _))
  | msixUnmask dt vector =>
    refine ⟨_, rfl, fus_arrive dt (fus_ite rfl ?_)⟩
    split
    · exact (pendingSend_changes _ _).fus rfl
    · exact fus_foldl (fun s v => (pendingSend_changes s v).fus rfl) _ _
  | lowWordRead dt req off => exact ⟨_, rfl, busIf_fus dt _ _ s⟩
  | highWordRead dt req off => exact ⟨_, rfl, busIf_fus dt _ _ s⟩
  | lowWordWrite dt req off value => exact ⟨_, rfl, busIf_fus dt _ _ s⟩
  | highWordWrite dt req off value => exact ⟨_, rfl, busIf_fus dt _ _ s⟩
  | hkaQpopRead dt => exact ⟨_, rfl, busIf_fus dt _ _ s⟩
  | accessDark dt req => exact ⟨_, rfl, busIf_fus dt _ _ s⟩
  | completerAbort dt req => exact ⟨_, rfl, busIf_fus dt _ _ s⟩
  | registerWrite dt space req =>
    refine ⟨_, rfl, fus_arrive dt (fus_ite rfl ?_)⟩
    split
    · exact busAccess_fus _ req
    · split
      · next r hr =>
        refine fus_ite ((respond_fus _ _).trans ((doorbell_changes _ r _ _ ?_).fus rfl)) ((bar2Access_changes _ req).fus rfl)
        unfold doorbellRing at hr
        split at hr <;> cases hr
        omega
      · exact (bar2Access_changes _ req).fus rfl
    · exact fus_ite ((configWrite_changes _ _ _).fus rfl) (respond_fus _ _)
  | ctlWakeRequest dt req =>
    refine ⟨_, rfl, fus_arrive dt ?_⟩
    split
    · exact (hostExit_changes _).fus rfl
    · exact fus_ite rfl rfl
    · rfl
  | fhFrameRx dt port frame =>
    refine ⟨_, rfl, fus_arrive dt (fus_ite ?_ rfl)⟩
    exact (fus_foldl (fun s m => (sendCopies_changes s m).fus rfl) _ _).trans ((frameTake_changes _ port frame).fus rfl)
  | owdMessageRx dt port msg => exact ⟨_, rfl, fus_arrive dt (fus_ite ((owdArrive_changes _ port 0 msg).fus rfl) rfl)⟩
  | ptpFrameRx dt port msg =>
    exact ⟨_, rfl, fus_arrive dt (fus_ite rfl (fus_ite rfl (fus_ite rfl ((ptpTake_changes _ port msg).fus rfl))))⟩
  | ppsEdge dt => exact ⟨_, rfl, fus_arrive dt (fus_ite rfl (fus_ite ((servo_changes _ _).fus rfl) rfl))⟩
  | timeSourceLost dt => exact ⟨_, rfl, fus_arrive dt (fus_ite rfl (fus_ite rfl ((timeSrc_changes _ 2).fus rfl)))⟩
  | pourFrameRx dt side lane frame =>
    exact ⟨_, rfl, fus_arrive dt (fus_ite rfl (fus_ite ((pourTake_changes _ _ _ frame).fus rfl) (fus_ite ((slag_changes _ 2 1).fus rfl) rfl)))⟩
  | noMasterTimeout dt =>
    refine ⟨_, rfl, fus_arrive dt ?_⟩
    split
    · exact fus_ite ((conflictSet_changes _ 2 _).fus rfl) rfl
    · rfl
  | modeAckTimeout dt =>
    refine ⟨_, rfl, fus_arrive dt ?_⟩
    split
    · exact fus_ite (((flkPump_changes _).fus rfl).trans (((flkDeny_changes _ _).fus rfl).trans ((outward_changes _ 5 _).fus rfl))) rfl
    · rfl
  | flkReadyTimeout dt =>
    refine ⟨_, rfl, fus_arrive dt (fus_foldl (fun s q => ?_) _ _)⟩
    split
    · split
      · exact ((flkDeny_changes _ q).fus rfl).trans ((reqWithdraw_changes s q).fus rfl)
      · rfl
    · rfl
  | trainingFrameRx dt l f => exact ⟨_, rfl, fus_arrive dt (fus_ite ((trainFrame_changes _ _ f).fus rfl) rfl)⟩
  | trainingFallback l =>
    refine ⟨_, rfl, ?_⟩
    split
    · exact fus_ite (fus_arriveAt _ (modLane_fus _ _ _)) (arrive_fus 0 s)
    · exact arrive_fus 0 s
  | laneUp dt l => exact ⟨_, rfl, fus_arrive dt (fus_ite (((synceUpdate_changes _).fus rfl).trans ((laneUp_changes _ _).fus rfl)) rfl)⟩
  | detectorAssert dt l det =>
    exact ⟨_, rfl, fus_arrive dt (fus_ite (((synceUpdate_changes _).fus rfl).trans ((detectorAssert_changes _ _ det).fus rfl)) rfl)⟩
  | detectorClear dt l det =>
    exact ⟨_, rfl, fus_arrive dt (fus_ite (((synceUpdate_changes _).fus rfl).trans ((detectorClear_changes _ _ det).fus rfl)) rfl)⟩
  | retryStart l =>
    refine ⟨_, rfl, ?_⟩
    split
    · exact fus_arriveAt _ ((startAttempt_changes _ _ _).fus rfl)
    · exact arrive_fus 0 s
  | attemptFail l =>
    refine ⟨_, rfl, ?_⟩
    split
    · exact fus_ite (arrive_fus 0 s) (fus_arriveAt _ (((synceUpdate_changes _).fus rfl).trans ((attemptFail_changes _ _).fus rfl)))
    · exact arrive_fus 0 s
  | prbsSyncLost dt l errs nbits =>
    refine ⟨_, rfl, fus_arrive dt (fus_ite ?_ rfl)⟩
    exact (post_fus _ _ _ _ _).trans (((errorPulses_changes _ errs).fus rfl).trans (modLane_fus _ _ _))
  | surveyPeriodEnd powers => exact ⟨_, rfl, fus_arrive 0 (fus_ite (fus_ite rfl ((surveyReport_changes _ powers).fus rfl)) rfl)⟩
  | potFault dt pot residue =>
    refine ⟨_, rfl, fus_arrive dt (fus_ite rfl (((potCount_changes _ _).fus rfl).trans (((potStop_changes _ _).fus rfl).trans ?_)))⟩
    exact post_fus _ _ _ _ _
  | potRetestEnd dt pot pass =>
    exact ⟨_, rfl, fus_arrive dt (fus_ite rfl (fus_ite (modPot_fus _ _ _) ((potCount_changes _ _).fus rfl)))⟩
  | powerDetectorReport dt path mean => exact ⟨_, rfl, fus_arrive dt ((detectorReport_changes _ mean _).fus rfl)⟩
  | temperSolveEnd dt path sol => exact ⟨_, rfl, fus_arrive dt ((solveTemper_changes _ sol _).fus rfl)⟩
  | divergeRetry path => exact ⟨_, rfl, (divergeRetry_changes _ s).fus rfl⟩
  | temperRefreshDue dt path => exact ⟨_, rfl, fus_arrive dt ((refreshDue_changes _ _).fus rfl)⟩
  | dpdStale dt path => exact ⟨_, rfl, fus_arrive dt ((staleCheck_changes _ _).fus rfl)⟩
  | rxOverload dt path code => exact ⟨_, rfl, fus_arrive dt ((overload_changes _ _ code).fus rfl)⟩
  | anlGuardPeriod dt noise grants => exact ⟨_, rfl, fus_arrive dt ((guardPeriod_changes noise grants _).fus rfl)⟩
  | anlSolveEnd dt res => exact ⟨_, rfl, fus_arrive dt ((solveEnd_changes res _).fus rfl)⟩
  | anlRepeatTimeout dt => exact ⟨_, rfl, fus_arrive dt ((repeatTimeout_changes _).fus rfl)⟩
  | noGuard dt => exact ⟨_, rfl, fus_arrive dt ((noGuardEnd_changes _).fus rfl)⟩
  | anlAgeTrigger dt => exact ⟨_, rfl, fus_arrive dt (fus_ite ((anlTrigger_changes _ 3).fus rfl) rfl)⟩
  | anlSaveEnd dt ok => exact ⟨_, rfl, fus_arrive dt ((saveEnd_changes ok _).fus rfl)⟩
  | hkConversionDone dt code => exact ⟨_, rfl, fus_arrive dt ((conversionDone_changes code _).fus rfl)⟩
  | hkRound dt => exact ⟨_, rfl, fus_arrive dt ((hkRound_changes _).fus rfl)⟩
  | comparatorCrossing dt k above => exact ⟨_, rfl, fus_arrive dt (fus_ite ((cmpCross_changes _ _ _).fus rfl) rfl)⟩
  | comparatorRearm dt k => exact ⟨_, rfl, fus_arrive dt (fus_ite (modCmp_fus _ _ _) rfl)⟩
  | quench dt cause sensor temp => exact ⟨_, rfl, fus_arrive dt (fus_ite ((quenchLatch_changes _ cause _ temp).fus rfl) rfl)⟩
  | biasUpdateTick dt => exact ⟨_, rfl, fus_arrive dt ((biasUpdate_changes _).fus rfl)⟩
  | domainEntryDone dt dom sigs =>
    exact ⟨_, rfl, fus_arrive dt (fus_ite (((hkCheck_changes _ _).fus rfl).trans ((entryDone_changes _ _ sigs).fus rfl)) rfl)⟩
  | domainExitStart dt dom => exact ⟨_, rfl, fus_arrive dt (fus_ite rfl rfl)⟩
  | domainExitDone dt dom sigs =>
    have came := ((hkCheck_changes (arrive dt s) _).fus rfl).trans (exitDone_fus (arrive dt s) dom.val sigs)
    exact ⟨_, rfl, fus_arrive dt (fus_ite (fus_ite ((answerWaiting_fus _).trans came) came) rfl)⟩
  | ctlEntryStart => exact ⟨_, rfl, (ctlEntry_changes s).fus rfl⟩
  | pwakeEdge dt => exact ⟨_, rfl, fus_arrive dt ((wake_changes _ 4).fus rfl)⟩
  | holdingWindowEnd dt hits => exact ⟨_, rfl, fus_arrive dt ((windowEnd_changes _ _).fus rfl)⟩
  | darkCheck dt orx level =>
    refine ⟨_, rfl, fus_arrive dt (fus_ite rfl ?_)⟩
    exact fus_ite (by simp only [hbCount_fus, post_fus, modOrx_fus]) (by simp only [modOrx_fus])
  | hbSnapshotDue dt => exact ⟨_, rfl, fus_arrive dt (fus_ite ((snapAsk_changes _ 1 none).fus rfl) rfl)⟩
  | hbFreeScan dt => exact ⟨_, rfl, fus_arrive dt (fus_ite rfl ((snapStart_changes _).fus rfl))⟩
  | checkerSync dt l => exact ⟨_, rfl, fus_arrive dt (fus_ite (modLane_fus _ _ _) rfl)⟩

/-! ### The rows that touch the fuses -/

theorem execHbClearEraseEnd_fus (dt : Nat) (failed : Option (Fin 2)) (s : State) :
    ∃ t, exec (.hbClearEraseEnd dt failed) s = .next t ∧ (t.fus = s.fus ∨ t.fus = tallied s.fus) := by
  refine ⟨_, rfl, ?_⟩
  split
  · exact .inl (arrive_fus dt s)
  · split
    · left
      simp only [(hbClearNext_changes _).fus rfl, doneRef_fus, post_fus, arrive_fus]
    · right
      simp only [(hbClearNext_changes _).fus rfl, endRef_fus, (snapsDrop_changes _ 64).fus rfl, apply_ite State.fus,
        hbFailure_fus, arrive_fus, ite_self]

theorem execHbSnapshot_fus (dt : Nat) (failAt : Option Nat) (s : State) :
    ∃ t, exec (.hbSnapshot dt failAt) s = .next t ∧ (t.fus = s.fus ∨ t.fus = tallied s.fus) := by
  refine ⟨_, rfl, ?_⟩
  dsimp only
  split
  · exact .inl (arrive_fus dt s)
  · split
    · exact .inl (arrive_fus dt s)
    · split
      · left
        simp only [(hbClearNext_changes _).fus rfl, (snapStart_changes _).fus rfl]
        split <;> simp only [doneRef_fus, post_fus, arrive_fus]
      · right
        simp only [(hbClearNext_changes _).fus rfl, (snapsDrop_changes _ 64).fus rfl, hbFailure_fus, arrive_fus]

theorem execHourComplete_fus (dt : Nat) (ok : Bool) (s : State) :
    ∃ t, exec (.hourComplete dt ok) s = .next t ∧ (t.fus = s.fus ∨ t.fus = tallied s.fus) := by
  refine ⟨_, rfl, ?_⟩
  split
  · cases ok with
    | true => exact .inl (hourProgram_true_fus _)
    | false => exact hourProgram_false_fus _
  · exact .inl rfl

/-- A programmed fuse stays, and no other is cleared (R395). -/
theorem fuseBlow_kept (a : BitVec 4096) (i : Fin 4096) {b : Nat} (h : a.getLsbD b = true) : (fuseBlow a i).getLsbD b = true := by
  unfold fuseBlow
  split
  · rw [getLsbD_or_one_shiftLeft a i b i.isLt, h, Bool.true_or]
  · exact h

theorem foldl_fuseBlow_kept {b : Nat} : ∀ (l : List (Fin 4096)) (a : BitVec 4096), a.getLsbD b = true →
    (l.foldl (fun a i => fuseBlow a i.val) a).getLsbD b = true
  | [], _, h => h
  | i :: l, _, h => foldl_fuseBlow_kept l _ (fuseBlow_kept _ i h)

/-- What a row may do to the fuses: nothing, the next tally bit at a failure of the Heat Book (R391), the list of FUSE_PROGRAM (R395), or
the load of the array at power-on reset (R17). -/
def fuseEffect (i : Instr) (f g : Fus) : Prop :=
  match i with
  | .powerOnReset .. => g = { array := f.array, loaded := f.array }
  | .fuseProgram _ l => g = { f with array := l.foldl (fun a b => fuseBlow a b.val) f.array }
  | _ => g = f ∨ g = tallied f

theorem exec_fuseEffect (i : Instr) (s : State) : ∃ t, exec i s = .next t ∧ fuseEffect i s.fus t.fus := by
  cases ht : touchesFuses i with
  | false =>
    obtain ⟨t, he, hf⟩ := exec_fus i s ht
    refine ⟨t, he, ?_⟩
    unfold fuseEffect
    split
    · cases ht
    · cases ht
    · exact .inl hf
  | true =>
    cases i with
    | powerOnReset dt st => exact ⟨_, rfl, rfl⟩
    | fuseProgram dt l => exact ⟨_, rfl, rfl⟩
    | hbClearEraseEnd dt failed => exact execHbClearEraseEnd_fus dt failed s
    | hbSnapshot dt failAt => exact execHbSnapshot_fus dt failAt s
    | hourComplete dt ok => exact execHourComplete_fus dt ok s
    | _ => cases ht

/-- A step does to the fuses what the row at the front of the queue does; on an empty queue it does nothing. -/
theorem step_fuseEffect {s t : State} (h : step s = .next t) :
    (s.pending = [] ∧ t.fus = s.fus) ∨ ∃ i rest, s.pending = i :: rest ∧ fuseEffect i s.fus t.fus := by
  unfold step at h
  split at h
  · next hp =>
    cases h
    exact .inl ⟨hp, rfl⟩
  · next i rest hp =>
    obtain ⟨u, he, hu⟩ := exec_fuseEffect i { s with pending := rest }
    rw [he] at h
    cases h
    exact .inr ⟨i, rest, hp, hu⟩

theorem fuseEffect_kept {i : Instr} {f g : Fus} (h : fuseEffect i f g) {b : Nat} (hb : f.array.getLsbD b = true) :
    g.array.getLsbD b = true := by
  unfold fuseEffect at h
  split at h
  · rwa [h]
  · rw [h]
    exact foldl_fuseBlow_kept _ _ hb
  · rcases h with rfl | rfl
    · exact hb
    · exact tallyProgram_kept hb

theorem fuseEffect_outside {i : Instr} {f g : Fus} (h : fuseEffect i f g) (hi : ∀ dt l, i ≠ .fuseProgram dt l) {b : Nat}
    (hb : b < 2880 ∨ 2944 ≤ b) : g.array.getLsbD b = f.array.getLsbD b := by
  unfold fuseEffect at h
  split at h
  · rw [h]
  · exact absurd rfl (hi _ _)
  · rcases h with rfl | rfl
    · rfl
    · exact tallyProgram_outside f.array hb

theorem fuseEffect_loaded {i : Instr} {f g : Fus} (h : fuseEffect i f g) (hi : ∀ dt st, i ≠ .powerOnReset dt st) : g.loaded = f.loaded := by
  unfold fuseEffect at h
  split at h
  · exact absurd rfl (hi _ _)
  · rw [h]
  · rcases h with rfl | rfl <;> rfl

end Sys2Proof.Machine

open Sys2Proof Sys2Proof.Machine

/-- Settles O60, by what a step does to the fuses (`step_fuseEffect`): each of the four effects keeps what is blown, only the list of
FUSE_PROGRAM reaches outside the tally, and only POWER_ON_RESET loads. -/
theorem fusesStayBlownAndLoadAtPowerOn : Obligations.FusesStayBlownAndLoadAtPowerOn := by
  unfold Obligations.FusesStayBlownAndLoadAtPowerOn
  intro s t h
  rcases step_fuseEffect h with ⟨hp, hf⟩ | ⟨i, rest, hp, hi⟩
  · rw [hf, hp]
    exact ⟨fun _ hb => hb, fun _ _ _ => rfl, fun _ => rfl, fun _ _ hh => by cases hh⟩
  · simp only [hp, List.head?_cons, ne_eq, Option.some.injEq]
    refine ⟨fun b => fuseEffect_kept hi, fun hn b => fuseEffect_outside hi hn, fuseEffect_loaded hi, ?_⟩
    rintro dt st rfl
    rw [show t.fus = _ from hi]
end

section
/-! Power-on reset and power failure (R17, R383, R403, R404, R432). -/

namespace Sys2Proof.Machine

/-- Power-on reset changes the reset state only where flash, fuses, straps, host memory and the queue hold on. -/
theorem powerOn_changes (st : Straps) (s : State) :
    changesOnly [.hmem, .flash, .host, .anl, .hb, .fus, .gen, .pending] State.reset (powerOn st s) := by
  intro p hp
  cases p <;> simp at hp
  case dev => exact ⟨rfl, rfl, rfl, rfl⟩
  all_goals exact rfl

theorem execPowerFail_changes (dt : Nat) (s : State) :
    changesOnly (withReports [.gen, .pwr]) s
      { arrive dt s with gen := { s.gen with pgood := false }, pwr := { s.pwr with powered := false } } :=
  (changesOnly_set_pwr (x := { arrive dt s with gen := { s.gen with pgood := false } }) (by decide)).2
    ((changesOnly_set_gen (by decide)).2 (changesOnly_mono (arrive_changes dt s) (by decide)))

end Sys2Proof.Machine

open Sys2Proof Sys2Proof.Machine

/-- Settles O3: both rows by their definitions, and what they leave alone part by part. -/
theorem powerFailsAndReturns : Obligations.PowerFailsAndReturns := by
  unfold Obligations.PowerFailsAndReturns
  refine ⟨fun dt st s => ⟨_, rfl, ?_⟩, fun dt s => ⟨_, rfl, rfl, rfl, rfl, execPowerFail_changes dt s⟩⟩
  exact ⟨rfl, rfl, rfl, rfl, rfl, rfl, rfl, rfl, rfl, rfl, rfl, rfl, rfl, powerOn_changes st (arrive dt s)⟩
end

section
/-! The count of each air tick (R8). -/

namespace Sys2Proof.Machine

/-- Within a grid that begins with a slot, the tick of a symbol lies its length behind (R8). -/
theorem tickT_succ {s : State} {k : Nat} (hk : s.tb.gridK ≤ k) (hg : s.tb.gridK % 14 = 0) : tickT s (k + 1) = tickT s k + symLen k := by
  have place : (k + 1 - s.tb.gridK) = (k - s.tb.gridK) + 1 := by omega
  have symbol : k % 14 = (k - s.tb.gridK) % 14 := by omega
  unfold tickT symLen symOff
  rw [place, symbol]
  split_ifs <;> omega

/-- Slots follow one another at 245,760 counts (R8). -/
theorem tickT_slot {s : State} {k : Nat} (hk : s.tb.gridK ≤ k) : tickT s (k + 14) = tickT s k + 245760 := by
  have place : (k + 14 - s.tb.gridK) = (k - s.tb.gridK) + 14 := by omega
  unfold tickT
  rw [place, Nat.add_mod_right, Nat.add_div_right _ (by decide)]
  omega

end Sys2Proof.Machine
end

section
/-! An air tick without commands (R7, R8, R256, R259, R260): what the symbol's paths do, and what every unit after them keeps. -/

namespace Sys2Proof.Machine

theorem vget_vall {α : Type} {n : Nat} (v : Vector α n) (f : Nat → α → α) {i : Nat} (h : i < n) (d : α) :
    vget (vall v f) i d = f i (vget v i d) := by
  simp [vget, vall, h]

/-! ### What the units keep -/

/-- What an air tick sets once and its units leave alone: the count, the next symbol, the tick error, the void interval; and that the
reference is not lost. -/
def tickClock (s : State) : Nat × Nat × Int × Nat × Bool := (s.tb.now, s.tb.airNext, s.tb.tickErr, s.tb.voidCounts, s.syn.refLost)

theorem tickClock_of_changes {l : List Part} {s t : State} (h : changesOnly l s t)
    (hl : (l.contains Part.tb || l.contains Part.syn) = false) : tickClock t = tickClock s := by
  obtain ⟨htb, hsyn⟩ : Part.tb ∉ l ∧ Part.syn ∉ l := by simpa using hl
  rw [tickClock, tickClock, show t.tb = s.tb from h .tb htb, show t.syn = s.syn from h .syn hsyn]

/-- After the paths have taken up a symbol: the clock and the lock check stand, a path may only stop sending, and PAEN goes with it. -/
structure TickKept (s t : State) : Prop where
  clock : tickClock t = tickClock s
  lockOk : t.tx.lockOk = s.tx.lockOk
  falls : ∀ p, (txOf t p).radiating = true → (txOf s p).radiating = true
  lines : ∀ p, (txOf s p).paen = (txOf s p).radiating → (txOf t p).paen = (txOf t p).radiating

theorem TickKept.of_path {s t : State} (hc : tickClock t = tickClock s) (hl : t.tx.lockOk = s.tx.lockOk) (hp : t.tx.path = s.tx.path) :
    TickKept s t := by
  have hx : ∀ p, txOf t p = txOf s p := fun p => by rw [txOf, txOf, hp]
  exact ⟨hc, hl, fun p h => by rwa [hx] at h, fun p h => by rwa [hx]⟩

theorem TickKept.refl (s : State) : TickKept s s := .of_path rfl rfl rfl

theorem TickKept.trans {s t u : State} (h : TickKept s t) (k : TickKept t u) : TickKept s u :=
  ⟨k.clock.trans h.clock, k.lockOk.trans h.lockOk, fun p hp => h.falls p (k.falls p hp), fun p hp => k.lines p (h.lines p hp)⟩

theorem TickKept.of_changes {l : List Part} {s t : State} (h : changesOnly l s t)
    (hl : (l.contains Part.tb || l.contains Part.syn || l.contains Part.tx) = false) : TickKept s t := by
  obtain ⟨hc, htx⟩ : (l.contains Part.tb || l.contains Part.syn) = false ∧ Part.tx ∉ l := by simpa using hl
  have tx : t.tx = s.tx := h .tx htx
  exact .of_path (tickClock_of_changes h hc) (by rw [tx]) (by rw [tx])

theorem TickKept.ite {c : Prop} [Decidable c] {s t u : State} (ht : TickKept s t) (hu : TickKept s u) : TickKept s (if c then t else u) := by
  split
  · exact ht
  · exact hu

theorem TickKept.foldl {α : Type} {f : State → α → State} (h : ∀ s x, TickKept s (f s x)) :
    ∀ (l : List α) (s : State), TickKept s (l.foldl f s)
  | [], s => .refl s
  | x :: l, s => (h s x).trans (TickKept.foldl h l (f s x))

theorem TickKept.set_syn {s : State} (x : Syn) (h : x.refLost = s.syn.refLost) : TickKept s { s with syn := x } :=
  .of_path (by simp only [tickClock, h]) rfl rfl

theorem TickKept.set_tb {s : State} (x : Tb) (hn : x.now = s.tb.now) (ha : x.airNext = s.tb.airNext) (he : x.tickErr = s.tb.tickErr)
    (hv : x.voidCounts = s.tb.voidCounts) : TickKept s { s with tb := x } :=
  .of_path (by simp only [tickClock, hn, ha, he, hv]) rfl rfl

theorem TickKept.set_pwr (s : State) (x : PwrS) : TickKept s { s with pwr := x } := .of_path rfl rfl rfl

theorem TickKept.set_hld (s : State) (x : Hld) : TickKept s { s with hld := x } := .of_path rfl rfl rfl

theorem TickKept.set_anl (s : State) (x : Anl) : TickKept s { s with anl := x } := .of_path rfl rfl rfl

theorem TickKept.set_run (s : State) (x : Run) : TickKept s { s with run := x } := .of_path rfl rfl rfl

theorem TickKept.set_rx (s : State) (x : Rx) : TickKept s { s with rx := x } := .of_path rfl rfl rfl

theorem modSynth_kept (s : State) (n : Nat) (f : Synth → Synth) : TickKept s (modSynth s n f) := .set_syn _ rfl

theorem modDpd_kept (s : State) (p : Nat) (f : Dpd → Dpd) : TickKept s (modDpd s p f) := .of_path rfl rfl rfl

/-! ### Domains that leave -/

theorem txOf_linesIdle (s : State) (chosen : Nat → Bool) {p : Nat} (hp : p < 64) :
    txOf (linesIdle s chosen) p = if chosen p then { pathCut s (txOf s p) with inRun := false } else txOf s p := by
  simp only [txOf, linesIdle, vget_vall _ _ hp]

/-- Lines at rest: nothing sent and PAEN inactive on the chosen paths (R260). -/
theorem linesIdle_kept (s : State) (chosen : Nat → Bool) : TickKept s (linesIdle s chosen) := by
  have path : ∀ p, txOf (linesIdle s chosen) p = txOf s p ∨
      (txOf (linesIdle s chosen) p).radiating = false ∧ (txOf (linesIdle s chosen) p).paen = false := fun p => by
    by_cases hp : p < 64
    · rw [txOf_linesIdle s chosen hp]
      split
      · exact .inr ⟨rfl, rfl⟩
      · exact .inl rfl
    · exact .inl (by simp only [txOf, vget, hp, dif_neg, not_false_iff])
  refine ⟨tickClock_of_changes (linesIdle_changes s chosen) rfl, by simp only [linesIdle], fun p h => ?_, fun p h => ?_⟩
  · obtain e | ⟨r, -⟩ := path p
    · rwa [e] at h
    · rw [r] at h
      cases h
  · obtain e | ⟨r, a⟩ := path p
    · rwa [e]
    · rw [r, a]

theorem synStop_kept (s : State) (n : Nat) : TickKept s (synStop s n) := modSynth_kept s n _

theorem tbStop_kept (s : State) : TickKept s (tbStop s) := .ite (.set_syn _ rfl) (.refl s)

theorem domLeave_kept (s : State) (d : Nat) : TickKept s (domLeave s d) := by
  unfold domLeave
  refine .ite ?_ (.ite ?_ (.ite ?_ (.of_changes (biasForce_changes s) rfl)))
  · extract_lets q s1 s2 s3
    have stopped : TickKept s s2 := (linesIdle_kept s _).trans (synStop_kept s1 q)
    have served : TickKept s s3 := stopped.trans (.ite (synStop_kept s2 4) (.refl s2))
    exact served.trans (.of_changes (biasForce_changes s3) rfl)
  · extract_lets s1
    have left : ∀ s l, TickKept s (modLane (laneLeave s l) l fun x => { x with attempt := none, retryAt := none, peer := false }) :=
      fun s l => .trans (.of_changes (laneLeave_changes s l) rfl) (.of_changes (modLane_changes _ l _) rfl)
    exact .trans (.of_changes (dropDirect_changes s _ _) rfl) (.trans (.foldl left _ s1) (.of_changes (synceUpdate_changes _) rfl))
  · extract_lets s1
    have dropped : TickKept s s1 := .trans (.of_changes (dropHeld_changes s _ _) rfl) (.of_changes (dropCtrl_changes _ _ _) rfl)
    exact dropped.trans (.of_changes (dropUplink_changes s1 _ _) rfl)

theorem entryStart_kept (s : State) (d : Nat) (t : DomState) : TickKept s (entryStart s d t) := by
  unfold entryStart
  extract_lets old s1 _ s2
  have stopped : TickKept s s1 := .ite (tbStop_kept s) (.refl s)
  have moved : TickKept s s2 := stopped.trans (.set_pwr s1 _)
  exact .ite (moved.trans (domLeave_kept s2 d)) moved

theorem entryNext_kept (atTick : Bool) (s : State) : TickKept s (entryNext atTick s) := by
  unfold entryNext
  split
  · exact .refl s
  · refine .ite (.refl s) ?_
    split
    · exact .refl s
    · exact .ite (.refl s) (entryStart_kept s _ _)

theorem domBegin_kept (s : State) (c : DomCmd) : TickKept s (domBegin s c) := by
  unfold domBegin
  extract_lets names _
  exact ((TickKept.set_pwr s _).trans (entryNext_kept false _)).trans (.of_changes (domFinish_changes _) rfl)

theorem darkApply_kept (s : State) : TickKept s (darkApply s) := by
  unfold darkApply
  extract_lets t names r _ s1 s2
  have cleared : TickKept s s1 := .set_hld s _
  have posts : ∀ (s : State) (x : Nat × Nat), TickKept s (postDom s x.1 x.2) := fun s x => .of_changes (postDom_changes s x.1 x.2) rfl
  have posted : TickKept s s2 := cleared.trans (.foldl posts r.2 s1)
  exact .ite posted (posted.trans (domBegin_kept s2 _))

theorem darkSymbol_kept (k : Nat) (s : State) : TickKept s (darkSymbol k s) := by
  unfold darkSymbol
  exact .ite (.ite (darkApply_kept s) (.set_hld s _)) (.refl s)

end Sys2Proof.Machine
end

section
/-! What Anneal, the flask and the timebase keep of an air tick: none starts a path, none moves the clock. -/

namespace Sys2Proof.Machine

/-! ### Anneal -/

theorem anlTake_kept (s : State) (a : AnlApply) : TickKept s (anlTake s a) := by
  unfold anlTake
  extract_lets s1 s2 s3 _ s4 s5
  have corr : TickKept s s1 := .foldl (fun s x => .of_changes (modCorr_changes s _ _) rfl) a.set s
  have trimmed : TickKept s s2 := corr.trans (.foldl (fun s x => modSynth_kept s _ _) a.trims s1)
  have irr : TickKept s s3 := trimmed.trans (.foldl (fun s x => .of_changes (modRx_changes s _ _) rfl) a.irr s2)
  have delayed : TickKept s s4 := irr.trans (.set_rx s3 _)
  have faded : TickKept s s5 := delayed.trans (.ite (.refl s4) (.foldl (fun s p => .of_changes (fadeStart_changes s p) rfl) _ s4))
  exact faded.trans (.foldl (fun s p => modDpd_kept s p _) _ s5)

theorem anlSlot_kept (k : Nat) (s : State) : TickKept s (anlSlot k s) := by
  unfold anlSlot
  extract_lets now rest _ s1 ended s2 late
  have taken : TickKept s s1 := .trans (.set_anl s _) (.foldl anlTake_kept now _)
  have ends : TickKept s s2 := taken.trans (.foldl (fun s a => .ite ?_ (.foldl (fun s f => ?_) a.refs s)) ended s1)
  · refine .ite (ends.trans (.of_changes (anlFail_changes s2 11) rfl)) (ends.trans (.foldl (fun s a => ?_) late s2))
    exact (TickKept.set_anl s _).trans (.of_changes (endRefs_changes _ a.refs 2 73) rfl)
  · split
    · exact .ite (.refl s) (.of_changes (anlDone_changes _ _ _ _ _) rfl)
    · exact .refl s
  · split
    · exact .refl s
    · exact .of_changes (cmdDone_changes s _) rfl

theorem slotRest_kept (k : Nat) (late : Bool) (pre s : State) : TickKept s (slotRest k late pre s) := by
  unfold slotRest
  exact (((anlSlot_kept k s).trans (.of_changes (flaskSlot_changes k late pre _) rfl)).trans (.of_changes (layerSetDone_changes k _) rfl)).trans
    (.of_changes (resumeSlot_changes k _) rfl)

/-! ### The flask -/

theorem flkSuspend_kept (s : State) : TickKept s (flkSuspend s) := by
  unfold flkSuspend
  extract_lets _ s1 _ s2 s3
  have run : TickKept s s1 := .set_run s _
  have still : TickKept s s2 := run.trans (.set_tb (s := s1) _ rfl rfl rfl rfl)
  have dropped : TickKept s s3 := still.trans (.foldl (fun s c => .ite ?_ (.refl s)) _ s2)
  · exact dropped.trans (.of_changes (flkEvent_changes s3 _ _ _) rfl)
  · exact ((TickKept.of_changes (dropHeld_changes s _ _) rfl).trans (.of_changes (dropCtrl_changes _ _ _) rfl)).trans
      (.of_changes (dropUplink_changes _ _ _) rfl)

theorem suspendSymbol_kept (s : State) : TickKept s (suspendSymbol s) := by
  unfold suspendSymbol
  exact .ite (.refl s) (.ite (flkSuspend_kept s) (.ite (.set_run s _) (.refl s)))

theorem flaskSymbol_kept (s : State) : TickKept s (flaskSymbol s) := by
  unfold flaskSymbol
  extract_lets s1 s2 s3
  have started : TickKept s s1 := .ite (.of_changes (flkStart_changes s) rfl) (.refl s)
  have linked : TickKept s s2 := (started.trans (.of_changes (linkSymbol_changes s1 0) rfl)).trans (.of_changes (linkSymbol_changes _ 1) rfl)
  have sus : TickKept s s3 := (linked.trans (.ite (.of_changes (chainUpdate_changes s2) rfl) (.refl s2))).trans (suspendSymbol_kept _)
  exact (((sus.trans (.of_changes (resSymbol_changes s3) rfl)).trans (.of_changes (anlAskSymbol_changes _) rfl)).trans
    (.of_changes (backSymbol_changes _) rfl)).trans (.of_changes (beats_changes _) rfl)

/-! ### The timebase and the end of a tick -/

theorem tbSymbol_kept (k : Nat) (s : State) : TickKept s (tbSymbol k s) := by
  unfold tbSymbol
  extract_lets t away goal f left _
  have trimmed : TickKept s { s with syn := { s.syn with ftrim := f } } := .set_syn _ rfl
  exact trimmed.trans (.set_tb (s := { s with syn := { s.syn with ftrim := f } }) _ rfl rfl rfl rfl)

/-- While the reference is not lost, the choice of a source is the synthesisers' own. -/
theorem refSelect_kept {s : State} (h : s.syn.refLost = false) : TickKept s (refSelect s) := by
  unfold refSelect
  extract_lets b _ old s1
  have taken : TickKept s s1 := .set_syn _ rfl
  refine .ite (.ite (.set_syn _ rfl) (.set_syn _ rfl)) ?_
  rw [if_neg (by simp [h])]
  exact .ite (.refl s) (.ite (.set_syn _ rfl) (.ite taken (taken.trans (.of_changes (post_changes _ _ _ _ _) rfl))))

theorem symbolSends_kept (k : Nat) {s : State} (h : s.syn.refLost = false) : TickKept s (symbolSends k s) := by
  unfold symbolSends
  have sent : TickKept s (tbSymbol k (sendUplink (creditRecords k s))) :=
    ((TickKept.of_changes (creditRecords_changes k s) rfl).trans (.of_changes (sendUplink_changes _) rfl)).trans (tbSymbol_kept k _)
  exact sent.trans (refSelect_kept ((congrArg (·.2.2.2.2) sent.clock).trans h))

theorem airAfter_kept (pre s : State) : TickKept s (airAfter pre s) := by
  unfold airAfter
  exact ((TickKept.of_changes (anlWatch_changes pre s) rfl).trans (entryNext_kept true _)).trans (.of_changes (hkCheck_changes pre _) rfl)

end Sys2Proof.Machine
end

section
/-! The transmit paths at a symbol tick (R232, R256, R259, R260): what txSymbol makes of them, and that no later unit of the tick starts a
path. -/

namespace Sys2Proof.Machine

/-- The pattern alone says whether a symbol is downlink: the frame numbering of the grid and the slots in the air (R303). -/
theorem isDl_congr {s t : State} (hair : t.air = s.air) (hk : t.tb.gridK = s.tb.gridK) (hf : t.tb.gridFrame = s.tb.gridFrame) (k : Nat) :
    isDl t k = isDl s k := by
  simp only [isDl, slotCode, frameOf, hair, hk, hf]

/-- In a symbol that is downlink or not by `dl`, a path sends only in a downlink symbol and on a quad that passed the lock check, and PAEN
is active exactly where a path sends. -/
structure PathsDriven (dl : Bool) (s : State) : Prop where
  pattern : ∀ p < 64, (txOf s p).radiating = true → dl = true
  lock : ∀ p < 64, (txOf s p).radiating = true → vget s.tx.lockOk (p / 16) false = true
  lines : ∀ p < 64, (txOf s p).paen = (txOf s p).radiating

theorem PathsDriven.kept {dl : Bool} {s t : State} (h : PathsDriven dl s) (k : TickKept s t) : PathsDriven dl t where
  pattern p hp hr := h.pattern p hp (k.falls p hr)
  lock p hp hr := k.lockOk ▸ h.lock p hp (k.falls p hr)
  lines p hp := k.lines p (h.lines p hp)

/-- The limiter's count and level leave what a path sends and its lines. -/
theorem limiterSymbol_kept (k : Nat) (s : State) : TickKept s (limiterSymbol k s) := by
  have path : ∀ p, (txOf (limiterSymbol k s) p).radiating = (txOf s p).radiating ∧ (txOf (limiterSymbol k s) p).paen = (txOf s p).paen := by
    intro p
    by_cases hp : p < 64
    · simp only [txOf, limiterSymbol, vget_vall _ _ hp]
      split <;> exact ⟨rfl, rfl⟩
    · simp only [txOf, vget, hp, dif_neg, not_false_iff, and_self]
  refine ⟨tickClock_of_changes (limiterSymbol_changes k s) rfl, by simp only [limiterSymbol], fun p h => ?_, fun p h => ?_⟩
  · rwa [(path p).1] at h
  · rwa [(path p).1, (path p).2]

/-- Each path takes up the symbol by its runs, the pattern and the lock check (R232, R256). -/
theorem txSymbol_driven (k : Nat) (s : State) : PathsDriven (isDl s k) (txSymbol k s) := by
  unfold txSymbol
  extract_lets s1 path edge _ _ s2
  have pattern : isDl s1 k = isDl s k := by
    have checked := lockCheckAt_changes k s
    simp only [s1]
    split
    · rfl
    · exact isDl_congr (checked .air (by decide)) (congrArg Tb.gridK (checked .tb (by decide)))
        (congrArg Tb.gridFrame (checked .tb (by decide))) k
  have taken : ∀ p < 64, txOf s2 p = txPathSymbol s1 k p (txOf s1 p) := fun p hp => by
    simp only [s2, path, txOf, vget_vall _ _ hp]
  refine PathsDriven.kept ⟨fun p hp h => ?_, fun p hp h => ?_, fun p hp => ?_⟩ (limiterSymbol_kept k s2)
  · rw [taken p hp] at h
    simp only [txPathSymbol, Bool.and_eq_true] at h
    rw [← pattern]
    exact h.1.1.1.2
  · rw [taken p hp] at h
    simp only [txPathSymbol, Bool.and_eq_true] at h
    exact h.1.1.2
  · rw [taken p hp]
    rfl

theorem dpdSymbol_kept (k : Nat) (s : State) : TickKept s (dpdSymbol k s) :=
  .of_path (tickClock_of_changes (dpdSymbol_changes k s) rfl) (by simp only [dpdSymbol]) (by simp only [dpdSymbol])

/-- The units behind the paths keep the symbol they took up. -/
theorem symbolUnits_kept (k : Nat) (pre s : State) : TickKept (txSymbol k (temperObserve pre s)) (symbolUnits k pre s) := by
  unfold symbolUnits
  extract_lets s1 s2
  have received : TickKept (txSymbol k (temperObserve pre s)) s1 := .of_changes (rxSymbol_changes pre k _) rfl
  have predistorted : TickKept s1 (dpdSymbol k s1) := dpdSymbol_kept k s1
  have biased : TickKept s1 (biasSymbol k (dpdSymbol k s1)) := predistorted.trans (.of_changes (biasSymbol_changes k _) rfl)
  have observed : TickKept s1 s2 :=
    (biased.trans (.of_changes (orxSymbol_changes k _) rfl)).trans (.of_changes (lanesSymbol_changes _) rfl)
  have dealt : TickKept s1 (dealUnits (commitSymbol k s2) k) :=
    (observed.trans (.of_changes (commitSymbol_changes k s2) rfl)).trans (.of_changes (dealUnits_changes _ k) rfl)
  exact received.trans ((dealt.trans (darkSymbol_kept k _)).trans (flaskSymbol_kept _))

theorem symbolUnits_clock (k : Nat) (pre s : State) : tickClock (symbolUnits k pre s) = tickClock s :=
  (symbolUnits_kept k pre s).clock.trans
    ((tickClock_of_changes (txSymbol_changes k _) rfl).trans (tickClock_of_changes (temperObserve_changes pre s) rfl))

/-- What every unit of a tick does after the paths keeps what they took up. -/
theorem airSymbolPart_kept (k : Nat) (late : Bool) (pre s : State) :
    TickKept (txSymbol k (temperObserve pre s)) (airSymbolPart k late pre s) := by
  unfold airSymbolPart
  extract_lets s1 s2
  have units : TickKept (txSymbol k (temperObserve pre s)) s1 := symbolUnits_kept k pre s
  have slot : TickKept (txSymbol k (temperObserve pre s)) s2 := .ite (units.trans (slotRest_kept k late pre s1)) units
  exact .ite (slot.trans (.of_changes (surveyFrameTick_changes s2) rfl)) slot

theorem airSymbolPart_clock (k : Nat) (late : Bool) (pre s : State) : tickClock (airSymbolPart k late pre s) = tickClock s :=
  (airSymbolPart_kept k late pre s).clock.trans
    ((tickClock_of_changes (txSymbol_changes k _) rfl).trans (tickClock_of_changes (temperObserve_changes pre s) rfl))

/-- A tick that opens no void interval, at a device whose reference is not lost: the paths take up the symbol, and the rest of the tick
keeps it. -/
theorem airInstant_kept (k : Nat) (seen : TickSeen) (pre : State) {s : State} (hs : airSlotPart k (airCommands k seen pre) = s)
    (hvoid : s.tb.voidCounts = 0) (href : s.syn.refLost = false) :
    TickKept (txSymbol k (temperObserve pre s)) (airInstant k seen pre) ∧ tickClock (airInstant k seen pre) = tickClock s := by
  have ref : (airSymbolPart k seen.late pre s).syn.refLost = false :=
    (congrArg (·.2.2.2.2) (airSymbolPart_clock k seen.late pre s)).trans href
  have sent := (symbolSends_kept k ref).trans (airAfter_kept pre _)
  rw [airInstant_eq, hs, if_neg (by simp [hvoid])]
  exact ⟨(airSymbolPart_kept k seen.late pre s).trans sent, sent.clock.trans (airSymbolPart_clock k seen.late pre s)⟩

end Sys2Proof.Machine
end

section
/-! An air tick from its arrival to its end, where no command is bound and no void interval opens (R7, R8, R30, R306). -/

namespace Sys2Proof.Machine

/-! ### The arrival of a tick -/

theorem arriveAt_now (due : Nat) (s : State) : (arriveAt due s).tb.now = max s.tb.now due := by
  simp only [arriveAt, arrive, wait]
  omega

theorem arriveAt_clock (due : Nat) (s : State) :
    tickClock (arriveAt due s) = (max s.tb.now due, s.tb.airNext, s.tb.tickErr, s.tb.voidCounts, s.syn.refLost) := by
  rw [← arriveAt_now]
  simp only [tickClock, arriveAt, arrive, wait]

theorem arriveAt_noneBound {due : Nat} {s : State} (h : noneBound s) : noneBound (arriveAt due s) := by
  simpa only [noneBound, arriveAt, arrive, wait] using h

theorem isDl_arriveAt (due : Nat) (s : State) (k : Nat) : isDl (arriveAt due s) k = isDl s k :=
  isDl_congr (arrive_air _ s) (by simp only [arrive, wait]) (by simp only [arrive, wait]) k

/-- The timebase runs on a reference that is not lost (R293, R305). -/
theorem refLost_of_tbOn {s : State} (h : tbOn s = true) : s.syn.refLost = false := by
  simp only [tbOn, clkOn, Bool.and_eq_true, Bool.not_eq_true'] at h
  exact h.1.2

/-- With the timebase running, a tick of the kind asked for comes at its count, or now if that has passed (R7, log 1). -/
theorem airTick_of_tbOn {every : Nat} {s : State} (h : tbOn s = true) (hk : s.tb.airNext % every = 0) (seen : TickSeen) :
    airTick every seen s = airInstant s.tb.airNext seen (arriveAt (tickT s s.tb.airNext) s) :=
  if_pos ⟨h, hk⟩

/-! ### Before the commands -/

/-- The tick error is the timebase's own (R306). -/
theorem tickErrNow_congr {s t : State} (h : t.tb = s.tb) : tickErrNow t = tickErrNow s := by
  unfold tickErrNow gridBase
  rw [h]

/-- The timebase at a tick, before the commands: the next symbol is numbered, and at a frame tick the error is recorded (R306). -/
theorem airBefore_tb (k : Nat) (s : State) :
    (airBefore k s).tb = if k % 280 = 0 then
        { s.tb with airNext := k + 1, tickErr := tickErrNow { s with tb := { s.tb with airNext := k + 1 } }, voidCounts := 0 }
      else { s.tb with airNext := k + 1 } := by
  unfold airBefore
  extract_lets _ _ s1 _ s2 s3
  have held : s2.tb = s1.tb := by
    simp only [s2]
    split <;> rfl
  have framed : s3.tb = if k % 280 = 0 then { s1.tb with tickErr := tickErrNow s1, voidCounts := 0 } else s1.tb := by
    simp only [s3, tbFrameBefore]
    split
    · rw [tickErrNow_congr held, held]
    · exact held
  have slot : (if k % 14 = 0 then txSlotBefore s3 else s3).tb = s3.tb := by
    split
    · exact txSlotBefore_changes s3 .tb (by decide)
    · rfl
  have err : tickErrNow s1 = tickErrNow { s with tb := { s.tb with airNext := k + 1 } } := tickErrNow_congr rfl
  rw [slot, framed, err]

theorem airBefore_noFrame_clock {k : Nat} {s : State} (h : k % 280 ≠ 0) :
    tickClock (airBefore k s) = (s.tb.now, k + 1, s.tb.tickErr, s.tb.voidCounts, s.syn.refLost) := by
  rw [tickClock, airBefore_tb, if_neg h, airBefore_changes k s .syn (by decide)]

theorem airBefore_frame_clock {k : Nat} {s : State} (h : k % 280 = 0) :
    tickClock (airBefore k s) =
      (s.tb.now, k + 1, tickErrNow { s with tb := { s.tb with airNext := k + 1 } }, 0, s.syn.refLost) := by
  rw [tickClock, airBefore_tb, if_pos h, airBefore_changes k s .syn (by decide)]

theorem isDl_airBefore (k : Nat) (s : State) (n : Nat) : isDl (airBefore k s) n = isDl s n := by
  refine isDl_congr (airBefore_changes k s .air (by decide)) ?_ ?_ n <;> rw [airBefore_tb] <;> split <;> rfl

/-- With no command bound nothing but the saturation counts follows. -/
theorem airCommands_of_noneBound {s : State} (h : noneBound s) (k : Nat) (seen : TickSeen) :
    airCommands k seen s = rxSatCount (airBefore k s) seen.rxSat :=
  tickCommands_of_noneBound h _ k _

theorem airCommands_clock {s : State} (h : noneBound s) (k : Nat) (seen : TickSeen) :
    tickClock (airCommands k seen s) = tickClock (airBefore k s) := by
  rw [airCommands_of_noneBound h]
  exact tickClock_of_changes (rxSatCount_changes _ _) rfl

/-! ### A tick inside a slot, and the slot tick -/

theorem airSlotPart_inside {k : Nat} (h : k % 14 ≠ 0) (s : State) : airSlotPart k s = s := by
  have frame : k % 280 ≠ 0 := by omega
  simp [airSlotPart, h, frame]

theorem airSlotPart_slot {k : Nat} (h : k % 14 = 0) (hf : k % 280 ≠ 0) (s : State) : airSlotPart k s = slotUnits s := by
  simp [airSlotPart, h, hf]

theorem airSlotPart_noFrame_clock {k : Nat} (hf : k % 280 ≠ 0) (s : State) : tickClock (airSlotPart k s) = tickClock s := by
  by_cases h : k % 14 = 0
  · rw [airSlotPart_slot h hf]
    exact tickClock_of_changes (slotUnits_changes s) rfl
  · rw [airSlotPart_inside h]

theorem airSlotPart_airCommands_clock {k : Nat} {pre : State} (hf : k % 280 ≠ 0) (hnone : noneBound pre) (seen : TickSeen) :
    tickClock (airSlotPart k (airCommands k seen pre)) = (pre.tb.now, k + 1, pre.tb.tickErr, pre.tb.voidCounts, pre.syn.refLost) :=
  (airSlotPart_noFrame_clock hf _).trans ((airCommands_clock hnone k seen).trans (airBefore_noFrame_clock hf))

/-- A tick that is no frame tick, with no step open and no command bound, counts one symbol on and keeps the rest of the clock. -/
theorem airInstant_noFrame {k : Nat} {pre : State} (hf : k % 280 ≠ 0) (hvoid : pre.tb.voidCounts = 0) (hnone : noneBound pre)
    (href : pre.syn.refLost = false) (seen : TickSeen) :
    TickKept (txSymbol k (temperObserve pre (airSlotPart k (airCommands k seen pre)))) (airInstant k seen pre) ∧
      tickClock (airInstant k seen pre) = (pre.tb.now, k + 1, pre.tb.tickErr, pre.tb.voidCounts, pre.syn.refLost) := by
  have clock := airSlotPart_airCommands_clock hf hnone seen
  have kept := airInstant_kept k seen pre rfl ((congrArg (·.2.2.2.1) clock).trans hvoid) ((congrArg (·.2.2.2.2) clock).trans href)
  exact ⟨kept.1, kept.2.trans clock⟩

/-- The paths of a tick inside a slot follow the pattern and the lock check. -/
theorem airInstant_driven {k : Nat} {pre : State} (hk : k % 14 ≠ 0) (hvoid : pre.tb.voidCounts = 0) (hnone : noneBound pre)
    (href : pre.syn.refLost = false) (seen : TickSeen) : PathsDriven (isDl pre k) (airInstant k seen pre) := by
  have before : isDl (temperObserve pre (airSlotPart k (airCommands k seen pre))) k = isDl pre k := by
    rw [airSlotPart_inside hk, airCommands_of_noneBound hnone, ← isDl_airBefore k pre k]
    have h : changesOnly [.rx, .tx] (airBefore k pre) (temperObserve pre (rxSatCount (airBefore k pre) seen.rxSat)) :=
      changesOnly_trans (changesOnly_mono (rxSatCount_changes _ _) (by decide)) (changesOnly_mono (temperObserve_changes pre _) (by decide))
    exact isDl_congr (h .air (by decide)) (congrArg Tb.gridK (h .tb (by decide))) (congrArg Tb.gridFrame (h .tb (by decide))) k
  rw [← before]
  exact (txSymbol_driven k _).kept (airInstant_noFrame (by omega) hvoid hnone href seen).1

/-- With no command bound an air tick leaves the carriers and the pattern. -/
theorem airTick_air {every : Nat} {s : State} (h : noneBound s) (seen : TickSeen) : (airTick every seen s).air = s.air := by
  unfold airTick
  extract_lets k
  split
  · have commands : ∀ t, changesOnly airParts t (tickCommands (airKinds k) k (arriveAt (tickT s k) s) t) := fun t => by
      rw [tickCommands_of_noneBound (arriveAt_noneBound h)]
      exact changesOnly_refl _ t
    exact (airInstant_changes k seen _ commands (fun _ hp => hp) .air (by decide)).trans (arrive_air _ s)
  · exact arrive_air _ s

/-- The clock after a tick that is no frame tick: its count, the next symbol, and no step open. -/
theorem airTick_noFrame_clock {every : Nat} {s : State} (hon : tbOn s = true) (hk : s.tb.airNext % every = 0) (hf : s.tb.airNext % 280 ≠ 0)
    (hvoid : s.tb.voidCounts = 0) (hnone : noneBound s) (seen : TickSeen) :
    tickClock (airTick every seen s) = (max s.tb.now (tickT s s.tb.airNext), s.tb.airNext + 1, s.tb.tickErr, 0, false) := by
  have ref := refLost_of_tbOn hon
  have clock := arriveAt_clock (tickT s s.tb.airNext) s
  simp only [tickClock, Prod.mk.injEq] at clock
  obtain ⟨now, -, err, void, lost⟩ := clock
  rw [airTick_of_tbOn hon hk, (airInstant_noFrame hf (void.trans hvoid) (arriveAt_noneBound hnone) (lost.trans ref) seen).2, now, err, void,
    lost, hvoid, ref]

end Sys2Proof.Machine

open Sys2Proof Sys2Proof.Machine

/-- Settles O26: the paths take up the symbol by the pattern and the lock check, and every unit after them only lets paths fall. -/
theorem airSymbolTickDrivesPathsByPattern : Obligations.AirSymbolTickDrivesPathsByPattern := by
  unfold Obligations.AirSymbolTickDrivesPathsByPattern
  intro seen s hon hk hvoid hnone
  have clock := airTick_noFrame_clock (every := 1) hon (Nat.mod_one _) (by omega) hvoid hnone seen
  have driven : PathsDriven (isDl s s.tb.airNext) (airTick 1 seen s) := by
    have arrived := arriveAt_clock (tickT s s.tb.airNext) s
    rw [airTick_of_tbOn hon (Nat.mod_one _), ← isDl_arriveAt (tickT s s.tb.airNext) s]
    exact airInstant_driven hk ((congrArg (·.2.2.2.1) arrived).trans hvoid) (arriveAt_noneBound hnone)
      ((congrArg (·.2.2.2.2) arrived).trans (refLost_of_tbOn hon)) seen
  exact ⟨airTick 1 seen s, rfl, congrArg (·.2.1) clock, congrArg (·.1) clock, driven.pattern, driven.lock, driven.lines,
    airTick_fus 1 seen s, airTick_air hnone seen⟩

/-- Settles O28: the ticks of a grid by its symbol lengths, and the count of a symbol tick. -/
theorem symbolTicksFollowAtSymbolLengths : Obligations.SymbolTicksFollowAtSymbolLengths := by
  unfold Obligations.SymbolTicksFollowAtSymbolLengths
  refine ⟨fun s k hk hg => ⟨tickT_succ hk hg, tickT_slot hk⟩, by decide, fun seen s hon hk hvoid hnone hnow => ⟨_, rfl, ?_⟩⟩
  have clock := airTick_noFrame_clock (every := 1) hon (Nat.mod_one _) (by omega) hvoid hnone seen
  exact (congrArg (·.1) clock).trans (max_eq_right hnow)
end

section
/-! CRU_SCALE at an air tick (R175, R431): nothing but the slot that begins moves a value on to the next stage. -/

namespace Sys2Proof.Machine

/-- CRU_SCALE in its three stages, of uplink and downlink: in force, armed for the next slot, written. -/
def shifts (s : State) : (Vector Nat 2 × Vector Nat 2) × (Vector Nat 2 × Vector Nat 2) × (Vector Nat 2 × Vector Nat 2) :=
  ((s.cru.ulShiftNow, s.cru.dlShiftNow), (s.cru.ulShiftArm, s.cru.dlShiftArm), (s.cru.ulShift, s.cru.dlShift))

theorem shifts_of_changes {l : List Part} {s t : State} (h : changesOnly l s t) (hl : l.contains Part.cru = false) : shifts t = shifts s := by
  rw [shifts, shifts, show t.cru = s.cru from h .cru fun hm => by simp [hm] at hl]

theorem shifts_set_hld (s : State) (x : Hld) : shifts { s with hld := x } = shifts s := rfl

theorem shifts_ite {c : Prop} [Decidable c] {s t u : State} (ht : shifts t = shifts s) (hu : shifts u = shifts s) :
    shifts (if c then t else u) = shifts s := by
  split
  · exact ht
  · exact hu

theorem shifts_foldl {α : Type} {f : State → α → State} (h : ∀ s x, shifts (f s x) = shifts s) :
    ∀ (l : List α) (s : State), shifts (l.foldl f s) = shifts s
  | [], _ => rfl
  | x :: l, s => (shifts_foldl h l (f s x)).trans (h s x)

/-! ### The Crucible's own units -/

theorem dealUnits_shifts (s : State) (k : Nat) : shifts (dealUnits s k) = shifts s := by simp only [shifts, dealUnits]

theorem dealSlot_shifts (s : State) (n : Nat) : shifts (dealSlot s n) = shifts s := by
  rw [dealSlot, dealUnits_shifts]
  simp only [shifts]

theorem potsSlot_shifts (s : State) : shifts (potsSlot s) = shifts s := by simp only [shifts, potsSlot]

theorem pathsSlot_shifts (s : State) : shifts (pathsSlot s) = shifts s := by
  unfold pathsSlot
  extract_lets moved s1 mask _ s2
  have retired : shifts s1 = shifts s := shifts_foldl (fun s p =>
    shifts_ite (shifts_of_changes (modTx_changes s p _) rfl) (shifts_of_changes (pathBack_changes s p) rfl)) moved s
  have masked : shifts s2 = shifts s := retired
  refine shifts_ite masked ((shifts_of_changes (biasForce_changes _) rfl).trans (Eq.trans (shifts_foldl (fun s p => ?_) moved s2) masked))
  exact shifts_of_changes (post_changes s _ _ _ _) rfl

theorem commitSymbol_shifts (k : Nat) (s : State) : shifts (commitSymbol k s) = shifts s := by
  unfold commitSymbol
  split
  · rfl
  · refine shifts_ite rfl ?_
    extract_lets keep dram _ _ s1
    have moved : shifts s1 = shifts s := rfl
    exact (shifts_of_changes (endSeq_changes s1 _ _ _ _) rfl).trans moved

/-- A slot that begins takes the value armed a slot before and arms the one written (R175, R431). -/
theorem slotUnits_shifts (s : State) : shifts (slotUnits s) = ((shifts s).2.1, (shifts s).2.2, (shifts s).2.2) := by
  have before : shifts (potsSlot (booksSlot (lanesSlot (txSlotAfter (pathsSlot s))))) = shifts s :=
    (potsSlot_shifts _).trans ((shifts_of_changes (booksSlot_changes _) rfl).trans ((shifts_of_changes (lanesSlot_changes _) rfl).trans
      ((shifts_of_changes (txSlotAfter_changes _) rfl).trans (pathsSlot_shifts s))))
  rw [← before]
  simp only [slotUnits, shifts, shiftSlot]

/-! ### Changes of mode -/

theorem modeDiscard_shifts (s : State) (c k acceptAt : Nat) : shifts (modeDiscard s c k acceptAt) = shifts s := by
  simp only [shifts, modeDiscard]

theorem applySet_shifts (s : State) (c new k acceptAt : Nat) (host : Bool) : shifts (applySet s c new k acceptAt host) = shifts s := by
  unfold applySet
  extract_lets old s1 dark survey bfs flk _ s2 s3 s4 s5 s6 _ s7 s8 s9 _ s10 _ s11 _ s12 _ s13 s14 s15
  have discarded : shifts s1 = shifts s := shifts_ite (modeDiscard_shifts s c k acceptAt) rfl
  have noted : shifts s2 = shifts s := discarded
  have set : shifts s3 = shifts s := (shifts_of_changes (modModCc_changes s2 c _) rfl).trans noted
  have dropped : shifts s4 = shifts s :=
    (shifts_of_changes (dropCtrl_changes _ _ _) rfl).trans ((shifts_of_changes (dropHeld_changes s3 _ _) rfl).trans set)
  have books : shifts s5 = shifts s := by
    refine shifts_ite (Eq.trans (shifts_foldl (fun s b => ?_) _ s4) dropped)
      (shifts_ite ((shifts_of_changes (openBook_changes s3 c true 0 32) rfl).trans set) set)
    exact shifts_of_changes (closeBook_changes s c b.ctrl b.id) rfl
  have direct : shifts s6 = shifts s := shifts_ite ((shifts_of_changes (dropDirect_changes s5 _ _) rfl).trans books) books
  have survey : shifts s7 = shifts s := shifts_ite direct direct
  have tables : shifts s8 = shifts s := shifts_ite ((shifts_of_changes (tablesGone_changes s7 k _) rfl).trans survey)
    (shifts_ite ((shifts_of_changes (tablesGone_changes s7 k _) rfl).trans survey) survey)
  have armed : shifts s9 = shifts s := shifts_ite ((shifts_of_changes (hldArm_changes s8) rfl).trans tables) tables
  have idle : shifts s10 = shifts s := shifts_ite (Eq.trans (shifts_of_changes (sidleEnter_changes _) rfl) armed) armed
  have woken : shifts s11 = shifts s := Eq.trans (shifts_of_changes (sidleWake_changes _) rfl) idle
  have source : shifts s12 = shifts s := shifts_ite ((shifts_set_hld s11 _).trans woken) woken
  have disarmed : shifts s13 = shifts s := shifts_ite source ((shifts_set_hld s12 _).trans source)
  have resumed : shifts s14 = shifts s := shifts_ite ((shifts_of_changes (anlRelease_changes s13 7) rfl).trans disarmed) idle
  have ended : shifts s15 = shifts s := shifts_ite ((shifts_of_changes (anlFail_changes s14 10) rfl).trans resumed) resumed
  exact (shifts_of_changes (flaskOff_changes s15) rfl).trans ended

theorem reqApply_shifts (k : Nat) (pre s : State) (q : FlkReq) : shifts (reqApply k pre s q) = shifts s := by
  unfold reqApply
  split
  · refine (shifts_of_changes (reqRefuse_changes _ _ _) rfl).trans ((shifts_of_changes (setReqs_changes _ _) rfl).trans ?_)
    exact shifts_ite (shifts_of_changes (outward_changes s 5 _) rfl) rfl
  · extract_lets s1 s2
    have listed : shifts s1 = shifts s := shifts_of_changes (setReqs_changes s _) rfl
    have applied : shifts s2 = shifts s := Eq.trans (shifts_foldl (fun s c => (applySet_shifts _ _ _ _ _ _).trans
      (shifts_of_changes (hldAborts_changes s c _) rfl)) _ s1) listed
    exact (shifts_of_changes (serviceStart_changes _ _) rfl).trans ((shifts_of_changes (reqDone_changes s2 q k) rfl).trans applied)

theorem reqMet_shifts (k : Nat) (s : State) (q : FlkReq) : shifts (reqMet k s q) = shifts s := by
  unfold reqMet
  extract_lets want met s1
  have withdrawn : shifts s1 = shifts s :=
    (shifts_of_changes (reqWithdraw_changes _ q) rfl).trans (shifts_of_changes (setReqs_changes s _) rfl)
  refine shifts_ite ((shifts_of_changes (reqDone_changes _ q k) rfl).trans (Eq.trans (shifts_foldl (fun s c => ?_) _ s1) withdrawn)) rfl
  exact applySet_shifts s c _ k 0 true

theorem flaskApply_shifts (k : Nat) (pre s : State) : shifts (flaskApply k pre s) = shifts s := by
  unfold flaskApply
  extract_lets s1 s2
  have applied : shifts s1 = shifts s := shifts_foldl (reqApply_shifts k pre) _ s
  have met : shifts s2 = shifts s := (shifts_foldl (reqMet_shifts k) _ s1).trans applied
  exact (shifts_of_changes (flkPump_changes _) rfl).trans ((shifts_of_changes (joinSlot_changes k s2) rfl).trans met)

/-! ### The rest of an air tick -/

theorem tableSlot_shifts (n : Nat) (late : Bool) (s : State) : shifts (tableSlot n late s) = shifts s := by
  unfold tableSlot
  extract_lets s1 s2 _ s3 s4
  have dealt : shifts s1 = shifts s := (dealSlot_shifts _ n).trans (shifts_of_changes (tableForce_changes n late s) rfl)
  have published : shifts s2 = shifts s :=
    (shifts_of_changes (publishTable_changes _ _) rfl).trans ((shifts_of_changes (tableAgain_changes _ s1) rfl).trans dealt)
  have kept : shifts s3 = shifts s := published
  have computed : shifts s4 = shifts s := (shifts_of_changes (computeTables_changes _ s3) rfl).trans kept
  exact shifts_ite ((shifts_of_changes (sendTables_changes s4 _) rfl).trans computed) computed

theorem flaskSlot_shifts (k : Nat) (late : Bool) (pre s : State) : shifts (flaskSlot k late pre s) = shifts s := by
  unfold flaskSlot
  extract_lets n _ s1 s2
  have missed : shifts s1 = shifts s := rfl
  have granted : shifts s2 = shifts s := (shifts_of_changes (grantSlot_changes n _) rfl).trans
    ((tableSlot_shifts n late _).trans ((flaskApply_shifts k pre s1).trans missed))
  exact shifts_ite ((shifts_of_changes (outward_changes s2 2 _) rfl).trans granted) granted

theorem resumeSlot_shifts (k : Nat) (s : State) : shifts (resumeSlot k s) = shifts s := by
  unfold resumeSlot
  refine shifts_foldl (fun s c => ?_) _ s
  exact shifts_ite rfl (shifts_ite rfl (applySet_shifts s c _ k _ false))

theorem slotRest_shifts (k : Nat) (late : Bool) (pre s : State) : shifts (slotRest k late pre s) = shifts s := by
  unfold slotRest
  exact (resumeSlot_shifts k _).trans ((shifts_of_changes (layerSetDone_changes k _) rfl).trans
    ((flaskSlot_shifts k late pre _).trans (shifts_of_changes (anlSlot_changes k s) rfl)))

theorem symbolUnits_shifts (k : Nat) (pre s : State) : shifts (symbolUnits k pre s) = shifts s := by
  unfold symbolUnits
  extract_lets s1 s2
  have received : shifts s1 = shifts s := (shifts_of_changes (rxSymbol_changes pre k _) rfl).trans
    ((shifts_of_changes (txSymbol_changes k _) rfl).trans (shifts_of_changes (temperObserve_changes pre s) rfl))
  have observed : shifts s2 = shifts s := (shifts_of_changes (lanesSymbol_changes _) rfl).trans ((shifts_of_changes (orxSymbol_changes k _) rfl).trans
    ((shifts_of_changes (biasSymbol_changes k _) rfl).trans ((shifts_of_changes (dpdSymbol_changes k s1) rfl).trans received)))
  exact (shifts_of_changes (flaskSymbol_changes _) rfl).trans ((shifts_of_changes (darkSymbol_changes k _) rfl).trans
    ((dealUnits_shifts _ k).trans ((commitSymbol_shifts k s2).trans observed)))

theorem airSymbolPart_shifts (k : Nat) (late : Bool) (pre s : State) : shifts (airSymbolPart k late pre s) = shifts s := by
  unfold airSymbolPart
  extract_lets s1 s2
  have units : shifts s1 = shifts s := symbolUnits_shifts k pre s
  have slot : shifts s2 = shifts s := shifts_ite ((slotRest_shifts k late pre s1).trans units) units
  exact shifts_ite ((shifts_of_changes (surveyFrameTick_changes s2) rfl).trans slot) slot

/-- While the reference is not lost, the choice of a source leaves the Crucible. -/
theorem refSelect_shifts {s : State} (h : s.syn.refLost = false) : shifts (refSelect s) = shifts s := by
  unfold refSelect
  extract_lets b _ old s1
  have taken : shifts s1 = shifts s := rfl
  refine shifts_ite (shifts_ite rfl rfl) ?_
  rw [if_neg (by simp [h])]
  exact shifts_ite rfl (shifts_ite rfl (shifts_ite taken ((shifts_of_changes (post_changes s1 _ _ _ _) rfl).trans taken)))

theorem symbolSends_shifts (k : Nat) {s : State} (h : s.syn.refLost = false) : shifts (symbolSends k s) = shifts s := by
  unfold symbolSends
  have sent : shifts (tbSymbol k (sendUplink (creditRecords k s))) = shifts s := (shifts_of_changes (tbSymbol_changes k _) rfl).trans
    ((shifts_of_changes (sendUplink_changes _) rfl).trans (shifts_of_changes (creditRecords_changes k s) rfl))
  have kept : TickKept s (tbSymbol k (sendUplink (creditRecords k s))) :=
    ((TickKept.of_changes (creditRecords_changes k s) rfl).trans (.of_changes (sendUplink_changes _) rfl)).trans (tbSymbol_kept k _)
  exact (refSelect_shifts ((congrArg (·.2.2.2.2) kept.clock).trans h)).trans sent

theorem airAfter_shifts (pre s : State) : shifts (airAfter pre s) = shifts s :=
  shifts_of_changes (airAfter_changes pre s) rfl

end Sys2Proof.Machine
end

section
/-! The slot tick and the frame tick (R7, R175, R306, R431). -/

namespace Sys2Proof.Machine

/-- A slot tick with no step open and no command bound moves CRU_SCALE on by one slot. -/
theorem airInstant_slot_shifts {k : Nat} {pre : State} (hk : k % 14 = 0) (hf : k % 280 ≠ 0) (hvoid : pre.tb.voidCounts = 0)
    (hnone : noneBound pre) (href : pre.syn.refLost = false) (seen : TickSeen) :
    shifts (airInstant k seen pre) = ((shifts pre).2.1, (shifts pre).2.2, (shifts pre).2.2) := by
  have commands : shifts (airCommands k seen pre) = shifts pre := by
    rw [airCommands_of_noneBound hnone]
    exact (shifts_of_changes (rxSatCount_changes _ _) rfl).trans (shifts_of_changes (airBefore_changes k pre) rfl)
  have clock := airSlotPart_airCommands_clock hf hnone seen
  have void : (airSlotPart k (airCommands k seen pre)).tb.voidCounts = 0 := (congrArg (·.2.2.2.1) clock).trans hvoid
  have ref : (airSymbolPart k seen.late pre (airSlotPart k (airCommands k seen pre))).syn.refLost = false :=
    (congrArg (·.2.2.2.2) ((airSymbolPart_clock k seen.late pre _).trans clock)).trans href
  rw [airInstant_eq, if_neg (by simp [void]), airAfter_shifts, symbolSends_shifts k ref, airSymbolPart_shifts, airSlotPart_slot hk hf,
    slotUnits_shifts, commands]

/-- A device that takes its timing from no master has no alignment at a frame tick. -/
theorem flaskFrame_of_noMaster {s : State} (h : s.gen.master = true ∨ (s.run.state ≠ .aligning ∧ s.run.state ≠ .inService)) :
    flaskFrame s = s := if_pos h

/-- With no step of a command, no grid change and no step of its own due the timebase runs on through a frame tick. -/
theorem tbFrameAfter_of_noneDue {s : State} (hvoid : s.tb.voidCounts = 0) (hgrid : s.tb.gridPend = none) (hstep : s.tb.stepDue = none) :
    tbFrameAfter s = s := by
  unfold tbFrameAfter
  rw [if_neg (by simp [hvoid])]
  simp only [hgrid, hstep, Bool.false_eq_true, if_false]

theorem airSlotPart_frame_clock {k : Nat} (hk : k % 280 = 0) {s : State} (hvoid : s.tb.voidCounts = 0) (hgrid : s.tb.gridPend = none)
    (hstep : s.tb.stepDue = none) (hrun : s.gen.master = true ∨ (s.run.state ≠ .aligning ∧ s.run.state ≠ .inService)) :
    tickClock (airSlotPart k s) = tickClock s := by
  have slot : k % 14 = 0 := by omega
  have after : airSlotPart k s = slotUnits s := by
    simp only [airSlotPart, hk, slot, flaskFrame_of_noMaster hrun, tbFrameAfter_of_noneDue hvoid hgrid hstep, beq_self_eq_true, if_true]
  rw [after]
  exact tickClock_of_changes (slotUnits_changes s) rfl

/-- A frame tick with nothing due records the tick error and closes the void interval (R306, R311). -/
theorem airInstant_frame_clock {k : Nat} {pre : State} (hk : k % 280 = 0) (hgrid : pre.tb.gridPend = none) (hstep : pre.tb.stepDue = none)
    (hrun : pre.gen.master = true ∨ (pre.run.state ≠ .aligning ∧ pre.run.state ≠ .inService)) (hnone : noneBound pre)
    (href : pre.syn.refLost = false) (seen : TickSeen) :
    tickClock (airInstant k seen pre) =
      (pre.tb.now, k + 1, tickErrNow { pre with tb := { pre.tb with airNext := k + 1 } }, 0, pre.syn.refLost) := by
  have commands := (airCommands_clock hnone k seen).trans (airBefore_frame_clock hk)
  have kept : changesOnly [.tb, .mod, .tx, .rx, .thm] pre (airCommands k seen pre) := by
    rw [airCommands_of_noneBound hnone]
    exact changesOnly_trans (airBefore_changes k pre) (changesOnly_mono (rxSatCount_changes _ _) (by decide))
  have tb : (airCommands k seen pre).tb = (airBefore k pre).tb := by
    rw [airCommands_of_noneBound hnone]
    exact rxSatCount_changes _ _ .tb (by decide)
  have grid : (airCommands k seen pre).tb.gridPend = none := by rw [tb, airBefore_tb, if_pos hk, hgrid]
  have step : (airCommands k seen pre).tb.stepDue = none := by rw [tb, airBefore_tb, if_pos hk, hstep]
  have run : (airCommands k seen pre).gen.master = true ∨
      ((airCommands k seen pre).run.state ≠ .aligning ∧ (airCommands k seen pre).run.state ≠ .inService) := by
    rwa [show (airCommands k seen pre).gen = pre.gen from kept .gen (by decide),
      show (airCommands k seen pre).run = pre.run from kept .run (by decide)]
  have clock := (airSlotPart_frame_clock hk (congrArg (·.2.2.2.1) commands) grid step run).trans commands
  exact (airInstant_kept k seen pre rfl (congrArg (·.2.2.2.1) clock) ((congrArg (·.2.2.2.2) clock).trans href)).2.trans clock

end Sys2Proof.Machine

open Sys2Proof Sys2Proof.Machine

/-- Settles O27: a tick of a coarser kind is the symbol tick at its symbol, and the stages of a tick give its own effects. -/
theorem slotAndFrameTicksAreSymbolTicks : Obligations.SlotAndFrameTicksAreSymbolTicks := by
  unfold Obligations.SlotAndFrameTicksAreSymbolTicks
  have same : ∀ (every : Nat) (seen : TickSeen) (s : State), s.tb.airNext % every = 0 → airTick every seen s = airTick 1 seen s :=
    fun every seen s h => by simp only [airTick, h, Nat.mod_one]
  refine ⟨fun seen s h => congrArg Host.Outcome.next (same 14 seen s h), fun seen s h => congrArg Host.Outcome.next (same 280 seen s h),
    fun seen s hon hk hf hvoid hnone => ⟨_, rfl, ?_⟩, fun seen s hon hk hgrid hstep hnone hrun => ⟨_, rfl, ?_⟩⟩
  · have clock := airTick_noFrame_clock hon hk hf hvoid hnone seen
    have arrived := arriveAt_clock (tickT s s.tb.airNext) s
    have scaled : shifts (airTick 14 seen s) = ((shifts s).2.1, (shifts s).2.2, (shifts s).2.2) := by
      rw [airTick_of_tbOn hon hk, airInstant_slot_shifts hk hf ((congrArg (·.2.2.2.1) arrived).trans hvoid) (arriveAt_noneBound hnone)
        ((congrArg (·.2.2.2.2) arrived).trans (refLost_of_tbOn hon)), shifts_of_changes (arriveAt_changes _ s) rfl]
    exact ⟨congrArg (·.2.1) clock, congrArg (·.1) clock, congrArg (·.1.1) scaled, congrArg (·.1.2) scaled, congrArg (·.2.1.1) scaled,
      congrArg (·.2.1.2) scaled, airTick_fus 14 seen s, airTick_air hnone seen⟩
  · have arrived := arriveAt_clock (tickT s s.tb.airNext) s
    have clock := airInstant_frame_clock hk (by simpa only [arriveAt, arrive, wait] using hgrid)
      (by simpa only [arriveAt, arrive, wait] using hstep) (by simpa only [arriveAt, arrive_gen, arrive_run] using hrun)
      (arriveAt_noneBound hnone) ((congrArg (·.2.2.2.2) arrived).trans (refLost_of_tbOn hon)) seen
    rw [← airTick_of_tbOn hon hk] at clock
    exact ⟨congrArg (·.2.1) clock, (congrArg (·.1) clock).trans (arriveAt_now _ s), congrArg (·.2.2.1) clock, congrArg (·.2.2.2.1) clock,
      airTick_fus 280 seen s⟩
end

section
/-! The downlink window that a work tick opens (R26, R31, R147, R149): which messages stay held for it. -/

namespace Sys2Proof.Machine

theorem held_foldl {α : Type} {f : State → α → State} (h : ∀ s x, (f s x).fh.held = s.fh.held) :
    ∀ (l : List α) (s : State), (l.foldl f s).fh.held = s.fh.held
  | [], _ => rfl
  | x :: l, s => (held_foldl h l (f s x)).trans (h s x)

/-- Slots of a book that messages leave touch no message. -/
theorem releaseSlots_held {α : Type} (l : List α) (credited : α → Bool) (c : α → Nat) (ctrl : Bool) (id : α → Nat) (s : State) :
    (l.foldl (fun s m => if credited m then releaseSlot s (c m) ctrl (id m) else s) s).fh.held = s.fh.held :=
  held_foldl (fun s m => by split <;> rfl) l s

/-- The chosen messages leave and no other. -/
theorem dropHeld_held (s : State) (chosen : HeldMsg → Bool) (cause : Option Nat) :
    (dropHeld s chosen cause).fh.held = s.fh.held.filter fun m => !chosen m := by
  unfold dropHeld
  extract_lets gone _ s1 s2
  have released : s2.fh.held = s1.fh.held := releaseSlots_held gone (·.credited) (·.cc) false (·.id) s1
  cases cause <;> exact released

theorem dropCtrl_held (s : State) (chosen : CtrlMsg → Bool) (cause : Option Nat) : (dropCtrl s chosen cause).fh.held = s.fh.held := by
  unfold dropCtrl
  extract_lets gone _ s1 s2
  have released : s2.fh.held = s1.fh.held := releaseSlots_held gone (·.credited) (·.cc) true (fun _ => 0) s1
  cases cause <;> exact released

theorem dropDirect_held (s : State) (chosen : HeldMsg → Bool) (cause : Option Nat) : (dropDirect s chosen cause).fh.held = s.fh.held := by
  unfold dropDirect
  cases cause <;> rfl

theorem releaseCtrl_held (s : State) (d k : Nat) : (releaseCtrl s d k).fh.held = s.fh.held := dropCtrl_held _ _ _

/-- A swap moves the Crucible alone, may post one event, and then releases control messages (R177–R180). -/
theorem swapTick_cases (s : State) (d k : Nat) : ∃ u, changesOnly [.cru] s u ∧
    (swapTick s d k = u ∨ swapTick s d k = releaseCtrl u d k ∨ ∃ data, swapTick s d k = releaseCtrl (post u 0x0202 11 d data) d k) := by
  unfold swapTick
  split
  · exact ⟨_, (changesOnly_set_cru (by decide)).2 (changesOnly_refl _ s), .inl rfl⟩
  · extract_lets r f act wrote mask s1 _ s2 _ s3 s4
    have swapped : changesOnly [.cru] s s2 := changesOnly_ite ((changesOnly_set_cru (by decide)).2
      (changesOnly_trans (setHalf_changes s _ _ _) (setHalf_changes _ _ _ _))) (changesOnly_refl _ s)
    refine ⟨s3, (changesOnly_set_cru (by decide)).2 swapped, .inr ?_⟩
    by_cases cut : f.cut = 0
    · exact .inl (congrArg (releaseCtrl · d k) (if_pos cut))
    · exact .inr ⟨_, congrArg (releaseCtrl · d k) (if_neg cut)⟩

/-- The swap releases control messages and no downlink message (R177, R180). -/
theorem swapTick_held (s : State) (d k : Nat) : (swapTick s d k).fh.held = s.fh.held := by
  obtain ⟨u, moved, e | e | ⟨data, e⟩⟩ := swapTick_cases s d k <;> rw [e]
  · rw [moved .fh (by decide)]
  · rw [releaseCtrl_held, moved .fh (by decide)]
  · rw [releaseCtrl_held, post_changes u _ _ _ _ .fh (by decide), moved .fh (by decide)]

/-- What the Tundish has not released in time leaves; nothing comes (R31). -/
theorem mem_held_of_tundishLate {s : State} {k : Nat} {late : List Nat} {m : HeldMsg} (h : m ∈ (tundishLate s k late).fh.held) :
    m ∈ s.fh.held := by
  unfold tundishLate at h
  extract_lets mine n s1 at h
  split at h
  · exact h
  · rw [post, postEvent_fh] at h
    change m ∈ s1.fh.held at h
    rw [dropHeld_held] at h
    exact (List.mem_filter.1 h).1

/-- W_DL opens the window of its symbol on a state that holds no message of an earlier one (R26, R149). -/
theorem dlWork_opens (unfinished : Nat) (late : List Nat) (k : Nat) (s : State) : ∃ u : State, (∀ m ∈ u.fh.held, k ≤ m.sym) ∧
    dlWork unfinished late k s = { u with
      fh := { u.fh with dlMiss := vall u.fh.dlMiss fun c n => satTo 0xFFFFFFFF (n + dlMissing u k c) }
      cru := { u.cru with dlSym := k, dlWork := u.fh.held.filter fun m => m.sym == k } } := by
  unfold dlWork
  extract_lets p works sat _ s1 lost lost' s2 s3 s4
  have dealt : s4.fh = (swapTick (tundishLate s3 k late) 0 k).fh := redealTick_changes (swapTick (tundishLate s3 k late) 0 k) 0 .fh (by decide)
  have kept : ∀ m ∈ s4.fh.held, k ≤ m.sym := fun m hm => by
    rw [dealt, swapTick_held] at hm
    have released := mem_held_of_tundishLate hm
    simp only [s3, dropDirect_held, dropHeld_held] at released
    simpa using (List.mem_filter.1 released).2
  clear_value s4
  exact ⟨s4, kept, rfl⟩

end Sys2Proof.Machine
end

section
/-! The uplink window that a work tick opens (R26, R174, R197): the domains that were on at the tick are those its antenna values need. -/

namespace Sys2Proof.Machine

/-- A domain is on by the table of domains alone. -/
theorem domOn_congr {s t : State} (h : t.pwr.dom = s.pwr.dom) (d : Nat) : domOn t d = domOn s d := by rw [domOn, domOn, h]

theorem dom_of_changes {l : List Part} {s t : State} (h : changesOnly l s t) (hl : l.contains Part.pwr = false) : t.pwr.dom = s.pwr.dom := by
  rw [show t.pwr = s.pwr from h .pwr fun hm => by simp [hm] at hl]

theorem dom_ite {c : Prop} [Decidable c] {s t u : State} (ht : t.pwr.dom = s.pwr.dom) (hu : u.pwr.dom = s.pwr.dom) :
    (if c then t else u).pwr.dom = s.pwr.dom := by
  split
  · exact ht
  · exact hu

theorem dom_foldl {α : Type} {f : State → α → State} (h : ∀ s x, (f s x).pwr.dom = s.pwr.dom) :
    ∀ (l : List α) (s : State), (l.foldl f s).pwr.dom = s.pwr.dom
  | [], _ => rfl
  | x :: l, s => (dom_foldl h l (f s x)).trans (h s x)

/-- An event, written or queued in AON, moves no domain (R85, R346). -/
theorem postEvent_dom (s : State) (e : Event) : (postEvent s e).pwr.dom = s.pwr.dom := by
  unfold postEvent
  refine dom_ite (dom_foldl (fun s i => ?_) _ s) (dom_ite (dom_ite rfl rfl) rfl)
  by_cases hi : 32 + i < 36
  · exact dom_ite (dom_of_changes (evtTo_changes e s _ (by omega) hi) rfl) rfl
  · rw [ringOf_none s _ hi]
    rfl

theorem post_dom (s : State) (code cls inst data : Nat) : (post s code cls inst data).pwr.dom = s.pwr.dom := postEvent_dom s _

theorem windowLate_dom (s : State) (dir units k : Nat) : (windowLate s dir units k).pwr.dom = s.pwr.dom := post_dom _ _ _ _ _

theorem closeLayer_dom (late : Nat → Entry → Bool) (c : Nat) (s : State) (e : Entry) : (closeLayer late c s e).pwr.dom = s.pwr.dom := by
  have assembled : ∀ (s : State) nc, (assembleLayer s c e nc).pwr.dom = s.pwr.dom := fun s nc =>
    dom_of_changes (assembleLayer_changes s c e nc) rfl
  unfold closeLayer
  extract_lets miss _ s1
  have missed : s1.pwr.dom = s.pwr.dom := dom_ite rfl (post_dom _ _ _ _ _)
  exact dom_ite rfl (dom_ite (dom_ite rfl (dom_of_changes (sendPartials_changes s c e _) rfl))
    (dom_ite (assembled s true) ((assembled s1 false).trans missed)))

theorem closeUplink_dom (unfinished : List LayerRef) (s : State) : (closeUplink unfinished s).pwr.dom = s.pwr.dom := by
  unfold closeUplink
  extract_lets k unfinished live late s1 lost units s2 _
  have closed : s1.pwr.dom = s.pwr.dom := dom_foldl (fun s c => dom_ite (dom_foldl (closeLayer_dom late c) _ s) rfl) _ s
  exact (dom_ite rfl (windowLate_dom s1 1 units k) : s2.pwr.dom = s1.pwr.dom).trans closed

theorem swapTick_dom (s : State) (d k : Nat) : (swapTick s d k).pwr.dom = s.pwr.dom := by
  obtain ⟨u, moved, e | e | ⟨data, e⟩⟩ := swapTick_cases s d k <;> rw [e]
  · exact dom_of_changes moved rfl
  · exact (dom_of_changes (releaseCtrl_changes u d k) rfl).trans (dom_of_changes moved rfl)
  · exact (dom_of_changes (releaseCtrl_changes _ d k) rfl).trans ((post_dom u _ _ _ _).trans (dom_of_changes moved rfl))

/-- W_UL opens the window of its symbol with nothing of it sent and the values of paths that are on and not retired in it (R26, R174,
R197). -/
theorem ulWork_opens (unfinished : List LayerRef) (rx : List AntVal) (stl k : Nat) (s : State) : ∃ u cru,
    ulWork unfinished rx stl k s = { u with cru := cru } ∧ cru.ulSym = k ∧ cru.ulSent = [] ∧ cru.retMask = u.cru.retMask ∧
      ∀ r ∈ cru.ulRx, r ∈ rx ∧ bit (retMaskOf u 1) r.ant.val = false ∧ domOn s (10 + r.ant.val / 16) = true := by
  unfold ulWork
  extract_lets s1 s2 dead _
  have sent : s1.pwr.dom = s.pwr.dom :=
    (dom_of_changes (sendUplink_changes (if domOn s 8 then closeUplink unfinished s else s)) rfl).trans
      (dom_ite (closeUplink_dom unfinished s) rfl)
  have dealt : changesOnly [.cru] (swapTick s1 1 k) s2 := redealTick_changes (swapTick s1 1 k) 1
  have dom : s2.pwr.dom = s.pwr.dom := (dom_of_changes dealt rfl).trans ((swapTick_dom s1 1 k).trans sent)
  clear_value s2
  refine ⟨s2, _, rfl, rfl, rfl, rfl, fun r hr => ?_⟩
  obtain ⟨taken, alive⟩ := List.mem_filter.1 hr
  simp only [dead, Bool.and_eq_true, Bool.not_eq_true', Bool.or_eq_false_iff, Bool.not_eq_false'] at alive
  obtain ⟨⟨⟨retired, on⟩, -⟩, -⟩ := alive
  refine ⟨?_, retired, (domOn_congr dom _).symm.trans on⟩
  split at taken
  · exact taken
  · cases taken

end Sys2Proof.Machine
end

section
/-! A work tick with no command bound, from its arrival to its window (R26, R31), and the fill before it (R176, R178). -/

namespace Sys2Proof.Machine

/-! ### The arrival of a work tick -/

/-- A downlink work tick at its count, with the next one numbered. -/
def dlArrived (s : State) : State :=
  let pre := arriveAt (tickAt s .dlWork s.tb.dlNext) s
  { pre with tb := { pre.tb with dlNext := s.tb.dlNext + 1 } }

/-- An uplink work tick at its count, with the next one numbered. -/
def ulArrived (s : State) : State :=
  let pre := arriveAt (tickAt s .ulWork s.tb.ulNext) s
  { pre with tb := { pre.tb with ulNext := s.tb.ulNext + 1 } }

theorem dlArrived_changes (s : State) : changesOnly reportParts s (dlArrived s) :=
  (changesOnly_set_tb (by decide)).2 (arriveAt_changes _ s)

theorem ulArrived_changes (s : State) : changesOnly reportParts s (ulArrived s) :=
  (changesOnly_set_tb (by decide)).2 (arriveAt_changes _ s)

theorem dlArrived_clock (s : State) :
    (dlArrived s).tb.dlNext = s.tb.dlNext + 1 ∧ (dlArrived s).tb.now = max s.tb.now (tickAt s .dlWork s.tb.dlNext) :=
  ⟨rfl, by simp only [dlArrived, arriveAt_now]⟩

theorem ulArrived_clock (s : State) :
    (ulArrived s).tb.ulNext = s.tb.ulNext + 1 ∧ (ulArrived s).tb.now = max s.tb.now (tickAt s .ulWork s.tb.ulNext) :=
  ⟨rfl, by simp only [ulArrived, arriveAt_now]⟩

/-- The downlink work tick with no command bound measures the window that closes and opens the next. -/
theorem exec_dlWorkTick {s : State} (hon : tbOn s = true) (hnone : noneBound s) (n : Nat) (late : List Nat) :
    exec (.dlWorkTick n late) s = .next (dlWork n late s.tb.dlNext (levelsTake (dlArrived s))) := by
  simp only [exec, execDlWorkTick, if_pos hon, tickCommands_of_noneBound (arriveAt_noneBound hnone), dlArrived]

/-- The uplink work tick with no command bound closes one window and opens the next. -/
theorem exec_ulWorkTick {s : State} (hon : tbOn s = true) (hnone : noneBound s) (l : List LayerRef) (rx : List AntVal) :
    exec (.ulWorkTick l rx) s =
      .next (ulWork l rx (settlingMask (arriveAt (tickAt s .ulWork s.tb.ulNext) s)) s.tb.ulNext (ulArrived s)) := by
  simp only [exec, execUlWorkTick, if_pos hon, tickCommands_of_noneBound (arriveAt_noneBound hnone), ulArrived]

/-! ### The weight fill -/

theorem vmod_getElem_ne {α : Type} {n : Nat} (v : Vector α n) {i j : Nat} (h : i ≠ j) (f : α → α) (hj : j < n) : (vmod v i f)[j] = v[j] := by
  unfold vmod
  split
  · exact Vector.getElem_set_ne _ _ h
  · rfl

theorem vget_vmod_same {α : Type} {n : Nat} (v : Vector α n) {i : Nat} (h : i < n) (f : α → α) (d : α) :
    vget (vmod v i f) i d = f (vget v i d) := by
  simp [vget, vmod, h]

/-- A half replaced leaves the other halves (R176). -/
theorem setHalf_others (s : State) (d : Nat) {i j : Nat} (hij : i ≠ j) (h : Half) :
    (d = 0 → (setHalf s d i h).cru.ul = s.cru.ul ∧ ∀ hj : j < 2, (setHalf s d i h).cru.dl[j] = s.cru.dl[j]) ∧
    (d = 1 → (setHalf s d i h).cru.dl = s.cru.dl ∧ ∀ hj : j < 2, (setHalf s d i h).cru.ul[j] = s.cru.ul[j]) :=
  ⟨fun hd => by subst hd; exact ⟨rfl, vmod_getElem_ne _ hij _⟩, fun hd => by subst hd; exact ⟨rfl, vmod_getElem_ne _ hij _⟩⟩

/-- A half replaced moves neither the swap nor the fills (R177, R178). -/
theorem setHalf_act_filling (s : State) (d i : Nat) (h : Half) :
    (setHalf s d i h).cru.act = s.cru.act ∧ (setHalf s d i h).cru.filling = s.cru.filling := by
  unfold setHalf
  split <;> exact ⟨rfl, rfl⟩

/-- The count of a direction's next fill: 1,024 counts behind the work tick of the symbol before (R178). -/
def fillDue (d : Nat) (s : State) : Nat :=
  let kind := if d = 0 then TickKind.dlWork else .ulWork
  let k := if d = 0 then s.tb.dlNext else s.tb.ulNext
  tickAt s kind (k - 1) + 1024

/-- The direction's fill marked as in progress, with the inactive half as it finds it (R178). -/
def fillMarked (d : Nat) (s : State) : State :=
  { s with cru := { s.cru with filling := vmod s.cru.filling d fun x => some (x.getD (inactiveHalf s d)) } }

/-- With CRU and the timebase on, a fill comes at its count, marks its direction and writes the inactive half (R178). -/
theorem weightFill_of_on {s : State} (hcru : domOn s 8 = true) (hon : tbOn s = true) (d : Nat) :
    ∃ h, weightFill d s = setHalf (fillMarked d (arriveAt (fillDue d s) s)) d (1 - actOf s d) h := by
  have both : ¬((!domOn (arriveAt (fillDue d s) s) 8) = true ∨ (!tbOn (arriveAt (fillDue d s) s)) = true) := by
    rw [show domOn (arriveAt (fillDue d s) s) 8 = true from hcru, show tbOn (arriveAt (fillDue d s) s) = true from hon]
    decide
  exact ⟨_, if_neg both⟩

end Sys2Proof.Machine

open Sys2Proof Sys2Proof.Machine

/-- Settles O29: the windows that the work ticks open, and the half that a fill writes. -/
theorem workTicksMoveWindowsAndFills : Obligations.WorkTicksMoveWindowsAndFills := by
  unfold Obligations.WorkTicksMoveWindowsAndFills
  refine ⟨⟨fun n late s hon hnone => ⟨_, exec_dlWorkTick hon hnone n late, ?_⟩, fun l rx s hon hnone => ⟨_, exec_ulWorkTick hon hnone l rx, ?_⟩⟩,
    fun d s hcru hon hact => ⟨weightFill d.val s, rfl, ?_⟩⟩
  · have changed : changesOnly (withReports [.fh, .cru, .tx, .pwr, .gen]) s (dlWork n late s.tb.dlNext (levelsTake (dlArrived s))) :=
      changesOnly_trans (changesOnly_mono (dlArrived_changes s) (by decide))
        (changesOnly_trans (changesOnly_mono (levelsTake_changes _) (by decide)) (changesOnly_mono (dlWork_changes _ _ _ _) (by decide)))
    have tb : (dlWork n late s.tb.dlNext (levelsTake (dlArrived s))).tb = (dlArrived s).tb :=
      (dlWork_changes _ _ _ _ .tb (by decide)).trans (levelsTake_changes _ .tb (by decide))
    obtain ⟨number, now⟩ := dlArrived_clock s
    obtain ⟨u, held, opened⟩ := dlWork_opens n late s.tb.dlNext (levelsTake (dlArrived s))
    refine ⟨(congrArg Tb.dlNext tb).trans number, (congrArg Tb.now tb).trans now, ?_⟩
    rw [opened] at changed ⊢
    exact ⟨rfl, held, rfl, changed⟩
  · generalize settlingMask _ = stl
    have changed : changesOnly (withReports [.fh, .cru, .run, .pwr, .gen]) s (ulWork l rx stl s.tb.ulNext (ulArrived s)) :=
      changesOnly_trans (changesOnly_mono (ulArrived_changes s) (by decide)) (changesOnly_mono (ulWork_changes _ _ _ _ _) (by decide))
    have tb : (ulWork l rx stl s.tb.ulNext (ulArrived s)).tb = (ulArrived s).tb := ulWork_changes _ _ _ _ _ .tb (by decide)
    obtain ⟨number, now⟩ := ulArrived_clock s
    obtain ⟨u, cru, opened, sym, sent, retired, values⟩ := ulWork_opens l rx stl s.tb.ulNext (ulArrived s)
    refine ⟨(congrArg Tb.ulNext tb).trans number, (congrArg Tb.now tb).trans now, ?_⟩
    rw [opened] at changed ⊢
    refine ⟨sym, sent, fun r hr => ?_, changed⟩
    obtain ⟨taken, alive, on⟩ := values r hr
    exact ⟨taken, by rwa [retMaskOf, retired], (domOn_congr (dom_of_changes (ulArrived_changes s) rfl) _).symm.trans on⟩
  · have changed := weightFill_changes d.val s
    obtain ⟨h, filled⟩ := weightFill_of_on hcru hon d.val
    have others := setHalf_others (fillMarked d (arriveAt (fillDue d s) s)) d.val (show 1 - actOf s d ≠ actOf s d by omega) h
    obtain ⟨act, filling⟩ := setHalf_act_filling (fillMarked d (arriveAt (fillDue d s) s)) d.val (1 - actOf s d) h
    rw [← filled] at others act filling
    have now : (weightFill d s).tb.now = max s.tb.now (fillDue d s) := by
      rw [filled, setHalf_changes _ _ _ _ .tb (by decide)]
      exact arriveAt_now _ s
    have marked : (vget (weightFill d s).cru.filling d.val none).isSome := by
      rw [filling, fillMarked, vget_vmod_same _ d.isLt]
      rfl
    have mem : (weightFill d s).host.mem = s.host.mem := by
      rw [filled, setHalf_changes _ _ _ _ .host (by decide)]
      rfl
    exact ⟨now, marked, act, others.1, others.2, mem, changesOnly_mono changed (by decide)⟩
end

section
/-! A command row that passes its checks and waits for its tick (R29, R71, R74, R87). -/

namespace Sys2Proof.Machine

/-- The state in which the command of a row has been fetched, with command `y` in its place of the list. -/
def rowListed (x : CommandRow) (s : State) (y : Cmd) : State :=
  let a := arrive x.dt s
  { a with host := { a.host with cmds := s.host.cmds ++ [y], nextSeq := s.host.nextSeq + 1 } }

/-- The command of a row bound to its tick. -/
def rowBound (x : CommandRow) (s : State) : Cmd :=
  let c := rowStart x s
  let b := x.f.bind (rowState x s) c
  { c with stage := .bound (x.f.tick c) b.1 b.2, late := b.2 }

theorem rowListed_changes (x : CommandRow) (s : State) (y : Cmd) : changesOnly reportParts s (rowListed x s y) := by
  refine (changesOnly_set_host (by decide) (.inr ?_)).2 (arrive_changes x.dt s)
  exact ⟨rfl, rfl⟩

/-- The row's command is the one that its number names (R71). -/
theorem cmdPut_rowListed (x : CommandRow) {s : State} {y z : Cmd} (hok : cmdsOk s) (hy : y.seq = s.host.nextSeq) (hz : z.seq = s.host.nextSeq) :
    cmdPut (rowListed x s y) z = rowListed x s z := by
  have others : s.host.cmds.map (fun c => if c.seq = z.seq then z else c) = s.host.cmds := by
    refine (List.map_congr_left fun c hc => if_neg ?_).trans (List.map_id' _)
    have := hok.2 c hc
    omega
  have own : [y].map (fun c => if c.seq = z.seq then z else c) = [z] := by simp [hy, hz]
  simp only [cmdPut, rowListed, List.map_append, others, own]

/-- A start that passes its checks binds a tick-bound command (R29, R71, R74). -/
theorem cmdStart_of_tickBound {f : CmdDef} {s : State} {c : Cmd} (hcheck : cmdCheck f s { c with acceptAt := s.tb.now } = none)
    (htick : f.tick { c with acceptAt := s.tb.now } ≠ .none) :
    let e := { c with acceptAt := s.tb.now }
    let b := f.bind s e
    let w : Cmd := { e with stage := .bound (f.tick e) b.1 b.2, late := b.2 }
    cmdStart f s c = f.accepted (cmdPut s w) w := by
  simp only [cmdStart, hcheck, if_neg htick]

theorem exec_of_tickBoundRow {i : Instr} {x : CommandRow} (h : commandRow i = some x) {c : Cmd} (htick : x.f.tick c ≠ .none) (s : State) :
    exec i s = .next (runCmd x.f x.dt x.ref x.d s) := by
  cases i <;> cases h
  case domainSet => exact absurd rfl htick
  all_goals rfl

/-- A row that passes its checks leaves its command bound to its tick, and does what its acceptance does at once. -/
theorem exec_of_rowAccepted {i : Instr} {x : CommandRow} {s : State} (h : commandRow i = some x) (hacc : rowAccepted x s)
    (htick : x.f.tick (rowStart x s) ≠ .none) : exec i s = .next (x.f.accepted (rowListed x s (rowBound x s)) (rowBound x s)) := by
  obtain ⟨hon, hok, hheld, hcheck⟩ := hacc
  have fetched : runCmd x.f x.dt x.ref x.d s = if cmdHeld (rowState x s) (rowStart x s) then rowState x s
      else cmdStart x.f (rowState x s) (rowCmd x s) := if_pos hon
  have started : cmdStart x.f (rowState x s) (rowCmd x s) = x.f.accepted (cmdPut (rowState x s) (rowBound x s)) (rowBound x s) :=
    cmdStart_of_tickBound hcheck htick
  have put : cmdPut (rowState x s) (rowBound x s) = rowListed x s (rowBound x s) := cmdPut_rowListed x (y := rowCmd x s) hok rfl rfl
  rw [exec_of_tickBoundRow h htick, fetched, hheld, if_neg Bool.false_ne_true, started, put]

/-! ### What an acceptance does at once (R45, R182) -/

/-- Only MODE_SET and WEIGHT_LOAD do something more at their acceptance. -/
theorem commandRow_accepted {i : Instr} {x : CommandRow} (h : commandRow i = some x) :
    x.f = modeSetDef ∨ x.f = weightLoadDef ∨ (x.f.opcode ≠ 0x0010 ∧ x.f.opcode ≠ 0x0050 ∧ x.f.accepted = fun s _ => s) := by
  cases i <;> cases h
  case modeSet => exact .inl rfl
  case weightLoad => exact .inr (.inl rfl)
  all_goals exact .inr (.inr ⟨Nat.ne_of_beq_eq_false rfl, Nat.ne_of_beq_eq_false rfl, rfl⟩)

theorem commandRow_modeSet {i : Instr} {x : CommandRow} (h : commandRow i = some x) (hop : x.f.opcode = 0x0010) : x.f = modeSetDef := by
  obtain hf | hf | ⟨other, -, -⟩ := commandRow_accepted h
  · exact hf
  · rw [hf] at hop
    cases hop
  · exact absurd hop other

theorem commandRow_weightLoad {i : Instr} {x : CommandRow} (h : commandRow i = some x) (hop : x.f.opcode = 0x0050) : x.f = weightLoadDef := by
  obtain hf | hf | ⟨-, other, -⟩ := commandRow_accepted h
  · rw [hf] at hop
    cases hop
  · exact hf
  · exact absurd hop other

/-- A load accepted reads its rows at once, and reports to the master at most what that changes (R182, R183). -/
theorem weightLoad_accepted (s : State) {c : Cmd} {kind : TickKind} {k : Nat} {late : Bool} (h : c.stage = .bound kind k late) :
    ∃ l : Load, (weightLoadDef.accepted s c).cru = { s.cru with loads := s.cru.loads ++ [l] } ∧ l.ref = c.ref ∧ l.sym = k ∧
      l.rows = memSlice s.ldl.dram (dQ c.d 24) (256 * (dB c.d 18 * dH c.d 22)) 0 ∧
      (s.run.state = .off → (weightLoadDef.accepted s c).out = s.out) ∧
      changesOnly [.fh, .cru, .run, .out] s (weightLoadDef.accepted s c) := by
  have read : ∃ l : Load, weightAccept s c = { s with cru := { s.cru with loads := s.cru.loads ++ [l] } } ∧ l.ref = c.ref ∧ l.sym = k ∧
      l.rows = memSlice s.ldl.dram (dQ c.d 24) (256 * (dB c.d 18 * dH c.d 22)) 0 := by
    unfold weightAccept
    rw [h]
    exact ⟨_, rfl, rfl, rfl, rfl⟩
  obtain ⟨l, taken, ref, sym, rows⟩ := read
  have reported := resSymbol_changes (weightAccept s c)
  refine ⟨l, (reported .cru (by decide)).trans (by rw [taken]), ref, sym, rows, fun off => ?_,
    changesOnly_trans (changesOnly_mono (weightAccept_changes s c) (by decide)) (changesOnly_mono reported (by decide))⟩
  have silent : resSymbol (weightAccept s c) = weightAccept s c := if_pos (.inr (.inl (by rw [taken]; exact off)))
  exact (congrArg State.out silent).trans (weightAccept_changes s c .out (by decide))

/-- Flask-wide service that begins to form keeps the requests, and is not in service yet (R46, R112). -/
theorem flkStart_forming {s : State} (hready : s.run.ready = false) (hserv : s.run.state ≠ .inService) :
    (flkStart s).run.ready = false ∧ (flkStart s).run.state ≠ .inService ∧ (flkStart s).run.modeReqs = s.run.modeReqs ∧
      (s.run.state = .off → (flkStart s).run.state = .discovering) := by
  unfold flkStart
  extract_lets _ s1
  by_cases off : s.run.state = .off
  · have trained : ∀ s l, changesOnly [.lanes] s (if (laneOf s l).untrained ∧ !(laneOf s l).retired ∧ domOn s 6 ∧ !inLts s l then
        startAttempt .first s l else s) := fun s l => changesOnly_ite (startAttempt_changes .first s l) (changesOnly_refl _ s)
    rw [if_neg (not_not.2 off), changesOnly_foldl [.lanes] _ (fun s i => trained s (16 + i)) (List.range 24) s1 .run (by decide)]
    exact ⟨rfl, FlkState.noConfusion, rfl, fun _ => rfl⟩
  · rw [if_pos off]
    exact ⟨hready, hserv, rfl, fun h => absurd h off⟩

/-- While the flask forms no request goes on (R45, R46). -/
theorem flkPump_of_forming {s : State} (hready : s.run.ready = false) (hserv : s.run.state ≠ .inService) : flkPump s = s :=
  if_pos (by simp [hready, hserv])

/-- The command of a row as it runs while its flask-wide request waits for the master (R45, R46). -/
def rowAsks (x : CommandRow) (s : State) : Cmd := { rowStart x s with stage := .running none, note := 1 }

/-- The request that a MODE_SET of a flask-wide bit becomes (R45). -/
def rowRequest (x : CommandRow) (s : State) : FlkReq :=
  { ref := some x.ref, origin := ownId s, payload := BitVec.ofNat 72 (bits (rowStart x s).d.toNat 199 128) }

/-- The state in which that request has taken its place among the others. -/
def rowRequested (x : CommandRow) (s : State) : State := setReqs (rowListed x s (rowAsks x s)) (s.run.modeReqs ++ [rowRequest x s])

/-- Whether a change is flask-wide follows from the modes and the flask alone (R45, R229). -/
theorem modeFlask_congr {s t : State} (hmod : t.mod = s.mod) (hrun : t.run = s.run) (d : Desc) : modeFlask t d = modeFlask s d := by
  unfold modeFlask
  congr 1
  funext c
  cases requestedSet d c with
  | none => rfl
  | some v =>
    have sets : setOf t c = setOf s c := by rw [setOf, setOf, hmod]
    have mode : ∀ b, hasMode t c b = hasMode s c b := fun b => by rw [hasMode, hasMode, sets]
    have wide : flaskWide t c = flaskWide s c := by rw [flaskWide, flaskWide, mode, mode, hmod]
    rw [sets, mode, wide, hrun]

/-- A MODE_SET of a flask-wide bit becomes a request, and runs until it is answered (R45, R46). -/
theorem modeAccepted_of_flask {s : State} {c : Cmd} (h : modeFlask s c.d = true) :
    modeAccepted s c = flkPump (flkStart (setReqs
      (cmdPut s { c with stage := .running none, late := false, note := BitVec.ofNat 64 (b2n (s.run.state != .inService)) })
      (s.run.modeReqs ++ [{ ref := some c.ref, origin := ownId s, payload := BitVec.ofNat 72 (bits c.d.toNat 199 128) }]))) :=
  if_pos h

/-- A flask-wide MODE_SET at a member whose flask has not formed waits for its master (R45, R46). -/
theorem modeAccepted_forming {x : CommandRow} {s : State} (hok : cmdsOk s) (hflask : modeFlask (rowListed x s (rowBound x s)) (rowBound x s).d = true)
    (hready : s.run.ready = false) (hserv : s.run.state ≠ .inService) :
    modeAccepted (rowListed x s (rowBound x s)) (rowBound x s) = flkStart (rowRequested x s) := by
  have forms : ((rowListed x s (rowBound x s)).run.state != .inService) = true := bne_iff_ne.2 hserv
  have asks : { rowBound x s with stage := .running none, late := false, note := BitVec.ofNat 64 (b2n true) } = rowAsks x s := rfl
  have request : { ref := some (rowBound x s).ref, origin := ownId (rowListed x s (rowBound x s))
                   payload := BitVec.ofNat 72 (bits (rowBound x s).d.toNat 199 128) } = rowRequest x s := rfl
  have put : cmdPut (rowListed x s (rowBound x s)) (rowAsks x s) = rowListed x s (rowAsks x s) := cmdPut_rowListed x hok rfl rfl
  obtain ⟨waits, apart, -, -⟩ := flkStart_forming (s := rowRequested x s) hready hserv
  rw [modeAccepted_of_flask hflask, forms, asks, request, put]
  exact flkPump_of_forming waits apart

end Sys2Proof.Machine

open Sys2Proof Sys2Proof.Machine

/-- Settles O43: an acceptance binds the command and does no more, but for a load's rows and a flask-wide request. -/
theorem tickBoundCommandsWaitForTheirTick : Obligations.TickBoundCommandsWaitForTheirTick := by
  unfold Obligations.TickBoundCommandsWaitForTheirTick
  intro i x s hrow hacc w c b waits htick
  have bound := exec_of_rowAccepted hrow hacc htick
  have listed := rowListed_changes x s (rowBound x s)
  obtain ⟨-, hok, -, -⟩ : rowAccepted x s := hacc
  have same : ∀ d, modeFlask (rowListed x s (rowBound x s)) d = modeFlask w d := modeFlask_congr rfl rfl
  refine ⟨fun hload hmode => ?_, fun hload => ?_, fun hmode hflask _ hready hserv => ?_⟩
  · have quiet : x.f.accepted (rowListed x s (rowBound x s)) (rowBound x s) = rowListed x s (rowBound x s) := by
      obtain hf | hf | ⟨-, -, hf⟩ := commandRow_accepted hrow
      · rw [hf]
        exact if_neg (Bool.eq_false_iff.1 ((same (rowBound x s).d).trans (hmode (by rw [hf]; rfl))))
      · exact absurd (by rw [hf]; rfl) hload
      · rw [hf]
    exact ⟨_, bound.trans (congrArg Host.Outcome.next quiet), rfl, rfl, rfl, rfl, listed⟩
  · obtain ⟨l, read, ref, sym, rows, silent, did⟩ := weightLoad_accepted (rowListed x s (rowBound x s)) (c := rowBound x s) rfl
    rw [← commandRow_weightLoad hrow hload] at read silent did
    have host : _ = (rowListed x s (rowBound x s)).host := did .host (by decide)
    exact ⟨_, l, bound, congrArg HostIf.cmds host, (congrArg HostIf.rings host :), silent, read, ref, sym, rows,
      changesOnly_trans (changesOnly_mono listed (by decide)) (changesOnly_mono did (by decide))⟩
  · have asked := modeAccepted_forming hok ((same _).trans hflask) hready hserv
    obtain ⟨-, -, reqs, starts⟩ := flkStart_forming (s := rowRequested x s) hready hserv
    have started := flkStart_changes (rowRequested x s)
    rw [commandRow_modeSet hrow hmode, show modeSetDef.accepted = modeAccepted from rfl, asked] at bound
    exact ⟨_, bound, congrArg HostIf.cmds (started .host (by decide)), reqs, starts, started .out (by decide),
      changesOnly_trans (changesOnly_mono (rowListed_changes x s (rowAsks x s)) (by decide)) (changesOnly_trans
        (changesOnly_mono (setReqs_changes _ _) (by decide)) (changesOnly_mono started (by decide)))⟩
end

section
/-! The device as SYN first comes on after power-on reset (R57, R109, R116, R306, R437): the fronthaul lanes begin training one after
another, and no other part moves the grid that OUT_OF_RESET anchors. -/

namespace Sys2Proof.Machine

/-! ### One lane changed -/

theorem vget_vmod_ne {α : Type} {n : Nat} (v : Vector α n) {i j : Nat} (h : i ≠ j) (f : α → α) (d : α) :
    vget (vmod v i f) j d = vget v j d := by
  unfold vget
  split
  · exact vmod_getElem_ne v h f _
  · rfl

theorem laneOf_modLane_same (s : State) {l : Nat} (h : l < 40) (f : Lane → Lane) : laneOf (modLane s l f) l = f (laneOf s l) :=
  vget_vmod_same _ h f _

theorem laneOf_modLane_ne (s : State) {l m : Nat} (h : l ≠ m) (f : Lane → Lane) : laneOf (modLane s l f) m = laneOf s m :=
  vget_vmod_ne _ h f _

/-! ### The start of an attempt -/

/-- A FEC setting that waited is taken from the lane alone, whose state it leaves (R129). -/
theorem fecTake_lane (s : State) {l : Nat} (h : l < 40) :
    (laneOf (fecTake s l) l).state = (laneOf s l).state ∧ ∀ m, l ≠ m → laneOf (fecTake s l) m = laneOf s m := by
  unfold fecTake
  split
  · exact ⟨rfl, fun _ _ => rfl⟩
  · exact ⟨(congrArg Lane.state (laneOf_modLane_same s h fun x => { x with fecPend := none }) :), fun m hm => laneOf_modLane_ne s hm _⟩

/-- A lane whose attempt starts is training; the other lanes stand (R111). -/
theorem startAttempt_lane (kind : AttemptKind) (s : State) {l : Nat} (h : l < 40) :
    (laneOf (startAttempt kind s l) l).state = .training ∧ ∀ m, l ≠ m → laneOf (startAttempt kind s l) m = laneOf s m := by
  unfold startAttempt
  extract_lets x mode taps s1
  obtain ⟨own, others⟩ := fecTake_lane s1 h
  exact ⟨own.trans (congrArg Lane.state (laneOf_modLane_same s h _)), fun m hm => (others m hm).trans (laneOf_modLane_ne s hm _)⟩

/-! ### The first training of the lanes (R57, R116) -/

/-- A live lane that is not in LTS begins its first training; any other stays as it is. -/
def firstTraining (s : State) (l : Nat) : State := if laneLive s l && !inLts s l then startAttempt .first s l else s

theorem firstTraining_changes (s : State) (l : Nat) : changesOnly [.lanes] s (firstTraining s l) :=
  changesOnly_ite (startAttempt_changes .first s l) (changesOnly_refl _ s)

theorem firstTraining_other (s : State) {l m : Nat} (hl : l < 40) (h : l ≠ m) : laneOf (firstTraining s l) m = laneOf s m := by
  unfold firstTraining
  split
  · exact (startAttempt_lane .first s hl).2 m h
  · rfl

theorem firstTraining_keeps_training (s : State) {l m : Nat} (hl : l < 40) (h : (laneOf s m).state = .training) :
    (laneOf (firstTraining s l) m).state = .training := by
  by_cases hm : l = m
  · subst hm
    unfold firstTraining
    split
    · exact (startAttempt_lane .first s hl).1
    · exact h
  · rwa [firstTraining_other s hl hm]

theorem firstTraining_trains (s : State) {l : Nat} (hl : l < 40) (live : laneLive s l = true) (lts : inLts s l = false) :
    (laneOf (firstTraining s l) l).state = .training := by
  rw [firstTraining, live, lts]
  exact (startAttempt_lane .first s hl).1

/-- Another lane's first training leaves a lane as live as it was, and in LTS or not (R39, R112). -/
theorem firstTraining_keeps_live (s : State) {l m : Nat} (hl : l < 40) (h : l ≠ m) :
    laneLive (firstTraining s l) m = laneLive s m ∧ inLts (firstTraining s l) m = inLts s m := by
  have did := firstTraining_changes s l
  have pwr : (firstTraining s l).pwr = s.pwr := did .pwr (by decide)
  have mod : (firstTraining s l).mod = s.mod := did .mod (by decide)
  rw [laneLive, laneLive, inLts, inLts, ltsMask, ltsMask, domOn_congr (congrArg PwrS.dom pwr), firstTraining_other s hl h, mod]
  exact ⟨rfl, rfl⟩

/-- Every live lane of a list that is not in LTS is training once the list has been gone through. -/
theorem foldl_firstTraining_trains {m : Nat} {l : List Nat} (lanes : ∀ i ∈ l, i < 40) (hm : m ∈ l) {s : State} (live : laneLive s m = true)
    (lts : inLts s m = false) : (laneOf (l.foldl firstTraining s) m).state = .training := by
  induction l generalizing s with
  | nil => cases hm
  | cons i l ih =>
    rw [List.forall_mem_cons] at lanes
    obtain ⟨hi, rest⟩ := lanes
    by_cases h : i = m
    · subst h
      exact List.foldlRecOn (motive := fun y => (laneOf y i).state = .training) l firstTraining (firstTraining_trains s hi live lts)
        fun y trains j hj => firstTraining_keeps_training y (rest j hj) trains
    · obtain ⟨keepLive, keepLts⟩ := firstTraining_keeps_live s hi h
      exact ih rest ((List.mem_cons.1 hm).resolve_left (Ne.symm h)) (keepLive.trans live) (keepLts.trans lts)

theorem foldl_firstTraining_changes (l : List Nat) (s : State) : changesOnly [.lanes] s (l.foldl firstTraining s) :=
  changesOnly_foldl [.lanes] _ firstTraining_changes l s

/-! ### The synthesisers search, and Anneal's corrections (R298, R333) -/

/-- A search moves one synthesiser, and neither the sample clock nor whether SYN was ever on. -/
theorem synSearch_clock (s : State) (n : Nat) :
    (synSearch s n).syn.everOn = s.syn.everOn ∧ (synSearch s n).syn.pllLocked = s.syn.pllLocked := by
  have tune : (synTune s n).syn.everOn = s.syn.everOn ∧ (synTune s n).syn.pllLocked = s.syn.pllLocked := by
    unfold synTune
    split <;> exact ⟨rfl, rfl⟩
  unfold synSearch
  split
  · exact tune
  · split <;> exact ⟨rfl, rfl⟩

theorem synSearchAll_clock (s : State) :
    (synSearchAll s).syn.everOn = s.syn.everOn ∧ (synSearchAll s).syn.pllLocked = s.syn.pllLocked := by
  unfold synSearchAll forAll
  exact List.foldlRecOn (motive := fun y => y.syn.everOn = s.syn.everOn ∧ y.syn.pllLocked = s.syn.pllLocked) _ synSearch ⟨rfl, rfl⟩
    fun y ⟨ever, pll⟩ n _ => ⟨(synSearch_clock y n).1.trans ever, (synSearch_clock y n).2.trans pll⟩

/-- The corrections loaded, or the event that there are none, move no domain. -/
theorem anlCold_dom (s : State) : (anlCold s).pwr.dom = s.pwr.dom := by
  unfold anlCold
  extract_lets a pick
  cases pick with
  | some r => rfl
  | none => exact post_dom _ _ _ _ _

/-! ### Out of reset (R306, R437) -/

/-- SYN on with the sample clock locked, and the grid anchored: its first frame tick at this count. -/
def gridAnchored (s : State) : State :=
  let s := { s with
    syn := { s.syn with everOn := true, pllLocked := true }
    pwr := { s.pwr with dom := vmod s.pwr.dom 3 fun _ => .on } }
  let k := roundUp 280 s.tb.airNext
  { s with tb := { s.tb with
    gridAt := s.tb.now, gridK := k, gridFrame := gridIndex s s.tb.tod % 1024, airNext := k, dlNext := k + 2, ulNext := k } }

theorem gridAnchored_changes (s : State) : changesOnly [.syn, .tb, .pwr] s (gridAnchored s) := by
  intro p hp
  cases p <;> simp at hp
  case hmem => exact ⟨fun _ => rfl, fun _ _ => rfl⟩
  case dev => exact ⟨rfl, rfl, rfl, rfl⟩
  case flash => exact ⟨rfl, rfl⟩
  all_goals exact rfl

theorem gridAnchored_on (s : State) : domOn (gridAnchored s) 3 = true :=
  decide_eq_true (vget_vmod_same s.pwr.dom (by decide) _ _)

/-- No lane lies in SYN's domain: one is as live on the anchored grid as it was. -/
theorem gridAnchored_live (s : State) (l : Nat) : laneLive (gridAnchored s) l = laneLive s l := by
  have apart : 3 ≠ laneDom l := by
    unfold laneDom
    split
    · decide
    · split <;> decide
  have dom : domOn (gridAnchored s) (laneDom l) = domOn s (laneDom l) :=
    congrArg (fun d => decide (d = DomState.on)) (vget_vmod_ne s.pwr.dom apart _ _)
  rw [laneLive, dom]
  rfl

/-- What begins once the grid stands: the synthesisers search, the fronthaul lanes train, and Anneal's corrections are loaded. -/
def unitsStarted (s : State) : State := anlCold ((List.range 16).foldl firstTraining (synSearchAll s))

theorem exec_outOfReset {s : State} (hever : s.syn.everOn = false) (href : s.syn.refState = .locked) (dt : Nat) :
    exec (.outOfReset dt) s = .next (unitsStarted (gridAnchored (arrive dt s))) := by
  have first : ¬ ((arrive dt s).syn.everOn = true ∨ (arrive dt s).syn.refState ≠ .locked) := by simp [hever, href]
  exact congrArg Host.Outcome.next (if_neg first)

/-- The units that begin leave the timebase, the sample clock and the domains. -/
theorem unitsStarted_keeps (s : State) :
    (unitsStarted s).tb = s.tb ∧ (unitsStarted s).syn.everOn = s.syn.everOn ∧ (unitsStarted s).syn.pllLocked = s.syn.pllLocked ∧
      (unitsStarted s).pwr.dom = s.pwr.dom ∧ changesOnly [.syn, .host, .lanes, .anl, .pwr, .out] s (unitsStarted s) := by
  have searched := synSearchAll_changes s
  have trained := foldl_firstTraining_changes (List.range 16) (synSearchAll s)
  obtain ⟨ever, pll⟩ := synSearchAll_clock s
  unfold unitsStarted
  generalize (List.range 16).foldl firstTraining (synSearchAll s) = z at *
  have loaded := anlCold_changes z
  have syn : (anlCold z).syn = (synSearchAll s).syn := (loaded .syn (by decide)).trans (trained .syn (by decide))
  rw [syn]
  exact ⟨(loaded .tb (by decide)).trans ((trained .tb (by decide)).trans (searched .tb (by decide))), ever, pll,
    (anlCold_dom z).trans ((dom_of_changes trained rfl).trans (dom_of_changes searched rfl)),
    changesOnly_trans (changesOnly_mono searched (by decide))
      (changesOnly_trans (changesOnly_mono trained (by decide)) (changesOnly_mono loaded (by decide)))⟩

/-- Every live fronthaul lane that is not in LTS is training then (R57, R116). -/
theorem unitsStarted_trains {s : State} {l : Nat} (hl : l < 16) (live : laneLive s l = true) (lts : inLts s l = false) :
    (laneOf (unitsStarted s) l).state = .training := by
  have searched := synSearchAll_changes s
  have lanes : (unitsStarted s).lanes = ((List.range 16).foldl firstTraining (synSearchAll s)).lanes := anlCold_changes _ .lanes (by decide)
  have same : laneOf (synSearchAll s) l = laneOf s l := by rw [laneOf, laneOf, show (synSearchAll s).lanes = s.lanes from searched .lanes (by decide)]
  rw [laneOf, lanes]
  refine foldl_firstTraining_trains (fun i hi => ?_) (List.mem_range.2 hl) (Eq.trans ?_ live) (Eq.trans ?_ lts)
  · exact Nat.lt_trans (List.mem_range.1 hi) (by decide)
  · rw [laneLive, laneLive, same, domOn_congr (dom_of_changes searched rfl)]
  · rw [inLts, inLts, ltsMask, ltsMask, show (synSearchAll s).mod = s.mod from searched .mod (by decide)]

end Sys2Proof.Machine

open Sys2Proof Sys2Proof.Machine

/-- Settles O6: the grid is anchored once, the lanes train one after another, and nothing after them moves what they set. -/
theorem outOfResetStartsLanesAndTimebase : Obligations.OutOfResetStartsLanesAndTimebase := by
  unfold Obligations.OutOfResetStartsLanesAndTimebase
  intro dt s hever href
  obtain ⟨tb, ever, pll, dom, started⟩ := unitsStarted_keeps (gridAnchored (arrive dt s))
  refine ⟨_, exec_outOfReset hever href dt, ever, pll, (domOn_congr dom 3).trans (gridAnchored_on _), ?_, ?_, ?_, ?_,
    fun l hl live lts => unitsStarted_trains hl ((gridAnchored_live _ l).trans live) lts, ?_⟩
  · rw [tb]; rfl
  · rw [tb]; rfl
  · rw [tb]; exact Nat.mul_mod_left _ _
  · rw [tb]; rfl
  · exact changesOnly_trans (changesOnly_mono (arrive_changes dt s) (by decide)) (changesOnly_trans
      (changesOnly_mono (gridAnchored_changes _) (by decide)) (changesOnly_mono started (by decide)))
end

section
/-! A survey's period that ends (R59, R60): its report goes out frame by frame, and the MOD registers alone mirror it. -/

namespace Sys2Proof.Machine

/-- The MOD registers as the report of a period leaves them (R59). -/
def surveyMirror (m : ModS) (l : List SurveyPath) : ModS :=
  { m with
    surveySeq := (m.surveySeq + 1) % 256, surveyFrames := m.surveyFrames - 10
    rssi := vall m.rssi fun p _ => (l.getD p {}).rssi
    bins := vall m.bins fun b _ => (l.getD m.surveySel {}).bins.getD b 0x8000 }

/-- A path's register shows the RSSI that the report names for it. -/
theorem surveyMirror_rssi (m : ModS) (l : List SurveyPath) {p : Nat} (hp : p < 64) : vget (surveyMirror m l).rssi p 0 = (l.getD p {}).rssi :=
  vget_vall m.rssi (fun p _ => (l.getD p {}).rssi) hp 0

/-- Frames sent change nothing else. -/
theorem foldl_send_keeps {α : Type} (frame : State → α → Out) (l : List α) (s : State) :
    (l.foldl (fun s x => send s (frame s x)) s).mod = s.mod ∧ (l.foldl (fun s x => send s (frame s x)) s).host = s.host :=
  List.foldlRecOn (motive := fun t : State => t.mod = s.mod ∧ t.host = s.host) l _ ⟨rfl, rfl⟩
    fun _ ⟨mod, host⟩ _ _ => ⟨mod, host⟩

/-- The report is mirrored, and the frames that carry it touch neither the registers nor the host (R60). -/
theorem surveyReport_keeps (s : State) (l : List SurveyPath) :
    (surveyReport s l).mod = surveyMirror s.mod l ∧ (surveyReport s l).host = s.host := by
  unfold surveyReport
  extract_lets sel m s1
  exact List.foldlRecOn (motive := fun t : State => t.mod = surveyMirror s.mod l ∧ t.host = s.host) (surveyPorts s1) _ ⟨rfl, rfl⟩
    fun t ⟨mod, host⟩ p _ => ⟨(foldl_send_keeps (fun s i => .frame p (surveyFrame s p l i)) (List.range 32) t).1.trans mod,
      (foldl_send_keeps (fun s i => .frame p (surveyFrame s p l i)) (List.range 32) t).2.trans host⟩

theorem exec_surveyPeriodEnd {s : State} (hon : surveyOn s = true) (hover : 11 ≤ s.mod.surveyFrames) (hband : noBand s = false)
    (l : List SurveyPath) : exec (.surveyPeriodEnd l) s = .next (surveyReport (arrive 0 s) l) := by
  have ends : surveyOn (arrive 0 s) = true ∧ 11 ≤ (arrive 0 s).mod.surveyFrames := ⟨hon, hover⟩
  have band : noBand (arrive 0 s) = false := hband
  exact congrArg Host.Outcome.next ((if_pos ends).trans (by rw [band]; rfl))

end Sys2Proof.Machine

open Sys2Proof Sys2Proof.Machine

/-- Settles O36: the report's mirror is what the registers show, for the frames that carry it touch nothing but the line. -/
theorem surveyReportsAreNumberedAndSent : Obligations.SurveyReportsAreNumberedAndSent := by
  unfold Obligations.SurveyReportsAreNumberedAndSent
  intro l s hon hover hband
  obtain ⟨mod, host⟩ := surveyReport_keeps (arrive 0 s) l
  refine ⟨_, exec_surveyPeriodEnd hon hover hband l, ?_, ?_, fun p hp => ?_, (congrArg HostIf.mem host :), ?_⟩
  · rw [mod]; rfl
  · rw [mod]; rfl
  · rw [mod]; exact surveyMirror_rssi _ l hp
  · exact changesOnly_trans (changesOnly_mono (arrive_changes 0 s) (by decide))
      (changesOnly_mono (surveyReport_changes _ l) (by decide))
end

section
/-! Held commands (R46, R71, R74): a row that only lists its command or takes none changes the reports alone, and HELD_COMMAND_START
binds or refuses the one command its place names. -/

namespace Sys2Proof.Machine

/-! ### Rows that change the reports alone -/

/-- Time and the reports do not change the period of the conversions (R357). -/
theorem hkCheck_of_reports {s t : State} (h : changesOnly reportParts s t) : hkCheck s t = t := by
  have on : tbOn t = tbOn s := by
    rw [tbOn, tbOn, clkOn, clkOn, domOn_congr (dom_of_changes h rfl), domOn_congr (dom_of_changes h rfl), show t.syn = s.syn from h .syn (by decide)]
  have same : hkTiming s = hkTiming t := by
    rw [hkTiming, hkTiming, on, show t.air = s.air from h .air (by decide), show t.hka = s.hka from h .hka (by decide)]
  exact if_neg fun changed => changed.1 same

/-- A command row whose command changes the reports alone answers the state that the command leaves. -/
theorem exec_of_commandRow_reports {i : Instr} {x : CommandRow} (h : commandRow i = some x) {s t : State}
    (ht : runCmd x.f x.dt x.ref x.d s = t) (did : changesOnly reportParts s t) : exec i s = .next t := by
  obtain ⟨-, plain | checked⟩ := exec_of_commandRow h s
  · rw [plain, ht]
  · rw [checked, ht, hkCheck_of_reports did]

theorem runCmd_of_ctlOff {s : State} (h : domOn s 1 = false) (x : CommandRow) : runCmd x.f x.dt x.ref x.d s = arrive x.dt s :=
  if_neg (by simp [h])

/-- A command that something of its ring holds is listed and waits (R71, R74). -/
theorem runCmd_of_held {x : CommandRow} {s : State} (hon : domOn s 1 = true) (hheld : cmdHeld (rowState x s) (rowCmd x s) = true) :
    runCmd x.f x.dt x.ref x.d s = rowState x s := by
  have fetched : runCmd x.f x.dt x.ref x.d s = if cmdHeld (rowState x s) (rowCmd x s) then rowState x s
      else cmdStart x.f (rowState x s) (rowCmd x s) := if_pos hon
  rw [fetched, hheld, if_pos rfl]

theorem rowState_changes (x : CommandRow) (s : State) : changesOnly reportParts s (rowState x s) := rowListed_changes x s (rowCmd x s)

/-! ### What the commands of R87 do beside their effect -/

/-- Every command of R87 comes by a row of its own. -/
theorem commandDefs_row : ∀ f ∈ commandDefs, ∃ i x, commandRow i = some x ∧ x.f = f := by
  have ofRow : ∀ {f : CmdDef} (row : Nat → CmdRef → Desc → Instr), commandRow (row 0 ⟨0, 0⟩ 0) = some ⟨0, ⟨0, 0⟩, 0, f⟩ →
      ∃ i x, commandRow i = some x ∧ x.f = f := fun row h => ⟨_, _, h, rfl⟩
  simp only [commandDefs, List.forall_mem_cons, List.not_mem_nil, false_imp_iff, implies_true, and_true]
  exact ⟨ofRow .nop rfl, ofRow .modeSet rfl, ofRow .carrierCfg rfl, ofRow .synCfg rfl, ofRow .tbCfg rfl, ofRow .tbStep rfl,
    ofRow .txCtrl rfl, ofRow .powerSet rfl, ofRow .dpdCfg rfl, ofRow .coxCfg rfl, ofRow .rxCfg rfl, ofRow .capture rfl,
    ofRow .weightLoad rfl, ofRow .patternWrite rfl, ofRow .soundingCapture rfl, ofRow .layerSet rfl, ofRow .fhCfg rfl,
    ofRow .assayCtx rfl, ofRow .laneCtrl rfl, ofRow .anlRun rfl, ofRow .domainSet rfl, ofRow .hldCfg rfl, ofRow .thmCfg rfl,
    ofRow .biasQueue rfl, ofRow .unitCtrl rfl, ofRow .hbRead rfl, ofRow .hbClear rfl, ofRow .ladleMove rfl,
    ofRow .ladleWithdraw rfl⟩

/-- An opcode is that of a command of R87, or of none. -/
theorem defOf_cases (op : Nat) : (∃ i x, commandRow i = some x ∧ x.f = defOf op ∧ x.f.opcode = op) ∨ defOf op = badOpDef op := by
  unfold defOf
  cases h : commandDefs.find? fun f => f.opcode == op with
  | none => exact .inr rfl
  | some f =>
    obtain ⟨i, x, row, rfl⟩ := commandDefs_row f (List.mem_of_find?_eq_some h)
    exact .inl ⟨i, x, row, rfl, beq_iff_eq.1 (List.find?_some (p := fun f : CmdDef => f.opcode == op) h)⟩

/-- The acceptance of a command other than MODE_SET and WEIGHT_LOAD does nothing more (R45, R182). -/
theorem defOf_accepted {op : Nat} (hmode : op ≠ 0x0010) (hload : op ≠ 0x0050) : (defOf op).accepted = fun s _ => s := by
  obtain ⟨i, x, row, hf, hop⟩ | bad := defOf_cases op
  · obtain e | e | ⟨-, -, nothing⟩ := commandRow_accepted row
    · exact absurd (hop.symm.trans (congrArg CmdDef.opcode e)) hmode
    · exact absurd (hop.symm.trans (congrArg CmdDef.opcode e)) hload
    · rw [← hf, nothing]
  · rw [bad]
    rfl

/-! ### What a refusal leaves (R43, R101, R389) -/

/-- A refusal's own effects keep to LAST_CAUSE, loads, the nonce and a channel, and leave the list of commands. -/
def RefusalKeeps (s t : State) : Prop := changesOnly [.mod, .cru, .hb, .ldl, .host, .out] s t ∧ t.host.cmds = s.host.cmds

theorem RefusalKeeps.refl (s : State) : RefusalKeeps s s := ⟨changesOnly_refl _ s, rfl⟩

theorem RefusalKeeps.ite {c : Prop} [Decidable c] {s t u : State} (ht : RefusalKeeps s t) (hu : RefusalKeeps s u) :
    RefusalKeeps s (if c then t else u) := by
  split
  · exact ht
  · exact hu

/-- What changes of those parts only the device's own leaves the list of commands. -/
theorem RefusalKeeps.of_changes {s t : State} (h : changesOnly [.mod, .cru, .hb, .ldl] s t) : RefusalKeeps s t :=
  ⟨changesOnly_mono h (by decide), congrArg HostIf.cmds (h .host (by decide))⟩

theorem signal_cmds (s : State) (v : Nat) : (signal s v).host.cmds = s.host.cmds := by
  unfold signal
  extract_lets e
  split
  · rfl
  · split <;> rfl

/-- A refused move is reported by its channel's vector (R101). -/
theorem moveRefused_keeps (s : State) (ch : Nat) (c : Cmd) (r : Refuse) : RefusalKeeps s (moveRefused s ch c r) := by
  refine ⟨changesOnly_mono (moveRefused_changes s ch c r) (by decide), ?_⟩
  unfold moveRefused
  split
  · rfl
  · exact signal_cmds _ _

theorem commandRow_refused {i : Instr} {x : CommandRow} (h : commandRow i = some x) (s : State) (c : Cmd) (r : Refuse) :
    RefusalKeeps s (x.f.refused s c r) := by
  cases i <;> cases h
  case modeSet => exact .ite (.of_changes (changesOnly_mono (modeCause_changes s _ _) (by decide))) (.refl s)
  case weightLoad => exact .of_changes ((changesOnly_set_cru (by decide)).2 (changesOnly_refl _ s))
  case anlRun => exact .ite (.of_changes (changesOnly_mono (authChecked_changes s false) (by decide))) (.refl s)
  case hbClear => exact .of_changes (changesOnly_mono (hbClearRefused_changes s c r) (by decide))
  case hbRead => exact .ite (moveRefused_keeps s _ c r) (.refl s)
  case patternWrite => exact moveRefused_keeps s _ c r
  case ladleMove => exact moveRefused_keeps s _ c r
  all_goals exact .refl s

theorem defOf_refused (op : Nat) (s : State) (c : Cmd) (r : Refuse) : RefusalKeeps s ((defOf op).refused s c r) := by
  obtain ⟨i, x, row, hf, -⟩ | bad := defOf_cases op
  · exact hf ▸ commandRow_refused row s c r
  · rw [bad]
    exact .refl s

/-! ### The end of a command takes it from the list (R71, R77) -/

theorem ringSignal_cmds (s : State) (r : Nat) (now : Bool) : (ringSignal s r now).host.cmds = s.host.cmds := by
  unfold ringSignal
  extract_lets g
  split
  · exact signal_cmds _ _
  · rfl

theorem ringPut_cmds (s : State) (r v : Nat) : (ringPut s r v).host.cmds = s.host.cmds := by
  simp only [ringPut, modRing, hostWrite]

theorem recordWrite_cmds (s : State) (r : Nat) (x : Record) : (recordWrite s r x).host.cmds = s.host.cmds := by
  unfold recordWrite
  extract_lets head
  exact (ringSignal_cmds _ r _).trans (ringPut_cmds s r _)

theorem recordPush_cmds (s : State) (r : Nat) (x : Record) : (recordPush s r x).host.cmds = s.host.cmds := by
  unfold recordPush
  extract_lets g
  split
  · rfl
  · split
    · exact recordWrite_cmds s r x
    · rfl

/-- Its record written or not, the command is gone and the others stand. -/
theorem cmdEnd_cmds (s : State) (c : Cmd) (status : Nat) (trunc : Bool) :
    (cmdEnd s c status trunc).host.cmds = s.host.cmds.filter fun y => y.seq ≠ c.seq := by
  have dropped : (cmdDrop s c.seq).host.cmds = s.host.cmds.filter fun y => y.seq ≠ c.seq :=
    List.filter_congr fun y _ => by simp [beq_eq_decide]
  unfold cmdEnd
  extract_lets t
  split
  · exact dropped
  · exact (recordPush_cmds _ _ _).trans dropped

/-- A start that fails a check takes the command from the list, with what its refusal leaves (R71, R73). -/
theorem cmdStart_of_refused {op : Nat} {s : State} {c : Cmd} {r : Refuse}
    (hcheck : cmdCheck (defOf op) s { c with acceptAt := s.tb.now } = some r) :
    (cmdStart (defOf op) s c).host.cmds = s.host.cmds.filter (fun y => y.seq ≠ c.seq) ∧
      changesOnly [.mod, .cru, .hb, .ldl, .host, .out] s (cmdStart (defOf op) s c) := by
  have starts : cmdStart (defOf op) s c = cmdRefuse ((defOf op).refused s { c with acceptAt := s.tb.now } r) { c with acceptAt := s.tb.now } r := by
    simp only [cmdStart, hcheck]
  obtain ⟨did, cmds⟩ := defOf_refused op s { c with acceptAt := s.tb.now } r
  rw [starts]
  refine ⟨(cmdEnd_cmds _ _ _ _).trans ?_, changesOnly_trans did (changesOnly_mono (cmdRefuse_changes _ _ r) (by decide))⟩
  rw [cmds]

/-! ### HELD_COMMAND_START -/

/-- The command that the row names is started, unless something still holds it (R71, R74). -/
theorem exec_heldCommandStart {dt : Nat} {r : CmdRef} {s : State} {c : Cmd}
    (hfind : s.host.cmds.find? (fun y => y.ref == r && y.stage == .held) = some c) :
    exec (.heldCommandStart dt r) s =
      .next (if cmdHeld (arrive dt s) c then arrive dt s else cmdStart (defOf (dOp c.d)) (arrive dt s) c) := by
  have found : (arrive dt s).host.cmds.find? (fun y => y.ref == r && y.stage == .held) = some c := hfind
  change execHeldCommandStart dt r s = _
  simp only [execHeldCommandStart, found]

end Sys2Proof.Machine

open Sys2Proof Sys2Proof.Machine

/-- Settles O45: a row of a command that does not start lists it or nothing, and HELD_COMMAND_START is the start of that one command. -/
theorem heldCommandsWaitAndStart : Obligations.HeldCommandsWaitAndStart := by
  unfold Obligations.HeldCommandsWaitAndStart
  refine ⟨fun i x s row off => ?_, fun i x s row on held => ?_, fun dt r s c _ hfind => ?_⟩
  · exact ⟨_, exec_of_commandRow_reports row (runCmd_of_ctlOff off x) (arrive_changes x.dt s), rfl, rfl, rfl, arrive_changes x.dt s⟩
  · exact ⟨_, exec_of_commandRow_reports row (runCmd_of_held on held) (rowState_changes x s), rfl, rfl, rfl, rfl, rowState_changes x s⟩
  · intro a c' f
    have start := exec_heldCommandStart (dt := dt) hfind
    refine ⟨fun held => ?_, fun free hcheck htick hmode hload => ?_, fun free hcheck => ?_⟩
    · rw [if_pos held] at start
      exact ⟨_, start, rfl, rfl, rfl, arrive_changes dt s⟩
    · rw [free, if_neg Bool.false_ne_true, cmdStart_of_tickBound hcheck htick, defOf_accepted hmode hload] at start
      exact ⟨_, start, rfl, changesOnly_trans (arrive_changes dt s) (changesOnly_mono (cmdPut_changes _ _) (by decide)), rfl⟩
    · obtain ⟨q, hq⟩ := Option.isSome_iff_exists.1 hcheck
      rw [free, if_neg Bool.false_ne_true] at start
      obtain ⟨cmds, did⟩ := cmdStart_of_refused hq
      exact ⟨_, start, cmds, changesOnly_trans (changesOnly_mono (arrive_changes dt s) (by decide)) (changesOnly_mono did (by decide))⟩
end

section
/-! The state just after power-on reset (R57, R369, R403, R432): with SYN not yet on and no guard period in force no path may send. -/

namespace Sys2Proof.Machine

/-- In a vector of equal elements each one is that element. -/
theorem vget_replicate {α : Type} {n i : Nat} (h : i < n) (a d : α) : vget (Vector.replicate n a) i d = a := by
  simp [vget, h]

theorem vget_ofFn {α : Type} {n i : Nat} (h : i < n) (f : Fin n → α) (d : α) : vget (Vector.ofFn f) i d = f ⟨i, h⟩ := by
  simp [vget, h]

theorem txOf_reset {p : Nat} (h : p < 64) : txOf State.reset p = {} := vget_replicate h _ _

/-- Without a guard period a path injects nothing (R319). -/
theorem injecting_reset (p : Nat) : injecting State.reset p = false := by
  have none_now : frameNow State.reset = none := if_pos (by decide)
  rw [injecting, none_now]

/-- Until SYN is on the timebase stands and no path radiates in the next symbol (R232, R305, R437). -/
theorem willRadiate_reset (p : Nat) : willRadiate State.reset p = false := by
  have stands : tbOn State.reset = false := by decide
  rw [willRadiate, stands]
  rfl

theorem txQuiet_reset : txQuiet State.reset := by
  refine ⟨fun p hp => ⟨?_, ?_⟩, fun o ho => ?_⟩
  · rw [txOf_reset hp]
  · rw [paenLine, txOf_reset hp, willRadiate_reset, injecting_reset]
    rfl
  · change (vget (Vector.ofFn _) o ({} : BiasOut)).shown = 0
    rw [vget_ofFn ho]
    split <;> rfl

end Sys2Proof.Machine

open Sys2Proof Sys2Proof.Machine

/-- Settles O2: the outputs by what could drive them, and the rest by the values of the reset state. -/
theorem resetIsSafe : Obligations.ResetIsSafe := by
  unfold Obligations.ResetIsSafe
  have carriers : hasMode State.reset 0 0 = true ∧ setOf State.reset 1 = 0 := by decide
  have memories : memOk State.reset := by decide
  have commands : cmdsOk State.reset := by decide
  exact ⟨txQuiet_reset, rfl, fun f hf => congrArg Fan.duty (vget_replicate hf _ _), carriers.1, carriers.2,
    fun r hr => congrArg Ring.en (vget_ofFn hr _ _), memories, commands, rfl⟩
end

section
/-! The copy of a weight half that a fill in progress works on (R178, R184). -/

namespace Sys2Proof.Machine

/-- A state whose memories are canonical while the fill in progress in the downlink works on a copy of its half that is not: the copy
lists a byte that reads 0. No clause of `memOk` speaks of that copy. -/
def fillOfNonCanonical : State :=
  { State.reset with
    pwr := { State.reset.pwr with dom := Vector.replicate 14 .on }
    tb := { State.reset.tb with dlNext := 1 }
    cru := { State.reset.cru with filling := Vector.replicate 2 (some { mem := [(0, 0)] }) }
    pending := [.weightFill 0] }

/-- The fill goes on from its copy, and what it wrote stands in the inactive half (R178). -/
theorem weightFill_of_nonCanonical : (vget (weightFill 0 { fillOfNonCanonical with pending := [] }).cru.dl 1 {}).mem = [(0, 0)] := by
  decide +kernel

end Sys2Proof.Machine

open Sys2Proof Sys2Proof.Machine

/-- Refutes O58: a WEIGHT_FILL carries the copy its fill works on, which no hypothesis holds canonical, into the inactive half. -/
theorem not_memoriesStayCanonical : ¬ Obligations.MemoriesStayCanonical := by
  unfold Obligations.MemoriesStayCanonical
  intro h
  have before : memOk fillOfNonCanonical := by decide
  obtain ⟨-, -, -, -, -, halves, -⟩ := h fillOfNonCanonical _ before rfl
  have spoiled : Memory.wf 0 (vget (weightFill 0 { fillOfNonCanonical with pending := [] }).cru.dl 1 {}).mem = false := by
    rw [weightFill_of_nonCanonical]
    decide
  exact Bool.false_ne_true (spoiled.symm.trans (halves 1 (by decide)).1)
end

section
/-! Fields of a number: what `bits` takes out of a word put together from shifted fields (R12, R78), and bytes that are written and
read back (R13). -/

namespace Sys2Proof.Machine

/-! ### Fields -/

theorem bits_or (a b hi lo : Nat) : bits (a ||| b) hi lo = bits a hi lo ||| bits b hi lo := by
  simp only [bits, Nat.shiftRight_or_distrib, Nat.or_mod_two_pow]

/-- A field that lies above the bits asked for adds nothing to them. -/
theorem bits_shift_above (v : Nat) {k hi lo : Nat} (h : hi < k) : bits (v <<< k) hi lo = 0 := by
  unfold bits
  refine Nat.eq_of_testBit_eq fun i => ?_
  simp only [Nat.testBit_mod_two_pow, Nat.testBit_shiftRight, Nat.testBit_shiftLeft, Nat.zero_testBit, Bool.and_eq_false_imp,
    decide_eq_true_eq]
  omega

/-- A number below 2^lo has no bits from lo on. -/
theorem bits_of_lt {v lo : Nat} (h : v < 2 ^ lo) (hi : Nat) : bits v hi lo = 0 := by
  rw [bits, Nat.shiftRight_eq_div_pow, Nat.div_eq_of_lt h, Nat.zero_mod]

/-- A number of w bits has none from any place above them. -/
theorem bits_of_small {v w lo : Nat} (hv : v < 2 ^ w) (h : w ≤ lo) (hi : Nat) : bits v hi lo = 0 :=
  bits_of_lt (hv.trans_le (Nat.pow_le_pow_right (by decide) h)) hi

/-- A field of w bits that lies below the bits asked for adds nothing to them. -/
theorem bits_shift_below {v w k lo : Nat} (hv : v < 2 ^ w) (h : k + w ≤ lo) (hi : Nat) : bits (v <<< k) hi lo = 0 := by
  refine bits_of_lt ?_ hi
  calc v <<< k = v * 2 ^ k := Nat.shiftLeft_eq v k
    _ < 2 ^ w * 2 ^ k := Nat.mul_lt_mul_of_pos_right hv (Nat.two_pow_pos k)
    _ = 2 ^ (k + w) := by rw [← pow_add, Nat.add_comm]
    _ ≤ 2 ^ lo := Nat.pow_le_pow_right (by decide) h

/-- The bits of a field, counted from its own lowest one. -/
theorem bits_shift {k lo hi : Nat} (v : Nat) (hk : k ≤ lo) (hh : lo ≤ hi) : bits (v <<< k) hi lo = bits v (hi - k) (lo - k) := by
  have width : hi + 1 - lo = hi - k + 1 - (lo - k) := by omega
  unfold bits
  rw [← width]
  refine Nat.eq_of_testBit_eq fun i => ?_
  have place : lo + i - k = lo - k + i := by omega
  have reach : k ≤ lo + i := by omega
  simp only [Nat.testBit_mod_two_pow, Nat.testBit_shiftRight, Nat.testBit_shiftLeft, reach, decide_true, Bool.true_and, place]

/-- A number of at most w bits is its own field from bit 0. -/
theorem bits_self {v hi : Nat} (h : v < 2 ^ (hi + 1)) : bits v hi 0 = v := Nat.mod_eq_of_lt h

/-- What a word cuts off lies above the bits asked for. -/
theorem bits_mod {v w hi lo : Nat} (h : hi < w) (hl : lo ≤ hi) : bits (v % 2 ^ w) hi lo = bits v hi lo := by
  unfold bits
  refine Nat.eq_of_testBit_eq fun i => ?_
  simp only [Nat.testBit_mod_two_pow, Nat.testBit_shiftRight]
  by_cases hi' : i < hi + 1 - lo
  · have inside : lo + i < w := by omega
    simp only [hi', inside, decide_true, Bool.true_and]
  · simp only [hi', decide_false, Bool.false_and]

theorem bits_ofNat {w hi lo : Nat} (v : Nat) (h : hi < w) (hl : lo ≤ hi) : bits (BitVec.ofNat w v).toNat hi lo = bits v hi lo := by
  rw [BitVec.toNat_ofNat, bits_mod h hl]

theorem bits_lt (v hi lo : Nat) : bits v hi lo < 2 ^ (hi + 1 - lo) := Nat.mod_lt _ (Nat.two_pow_pos _)

theorem bits_zero (hi lo : Nat) : bits 0 hi lo = 0 := by simp [bits]

/-! ### Bytes written and read back -/

theorem leNat_bytesLE : ∀ n v, leNat (bytesLE n v) = v % 256 ^ n
  | 0, v => by simp [bytesLE, leNat, Nat.mod_one]
  | n + 1, v => by
    have low : (BitVec.ofNat 8 v).toNat = v % 256 := rfl
    rw [bytesLE, leNat, leNat_bytesLE n, low, pow_succ', Nat.mod_mul]

theorem memReadBytes_succ (d : Byte) (m : Memory) (a n : Nat) :
    memReadBytes d m a (n + 1) = memRead d m a :: memReadBytes d m (a + 1) n := by
  simp only [memReadBytes, List.range_succ_eq_map, List.map_cons, List.map_map, Nat.add_zero]
  congr 2
  funext i
  simp only [Function.comp, Nat.add_right_comm, Nat.add_assoc]

/-- Bytes written to a canonical memory are read back. -/
theorem memReadBytes_memWriteBytes_same (d : Byte) : ∀ (bs : List Byte) (m : Memory) (a : Nat), Memory.wf d m = true →
    memReadBytes d (memWriteBytes d m a bs) a bs.length = bs
  | [], _, _, _ => rfl
  | b :: bs, m, a, h => by
    have kept := memWrite_wf d m a b h
    have later : memReadBytes d (memWriteBytes d (memWrite d m a b) (a + 1) bs) (a + 1) bs.length = bs :=
      memReadBytes_memWriteBytes_same d bs _ (a + 1) kept
    have first : memRead d (memWriteBytes d (memWrite d m a b) (a + 1) bs) a = b :=
      (memRead_memWriteBytes_other d _ (a + 1) a bs (.inl (Nat.lt_succ_self a))).trans (memRead_memWrite_same d a b m 0 h)
    have written : memWriteBytes d m a (b :: bs) = memWriteBytes d (memWrite d m a b) (a + 1) bs := rfl
    rw [List.length_cons, memReadBytes_succ, written, first, later]

end Sys2Proof.Machine
end

section
/-! What records, events and signals do to the host interface (R68, R77, R82–R91): the rings' own counts, host memory and the
MSI-X table, and nothing else of it. -/

namespace Sys2Proof.Machine

/-! ### Rings -/

theorem ringOf_modRing_same (s : State) {r : Nat} (h : r < 36) (f : Ring → Ring) : ringOf (modRing s r f) r = f (ringOf s r) :=
  vget_vmod_same _ h f _

theorem ringOf_modRing_ne (s : State) {r q : Nat} (h : r ≠ q) (f : Ring → Ring) : ringOf (modRing s r f) q = ringOf s q :=
  vget_vmod_ne _ h f _

/-- A ring that is enabled exists. -/
theorem ring_exists {s : State} {r : Nat} (h : (ringOf s r).en = true) : r < 36 := by
  by_contra none_there
  rw [ringOf_none s r none_there] at h
  cases h

/-- A ring as the device's reports leave it: what its place, its settings and the host's doorbells say stands. -/
def reportedRing (g h : Ring) : Ring :=
  { g with prod := h.prod, held := h.held, lost := h.lost, unsig := h.unsig, unsigAt := h.unsigAt, timerAt := h.timerAt, overflow := h.overflow }

/-- Reports change the counts of completion and event rings, and nothing of a command ring. -/
structure RingsReported (s t : State) : Prop where
  ring : ∀ r, ringOf t r = reportedRing (ringOf s r) (ringOf t r)
  command : ∀ r < 16, ringOf t r = ringOf s r

theorem RingsReported.of_eq {s t : State} (h : t.host.rings = s.host.rings) : RingsReported s t := by
  have same : ∀ r, ringOf t r = ringOf s r := fun r => by rw [ringOf, ringOf, h]
  exact ⟨fun r => by rw [same]; rfl, fun r _ => same r⟩

theorem RingsReported.trans {s t u : State} (h : RingsReported s t) (k : RingsReported t u) : RingsReported s u := by
  refine ⟨fun r => (k.ring r).trans ?_, fun r hr => (k.command r hr).trans (h.command r hr)⟩
  rw [h.ring r]
  rfl

theorem RingsReported.en {s t : State} (h : RingsReported s t) (r : Nat) : (ringOf t r).en = (ringOf s r).en := by rw [h.ring r]; rfl
theorem RingsReported.cons {s t : State} (h : RingsReported s t) (r : Nat) : (ringOf t r).cons = (ringOf s r).cons := by rw [h.ring r]; rfl
theorem RingsReported.lastDb {s t : State} (h : RingsReported s t) (r : Nat) : (ringOf t r).lastDb = (ringOf s r).lastDb := by
  rw [h.ring r]; rfl
theorem RingsReported.err {s t : State} (h : RingsReported s t) (r : Nat) : (ringOf t r).err = (ringOf s r).err := by rw [h.ring r]; rfl

/-- A change of the device's own counts of a completion or event ring. -/
theorem RingsReported.modRing (s : State) {r : Nat} (lo : 16 ≤ r) (f : Ring → Ring) (hf : ∀ g, f g = reportedRing g (f g)) :
    RingsReported s (modRing s r f) := by
  refine ⟨fun q => ?_, fun q hq => ringOf_modRing_ne s (by omega) f⟩
  by_cases same : r = q
  · subst same
    by_cases hr : r < 36
    · rw [ringOf_modRing_same s hr]
      exact hf _
    · rw [ringOf_none _ r hr, ringOf_none s r hr]
      rfl
  · rw [ringOf_modRing_ne s same]
    rfl

/-! ### Reports -/

/-- Nothing but reports: of the host interface the rings' counts, host memory and the MSI-X table. -/
structure Reported (s t : State) : Prop extends RingsReported s t where
  host : t.host = { s.host with rings := t.host.rings, mem := t.host.mem, msix := t.host.msix }

theorem Reported.of_host {s t : State} (h : t.host = s.host) : Reported s t := ⟨.of_eq (by rw [h]), by rw [h]⟩

theorem Reported.refl (s : State) : Reported s s := .of_host rfl

theorem Reported.trans {s t u : State} (h : Reported s t) (k : Reported t u) : Reported s u :=
  ⟨h.toRingsReported.trans k.toRingsReported, k.host.trans (by rw [h.host])⟩

theorem Reported.ite {s t u : State} {c : Prop} [Decidable c] (ht : Reported s t) (hu : Reported s u) :
    Reported s (if c then t else u) := by
  split
  · exact ht
  · exact hu

theorem Reported.foldl {α : Type} {f : State → α → State} (h : ∀ s a, Reported s (f s a)) : ∀ (l : List α) (s : State), Reported s (l.foldl f s)
  | [], s => .refl s
  | a :: l, s => (h s a).trans (Reported.foldl h l (f s a))

theorem Reported.cmds {s t : State} (h : Reported s t) : t.host.cmds = s.host.cmds := by rw [h.host]
theorem Reported.nextSeq {s t : State} (h : Reported s t) : t.host.nextSeq = s.host.nextSeq := by rw [h.host]
theorem Reported.ringErr {s t : State} (h : Reported s t) : t.host.ringErr = s.host.ringErr := by rw [h.host]
theorem Reported.aerRead {s t : State} (h : Reported s t) : t.host.aerRead = s.host.aerRead := by rw [h.host]

theorem modRing_reported (s : State) {r : Nat} (lo : 16 ≤ r) (f : Ring → Ring) (hf : ∀ g, f g = reportedRing g (f g)) :
    Reported s (modRing s r f) := ⟨.modRing s lo f hf, rfl⟩

theorem hostWrite_reported (s : State) (a : Nat) (bs : List Byte) : Reported s (hostWrite s a bs) := ⟨.of_eq rfl, rfl⟩

theorem signal_reported (s : State) (v : Nat) : Reported s (signal s v) := by
  unfold signal
  extract_lets e
  exact .ite (.refl s) (.ite ⟨.of_eq rfl, rfl⟩ (.of_host rfl))

theorem ringSignal_reported (s : State) {r : Nat} (lo : 16 ≤ r) (now : Bool) : Reported s (ringSignal s r now) := by
  unfold ringSignal
  extract_lets g
  exact .ite ((modRing_reported s lo _ fun _ => rfl).trans (signal_reported _ _)) (modRing_reported s lo _ fun _ => rfl)

theorem ringPut_reported (s : State) {r : Nat} (lo : 16 ≤ r) (v : Nat) : Reported s (ringPut s r v) := by
  unfold ringPut
  exact (hostWrite_reported s _ _).trans (modRing_reported _ lo _ fun _ => rfl)

theorem recordWrite_reported (s : State) {r : Nat} (lo : 16 ≤ r) (x : Record) : Reported s (recordWrite s r x) := by
  unfold recordWrite
  exact (ringPut_reported s lo _).trans (ringSignal_reported _ lo _)

theorem recordPush_reported (s : State) {r : Nat} (lo : 16 ≤ r) (x : Record) : Reported s (recordPush s r x) := by
  unfold recordPush
  exact .ite (modRing_reported s lo _ fun _ => rfl) (.ite (recordWrite_reported s lo x) (modRing_reported s lo _ fun _ => rfl))

theorem recordDrain_reported {r : Nat} (lo : 16 ≤ r) : ∀ (n : Nat) (s : State), Reported s (recordDrain n s r)
  | 0, s => .refl s
  | n + 1, s => by
    unfold recordDrain
    split
    · exact .refl s
    · exact .ite (((modRing_reported s lo _ fun _ => rfl).trans (recordWrite_reported _ lo _)).trans (recordDrain_reported lo n _)) (.refl s)

theorem evtSlots_reported (s : State) {r : Nat} (lo : 16 ≤ r) (e : Event) : Reported s (evtSlots s r e) := by
  unfold evtSlots
  exact (ringPut_reported s lo _).trans (.foldl (fun s _ => ringPut_reported s lo _) _ _)

theorem evtOverflow_reported (s : State) {r : Nat} (lo : 16 ≤ r) : Reported s (evtOverflow s r) := by
  unfold evtOverflow
  extract_lets g
  exact .ite (.refl s) (((evtSlots_reported s lo _).trans (modRing_reported _ lo _ fun _ => rfl)).trans (ringSignal_reported _ lo _))

theorem evtTo_reported (e : Event) (s : State) {r : Nat} (lo : 16 ≤ r) : Reported s (evtTo e s r) := by
  unfold evtTo
  extract_lets t g
  have caught : Reported s t := evtOverflow_reported s lo
  exact .ite (caught.trans (modRing_reported t lo _ fun _ => rfl))
    (caught.trans ((evtSlots_reported t lo e).trans (ringSignal_reported _ lo _)))

theorem postEvent_reported (s : State) (e : Event) : Reported s (postEvent s e) := by
  unfold postEvent
  exact .ite (.foldl (fun s i => .ite (evtTo_reported e s (by omega)) (.refl s)) _ s) (.ite (.ite (.of_host rfl) (.of_host rfl)) (.refl s))

theorem post_reported (s : State) (code cls inst data : Nat) : Reported s (post s code cls inst data) := postEvent_reported s _

/-- The end of a command touches no ring but by its record. -/
theorem cmdEnd_rings (s : State) (c : Cmd) (status : Nat) (trunc : Bool) : RingsReported s (cmdEnd s c status trunc) := by
  unfold cmdEnd
  extract_lets t
  have dropped : RingsReported s t := .of_eq rfl
  split
  · exact dropped
  · exact dropped.trans (recordPush_reported t (Nat.le_add_right 16 _) _).toRingsReported

end Sys2Proof.Machine
end

section
/-! Completion records (R77, R78, R80): the fields of a record, and the slot that it is written into. -/

namespace Sys2Proof.Machine

/-! ### The fields of a record -/

/-- A record as bits, before CMD_HEAD and PHASE, of a command that is neither limited nor late and has no EFFECT_TICK (R78). -/
def plainRecord (op : Nat) (c : Cmd) (status : Nat) : Nat :=
  op ||| c.cause <<< 16 ||| (status * 16) <<< 24 ||| dH c.d 4 <<< 32 ||| c.ref.ring.val <<< 48 ||| c.ref.index.toNat <<< 64 |||
    c.result.toNat <<< 192

theorem recordOf_plain {op status : Nat} {c : Cmd} (hlim : c.limited = false) (hlate : c.late = false) (heff : c.effect = none) :
    (recordOf op c status false).bits.toNat = plainRecord op c status % 2 ^ 256 := by
  have quiet : b2n false * 2 + b2n false * 4 + b2n false * 8 + status * 16 = status * 16 := by simp [b2n]
  simp only [recordOf, plainRecord, BitVec.toNat_ofNat, hlim, hlate, heff, quiet, Nat.or_zero]

/-- A slot as it is written: the record with CMD_HEAD and PHASE (R78, R80). -/
def slotWord (record head phase : Nat) : Nat := (record ||| head <<< 96 ||| phase <<< 24) % 2 ^ 256

/-- What the slot of a plain record reads, field by field (R78). -/
structure SlotFields (v op phase status : Nat) (c : Cmd) : Prop where
  opcode : bits v 15 0 = op
  cause : bits v 23 16 = c.cause
  phase : bits v 24 24 = phase
  flags : bits v 31 25 = status * 8
  status : bits v 30 28 = status
  tag : bits v 47 32 = dH c.d 4
  ring : bits v 55 48 = c.ref.ring.val
  index : bits v 95 64 = c.ref.index.toNat

theorem dH_lt (d : Desc) (b : Nat) : dH d b < 2 ^ 16 := by
  have width : 8 * b + 15 + 1 - 8 * b = 16 := by omega
  have := bits_lt d.toNat (8 * b + 15) (8 * b)
  rwa [width] at this

theorem slotWord_fields {op status : Nat} {c : Cmd} (head : Nat) {phase : Nat} (hop : op < 2 ^ 16) (hcause : c.cause < 2 ^ 8)
    (hstatus : status < 2 ^ 3) (hphase : phase < 2 ^ 1) :
    SlotFields (slotWord (plainRecord op c status % 2 ^ 256) head phase) op phase status c := by
  have htag := dH_lt c.d 4
  have hring : c.ref.ring.val < 2 ^ 8 := by omega
  have hindex : c.ref.index.toNat < 2 ^ 32 := c.ref.index.isLt
  have hflags : status * 16 < 2 ^ 8 := by omega
  have field : ∀ hi lo, hi < 96 → lo ≤ hi → bits (slotWord (plainRecord op c status % 2 ^ 256) head phase) hi lo =
      bits op hi lo ||| bits (c.cause <<< 16) hi lo ||| bits ((status * 16) <<< 24) hi lo ||| bits (dH c.d 4 <<< 32) hi lo |||
        bits (c.ref.ring.val <<< 48) hi lo ||| bits (c.ref.index.toNat <<< 64) hi lo ||| bits (phase <<< 24) hi lo := by
    intro hi lo hh hl
    rw [slotWord, bits_mod (by omega) hl, bits_or, bits_or, bits_mod (by omega) hl, plainRecord]
    simp only [bits_or, bits_shift_above head hh, bits_shift_above c.result.toNat (show hi < 192 by omega), Nat.or_zero]
  constructor
  · rw [field 15 0 (by decide) (by decide)]
    simp [bits_shift_above, bits_self hop]
  · rw [field 23 16 (by decide) (by decide)]
    simp [bits_shift_above, bits_shift, bits_of_small hop, bits_self hcause]
  · rw [field 24 24 (by decide) (by decide)]
    have low : bits (status * 16) 0 0 = 0 := by simp [bits]; omega
    simp [bits_shift_above, bits_shift, bits_shift_below hcause, bits_of_small hop, bits_self hphase, low]
  · rw [field 31 25 (by decide) (by decide)]
    have high : bits (status * 16) 7 1 = status * 8 := by simp [bits, Nat.shiftRight_eq_div_pow]; omega
    simp [bits_shift_above, bits_shift, bits_shift_below hcause, bits_of_small hop, bits_of_small hphase, high]
  · rw [field 30 28 (by decide) (by decide)]
    have high : bits (status * 16) 6 4 = status := by simp [bits, Nat.shiftRight_eq_div_pow]; omega
    simp [bits_shift_above, bits_shift, bits_shift_below hcause, bits_shift_below hphase, bits_of_small hop, high]
  · rw [field 47 32 (by decide) (by decide)]
    simp [bits_shift_above, bits_shift, bits_shift_below hcause, bits_shift_below hflags, bits_shift_below hphase,
      bits_of_small hop, bits_self htag]
  · rw [field 55 48 (by decide) (by decide)]
    simp [bits_shift_above, bits_shift, bits_shift_below hcause, bits_shift_below hflags, bits_shift_below hphase,
      bits_shift_below htag, bits_of_small hop, bits_self hring]
  · rw [field 95 64 (by decide) (by decide)]
    simp [bits_shift, bits_shift_below hcause, bits_shift_below hflags, bits_shift_below hphase, bits_shift_below htag,
      bits_shift_below hring, bits_of_small hop, bits_self hindex]

/-- A held record shows its cause and status. -/
theorem recordOf_cause_status {op status : Nat} {c : Cmd} (hlim : c.limited = false) (hlate : c.late = false) (heff : c.effect = none)
    (hop : op < 2 ^ 16) (hcause : c.cause < 2 ^ 8) (hstatus : status < 2 ^ 3) :
    bits (recordOf op c status false).bits.toNat 23 16 = c.cause ∧ bits (recordOf op c status false).bits.toNat 30 28 = status := by
  have fields := slotWord_fields (c := c) 0 hop hcause hstatus (by decide : 0 < 2 ^ 1)
  have bare : slotWord (plainRecord op c status % 2 ^ 256) 0 0 = plainRecord op c status % 2 ^ 256 := by simp [slotWord]
  rw [bare] at fields
  rw [recordOf_plain hlim hlate heff]
  exact ⟨fields.cause, fields.status⟩

/-! ### The slot that a record is written into -/

theorem signal_rings (s : State) (v : Nat) : (signal s v).host.rings = s.host.rings := by
  unfold signal
  extract_lets e
  split
  · rfl
  · split <;> rfl

theorem signal_mem (s : State) (v : Nat) : (signal s v).host.mem = s.host.mem := by
  unfold signal
  extract_lets e
  split
  · rfl
  · split <;> rfl

theorem ringSignal_mem (s : State) (r : Nat) (now : Bool) : (ringSignal s r now).host.mem = s.host.mem := by
  unfold ringSignal
  extract_lets g
  split
  · exact signal_mem _ _
  · rfl

theorem ringSignal_prod (s : State) {r : Nat} (h : r < 36) (now : Bool) : (ringOf (ringSignal s r now) r).prod = (ringOf s r).prod := by
  unfold ringSignal
  extract_lets g
  split
  · rw [ringOf, signal_rings]
    exact (congrArg Ring.prod (ringOf_modRing_same s h _)).trans rfl
  · exact (congrArg Ring.prod (ringOf_modRing_same s h _)).trans rfl

/-- PHASE of the slot that a ring writes next: 1 on the first pass (R80). -/
def ringPhase (g : Ring) : Nat := b2n (decide (g.prod.toNat / ringSize g % 2 = 0))

theorem ringPhase_lt (g : Ring) : ringPhase g < 2 ^ 1 := by
  unfold ringPhase b2n
  split <;> decide

/-- Where the slot of a ring's producer index lies (R65). -/
def ringSlot (g : Ring) : Nat := ringBase g + 32 * (g.prod.toNat % ringSize g)

theorem ringOf_hostWrite (s : State) (a : Nat) (bs : List Byte) (r : Nat) : ringOf (hostWrite s a bs) r = ringOf s r := rfl

/-- A slot is put into a ring by a write to host memory and a step of the producer index (R65, R80). -/
theorem ringPut_eq (s : State) (r v : Nat) : ringPut s r v =
    modRing (hostWrite s (ringSlot (ringOf s r)) (bytesLE 32 (v ||| ringPhase (ringOf s r) <<< 24))) r fun g => { g with prod := g.prod + 1 } := by
  simp only [ringPut, ringSlot, ringPhase]

theorem ringPut_mem (s : State) (r v : Nat) : (ringPut s r v).host.mem =
    memWriteBytes 0 s.host.mem (ringSlot (ringOf s r)) (bytesLE 32 (v ||| ringPhase (ringOf s r) <<< 24)) := by
  simp only [ringPut_eq, modRing, hostWrite]

theorem ringPut_prod (s : State) {r : Nat} (hr : r < 36) (v : Nat) : (ringOf (ringPut s r v) r).prod = (ringOf s r).prod + 1 := by
  rw [ringPut_eq, ringOf_modRing_same _ hr, ringOf_hostWrite]

/-- A slot put into a ring reads as it was put, with PHASE (R65, R80). -/
theorem ringPut_slot {s : State} (r : Nat) (hmem : Memory.wf 0 s.host.mem = true) (v : Nat) :
    leNat (hostRead (ringPut s r v) (ringSlot (ringOf s r)) 32) = (v ||| ringPhase (ringOf s r) <<< 24) % 2 ^ 256 := by
  have word : (256 : Nat) ^ 32 = 2 ^ 256 := by norm_num
  have bytes := memReadBytes_memWriteBytes_same 0 (bytesLE 32 (v ||| ringPhase (ringOf s r) <<< 24)) s.host.mem (ringSlot (ringOf s r)) hmem
  rw [bytesLE_length] at bytes
  rw [hostRead, ringPut_mem, bytes, leNat_bytesLE, word]

/-- The record stands in the slot of the producer index, which moves on (R65, R78, R80). -/
theorem recordWrite_slot {s : State} {r : Nat} (hr : r < 36) (hmem : Memory.wf 0 s.host.mem = true) (x : Record) :
    (ringOf (recordWrite s r x) r).prod = (ringOf s r).prod + 1 ∧
      leNat (hostRead (recordWrite s r x) (ringSlot (ringOf s r)) 32) =
        slotWord x.bits.toNat (ringOf s (bits x.bits.toNat 55 48)).cons.toNat (ringPhase (ringOf s r)) := by
  rw [recordWrite, ringSignal_prod _ hr, hostRead, ringSignal_mem]
  exact ⟨ringPut_prod s hr _, ringPut_slot r hmem _⟩

theorem recordPush_of_disabled {s : State} {r : Nat} (h : (ringOf s r).en = false) (x : Record) :
    recordPush s r x = modRing s r fun g => { g with lost := satTo 255 (g.lost + 1) } := by simp [recordPush, h]

theorem recordPush_of_waiting {s : State} {r : Nat} (h : (ringOf s r).en = true) (full : (ringOf s r).held ≠ [] ∨ ringFree (ringOf s r) = 0)
    (x : Record) : recordPush s r x = modRing s r fun g => { g with held := g.held ++ [x] } := by
  have waits : ¬ ((ringOf s r).held.isEmpty = true ∧ 0 < ringFree (ringOf s r) ∧ domOn s 1 = true) := by
    rintro ⟨none_held, free, -⟩
    obtain some_held | no_slot := full
    · exact some_held (List.isEmpty_iff.1 none_held)
    · omega
  simp only [recordPush, h, Bool.not_true, if_neg Bool.false_ne_true, if_neg waits]

theorem recordPush_of_free {s : State} {r : Nat} (h : (ringOf s r).en = true) (none_held : (ringOf s r).held = [])
    (free : 0 < ringFree (ringOf s r)) (hon : domOn s 1 = true) (x : Record) : recordPush s r x = recordWrite s r x := by
  simp [recordPush, h, none_held, free, hon]

end Sys2Proof.Machine
end

section
/-! The end of a command by its record (R71, R77, R78): refusals of a row's command, and NOP. -/

namespace Sys2Proof.Machine

/-! ### The record of an end -/

/-- How the end of a command is recorded on completion ring n (R77, R78): counted as lost where the ring is disabled, held behind the
records that wait, or written into the slot of the producer index. -/
structure EndRecorded (s t : State) (n : Nat) (c : Cmd) (status : Nat) : Prop where
  lost : (ringOf s n).en = false → n < 36 → (ringOf t n).lost = min 255 ((ringOf s n).lost + 1)
  waits : (ringOf s n).en = true → (ringOf s n).held ≠ [] ∨ ringFree (ringOf s n) = 0 →
    ∃ r, (ringOf t n).held = (ringOf s n).held ++ [r] ∧ bits r.bits.toNat 23 16 = c.cause ∧ bits r.bits.toNat 30 28 = status
  written : (ringOf s n).en = true → (ringOf s n).held = [] → 0 < ringFree (ringOf s n) →
    (ringOf t n).prod = (ringOf s n).prod + 1 ∧
      SlotFields (leNat (hostRead t (ringSlot (ringOf s n)) 32)) (dOp c.d) (ringPhase (ringOf s n)) status c

theorem dOp_lt (d : Desc) : dOp d < 2 ^ 16 := bits_lt _ 15 0

/-- A command that ends neither silently nor in quiet has its record pushed (R71, R74, R77). -/
theorem cmdEnd_recorded {s : State} {c : Cmd} {status : Nat} (hsilent : c.silent = false) (hquiet : (dQuiet c.d && status == 0) = false)
    (hlim : c.limited = false) (hlate : c.late = false) (heff : c.effect = none) (hcause : c.cause < 2 ^ 8) (hstatus : status < 2 ^ 3)
    (hmem : Memory.wf 0 s.host.mem = true) (hon : domOn s 1 = true) :
    EndRecorded s (cmdEnd s c status) (16 + (ringOf s c.ref.ring.val).cplRing) c status := by
  have pushed : cmdEnd s c status =
      recordPush (cmdDrop s c.seq) (16 + (ringOf s c.ref.ring.val).cplRing) (recordOf (dOp c.d) c status false) := by
    simp only [cmdEnd, hsilent, hquiet, Bool.false_or, Bool.false_and, if_neg Bool.false_ne_true]
    rfl
  rw [pushed]
  generalize hn : 16 + (ringOf s c.ref.ring.val).cplRing = n
  have same : ringOf (cmdDrop s c.seq) n = ringOf s n := rfl
  refine ⟨fun off hr => ?_, fun on full => ?_, fun on none_held free => ?_⟩
  · rw [recordPush_of_disabled (same ▸ off), ringOf_modRing_same _ hr, same]
    rfl
  · rw [recordPush_of_waiting (same ▸ on) (same ▸ full), ringOf_modRing_same _ (ring_exists on), same]
    exact ⟨_, rfl, recordOf_cause_status hlim hlate heff (dOp_lt c.d) hcause hstatus⟩
  · have wf : Memory.wf 0 (cmdDrop s c.seq).host.mem = true := hmem
    rw [recordPush_of_free (s := cmdDrop s c.seq) (same ▸ on) (same ▸ none_held) (same ▸ free) hon]
    obtain ⟨prod, slot⟩ := recordWrite_slot (s := cmdDrop s c.seq) (ring_exists on) wf (recordOf (dOp c.d) c status false)
    refine ⟨prod, ?_⟩
    rw [← same, slot, recordOf_plain hlim hlate heff]
    exact slotWord_fields _ (dOp_lt c.d) hcause hstatus (ringPhase_lt _)

/-! ### Refused rows (R73) -/

/-- The rings and host memory stand. -/
def SlotsKept (s t : State) : Prop := t.host.rings = s.host.rings ∧ t.host.mem = s.host.mem

theorem SlotsKept.refl (s : State) : SlotsKept s s := ⟨rfl, rfl⟩

theorem SlotsKept.ite {s t u : State} {c : Prop} [Decidable c] (ht : SlotsKept s t) (hu : SlotsKept s u) :
    SlotsKept s (if c then t else u) := by
  split
  · exact ht
  · exact hu

theorem SlotsKept.of_changes {l : List Part} {s t : State} (h : changesOnly l s t) (hl : .host ∉ l := by decide) : SlotsKept s t := by
  have same : t.host = s.host := h .host hl
  exact ⟨by rw [same], by rw [same]⟩

theorem moveRefused_slots (s : State) (ch : Nat) (c : Cmd) (r : Refuse) : SlotsKept s (moveRefused s ch c r) := by
  unfold moveRefused
  exact .ite (.refl s) ⟨signal_rings _ _, signal_mem _ _⟩

/-- A refusal's own effects leave the rings and host memory alone. -/
theorem commandRow_refused_slots {i : Instr} {x : CommandRow} (h : commandRow i = some x) (s : State) (c : Cmd) (r : Refuse) :
    SlotsKept s (x.f.refused s c r) := by
  cases i <;> cases h
  case modeSet => exact .ite (.of_changes (modeCause_changes s _ _)) (.refl s)
  case anlRun => exact .ite (.of_changes (authChecked_changes s false)) (.refl s)
  case hbClear => exact .of_changes (hbClearRefused_changes s c r)
  case hbRead => exact .ite (moveRefused_slots s _ c r) (.refl s)
  case patternWrite => exact moveRefused_slots s _ c r
  case ladleMove => exact moveRefused_slots s _ c r
  all_goals exact .refl s

/-- Only a few commands' refusals leave anything more than the record (R43, R101, R182, R389). -/
theorem commandRow_refused_nothing {i : Instr} {x : CommandRow} (h : commandRow i = some x)
    (hop : x.f.opcode ∉ [0x0010, 0x0050, 0x0051, 0x0080, 0x00B1, 0x00B2, 0x00C0]) : x.f.refused = fun s _ _ => s := by
  cases i <;> cases h
  case modeSet | weightLoad | patternWrite | anlRun | hbRead | hbClear | ladleMove => exact absurd (List.mem_of_elem_eq_true rfl) hop
  all_goals rfl

/-- What does not touch the clocks, their domains, the pattern or the converter discards no conversion (R357). -/
theorem hkCheck_of_changes {l : List Part} {s t : State} (h : changesOnly l s t) (hl : ∀ p ∈ [Part.pwr, .syn, .air, .hka], p ∉ l := by decide) :
    hkCheck s t = t := by
  have dom : t.pwr.dom = s.pwr.dom := by rw [show t.pwr = s.pwr from h .pwr (hl _ (by decide))]
  have on : tbOn t = tbOn s := by
    rw [tbOn, tbOn, clkOn, clkOn, domOn_congr dom, domOn_congr dom, show t.syn = s.syn from h .syn (hl _ (by decide))]
  have same : hkTiming s = hkTiming t := by
    rw [hkTiming, hkTiming, on, show t.air = s.air from h .air (hl _ (by decide)), show t.hka = s.hka from h .hka (hl _ (by decide))]
  exact if_neg fun changed => changed.1 same

theorem rowStart_not_held {x : CommandRow} {s : State} (h : cmdHeld (rowState x s) (rowStart x s) = false) :
    cmdHeld (rowState x s) (rowCmd x s) = false := h

/-- A row whose command fails a check refuses it (R71, R73). -/
theorem exec_of_refusedRow {i : Instr} {x : CommandRow} {s : State} {q : Refuse} (h : commandRow i = some x) (hon : domOn s 1 = true)
    (hheld : cmdHeld (rowState x s) (rowStart x s) = false) (hcheck : cmdCheck x.f (rowState x s) (rowStart x s) = some q) :
    exec i s = .next (cmdRefuse (x.f.refused (rowState x s) (rowStart x s) q) (rowStart x s) q) ∧
      changesOnly (withReports [.mod, .cru, .hb, .ldl]) s (cmdRefuse (x.f.refused (rowState x s) (rowStart x s) q) (rowStart x s) q) := by
  have fetched : runCmd x.f x.dt x.ref x.d s = if cmdHeld (rowState x s) (rowCmd x s) then rowState x s
      else cmdStart x.f (rowState x s) (rowCmd x s) := if_pos hon
  have started : cmdStart x.f (rowState x s) (rowCmd x s) = cmdRefuse (x.f.refused (rowState x s) (rowStart x s) q) (rowStart x s) q := by
    have check : cmdCheck x.f (rowState x s) { rowCmd x s with acceptAt := (rowState x s).tb.now } = some q := hcheck
    simp only [cmdStart, check]
    rfl
  rw [rowStart_not_held hheld, if_neg Bool.false_ne_true, started] at fetched
  have did : changesOnly (withReports [.mod, .cru, .hb, .ldl]) s (cmdRefuse (x.f.refused (rowState x s) (rowStart x s) q) (rowStart x s) q) :=
    changesOnly_trans (changesOnly_mono (rowState_changes x s) (by decide)) (changesOnly_trans
      (changesOnly_mono (commandRow_refused h _ _ q).1 (by decide)) (changesOnly_reports (cmdRefuse_changes _ _ q)))
  refine ⟨?_, did⟩
  obtain ⟨-, plain | checked⟩ := exec_of_commandRow h s
  · rw [plain, fetched]
  · rw [checked, fetched, hkCheck_of_changes did]

/-- The row's own command ended, the list is as it was before the row. -/
theorem rowListed_without (x : CommandRow) {s : State} {y : Cmd} (hok : cmdsOk s) (hy : y.seq = s.host.nextSeq) :
    (rowListed x s y).host.cmds.filter (fun z => z.seq ≠ s.host.nextSeq) = s.host.cmds := by
  have others : s.host.cmds.filter (fun z => z.seq ≠ s.host.nextSeq) = s.host.cmds :=
    List.filter_eq_self.2 fun c hc => by simpa using Nat.ne_of_lt (hok.2 c hc)
  have own : [y].filter (fun z => z.seq ≠ s.host.nextSeq) = [] := by simp [hy]
  exact (List.filter_append ..).trans (by rw [others, own, List.append_nil])

theorem commandRow_opcode_lt {i : Instr} {x : CommandRow} (h : commandRow i = some x) : x.f.opcode < 65536 := by
  cases i <;> cases h <;> exact Nat.le_of_ble_eq_true rfl

/-- The opcode field alone is set to that of the row. -/
theorem dH_withOp {op : Nat} (hop : op < 65536) (d : Desc) : dH (withOp op d) 4 = dH d 4 := by
  have upper : (d.toNat / 65536 * 65536 + op) / 2 ^ 32 = d.toNat / 2 ^ 32 := by omega
  rw [dH, dH, withOp, bits_ofNat _ (by decide) (by decide), bits, bits, Nat.shiftRight_eq_div_pow, Nat.shiftRight_eq_div_pow, upper]

end Sys2Proof.Machine

open Sys2Proof Sys2Proof.Machine

/-- Settles O44: a refusal's own effects leave rings and memory alone, and the record then tells its cause and status. -/
theorem refusedCommandsRecordTheirCause : Obligations.RefusedCommandsRecordTheirCause := by
  unfold Obligations.RefusedCommandsRecordTheirCause
  intro i x s q hrow hon hok hmem hheld hcheck hcause n g
  obtain ⟨run, did⟩ := exec_of_refusedRow hrow hon hheld hcheck
  have own := commandRow_refused hrow (rowState x s) (rowStart x s) q
  obtain ⟨rings, mem⟩ := commandRow_refused_slots hrow (rowState x s) (rowStart x s) q
  generalize hu : x.f.refused (rowState x s) (rowStart x s) q = u at run did own rings mem
  have ring : ∀ r, ringOf u r = ringOf s r := fun r => by rw [ringOf, rings]; rfl
  have wf : Memory.wf 0 u.host.mem = true := by rw [mem]; exact hmem.1
  have on : domOn u 1 = true := (domOn_congr (dom_of_changes own.1 rfl) 1).trans hon
  have recorded := cmdEnd_recorded (s := u) (status := 1) (c := { rowStart x s with cause := q.cause, result := BitVec.ofNat 64 q.result, effect := none, limited := false, late := false })
    rfl (Bool.and_false _) rfl rfl rfl hcause (by decide) wf on
  obtain ⟨lost, waits, written⟩ := recorded
  simp only [ring] at lost waits written
  refine ⟨_, run, (cmdEnd_cmds _ _ _ _).trans ?_, lost, waits, fun en held free => ?_, fun hop => ?_, did⟩
  · rw [own.2]
    exact rowListed_without x hok rfl
  · obtain ⟨prod, fields⟩ := written en held free
    exact ⟨prod, fields.cause, fields.status, fields.tag.trans (dH_withOp (commandRow_opcode_lt hrow) x.d), fields.index⟩
  · rw [← hu, commandRow_refused_nothing hrow hop]
    exact changesOnly_trans (rowState_changes x s) (changesOnly_reports (cmdRefuse_changes _ _ q))
end

section
/-! NOP (R88). -/

namespace Sys2Proof.Machine

theorem exec_nop (dt : Nat) (r : CmdRef) (d : Desc) (s : State) : exec (.nop dt r d) s = .next (runCmd nopDef dt r d s) := rfl

/-- The command of a row does not hold itself back (R71). -/
theorem cmdHeld_rowState (x : CommandRow) (s : State) : cmdHeld (rowState x s) (rowCmd x s) = cmdHeld s (rowCmd x s) := by
  have itself : ∀ p : Cmd → Bool, p (rowCmd x s) = false → (rowState x s).host.cmds.any p = s.host.cmds.any p := fun p hp => by
    change (s.host.cmds ++ [rowCmd x s]).any p = _
    rw [List.any_append, List.any_cons, hp, List.any_nil, Bool.or_false, Bool.or_false]
  exact itself _ (by simp)

/-- The command of a NOP as it ends. -/
def nopEnds (x : CommandRow) (s : State) : Cmd := { rowStart x s with stage := .running none }

/-- What NOP leaves once nothing holds it: its end alone (R71, R88). -/
theorem exec_nop_free {dt : Nat} {r : CmdRef} {d : Desc} {s : State} (hon : domOn s 1 = true) (hok : cmdsOk s)
    (hhead : dHeadOk .none (withOp 1 d) = true) (hheld : cmdHeld s (rowCmd ⟨dt, r, d, nopDef⟩ s) = false) :
    exec (.nop dt r d) s =
      .next (cmdEnd (rowListed ⟨dt, r, d, nopDef⟩ s (nopEnds ⟨dt, r, d, nopDef⟩ s)) (nopEnds ⟨dt, r, d, nopDef⟩ s) 0) := by
  generalize hx : (⟨dt, r, d, nopDef⟩ : CommandRow) = x at hheld
  have fetched : runCmd nopDef dt r d s = if cmdHeld (rowState x s) (rowCmd x s) then rowState x s
      else cmdStart nopDef (rowState x s) (rowCmd x s) := hx ▸ if_pos hon
  have passes : cmdCheck nopDef (rowState x s) { rowCmd x s with acceptAt := (rowState x s).tb.now } = none := by
    have head : dHeadOk .none (rowCmd x s).d = true := hx ▸ hhead
    exact if_pos head
  have put : cmdPut (rowState x s) (nopEnds x s) = rowListed x s (nopEnds x s) := cmdPut_rowListed x (y := rowCmd x s) hok rfl rfl
  rw [cmdHeld_rowState, hheld, if_neg Bool.false_ne_true] at fetched
  rw [exec_nop, fetched, ← put]
  simp only [cmdStart, passes]
  rfl

/-- FENCE waits for every earlier command of the ring (R74, R75). -/
theorem cmdHeld_of_fence {s : State} {c : Cmd} (hok : cmdsOk s) (hseq : c.seq = s.host.nextSeq) (hfence : dFence c.d = true)
    (h : ∃ y ∈ s.host.cmds, y.ref.ring = c.ref.ring ∧ y.silent = false) : cmdHeld s c = true := by
  obtain ⟨y, hy, ring, seen⟩ := h
  have earlier : y.seq < c.seq := hseq ▸ hok.2 y hy
  exact List.any_eq_true.2 ⟨y, hy, by simp [earlier, ring, seen, hfence]⟩

theorem dOp_withOp {op : Nat} (hop : op < 65536) (d : Desc) : dOp (withOp op d) = op := by
  have low : (d.toNat / 65536 * 65536 + op) % 2 ^ 16 = op := by omega
  rw [dOp, withOp, bits_ofNat _ (by decide) (by decide), bits, Nat.shiftRight_zero, low]

end Sys2Proof.Machine

open Sys2Proof Sys2Proof.Machine

/-- Settles O46: NOP's effect is its end, whose record tells its fields; with FENCE it is listed and held. -/
theorem nopCompletesAndFencesBarrier : Obligations.NopCompletesAndFencesBarrier := by
  unfold Obligations.NopCompletesAndFencesBarrier
  intro dt r d s hon hok hmem e n g hhead
  let x : CommandRow := ⟨dt, r, d, nopDef⟩
  refine ⟨fun hheld => ?_, fun hfence earlier => ?_⟩
  · have run := exec_nop_free (dt := dt) hon hok hhead hheld
    have listed := rowListed_changes x s (nopEnds x s)
    refine ⟨_, run, (cmdEnd_cmds _ _ _ _).trans (rowListed_without x hok rfl), changesOnly_trans listed (changesOnly_reports (cmdEnd_changes _ _ _ _)),
      fun quiet => ?_, fun loud en held free => ?_⟩
    · have ends : cmdEnd (rowListed x s (nopEnds x s)) (nopEnds x s) 0 = cmdDrop (rowListed x s (nopEnds x s)) (nopEnds x s).seq := by
        have quiet' : dQuiet (nopEnds x s).d = true := quiet
        simp only [cmdEnd, quiet']
        rfl
      rw [ends]
      exact ⟨rfl, rfl⟩
    · have loud' : (dQuiet (nopEnds x s).d && (0 : Nat) == 0) = false := by
        rw [show dQuiet (nopEnds x s).d = false from loud, Bool.false_and]
      have recorded := cmdEnd_recorded (s := rowListed x s (nopEnds x s)) (c := nopEnds x s) (status := 0) rfl loud' rfl rfl rfl
        (Nat.two_pow_pos 8) (by decide) hmem.1 hon
      obtain ⟨prod, fields⟩ := recorded.written en held free
      exact ⟨prod, fields.opcode.trans (dOp_withOp (by decide : 1 < 65536) d), fields.cause, fields.phase, fields.flags, fields.tag, fields.ring, fields.index⟩
  · have hheld := (cmdHeld_rowState x s).trans (cmdHeld_of_fence hok rfl hfence earlier)
    exact ⟨_, (exec_nop dt r d s).trans (congrArg _ (runCmd_of_held hon hheld)), rfl, rfl, rfl, rowState_changes x s⟩
end

section
/-! Doorbells (R67, R70). -/

namespace Sys2Proof.Machine

/-- A discarded doorbell shows its error on its ring and in RING_ERR; the ring goes on as it was but for reports (R70, R86). -/
theorem ringError_ring (s : State) {r : Nat} (hr : r < 36) (code value : Nat) :
    ringOf (ringError s r code value) r = reportedRing { ringOf s r with err := code } (ringOf (ringError s r code value) r) ∧
      (r < 16 → ringOf (ringError s r code value) r = { ringOf s r with err := code }) ∧ (ringError s r code value).host.ringErr = true := by
  let t := modRing s r fun g => { g with err := code }
  have marked : ringOf { t with host := { t.host with ringErr := true } } r = { ringOf s r with err := code } := ringOf_modRing_same s hr _
  have posted : Reported { t with host := { t.host with ringErr := true } } (ringError s r code value) := post_reported _ _ _ _ _
  exact ⟨(posted.ring r).trans (by rw [marked]), fun low => (posted.command r low).trans marked, posted.ringErr⟩

/-- What R70 decides of a doorbell, case by case. -/
theorem doorbellCheck_width {g : Ring} {cmd : Bool} {width : Nat} {v : BitVec 32} (h : width ≠ 4) : doorbellCheck g cmd width v = 6 := if_pos h

theorem doorbellCheck_disabled {g : Ring} {cmd : Bool} {v : BitVec 32} (h : g.en = false) : doorbellCheck g cmd 4 v = 7 := by
  simp [doorbellCheck, h]

theorem doorbellCheck_backward {g : Ring} {cmd : Bool} {v : BitVec 32} (h : g.en = true) (behind : 2 ^ 31 ≤ (v - g.lastDb).toNat) :
    doorbellCheck g cmd 4 v = 2 := by
  simp only [doorbellCheck, ne_eq, not_true_eq_false, if_false, h, Bool.not_true, Bool.false_eq_true, if_pos behind]

/-- A value not behind the last one is refused only where it lies too far ahead. -/
theorem doorbellCheck_forward {g : Ring} {cmd : Bool} {v : BitVec 32} (h : g.en = true) (ahead : (v - g.lastDb).toNat < 2 ^ 31) :
    doorbellCheck g cmd 4 v =
      if (v - (if cmd then g.cons else g.prod)).toNat < 2 ^ 31 ∧
        (if cmd then ringSize g < (v - (if cmd then g.cons else g.prod)).toNat else 1 ≤ (v - (if cmd then g.cons else g.prod)).toNat) then 1 else 0 := by
  simp only [doorbellCheck, ne_eq, not_true_eq_false, if_false, h, Bool.not_true, Bool.false_eq_true, Nat.not_le.2 ahead]

theorem doorbell_of_error {s : State} {r width : Nat} {v : BitVec 32} {e : Nat} (h : doorbellCheck (ringOf s r) (r < 16) width v = e) (he : e ≠ 0) :
    doorbell s r width v = ringError s r e (if e = 6 then 0 else v.toNat) := by
  simp only [doorbell, h, if_pos he]

theorem doorbell_of_command {s : State} {r width : Nat} {v : BitVec 32} (h : doorbellCheck (ringOf s r) (r < 16) width v = 0) (hr : r < 16) :
    doorbell s r width v = modRing s r fun g => { g with prod := v, lastDb := v } := by
  simp only [doorbell, h, ne_eq, not_true_eq_false, if_false, if_pos hr]

/-- A consumer's doorbell moves the host's index, and what waited for a slot follows (R68, R77, R85). -/
theorem doorbell_of_consumer {s : State} {r width : Nat} {v : BitVec 32} (h : doorbellCheck (ringOf s r) (r < 16) width v = 0) (lo : 16 ≤ r) :
    Reported (modRing s r fun g => { g with cons := v, lastDb := v }) (doorbell s r width v) := by
  simp only [doorbell, h, ne_eq, not_true_eq_false, if_false, if_neg (Nat.not_lt.2 lo)]
  exact .ite (recordDrain_reported lo _ _) (evtOverflow_reported _ lo)

end Sys2Proof.Machine

open Sys2Proof Sys2Proof.Machine

/-- Settles O47: the cases of R70 exclude one another, and each answers the ring with its error or its new index. -/
theorem doorbellsMoveTheIndexOrAreDiscarded : Obligations.DoorbellsMoveTheIndexOrAreDiscarded := by
  unfold Obligations.DoorbellsMoveTheIndexOrAreDiscarded
  intro dt width v stores s hon
  let a := hostStores (arrive dt s) stores
  have stored : changesOnly (withReports [.hmem, .pwr]) s a :=
    changesOnly_trans (changesOnly_mono (arrive_changes dt s) (by decide)) (changesOnly_mono (hostStores_changes _ stores) (by decide))
  refine ⟨fun r => ?_, fun r => ?_⟩
  · intro g
    have hr : r.val < 16 := r.isLt
    have run : exec (.commandDoorbell dt r width v stores) s = .next (doorbell a r.val width v) := congrArg _ (if_pos hon)
    have did : changesOnly (withReports [.hmem, .pwr]) s (doorbell a r.val width v) :=
      changesOnly_trans stored (changesOnly_mono (doorbell_changes a r.val width v (by omega)) (by decide))
    have command : (decide (r.val < 16)) = true := decide_eq_true hr
    have discarded : ∀ e, e ≠ 0 → doorbellCheck g true width v = e →
        ringOf (doorbell a r.val width v) r.val = { g with err := e } ∧ (doorbell a r.val width v).host.ringErr = true := fun e he hc => by
      obtain ⟨-, ring, err⟩ := ringError_ring a (r := r.val) (by omega) e (if e = 6 then 0 else v.toNat)
      rw [doorbell_of_error (e := e) (command ▸ hc) he]
      exact ⟨ring hr, err⟩
    refine ⟨_, run, did, fun wrong => discarded 6 (by decide) (doorbellCheck_width wrong), ?_, ?_, ?_, ?_⟩
    · rintro rfl off
      exact discarded 7 (by decide) (doorbellCheck_disabled off)
    · rintro rfl en behind
      exact discarded 2 (by decide) (doorbellCheck_backward en behind)
    · rintro rfl en forward far below
      exact discarded 1 (by decide) ((doorbellCheck_forward en forward).trans (if_pos ⟨below, far⟩))
    · rintro rfl en forward near
      have taken : doorbellCheck g true 4 v = 0 := (doorbellCheck_forward en forward).trans (if_neg fun far => by
        obtain ⟨below, beyond⟩ := far
        obtain inside | above := near
        · exact Nat.not_lt.2 inside beyond
        · exact Nat.not_lt.2 above below)
      rw [doorbell_of_command (s := a) (r := r.val) (command ▸ taken) hr]
      exact ⟨ringOf_modRing_same a (by omega) _, rfl⟩
  · intro g
    have hr : 16 + r.val < 36 := by omega
    have run : exec (.consumerDoorbell dt r width v stores) s = .next (doorbell a (16 + r.val) width v) := congrArg _ (if_pos hon)
    have did : changesOnly (withReports [.hmem, .pwr]) s (doorbell a (16 + r.val) width v) :=
      changesOnly_trans stored (changesOnly_mono (doorbell_changes a (16 + r.val) width v hr) (by decide))
    have consumer : (decide (16 + r.val < 16)) = false := decide_eq_false (by omega)
    have discarded : ∀ e, e ≠ 0 → doorbellCheck g false width v = e →
        (ringOf (doorbell a (16 + r.val) width v) (16 + r.val)).err = e ∧ (ringOf (doorbell a (16 + r.val) width v) (16 + r.val)).cons = g.cons ∧
          (ringOf (doorbell a (16 + r.val) width v) (16 + r.val)).lastDb = g.lastDb ∧ (doorbell a (16 + r.val) width v).host.ringErr = true :=
      fun e he hc => by
        obtain ⟨ring, -, err⟩ := ringError_ring a hr e (if e = 6 then 0 else v.toNat)
        rw [doorbell_of_error (e := e) (consumer ▸ hc) he, ring]
        exact ⟨rfl, rfl, rfl, err⟩
    refine ⟨_, run, did, fun wrong => discarded 6 (by decide) (doorbellCheck_width wrong), ?_, ?_, ?_, ?_⟩
    · rintro rfl off
      exact discarded 7 (by decide) (doorbellCheck_disabled off)
    · rintro rfl en behind
      exact discarded 2 (by decide) (doorbellCheck_backward en behind)
    · rintro rfl en forward far below
      exact discarded 1 (by decide) ((doorbellCheck_forward en forward).trans (if_pos ⟨below, far⟩))
    · rintro rfl en forward near
      have taken : doorbellCheck g false 4 v = 0 := (doorbellCheck_forward en forward).trans (if_neg fun far => by
        obtain ⟨below, beyond⟩ := far
        obtain rfl | above := near
        · simp at beyond
        · exact Nat.not_lt.2 above below)
      have moved := (doorbell_of_consumer (s := a) (r := 16 + r.val) (consumer ▸ taken) (by omega)).ring (16 + r.val)
      rw [ringOf_modRing_same a hr] at moved
      rw [moved]
      exact ⟨rfl, rfl, rfl⟩
end

section
/-! The end of a Ladle move (R101, R102): its channel, its command, and what stands. -/

namespace Sys2Proof.Machine

theorem chOf_modCh_same (s : State) {c : Nat} (h : c < 8) (f : LdlCh → LdlCh) : chOf (modCh s c f) c = f (chOf s c) := vget_vmod_same _ h f _
theorem chOf_modCh_ne (s : State) {c d : Nat} (h : c ≠ d) (f : LdlCh → LdlCh) : chOf (modCh s c f) d = chOf s d := vget_vmod_ne _ h f _

/-- Only the channels 0 to 7 exist. -/
theorem chOf_none (s : State) {c : Nat} (h : ¬ c < 8) : chOf s c = {} := by simp [chOf, vget, h]

theorem channel_exists {s : State} {c : Nat} {m : Move} (h : (chOf s c).move = some m) : c < 8 := by
  by_contra none_there
  rw [chOf_none s none_there] at h
  cases h

theorem chOf_congr {s t : State} (h : t.ldl.ch = s.ldl.ch) (c : Nat) : chOf t c = chOf s c := by rw [chOf, chOf, h]

/-- A channel as an ended move leaves it (R101). -/
def channelDone (m : Move) (x : MoveEnd) (ch : LdlCh) : LdlCh :=
  { ch with move := none, trunc := x.trunc, eoc := true, cause := BitVec.ofNat 8 x.cause, tag := m.tag, count := BitVec.ofNat 32 x.valid }

/-- The interrupt of an ended move, unless a reset silenced it (R101, R102). -/
def channelSignal (m : Move) (c : Nat) (s : State) : State := if m.silent then s else signal s (chOf s c).vector

theorem channelSignal_reported (m : Move) (c : Nat) (s : State) : Reported s (channelSignal m c s) := .ite (.refl s) (signal_reported s _)

theorem channelSignal_ldl (m : Move) (c : Nat) (s : State) : (channelSignal m c s).ldl = s.ldl := by
  unfold channelSignal
  split
  · rfl
  · exact signal_ldl s _

/-- The end of a move at its command: nothing, its silent removal, or its record (R101, R102, R189). -/
theorem moveDone_cases (s : State) (c : Nat) (m : Move) (x : MoveEnd) (high : Nat) :
    let t := channelSignal m c (modCh s c (channelDone m x))
    (moveDone s c m x high = t ∧ (x.status = 0 ∨ ∀ y ∈ s.host.cmds, y.seq ≠ m.seq)) ∨
      (m.silent = true ∧ moveDone s c m x high = { t with host := { t.host with cmds := t.host.cmds.filter fun y => !(y.seq == m.seq) } }) ∨
      ∃ (y : Cmd) (result : BitVec 64), y.seq = m.seq ∧ moveDone s c m x high = cmdEnd t { y with cause := x.cause, result := result } x.status x.trunc := by
  intro t
  have same : t.host.cmds = s.host.cmds := (channelSignal_reported m c _).cmds
  have shape : moveDone s c m x high = match t.host.cmds.find? fun y => y.seq == m.seq with
    | none => t
    | some cmd =>
      if m.kind = .pattern ∧ x.status = 0 then t
      else if m.silent then { t with host := { t.host with cmds := t.host.cmds.filter fun y => !(y.seq == m.seq) } }
      else cmdEnd t { cmd with cause := x.cause, result := BitVec.ofNat 64 (x.valid ||| high <<< 32) } x.status x.trunc := rfl
  cases found : t.host.cmds.find? fun y => y.seq == m.seq with
  | none =>
    rw [found] at shape
    refine .inl ⟨shape, .inr fun y hy => ?_⟩
    simpa using List.find?_eq_none.1 found y (same ▸ hy)
  | some y =>
    rw [found] at shape
    have named : y.seq = m.seq := by simpa using List.find?_some found
    dsimp only at shape
    split at shape
    · next unfinished => exact .inl ⟨shape, .inl unfinished.2⟩
    · split at shape
      · next silent => exact .inr (.inl ⟨silent, shape⟩)
      · exact .inr (.inr ⟨y, _, named, shape⟩)

theorem moveDone_ldl (s : State) (c : Nat) (m : Move) (x : MoveEnd) (high : Nat) :
    (moveDone s c m x high).ldl = (modCh s c (channelDone m x)).ldl := by
  have signalled := channelSignal_ldl m c (modCh s c (channelDone m x))
  obtain ⟨done, -⟩ | ⟨-, done⟩ | ⟨y, result, -, done⟩ := moveDone_cases s c m x high
  · rw [done, signalled]
  · rw [done]
    exact signalled
  · rw [done, cmdEnd_ldl, signalled]

theorem moveDone_rings (s : State) (c : Nat) (m : Move) (x : MoveEnd) (high : Nat) : RingsReported s (moveDone s c m x high) := by
  have signalled : RingsReported s (channelSignal m c (modCh s c (channelDone m x))) :=
    (RingsReported.of_eq (s := s) (t := modCh s c (channelDone m x)) rfl).trans (channelSignal_reported m c _).toRingsReported
  obtain ⟨done, -⟩ | ⟨-, done⟩ | ⟨y, result, -, done⟩ := moveDone_cases s c m x high
  · rw [done]
    exact signalled
  · rw [done]
    exact signalled.trans (.of_eq rfl)
  · rw [done]
    exact signalled.trans (cmdEnd_rings _ _ _ _)

/-- A move that does not succeed takes its command from the list (R101, R102). -/
theorem moveDone_cmds (s : State) (c : Nat) (m : Move) {x : MoveEnd} (failed : x.status ≠ 0) (high : Nat) :
    (moveDone s c m x high).host.cmds = s.host.cmds.filter fun y => y.seq ≠ m.seq := by
  have same : (channelSignal m c (modCh s c (channelDone m x))).host.cmds = s.host.cmds := (channelSignal_reported m c _).cmds
  obtain ⟨done, ok | none_named⟩ | ⟨-, done⟩ | ⟨y, result, named, done⟩ := moveDone_cases s c m x high
  · exact absurd ok failed
  · rw [done, same]
    exact (List.filter_eq_self.2 fun y hy => by simpa using none_named y hy).symm
  · rw [done]
    change List.filter _ (channelSignal m c (modCh s c (channelDone m x))).host.cmds = _
    rw [same]
    exact List.filter_congr fun y _ => by simp [beq_eq_decide]
  · rw [done, cmdEnd_cmds, same]
    simp only [named]

theorem moveDone_chOf_same (s : State) {c : Nat} (h : c < 8) (m : Move) (x : MoveEnd) (high : Nat) :
    chOf (moveDone s c m x high) c = channelDone m x (chOf s c) :=
  (chOf_congr (congrArg Ladle.ch (moveDone_ldl s c m x high)) c).trans (chOf_modCh_same s h _)

theorem moveDone_chOf_ne (s : State) {c d : Nat} (h : c ≠ d) (m : Move) (x : MoveEnd) (high : Nat) :
    chOf (moveDone s c m x high) d = chOf s d :=
  (chOf_congr (congrArg Ladle.ch (moveDone_ldl s c m x high)) d).trans (chOf_modCh_ne s h _)

theorem withdraw_of_none {s : State} {c : Nat} (h : (chOf s c).move = none) : withdraw s c = s := by simp only [withdraw, h]

theorem withdraw_of_started {s : State} {c : Nat} {m : Move} (h : (chOf s c).move = some m) (hm : m.started = true) :
    withdraw s c = modCh s c fun ch => { ch with move := some { m with withdrawn := true } } := by
  simp only [withdraw, h, hm, if_true]

theorem withdraw_of_waiting {s : State} {c : Nat} {m : Move} (h : (chOf s c).move = some m) (hm : m.started = false) :
    withdraw s c = moveDone s c m ⟨2, cWithdrawn, true, 0⟩ (if m.kind = .pattern then 0xFFFFFFFF else 0) := by
  simp only [withdraw, h, hm, if_neg Bool.false_ne_true]

end Sys2Proof.Machine
end

section
/-! Rings enabled and disabled, and the timer of coalescing (R66, R91, R104). -/

namespace Sys2Proof.Machine

/-! ### RNG_CFG -/

/-- The fields of RNG_CFG but EN, as a write sets them (R66). -/
def ringFields (v : Nat) (g : Ring) : Ring :=
  { g with cplRing := bits v 27 24, vector := bits v 21 16, coalCnt := bits v 15 8, coalTime := bits v 7 4, sizeLog2 := bits v 3 0 }

/-- A ring as an enable leaves it (R66). -/
def ringFresh (g : Ring) : Ring :=
  { g with en := true, prod := 0, cons := 0, err := 0, lost := 0, lastDb := 0, held := [], unsig := 0, timerAt := none, overflow := 0 }

theorem ringCfgWrite_of_enable {s : State} {r v : Nat} (off : (ringOf s r).en = false) (hbit : bit v 31 = true) (lo : 6 ≤ bits v 3 0)
    (hi : bits v 3 0 ≤ 12) : ringCfgWrite s r v = modRing (modRing s r (ringFields v)) r ringFresh := by
  simp only [ringCfgWrite, off, hbit, lo, hi, ringEnable, Bool.false_eq_true, false_and, and_self, decide_true, Bool.not_true, and_false, if_false, if_true]
  rfl

theorem ringCfgWrite_of_disable {s : State} {r v : Nat} (on : (ringOf s r).en = true) (hbit : bit v 31 = false)
    (cpl : bits v 27 24 = (ringOf s r).cplRing) (size : bits v 3 0 = (ringOf s r).sizeLog2) :
    ringCfgWrite s r v = modRing (ringDisable s r) r (ringFields v) := by
  have keeps : ¬ ((ringOf s r).en = true ∧ (bits v 27 24 ≠ (ringOf s r).cplRing ∨ bits v 3 0 ≠ (ringOf s r).sizeLog2)) :=
    fun h => h.2.elim (· cpl) (· size)
  simp only [ringCfgWrite, if_neg keeps]
  simp only [on, hbit, Bool.false_eq_true, false_and, if_false, if_true]
  rfl

theorem ringCfgWrite_of_disabled {s : State} {r v : Nat} (off : (ringOf s r).en = false) (hbit : bit v 31 = false) :
    ringCfgWrite s r v = modRing s r (ringFields v) := by
  simp only [ringCfgWrite, off, hbit, Bool.false_eq_true, false_and, if_false]
  rfl

theorem ringCfgBad_of_enabled {s : State} {r v : Nat} (on : (ringOf s r).en = true) : ringCfgBad s r v = false := by simp [ringCfgBad, on]

theorem ringCfgBad_of_size {s : State} {r v : Nat} (lo : 6 ≤ bits v 3 0) (hi : bits v 3 0 ≤ 12) : ringCfgBad s r v = false := by
  simp [ringCfgBad, lo, hi]

/-- A change of a ring that leaves it where it lies, in the state it is made in. -/
theorem modRing_changes_at (s : State) (r : Nat) (f : Ring → Ring) (base : ringBase (f (ringOf s r)) = ringBase (ringOf s r))
    (size : ringSize (f (ringOf s r)) = ringSize (ringOf s r)) : changesOnly [.host] s (modRing s r f) := by
  intro p hp
  by_cases hm : p = .hmem
  · subst hm
    refine ⟨fun q => ?_, fun _ _ => rfl⟩
    by_cases same : r = q
    · subst same
      by_cases hr : r < 36
      · rw [ringPlace, ringPlace, ringOf_modRing_same s hr, base, size]
      · rw [ringPlace, ringPlace, ringOf_none _ r hr, ringOf_none s r hr]
    · rw [ringPlace, ringPlace, ringOf_modRing_ne s same]
  · exact modRing_any s r f p (by simp_all)

/-! ### The commands of a ring that is disabled (R104) -/

/-- No command bears a number any more, but one that runs on unseen or waits for the withdrawal of its started move. -/
def RingOffEnded (t : State) (q : Nat) : Prop :=
  ∀ y ∈ t.host.cmds, y.seq = q → y.silent = true ∨ ∃ j < 8, ∃ m, (chOf t j).move = some m ∧ m.seq = q ∧ m.started = true ∧ m.withdrawn = true

/-- What the end of one command of a disabled ring does: it is ended, every other command and the other moves stand. -/
structure RingOffStep (s t : State) (c : Cmd) : Prop where
  ended : RingOffEnded t c.seq
  stays : ∀ y ∈ s.host.cmds, y.seq ≠ c.seq → y ∈ t.host.cmds
  origin : ∀ y ∈ t.host.cmds, y ∈ s.host.cmds ∨ y = { c with silent := true }
  moves : ∀ j m, (chOf s j).move = some m → m.seq ≠ c.seq → (chOf t j).move = some m
  rings : RingsReported s t

/-- A command taken from the list. -/
theorem RingOffStep.of_filter {s t : State} {c : Cmd} (cmds : t.host.cmds = s.host.cmds.filter fun y => y.seq ≠ c.seq)
    (moves : ∀ j m, (chOf s j).move = some m → m.seq ≠ c.seq → (chOf t j).move = some m) (rings : RingsReported s t) : RingOffStep s t c where
  ended y hy hq := by
    rw [cmds] at hy
    exact absurd hq (of_decide_eq_true (List.mem_filter.1 hy).2)
  stays y hy hq := cmds ▸ List.mem_filter.2 ⟨hy, by simpa using hq⟩
  origin y hy := .inl (List.mem_filter.1 (cmds ▸ hy)).1
  moves := moves
  rings := rings

/-- A refusal after changes that touch neither the list, nor the rings, nor a move. -/
theorem RingOffStep.of_refuse {s u : State} {c : Cmd} (r : Refuse) (cmds : u.host.cmds = s.host.cmds) (rings : u.host.rings = s.host.rings)
    (moves : ∀ j, (chOf u j).move = (chOf s j).move) : RingOffStep s (cmdRefuse u c r) c := by
  refine .of_filter ?_ (fun j m hm _ => ?_) ((RingsReported.of_eq rings).trans (cmdEnd_rings _ _ _ _))
  · rw [← cmds]
    exact cmdEnd_cmds _ _ _ _
  · rw [chOf_congr (s := u) (congrArg Ladle.ch (cmdRefuse_ldl u c r)) j, moves j]
    exact hm

theorem RingOffStep.of_refuse_of_changes {s u : State} {c : Cmd} (r : Refuse) (h : changesOnly [.mod, .fh, .run, .out] s u) :
    RingOffStep s (cmdRefuse u c r) c := by
  have host : _ = s.host := h .host (by decide)
  have ldl : _ = s.ldl := h .ldl (by decide)
  exact .of_refuse r (congrArg HostIf.cmds host) (congrArg HostIf.rings host) fun j => congrArg LdlCh.move (chOf_congr (congrArg Ladle.ch ldl) j)

theorem withdraw_step {s : State} {c : Cmd} {i : Nat} {m : Move} (hm : (chOf s i).move = some m) (hseq : m.seq = c.seq) :
    RingOffStep s (withdraw s i) c := by
  have hi := channel_exists hm
  have others : ∀ {j y}, (chOf s j).move = some y → y.seq ≠ c.seq → i ≠ j := fun hy hne e => hne (by
    rw [← e, hm] at hy
    cases hy
    exact hseq)
  cases started : m.started with
  | true =>
    rw [withdraw_of_started hm started]
    have marked := congrArg LdlCh.move (chOf_modCh_same s hi fun ch => { ch with move := some { m with withdrawn := true } })
    exact ⟨fun _ _ _ => .inr ⟨i, hi, _, marked, hseq, started, rfl⟩, fun _ hy _ => hy, fun _ hy => .inl hy,
      fun j y hy hne => by rwa [chOf_modCh_ne s (others hy hne)], .of_eq rfl⟩
  | false =>
    rw [withdraw_of_waiting hm started]
    refine .of_filter ?_ (fun j y hy hne => ?_) (moveDone_rings s i m _ _)
    · rw [← hseq]
      exact moveDone_cmds s i m (by decide) _
    · rwa [moveDone_chOf_ne s (others hy hne)]

/-- A command that has begun and has no move goes on unseen (R104). -/
theorem recordRing_step (s : State) (c : Cmd) : RingOffStep s (cmdRingOff.recordRing s c) c := by
  have cmds : (cmdRingOff.recordRing s c).host.cmds = s.host.cmds.filter (fun y => y.seq ≠ c.seq) ++ [{ c with silent := true }] :=
    congrArg (fun l => l ++ [({ c with silent := true } : Cmd)]) (cmdEnd_cmds s { c with cause := cRing } 2 false)
  have ldl : (cmdRingOff.recordRing s c).ldl = s.ldl := cmdEnd_ldl s { c with cause := cRing } 2 false
  refine ⟨fun y hy hq => .inl ?_, fun y hy hq => ?_, fun y hy => ?_, fun j m hm _ => ?_, (cmdEnd_rings s { c with cause := cRing } 2 false).trans (.of_eq rfl)⟩
  · rw [cmds, List.mem_append, List.mem_filter, List.mem_singleton] at hy
    obtain ⟨-, other⟩ | rfl := hy
    · exact absurd hq (by simpa using other)
    · rfl
  · rw [cmds]
    exact List.mem_append_left _ (List.mem_filter.2 ⟨hy, by simpa using hq⟩)
  · rw [cmds, List.mem_append, List.mem_filter, List.mem_singleton] at hy
    exact hy.imp_left And.left
  · rwa [chOf_congr (congrArg Ladle.ch ldl) j]

theorem moveRefused_moves (s : State) (ch : Nat) (c : Cmd) (r : Refuse) (j : Nat) : (chOf (moveRefused s ch c r) j).move = (chOf s j).move := by
  unfold moveRefused
  split
  · rfl
  · rw [chOf_congr (congrArg Ladle.ch (signal_ldl _ _)) j]
    by_cases same : ch % 8 = j
    · subst same
      rw [chOf_modCh_same s (Nat.mod_lt _ (by decide))]
    · rw [chOf_modCh_ne s same]

/-- The end of one command of a disabled ring, by what it has come to (R101, R104). -/
theorem cmdRingOff_step (s : State) (c : Cmd) : RingOffStep s (cmdRingOff s c) c := by
  simp only [cmdRingOff]
  split
  · split
    · have withdrawn : changesOnly [.fh, .run, .out] s ((s.run.modeReqs.filter fun q => q.ref == some c.ref).foldl reqWithdraw s) :=
        changesOnly_foldl _ _ reqWithdraw_changes _ s
      exact .of_refuse_of_changes _ (changesOnly_trans ((changesOnly_set_run (by decide)).2 (changesOnly_mono withdrawn (by decide)))
        (changesOnly_mono (modeCause_changes _ _ _) (by decide)))
    · split
      · exact .of_refuse _ rfl rfl fun _ => rfl
      · split
        · next i found =>
          have owns := List.find?_some found
          cases hm : (chOf s i).move with
          | none => simp [hm] at owns
          | some m =>
            have named : m.seq = c.seq ∧ m.silent = false := by simpa [hm] using owns
            exact withdraw_step hm named.1
        · exact recordRing_step s c
  · split
    · split
      · exact .of_refuse _ rfl rfl fun _ => rfl
      · exact .of_refuse _ (moveRefused_keeps s _ c _).2 (moveRefused_slots s _ c _).1 (moveRefused_moves s _ c _)
    · exact .of_refuse _ rfl rfl fun _ => rfl

/-- What the end of several commands of a ring leaves: each of them is ended, and the others stand. -/
structure RingOffDone (s t : State) (l : List Cmd) : Prop where
  ended : ∀ c ∈ l, RingOffEnded t c.seq
  stays : ∀ y ∈ s.host.cmds, (∀ c ∈ l, y.seq ≠ c.seq) → y ∈ t.host.cmds
  origin : ∀ y ∈ t.host.cmds, y ∈ s.host.cmds ∨ y.silent = true
  rings : RingsReported s t

/-- A number ended stays ended while others end. -/
theorem RingOffStep.keeps {s t : State} {c : Cmd} (h : RingOffStep s t c) {q : Nat} (hq : RingOffEnded s q) : RingOffEnded t q := by
  by_cases own : q = c.seq
  · exact own ▸ h.ended
  · intro y hy hseq
    obtain old | rfl := h.origin y hy
    · refine (hq y old hseq).imp_right fun moving => ?_
      obtain ⟨j, hj, m, hm, named, marks⟩ := moving
      exact ⟨j, hj, m, h.moves j m hm (named ▸ own), named, marks⟩
    · exact .inl rfl

theorem foldl_cmdRingOff_ended {q : Nat} : ∀ (l : List Cmd) (s : State), RingOffEnded s q → RingOffEnded (l.foldl cmdRingOff s) q
  | [], _, h => h
  | c :: l, s, h => foldl_cmdRingOff_ended l _ ((cmdRingOff_step s c).keeps h)

theorem foldl_cmdRingOff_done (l : List Cmd) (s : State) : RingOffDone s (l.foldl cmdRingOff s) l := by
  induction l generalizing s with
  | nil => exact ⟨fun c hc => absurd hc List.not_mem_nil, fun _ hy _ => hy, fun _ hy => .inl hy, .of_eq rfl⟩
  | cons c l ih =>
    rw [List.foldl_cons]
    have first := cmdRingOff_step s c
    obtain ⟨ended, stays, origin, rings⟩ := ih (cmdRingOff s c)
    refine ⟨fun d hd => ?_, fun y hy hne => ?_, fun y hy => ?_, first.rings.trans rings⟩
    · obtain rfl | later := List.mem_cons.1 hd
      · exact foldl_cmdRingOff_ended l _ first.ended
      · exact ended d later
    · exact stays y (first.stays y hy (hne c List.mem_cons_self)) fun d hd => hne d (List.mem_cons_of_mem c hd)
    · refine (origin y hy).elim (fun old => ?_) .inr
      exact (first.origin y old).imp_right fun e => by rw [e]

/-! ### Signals -/

theorem signal_of_sent {s : State} {v : Nat} (en : s.host.msixEn = true) (fn : s.host.msixFnMask = false)
    (open_ : (vget s.host.msix v {}).masked = false) : signal s v = send s (.msix v (vget s.host.msix v {}).addr (vget s.host.msix v {}).data) := by
  simp only [signal, en, fn, open_, Bool.not_true, Bool.or_false, if_neg Bool.false_ne_true]

theorem signal_of_masked {s : State} {v : Nat} (en : s.host.msixEn = true)
    (masked : s.host.msixFnMask = true ∨ (vget s.host.msix v {}).masked = true) :
    signal s v = { s with host := { s.host with msix := vmod s.host.msix v fun e => { e with pending := true } } } := by
  have any : (s.host.msixFnMask || (vget s.host.msix v {}).masked) = true := by simpa using masked
  simp only [signal, en, any, Bool.not_true, if_neg Bool.false_ne_true, if_true]

theorem signal_of_disabled {s : State} (off : s.host.msixEn = false) (v : Nat) : signal s v = s := by simp [signal, off]

/-! ### What a write of RNG_CFG leaves of a ring -/

theorem exec_ringDisable {s : State} {v : BitVec 32} (dt : Nat) (r : Fin 36) (hon : domOn s 1 = true) (hbit : bit v.toNat 31 = false)
    (good : ringCfgBad (arrive dt s) r.val v.toNat = false) :
    exec (.ringDisable dt r v) s = .next (ringCfgWrite (arrive dt s) r.val v.toNat) := by
  have hon' : domOn (arrive dt s) 1 = true := hon
  change execRingDisable dt r v s = _
  simp only [execRingDisable, hon', hbit, good, Bool.not_false, Bool.and_self, if_true, if_neg Bool.false_ne_true]

theorem exec_ringEnable {s : State} {v : BitVec 32} (dt : Nat) (r : Fin 36) (stores : List Host.Cell) (hon : domOn s 1 = true)
    (off : (ringOf s r.val).en = false) (hbit : bit v.toNat 31 = true) :
    exec (.ringEnable dt r v stores) s = .next (ringCfgWrite (hostStores (arrive dt s) stores) r.val v.toNat) := by
  have hon' : domOn (hostStores (arrive dt s) stores) 1 = true := hon
  have off' : (ringOf (hostStores (arrive dt s) stores) r.val).en = false := off
  change execRingEnable dt r v stores s = _
  simp only [execRingEnable, hon', off', hbit, Bool.not_false, Bool.and_self, if_true]

/-- A completion or event ring as a disable leaves it: its held records are lost (R104). -/
def ringLost (g : Ring) : Ring :=
  { g with en := false, held := [], lost := min 255 (g.lost + g.held.length), unsig := 0, timerAt := none }

theorem ringDisable_of_completion (s : State) {r : Nat} (h : 16 ≤ r) : ringDisable s r = modRing s r ringLost := by
  rw [ringDisable, if_neg (by omega)]
  rfl

/-- The commands of a command ring that its disable ends (R104). -/
def ringCmds (s : State) (r : Nat) : List Cmd := s.host.cmds.filter fun c => c.ref.ring.val == r && !c.silent

theorem ringDisable_of_command (s : State) {r : Nat} (h : r < 16) :
    ringDisable s r = (ringCmds s r).foldl cmdRingOff (modRing s r fun g => { g with en := false }) := by
  rw [ringDisable, if_pos h]
  rfl

theorem mem_ringCmds {s : State} {r : Nat} {c : Cmd} : c ∈ ringCmds s r ↔ c ∈ s.host.cmds ∧ c.ref.ring.val = r ∧ c.silent = false := by
  simp [ringCmds]

/-- Commands that bear different numbers are told apart by them. -/
theorem eq_of_seq {s : State} (hok : cmdsOk s) {c d : Cmd} (hc : c ∈ s.host.cmds) (hd : d ∈ s.host.cmds) (h : c.seq = d.seq) : c = d :=
  List.inj_on_of_nodup_map hok.1 hc hd h

/-- A command ring after its disable (R104): its commands ended, run on unseen, or wait for the withdrawal of their started moves, and
the commands of the other rings stand. -/
theorem ringDisable_commands {s : State} {r : Nat} (hr : r < 16) (hok : cmdsOk s) :
    (ringOf (ringDisable s r) r).en = false ∧
      (∀ c ∈ (ringDisable s r).host.cmds, c.ref.ring.val = r → c.silent = true ∨
        ∃ j < 8, ∃ m, (chOf (ringDisable s r) j).move = some m ∧ m.seq = c.seq ∧ m.started = true ∧ m.withdrawn = true) ∧
      ∀ c ∈ s.host.cmds, c.ref.ring.val ≠ r → c ∈ (ringDisable s r).host.cmds := by
  obtain ⟨ended, stays, origin, rings⟩ := foldl_cmdRingOff_done (ringCmds s r) (modRing s r fun g => { g with en := false })
  rw [ringDisable_of_command s hr]
  refine ⟨?_, fun c hc own => ?_, fun c hc other => ?_⟩
  · rw [rings.en, ringOf_modRing_same s (by omega)]
  · cases silent : c.silent with
    | true => exact .inl rfl
    | false =>
      have listed := (origin c hc).resolve_right (by simp [silent])
      exact silent ▸ ended c (mem_ringCmds.2 ⟨listed, own, silent⟩) c hc rfl
  · refine stays c hc fun d hd same => other ?_
    obtain ⟨listed, own, -⟩ := mem_ringCmds.1 hd
    rw [eq_of_seq hok hc listed same, own]

end Sys2Proof.Machine

open Sys2Proof Sys2Proof.Machine

/-- Settles O48: RNG_CFG written, by what the ring was and what it becomes, and the signal of the coalescing timer. -/
theorem ringsEnableDisableAndCoalesce : Obligations.RingsEnableDisableAndCoalesce := by
  unfold Obligations.RingsEnableDisableAndCoalesce
  refine ⟨fun dt r v stores s hon off hbit lo hi => ?_, ⟨fun dt r v s hon on hbit cpl size hok => ?_, fun dt r v s hon off hbit lo hi => ?_⟩,
    fun r s a hat => ?_⟩
  · have stored : changesOnly (withReports [.hmem]) s (hostStores (arrive dt s) stores) :=
      changesOnly_trans (changesOnly_mono (arrive_changes dt s) (by decide)) (changesOnly_mono (hostStores_changes _ stores) (by decide))
    have run := (exec_ringEnable dt r stores hon off hbit).trans (congrArg _ (ringCfgWrite_of_enable (s := hostStores (arrive dt s) stores) off hbit lo hi))
    refine ⟨_, run, ?_, fun q hq => ?_, rfl, rfl, ?_⟩
    · rw [ringOf_modRing_same _ r.isLt, ringOf_modRing_same _ r.isLt]
      rfl
    · rw [ringOf_modRing_ne _ hq.symm, ringOf_modRing_ne _ hq.symm]
      rfl
    · exact changesOnly_trans stored (changesOnly_trans (changesOnly_mono (modRing_any _ _ _) (by decide))
        (changesOnly_mono (modRing_any _ _ _) (by decide)))
  · have run := (exec_ringDisable dt r hon hbit (ringCfgBad_of_enabled (s := arrive dt s) on)).trans
      (congrArg _ (ringCfgWrite_of_disable (s := arrive dt s) on hbit cpl size))
    refine ⟨_, run, ?_, fun hr => ?_, fun hr => ?_, ?_⟩
    · rw [ringOf_modRing_same _ r.isLt]
      by_cases hr : r.val < 16
      · exact (ringDisable_commands (s := arrive dt s) hr hok).1
      · rw [ringDisable_of_completion _ (by omega), ringOf_modRing_same _ r.isLt]
        rfl
    · rw [ringDisable_of_completion _ hr, ringOf_modRing_same _ r.isLt, ringOf_modRing_same _ r.isLt]
      refine ⟨rfl, rfl, rfl, rfl, changesOnly_trans (changesOnly_mono (arrive_changes dt s) (by decide))
        (changesOnly_trans (changesOnly_mono (modRing_changes _ _ ringLost) (by decide)) (changesOnly_mono (modRing_changes_at _ _ _ rfl ?_) (by decide)))⟩
      rw [ringOf_modRing_same _ r.isLt]
      exact congrArg (2 ^ ·) size
    · obtain ⟨-, ended, stays⟩ := ringDisable_commands (s := arrive dt s) hr hok
      exact ⟨ended, stays⟩
    · exact changesOnly_trans (changesOnly_mono (arrive_changes dt s) (by decide))
        (changesOnly_trans (changesOnly_mono (ringDisable_changes _ _) (by decide)) (changesOnly_mono (modRing_any _ _ _) (by decide)))
  · have run := (exec_ringDisable dt r hon hbit (ringCfgBad_of_size (s := arrive dt s) lo hi)).trans
      (congrArg _ (ringCfgWrite_of_disabled (s := arrive dt s) off hbit))
    refine ⟨_, run, ringOf_modRing_same (arrive dt s) r.isLt _, fun q hq => ringOf_modRing_ne (arrive dt s) hq.symm _, rfl, rfl, ?_⟩
    exact changesOnly_trans (changesOnly_mono (arrive_changes dt s) (by decide)) (changesOnly_mono (modRing_any _ _ _) (by decide))
  · let u := modRing (arriveAt a s) r.val fun g => { g with unsig := 0, timerAt := none }
    have run : exec (.coalesceTimer r) s = .next (signal u (ringOf s r.val).vector) := by
      change execCoalesceTimer r s = _
      rw [execCoalesceTimer, hat]
      rfl
    have did : changesOnly reportParts s (signal u (ringOf s r.val).vector) :=
      changesOnly_trans (changesOnly_mono (arriveAt_changes a s) (by decide))
        (changesOnly_trans (changesOnly_mono (modRing_changes _ _ _) (by decide)) (changesOnly_mono (signal_changes u _) (by decide)))
    have rings : ∀ q, ringOf (signal u (ringOf s r.val).vector) q = ringOf u q := fun q => by rw [ringOf, signal_rings]; rfl
    have clock : _ = u.tb := signal_changes u (ringOf s r.val).vector .tb (by decide)
    refine ⟨_, run, ?_, ?_, fun q hq => ?_, signal_mem u _, did, fun en fn unmasked => ?_, fun en masked hv => ?_, fun off => ?_⟩
    · rw [clock]
      exact arriveAt_now a s
    · rw [rings]
      exact ringOf_modRing_same (arriveAt a s) r.isLt _
    · rw [rings]
      exact ringOf_modRing_ne (arriveAt a s) hq.symm _
    · rw [signal_of_sent (s := u) en fn unmasked]
      rfl
    · rw [signal_of_masked (s := u) en masked]
      exact ⟨rfl, congrArg MsixEntry.pending (vget_vmod_same _ hv _ _)⟩
    · rw [signal_of_disabled (s := u) off]
      exact ⟨rfl, rfl⟩
end

section
/-! The engine of the Ladle (R100–R103). -/

namespace Sys2Proof.Machine

/-! ### The start of a move -/

/-- The channels in the order in which the engine looks for a move (R100). -/
def ladleOrder (s : State) : List Nat := (List.range 8).map fun i => (s.ldl.lastServed + 1 + i) % 8

/-- The first channel in cyclic order with a move that may start is found. -/
theorem find_ladleOrder {s : State} {i : Nat} (hi : i < 8) (ready : moveReady s ((s.ldl.lastServed + 1 + i) % 8) = true)
    (before : ∀ j < i, moveReady s ((s.ldl.lastServed + 1 + j) % 8) = false) :
    (ladleOrder s).find? (moveReady s) = some ((s.ldl.lastServed + 1 + i) % 8) := by
  have first : (List.range 8).find? (moveReady s ∘ fun i => (s.ldl.lastServed + 1 + i) % 8) = some i :=
    List.find?_range_eq_some.2 ⟨ready, List.mem_range.2 hi, fun j hj => by simpa using before j hj⟩
  rw [ladleOrder, List.find?_map, first]
  rfl

/-- The fall-back channel that a move names, reset as the move starts (R165). -/
def moveAssay (s : State) (c : Nat) : State :=
  match (chOf s c).move with
  | some m => match m.asy with
    | some f => modFb s f.val fun _ => { crc := 0, busy := true, done := false, trunc := false, ladle := c, tag := m.tag }
    | none => s
  | none => s

/-- The engine on a channel: its move started, and the channel the last served (R100). -/
def engineOn (s : State) (c : Nat) : State :=
  let t := modCh (moveAssay s c) c fun ch => { ch with move := ch.move.map fun m => { m with started := true } }
  { t with ldl := { t.ldl with running := some c, lastServed := c } }

theorem execLadleEngineStart_of_found {s : State} (dt : Nat) {c : Nat} (free : s.ldl.running = none)
    (found : (ladleOrder s).find? (moveReady s) = some c) : execLadleEngineStart dt s = .next (engineOn (arrive dt s) c) := by
  have free' : (arrive dt s).ldl.running = none := free
  have found' : ((List.range 8).map fun i => ((arrive dt s).ldl.lastServed + 1 + i) % 8).find? (moveReady (arrive dt s)) = some c := found
  simp only [execLadleEngineStart, free', Option.isSome_none, if_neg Bool.false_ne_true, found']
  rfl

theorem moveAssay_ch (s : State) (c : Nat) : (moveAssay s c).ldl.ch = s.ldl.ch ∧ (moveAssay s c).host = s.host := by
  unfold moveAssay
  split
  · split <;> exact ⟨rfl, rfl⟩
  · exact ⟨rfl, rfl⟩

theorem moveAssay_changes (s : State) (c : Nat) : changesOnly [.ldl] s (moveAssay s c) := by
  unfold moveAssay
  split
  · split
    · exact modFb_changes _ _ _
    · exact changesOnly_refl _ s
  · exact changesOnly_refl _ s

theorem engineOn_changes (s : State) (c : Nat) : changesOnly [.ldl] s (engineOn s c) := by
  unfold engineOn
  extract_lets t
  refine (changesOnly_set_ldl (x := t) (by decide) ?_).2 ?_
  · exact .inr ⟨rfl, rfl, rfl, rfl⟩
  · exact changesOnly_trans (moveAssay_changes s c) (modCh_changes _ c _)

/-! ### The end of a move -/

/-- What the bytes of a move leave as it is: the channels, and what AER has noted of reads. -/
structure EngineKeeps (s t : State) : Prop where
  ch : t.ldl.ch = s.ldl.ch
  aerRead : t.host.aerRead = s.host.aerRead

theorem EngineKeeps.trans {s t u : State} (h : EngineKeeps s t) (k : EngineKeeps t u) : EngineKeeps s u :=
  ⟨k.ch.trans h.ch, k.aerRead.trans h.aerRead⟩

theorem EngineKeeps.of_changes {s t : State} (h : changesOnly [.cru] s t) : EngineKeeps s t := by
  have host : _ = s.host := h .host (by decide)
  have ldl : _ = s.ldl := h .ldl (by decide)
  exact ⟨congrArg Ladle.ch ldl, congrArg HostIf.aerRead host⟩

theorem moveWrite_keeps (s : State) (m : Move) (n valid : Nat) (cells : Memory) : EngineKeeps s (moveWrite s m n valid cells) := by
  unfold moveWrite
  split
  · exact ⟨rfl, rfl⟩
  · exact ⟨rfl, rfl⟩
  · exact ⟨rfl, rfl⟩
  · extract_lets off
    split
    · split
      · exact .of_changes (writeHalf_changes _ _ _ _ _ _)
      · exact .of_changes (writeHalf_changes _ _ _ _ _ _)
    · exact ⟨rfl, rfl⟩
    · exact ⟨rfl, rfl⟩
    · exact ⟨rfl, rfl⟩

/-- A failed write of host memory is AER's to report, not a read (R103). -/
theorem moveFail_keeps (s : State) (old : Memory) (m : Move) (l : List (Nat × Nat)) : EngineKeeps s (moveFail s old m l) := by
  unfold moveFail
  extract_lets l
  split
  · exact ⟨rfl, rfl⟩
  · exact ⟨rfl, Bool.or_false _⟩

/-- The end of a move is the end at its channel and its command, after the bytes (R100, R101, R103). -/
theorem moveEnd_done (s : State) (c : Nat) (m : Move) (read : Nat) (e : Option Nat) (we : List (Nat × Nat)) :
    ∃ u high, moveEnd s c m read e we = moveDone u c m (moveOutcome m read e) high ∧ u.ldl.running = none ∧ u.ldl.ch = s.ldl.ch ∧
      ((moveOutcome m read e).cause = cHostRead → u.host.aerRead = true) := by
  unfold moveEnd
  extract_lets x noted cells written stored crc assayed high ldl committed
  have stores : EngineKeeps noted stored := (moveWrite_keeps _ _ _ _ _).trans (moveFail_keeps _ _ _ _)
  have assays : EngineKeeps stored assayed := by
    unfold assayed
    split <;> exact ⟨rfl, rfl⟩
  have commits : EngineKeeps assayed committed := by
    unfold committed
    split <;> exact ⟨rfl, rfl⟩
  have keeps := stores.trans (assays.trans commits)
  refine ⟨_, _, rfl, rfl, keeps.ch.trans ?_, fun failed => keeps.aerRead.trans ?_⟩
  · unfold noted
    split <;> rfl
  · unfold noted
    rw [if_pos failed]
    exact Bool.or_true _

theorem cmdEnd_aerRead (s : State) (c : Cmd) (status : Nat) (trunc : Bool) : (cmdEnd s c status trunc).host.aerRead = s.host.aerRead := by
  unfold cmdEnd
  extract_lets t
  split
  · rfl
  · exact (recordPush_reported t (Nat.le_add_right 16 _) _).aerRead

theorem moveDone_aerRead (s : State) (c : Nat) (m : Move) (x : MoveEnd) (high : Nat) :
    (moveDone s c m x high).host.aerRead = s.host.aerRead := by
  have signalled : (channelSignal m c (modCh s c (channelDone m x))).host.aerRead = s.host.aerRead := (channelSignal_reported m c _).aerRead
  obtain ⟨done, -⟩ | ⟨-, done⟩ | ⟨y, result, -, done⟩ := moveDone_cases s c m x high
  · rw [done, signalled]
  · rw [done]
    exact signalled
  · rw [done, cmdEnd_aerRead, signalled]

theorem execLadleMoveEnd_of_running {s : State} {c : Nat} {m : Move} (dt read : Nat) (e : Option Nat) (we : List (Nat × Nat))
    (running : s.ldl.running = some c) (moving : (chOf s c).move = some m) :
    execLadleMoveEnd dt read e we s = .next (moveEnd (arrive dt s) c m read e we) := by
  have running' : (arrive dt s).ldl.running = some c := running
  have moving' : (chOf (arrive dt s) c).move = some m := moving
  simp only [execLadleMoveEnd, running', moving']

end Sys2Proof.Machine

open Sys2Proof Sys2Proof.Machine

/-- Settles O25: the first ready channel in the engine's order, and the end of the move at its channel. -/
theorem ladleEngineServesInCyclicOrder : Obligations.LadleEngineServesInCyclicOrder := by
  unfold Obligations.LadleEngineServesInCyclicOrder
  refine ⟨fun dt s i free hi ready before => ?_, fun dt read e we s c m running hc moving => ?_⟩
  · have run := execLadleEngineStart_of_found dt free (find_ladleOrder hi ready before)
    have hc : (s.ldl.lastServed + 1 + i) % 8 < 8 := Nat.mod_lt _ (by decide)
    generalize (s.ldl.lastServed + 1 + i) % 8 = c at *
    obtain ⟨chs, host⟩ := moveAssay_ch (arrive dt s) c
    refine ⟨engineOn (arrive dt s) c, run, rfl, rfl, fun m hm => ?_, fun d hd other => ?_, ?_, ?_⟩
    · refine (congrArg LdlCh.move (chOf_modCh_same (moveAssay (arrive dt s) c) hc _)).trans ?_
      rw [chOf_congr chs]
      exact congrArg (Option.map fun m => { m with started := true }) hm
    · exact (chOf_modCh_ne _ other.symm _).trans (chOf_congr chs d)
    · exact (congrArg HostIf.mem host :)
    · exact changesOnly_trans (changesOnly_mono (arrive_changes dt s) (by decide)) (changesOnly_mono (engineOn_changes _ c) (by decide))
  · obtain ⟨u, high, ended, idle, chs, noted⟩ := moveEnd_done (arrive dt s) c m read e we
    have run := (execLadleMoveEnd_of_running dt read e we running moving).trans (congrArg _ ended)
    have channel := moveDone_chOf_same u hc m (moveOutcome m read e) high
    have did : changesOnly (withReports [.hmem, .dev, .ldl, .cru]) s (moveDone u c m (moveOutcome m read e) high) :=
      changesOnly_trans (changesOnly_mono (arrive_changes dt s) (by decide)) (ended ▸ changesOnly_mono (moveEnd_changes _ c m read e we) (by decide))
    have freed : (moveDone u c m (moveOutcome m read e) high).ldl.running = none := by
      rw [moveDone_ldl]
      exact idle
    refine ⟨_, run, freed, ?_, ?_, ?_, ?_, ?_, fun failed => ?_, fun d hd other => ?_, did⟩
    · rw [channel]; rfl
    · rw [channel]; rfl
    · rw [channel]; rfl
    · rw [channel]; rfl
    · rw [channel]; rfl
    · rw [moveDone_aerRead]
      exact noted failed
    · rw [moveDone_chOf_ne u other.symm]
      exact chOf_congr chs d
end

section
/-! Moves that enter their channel and moves withdrawn (R97, R101, R102, R189, R388). -/

namespace Sys2Proof.Machine

/-! ### An accepted row without a tick -/

/-- The command of a row running from its acceptance. -/
def rowRunning (x : CommandRow) (s : State) : Cmd := { rowStart x s with stage := .running none }

/-- A row without a tick that passes its checks does its effect as its command runs (R71). -/
theorem runCmd_of_rowAccepted {x : CommandRow} {s : State} (hacc : rowAccepted x s) (htick : x.f.tick (rowStart x s) = .none) :
    runCmd x.f x.dt x.ref x.d s = x.f.effect (rowListed x s (rowRunning x s)) (rowRunning x s) := by
  obtain ⟨hon, hok, hheld, hcheck⟩ := hacc
  have fetched : runCmd x.f x.dt x.ref x.d s = if cmdHeld (rowState x s) (rowStart x s) then rowState x s
      else cmdStart x.f (rowState x s) (rowCmd x s) := if_pos hon
  have started : cmdStart x.f (rowState x s) (rowCmd x s) = x.f.effect (cmdPut (rowState x s) (rowRunning x s)) (rowRunning x s) := by
    have hcheck' : cmdCheck x.f (rowState x s) { rowCmd x s with acceptAt := (rowState x s).tb.now } = none := hcheck
    have htick' : x.f.tick { rowCmd x s with acceptAt := (rowState x s).tb.now } = .none := htick
    simp only [cmdStart, hcheck', if_pos htick']
    rfl
  have put : cmdPut (rowState x s) (rowRunning x s) = rowListed x s (rowRunning x s) := cmdPut_rowListed x (y := rowCmd x s) hok rfl rfl
  rw [fetched, hheld, if_neg Bool.false_ne_true, started, put]

theorem firstRefuse_none_of_cons {b : Bool} {c : Nat} {l : List (Bool × Nat)} (h : firstRefuse ((b, c) :: l) = none) :
    b = false ∧ firstRefuse l = none := by
  cases b with
  | true => cases h
  | false => exact ⟨rfl, h⟩

/-- What passes all checks passes those of its own command. -/
theorem check_of_cmdCheck {f : CmdDef} {s : State} {c : Cmd} (h : cmdCheck f s c = none) : f.check s c = none := by
  unfold cmdCheck at h
  cases first : f.first s c with
  | some r => simp [first] at h
  | none =>
    rw [first, Option.orElse_none] at h
    split at h
    · exact h
    · exact absurd h (Option.some_ne_none _)

/-! ### A move enters its channel -/

/-- A command whose effect is that its channel holds a move: nothing else of the Ladle changes, and no byte moves (R97). -/
theorem move_enters (x : CommandRow) (s : State) {k : Nat} (hk : k < 8) (m : Move) :
    let t := modCh (rowListed x s (rowRunning x s)) k fun ch => { ch with move := some m }
    (chOf t k).move = some m ∧ (∀ j, j ≠ k → chOf t j = chOf s j) ∧ t.host.cmds = rowRuns x s ∧ t.out = [] ∧
      t.host.rings = s.host.rings ∧ changesOnly (withReports [.ldl]) s t := by
  intro t
  refine ⟨congrArg LdlCh.move (chOf_modCh_same _ hk _), fun j hj => chOf_modCh_ne _ hj.symm _, rfl, rfl, rfl, ?_⟩
  exact changesOnly_trans (changesOnly_mono (rowListed_changes x s _) (by decide)) (changesOnly_mono (modCh_changes _ k _) (by decide))

theorem dB_lt (d : Desc) (b : Nat) : dB d b < 256 := by
  have width : 8 * b + 7 + 1 - 8 * b = 8 := by omega
  have := bits_lt d.toNat (8 * b + 7) (8 * b)
  rwa [width] at this

theorem ladleMove_channel {s : State} {c : Cmd} (h : ladleMoveCheck s c = none) : dB c.d 16 < 8 := by
  have ranged : ladleRange s c.d = true := by
    simp only [ladleMoveCheck] at h
    split at h
    · exact absurd h (Option.some_ne_none _)
    · next ok => simpa using ok
  have top : bits (dB c.d 16) 7 3 = 0 := by
    simp only [ladleRange, Bool.and_eq_true, decide_eq_true_eq] at ranged
    obtain ⟨⟨⟨⟨⟨top, -⟩, -⟩, -⟩, -⟩, -⟩ := ranged
    exact top
  have small := dB_lt c.d 16
  simp only [bits, Nat.shiftRight_eq_div_pow] at top
  omega

theorem patternWrite_channel {s : State} {c : Cmd} (h : patternCheck s c = none) : dB c.d 17 < 8 := by
  unfold patternCheck at h
  extract_lets d f n range at h
  split at h
  · exact absurd h (Option.some_ne_none _)
  · next bad =>
    simp only [Bool.not_eq_true', Bool.not_eq_false, Bool.and_eq_true, decide_eq_true_eq] at bad
    obtain ⟨⟨⟨⟨⟨-, channel, -⟩, -⟩, -⟩, -⟩, -⟩ := bad
    exact Nat.lt_succ_of_le channel

theorem hbRead_channel {s : State} {c : Cmd} (h : hbReadCheck s c = none) (read : dB c.d 16 = 0) : dB c.d 18 < 8 := by
  obtain ⟨ranged, -⟩ := firstRefuse_none_of_cons h
  simp only [Bool.not_eq_false', hbReadRange, read, Bool.and_eq_true, decide_eq_true_eq] at ranged
  omega

/-- The move of a HB_READ of records (R388). -/
def hbReadMove (c : Cmd) : Move :=
  { ref := c.ref, seq := c.seq, kind := .hbRead, srcSp := dB c.d 17, src := (hbArea (dB c.d 17)).1 * dW c.d 20, dst := dQ c.d 28
    len := (hbArea (dB c.d 17)).1 * dW c.d 24, tag := BitVec.ofNat 16 (dH c.d 4) }

theorem hbReadEffect_of_read {s : State} {c : Cmd} (read : dB c.d 16 = 0) :
    hbReadEffect s c = modCh s (dB c.d 18) fun ch => { ch with move := some (hbReadMove c) } := if_pos read

/-! ### A withdrawal -/

theorem ladleWithdraw_channel {s : State} {c : Cmd} (h : ladleWithdrawDef.check s c = none) : dB c.d 16 < 8 := by
  obtain ⟨ranged, -⟩ := firstRefuse_none_of_cons h
  simp only [Bool.or_eq_false_iff, decide_eq_false_iff_not] at ranged
  omega

/-- A withdrawal, by what its channel holds (R102): nothing, a started move to be ended, or a move that leaves at once. -/
structure Withdrawn (s t : State) (k : Nat) : Prop where
  others : ∀ j, j ≠ k → chOf t j = chOf s j
  idle : (chOf s k).move = none → t.ldl = s.ldl ∧ t.host.cmds = s.host.cmds
  started : ∀ m, (chOf s k).move = some m → m.started = true →
    chOf t k = { chOf s k with move := some { m with withdrawn := true } } ∧ t.host.cmds = s.host.cmds
  waiting : ∀ m, (chOf s k).move = some m → m.started = false →
    (chOf t k).move = none ∧ (chOf t k).eoc = true ∧ (chOf t k).trunc = true ∧ (chOf t k).cause = 11 ∧ (chOf t k).count = 0

theorem withdraw_withdrawn (s : State) {k : Nat} (hk : k < 8) : Withdrawn s (withdraw s k) k := by
  cases hm : (chOf s k).move with
  | none =>
    rw [withdraw_of_none hm]
    exact ⟨fun _ _ => rfl, fun _ => ⟨rfl, rfl⟩, fun m h => by simp [hm] at h, fun m h => by simp [hm] at h⟩
  | some m =>
    cases started : m.started with
    | true =>
      rw [withdraw_of_started hm started]
      refine ⟨fun j hj => chOf_modCh_ne s hj.symm _, fun h => by simp [hm] at h, fun y h _ => ?_, fun y h waits => ?_⟩
      · obtain rfl : m = y := by simpa [hm] using h
        exact ⟨chOf_modCh_same s hk _, rfl⟩
      · obtain rfl : m = y := by simpa [hm] using h
        simp [started] at waits
    | false =>
      rw [withdraw_of_waiting hm started]
      refine ⟨fun j hj => moveDone_chOf_ne s hj.symm _ _ _, fun h => by simp [hm] at h, fun y h begun => ?_, fun y h _ => ?_⟩
      · obtain rfl : m = y := by simpa [hm] using h
        simp [started] at begun
      · rw [moveDone_chOf_same s hk]
        exact ⟨rfl, rfl, rfl, rfl, rfl⟩

/-- The effect of LADLE_WITHDRAW is the withdrawal and the end of its own command. -/
theorem ladleWithdraw_ends (s : State) (c : Cmd) :
    ∃ e st tr, e.seq = c.seq ∧ ladleWithdrawEffect s c = cmdEnd (withdraw s (dB c.d 16)) e st tr := by
  have done : ∀ (u : State) (y : Cmd), ∃ e st tr, e.seq = y.seq ∧ cmdDone u y = cmdEnd u e st tr := fun u y => by
    unfold cmdDone
    split
    · exact ⟨y, 0, false, rfl, rfl⟩
    · exact ⟨{ y with cause := y.lostTo }, 3, false, rfl, rfl⟩
  unfold ladleWithdrawEffect
  extract_lets k
  split
  · next none_there =>
    rw [withdraw_of_none (Option.isNone_iff_eq_none.1 none_there)]
    exact done s { c with cause := cNotActive }
  · exact done (withdraw s k) c

end Sys2Proof.Machine

open Sys2Proof Sys2Proof.Machine

/-- Settles O54: each move by the channel its command names, and the withdrawal by what the channel holds. -/
theorem movesEnterAndLeaveTheirChannel : Obligations.MovesEnterAndLeaveTheirChannel := by
  unfold Obligations.MovesEnterAndLeaveTheirChannel
  intro enters
  refine ⟨?_, ?_, ?_, ?_⟩
  · intro dt r d s x hacc e
    have run : exec (.ladleMove dt r d) s = .next (ladleMoveEffect (rowListed x s (rowRunning x s)) (rowRunning x s)) :=
      congrArg _ (runCmd_of_rowAccepted hacc rfl)
    obtain ⟨-, -, -, passes⟩ := hacc
    exact ⟨_, ⟨_, run, move_enters x s (ladleMove_channel (check_of_cmdCheck passes)) _⟩, rfl, rfl, rfl, rfl, rfl, rfl, rfl⟩
  · intro dt r d s x hacc e
    have run : exec (.patternWrite dt r d) s = .next (patternEffect (rowListed x s (rowRunning x s)) (rowRunning x s)) :=
      congrArg _ (runCmd_of_rowAccepted hacc rfl)
    obtain ⟨-, -, -, passes⟩ := hacc
    exact ⟨_, ⟨_, run, move_enters x s (patternWrite_channel (check_of_cmdCheck passes)) _⟩, rfl, rfl, rfl, rfl, rfl⟩
  · intro dt r d s x hacc e read
    have run : exec (.hbRead dt r d) s = .next (hbReadEffect (rowListed x s (rowRunning x s)) (rowRunning x s)) :=
      congrArg _ (runCmd_of_rowAccepted hacc rfl)
    rw [hbReadEffect_of_read (c := rowRunning x s) read] at run
    obtain ⟨-, -, -, passes⟩ := hacc
    exact ⟨_, ⟨_, run, move_enters x s (hbRead_channel (check_of_cmdCheck passes) read) _⟩, rfl, rfl, rfl, rfl, rfl⟩
  · intro dt r d s x hacc k
    let u := rowListed x s (rowRunning x s)
    have run : exec (.ladleWithdraw dt r d) s = .next (ladleWithdrawEffect u (rowRunning x s)) := congrArg _ (runCmd_of_rowAccepted hacc rfl)
    have did : changesOnly (withReports [.ldl]) s (ladleWithdrawEffect u (rowRunning x s)) :=
      changesOnly_trans (changesOnly_mono (rowListed_changes x s _) (by decide)) (changesOnly_mono (ladleWithdrawEffect_changes u _) (by decide))
    obtain ⟨-, hok, -, passes⟩ := hacc
    obtain ⟨others, idle, started, waiting⟩ := withdraw_withdrawn u (ladleWithdraw_channel (check_of_cmdCheck passes))
    obtain ⟨y, st, tr, own, ended⟩ : ∃ y st tr, y.seq = (rowRunning x s).seq ∧
        ladleWithdrawEffect u (rowRunning x s) = cmdEnd (withdraw u k) y st tr := ladleWithdraw_ends u (rowRunning x s)
    have ldl : (ladleWithdrawEffect u (rowRunning x s)).ldl = (withdraw u k).ldl := by rw [ended, cmdEnd_ldl]
    have ch : ∀ j, chOf (ladleWithdrawEffect u (rowRunning x s)) j = chOf (withdraw u k) j := chOf_congr (congrArg Ladle.ch ldl)
    have without : (withdraw u k).host.cmds = u.host.cmds → (ladleWithdrawEffect u (rowRunning x s)).host.cmds = s.host.cmds := fun h => by
      rw [ended, cmdEnd_cmds, h, own]
      exact rowListed_without x hok (y := rowRunning x s) rfl
    refine ⟨_, run, fun j hj => (ch j).trans (others j hj), did, fun h => ?_, fun m h begun => ?_, fun m h waits => ?_⟩
    · obtain ⟨stands, cmds⟩ := idle h
      exact ⟨ldl.trans stands, without cmds⟩
    · obtain ⟨marked, cmds⟩ := started m h begun
      exact ⟨(ch k).trans marked, without cmds⟩
    · rw [ch]
      exact waiting m h waits
end

section
/-! The fetch of a descriptor (R69, R71, R75, R77, R434). -/

namespace Sys2Proof.Machine

/-- The turn is that of a ring with a descriptor to fetch (R75). -/
theorem fetchable_of_turn {s : State} {r : Nat} (turn : fetchTurn s = some r) : fetchable s r = true := List.find?_some turn

theorem fetchable_iff {s : State} {r : Nat} :
    fetchable s r = true ↔ (ringOf s r).en = true ∧ (ringOf s r).prod ≠ (ringOf s r).cons ∧ fetchStalled s r = false := by
  simp only [fetchable, Bool.and_eq_true, bne_iff_ne, Bool.not_eq_true', and_assoc]

theorem fetchOne_of_otherTurn {s : State} {r : Fin 16} (turn : fetchTurn s ≠ some r.val) (err : Bool) : fetchOne s r err = s := if_pos turn

/-- The state after the device's index of a ring has stepped over the descriptor fetched (R69). -/
def ringStepped (s : State) (r : Nat) : State :=
  modRing { s with host := { s.host with lastRing := r } } r fun g => { g with cons := g.cons + 1 }

/-- The descriptor at the device's index of a ring (R64, R69). -/
def descAt (s : State) (r : Nat) : Desc :=
  let g := ringOf s r
  BitVec.ofNat 512 (leNat (hostRead s (ringBase g + 64 * (g.cons.toNat % ringSize g)) 64))

/-- The record of a descriptor whose read came back in error (R434). -/
def descLost (s : State) (r : Fin 16) : State :=
  recordPush (ringStepped s r.val) (16 + (ringOf s r.val).cplRing)
    (recordOf 0 { ref := ⟨r, (ringOf s r.val).cons⟩, d := 0, cause := cHostRead } 1 false)

theorem fetchOne_of_turn {s : State} {r : Fin 16} (turn : fetchTurn s = some r.val) (err : Bool) :
    fetchOne s r err = if err then aerReport (descLost s r) false
      else cmdFetched (defOf (dOp (descAt s r.val))) (ringStepped s r.val) ⟨r, (ringOf s r.val).cons⟩ (descAt s r.val) :=
  if_neg fun other => other turn

theorem forAll_of_id {n : Nat} {s : State} {f : State → Nat → State} (h : ∀ i, f s i = s) : forAll n s f = s := by
  unfold forAll
  induction List.range n with
  | nil => rfl
  | cons i l ih => rw [List.foldl_cons, h, ih]

theorem exec_descriptorFetch {s : State} (hon : domOn s 1 = true) (dt : Nat) (r : Fin 16) (n : Nat) (errs : List Nat) :
    exec (.descriptorFetch dt r n errs) s = .next (forAll (min n 8) (arrive dt s) fun t i => fetchOne t r (errs.contains i)) :=
  congrArg _ (if_pos hon)

/-- A row of one descriptor fetches the one whose number is 0. -/
theorem exec_descriptorFetch_one {s : State} (hon : domOn s 1 = true) (dt : Nat) (r : Fin 16) (errs : List Nat) :
    exec (.descriptorFetch dt r 1 errs) s = .next (fetchOne (arrive dt s) r (errs.contains 0)) :=
  exec_descriptorFetch hon dt r 1 errs

/-- A change of the host interface that leaves host memory and the rings. -/
theorem host_changes {s : State} (h : HostIf) (mem : h.mem = s.host.mem) (rings : h.rings = s.host.rings) :
    changesOnly [.host] s { s with host := h } := (changesOnly_set_host (by decide) (.inr ⟨mem, rings⟩)).2 (changesOnly_refl _ s)

theorem ringStepped_changes (s : State) (r : Nat) : changesOnly [.host] s (ringStepped s r) :=
  changesOnly_trans (host_changes { s.host with lastRing := r } rfl rfl) (modRing_changes _ r _)

/-- A fetched command that something holds is listed, and nothing more (R71, R74). -/
theorem cmdFetched_of_held {f : CmdDef} {s : State} {r : CmdRef} {d : Desc} (held : cmdHeld s { ref := r, d := d, seq := s.host.nextSeq } = true) :
    cmdFetched f s r d = { s with host := { s.host with
      cmds := s.host.cmds ++ [{ ref := r, d := d, seq := s.host.nextSeq }], nextSeq := s.host.nextSeq + 1 } } := by
  refine if_pos ?_
  unfold cmdHeld at held ⊢
  exact List.any_append.trans (by rw [held, Bool.true_or])

/-- A descriptor lost moves its ring, leaves a record, and lists no command (R434). -/
theorem descLost_reported (s : State) (r : Fin 16) : Reported (ringStepped s r.val) (descLost s r) :=
  recordPush_reported _ (Nat.le_add_right 16 _) _

end Sys2Proof.Machine

open Sys2Proof Sys2Proof.Machine

/-- Settles O49: whose turn it is, and what a fetch in turn and out of turn does. -/
theorem descriptorsAreFetchedInIndexOrder : Obligations.DescriptorsAreFetchedInIndexOrder := by
  unfold Obligations.DescriptorsAreFetchedInIndexOrder
  intro dt ring s hon g ref d
  have hr : ring.val < 36 := by omega
  have arrived : changesOnly reportParts s (arrive dt s) := changesOnly_mono (arrive_changes dt s) (by decide)
  have stepped : changesOnly reportParts s (ringStepped (arrive dt s) ring.val) :=
    changesOnly_trans arrived (changesOnly_mono (ringStepped_changes _ _) (by decide))
  have index : ringOf (ringStepped (arrive dt s) ring.val) ring.val = { g with cons := g.cons + 1 } := ringOf_modRing_same _ hr _
  refine ⟨fun cannot turn => ?_, fun other n errs => ?_, fun turn => ⟨?_, fun held => ?_, ?_⟩⟩
  · obtain ⟨en, waiting, free⟩ := fetchable_iff.1 (fetchable_of_turn turn)
    obtain off | empty | stalled := cannot
    · exact Bool.false_ne_true (off.symm.trans en)
    · exact waiting empty
    · exact Bool.false_ne_true (free.symm.trans stalled)
  · refine ⟨arrive dt s, ?_, rfl, rfl, arrived⟩
    rw [exec_descriptorFetch hon, forAll_of_id fun i => fetchOne_of_otherTurn (s := arrive dt s) other _]
  · have run : exec (.descriptorFetch dt ring 1 [0]) s = .next (aerReport (descLost (arrive dt s) ring) false) :=
      (exec_descriptorFetch_one hon dt ring [0]).trans (congrArg _ (fetchOne_of_turn (s := arrive dt s) turn true))
    have lost := descLost_reported (arrive dt s) ring
    have did : changesOnly reportParts s (aerReport (descLost (arrive dt s) ring) false) :=
      changesOnly_trans stepped (changesOnly_trans (changesOnly_mono (recordPush_changes _ _ _ (Nat.le_add_right 16 _)) (by decide))
        (changesOnly_mono (aerReport_changes _ false) (by decide)))
    refine ⟨_, run, ?_, ?_, Bool.or_true _, lost.cmds, did⟩
    · exact (congrArg Ring.cons ((lost.command _ ring.isLt).trans index)).trans rfl
    · exact (congrArg HostIf.lastRing lost.host).trans rfl
  · have fetched := cmdFetched_of_held (f := defOf (dOp d)) (s := ringStepped (arrive dt s) ring.val) (r := ref) (d := d) held
    have run := (exec_descriptorFetch_one hon dt ring []).trans (congrArg _ ((fetchOne_of_turn (s := arrive dt s) turn false).trans fetched))
    exact ⟨_, run, congrArg Ring.cons index, rfl, rfl, changesOnly_trans stepped (changesOnly_mono (host_changes _ rfl rfl) (by decide))⟩
  · exact (exec_descriptorFetch_one hon dt ring []).trans (congrArg _ (fetchOne_of_turn (s := arrive dt s) turn false))
end

section
/-! Requests of at most one word to BAR 0 (R92–R96, R426–R430). -/

namespace Sys2Proof.Machine

/-! ### A request that is not dark, and one that is -/

theorem busIf_of_ctlOn {s : State} (hon : domOn s 1 = true) (dt : Nat) {ok : Bool} (hok : ok = true) (q : BusReq) :
    busIf dt ok q s = busAccess (arrive dt s) q := if_pos (by rw [hok, Bool.and_true]; exact hon)

theorem busRead_of_word {off len : Nat} (legal : reqAborts off len = false) (lo : 1 ≤ len) (hi : len ≤ 4) (s : State) (req : BitVec 16) :
    busRead s req off len = respond (partRead s req off len).1 (.data (BitVec.ofNat 64 (partRead s req off len).2)) := by
  have nonzero : len ≠ 0 := by omega
  have single : len ≠ 8 := by omega
  simp only [busRead, legal, if_neg Bool.false_ne_true, if_neg nonzero, if_neg single]

theorem busWrite_of_word {off len : Nat} (legal : reqAborts off len = false) (lo : 1 ≤ len) (hi : len ≤ 4) (s : State) (req : BitVec 16) (v : Nat) :
    busWrite s req off len v = respond (partWrite s req off len v) .written := by
  have nonzero : len ≠ 0 := by omega
  have single : len ≠ 8 := by omega
  simp only [busWrite, legal, if_neg Bool.false_ne_true, if_neg nonzero, if_neg single]

theorem reqAborts_word {off : Nat} (h : off % 4 = 0) : reqAborts off 4 = false := by simp [reqAborts, h]

theorem aligned_of_legal {off : Nat} (h : reqAborts off 4 = false) : off % 4 = 0 := by simpa [reqAborts] using h

theorem partRead_of_lit {s : State} {off : Nat} (lit : darkAt s off = none) (req : BitVec 16) (len : Nat) :
    partRead s req off len = ((wordGet s req (off / 4 * 4)).1, enabledBytes off len (wordGet s req (off / 4 * 4)).2) := by
  simp only [partRead, lit]

theorem partRead_of_dark {s : State} {off b : Nat} (dark : darkAt s off = some b) (req : BitVec 16) (len : Nat) :
    partRead s req off len = (darkNote s off false b (enabledBytes off len (darkWord b)), enabledBytes off len (darkWord b)) := by
  simp only [partRead, dark]

theorem partWrite_of_dark {s : State} {off b : Nat} (dark : darkAt s off = some b) (req : BitVec 16) (len v : Nat) :
    partWrite s req off len v = darkNote s off true b 0 := by
  simp only [partWrite, dark]

theorem partWrite_of_undefined {s : State} {off : Nat} (lit : darkAt s off = none) (h : wordDefined (off / 4 * 4) = false) (req : BitVec 16) (len v : Nat) :
    partWrite s req off len v = s := by
  simp only [partWrite, lit, h, Bool.not_false, if_true]

theorem partWrite_of_narrow {s : State} {off len : Nat} (lit : darkAt s off = none) (h : wordDefined (off / 4 * 4) = true) (narrow : len < 4)
    (req : BitVec 16) (v : Nat) : partWrite s req off len v = writeReject s off := by
  simp only [partWrite, lit, h, Bool.not_true, if_neg Bool.false_ne_true, if_pos narrow]

theorem partWrite_of_word {s : State} {off : Nat} (lit : darkAt s off = none) (h : wordDefined off = true) (aligned : off % 4 = 0)
    (req : BitVec 16) (v : Nat) : partWrite s req off 4 v = wordPut s req off (v % 2 ^ 32) := by
  have whole : off / 4 * 4 = off := by omega
  simp only [partWrite, lit, whole, h, Bool.not_true, if_neg Bool.false_ne_true, Nat.lt_irrefl, if_false]

theorem enabledBytes_word {off : Nat} (aligned : off % 4 = 0) (w : Nat) : enabledBytes off 4 w = w % 2 ^ 32 := by
  simp only [enabledBytes, aligned, Nat.mul_zero, Nat.shiftRight_zero, Nat.reduceMul]

theorem wordRead_lt (s : State) (off : Nat) : wordRead s off < 2 ^ 32 := by
  unfold wordRead
  split
  · decide
  · split
    · exact Nat.mod_lt _ (by decide)
    · decide

/-- A 4-byte read of a word that is not dark. -/
theorem busRead_of_lit {s : State} {off : Nat} (lit : darkAt s off = none) (aligned : off % 4 = 0) (req : BitVec 16) :
    busRead s req off 4 = respond (wordGet s req off).1 (.data (BitVec.ofNat 64 ((wordGet s req off).2 % 2 ^ 32))) := by
  have whole : off / 4 * 4 = off := by omega
  rw [busRead_of_word (reqAborts_word aligned) (by decide) (by decide), partRead_of_lit lit, whole, enabledBytes_word aligned]

/-- A 4-byte write to a defined word that is not dark. -/
theorem busWrite_of_lit {s : State} {off : Nat} (lit : darkAt s off = none) (h : wordDefined off = true) (aligned : off % 4 = 0)
    (req : BitVec 16) (v : Nat) : busWrite s req off 4 v = respond (wordPut s req off (v % 2 ^ 32)) .written := by
  rw [busWrite_of_word (reqAborts_word aligned) (by decide) (by decide), partWrite_of_word lit h aligned]

end Sys2Proof.Machine
end

section
/-! The two words of a 64-bit quantity (R94, R96). -/

namespace Sys2Proof.Machine

/-! ### Reads -/

theorem shadowOf_latch_same (s : State) (x : Shadow) : shadowOf (shadowLatch s x) x.req = some x := by
  simp [shadowOf, shadowLatch]

theorem shadowOf_drop_same (s : State) (req : BitVec 16) : shadowOf (shadowDrop s req) req = none := by
  simp [shadowOf, shadowDrop]

theorem wordGet_of_low {s : State} {off : Nat} (low : (lowWord off).isSome = true) (h : off ≠ 0x60030) (req : BitVec 16) :
    wordGet s req off = (shadowLatch s ⟨req, off, BitVec.ofNat 32 (wordRead s (off + 4))⟩, wordRead s off) := by
  simp only [wordGet, if_neg h, low, if_true]

theorem wordGet_of_shadow {s : State} {off : Nat} {req : BitVec 16} {x : Shadow} (high : (highWord off).isSome = true)
    (low : (lowWord off).isSome = false) (h : off ≠ 0x60030) (hx : shadowOf s req = some x) (own : x.off + 4 = off) :
    wordGet s req off = (shadowDrop s req, x.word.toNat) := by
  simp only [wordGet, if_neg h, low, if_neg Bool.false_ne_true, high, if_true, hx, if_pos own]

theorem wordGet_of_noShadow {s : State} {off : Nat} {req : BitVec 16} (high : (highWord off).isSome = true)
    (low : (lowWord off).isSome = false) (h : off ≠ 0x60030) (hx : ∀ x, shadowOf s req = some x → x.off + 4 ≠ off) :
    wordGet s req off = (splitMiss s, wordRead s off) := by
  simp only [wordGet, if_neg h, low, if_neg Bool.false_ne_true, high, if_true]
  split
  · next x found => exact if_neg (hx x found)
  · rfl

/-- A read that changes nothing but the host interface beside the rings and host memory. -/
theorem read_reports {s t : State} (dt : Nat) (h : changesOnly [.host] (arrive dt s) t) (r : Resp) : changesOnly reportParts s (respond t r) :=
  changesOnly_trans (changesOnly_mono (arrive_changes dt s) (by decide))
    (changesOnly_trans (changesOnly_mono h (by decide)) (changesOnly_mono (respond_changes t r) (by decide)))

/-! ### Writes -/

/-- A low word held by its requester (R96). -/
def heldLowPut (s : State) (x : Shadow) : State := { s with host := { s.host with heldLow := s.host.heldLow ++ [x] } }

theorem wordPut_of_low {s : State} {off : Nat} (low : lowWord off = some true) (req : BitVec 16) (v : Nat) :
    wordPut s req off v = heldLowPut (heldMiss s req) ⟨req, off, BitVec.ofNat 32 v⟩ := by
  simp only [wordPut, low, Option.isSome_some, if_true]
  rfl

theorem wordPut_of_high {s : State} {off : Nat} {req : BitVec 16} {x : Shadow} (high : highWord off = some true)
    (low : (lowWord off).isSome = false) (hx : heldOf s req = some x) (own : x.off + 4 = off) (v : Nat) :
    wordPut s req off v = wordSet (wordSet (heldDrop s req) x.off x.word.toNat) off v := by
  simp only [wordPut, low, if_neg Bool.false_ne_true, high, Option.isSome_some, if_true, hx, if_pos own]

theorem heldOf_drop_same (s : State) (req : BitVec 16) : heldOf (heldDrop s req) req = none := by
  simp [heldOf, heldDrop]

theorem heldOf_miss_same (s : State) (req : BitVec 16) : heldOf (heldMiss s req) req = none := by
  unfold heldMiss
  split
  · exact heldOf_drop_same s req
  · next free => simpa using free

/-- What is left of the host interface by a dropped low word: SPLIT_MISS, and the words held. -/
theorem heldMiss_host (s : State) (req : BitVec 16) : (heldMiss s req).host =
    { s.host with heldLow := (heldMiss s req).host.heldLow, splitMiss := s.host.splitMiss || (heldOf s req).isSome } := by
  unfold heldMiss
  split
  · next held => simp only [splitMiss, heldDrop, held, Bool.or_true]
  · next free => simp only [Bool.eq_false_iff.2 free, Bool.or_false]

theorem heldOf_put_same {s : State} {x : Shadow} (free : heldOf s x.req = none) : heldOf (heldLowPut s x) x.req = some x := by
  unfold heldOf at free ⊢
  simp [heldLowPut, List.find?_append, free]

/-! ### The rows -/

/-- A 4-byte read of a lit word with CTL on. -/
theorem busIf_read {s t : State} {dt w : Nat} {req : BitVec 16} {off : BitVec 24} {ok : Bool} (hon : domOn s 1 = true) (hok : ok = true)
    (aligned : off.toNat % 4 = 0) (lit : darkAt (arrive dt s) off.toNat = none) (got : wordGet (arrive dt s) req off.toNat = (t, w))
    (small : w < 2 ^ 32) : busIf dt ok { req := req, off := off } s = respond t (.data (BitVec.ofNat 64 w)) := by
  rw [busIf_of_ctlOn hon dt hok]
  refine (busRead_of_lit lit aligned req).trans ?_
  rw [got, Nat.mod_eq_of_lt small]

/-- A 4-byte write of a lit, defined word with CTL on. -/
theorem busIf_write {s : State} {dt : Nat} {req : BitVec 16} {off : BitVec 24} {ok : Bool} (hon : domOn s 1 = true) (hok : ok = true)
    (aligned : off.toNat % 4 = 0) (lit : darkAt (arrive dt s) off.toNat = none) (defined : wordDefined off.toNat = true) (v : BitVec 32) :
    busIf dt ok { req := req, write := true, off := off, value := v.setWidth 64 } s =
      respond (wordPut (arrive dt s) req off.toNat v.toNat) .written := by
  have value : (v.setWidth 64).toNat % 2 ^ 32 = v.toNat := by
    have := v.isLt
    simp only [BitVec.toNat_setWidth]
    omega
  rw [busIf_of_ctlOn hon dt hok]
  refine (busWrite_of_lit lit defined aligned req _).trans ?_
  rw [value]

end Sys2Proof.Machine

open Sys2Proof Sys2Proof.Machine

/-- Settles O50: each half by what its requester has latched or holds. -/
theorem splitReadsAndWrites : Obligations.SplitReadsAndWrites := by
  unfold Obligations.SplitReadsAndWrites
  intro dt req off s hon aligned a o lit
  refine ⟨fun low hq => ?_, fun high low hq => ?_, fun v low defined => ?_, fun v x high low defined hx own => ⟨?_, heldOf_drop_same a req⟩⟩
  · have run : exec (.lowWordRead dt req off) s = .next _ :=
      congrArg Host.Outcome.next (busIf_read hon low aligned lit (wordGet_of_low low hq req) (wordRead_lt a o))
    exact ⟨_, run, read_reports dt (shadowLatch_changes a _) _, rfl, rfl, shadowOf_latch_same a ⟨req, o, _⟩⟩
  · by_cases hit : ∃ x, shadowOf s req = some x ∧ x.off + 4 = o
    · obtain ⟨x, hx, own⟩ := hit
      have run : exec (.highWordRead dt req off) s = .next _ :=
        congrArg Host.Outcome.next (busIf_read hon high aligned lit (wordGet_of_shadow high low hq hx own) x.word.isLt)
      refine ⟨_, run, read_reports dt (shadowDrop_changes a req) _, fun y hy _ => ?_, fun none_own => absurd own (none_own x hx)⟩
      obtain rfl : x = y := Option.some.inj (hx.symm.trans hy)
      exact ⟨congrArg Resp.data (BitVec.ofNat_toNat 64 x.word), shadowOf_drop_same a req, rfl⟩
    · have missed : ∀ x, shadowOf s req = some x → x.off + 4 ≠ o := fun x hx own => hit ⟨x, hx, own⟩
      have run : exec (.highWordRead dt req off) s = .next _ :=
        congrArg Host.Outcome.next (busIf_read hon high aligned lit (wordGet_of_noShadow high low hq missed) (wordRead_lt a o))
      exact ⟨_, run, read_reports dt (splitMiss_changes a) _, fun y hy own => absurd own (missed y hy), fun _ => ⟨rfl, rfl, rfl⟩⟩
  · have run : exec (.lowWordWrite dt req off v) s = .next (respond (heldLowPut (heldMiss a req) ⟨req, o, v⟩) .written) := by
      refine congrArg Host.Outcome.next ((busIf_write hon (by rw [low]; rfl) aligned lit defined v).trans ?_)
      rw [wordPut_of_low low, BitVec.ofNat_toNat, BitVec.setWidth_eq]
    have held : heldOf (heldLowPut (heldMiss a req) ⟨req, o, v⟩) req = some ⟨req, o, v⟩ :=
      heldOf_put_same (x := ⟨req, o, v⟩) (heldOf_miss_same a req)
    have host := heldMiss_host a req
    have put : changesOnly [.host] a (heldLowPut (heldMiss a req) ⟨req, o, v⟩) :=
      changesOnly_trans (heldMiss_changes a req) (host_changes _ rfl rfl)
    exact ⟨_, run, read_reports dt put _, rfl, held, (congrArg HostIf.rings host :), (congrArg HostIf.mem host :), (congrArg HostIf.splitMiss host :)⟩
  · have run : exec (.highWordWrite dt req off v) s = .next _ :=
      congrArg Host.Outcome.next (busIf_write hon (by rw [high]; rfl) aligned lit defined v)
    rw [run, wordPut_of_high (s := a) high low hx own]
end

section
/-! Requests to a dark block, and illegal ones (R92, R93, R426). -/

namespace Sys2Proof.Machine

theorem locate_block {off b o : Nat} (h : locate off = some (b, o)) : b < 0x18 := by
  unfold locate at h
  split at h
  · cases h
    omega
  · split at h
    · cases h; decide
    · split at h
      · cases h; decide
      · split at h
        · cases h; decide
        · cases h

theorem darkAt_block {s : State} {off b : Nat} (h : darkAt s off = some b) : b < 0x18 := by
  unfold darkAt at h
  split at h
  · cases h
  · next found =>
    extract_lets d at h
    split at h
    · cases h
      exact locate_block found
    · cases h

/-- The log of a dark access, before its event (R93). -/
def darkLog (s : State) (off : Nat) (wr : Bool) : State :=
  { s with host := { s.host with
    accessDark := true, darkWr := wr, darkOffset := BitVec.ofNat 24 off, darkCount := min 255 (s.host.darkCount + 1) } }

/-- A dark access is logged, and the first since the flag was cleared may post an event (R93). -/
theorem darkNote_eq (s : State) (off : Nat) (wr : Bool) (b v : Nat) :
    darkNote s off wr b v = if s.host.accessDark then darkLog s off wr
      else post (darkLog s off wr) 0x0102 9 0xFFFF (off ||| b2n wr <<< 32 ||| b <<< 40 ||| v <<< 64) := by
  cases h : s.host.accessDark <;> simp only [darkNote, h, Bool.not_true, Bool.not_false, if_true, if_neg Bool.false_ne_true] <;> rfl

theorem darkNote_reported (s : State) (off : Nat) (wr : Bool) (b v : Nat) : Reported (darkLog s off wr) (darkNote s off wr b v) := by
  rw [darkNote_eq]
  exact .ite (.refl _) (post_reported _ _ _ _ _)

/-- What a request to a dark block answers: the dark word, or nothing written (R92). -/
theorem busAccess_of_dark {s : State} {q : BusReq} {b : Nat} (legal : reqAborts q.off.toNat q.len = false) (lo : 1 ≤ q.len) (hi : q.len ≤ 4)
    (dark : darkAt s q.off.toNat = some b) :
    ∃ v r, busAccess s q = respond (darkNote s q.off.toNat q.write b v) r ∧
      (q.len = 4 → r = if q.write then .written else .data (BitVec.ofNat 64 (0x0BAD0000 + b))) := by
  unfold busAccess
  cases hw : q.write with
  | true =>
    rw [if_pos rfl, busWrite_of_word legal lo hi, partWrite_of_dark dark]
    exact ⟨0, .written, rfl, fun _ => rfl⟩
  | false =>
    rw [if_neg Bool.false_ne_true, busRead_of_word legal lo hi, partRead_of_dark dark]
    refine ⟨_, _, rfl, fun whole => ?_⟩
    have block := darkAt_block dark
    rw [whole] at legal ⊢
    rw [enabledBytes_word (aligned_of_legal legal), darkWord, Nat.mod_eq_of_lt (by omega), if_neg Bool.false_ne_true]

theorem busAccess_of_illegal {q : BusReq} (h : reqAborts q.off.toNat q.len = true) (s : State) : busAccess s q = respond s .abort := by
  unfold busAccess
  split
  · exact if_pos h
  · exact if_pos h

end Sys2Proof.Machine

open Sys2Proof Sys2Proof.Machine

/-- Settles O51: the log of the dark access and its answer, and the abort. -/
theorem darkAndIllegalRequests : Obligations.DarkAndIllegalRequests := by
  unfold Obligations.DarkAndIllegalRequests
  intro dt q s hon
  refine ⟨fun b legal lo hi dark => ?_, fun illegal => ?_⟩
  · obtain ⟨v, r, answered, word⟩ := busAccess_of_dark legal lo hi dark
    let t := darkNote (arrive dt s) q.off.toNat q.write b v
    have run : exec (.accessDark dt q) s = .next (respond t r) :=
      congrArg Host.Outcome.next ((busIf_of_ctlOn hon dt (by rw [dark]; rfl) q).trans answered)
    have host := (darkNote_reported (arrive dt s) q.off.toNat q.write b v).host
    have logged : changesOnly [.host] (arrive dt s) (darkLog (arrive dt s) q.off.toNat q.write) := host_changes _ rfl rfl
    have did : changesOnly (withReports [.pwr]) s (respond t r) :=
      changesOnly_trans (changesOnly_mono (arrive_changes dt s) (by decide))
        (changesOnly_trans (changesOnly_mono (darkNote_changes _ _ _ _ _) (by decide)) (changesOnly_mono (respond_changes _ _) (by decide)))
    refine ⟨_, run, word, (congrArg HostIf.accessDark host :), (congrArg HostIf.darkWr host :), ?_, (congrArg HostIf.darkCount host :),
      fun again => ?_, did⟩
    · exact (congrArg HostIf.darkOffset host).trans (BitVec.ofNat_toNat 24 q.off)
    · have quiet : t = darkLog (arrive dt s) q.off.toNat q.write := (darkNote_eq _ _ _ _ _).trans (if_pos again)
      rw [quiet]
      exact ⟨rfl, rfl, rfl, read_reports dt logged r⟩
  · have run : exec (.completerAbort dt q) s = .next (respond (arrive dt s) .abort) :=
      congrArg Host.Outcome.next ((busIf_of_ctlOn hon dt illegal q).trans (busAccess_of_illegal illegal _))
    exact ⟨_, run, rfl, rfl, rfl, rfl, read_reports dt (changesOnly_refl _ _) _⟩
end

section
/-! Register writes, and the MSI-X table (R90, R426, R427, R429). -/

namespace Sys2Proof.Machine

/-! ### BAR 0 -/

theorem exec_registerWrite_bar0 {s : State} (hon : domOn s 1 = true) (dt : Nat) {q : BusReq} (hw : q.write = true)
    (legal : reqAborts q.off.toNat q.len = false) (lo : 1 ≤ q.len) (hi : q.len ≤ 4) :
    exec (.registerWrite dt .bar0 q) s = .next (respond (partWrite (arrive dt s) q.req q.off.toNat q.len q.value.toNat) .written) := by
  have hon' : domOn (arrive dt s) 1 = true := hon
  have written : busAccess (arrive dt s) q = respond (partWrite (arrive dt s) q.req q.off.toNat q.len q.value.toNat) .written := by
    rw [busAccess, if_pos hw, busWrite_of_word legal lo hi]
  change execRegisterWrite dt .bar0 q s = _
  simp only [execRegisterWrite, hon', Bool.not_true, if_neg Bool.false_ne_true, written]

/-- A write discarded into GEN_WR_REJ (R426, R429). -/
theorem writeReject_reports (dt : Nat) (s : State) (off : BitVec 24) :
    changesOnly (withReports [.gen]) s (respond (writeReject (arrive dt s) off.toNat) .written) ∧
      (respond (writeReject (arrive dt s) off.toNat) .written).gen =
        { s.gen with wrRej := true, wrRejCount := min 0x7F (s.gen.wrRejCount + 1), wrRejOffset := off } := by
  refine ⟨changesOnly_trans (changesOnly_mono (arrive_changes dt s) (by decide))
    (changesOnly_trans (changesOnly_mono (writeReject_changes _ _) (by decide)) (changesOnly_mono (respond_changes _ _) (by decide))), ?_⟩
  have named : BitVec.ofNat 24 off.toNat = off := BitVec.ofNat_toNat 24 off
  simp only [respond, writeReject, satTo, named, arrive, wait]

theorem wordDefined_of_regAt {off b p : Nat} {x : RegDef × Nat} (place : locate off = some (b, p)) (reg : regAt b p = some x) :
    wordDefined off = true := by
  simp only [wordDefined, place, reg, Option.isSome_some]

/-- A word that is no half of a pair goes to its register. -/
theorem wordPut_of_single {off : Nat} (low : (lowWord off).isSome = false) (high : (highWord off).isSome = false) (s : State) (req : BitVec 16)
    (v : Nat) : wordPut s req off v = wordSet s off v := by
  simp only [wordPut, low, high, if_neg Bool.false_ne_true]

theorem wordSet_of_taken {s u : State} {off b p k v : Nat} {r : RegDef} (place : locate off = some (b, p)) (reg : regAt b p = some (r, k))
    (taken : r.write s k v = some u) : wordSet s off v = u := by
  simp only [wordSet, place, reg, taken]

theorem wordSet_of_refused {s : State} {off b p k v : Nat} {r : RegDef} (place : locate off = some (b, p)) (reg : regAt b p = some (r, k))
    (refused : r.write s k v = none) : wordSet s off v = writeReject s off := by
  simp only [wordSet, place, reg, refused]

/-! ### The MSI-X table -/

theorem vget_fin {α : Type} {n : Nat} (v : Vector α n) (i : Fin n) (d : α) : vget v i.val d = v[i] := by simp [vget]

theorem vmod_fin_same {α : Type} {n : Nat} (v : Vector α n) (i : Fin n) (f : α → α) : (vmod v i.val f)[i] = f v[i] := by
  simp [vmod]

theorem vmod_fin_ne {α : Type} {n : Nat} (v : Vector α n) {i j : Fin n} (h : j ≠ i) (f : α → α) : (vmod v i.val f)[j] = v[j] := by
  have apart : i.val ≠ j.val := fun e => h (Fin.ext e.symm)
  have := vget_vmod_ne v apart f v[j]
  rwa [vget_fin, vget_fin] at this

/-- An entry of the MSI-X table after a write of its word w. -/
def msixStored (w x : Nat) (e : MsixEntry) : MsixEntry :=
  match w with
  | 0 => { e with addr := BitVec.ofNat 64 (e.addr.toNat / 2 ^ 32 * 2 ^ 32 + x / 4 * 4) }
  | 1 => { e with addr := BitVec.ofNat 64 (e.addr.toNat % 2 ^ 32 + x * 2 ^ 32) }
  | 2 => { e with data := BitVec.ofNat 32 x }
  | _ => { e with masked := bit x 0 }

/-- An entry of the MSI-X table changed. -/
def modMsix (s : State) (v : Nat) (f : MsixEntry → MsixEntry) : State := { s with host := { s.host with msix := vmod s.host.msix v f } }

theorem msixWord_eq (s : State) (v w x : Nat) : msixWord s v w x = pendingSend (modMsix s v (msixStored w x)) v := by
  unfold msixStored
  rfl

theorem modMsix_changes (s : State) (v : Nat) (f : MsixEntry → MsixEntry) : changesOnly [.host] s (modMsix s v f) := host_changes _ rfl rfl

/-- The message of a vector goes out, or the vector stands (R90). -/
theorem pendingSend_cases (s : State) (v : Fin 64) :
    let e := s.host.msix[v]
    ((s.host.msixEn = true ∧ s.host.msixFnMask = false ∧ e.masked = false ∧ e.pending = true) ∧
        pendingSend s v.val = send (modMsix s v.val fun e => { e with pending := false }) (.msix v.val e.addr e.data)) ∨
      (¬ (s.host.msixEn = true ∧ s.host.msixFnMask = false ∧ e.masked = false ∧ e.pending = true) ∧ pendingSend s v.val = s) := by
  intro e
  have entry : vget s.host.msix v.val {} = e := vget_fin _ v _
  simp only [pendingSend, entry]
  split
  · next goes => exact .inl ⟨by simpa [and_assoc] using goes, rfl⟩
  · next stays => exact .inr ⟨by simpa [and_assoc] using stays, rfl⟩

/-- Whether its message goes out or not, an entry keeps all but its pending bit, and every other entry stands. -/
theorem pendingSend_entries (s : State) (v : Fin 64) :
    (pendingSend s v.val).host.msix[v].data = s.host.msix[v].data ∧ (pendingSend s v.val).host.msix[v].masked = s.host.msix[v].masked ∧
      ∀ u : Fin 64, u ≠ v → (pendingSend s v.val).host.msix[u] = s.host.msix[u] := by
  obtain ⟨-, sent⟩ | ⟨-, stands⟩ := pendingSend_cases s v
  · rw [sent]
    have own := vmod_fin_same s.host.msix v fun e => { e with pending := false }
    exact ⟨(congrArg MsixEntry.data own :), (congrArg MsixEntry.masked own :), fun u hu => vmod_fin_ne s.host.msix hu _⟩
  · rw [stands]
    exact ⟨rfl, rfl, fun _ _ => rfl⟩

theorem bar2Access_of_word {s : State} {q : BusReq} (hw : q.write = true) (len : q.len = 4) (aligned : q.off.toNat % 0x10000 % 4 = 0) :
    bar2Access s q = respond (bar2Write s (q.off.toNat % 0x10000) q.value.toNat) .written := by
  simp [bar2Access, hw, len, aligned]

/-- A word of the MSI-X table is written through BAR 2 (R90). -/
theorem exec_registerWrite_msix {s : State} (hon : domOn s 1 = true) (dt : Nat) (v : Fin 64) (w : Fin 4) (x : BitVec 32) :
    exec (.registerWrite dt .bar2
        { write := true, off := BitVec.ofNat 24 (0x8000 + 16 * v.val + 4 * w.val), len := 4, value := x.setWidth 64 }) s =
      .next (respond (pendingSend (modMsix (arrive dt s) v.val (msixStored w.val x.toNat)) v.val) .written) := by
  let off := 0x8000 + 16 * v.val + 4 * w.val
  let q : BusReq := { write := true, off := BitVec.ofNat 24 off, len := 4, value := x.setWidth 64 }
  have hon' : domOn (arrive dt s) 1 = true := hon
  have place : q.off.toNat % 0x10000 = off := by
    change (BitVec.ofNat 24 off).toNat % 0x10000 = off
    rw [BitVec.toNat_ofNat]
    omega
  have noDoorbell : doorbellRing off = none := if_neg (by omega)
  have entry : bar2Write (arrive dt s) off q.value.toNat = msixWord (arrive dt s) v.val w.val x.toNat := by
    have hv : (off - 0x8000) / 16 = v.val := by omega
    have hw : off / 4 % 4 = w.val := by omega
    have hx : q.value.toNat % 2 ^ 32 = x.toNat := by
      have := x.isLt
      change (x.setWidth 64).toNat % 2 ^ 32 = _
      rw [BitVec.toNat_setWidth]
      omega
    rw [bar2Write, if_pos (by omega), hv, hw, hx]
  change execRegisterWrite dt .bar2 q s = _
  simp only [execRegisterWrite, hon', Bool.not_true, if_neg Bool.false_ne_true, place, noDoorbell]
  rw [bar2Access_of_word rfl rfl (by rw [place]; omega), place, entry, msixWord_eq]

end Sys2Proof.Machine

open Sys2Proof Sys2Proof.Machine

/-- Settles O52: the write by R427's order, the table's word by its place, the unmasked vector by its pending bit. -/
theorem registerWritesAndUnmaskedVectors : Obligations.RegisterWritesAndUnmaskedVectors := by
  unfold Obligations.RegisterWritesAndUnmaskedVectors
  refine ⟨fun dt q s hon hw legal => ?_, fun dt v w x s hon => ?_, fun dt v s hon en fn => ?_⟩
  · intro a o lit
    refine ⟨fun lo hi undefined => ?_, fun lo narrow defined => ?_, fun b p r k len low high place reg => ?_⟩
    · have run := exec_registerWrite_bar0 hon dt hw legal lo hi
      rw [partWrite_of_undefined lit undefined] at run
      exact ⟨_, run, rfl, read_reports dt (changesOnly_refl _ _) _⟩
    · have run := exec_registerWrite_bar0 hon dt hw legal lo (Nat.le_of_lt narrow)
      rw [partWrite_of_narrow lit defined narrow] at run
      obtain ⟨did, gen⟩ := writeReject_reports dt s q.off
      exact ⟨_, run, did, gen⟩
    · have run := exec_registerWrite_bar0 hon dt hw legal (by omega) (by omega)
      rw [len] at run legal
      rw [partWrite_of_word lit (wordDefined_of_regAt place reg) (aligned_of_legal legal), wordPut_of_single low high] at run
      refine ⟨fun u taken => ?_, fun refused => ?_⟩
      · rw [wordSet_of_taken place reg taken] at run
        exact run
      · rw [wordSet_of_refused place reg refused] at run
        obtain ⟨did, gen⟩ := writeReject_reports dt s q.off
        exact ⟨_, run, did, gen⟩
  · let u := modMsix (arrive dt s) v.val (msixStored w.val x.toNat)
    have own : u.host.msix[v] = msixStored w.val x.toNat s.host.msix[v] := vmod_fin_same s.host.msix v _
    obtain ⟨data, masked, others⟩ := pendingSend_entries u v
    have did : changesOnly reportParts s (respond (pendingSend u v.val) .written) :=
      changesOnly_trans (changesOnly_mono (arrive_changes dt s) (by decide)) (changesOnly_trans (changesOnly_mono (modMsix_changes _ _ _) (by decide))
        (changesOnly_trans (changesOnly_mono (pendingSend_changes u v.val) (by decide)) (changesOnly_mono (respond_changes _ _) (by decide))))
    refine ⟨_, exec_registerWrite_msix hon dt v w x, did, fun hw => data.trans ?_, fun hw => masked.trans ?_, fun y hy => (others y hy).trans ?_⟩
    · rw [own, hw]
      exact BitVec.ofNat_toNat 32 x
    · rw [own, hw]
      rfl
    · exact vmod_fin_ne s.host.msix hy _
  · let u := modMsix (arrive dt s) v.val fun e => { e with masked := false }
    have hon' : domOn (arrive dt s) 1 = true := hon
    have run : exec (.msixUnmask dt (some v)) s = .next (pendingSend u v.val) := by
      change execMsixUnmask dt (some v) s = _
      simp only [execMsixUnmask, hon', Bool.not_true, if_neg Bool.false_ne_true]
      rfl
    have own : u.host.msix[v] = { s.host.msix[v] with masked := false } := vmod_fin_same s.host.msix v _
    have did : changesOnly reportParts s (pendingSend u v.val) :=
      changesOnly_trans (changesOnly_mono (arrive_changes dt s) (by decide)) (changesOnly_trans (changesOnly_mono (modMsix_changes _ _ _) (by decide))
        (changesOnly_mono (pendingSend_changes u v.val) (by decide)))
    obtain ⟨-, masked, -⟩ := pendingSend_entries u v
    have unmasked : (pendingSend u v.val).host.msix[v].masked = false := masked.trans (congrArg MsixEntry.masked own)
    have pending : u.host.msix[v].pending = s.host.msix[v].pending := by rw [own]
    obtain ⟨⟨-, -, -, waits⟩, sent⟩ | ⟨stays, stands⟩ := pendingSend_cases u v
    · have cleared := vmod_fin_same u.host.msix v fun e => { e with pending := false }
      rw [if_pos (pending.symm.trans waits)]
      refine ⟨_, run, unmasked, ?_, ?_, ?_, did⟩
      all_goals rw [sent]
      · exact (congrArg MsixEntry.pending cleared :)
      · rw [own]
        rfl
      · rfl
    · have idle : s.host.msix[v].pending = false :=
        pending.symm.trans (Bool.eq_false_iff.2 fun waits => stays ⟨en, fn, congrArg MsixEntry.masked own, waits⟩)
      rw [if_neg (Bool.eq_false_iff.1 idle)]
      refine ⟨_, run, unmasked, ?_, ?_, ?_, did⟩
      all_goals rw [stands]
      · exact pending.trans idle
      · rfl
      · rfl
end

section
/-! The numbers of the commands in progress from step to step (R71, R74, R75, R104; the numbers are the model's own, log 2): every
operation of the model keeps them distinct and below the next one. -/

namespace Sys2Proof.Machine

/-! ### The numbers of a host interface -/

/-- The commands of a host interface bear different numbers, all below the next one. -/
def Numbered (h : HostIf) : Prop := (h.cmds.map (·.seq)).Nodup ∧ ∀ c ∈ h.cmds, c.seq < h.nextSeq

theorem ite_numbered {s t : State} {p : Prop} [Decidable p] (hs : Numbered s.host) (ht : Numbered t.host) :
    Numbered (if p then s else t).host := by
  split
  · exact hs
  · exact ht

theorem foldl_numbered {α : Type} {f : State → α → State} {s : State} {l : List α} (h : Numbered s.host)
    (hf : ∀ s x, Numbered s.host → Numbered (f s x).host) : Numbered (l.foldl f s).host := by
  induction l generalizing s with
  | nil => exact h
  | cons x l ih => exact ih (hf s x h)

/-- What leaves the host interface out of the parts it changes leaves it as it was. -/
theorem changesOnly.host {l : List Part} {s t : State} (d : changesOnly l s t) (hl : l.contains Part.host = false) : t.host = s.host :=
  d .host fun hm => by simp [hm] at hl

theorem changesOnly.numbered {l : List Part} {s t : State} (d : changesOnly l s t) (hl : l.contains Part.host = false)
    (h : Numbered s.host) : Numbered t.host := d.host hl ▸ h

/-- Reports leave the list of commands as it is. -/
theorem Reported.numbered {s t : State} (r : Reported s t) (h : Numbered s.host) : Numbered t.host := by
  unfold Numbered
  rwa [r.cmds, r.nextSeq]

/-- A list whose numbers are among those there were, in their order. -/
theorem Numbered.of_sublist {g h : HostIf} (hh : Numbered h) (sub : (g.cmds.map (·.seq)).Sublist (h.cmds.map (·.seq)))
    (next : g.nextSeq = h.nextSeq) : Numbered g := by
  obtain ⟨distinct, below⟩ := hh
  refine ⟨distinct.sublist sub, fun c hc => ?_⟩
  obtain ⟨d, hd, same⟩ := List.mem_map.1 (sub.subset (List.mem_map_of_mem hc))
  rw [next, ← same]
  exact below d hd

/-- One more command, under a number of its own. -/
theorem Numbered.concat {g h : HostIf} {c : Cmd} (hh : Numbered h) (cmds : g.cmds = h.cmds ++ [c]) (next : h.nextSeq ≤ g.nextSeq)
    (fresh : ∀ d ∈ h.cmds, d.seq ≠ c.seq) (own : c.seq < g.nextSeq) : Numbered g := by
  obtain ⟨distinct, below⟩ := hh
  rw [Numbered, cmds]
  constructor
  · rw [List.map_append]
    refine List.nodup_append.2 ⟨distinct, List.nodup_singleton _, fun a ha b hb => ?_⟩
    obtain ⟨d, hd, rfl⟩ := List.mem_map.1 ha
    obtain rfl := List.mem_singleton.1 hb
    exact fresh d hd
  · intro d hd
    obtain hd | hd := List.mem_append.1 hd
    · exact Nat.lt_of_lt_of_le (below d hd) next
    · exact List.mem_singleton.1 hd ▸ own

/-! ### Records and events -/

theorem signal_numbered {s v} (h : Numbered s.host) : Numbered (signal s v).host := (signal_reported s v).numbered h

theorem recordPush_numbered {s n x} (h : Numbered s.host) : Numbered (recordPush s (16 + n) x).host :=
  (recordPush_reported s (Nat.le_add_right 16 n) x).numbered h

theorem post_numbered {s code cls inst data} (h : Numbered s.host) : Numbered (post s code cls inst data).host :=
  (post_reported s code cls inst data).numbered h

theorem postEvent_numbered {s e} (h : Numbered s.host) : Numbered (postEvent s e).host := (postEvent_reported s e).numbered h

theorem recordDrain_numbered {n s r} (h : Numbered s.host) (lo : 16 ≤ r) : Numbered (recordDrain n s r).host :=
  (recordDrain_reported lo n s).numbered h

theorem evtOverflow_numbered {s r} (h : Numbered s.host) (lo : 16 ≤ r) : Numbered (evtOverflow s r).host :=
  (evtOverflow_reported s lo).numbered h

/-! ### The list of commands -/

theorem cmdDrop_numbered {s q} (h : Numbered s.host) : Numbered (cmdDrop s q).host :=
  h.of_sublist (List.filter_sublist.map _) rfl

/-- A command put into its place keeps its number. -/
theorem cmdPut_numbered {s c} (h : Numbered s.host) : Numbered (cmdPut s c).host := by
  have seqs : (cmdPut s c).host.cmds.map (·.seq) = s.host.cmds.map (·.seq) := by
    change (s.host.cmds.map _).map _ = _
    rw [List.map_map]
    refine List.map_congr_left fun x _ => ?_
    by_cases own : x.seq = c.seq <;> simp [own]
  exact h.of_sublist (seqs ▸ List.Sublist.refl _) rfl

theorem cmdEnd_numbered {s c status trunc} (h : Numbered s.host) : Numbered (cmdEnd s c status trunc).host :=
  ite_numbered (cmdDrop_numbered h) (recordPush_numbered (cmdDrop_numbered h))

end Sys2Proof.Machine
end

section
/-! The functions that may touch the list of commands keep the numbers: one lemma per function, in the order of the model. What leaves
the host interface alone keeps them by its lemma on the parts it changes (`changesOnly.numbered`). -/

namespace Sys2Proof.Machine

/-! ### Rings, unit faults (R376–R378), ends of commands and time -/

theorem modRing_numbered {s r f} (h : Numbered s.host) : Numbered (modRing s r f).host := h

theorem postUnit_numbered {s code ty inst data} (h : Numbered s.host) : Numbered (postUnit s code ty inst data).host := postEvent_numbered h

theorem noteFault_numbered {s ty inst n} (h : Numbered s.host) : Numbered (noteFault s ty inst n).host :=
  (hbCount_changes _ _).numbered rfl (postUnit_numbered h)

theorem noteRetired_numbered {s ty inst b} (h : Numbered s.host) : Numbered (noteRetired s ty inst b).host :=
  (lgEvent_changes _ _ _).numbered rfl ((hbCount_changes _ _).numbered rfl (postUnit_numbered h))

theorem cmdDone_numbered {s c} (h : Numbered s.host) : Numbered (cmdDone s c).host := ite_numbered (cmdEnd_numbered h) (cmdEnd_numbered h)

theorem cmdRefuse_numbered {s c r} (h : Numbered s.host) : Numbered (cmdRefuse s c r).host := cmdEnd_numbered h

theorem endRef_numbered {s r st cause res} (h : Numbered s.host) : Numbered (endRef s r st cause res).host := by
  unfold endRef
  split
  · exact h
  · exact cmdEnd_numbered h

theorem doneRef_numbered {s r res} (h : Numbered s.host) : Numbered (doneRef s r res).host := by
  unfold doneRef
  split
  · exact h
  · exact cmdDone_numbered h

theorem arrive_numbered {dt s} (h : Numbered s.host) : Numbered (arrive dt s).host := (wait_changes _ _).numbered rfl h

theorem arriveAt_numbered {due s} (h : Numbered s.host) : Numbered (arriveAt due s).host := arrive_numbered h

theorem aerReport_numbered {s write} (h : Numbered s.host) : Numbered (aerReport s write).host := (send_changes _ _).numbered rfl h

theorem endSeq_numbered {s seq status cause result} (h : Numbered s.host) : Numbered (endSeq s seq status cause result).host := by
  unfold endSeq
  split
  · exact h
  · exact cmdEnd_numbered h

theorem moveRefused_numbered {s ch c r} (h : Numbered s.host) : Numbered (moveRefused s ch c r).host :=
  ite_numbered h (signal_numbered ((modCh_changes _ _ _).numbered rfl h))

theorem hbFailure_numbered {s kind cause off data} (h : Numbered s.host) : Numbered (hbFailure s kind cause off data).host :=
  post_numbered ((lgAdd_changes _ _ _ _ _).numbered rfl h)

theorem retirePath_numbered {s p0 by_} (h : Numbered s.host) : Numbered (retirePath s p0 by_).host :=
  noteRetired_numbered ((modDpd_changes _ _ _).numbered rfl ((modTx_changes _ _ _).numbered rfl h))

theorem pathFault_numbered {s p0} (h : Numbered s.host) : Numbered (pathFault s p0).host := by
  unfold pathFault
  refine ite_numbered h ?_
  refine ite_numbered (noteFault_numbered ((modTx_changes _ _ _).numbered rfl h)) ?_
  exact retirePath_numbered ((modTx_changes _ _ _).numbered rfl h)

theorem postShort_numbered {s l} (h : Numbered s.host) : Numbered (postShort s l).host := by
  unfold postShort
  split
  · exact h
  · exact post_numbered h

theorem postRegLimit_numbered {s inst why k} (h : Numbered s.host) : Numbered (postRegLimit s inst why k).host := post_numbered h

theorem windowLimit_numbered {s k mask} (h : Numbered s.host) : Numbered (windowLimit s k mask).1.host :=
  foldl_numbered h fun _ _ h' => postRegLimit_numbered h'

/-! ### Anneal (11) -/

theorem endRefs_numbered {s l status cause} (h : Numbered s.host) : Numbered (endRefs s l status cause).host :=
  foldl_numbered h fun _ _ h' => endRef_numbered h'

theorem anlFail_numbered {s code} (h : Numbered s.host) : Numbered (anlFail s code).host := by
  unfold anlFail
  split
  · exact h
  · extract_lets s1 _ s2 _ s3 s4 s5
    have counted : Numbered s2.host := post_numbered h
    have aborted : Numbered s3.host := endRefs_numbered counted
    have blocked : Numbered s5.host := (hbCount_changes _ 11).numbered rfl (post_numbered (endRefs_numbered aborted))
    refine ite_numbered counted (ite_numbered ?_ (ite_numbered ?_ aborted))
    · exact (anlOver_changes _ _).numbered rfl blocked
    · exact (anlOver_changes _ _).numbered rfl aborted

theorem anlLoLost_numbered {s q} (h : Numbered s.host) : Numbered (anlLoLost s q).host := by
  unfold anlLoLost
  split
  · exact ite_numbered (anlFail_numbered h) h
  · exact h

theorem anlWatch_numbered {was s} (h : Numbered s.host) : Numbered (anlWatch was s).host := by
  unfold anlWatch
  split
  · exact ite_numbered (anlFail_numbered h) h
  · exact h

theorem guardPeriod_numbered {noise grants s} (h : Numbered s.host) : Numbered (guardPeriod noise grants s).host := by
  unfold guardPeriod
  extract_lets s1
  have sampled : Numbered s1.host := (landsSampled_changes s grants).numbered rfl h
  split
  · exact (partnerPeriod_changes s1).numbered rfl sampled
  · next r _ =>
    have opened : Numbered (guardOpen s1 r).1.host := (guardOpen_changes s1 r).numbered rfl sampled
    exact ite_numbered sampled (ite_numbered (anlFail_numbered (post_numbered opened)) (ite_numbered (anlFail_numbered opened) opened))

theorem anlSchedule_numbered {s r l} (h : Numbered s.host) : Numbered (anlSchedule s r l).host :=
  foldl_numbered h fun _ _ h' => pathFault_numbered (post_numbered h')

theorem anlDone_numbered {s r k result n} (h : Numbered s.host) : Numbered (anlDone s r k result n).host := by
  unfold anlDone
  refine (anlOver_changes _ _).numbered rfl ?_
  refine post_numbered ?_
  refine foldl_numbered h fun _ _ h' => ?_
  split
  · exact h'
  · exact cmdDone_numbered h'

theorem solveEnd_numbered {l s} (h : Numbered s.host) : Numbered (solveEnd l s).host := by
  unfold solveEnd
  split
  · split
    · exact h
    · exact h
  · refine ite_numbered h ?_
    refine ite_numbered (anlFail_numbered h) ?_
    exact ite_numbered (anlDone_numbered ((anlBaseline_changes _ _).numbered rfl h)) (anlSchedule_numbered h)

theorem anlSlot_numbered {k s} (h : Numbered s.host) : Numbered (anlSlot k s).host := by
  unfold anlSlot
  extract_lets now rest _ s1 ended s2 late
  have taken : Numbered s1.host := foldl_numbered h fun _ _ h' => (anlTake_changes _ _).numbered rfl h'
  have ends : Numbered s2.host := by
    refine foldl_numbered taken fun _ _ h' => ite_numbered ?_ (foldl_numbered h' fun _ _ h2 => ?_)
    · split
      · exact ite_numbered h' (anlDone_numbered h')
      · exact h'
    · split
      · exact h2
      · exact cmdDone_numbered h2
  exact ite_numbered (anlFail_numbered ends) (foldl_numbered ends fun _ _ h' => endRefs_numbered h')

theorem anlRunEffect_numbered {s c} (h : Numbered s.host) : Numbered (anlRunEffect s c).host := by
  unfold anlRunEffect
  split
  · split
    · exact cmdDone_numbered h
    · exact cmdDone_numbered (anlFail_numbered h)
  · exact (anlWait_changes _ _ _).numbered rfl h
  · exact (authChecked_changes _ _).numbered rfl h
  · exact (anlWait_changes _ _ _).numbered rfl h
  · exact (anlAsk_changes _ _).numbered rfl h

theorem noGuardEnd_numbered {s} (h : Numbered s.host) : Numbered (noGuardEnd s).host := by
  unfold noGuardEnd
  split
  · exact ite_numbered (anlFail_numbered h) h
  · exact h

theorem saveEnd_numbered {ok s} (h : Numbered s.host) : Numbered (saveEnd ok s).host := by
  unfold saveEnd
  split
  · exact h
  · exact ite_numbered (doneRef_numbered h) (endRef_numbered h)

theorem anlCold_numbered {s} (h : Numbered s.host) : Numbered (anlCold s).host := by
  unfold anlCold
  dsimp only
  split
  · exact h
  · exact post_numbered h

/-! ### Runner's tables (R218) -/

theorem postParts_numbered {s t es flags} (h : Numbered s.host) : Numbered (postParts s t es flags).host :=
  foldl_numbered h fun _ _ h' => postEvent_numbered h'

theorem postTable_numbered {s t flags} (h : Numbered s.host) : Numbered (postTable s t flags).host := postParts_numbered h

theorem publishTable_numbered {n s} (h : Numbered s.host) : Numbered (publishTable n s).host := by
  unfold publishTable
  split
  · exact h
  · exact postTable_numbered h

/-! ### Transmit control and power (08) -/

theorem txCtrlEffect_numbered {s c} (h : Numbered s.host) : Numbered (txCtrlEffect s c).host := by
  unfold txCtrlEffect
  extract_lets a named act was s1 changed s2 s3 s4 w c1 late
  have set : Numbered s1.host := foldl_numbered h fun _ _ h' => (txCtrlOne_changes a _ _).numbered rfl h'
  have adapted : Numbered s2.host := ite_numbered (foldl_numbered set fun _ _ h' => (modDpd_changes _ _ _).numbered rfl h') set
  have biased : Numbered s3.host := (biasForce_changes _).numbered rfl (ite_numbered ((linesIdle_changes _ _).numbered rfl adapted) adapted)
  have released : Numbered s4.host := ite_numbered ((anlRelease_changes _ 0).numbered rfl biased) biased
  have limited : Numbered w.1.host := by
    unfold w
    split
    · exact windowLimit_numbered released
    · exact released
  exact ite_numbered (cmdPut_numbered limited) (cmdDone_numbered limited)

theorem loTimeout_numbered {r s} (h : Numbered s.host) : Numbered (loTimeout r s).host := by
  unfold loTimeout
  split
  · exact arrive_numbered h
  · split
    · exact ite_numbered (cmdDone_numbered (arriveAt_numbered h)) (arrive_numbered h)
    · exact arrive_numbered h

theorem powerSetEffect_numbered {s c} (h : Numbered s.host) : Numbered (powerSetEffect s c).host := by
  unfold powerSetEffect
  extract_lets named s0 s1 batch _ _ s2 short others s3 s4 s5
  have set : Numbered s1.host := foldl_numbered h fun _ _ h' => (modTx_changes _ _ _).numbered rfl h'
  have given : Numbered s2.host := (powerBatch_changes s1 _).numbered rfl set
  have free : Numbered s3.host := ite_numbered (postRegLimit_numbered given) given
  have held : Numbered s4.host := ite_numbered (postRegLimit_numbered free) free
  exact cmdDone_numbered (postShort_numbered held)

theorem coxCfgEffect_numbered {s c} (h : Numbered s.host) : Numbered (coxCfgEffect s c).host :=
  cmdDone_numbered ((modCox_changes _ _ _).numbered rfl h)

theorem lockPassed_numbered {s pass} (h : Numbered s.host) : Numbered (lockPassed s pass).host :=
  foldl_numbered h fun _ _ h' => ite_numbered (cmdDone_numbered h') (cmdPut_numbered h')

theorem lateTx_numbered {s k q ok} (h : Numbered s.host) : Numbered (lateTx s k q ok).host := by
  unfold lateTx
  refine ite_numbered h ?_
  exact ite_numbered h (ite_numbered (post_numbered ((hbCount_changes _ _).numbered rfl h)) ((hbCount_changes _ _).numbered rfl h))

theorem lateRx_numbered {s k q ok} (h : Numbered s.host) : Numbered (lateRx s k q ok).host := by
  unfold lateRx
  refine ite_numbered h ?_
  exact ite_numbered h (ite_numbered (post_numbered ((hbCount_changes _ _).numbered rfl h)) ((hbCount_changes _ _).numbered rfl h))

theorem lockCheckAt_numbered {k s} (h : Numbered s.host) : Numbered (lockCheckAt k s).host :=
  lockPassed_numbered (foldl_numbered (foldl_numbered h fun _ _ h' => lateTx_numbered h') fun _ _ h' => lateRx_numbered h')

theorem txSymbol_numbered {k s} (h : Numbered s.host) : Numbered (txSymbol k s).host := by
  unfold txSymbol
  extract_lets s1
  have checked : Numbered s1.host := ite_numbered h (lockCheckAt_numbered h)
  exact (limiterSymbol_changes k _).numbered rfl checked

theorem txSlotAfter_numbered {s} (h : Numbered s.host) : Numbered (txSlotAfter s).host :=
  ite_numbered h (postShort_numbered ((powerBatch_changes _ _).numbered rfl h))

theorem detectorReport_numbered {p mean s} (h : Numbered s.host) : Numbered (detectorReport p mean s).host := by
  unfold detectorReport
  extract_lets s1 s2 s3
  have metered : Numbered s1.host := (modTx_changes s p _).numbered rfl h
  have cut : Numbered s2.host := (linesIdle_changes _ _).numbered rfl ((modTx_changes s1 p _).numbered rfl metered)
  have posted : Numbered s3.host := post_numbered cut
  refine ite_numbered ?_ metered
  split
  · exact ite_numbered (anlFail_numbered posted) posted
  · exact posted

/-! ### Fronthaul settings (05) -/

theorem fhCfgEffect_numbered {s c} (h : Numbered s.host) : Numbered (fhCfgEffect s c).host := cmdDone_numbered h

theorem assayCtxEffect_numbered {s c} (h : Numbered s.host) : Numbered (assayCtxEffect s c).host := by
  unfold assayCtxEffect
  refine cmdDone_numbered ?_
  split
  · exact (assayPut_changes _ _ _).numbered rfl h
  · exact (assayPut_changes _ _ _).numbered rfl h
  · exact h

/-! ### PA bias (13) -/

theorem biasQueueEffect_numbered {s c} (h : Numbered s.host) : Numbered (biasQueueEffect s c).host :=
  cmdDone_numbered (foldl_numbered h fun _ _ h' => (modBias_changes _ _ _).numbered rfl h')

/-! ### Linearisation (08) -/

theorem dpdCfgEffect_numbered {s c} (h : Numbered s.host) : Numbered (dpdCfgEffect s c).host := by
  unfold dpdCfgEffect
  refine cmdDone_numbered ?_
  split
  · exact foldl_numbered h fun _ _ h' => (modDpd_changes _ _ _).numbered rfl h'
  · exact foldl_numbered h fun _ _ h' => (modDpd_changes _ _ _).numbered rfl h'
  · exact foldl_numbered h fun _ _ h' => (modDpd_changes _ _ _).numbered rfl h'
  · exact foldl_numbered h fun _ _ h' => h'
  · exact foldl_numbered h fun _ _ h' => (modDpd_changes _ _ _).numbered rfl h'
  · exact h

theorem diverge_numbered {s p0 nmse} (h : Numbered s.host) : Numbered (diverge s p0 nmse).host :=
  pathFault_numbered (post_numbered ((modDpd_changes _ _ _).numbered rfl h))

theorem solveTemper_numbered {p t s} (h : Numbered s.host) : Numbered (solveTemper p t s).host := by
  unfold solveTemper
  refine ite_numbered h ?_
  refine ite_numbered ((modDpd_changes _ _ _).numbered rfl h) ?_
  exact ite_numbered (diverge_numbered ((modDpd_changes _ _ _).numbered rfl h)) ((modDpd_changes _ _ _).numbered rfl h)

theorem divergeRetry_numbered {p s} (h : Numbered s.host) : Numbered (divergeRetry p s).host := by
  unfold divergeRetry
  split
  · exact arrive_numbered h
  · exact (modDpd_changes _ _ _).numbered rfl (arriveAt_numbered h)

theorem staleCheck_numbered {p0 s} (h : Numbered s.host) : Numbered (staleCheck p0 s).host :=
  ite_numbered (post_numbered ((modDpd_changes _ _ _).numbered rfl h)) h

/-! ### The Heat Book (14) -/

theorem snapsDrop_numbered {s cause} (h : Numbered s.host) : Numbered (snapsDrop s cause).host := by
  unfold snapsDrop
  refine foldl_numbered h fun _ _ h' => ?_
  split
  · exact endRef_numbered h'
  · exact h'

theorem snapStart_numbered {s} (h : Numbered s.host) : Numbered (snapStart s).host :=
  ite_numbered (snapsDrop_numbered (ite_numbered h (post_numbered h))) h

theorem snapAsk_numbered {s cause ref} (h : Numbered s.host) : Numbered (snapAsk s cause ref).host := ite_numbered h (snapStart_numbered h)

theorem hbClearGo_numbered {s c} (h : Numbered s.host) : Numbered (hbClearGo s c).host := by
  unfold hbClearGo
  refine cmdPut_numbered ?_
  dsimp only
  exact (authChecked_changes _ _).numbered rfl h

theorem hbClearNext_numbered {s} (h : Numbered s.host) : Numbered (hbClearNext s).host := by
  unfold hbClearNext
  refine ite_numbered h ?_
  split
  · exact h
  · split
    · exact cmdRefuse_numbered ((hbClearRefused_changes _ _ _).numbered rfl h)
    · exact hbClearGo_numbered h

theorem hourProgram_numbered {ok s} (h : Numbered s.host) : Numbered (hourProgram ok s).host :=
  ite_numbered h (ite_numbered h (hbFailure_numbered h))

theorem flashResume_numbered {s} (h : Numbered s.host) : Numbered (flashResume s).host :=
  snapStart_numbered (foldl_numbered h fun _ _ h' => hourProgram_numbered h')

/-! ### Serial lanes (04) -/

theorem synceUpdate_numbered {s} (h : Numbered s.host) : Numbered (synceUpdate s).host := ite_numbered (post_numbered h) h

theorem laneResolve_numbered {s l ok} (h : Numbered s.host) : Numbered (laneResolve s l ok).host :=
  foldl_numbered h fun _ _ h' => ite_numbered (cmdDone_numbered h') (cmdPut_numbered h')

theorem laneRetire_numbered {s l by_} (h : Numbered s.host) : Numbered (laneRetire s l by_).host := by
  unfold laneRetire
  refine laneResolve_numbered ?_
  exact noteRetired_numbered (post_numbered ((modLane_changes _ _ _).numbered rfl ((laneLeave_changes _ _).numbered rfl h)))

theorem mateWait_numbered {s m} (h : Numbered s.host) : Numbered (mateWait s m).host := by
  unfold mateWait
  refine ite_numbered h ?_
  split
  · exact (modLane_changes _ _ _).numbered rfl ((laneLeave_changes _ _).numbered rfl h)
  · exact laneResolve_numbered ((modLane_changes _ _ _).numbered rfl h)
  · exact h

theorem laneFault_numbered {s l cause} (h : Numbered s.host) : Numbered (laneFault s l cause).host := by
  unfold laneFault
  extract_lets s1 s2 n s3
  have told : Numbered s2.host := by
    refine (laneLeave_changes _ _).numbered rfl ((laneErr_changes _ _).numbered rfl (post_numbered ?_))
    exact (modLane_changes s l _).numbered rfl h
  have settled : Numbered s3.host := ite_numbered (laneRetire_numbered told) (noteFault_numbered ((modLane_changes s2 l _).numbered rfl told))
  exact foldl_numbered settled fun _ _ h' => mateWait_numbered h'

theorem attemptFail_numbered {s l} (h : Numbered s.host) : Numbered (attemptFail s l).host := by
  unfold attemptFail
  split
  · exact h
  · dsimp only
    split
    · refine ite_numbered ?_ ?_
      · refine (sideCheck_changes _ _).numbered rfl ?_
        exact laneResolve_numbered ((modLane_changes _ _ _).numbered rfl ((modLane_changes _ _ _).numbered rfl h))
      · exact laneResolve_numbered ((modLane_changes _ _ _).numbered rfl ((modLane_changes _ _ _).numbered rfl h))
    · exact laneResolve_numbered ((modLane_changes _ _ _).numbered rfl ((modLane_changes _ _ _).numbered rfl h))
    · exact (startAttempt_changes _ _ _).numbered rfl ((modLane_changes _ _ _).numbered rfl h)
    · exact laneResolve_numbered (laneFault_numbered ((modLane_changes _ _ _).numbered rfl h))

theorem laneUp_numbered {s l} (h : Numbered s.host) : Numbered (laneUp s l).host := by
  unfold laneUp
  refine laneResolve_numbered ?_
  refine post_numbered ?_
  refine ite_numbered ((modSide_changes _ _ _).numbered rfl ((modLane_changes _ _ _).numbered rfl h)) ?_
  exact (modLane_changes _ _ _).numbered rfl h

theorem detectorAssert_numbered {s l det} (h : Numbered s.host) : Numbered (detectorAssert s l det).host := by
  unfold detectorAssert
  refine ite_numbered ?_ ?_
  · refine post_numbered ?_
    exact (laneErr_changes _ _).numbered rfl ((modLane_changes _ _ _).numbered rfl ((modLane_changes _ _ _).numbered rfl h))
  · exact ite_numbered (laneFault_numbered ((modLane_changes _ _ _).numbered rfl h)) ((modLane_changes _ _ _).numbered rfl h)

theorem reassign_numbered {s} (h : Numbered s.host) : Numbered (reassign s).host := by
  unfold reassign
  dsimp only
  split
  · exact h
  · refine ite_numbered h ?_
    refine postParts_numbered ?_
    refine foldl_numbered h fun _ _ h' => ?_
    exact ite_numbered (foldl_numbered h' fun _ _ h2 => ((closeBook_changes _ _ _ _).numbered rfl h2)) h'

theorem lanesSymbol_numbered {s} (h : Numbered s.host) : Numbered (lanesSymbol s).host := by
  unfold lanesSymbol
  refine foldl_numbered (ite_numbered (reassign_numbered h) h) fun _ _ h' => ?_
  exact ite_numbered (synceUpdate_numbered (detectorAssert_numbered h')) h'

theorem laneCtrlEffect_numbered {s c} (h : Numbered s.host) : Numbered (laneCtrlEffect s c).host := by
  have retrained : ∀ {ls}, Numbered (cascadeAgain (ls.foldl hostRetrain s) ls).host :=
    (cascadeAgain_changes _ _).numbered rfl (foldl_numbered h fun _ _ h' => (hostRetrain_changes _ _).numbered rfl h')
  unfold laneCtrlEffect
  dsimp only
  split
  · refine ite_numbered (cmdDone_numbered retrained) (ite_numbered (cmdDone_numbered retrained) ?_)
    exact synceUpdate_numbered (cmdPut_numbered retrained)
  · exact cmdDone_numbered (foldl_numbered h fun _ _ h' => (modLane_changes _ _ _).numbered rfl h')
  · exact cmdDone_numbered (foldl_numbered h fun _ _ h' => (modLane_changes _ _ _).numbered rfl h')
  · refine cmdDone_numbered ?_
    refine synceUpdate_numbered ?_
    refine foldl_numbered (foldl_numbered h fun _ _ h' => (laneLeave_changes _ _).numbered rfl h') fun _ _ h' => ?_
    exact (setFec_changes _ _ _ _).numbered rfl h'
  · exact cmdDone_numbered (synceUpdate_numbered (foldl_numbered h fun _ _ h' => (setFec_changes _ _ _ _).numbered rfl h'))
  · refine cmdDone_numbered ?_
    refine foldl_numbered h fun _ _ h' => ?_
    exact (patternPulse_changes _ _).numbered rfl ((modLane_changes _ _ _).numbered rfl ((prbsStop_changes _ _).numbered rfl h'))
  · exact cmdDone_numbered (foldl_numbered h fun _ _ h' => (modLane_changes _ _ _).numbered rfl h')
  · exact cmdDone_numbered (foldl_numbered h fun _ _ h' => (modLane_changes _ _ _).numbered rfl h')

/-! ### The Crucible (06) -/

theorem weightFill_numbered {d s} (h : Numbered s.host) : Numbered (weightFill d s).host :=
  ite_numbered (arriveAt_numbered h) ((setHalf_changes _ _ _ _).numbered rfl (arriveAt_numbered h))

theorem swapTick_numbered {s d k} (h : Numbered s.host) : Numbered (swapTick s d k).host := by
  unfold swapTick
  refine ite_numbered h ?_
  refine (releaseCtrl_changes _ _ _).numbered rfl ?_
  refine ite_numbered ?_ ?_
  · exact ite_numbered ((setHalf_changes _ _ _ _).numbered rfl ((setHalf_changes _ _ _ _).numbered rfl h)) h
  · exact post_numbered (ite_numbered ((setHalf_changes _ _ _ _).numbered rfl ((setHalf_changes _ _ _ _).numbered rfl h)) h)

theorem windowLate_numbered {s dir units k} (h : Numbered s.host) : Numbered (windowLate s dir units k).host := post_numbered h

theorem closeLayer_numbered {late c s e} (h : Numbered s.host) : Numbered (closeLayer late c s e).host := by
  unfold closeLayer
  refine ite_numbered h ?_
  refine ite_numbered (ite_numbered h ((sendPartials_changes _ _ _ _).numbered rfl h)) ?_
  refine ite_numbered ((assembleLayer_changes _ _ _ _).numbered rfl h) ?_
  exact (assembleLayer_changes _ _ _ _).numbered rfl (ite_numbered h (post_numbered h))

theorem closeUplink_numbered {unfinished s} (h : Numbered s.host) : Numbered (closeUplink unfinished s).host := by
  unfold closeUplink
  extract_lets k unfinished live late s1 lost units s2
  have closed : Numbered s1.host :=
    foldl_numbered h fun _ _ h' => ite_numbered (foldl_numbered h' fun _ _ h2 => closeLayer_numbered h2) h'
  have told : Numbered s2.host := ite_numbered closed (windowLate_numbered closed)
  exact told

theorem potCount_numbered {s i} (h : Numbered s.host) : Numbered (potCount s i).host := by
  unfold potCount
  refine ite_numbered (noteFault_numbered ((modPot_changes _ _ _).numbered rfl h)) ?_
  exact noteRetired_numbered ((modPot_changes _ _ _).numbered rfl h)

theorem commitSymbol_numbered {k s} (h : Numbered s.host) : Numbered (commitSymbol k s).host := by
  unfold commitSymbol
  split
  · exact h
  · exact ite_numbered h (endSeq_numbered h)

theorem tundishLate_numbered {s k unreleased} (h : Numbered s.host) : Numbered (tundishLate s k unreleased).host :=
  ite_numbered h (post_numbered ((dropHeld_changes _ _ _).numbered rfl h))

theorem dlWork_numbered {unfinished unreleased k s} (h : Numbered s.host) : Numbered (dlWork unfinished unreleased k s).host := by
  unfold dlWork
  dsimp only
  refine (redealTick_changes _ _).numbered rfl ?_
  refine swapTick_numbered ?_
  refine tundishLate_numbered ?_
  exact (dropDirect_changes _ _ _).numbered rfl ((dropHeld_changes _ _ _).numbered rfl (ite_numbered h (windowLate_numbered h)))

theorem ulWork_numbered {unfinished rx stl k s} (h : Numbered s.host) : Numbered (ulWork unfinished rx stl k s).host := by
  unfold ulWork
  dsimp only
  refine (redealTick_changes _ _).numbered rfl ?_
  exact swapTick_numbered ((sendUplink_changes _).numbered rfl (ite_numbered (closeUplink_numbered h) h))

/-! ### Receive and observation (09) -/

theorem overload_numbered {s p code} (h : Numbered s.host) : Numbered (overload s p code).host :=
  ite_numbered h ((modRx_changes _ _ _).numbered rfl (ite_numbered h (post_numbered h)))

theorem rxCfgEffect_numbered {s c} (h : Numbered s.host) : Numbered (rxCfgEffect s c).host := by
  unfold rxCfgEffect
  refine cmdDone_numbered ?_
  split
  · exact foldl_numbered h fun _ _ h' => (rxChain_changes _ _ _).numbered rfl h'
  · exact foldl_numbered h fun _ _ h' => (modRx_changes _ _ _).numbered rfl h'
  · exact foldl_numbered h fun _ _ h' => (fadeStart_changes _ _).numbered rfl ((modRx_changes _ _ _).numbered rfl h')
  · exact foldl_numbered h fun _ _ h' => (modRx_changes _ _ _).numbered rfl h'
  · exact h
  · exact foldl_numbered h fun _ _ h' => (modOrx_changes _ _ _).numbered rfl h'

theorem captureEffect_numbered {s c} (h : Numbered s.host) : Numbered (captureEffect s c).host :=
  ite_numbered (cmdPut_numbered ((modOrx_changes _ _ _).numbered rfl h)) (cmdPut_numbered h)

theorem captureFinish_numbered {s c data} (h : Numbered s.host) : Numbered (captureFinish s c data).host :=
  cmdDone_numbered (ite_numbered ((capRelease_changes _ _).numbered rfl h) ((capRelease_changes _ _).numbered rfl h))

theorem capPreempt_numbered {s c} (h : Numbered s.host) : Numbered (capPreempt s c).host :=
  cmdEnd_numbered (ite_numbered ((capRelease_changes _ _).numbered rfl h) ((capRelease_changes _ _).numbered rfl h))

theorem orxSymbolOne_numbered {k s o} (h : Numbered s.host) : Numbered (orxSymbolOne k s o).host := by
  unfold orxSymbolOne
  refine ite_numbered ((modOrx_changes s o _).numbered rfl h) ?_
  extract_lets x reqs pick now att s1 _ s2 caps
  have served : Numbered s1.host := (modOrx_changes s o _).numbered rfl h
  have observed : Numbered s2.host := by
    unfold s2
    clear_value pick
    split
    · exact ite_numbered served served
    · exact served
  refine ite_numbered ?_ (foldl_numbered observed fun _ _ h' => capPreempt_numbered h')
  clear_value caps
  split
  · exact cmdPut_numbered observed
  · exact observed

theorem guardSymbol_numbered {k s} (h : Numbered s.host) : Numbered (guardSymbol k s).host := by
  unfold guardSymbol
  refine ite_numbered h ?_
  extract_lets first was now lost out _ s1 s2
  have freed : Numbered s2.host := foldl_numbered (s := s1) h fun _ _ h' => capPreempt_numbered h'
  exact ite_numbered (anlFail_numbered freed) freed

theorem orxSymbol_numbered {k s} (h : Numbered s.host) : Numbered (orxSymbol k s).host :=
  foldl_numbered (guardSymbol_numbered h) fun _ _ h' => orxSymbolOne_numbered h'

/-! ### The SYN domain (10) -/

theorem quadLost_numbered {s q} (h : Numbered s.host) : Numbered (quadLost s q).host := by
  unfold quadLost
  refine ite_numbered h ?_
  extract_lets k _ s1 s2 s3 s4 s5
  have cut : Numbered s2.host := (linesCut_changes s1 _).numbered rfl h
  have failed : Numbered s3.host := anlLoLost_numbered cut
  have ends : Numbered s4.host := by
    refine ite_numbered (foldl_numbered (lateRx_numbered failed) fun _ _ h' => ?_) failed
    exact (settle_changes _ _ _ _).numbered rfl ((modRx_changes _ _ _).numbered rfl h')
  have late : Numbered s5.host := ite_numbered (lateRx_numbered ends) ends
  exact late

theorem spareIn_numbered {s q} (h : Numbered s.host) : Numbered (spareIn s q).host :=
  (anlTrigger_changes _ _).numbered rfl (post_numbered ((synSearch_changes _ _).numbered rfl h))

theorem synRetire_numbered {s n by_} (h : Numbered s.host) : Numbered (synRetire s n by_).host := by
  unfold synRetire
  extract_lets q s1 s2 s3
  have noted : Numbered s2.host := noteRetired_numbered ((modSynth_changes s n _).numbered rfl h)
  have lost : Numbered s3.host := by
    unfold s3
    clear_value q
    split
    · exact quadLost_numbered noted
    · exact noted
  exact ite_numbered (spareIn_numbered lost) lost

theorem synFault_numbered {s n} (h : Numbered s.host) : Numbered (synFault s n).host := by
  unfold synFault
  refine ite_numbered (noteFault_numbered ((modSynth_changes _ _ _).numbered rfl h)) ?_
  exact synRetire_numbered ((modSynth_changes _ _ _).numbered rfl h)

theorem synUnlock_numbered {s n} (h : Numbered s.host) : Numbered (synUnlock s n).host := by
  unfold synUnlock
  refine ite_numbered h ?_
  refine synFault_numbered ?_
  split
  · exact quadLost_numbered (post_numbered ((modSynth_changes _ _ _).numbered rfl h))
  · exact post_numbered ((modSynth_changes _ _ _).numbered rfl h)

theorem pllFault_numbered {s} (h : Numbered s.host) : Numbered (pllFault s).host :=
  ite_numbered (noteFault_numbered h) (noteRetired_numbered h)

theorem carrierCfgEffect_numbered {s c} (h : Numbered s.host) : Numbered (carrierCfgEffect s c).host := by
  unfold carrierCfgEffect
  extract_lets d w a0 a1 a2 a3 s1 s2 win cut s3
  have searched : Numbered s2.host := ite_numbered (foldl_numbered h fun _ _ h' => ite_numbered h' ((synSearch_changes _ _).numbered rfl h')) h
  have limited : Numbered win.1.host := windowLimit_numbered searched
  exact cmdDone_numbered (s := s3) (ite_numbered (postRegLimit_numbered limited) limited)

theorem spareOut_numbered {s} (h : Numbered s.host) : Numbered (spareOut s).host := by
  unfold spareOut
  refine ite_numbered h ?_
  refine (anlTrigger_changes _ _).numbered rfl ?_
  refine post_numbered ?_
  refine ite_numbered ((quadResets_changes _ _).numbered rfl ((modSynth_changes _ _ _).numbered rfl h)) ?_
  refine ite_numbered ((modSynth_changes _ _ _).numbered rfl h) ?_
  exact (synSearch_changes _ _).numbered rfl ((modSynth_changes _ _ _).numbered rfl h)

theorem synCfgEffect_numbered {s c} (h : Numbered s.host) : Numbered (synCfgEffect s c).host := by
  unfold synCfgEffect
  refine cmdDone_numbered ?_
  split
  · exact (modSynth_changes _ _ _).numbered rfl h
  · exact ite_numbered (spareOut_numbered h) (ite_numbered h (spareIn_numbered (ite_numbered (spareOut_numbered h) h)))
  · exact (synSearch_changes _ _).numbered rfl h

/-! ### The timebase (10) -/

theorem tbStepTo_numbered {s t} (h : Numbered s.host) : Numbered (tbStepTo s t).host := post_numbered ((reanchor_changes _).numbered rfl h)

theorem refSelect_numbered {s} (h : Numbered s.host) : Numbered (refSelect s).host := by
  unfold refSelect
  refine ite_numbered (ite_numbered h h) ?_
  refine ite_numbered (ite_numbered h ((refResume_changes _ _).numbered rfl h)) ?_
  exact ite_numbered h (ite_numbered h (ite_numbered h (post_numbered h)))

theorem refLostNow_numbered {s} (h : Numbered s.host) : Numbered (refLostNow s).host := by
  unfold refLostNow
  refine (biasForce_changes _).numbered rfl ?_
  refine anlFail_numbered ?_
  refine (hbCount_changes _ _).numbered rfl ?_
  refine post_numbered ?_
  refine (tbStop_changes _).numbered rfl ?_
  exact (linesIdle_changes _ _).numbered rfl (foldl_numbered h fun _ _ h' => quadLost_numbered h')

theorem jumpRefuse_numbered {s ofs} (h : Numbered s.host) : Numbered (jumpRefuse s ofs).host := post_numbered h

theorem timeSrc_numbered {s what} (h : Numbered s.host) : Numbered (timeSrc s what).host := post_numbered h

theorem servo_numbered {s ofs} (h : Numbered s.host) : Numbered (servo s ofs).host := by
  unfold servo
  refine ite_numbered h ?_
  refine ite_numbered (ite_numbered (jumpRefuse_numbered h) h) ?_
  refine ite_numbered (jumpRefuse_numbered h) ?_
  extract_lets _ back trim s1 _ s2
  have shifted : Numbered s1.host := (phaseShift_changes _ _).numbered rfl h
  exact ite_numbered (timeSrc_numbered (s := s2) shifted) shifted

theorem ptpSynced_numbered {s p0 ms} (h : Numbered s.host) : Numbered (ptpSynced s p0 ms).host := by
  unfold ptpSynced
  extract_lets t3 s1 _ s2
  have sent : Numbered s1.host := (send_changes s _).numbered rfl h
  exact ite_numbered (servo_numbered (s := s2) sent) sent

theorem ptpTake_numbered {s p0 m} (h : Numbered s.host) : Numbered (ptpTake s p0 m).host := by
  unfold ptpTake
  dsimp only
  split
  · exact ite_numbered h h
  · exact ite_numbered h (ptpSynced_numbered h)
  · split
    · exact ite_numbered (ptpSynced_numbered h) h
    · exact h
  · split
    · exact ite_numbered h h
    · exact h
  · exact h

theorem tbCfgEffect_numbered {s c} (h : Numbered s.host) : Numbered (tbCfgEffect s c).host := by
  unfold tbCfgEffect
  refine cmdDone_numbered ?_
  split
  · exact ite_numbered h h
  · exact h
  · exact ite_numbered (jumpRefuse_numbered h) h
  · exact h
  · exact h
  · exact h
  · exact h
  · exact h

theorem tbStepEffect_numbered {s c} (h : Numbered s.host) : Numbered (tbStepEffect s c).host :=
  cmdDone_numbered (ite_numbered (tbStepTo_numbered h) (tbStepTo_numbered h))

theorem tbFrameAfter_numbered {s} (h : Numbered s.host) : Numbered (tbFrameAfter s).host := by
  unfold tbFrameAfter
  refine ite_numbered h ?_
  extract_lets moved _ s1
  have gridded : Numbered s1.host := by
    unfold s1
    split
    · exact h
    · exact h
  split
  · exact ite_numbered (timeSrc_numbered (tbStepTo_numbered gridded)) (tbStepTo_numbered gridded)
  · exact ite_numbered ((reanchor_changes s1).numbered rfl gridded) gridded

/-! ### Flask-wide requests refused (R43, R46) -/

theorem reqRefuse_numbered {s q r} (h : Numbered s.host) : Numbered (reqRefuse s q r).host := by
  unfold reqRefuse
  split
  · exact h
  · exact cmdRefuse_numbered ((modeCause_changes _ _ _).numbered rfl h)

/-- What keeps the number of each command it keeps leaves some of the numbers, in their order. -/
theorem filterMap_seq_sublist {f : Cmd → Option Cmd} (keeps : ∀ c d, f c = some d → d.seq = c.seq) (l : List Cmd) :
    ((l.filterMap f).map (·.seq)).Sublist (l.map (·.seq)) := by
  induction l with
  | nil => exact .slnil
  | cons c l ih =>
    cases kept : f c with
    | none => exact (List.filterMap_cons_none kept ▸ ih).cons c.seq
    | some d =>
      rw [List.filterMap_cons_some kept, List.map_cons, List.map_cons, keeps c d kept]
      exact ih.cons_cons c.seq

/-- The commands that run on unseen after a reset are some of those that ran (R104). -/
theorem portReset_numbered {s} (h : Numbered s.host) : Numbered (portReset s).host := by
  unfold portReset
  extract_lets own s1
  have withdrawn : Numbered s1.host := foldl_numbered h fun _ _ h' => (reqWithdraw_changes _ _).numbered rfl h'
  refine withdrawn.of_sublist (filterMap_seq_sublist (fun c d kept => ?_) _) rfl
  split at kept
  · split at kept
    · cases kept
    · cases kept
      rfl
  · cases kept

/-! ### The Ladle (R97–R103) -/

theorem moveWrite_numbered {s m n valid cells} (h : Numbered s.host) : Numbered (moveWrite s m n valid cells).host := by
  unfold moveWrite
  split
  · exact h
  · exact h
  · exact h
  · dsimp only
    split
    · exact ite_numbered ((writeHalf_changes _ _ _ _ _ _).numbered rfl h) ((writeHalf_changes _ _ _ _ _ _).numbered rfl h)
    · exact h
    · exact h
    · exact h

theorem moveDone_numbered {s c m x high} (h : Numbered s.host) : Numbered (moveDone s c m x high).host := by
  have signalled : Numbered (channelSignal m c (modCh s c (channelDone m x))).host := (channelSignal_reported m c _).numbered h
  obtain ⟨done, -⟩ | ⟨-, done⟩ | ⟨y, result, -, done⟩ := moveDone_cases s c m x high
  · rw [done]
    exact signalled
  · rw [done]
    exact signalled.of_sublist (List.filter_sublist.map _) rfl
  · rw [done]
    exact cmdEnd_numbered signalled

theorem moveFail_numbered {s old m l} (h : Numbered s.host) : Numbered (moveFail s old m l).host := ite_numbered h (aerReport_numbered h)

theorem moveEnd_numbered {s c m read hostErr writeErr} (h : Numbered s.host) : Numbered (moveEnd s c m read hostErr writeErr).host := by
  unfold moveEnd
  extract_lets x s1 cells written s2 crc s3 high _ s4
  have noted : Numbered s1.host := ite_numbered (aerReport_numbered h) h
  have stored : Numbered s2.host := moveFail_numbered (moveWrite_numbered noted)
  have assayed : Numbered s3.host := by
    unfold s3
    split
    · exact stored
    · exact (modFb_changes _ _ _).numbered rfl stored
  have committed : Numbered s4.host := ite_numbered assayed assayed
  exact moveDone_numbered committed

theorem withdraw_numbered {s c} (h : Numbered s.host) : Numbered (withdraw s c).host := by
  unfold withdraw
  split
  · exact h
  · exact ite_numbered ((modCh_changes _ _ _).numbered rfl h) (moveDone_numbered h)

theorem ladleWithdrawEffect_numbered {s c} (h : Numbered s.host) : Numbered (ladleWithdrawEffect s c).host :=
  ite_numbered (cmdDone_numbered h) (cmdDone_numbered (withdraw_numbered h))

theorem hbReadEffect_numbered {s c} (h : Numbered s.host) : Numbered (hbReadEffect s c).host :=
  ite_numbered ((modCh_changes _ _ _).numbered rfl h) (snapAsk_numbered h)

/-! ### Power domains and Holding (12) -/

theorem postDom_numbered {s d cause} (h : Numbered s.host) : Numbered (postDom s d cause).host := post_numbered h

theorem domLeave_numbered {s d} (h : Numbered s.host) : Numbered (domLeave s d).host := by
  unfold domLeave
  refine ite_numbered ?_ ?_
  · refine (biasForce_changes _).numbered rfl ?_
    refine ite_numbered ?_ ((synStop_changes _ _).numbered rfl ((linesIdle_changes _ _).numbered rfl h))
    exact (synStop_changes _ _).numbered rfl ((synStop_changes _ _).numbered rfl ((linesIdle_changes _ _).numbered rfl h))
  · refine ite_numbered ?_ ?_
    · refine synceUpdate_numbered ?_
      refine foldl_numbered ((dropDirect_changes _ _ _).numbered rfl h) fun _ _ h' => ?_
      exact (modLane_changes _ _ _).numbered rfl ((laneLeave_changes _ _).numbered rfl h')
    · refine ite_numbered ?_ ((biasForce_changes _).numbered rfl h)
      exact (dropUplink_changes _ _ _).numbered rfl ((dropCtrl_changes _ _ _).numbered rfl ((dropHeld_changes _ _ _).numbered rfl h))

theorem lanesDown_numbered {s d} (h : Numbered s.host) : Numbered (lanesDown s d).host :=
  foldl_numbered h fun _ _ h' => laneResolve_numbered ((modLane_changes _ _ _).numbered rfl h')

theorem domLeft_numbered {s d} (h : Numbered s.host) : Numbered (domLeft s d).host := by
  unfold domLeft
  refine ite_numbered (ite_numbered (reassign_numbered (lanesDown_numbered h)) (lanesDown_numbered h)) ?_
  refine ite_numbered h ?_
  exact ite_numbered (foldl_numbered h fun _ _ h' => (synStop_changes _ _).numbered rfl h') (ite_numbered (portReset_numbered h) h)

theorem entryStart_numbered {s d t} (h : Numbered s.host) : Numbered (entryStart s d t).host := by
  unfold entryStart
  refine ite_numbered (domLeave_numbered (ite_numbered ((tbStop_changes _).numbered rfl h) h)) ?_
  exact ite_numbered ((tbStop_changes _).numbered rfl h) h

theorem entryNext_numbered {atTick s} (h : Numbered s.host) : Numbered (entryNext atTick s).host := by
  unfold entryNext
  split
  · exact h
  · refine ite_numbered h ?_
    split
    · exact h
    · exact ite_numbered h (entryStart_numbered h)

theorem coldCtl_numbered {s} (h : Numbered s.host) : Numbered (coldCtl s).host := portReset_numbered h

theorem coldReset_numbered {s d} (h : Numbered s.host) : Numbered (coldReset s d).host := by
  unfold coldReset
  refine ite_numbered ((coldQuad_changes _ _).numbered rfl h) ?_
  split
  · exact coldCtl_numbered h
  · exact h
  · exact h
  · exact h
  · exact h
  · exact anlCold_numbered h
  · exact ite_numbered ((coldLanes_changes _ _).numbered rfl h) h

theorem domResume_numbered {s d cold} (h : Numbered s.host) : Numbered (domResume s d cold).host := by
  unfold domResume
  refine ite_numbered ?_ ?_
  · exact (anlTrigger_changes _ _).numbered rfl ((biasForce_changes _).numbered rfl ((synSearch_changes _ _).numbered rfl h))
  · split
    · exact flashResume_numbered h
    · exact ite_numbered ((tbResume_changes _).numbered rfl (ite_numbered h h)) h
    · exact (synSearchAll_changes _).numbered rfl h
    · exact (bankZero_changes _).numbered rfl h
    · refine ite_numbered ?_ h
      refine foldl_numbered h fun _ _ h' => ?_
      refine ite_numbered h' ?_
      refine ite_numbered ((startAttempt_changes _ _ _).numbered rfl h') ?_
      exact ite_numbered h' ((startAttempt_changes _ _ _).numbered rfl h')

theorem drainAll_numbered {s} (h : Numbered s.host) : Numbered (drainAll s).host :=
  foldl_numbered h fun _ k h' => recordDrain_numbered h' (Nat.le_add_right 16 k)

theorem evtqPost_numbered {s} (h : Numbered s.host) : Numbered (evtqPost s).host := foldl_numbered h fun _ _ h' => postEvent_numbered h'

theorem postWake_numbered {s src action replayed} (h : Numbered s.host) : Numbered (postWake s src action replayed).host := post_numbered h

theorem applyWake_numbered {s src action replayed} (h : Numbered s.host) : Numbered (applyWake s src action replayed).host := by
  unfold applyWake
  refine ite_numbered h ?_
  refine postWake_numbered ?_
  refine ite_numbered h ?_
  refine ite_numbered ?_ ((startExit_changes _ _).numbered rfl h)
  exact (sidleWake_changes _).numbered rfl ((flkBack_changes _).numbered rfl ((startExit_changes _ _).numbered rfl h))

theorem wake_numbered {s src} (h : Numbered s.host) : Numbered (wake s src).host :=
  ite_numbered h ((decidedNext_changes _).numbered rfl (applyWake_numbered h))

theorem wakesReplay_numbered {s} (h : Numbered s.host) : Numbered (wakesReplay s).host :=
  ite_numbered h ((decidedNext_changes _).numbered rfl (applyWake_numbered h))

theorem domFinish_numbered {s} (h : Numbered s.host) : Numbered (domFinish s).host := by
  unfold domFinish
  split
  · exact h
  · refine ite_numbered h ?_
    refine (hostExit_changes _).numbered rfl ?_
    refine wakesReplay_numbered ?_
    split
    · exact ite_numbered (endRef_numbered h) (doneRef_numbered h)
    · exact h

theorem domBegin_numbered {s c} (h : Numbered s.host) : Numbered (domBegin s c).host := domFinish_numbered (entryNext_numbered h)

theorem entryDone_numbered {s d sigs} (h : Numbered s.host) : Numbered (entryDone s d sigs).host := by
  unfold entryDone
  extract_lets t old b s1 _ s2 _ s3 s4 s5
  have left : Numbered s1.host := ite_numbered (domLeft_numbered h) h
  have signed : Numbered s2.host := ite_numbered left left
  have posted : Numbered s4.host := postDom_numbered ((setDom_changes s3 d t).numbered rfl signed)
  have finished : Numbered s5.host := domFinish_numbered (entryNext_numbered ((domReached_changes s4 d false).numbered rfl posted))
  exact ite_numbered ((hostExit_changes _).numbered rfl (wakesReplay_numbered finished)) finished

theorem bankSpoil_numbered {d s b} (h : Numbered s.host) : Numbered (bankSpoil d s b).host :=
  (lgEvent_changes _ _ _).numbered rfl ((hbCount_changes _ _).numbered rfl (post_numbered h))

theorem exitDone_numbered {s d sigs} (h : Numbered s.host) : Numbered (exitDone s d sigs).host := by
  unfold exitDone
  extract_lets kept b bad cold s1 _ s2 s3 s4 s5 s6
  have spoiled : Numbered s1.host := foldl_numbered h fun _ _ h' => bankSpoil_numbered h'
  have reset : Numbered s3.host := ite_numbered (coldReset_numbered (s := s2) spoiled) spoiled
  have posted : Numbered s5.host := postDom_numbered (domResume_numbered ((setDom_changes s3 d .on).numbered rfl reset))
  have drained : Numbered s6.host := ite_numbered (drainAll_numbered (evtqPost_numbered posted)) posted
  exact domFinish_numbered ((domReached_changes s6 d _).numbered rfl drained)

theorem ctlEntry_numbered {s} (h : Numbered s.host) : Numbered (ctlEntry s).host := by
  unfold ctlEntry
  split
  · exact h
  · exact entryStart_numbered (arriveAt_numbered h)

theorem windowEnd_numbered {s hits} (h : Numbered s.host) : Numbered (windowEnd s hits).host := by
  unfold windowEnd
  refine (hldPend_changes _).numbered rfl ?_
  split
  · exact h
  · exact ite_numbered (wake_numbered h) h
  · exact h

theorem darkApply_numbered {s} (h : Numbered s.host) : Numbered (darkApply s).host := by
  unfold darkApply
  refine ite_numbered (foldl_numbered h fun _ _ h' => postDom_numbered h') ?_
  exact domBegin_numbered (foldl_numbered h fun _ _ h' => postDom_numbered h')

theorem darkSymbol_numbered {k s} (h : Numbered s.host) : Numbered (darkSymbol k s).host :=
  ite_numbered (ite_numbered (darkApply_numbered h) h) h

/-! ### Service modes (02) -/

theorem ltsApply_numbered {s mask} (h : Numbered s.host) : Numbered (ltsApply s mask).host := by
  unfold ltsApply
  refine reassign_numbered ?_
  refine synceUpdate_numbered ?_
  refine foldl_numbered (foldl_numbered h fun _ _ h' => (ltsMove_changes _ _ _).numbered rfl h') fun _ _ h' => ?_
  exact ite_numbered h' ((startAttempt_changes _ _ _).numbered rfl h')

theorem applySet_numbered {s c new k acceptAt host} (h : Numbered s.host) : Numbered (applySet s c new k acceptAt host).host := by
  unfold applySet
  extract_lets old s1 dark survey bfs flk _ s2 s3 s4 s5 s6 _ s7 s8 s9 _ s10 _ s11 _ s12 _ s13 s14 s15
  have discarded : Numbered s1.host := ite_numbered ((modeDiscard_changes _ _ _ _).numbered rfl h) h
  clear_value s1
  have set : Numbered s3.host := (modModCc_changes s2 c _).numbered rfl discarded
  have dropped : Numbered s4.host := (dropCtrl_changes _ _ _).numbered rfl ((dropHeld_changes s3 _ _).numbered rfl set)
  have booked : Numbered s5.host :=
    ite_numbered (foldl_numbered dropped fun _ _ h' => (closeBook_changes _ _ _ _).numbered rfl h')
      (ite_numbered ((openBook_changes _ _ _ _ _).numbered rfl set) set)
  have direct : Numbered s6.host := ite_numbered ((dropDirect_changes _ _ _).numbered rfl booked) booked
  have surveyed : Numbered s7.host := ite_numbered direct direct
  have tabled : Numbered s8.host :=
    ite_numbered ((tablesGone_changes _ _ _).numbered rfl surveyed) (ite_numbered ((tablesGone_changes _ _ _).numbered rfl surveyed) surveyed)
  have armed : Numbered s9.host := ite_numbered ((hldArm_changes s8).numbered rfl tabled) tabled
  have idled : Numbered s10.host := ite_numbered ((sidleEnter_changes _).numbered rfl armed) armed
  have woken : Numbered s11.host := (sidleWake_changes _).numbered rfl idled
  clear_value s11
  have sourced : Numbered s12.host := ite_numbered woken woken
  clear_value s12
  have disarmed : Numbered s13.host := ite_numbered sourced sourced
  have released : Numbered s14.host := ite_numbered ((anlRelease_changes s13 7).numbered rfl disarmed) idled
  have failed : Numbered s15.host := ite_numbered (anlFail_numbered released) released
  exact (flaskOff_changes s15).numbered rfl failed

theorem modeTake_numbered {s d k acceptAt} (h : Numbered s.host) : Numbered (modeTake s d k acceptAt).host := by
  unfold modeTake
  extract_lets s1
  have set : Numbered s1.host := by
    refine foldl_numbered h fun _ _ h' => ?_
    split
    · exact h'
    · exact applySet_numbered h'
  split
  · exact set
  · exact ltsApply_numbered set

theorem modeEffect_numbered {s c} (h : Numbered s.host) : Numbered (modeEffect s c).host :=
  ite_numbered (cmdDone_numbered h) (ite_numbered (cmdPut_numbered h) (cmdDone_numbered (modeTake_numbered h)))

theorem flkDeny_numbered {s q} (h : Numbered s.host) : Numbered (flkDeny s q).host :=
  reqRefuse_numbered ((setReqs_changes _ _).numbered rfl h)

theorem flkTake_numbered {s} (h : Numbered s.host) : Numbered (flkTake s).host := by
  unfold flkTake
  refine ite_numbered h ?_
  split
  · exact h
  · split
    · exact flkDeny_numbered ((outward_changes _ _ _).numbered rfl h)
    · exact (outward_changes _ _ _).numbered rfl ((setReqs_changes _ _).numbered rfl h)

theorem flkPump_numbered {s} (h : Numbered s.host) : Numbered (flkPump s).host := by
  unfold flkPump
  refine ite_numbered h ?_
  refine ite_numbered (flkTake_numbered h) ?_
  exact foldl_numbered h fun _ _ h' => (toMaster_changes _ _ _).numbered rfl ((setReqs_changes _ _).numbered rfl h')

theorem modeAccepted_numbered {s c} (h : Numbered s.host) : Numbered (modeAccepted s c).host :=
  ite_numbered (flkPump_numbered ((flkStart_changes _).numbered rfl ((setReqs_changes _ _).numbered rfl (cmdPut_numbered h)))) h

theorem resumeSlot_numbered {k s} (h : Numbered s.host) : Numbered (resumeSlot k s).host :=
  foldl_numbered h fun _ _ h' => ite_numbered h' (ite_numbered h' (applySet_numbered h'))

/-! ### Thermal plant and housekeeping (13) -/

theorem hkQueue_numbered {s w} (h : Numbered s.host) : Numbered (hkQueue s w).host := ite_numbered h (ite_numbered (post_numbered h) h)

theorem conversionDone_numbered {code s} (h : Numbered s.host) : Numbered (conversionDone code s).host := by
  unfold conversionDone
  split
  · exact h
  · exact (hkNext_changes _ _).numbered rfl (hkQueue_numbered h)

theorem cmpCross_numbered {s k st} (h : Numbered s.host) : Numbered (cmpCross s k st).host := by
  unfold cmpCross
  extract_lets s1 c s2
  have posted : Numbered s1.host := post_numbered ((modCmp_changes s k _).numbered rfl h)
  have woken : Numbered s2.host := ite_numbered (wake_numbered posted) posted
  exact ite_numbered ((hkNext_changes _ _).numbered rfl ((modCmp_changes s2 k _).numbered rfl woken)) woken

theorem heaterSet_numbered {s on} (h : Numbered s.host) : Numbered (heaterSet s on).host := ite_numbered h (post_numbered h)

theorem heaterRound_numbered {s} (h : Numbered s.host) : Numbered (heaterRound s).host := by
  unfold heaterRound
  refine ite_numbered (heaterSet_numbered h) ?_
  split
  · exact h
  · exact ite_numbered (heaterSet_numbered h) (ite_numbered (heaterSet_numbered h) h)

theorem domQuench_numbered {s d} (h : Numbered s.host) : Numbered (domQuench s d).host := by
  unfold domQuench
  extract_lets old named _ s1 s2 _ s3
  have unnamed : Numbered s1.host := by
    unfold s1
    split
    · exact ite_numbered h h
    · exact h
  have left : Numbered s2.host := ite_numbered (domLeft_numbered (domLeave_numbered unnamed)) unnamed
  exact ite_numbered unnamed (postDom_numbered ((setDom_changes s3 d .off).numbered rfl left))

theorem quenchLatch_numbered {s cause sensor temp} (h : Numbered s.host) : Numbered (quenchLatch s cause sensor temp).host := by
  unfold quenchLatch
  refine snapAsk_numbered ?_
  refine (lgEvent_changes _ _ _).numbered rfl ?_
  refine (hbCount_changes _ _).numbered rfl ?_
  refine post_numbered ?_
  refine anlFail_numbered ?_
  refine heaterSet_numbered ?_
  refine domFinish_numbered ?_
  refine entryNext_numbered ?_
  refine foldl_numbered ((linesIdle_changes _ _).numbered rfl ((biasForce_changes _).numbered rfl h)) fun _ _ h' => ?_
  exact domQuench_numbered h'

theorem sensorBroken_numbered {s i why c} (h : Numbered s.host) : Numbered (sensorBroken s i why c).host := by
  unfold sensorBroken
  refine ite_numbered ?_ ?_
  · exact noteFault_numbered ((modSensor_changes _ _ _).numbered rfl (post_numbered ((modSensor_changes _ _ _).numbered rfl h)))
  · exact noteRetired_numbered ((modSensor_changes _ _ _).numbered rfl (post_numbered ((modSensor_changes _ _ _).numbered rfl h)))

theorem rangeCheck_numbered {s i} (h : Numbered s.host) : Numbered (rangeCheck s i).host := by
  unfold rangeCheck
  split
  · exact ite_numbered h (sensorBroken_numbered h)
  · exact h

theorem crossCheck_numbered {pre s i} (h : Numbered s.host) : Numbered (crossCheck pre s i).host := by
  unfold crossCheck
  split
  · refine ite_numbered h ?_
    refine ite_numbered ((modSensor_changes _ _ _).numbered rfl h) ?_
    exact ite_numbered ((modSensor_changes _ _ _).numbered rfl h) (sensorBroken_numbered ((modSensor_changes _ _ _).numbered rfl h))
  · exact h

theorem sensorRound_numbered {s} (h : Numbered s.host) : Numbered (sensorRound s).host := by
  unfold sensorRound
  extract_lets s1 s2 s3
  have ranged : Numbered s1.host := foldl_numbered h fun _ _ h' => rangeCheck_numbered h'
  have crossed : Numbered s2.host := foldl_numbered ranged fun _ _ h' => crossCheck_numbered h'
  have readmitted : Numbered s3.host := foldl_numbered crossed fun _ _ h' => (readmit_changes _ _ _).numbered rfl h'
  clear_value s3
  exact readmitted

theorem quenchRound_numbered {s} (h : Numbered s.host) : Numbered (quenchRound s).host := by
  unfold quenchRound
  refine ite_numbered h ?_
  split
  · exact quenchLatch_numbered h
  · exact h

theorem groupCeil_numbered {s g ts p0 pred} (h : Numbered s.host) : Numbered (groupCeil s g ts p0 pred).host :=
  ite_numbered (post_numbered ((setCeil_changes _ _ _).numbered rfl h)) (ite_numbered ((setCeil_changes _ _ _).numbered rfl h) h)

theorem groupRound_numbered {dc s g} (h : Numbered s.host) : Numbered (groupRound dc s g).host := by
  unfold groupRound
  refine ite_numbered ((setCeil_changes _ _ _).numbered rfl h) ?_
  split
  · exact groupCeil_numbered ((groupModel_changes _ _ _ _ _ _).numbered rfl h)
  · exact h

theorem hkRound_numbered {s} (h : Numbered s.host) : Numbered (hkRound s).host := by
  unfold hkRound
  dsimp only
  refine (hbRound_changes _).numbered rfl ?_
  refine (anlRound_changes _ _).numbered rfl ?_
  refine (compRound_changes _).numbered rfl ?_
  refine heaterRound_numbered ?_
  refine (fanRound_changes _).numbered rfl ?_
  exact foldl_numbered (quenchRound_numbered (sensorRound_numbered h)) fun _ _ h' => groupRound_numbered h'

theorem thmCfgEffect_numbered {s c} (h : Numbered s.host) : Numbered (thmCfgEffect s c).host := by
  unfold thmCfgEffect
  refine cmdDone_numbered ?_
  exact ite_numbered (foldl_numbered h fun _ _ h' => (modFan_changes _ _ _).numbered rfl h') ((hkNext_changes _ _).numbered rfl h)

/-! ### Retirements by the host (R376) -/

theorem hostRetire_numbered {s ty i} (h : Numbered s.host) : Numbered (hostRetire s ty i).host := by
  unfold hostRetire
  split
  · exact retirePath_numbered h
  · exact noteRetired_numbered ((modPot_changes _ _ _).numbered rfl h)
  · exact synceUpdate_numbered (laneRetire_numbered h)
  · exact synRetire_numbered h
  · exact noteRetired_numbered ((modSensor_changes _ _ _).numbered rfl h)

theorem hostRestore_numbered {s ty i} (h : Numbered s.host) : Numbered (hostRestore s ty i).host := by
  unfold hostRestore
  refine postUnit_numbered ?_
  split
  · exact (modTx_changes _ _ _).numbered rfl h
  · exact (modPot_changes _ _ _).numbered rfl h
  · refine ite_numbered ((startAttempt_changes _ _ _).numbered rfl ((modLane_changes _ _ _).numbered rfl h)) ?_
    exact (modLane_changes _ _ _).numbered rfl h
  · exact ite_numbered h ((synSearch_changes _ _).numbered rfl ((modSynth_changes _ _ _).numbered rfl h))
  · exact (modSensor_changes _ _ _).numbered rfl h

theorem unitCtrlEffect_numbered {s c} (h : Numbered s.host) : Numbered (unitCtrlEffect s c).host :=
  cmdDone_numbered (foldl_numbered h fun _ _ h' => ite_numbered (hostRetire_numbered h') (hostRestore_numbered h'))

theorem pathsSlot_numbered {s} (h : Numbered s.host) : Numbered (pathsSlot s).host := by
  unfold pathsSlot
  extract_lets moved s1 mask
  have taken : Numbered s1.host :=
    foldl_numbered h fun _ _ h' => ite_numbered ((modTx_changes _ _ _).numbered rfl h') ((pathBack_changes _ _).numbered rfl h')
  exact ite_numbered taken ((biasForce_changes _).numbered rfl (foldl_numbered taken fun _ _ h' => post_numbered h'))

/-! ### The flask (07) -/

theorem flkEvent_numbered {s what code inst} (h : Numbered s.host) : Numbered (flkEvent s what code inst).host := post_numbered h

theorem conflictSet_numbered {s code id} (h : Numbered s.host) : Numbered (conflictSet s code id).host := by
  unfold conflictSet
  refine ite_numbered h ?_
  exact foldl_numbered (flkEvent_numbered h) fun _ _ h' => flkDeny_numbered ((reqWithdraw_changes _ _).numbered rfl h')

theorem memberHeard_numbered {s id pos} (h : Numbered s.host) : Numbered (memberHeard s id pos).host :=
  ite_numbered (conflictSet_numbered h) (ite_numbered (conflictSet_numbered h) h)

theorem alignStart_numbered {s} (h : Numbered s.host) : Numbered (alignStart s).host :=
  ite_numbered h (ite_numbered (flkPump_numbered h) (ite_numbered h h))

theorem chainUpdate_numbered {s} (h : Numbered s.host) : Numbered (chainUpdate s).host := by
  unfold chainUpdate
  refine ite_numbered (ite_numbered h ((positionSet_changes _ _).numbered rfl h)) ?_
  refine alignStart_numbered ?_
  refine foldl_numbered (ite_numbered h ((positionSet_changes _ _).numbered rfl h)) fun _ _ h' => ?_
  split
  · exact memberHeard_numbered h'
  · exact h'

theorem beatTake_numbered {s d bs} (h : Numbered s.host) : Numbered (beatTake s d bs).host := by
  unfold beatTake
  extract_lets w far s1 _ s2
  have heard : Numbered s1.host := (modSide_changes s d _).numbered rfl h
  have led : Numbered s2.host := ite_numbered heard heard
  exact ite_numbered (conflictSet_numbered led) (chainUpdate_numbered led)

theorem flkSuspend_numbered {s} (h : Numbered s.host) : Numbered (flkSuspend s).host := by
  unfold flkSuspend
  refine flkEvent_numbered ?_
  refine foldl_numbered h fun _ _ h' => ?_
  refine ite_numbered ?_ h'
  exact (dropUplink_changes _ _ _).numbered rfl ((dropCtrl_changes _ _ _).numbered rfl ((dropHeld_changes _ _ _).numbered rfl h'))

theorem suspendSymbol_numbered {s} (h : Numbered s.host) : Numbered (suspendSymbol s).host :=
  ite_numbered h (ite_numbered (flkSuspend_numbered h) (ite_numbered h h))

theorem membersLost_numbered {s gone} (h : Numbered s.host) : Numbered (membersLost s gone).host := by
  unfold membersLost
  extract_lets gone was mask _ s1 s2 j
  have told : Numbered s2.host := foldl_numbered h fun _ _ h' => flkEvent_numbered h'
  have next : ∀ {t n b}, Numbered t.host → Numbered (recompute t n b).host := fun h' => (recompute_changes _ _ _).numbered rfl h'
  exact ite_numbered h (ite_numbered told (ite_numbered (next (next told)) (next told)))

theorem sideLost_numbered {s pos d} (h : Numbered s.host) : Numbered (sideLost s pos d).host := membersLost_numbered h

theorem linkSymbol_numbered {s d} (h : Numbered s.host) : Numbered (linkSymbol s d).host := by
  unfold linkSymbol
  refine ite_numbered h ?_
  refine ite_numbered ((modSide_changes _ _ _).numbered rfl h) ?_
  refine ite_numbered ?_ ((toMaster_changes _ _ _).numbered rfl ((modSide_changes _ _ _).numbered rfl h))
  exact ite_numbered ((modSide_changes _ _ _).numbered rfl h) (sideLost_numbered ((modSide_changes _ _ _).numbered rfl h))

theorem alignAct_numbered {s d th} (h : Numbered s.host) : Numbered (alignAct s d th).host := by
  unfold alignAct
  refine ite_numbered (ite_numbered (flkPump_numbered ((sendReady_changes _).numbered rfl h)) h) ?_
  exact ite_numbered (flkSuspend_numbered (ite_numbered (post_numbered h) h)) (ite_numbered (post_numbered h) h)

theorem flaskFrame_numbered {s} (h : Numbered s.host) : Numbered (flaskFrame s).host := by
  unfold flaskFrame
  refine ite_numbered h ?_
  split
  · exact h
  · refine foldl_numbered ?_ fun _ _ h' => (sendPour_changes _ _ _ _ _ _ _ _ _ _).numbered rfl h'
    refine (modSide_changes _ _ _).numbered rfl ?_
    refine (modSide_changes _ _ _).numbered rfl ?_
    split
    · exact h
    · exact alignAct_numbered ((modSide_changes _ _ _).numbered rfl h)

theorem serviceStart_numbered {s asked} (h : Numbered s.host) : Numbered (serviceStart s asked).host := by
  unfold serviceStart
  refine ite_numbered h ?_
  refine ite_numbered ?_ (flkEvent_numbered h)
  refine foldl_numbered (foldl_numbered (flkEvent_numbered h) fun _ _ h' => flkEvent_numbered h') fun _ _ h' => ?_
  exact (joinSend_changes _ _ _).numbered rfl h'

theorem reqDone_numbered {s q k} (h : Numbered s.host) : Numbered (reqDone s q k).host := by
  unfold reqDone
  split
  · exact h
  · refine cmdDone_numbered ?_
    split
    · exact ltsApply_numbered h
    · exact h

theorem hldAborts_numbered {s c new} (h : Numbered s.host) : Numbered (hldAborts s c new).host := ite_numbered (anlFail_numbered h) h

theorem reqApply_numbered {k pre s q} (h : Numbered s.host) : Numbered (reqApply k pre s q).host := by
  unfold reqApply
  split
  · exact reqRefuse_numbered ((setReqs_changes _ _).numbered rfl (ite_numbered ((outward_changes _ _ _).numbered rfl h) h))
  · refine serviceStart_numbered ?_
    refine reqDone_numbered ?_
    exact foldl_numbered ((setReqs_changes _ _).numbered rfl h) fun _ _ h' => applySet_numbered (hldAborts_numbered h')

theorem reqMet_numbered {k s q} (h : Numbered s.host) : Numbered (reqMet k s q).host := by
  unfold reqMet
  refine ite_numbered ?_ h
  refine reqDone_numbered ?_
  refine foldl_numbered ((reqWithdraw_changes _ _).numbered rfl ((setReqs_changes _ _).numbered rfl h)) fun _ _ h' => ?_
  exact applySet_numbered h'

theorem joinSlot_numbered {k s} (h : Numbered s.host) : Numbered (joinSlot k s).host :=
  ite_numbered h (foldl_numbered h fun _ _ h' => flkEvent_numbered h')

theorem flaskApply_numbered {k pre s} (h : Numbered s.host) : Numbered (flaskApply k pre s).host := by
  unfold flaskApply
  refine flkPump_numbered ?_
  exact joinSlot_numbered (foldl_numbered (foldl_numbered h fun _ _ h' => reqApply_numbered h') fun _ _ h' => reqMet_numbered h')

theorem tableLate_numbered {n s t} (h : Numbered s.host) : Numbered (tableLate n s t).host := postTable_numbered (post_numbered h)

theorem tableForce_numbered {n late s} (h : Numbered s.host) : Numbered (tableForce n late s).host := by
  unfold tableForce
  extract_lets t _ s1 s2
  have taken : Numbered s1.host := by
    unfold s1
    clear_value t
    split
    · exact ite_numbered (tableLate_numbered h) h
    · exact h
  have booked : Numbered s2.host := (tableBooks_changes s1 _).numbered rfl taken
  split
  · exact ite_numbered booked booked
  · exact booked

theorem tableAgain_numbered {n s} (h : Numbered s.host) : Numbered (tableAgain n s).host := by
  unfold tableAgain
  split
  · exact ite_numbered (publishTable_numbered h) h
  · exact h

theorem tableSlot_numbered {n late s} (h : Numbered s.host) : Numbered (tableSlot n late s).host := by
  unfold tableSlot
  refine ite_numbered ?_ ?_
  · refine (sendTables_changes _ _).numbered rfl ?_
    refine (computeTables_changes _ _).numbered rfl ?_
    exact publishTable_numbered (tableAgain_numbered ((dealSlot_changes _ _).numbered rfl (tableForce_numbered h)))
  · refine (computeTables_changes _ _).numbered rfl ?_
    exact publishTable_numbered (tableAgain_numbered ((dealSlot_changes _ _).numbered rfl (tableForce_numbered h)))

theorem flaskSymbol_numbered {s} (h : Numbered s.host) : Numbered (flaskSymbol s).host := by
  unfold flaskSymbol
  extract_lets s1 s2 s3
  have begun : Numbered s1.host := ite_numbered ((flkStart_changes s).numbered rfl h) h
  have linked : Numbered s2.host := linkSymbol_numbered (linkSymbol_numbered begun)
  have suspended : Numbered s3.host := suspendSymbol_numbered (ite_numbered (chainUpdate_numbered linked) linked)
  refine (beats_changes _).numbered rfl ((backSymbol_changes _).numbered rfl ?_)
  exact (anlAskSymbol_changes _).numbered rfl ((resSymbol_changes s3).numbered rfl suspended)

theorem flaskSlot_numbered {k late pre s} (h : Numbered s.host) : Numbered (flaskSlot k late pre s).host := by
  unfold flaskSlot
  refine ite_numbered ?_ ((grantSlot_changes _ _).numbered rfl (tableSlot_numbered (flaskApply_numbered h)))
  exact (outward_changes _ _ _).numbered rfl ((grantSlot_changes _ _).numbered rfl (tableSlot_numbered (flaskApply_numbered h)))

theorem ackTake_numbered {s id cause} (h : Numbered s.host) : Numbered (ackTake s id cause).host := by
  unfold ackTake
  split
  · exact h
  · refine ite_numbered ((setReqs_changes _ _).numbered rfl h) ?_
    exact flkPump_numbered (flkDeny_numbered ((outward_changes _ _ _).numbered rfl h))

theorem statusTake_numbered {s bs} (h : Numbered s.host) : Numbered (statusTake s bs).host := by
  unfold statusTake
  refine ite_numbered (memberHeard_numbered h) ?_
  split
  · exact (readyTake_changes _ _).numbered rfl (memberHeard_numbered h)
  · exact ite_numbered (memberHeard_numbered h) (sideLost_numbered (memberHeard_numbered h))
  · exact memberHeard_numbered h
  · exact (anlAsked_changes _ _ _).numbered rfl (memberHeard_numbered h)
  · exact ackTake_numbered (memberHeard_numbered h)
  · exact memberHeard_numbered h

theorem modeFromMember_numbered {s bs} (h : Numbered s.host) : Numbered (modeFromMember s bs).host := by
  unfold modeFromMember
  refine ite_numbered ?_ ?_
  · split
    · exact flkPump_numbered ((setReqs_changes _ _).numbered rfl (ite_numbered ((outward_changes _ _ _).numbered rfl h) h))
    · exact h
  · refine ite_numbered ((outward_changes _ _ _).numbered rfl h) ?_
    refine ite_numbered ?_ (flkPump_numbered ((flkStart_changes _).numbered rfl ((setReqs_changes _ _).numbered rfl h)))
    refine ite_numbered h ?_
    exact (backStart_changes _).numbered rfl ((outward_changes _ _ _).numbered rfl ((setReqs_changes _ _).numbered rfl h))

theorem modeFromMaster_numbered {s bs} (h : Numbered s.host) : Numbered (modeFromMaster s bs).host := by
  unfold modeFromMaster
  refine ite_numbered (ite_numbered h h) ?_
  refine ite_numbered ?_ ?_
  · split
    · exact flkDeny_numbered h
    · exact h
  · refine ite_numbered (ite_numbered ((backStart_changes _).numbered rfl ((setReqs_changes _ _).numbered rfl h)) h) ?_
    refine ite_numbered h ?_
    refine ite_numbered ?_ ?_
    · split
      · exact (setReqs_changes _ _).numbered rfl h
      · exact (setReqs_changes _ _).numbered rfl h
    · refine (toMaster_changes _ _ _).numbered rfl ?_
      split
      · exact (setReqs_changes _ _).numbered rfl h
      · exact (setReqs_changes _ _).numbered rfl h

theorem ctrlTake_numbered {s d sub symid bs} (h : Numbered s.host) : Numbered (ctrlTake s d sub symid bs).host := by
  unfold ctrlTake
  dsimp only
  split
  · exact beatTake_numbered h
  · exact ite_numbered h ((passOn_changes _ _ _ _ _).numbered rfl h)
  · exact ite_numbered (ite_numbered h ((tableTake_changes _ _).numbered rfl h)) ((passOn_changes _ _ _ _ _).numbered rfl h)
  · exact ite_numbered (statusTake_numbered h) ((passOn_changes _ _ _ _ _).numbered rfl h)
  · refine ite_numbered (ite_numbered (modeFromMember_numbered h) ((passOn_changes _ _ _ _ _).numbered rfl h)) ?_
    exact ite_numbered h (modeFromMaster_numbered ((passOn_changes _ _ _ _ _).numbered rfl h))
  · exact ite_numbered h ((passOn_changes _ _ _ _ _).numbered rfl h)

theorem pourDrop_numbered {s d lane} (h : Numbered s.host) : Numbered (pourDrop s d lane).host := by
  unfold pourDrop
  extract_lets l s1 s2
  have dropped : Numbered s1.host := (modSide_changes _ _ _).numbered rfl ((slag_changes s 17 1).numbered rfl h)
  have marked : Numbered s2.host := (modLane_changes _ _ _).numbered rfl ((laneErr_changes s1 l).numbered rfl dropped)
  exact ite_numbered (synceUpdate_numbered (detectorAssert_numbered marked)) marked

theorem pourTake_numbered {s d lane f} (h : Numbered s.host) : Numbered (pourTake s d lane f).host := by
  unfold pourTake
  extract_lets hd cls bad s1 r
  have snooped : Numbered s1.host := ite_numbered h ((assaySnoop_changes _ _ _ _).numbered rfl h)
  have taken : Numbered r.1.host := by
    unfold r
    clear_value cls
    split
    · exact (copyTake_changes _ _ _ _ _).numbered rfl snooped
    · exact (psumTake_changes _ _ _ _ _).numbered rfl snooped
    · exact ctrlTake_numbered snooped
    · exact (alignTake_changes _ _ _ _ _).numbered rfl snooped
  refine ite_numbered (pourDrop_numbered ((copyBad_changes _ _ _ _).numbered rfl h)) (ite_numbered (pourDrop_numbered snooped) ?_)
  exact ite_numbered ((pourGood_changes _ _ _).numbered rfl taken) (pourDrop_numbered taken)

theorem layerSetEffect_numbered {s c} (h : Numbered s.host) : Numbered (layerSetEffect s c).host :=
  cmdPut_numbered ((rsvUpdate_changes _).numbered rfl h)

theorem layerSetDone_numbered {k s} (h : Numbered s.host) : Numbered (layerSetDone k s).host :=
  foldl_numbered h fun _ _ h' => cmdDone_numbered h'

/-! ### Register writes with an effect, and disabled rings (R104) -/

theorem heatWrite_numbered {s v} (h : Numbered s.host) : Numbered (heatWrite s v).host := ite_numbered h (heaterSet_numbered h)

theorem ringError_numbered {s r code value} (h : Numbered s.host) : Numbered (ringError s r code value).host := post_numbered h

theorem cmdEnd_nextSeq {s c status trunc} : (cmdEnd s c status trunc).host.nextSeq = s.host.nextSeq := by
  unfold cmdEnd
  extract_lets s1
  split
  · rfl
  · exact (recordPush_reported s1 (Nat.le_add_right 16 _) _).nextSeq

theorem withdraw_nextSeq {s i} : (withdraw s i).host.nextSeq = s.host.nextSeq := by
  cases hm : (chOf s i).move with
  | none => rw [withdraw_of_none hm]
  | some m =>
    cases started : m.started with
    | true =>
      rw [withdraw_of_started hm started]
      rfl
    | false =>
      rw [withdraw_of_waiting hm started]
      have signalled := (channelSignal_reported m i (modCh s i (channelDone m ⟨2, cWithdrawn, true, 0⟩))).nextSeq
      obtain ⟨done, -⟩ | ⟨-, done⟩ | ⟨y, result, -, done⟩ :=
        moveDone_cases s i m ⟨2, cWithdrawn, true, 0⟩ (if m.kind = .pattern then 0xFFFFFFFF else 0)
      · rw [done]
        exact signalled
      · rw [done]
        exact signalled
      · rw [done]
        exact cmdEnd_nextSeq.trans signalled

theorem moveRefused_nextSeq {s ch c r} : (moveRefused s ch c r).host.nextSeq = s.host.nextSeq := by
  unfold moveRefused
  split
  · rfl
  · exact (signal_reported _ _).nextSeq

/-- A command that has begun is listed again under its own number, which none but it bore (R104). -/
theorem recordRing_numbered {s c} (h : Numbered s.host) (own : c.seq < s.host.nextSeq) : Numbered (cmdRingOff.recordRing s c).host := by
  have ended : Numbered (cmdEnd s { c with cause := cRing } 2).host := cmdEnd_numbered h
  refine ended.concat (c := { c with silent := true }) rfl (Nat.le_refl _) (fun d hd => ?_) (cmdEnd_nextSeq.symm ▸ own)
  rw [cmdEnd_cmds s { c with cause := cRing } 2 false] at hd
  exact of_decide_eq_true (List.mem_filter.1 hd).2

/-- The end of a command of a disabled ring keeps the numbers and the next one (R104). -/
theorem cmdRingOff_numbered {s c} (h : Numbered s.host) (own : c.seq < s.host.nextSeq) :
    Numbered (cmdRingOff s c).host ∧ (cmdRingOff s c).host.nextSeq = s.host.nextSeq := by
  have refused : ∀ {u : State} {r}, u.host = s.host → Numbered (cmdRefuse u c r).host ∧ (cmdRefuse u c r).host.nextSeq = s.host.nextSeq :=
    fun hu => ⟨cmdEnd_numbered (hu ▸ h), cmdEnd_nextSeq.trans (congrArg HostIf.nextSeq hu)⟩
  simp only [cmdRingOff]
  split
  · split
    · refine refused ?_
      have withdrawn : changesOnly [.fh, .run, .out] s ((s.run.modeReqs.filter fun q => q.ref == some c.ref).foldl reqWithdraw s) :=
        changesOnly_foldl _ _ reqWithdraw_changes _ s
      exact withdrawn .host (by decide)
    · split
      · exact refused rfl
      · split
        · exact ⟨withdraw_numbered h, withdraw_nextSeq⟩
        · exact ⟨recordRing_numbered h own, cmdEnd_nextSeq⟩
  · split
    · split
      · exact refused rfl
      · exact ⟨cmdEnd_numbered (moveRefused_numbered h), cmdEnd_nextSeq.trans moveRefused_nextSeq⟩
    · exact refused rfl

theorem foldl_cmdRingOff_numbered {l : List Cmd} {s} (h : Numbered s.host) (own : ∀ c ∈ l, c.seq < s.host.nextSeq) :
    Numbered (l.foldl cmdRingOff s).host := by
  induction l generalizing s with
  | nil => exact h
  | cons c l ih =>
    obtain ⟨kept, next⟩ := cmdRingOff_numbered h (own c List.mem_cons_self)
    exact ih kept fun d hd => next ▸ own d (List.mem_cons_of_mem c hd)

theorem ringDisable_numbered {s r} (h : Numbered s.host) : Numbered (ringDisable s r).host :=
  ite_numbered (foldl_cmdRingOff_numbered (modRing_numbered h) fun c hc => h.2 c (List.mem_filter.1 hc).1) (modRing_numbered h)

theorem ringEnable_numbered {s r} (h : Numbered s.host) : Numbered (ringEnable s r).host := modRing_numbered h

theorem ringCoal_numbered {s r} (h : Numbered s.host) : Numbered (ringCoal s r).host :=
  ite_numbered h (ite_numbered (signal_numbered (modRing_numbered h)) (modRing_numbered h))

theorem ringCfgWrite_numbered {s r v} (h : Numbered s.host) : Numbered (ringCfgWrite s r v).host := by
  unfold ringCfgWrite
  refine ite_numbered (ringError_numbered h) ?_
  refine ite_numbered (ringError_numbered h) ?_
  refine ite_numbered (ite_numbered (ringCoal_numbered (modRing_numbered h)) (ringEnable_numbered (modRing_numbered h))) ?_
  exact ite_numbered (modRing_numbered (ringDisable_numbered h)) (modRing_numbered h)

/-! ### Accesses, vectors and doorbells (R70, R90–R96) -/

theorem respond_numbered {s r} (h : Numbered s.host) : Numbered (respond s r).host := h

theorem darkNote_numbered {s off wr b v} (h : Numbered s.host) : Numbered (darkNote s off wr b v).host := ite_numbered (post_numbered h) h

theorem shadowLatch_numbered {s x0} (h : Numbered s.host) : Numbered (shadowLatch s x0).host := h

theorem shadowDrop_numbered {s req} (h : Numbered s.host) : Numbered (shadowDrop s req).host := h

theorem splitMiss_numbered {s} (h : Numbered s.host) : Numbered (splitMiss s).host := h

theorem wordGet_numbered {s req off} (h : Numbered s.host) : Numbered (wordGet s req off).1.host := by
  unfold wordGet
  split
  · exact (hkPop_changes s).numbered rfl h
  · split
    · exact shadowLatch_numbered h
    · split
      · split
        · split
          · exact shadowDrop_numbered h
          · exact splitMiss_numbered h
        · exact splitMiss_numbered h
      · exact h

theorem partRead_numbered {s req off len} (h : Numbered s.host) : Numbered (partRead s req off len).1.host := by
  unfold partRead
  split
  · exact darkNote_numbered h
  · exact wordGet_numbered h

theorem busRead_numbered {s req off len} (h : Numbered s.host) : Numbered (busRead s req off len).host := by
  unfold busRead
  refine ite_numbered (respond_numbered h) ?_
  refine ite_numbered (respond_numbered h) ?_
  refine ite_numbered ?_ (respond_numbered (partRead_numbered h))
  refine ite_numbered ?_ (respond_numbered (partRead_numbered (partRead_numbered h)))
  split
  · exact respond_numbered (darkNote_numbered h)
  · exact respond_numbered h

theorem heldDrop_numbered {s req} (h : Numbered s.host) : Numbered (heldDrop s req).host := h

theorem heldMiss_numbered {s req} (h : Numbered s.host) : Numbered (heldMiss s req).host :=
  ite_numbered (splitMiss_numbered (heldDrop_numbered h)) h

theorem pendingSend_numbered {s v} (h : Numbered s.host) : Numbered (pendingSend s v).host :=
  ite_numbered ((send_changes _ _).numbered rfl h) h

theorem msixWord_numbered {s v w x0} (h : Numbered s.host) : Numbered (msixWord s v w x0).host := pendingSend_numbered h

theorem bar2Write_numbered {s off x0} (h : Numbered s.host) : Numbered (bar2Write s off x0).host := ite_numbered (msixWord_numbered h) h

theorem doorbell_numbered {s r width v} (h : Numbered s.host) : Numbered (doorbell s r width v).host := by
  unfold doorbell
  extract_lets g err s1
  refine ite_numbered (ringError_numbered h) ?_
  split
  · exact h
  · next completion =>
    have lo : 16 ≤ r := Nat.le_of_not_lt completion
    exact ite_numbered (recordDrain_numbered (s := s1) h lo) (evtOverflow_numbered (s := s1) h lo)

/-! A command of a ring that is disabled -/

theorem bar2Access_numbered {s q} (h : Numbered s.host) : Numbered (bar2Access s q).host := by
  unfold bar2Access
  refine ite_numbered ?_ (respond_numbered h)
  refine respond_numbered ?_
  exact ite_numbered (bar2Write_numbered (ite_numbered (bar2Write_numbered h) h)) (ite_numbered (bar2Write_numbered h) h)

theorem msixControlWrite_numbered {s v} (h : Numbered s.host) : Numbered (msixControlWrite s v).host :=
  foldl_numbered h fun _ _ h' => pendingSend_numbered h'

theorem configWrite_numbered {s x v} (h : Numbered s.host) : Numbered (configWrite s x v).host := by
  unfold configWrite
  split
  · exact msixControlWrite_numbered h
  · exact respond_numbered h
  · exact respond_numbered h

theorem hostStores_numbered {s stores} (h : Numbered s.host) : Numbered (hostStores s stores).host := h

/-! ### The units at an air tick -/

theorem slotUnits_numbered {s} (h : Numbered s.host) : Numbered (slotUnits s).host := by
  unfold slotUnits
  refine (shiftSlot_changes _).numbered rfl ?_
  refine (potsSlot_changes _).numbered rfl ?_
  exact (booksSlot_changes _).numbered rfl ((lanesSlot_changes _).numbered rfl (txSlotAfter_numbered (pathsSlot_numbered h)))

theorem slotRest_numbered {k late pre s} (h : Numbered s.host) : Numbered (slotRest k late pre s).host :=
  resumeSlot_numbered (layerSetDone_numbered (flaskSlot_numbered (anlSlot_numbered h)))

theorem symbolUnits_numbered {k pre s} (h : Numbered s.host) : Numbered (symbolUnits k pre s).host := by
  unfold symbolUnits
  refine flaskSymbol_numbered ?_
  refine darkSymbol_numbered ?_
  refine (dealUnits_changes _ _).numbered rfl ?_
  refine commitSymbol_numbered ?_
  refine lanesSymbol_numbered ?_
  refine orxSymbol_numbered ?_
  refine (biasSymbol_changes _ _).numbered rfl ?_
  refine (dpdSymbol_changes _ _).numbered rfl ?_
  exact (rxSymbol_changes _ _ _).numbered rfl (txSymbol_numbered ((temperObserve_changes _ _).numbered rfl h))

theorem symbolSends_numbered {k s} (h : Numbered s.host) : Numbered (symbolSends k s).host := by
  unfold symbolSends
  refine refSelect_numbered ?_
  exact (tbSymbol_changes _ _).numbered rfl ((sendUplink_changes _).numbered rfl ((creditRecords_changes _ _).numbered rfl h))

theorem airAfter_numbered {pre s} (h : Numbered s.host) : Numbered (airAfter pre s).host :=
  (hkCheck_changes _ _).numbered rfl (entryNext_numbered (anlWatch_numbered h))

/-! ### Power-on reset (R17) -/

theorem powerOn_numbered {st s} : Numbered (powerOn st s).host := by
  have none : (powerOn st s).host.cmds = [] := by simp only [powerOn, State.reset]
  rw [Numbered, none]
  exact ⟨List.nodup_nil, fun _ hc => absurd hc List.not_mem_nil⟩

end Sys2Proof.Machine
end

section
/-! The commands keep the numbers (R71, R74, R75): what each does when it takes effect, is refused or is accepted, and the commands due
at a tick. -/

namespace Sys2Proof.Machine

/-- Whatever a command does keeps the numbers. -/
structure CmdDef.KeepsNumbers (f : CmdDef) : Prop where
  effect : ∀ {s c}, Numbered s.host → Numbered (f.effect s c).host
  refused : ∀ {s c r}, Numbered s.host → Numbered (f.refused s c r).host
  accepted : ∀ {s c}, Numbered s.host → Numbered (f.accepted s c).host

/-- Most commands do nothing more at a refusal or at their acceptance. -/
theorem CmdDef.KeepsNumbers.of_effect {f : CmdDef} (effect : ∀ {s c}, Numbered s.host → Numbered (f.effect s c).host)
    (refused : f.refused = fun s _ _ => s) (accepted : f.accepted = fun s _ => s) : f.KeepsNumbers :=
  ⟨effect, fun h => refused ▸ h, fun h => accepted ▸ h⟩

theorem modeSetDef_keepsNumbers : modeSetDef.KeepsNumbers where
  effect := modeEffect_numbered
  refused h := ite_numbered ((modeCause_changes _ _ _).numbered rfl h) h
  accepted := modeAccepted_numbered

theorem weightLoadDef_keepsNumbers : weightLoadDef.KeepsNumbers where
  effect := cmdDone_numbered
  refused := id
  accepted h := (resSymbol_changes _).numbered rfl ((weightAccept_changes _ _).numbered rfl h)

theorem patternWriteDef_keepsNumbers : patternWriteDef.KeepsNumbers where
  effect := (patternEffect_changes _ _).numbered rfl
  refused := moveRefused_numbered
  accepted := id

theorem ladleMoveDef_keepsNumbers : ladleMoveDef.KeepsNumbers where
  effect := (ladleMoveEffect_changes _ _).numbered rfl
  refused := moveRefused_numbered
  accepted := id

theorem anlRunDef_keepsNumbers : anlRunDef.KeepsNumbers where
  effect := anlRunEffect_numbered
  refused h := ite_numbered ((authChecked_changes _ false).numbered rfl h) h
  accepted := id

theorem hldCfgDef_keepsNumbers : hldCfgDef.KeepsNumbers :=
  .of_effect (fun h => cmdDone_numbered (ite_numbered h ((hldTake_changes _ _).numbered rfl h))) rfl rfl

theorem hbReadDef_keepsNumbers : hbReadDef.KeepsNumbers where
  effect := hbReadEffect_numbered
  refused h := ite_numbered (moveRefused_numbered h) h
  accepted := id

theorem hbClearDef_keepsNumbers : hbClearDef.KeepsNumbers where
  effect h := ite_numbered (hbClearGo_numbered h) (cmdPut_numbered h)
  refused := (hbClearRefused_changes _ _ _).numbered rfl
  accepted := id

theorem badOpDef_keepsNumbers (op : Nat) : (badOpDef op).KeepsNumbers := .of_effect id rfl rfl

theorem commandDefs_keepNumbers : ∀ f ∈ commandDefs, f.KeepsNumbers := by
  simp only [commandDefs, List.forall_mem_cons, List.not_mem_nil, false_imp_iff, implies_true, and_true]
  exact ⟨.of_effect cmdDone_numbered rfl rfl, modeSetDef_keepsNumbers, .of_effect carrierCfgEffect_numbered rfl rfl,
    .of_effect synCfgEffect_numbered rfl rfl, .of_effect tbCfgEffect_numbered rfl rfl, .of_effect tbStepEffect_numbered rfl rfl,
    .of_effect txCtrlEffect_numbered rfl rfl, .of_effect powerSetEffect_numbered rfl rfl, .of_effect dpdCfgEffect_numbered rfl rfl,
    .of_effect coxCfgEffect_numbered rfl rfl, .of_effect rxCfgEffect_numbered rfl rfl, .of_effect captureEffect_numbered rfl rfl,
    weightLoadDef_keepsNumbers, patternWriteDef_keepsNumbers, .of_effect cmdPut_numbered rfl rfl,
    .of_effect layerSetEffect_numbered rfl rfl, .of_effect fhCfgEffect_numbered rfl rfl, .of_effect assayCtxEffect_numbered rfl rfl,
    .of_effect laneCtrlEffect_numbered rfl rfl, anlRunDef_keepsNumbers, .of_effect domBegin_numbered rfl rfl,
    hldCfgDef_keepsNumbers, .of_effect thmCfgEffect_numbered rfl rfl, .of_effect biasQueueEffect_numbered rfl rfl,
    .of_effect unitCtrlEffect_numbered rfl rfl, hbReadDef_keepsNumbers, hbClearDef_keepsNumbers,
    ladleMoveDef_keepsNumbers, .of_effect ladleWithdrawEffect_numbered rfl rfl⟩

/-- Every opcode has a command of the list, or none at all. -/
theorem defOf_keepsNumbers (op : Nat) : (defOf op).KeepsNumbers := by
  unfold defOf
  cases h : commandDefs.find? fun f => f.opcode == op with
  | none => exact badOpDef_keepsNumbers op
  | some f => exact commandDefs_keepNumbers f (List.mem_of_find?_eq_some h)

/-! ### From the fetch to the effect -/

theorem cmdStart_numbered {f : CmdDef} (keeps : f.KeepsNumbers) {s c} (h : Numbered s.host) : Numbered (cmdStart f s c).host := by
  unfold cmdStart
  extract_lets c1
  split
  · exact cmdRefuse_numbered (keeps.refused h)
  · exact ite_numbered (keeps.effect (cmdPut_numbered h)) (keeps.accepted (cmdPut_numbered h))

/-- A fetched command bears the next number, and the one after it follows (R71; log 2). -/
theorem cmdFetched_numbered {f : CmdDef} (keeps : f.KeepsNumbers) {s r d} (h : Numbered s.host) : Numbered (cmdFetched f s r d).host := by
  unfold cmdFetched
  extract_lets c _ s1
  have listed : Numbered s1.host :=
    h.concat (c := c) rfl (Nat.le_succ _) (fun d hd => Nat.ne_of_lt (h.2 d hd)) (Nat.lt_succ_self _)
  exact ite_numbered listed (cmdStart_numbered keeps listed)

theorem runCmd_numbered {f : CmdDef} (keeps : f.KeepsNumbers) {dt r d s} (h : Numbered s.host) : Numbered (runCmd f dt r d s).host :=
  ite_numbered (cmdFetched_numbered keeps (arrive_numbered h)) (arrive_numbered h)

theorem fetchOne_numbered {s r err} (h : Numbered s.host) : Numbered (fetchOne s r err).host := by
  unfold fetchOne
  extract_lets g ref d _ s1
  have taken : Numbered s1.host := modRing_numbered (s := { s with host := { s.host with lastRing := r.val } }) h
  exact ite_numbered h (ite_numbered (aerReport_numbered (recordPush_numbered taken)) (cmdFetched_numbered (defOf_keepsNumbers _) taken))

/-! ### The commands due at a tick (R30, R435) -/

theorem cmdApply_numbered {k pre later s c} (h : Numbered s.host) : Numbered (cmdApply k pre later s c).host := by
  have effect : ∀ {x y : Cmd}, Numbered ((defOf (dOp c.d)).effect (cmdPut s x) y).host :=
    (defOf_keepsNumbers _).effect (cmdPut_numbered h)
  exact ite_numbered h (ite_numbered effect (ite_numbered (cmdDone_numbered h) effect))

theorem cmdsApply_numbered {k pre l s} (h : Numbered s.host) : Numbered (cmdsApply k pre l s).host := by
  induction l generalizing s with
  | nil => exact h
  | cons c rest ih => exact ih (cmdApply_numbered h)

theorem tickCommands_numbered {kinds k pre s} (h : Numbered s.host) : Numbered (tickCommands kinds k pre s).host := by
  refine cmdsApply_numbered (foldl_numbered h fun s c h' => ?_)
  dsimp only
  split
  · exact cmdRefuse_numbered ((defOf_keepsNumbers _).refused h')
  · exact h'

/-! ### The air ticks -/

theorem airSlotPart_numbered {k s} (h : Numbered s.host) : Numbered (airSlotPart k s).host := by
  have frame : Numbered (if k % 280 == 0 then tbFrameAfter (flaskFrame s) else s).host :=
    ite_numbered (tbFrameAfter_numbered (flaskFrame_numbered h)) h
  exact ite_numbered (slotUnits_numbered frame) frame

theorem airSymbolPart_numbered {k late pre s} (h : Numbered s.host) : Numbered (airSymbolPart k late pre s).host := by
  have slot : Numbered (if k % 14 == 0 then slotRest k late pre (symbolUnits k pre s) else symbolUnits k pre s).host :=
    ite_numbered (slotRest_numbered (symbolUnits_numbered h)) (symbolUnits_numbered h)
  exact ite_numbered ((surveyFrameTick_changes _).numbered rfl slot) slot

theorem airInstant_numbered {k seen pre} (h : Numbered pre.host) : Numbered (airInstant k seen pre).host := by
  have before : Numbered (rxSatCount (airBefore k pre) seen.rxSat).host :=
    (rxSatCount_changes _ _).numbered rfl ((airBefore_changes k pre).numbered rfl h)
  have slot : Numbered (airSlotPart k (airCommands k seen pre)).host := airSlotPart_numbered (tickCommands_numbered before)
  rw [airInstant_eq]
  exact ite_numbered (airAfter_numbered slot) (airAfter_numbered (symbolSends_numbered (airSymbolPart_numbered slot)))

theorem airTick_numbered {every seen s} (h : Numbered s.host) : Numbered (airTick every seen s).host :=
  ite_numbered (airInstant_numbered (arriveAt_numbered h)) (arrive_numbered h)

end Sys2Proof.Machine
end

section
/-! The requests of the control port keep the numbers: the registers, of which RNG_CFG alone ends commands (R66, R104), the split words
(R94–R96), and accesses that are answered (R92, R93, R430). -/

namespace Sys2Proof.Machine

/-! ### The registers -/

/-- Whatever is written to a register keeps the numbers. -/
def RegDef.KeepsNumbers (r : RegDef) : Prop := ∀ s i v, ∀ t ∈ r.write s i v, Numbered s.host → Numbered t.host

theorem grpCfgWrite_numbered (s : State) (g v : Nat) : ∀ t ∈ grpCfgWrite s g v, Numbered s.host → Numbered t.host :=
  forall_mem_accept.2 fun _ h => ite_numbered ((setCeil_changes _ g 32767).numbered rfl h) h

theorem refCfgWrite_numbered (s : State) (v : Nat) : ∀ t ∈ refCfgWrite s v, Numbered s.host → Numbered t.host :=
  forall_mem_accept.2 fun _ h => ite_numbered ((hkCheck_changes _ _).numbered rfl (refSelect_numbered h)) h

theorem genRegs_keepNumbers : ∀ r ∈ genRegs, r.KeepsNumbers := by
  simp [genRegs, RegDef.KeepsNumbers, forall_mem_some, apply_ite State.host, -Option.mem_def]

theorem fusRegs_keepNumbers : ∀ r ∈ fusRegs, r.KeepsNumbers := by
  simp [fusRegs, RegDef.KeepsNumbers, forall_mem_some, -Option.mem_def]

theorem pwrRegs_keepNumbers : ∀ r ∈ pwrRegs, r.KeepsNumbers := by
  simp [pwrRegs, RegDef.KeepsNumbers, forall_mem_some, apply_ite State.host, -Option.mem_def]

theorem hldRegs_keepNumbers : ∀ r ∈ hldRegs, r.KeepsNumbers := by
  simp [hldRegs, RegDef.KeepsNumbers, forall_mem_some, -Option.mem_def]

theorem thmRegs_keepNumbers : ∀ r ∈ thmRegs, r.KeepsNumbers := by
  simpa [thmRegs, RegDef.KeepsNumbers, forall_mem_some, forall_mem_accept, -Option.mem_def] using
    ⟨grpCfgWrite_numbered, fun _ _ => heatWrite_numbered⟩

theorem biaRegs_keepNumbers : ∀ r ∈ biaRegs, r.KeepsNumbers := by
  simp [biaRegs, RegDef.KeepsNumbers, forall_mem_some, -Option.mem_def]

theorem hkaRegs_keepNumbers : ∀ r ∈ hkaRegs, r.KeepsNumbers := by
  simp [hkaRegs, RegDef.KeepsNumbers, forall_mem_some, forall_mem_accept, apply_ite State.host,
    (hkCheck_changes _ _).host rfl, (hkNext_changes _ _).host rfl, -Option.mem_def]

theorem hbkRegs_keepNumbers : ∀ r ∈ hbkRegs, r.KeepsNumbers := by
  simp [hbkRegs, RegDef.KeepsNumbers, forall_mem_some, forall_mem_accept, -Option.mem_def]

/-- RNG_CFG may disable a command ring, whose commands end (R104). -/
theorem rngRegs_keepNumbers : ∀ r ∈ rngRegs, r.KeepsNumbers := by
  simp only [rngRegs, RegDef.KeepsNumbers, List.forall_mem_cons, List.not_mem_nil, false_imp_iff, implies_true, and_true, forall_mem_some,
    forall_mem_accept]
  have kept : ∀ s r f, Numbered s.host → Numbered (if (ringOf s r).en then s else modRing s r f).host := fun _ _ _ h =>
    ite_numbered h (modRing_numbered h)
  exact ⟨fun _ _ _ h => h, fun _ _ _ h => h, fun _ _ _ h => h, fun s r _ => kept s r _, fun s r _ => kept s r _,
    fun _ _ _ _ => ringCfgWrite_numbered, fun _ _ _ h => h, fun _ _ _ h => h⟩

theorem ldlRegs_keepNumbers : ∀ r ∈ ldlRegs, r.KeepsNumbers := by
  simp [ldlRegs, RegDef.KeepsNumbers, forall_mem_some, apply_ite State.host, -Option.mem_def]

theorem tbRegs_keepNumbers : ∀ r ∈ tbRegs, r.KeepsNumbers := by
  simp [tbRegs, RegDef.KeepsNumbers, forall_mem_some, apply_ite State.host, -Option.mem_def]

theorem synRegs_keepNumbers : ∀ r ∈ synRegs, r.KeepsNumbers := by
  simpa [synRegs, RegDef.KeepsNumbers, forall_mem_some, -Option.mem_def] using refCfgWrite_numbered

theorem fhlRegs_keepNumbers : ∀ r ∈ fhlRegs, r.KeepsNumbers := by
  have updated : ∀ (s : State) (x : Lanes), Numbered s.host → Numbered (synceUpdate { s with lanes := x }).host := fun s x h =>
    synceUpdate_numbered (s := { s with lanes := x }) h
  simpa [fhlRegs, RegDef.KeepsNumbers, forall_mem_some, forall_mem_accept, -Option.mem_def] using fun s v h => updated s _ h

theorem laneRegs_keepNumbers : ∀ r ∈ laneRegs, r.KeepsNumbers := by
  simp [laneRegs, RegDef.KeepsNumbers, forall_mem_some, -Option.mem_def]

theorem fhmRegs_keepNumbers : ∀ r ∈ fhmRegs, r.KeepsNumbers := by
  simp [fhmRegs, RegDef.KeepsNumbers, forall_mem_some, apply_ite State.host, -Option.mem_def]

theorem cruRegs_keepNumbers : ∀ r ∈ cruRegs, r.KeepsNumbers := by
  simp [cruRegs, RegDef.KeepsNumbers, forall_mem_some, cruCount, forall_mem_accept, apply_ite State.host,
    (shiftWrite_changes _ _ _ _).host rfl, -Option.mem_def]

theorem runRegs_keepNumbers : ∀ r ∈ runRegs, r.KeepsNumbers := by
  simp [runRegs, RegDef.KeepsNumbers, forall_mem_some, apply_ite State.host, -Option.mem_def]

theorem anlRegs_keepNumbers : ∀ r ∈ anlRegs, r.KeepsNumbers := by
  simp [anlRegs, RegDef.KeepsNumbers, forall_mem_some, forall_mem_accept, -Option.mem_def]

theorem modRegs_keepNumbers : ∀ r ∈ modRegs, r.KeepsNumbers := by
  simp [modRegs, RegDef.KeepsNumbers, forall_mem_some, (pinfnWrite_changes _ _).host rfl, -Option.mem_def]

theorem cxgRegs_keepNumbers : ∀ r ∈ cxgRegs, r.KeepsNumbers := by
  simp [cxgRegs, RegDef.KeepsNumbers, forall_mem_some, apply_ite State.host, -Option.mem_def]

theorem tmpRegs_keepNumbers : ∀ r ∈ tmpRegs, r.KeepsNumbers := by
  simp [tmpRegs, RegDef.KeepsNumbers, forall_mem_some, -Option.mem_def]

theorem txpRegs_keepNumbers : ∀ r ∈ txpRegs, r.KeepsNumbers := by
  simp [txpRegs, RegDef.KeepsNumbers, forall_mem_some, forall_mem_accept, apply_ite State.host, -Option.mem_def]

theorem rxpRegs_keepNumbers : ∀ r ∈ rxpRegs, r.KeepsNumbers := by
  simp [rxpRegs, RegDef.KeepsNumbers, forall_mem_some, apply_ite State.host, -Option.mem_def]

theorem dpdRegs_keepNumbers : ∀ r ∈ dpdRegs, r.KeepsNumbers := by
  simp [dpdRegs, RegDef.KeepsNumbers, forall_mem_some, -Option.mem_def]

/-- Every block's registers. -/
theorem blockRegs_keepNumbers (b : Nat) : ∀ r ∈ blockRegs b, r.KeepsNumbers := by
  have tables : ∀ l ∈ [genRegs, fusRegs, pwrRegs, hldRegs, thmRegs, biaRegs, hkaRegs, hbkRegs, rngRegs, ldlRegs, ldlRegs, tbRegs, synRegs,
      fhlRegs ++ laneRegs, fhmRegs, cruRegs, runRegs, anlRegs, modRegs, cxgRegs, tmpRegs, txpRegs, rxpRegs, dpdRegs],
      ∀ r ∈ l, r.KeepsNumbers := by
    simp only [List.forall_mem_cons, List.not_mem_nil, false_imp_iff, implies_true, and_true]
    exact ⟨genRegs_keepNumbers, fusRegs_keepNumbers, pwrRegs_keepNumbers, hldRegs_keepNumbers, thmRegs_keepNumbers, biaRegs_keepNumbers,
      hkaRegs_keepNumbers, hbkRegs_keepNumbers, rngRegs_keepNumbers, ldlRegs_keepNumbers, ldlRegs_keepNumbers, tbRegs_keepNumbers,
      synRegs_keepNumbers, List.forall_mem_append.2 ⟨fhlRegs_keepNumbers, laneRegs_keepNumbers⟩, fhmRegs_keepNumbers,
      cruRegs_keepNumbers, runRegs_keepNumbers, anlRegs_keepNumbers, modRegs_keepNumbers, cxgRegs_keepNumbers, tmpRegs_keepNumbers,
      txpRegs_keepNumbers, rxpRegs_keepNumbers, dpdRegs_keepNumbers⟩
  intro r hr
  rw [blockRegs] at hr
  by_cases hb : b < 24
  · rw [List.getD_eq_getElem _ _ hb] at hr
    exact tables _ (List.getElem_mem hb) r hr
  · rw [List.getD_eq_default _ _ (Nat.le_of_not_lt hb)] at hr
    exact absurd hr List.not_mem_nil

theorem regAt_keepsNumbers {b o i : Nat} {r : RegDef} (found : regAt b o = some (r, i)) : r.KeepsNumbers := by
  unfold regAt at found
  split at found
  · split at found
    · cases found
      exact fun s i v => forall_mem_some.2 id
    · cases found
  · obtain ⟨x, listed, matched⟩ := List.exists_of_findSome?_eq_some found
    split at matched
    · obtain ⟨j, -, own⟩ := Option.map_eq_some_iff.1 matched
      cases own
      exact blockRegs_keepNumbers b r listed
    · cases matched

/-! ### Accesses -/

theorem wordSet_numbered {s off v} (h : Numbered s.host) : Numbered (wordSet s off v).host := by
  unfold wordSet
  split
  · exact h
  · split
    · exact h
    · next r i found =>
      split
      · next t written => exact regAt_keepsNumbers found s i v t written h
      · exact h

theorem wordPut_numbered {s req off v} (h : Numbered s.host) : Numbered (wordPut s req off v).host := by
  have missed : Numbered (heldMiss s req).host := heldMiss_numbered h
  unfold wordPut
  refine ite_numbered (ite_numbered missed (wordSet_numbered missed)) (ite_numbered ?_ (wordSet_numbered h))
  split
  · exact ite_numbered (wordSet_numbered (wordSet_numbered (heldDrop_numbered h))) (wordSet_numbered missed)
  · exact wordSet_numbered h

theorem partWrite_numbered {s req off len v} (h : Numbered s.host) : Numbered (partWrite s req off len v).host := by
  unfold partWrite
  split
  · exact darkNote_numbered h
  · exact ite_numbered h (ite_numbered ((writeReject_changes _ _).numbered rfl h) (wordPut_numbered h))

theorem busWrite_numbered {s req off len v} (h : Numbered s.host) : Numbered (busWrite s req off len v).host := by
  unfold busWrite
  refine ite_numbered h (ite_numbered h (ite_numbered (ite_numbered ?_ ?_) (partWrite_numbered h)))
  · split
    · exact darkNote_numbered h
    · exact wordSet_numbered (wordSet_numbered h)
  · exact partWrite_numbered (partWrite_numbered h)

theorem busAccess_numbered {s q} (h : Numbered s.host) : Numbered (busAccess s q).host :=
  ite_numbered (busWrite_numbered h) (busRead_numbered h)

theorem busIf_numbered {dt ok q s} (h : Numbered s.host) : Numbered (busIf dt ok q s).host :=
  ite_numbered (busAccess_numbered (arrive_numbered h)) (arrive_numbered h)

theorem answerWaiting_numbered {s} (h : Numbered s.host) : Numbered (answerWaiting s).host :=
  foldl_numbered (s := { s with host := { s.host with waiting := [] } }) h fun _ _ h' => busAccess_numbered h'

end Sys2Proof.Machine
end

section
/-! Every row keeps the numbers, and so every step. -/

namespace Sys2Proof.Machine

/-- A row of a command runs that command; DOMAIN_SET may also change the period of a conversion. -/
theorem exec_commandRow_numbered {i : Instr} {x : CommandRow} (row : commandRow i = some x) {s : State} (h : Numbered s.host) :
    ∃ t, exec i s = .next t ∧ Numbered t.host := by
  obtain ⟨listed, runs⟩ := exec_of_commandRow row s
  have ran : Numbered (runCmd x.f x.dt x.ref x.d s).host := runCmd_numbered (commandDefs_keepNumbers x.f listed) h
  obtain runs | runs := runs
  · exact ⟨_, runs, ran⟩
  · exact ⟨_, runs, (hkCheck_changes s _).numbered rfl ran⟩

/-! ### The rows of the flash (R384, R386, R391) -/

theorem execHbClearEraseEnd_numbered {dt : Nat} {failed : Option (Fin 2)} {s : State} (h : Numbered s.host) :
    ∃ t, exec (.hbClearEraseEnd dt failed) s = .next t ∧ Numbered t.host := by
  refine ⟨_, rfl, ?_⟩
  have arrived : Numbered (arrive dt s).host := arrive_numbered h
  split
  · exact arrived
  · split
    · exact hbClearNext_numbered (doneRef_numbered (post_numbered arrived))
    · refine hbClearNext_numbered (endRef_numbered (snapsDrop_numbered ?_))
      exact ite_numbered (hbFailure_numbered arrived) (hbFailure_numbered arrived)

theorem execHbSnapshot_numbered {dt : Nat} {failAt : Option Nat} {s : State} (h : Numbered s.host) :
    ∃ t, exec (.hbSnapshot dt failAt) s = .next t ∧ Numbered t.host := by
  refine ⟨_, rfl, ?_⟩
  have arrived : Numbered (arrive dt s).host := arrive_numbered h
  dsimp only
  refine ite_numbered arrived ?_
  split
  · exact arrived
  · split
    · refine hbClearNext_numbered (snapStart_numbered ?_)
      split
      · exact doneRef_numbered (post_numbered arrived)
      · exact post_numbered arrived
    · exact hbClearNext_numbered (snapsDrop_numbered (hbFailure_numbered arrived))

theorem execHourComplete_numbered {dt : Nat} {ok : Bool} {s : State} (h : Numbered s.host) :
    ∃ t, exec (.hourComplete dt ok) s = .next t ∧ Numbered t.host := by
  refine ⟨_, rfl, ?_⟩
  have arrived : Numbered (arrive dt s).host := arrive_numbered h
  split
  · exact hourProgram_numbered arrived
  · exact arrived

/-! ### All rows -/

theorem exec_numbered (i : Instr) {s : State} (h : Numbered s.host) : ∃ t, exec i s = .next t ∧ Numbered t.host := by
  have now : ∀ {dt}, Numbered (arrive dt s).host := arrive_numbered h
  have due : ∀ {t}, Numbered (arriveAt t s).host := arriveAt_numbered h
  cases i with
  | nop | modeSet | carrierCfg | synCfg | tbCfg | tbStep | txCtrl | powerSet | dpdCfg | coxCfg | rxCfg | capture | weightLoad
  | patternWrite | soundingCapture | layerSet | fhCfg | assayCtx | laneCtrl | anlRun | domainSet | hldCfg | thmCfg | biasQueue
  | unitCtrl | hbRead | hbClear | ladleMove | ladleWithdraw => exact exec_commandRow_numbered rfl h
  | hbClearEraseEnd dt failed => exact execHbClearEraseEnd_numbered h
  | hbSnapshot dt failAt => exact execHbSnapshot_numbered h
  | hourComplete dt ok => exact execHourComplete_numbered h
  | powerOnReset dt st => exact ⟨_, rfl, powerOn_numbered⟩
  | fuseProgram dt l => exact ⟨_, rfl, now (dt := dt)⟩
  | powerFail dt => exact ⟨_, rfl, now (dt := dt)⟩
  | controlPortReset dt kind => exact ⟨_, rfl, portReset_numbered now⟩
  | outOfReset dt =>
    refine ⟨_, rfl, ite_numbered now (anlCold_numbered (foldl_numbered ?_ fun _ _ h' => ?_))⟩
    · exact (synSearchAll_changes _).numbered rfl now
    · exact ite_numbered ((startAttempt_changes _ _ _).numbered rfl h') h'
  | sourceQualified dt src => exact ⟨_, rfl, ite_numbered now ((hkCheck_changes _ _).numbered rfl (refSelect_numbered now))⟩
  | sourceLost dt src => exact ⟨_, rfl, ite_numbered now (refSelect_numbered now)⟩
  | refLost =>
    refine ⟨_, rfl, ?_⟩
    split
    · exact (hkCheck_changes _ _).numbered rfl (refLostNow_numbered due)
    · exact now
  | samplePllUnlock dt =>
    exact ⟨_, rfl, ite_numbered (pllFault_numbered (foldl_numbered (post_numbered now) fun _ _ h' => quadLost_numbered h')) now⟩
  | samplePllRelock dt ok => exact ⟨_, rfl, ite_numbered now (ite_numbered (post_numbered now) (pllFault_numbered now))⟩
  | synUnlock dt n => exact ⟨_, rfl, synUnlock_numbered now⟩
  | relockStart n =>
    refine ⟨_, rfl, ?_⟩
    split
    · exact (synSearch_changes _ _).numbered rfl due
    · exact now
  | synLock dt n band =>
    refine ⟨_, rfl, ite_numbered ?_ now⟩
    have locked : ∀ {f : Synth → Synth}, Numbered (post (modSynth (arrive dt s) n.val f) 0x0A02 5 n.val band.toNat).host :=
      post_numbered ((modSynth_changes _ _ _).numbered rfl now)
    dsimp only
    split
    · exact (quadResets_changes _ _).numbered rfl locked
    · exact locked
  | relockFail n =>
    refine ⟨_, rfl, ?_⟩
    split
    · exact synFault_numbered due
    · exact now
  | airSymbolTick seen => exact ⟨_, rfl, airTick_numbered h⟩
  | airSlotTick seen => exact ⟨_, rfl, airTick_numbered h⟩
  | airFrameTick seen => exact ⟨_, rfl, airTick_numbered h⟩
  | dlWorkTick unfinished unreleased =>
    exact ⟨_, rfl, ite_numbered (dlWork_numbered ((levelsTake_changes _).numbered rfl (tickCommands_numbered due))) now⟩
  | ulWorkTick unfinished rx => exact ⟨_, rfl, ite_numbered (ulWork_numbered (tickCommands_numbered due)) now⟩
  | weightFill dir => exact ⟨_, rfl, weightFill_numbered h⟩
  | uplinkAssembly dt cc kind1 id samples =>
    refine ⟨_, rfl, ite_numbered (ite_numbered ((assembleStream_changes _ _ _ _).numbered rfl now) now) (ite_numbered now ?_)⟩
    split
    · exact ite_numbered ((assembleLayer_changes _ _ _ _).numbered rfl now) now
    · exact now
  | psumRecordSend dt cc layer =>
    refine ⟨_, rfl, ?_⟩
    split
    · exact ite_numbered now ((sendPartials_changes _ _ _ _).numbered rfl now)
    · exact now
  | lockCheck grants => exact ⟨_, rfl, ite_numbered (lockCheckAt_numbered due) now⟩
  | loTimeout ref => exact ⟨_, rfl, loTimeout_numbered h⟩
  | captureEnd dt ref data =>
    refine ⟨_, rfl, ?_⟩
    split
    · exact ite_numbered (captureFinish_numbered now) now
    · exact now
  | captureNoGrant ref =>
    refine ⟨_, rfl, ?_⟩
    split
    · split
      · exact ite_numbered (cmdEnd_numbered ((capRelease_changes _ _).numbered rfl due)) now
      · exact now
    · exact now
  | soundingCaptureEnd dt ref data =>
    refine ⟨_, rfl, ?_⟩
    split
    · split
      · exact ite_numbered (cmdDone_numbered now) now
      · exact now
    · exact now
  | fanForceEnd f =>
    refine ⟨_, rfl, ?_⟩
    split
    · exact (modFan_changes _ _ _).numbered rfl due
    · exact now
  | ladleEngineStart dt =>
    refine ⟨_, rfl, ite_numbered now ?_⟩
    split
    · exact now
    · rw [modCh_host]
      split
      · split
        · exact (modFb_changes _ _ _).numbered rfl now
        · exact now
      · exact now
  | ladleMoveEnd dt read hostErr writeErr =>
    refine ⟨_, rfl, ?_⟩
    split
    · exact now
    · split
      · exact now
      · exact moveEnd_numbered now
  | commandDoorbell dt ring width value stores =>
    exact ⟨_, rfl, ite_numbered (doorbell_numbered (hostStores_numbered now)) (hostStores_numbered now)⟩
  | consumerDoorbell dt ring width value stores =>
    exact ⟨_, rfl, ite_numbered (doorbell_numbered (hostStores_numbered now)) (hostStores_numbered now)⟩
  | descriptorFetch dt ring n errs =>
    exact ⟨_, rfl, ite_numbered (foldl_numbered now fun _ _ h' => fetchOne_numbered h') now⟩
  | heldCommandStart dt ref =>
    refine ⟨_, rfl, ?_⟩
    split
    · exact ite_numbered now (cmdStart_numbered (defOf_keepsNumbers _) now)
    · exact now
  | ringEnable dt r value stores =>
    exact ⟨_, rfl, ite_numbered (ringCfgWrite_numbered (hostStores_numbered now)) (hostStores_numbered now)⟩
  | ringDisable dt r value =>
    exact ⟨_, rfl, ite_numbered (ite_numbered ((writeReject_changes _ _).numbered rfl now) (ringCfgWrite_numbered now)) now⟩
  | coalesceTimer r =>
    refine ⟨_, rfl, ?_⟩
    split
    · exact h
    · exact signal_numbered (modRing_numbered due)
  | msixUnmask dt vector =>
    refine ⟨_, rfl, ite_numbered now ?_⟩
    split
    · exact pendingSend_numbered now
    · exact foldl_numbered now fun _ _ h' => pendingSend_numbered h'
  | lowWordRead | highWordRead | lowWordWrite | highWordWrite | hkaQpopRead | accessDark | completerAbort => exact ⟨_, rfl, busIf_numbered h⟩
  | registerWrite dt space req =>
    refine ⟨_, rfl, ite_numbered now ?_⟩
    split
    · exact busAccess_numbered now
    · split
      · exact ite_numbered (respond_numbered (doorbell_numbered now)) (bar2Access_numbered now)
      · exact bar2Access_numbered now
    · exact ite_numbered (configWrite_numbered now) (respond_numbered now)
  | ctlWakeRequest dt req =>
    refine ⟨_, rfl, ?_⟩
    split
    · exact (hostExit_changes _).numbered rfl now
    · exact ite_numbered now now
    · exact now
  | fhFrameRx dt port frame =>
    refine ⟨_, rfl, ite_numbered (foldl_numbered ?_ fun _ _ h' => (sendCopies_changes _ _).numbered rfl h') now⟩
    exact (frameTake_changes _ _ _).numbered rfl now
  | owdMessageRx dt port msg => exact ⟨_, rfl, ite_numbered ((owdArrive_changes _ _ _ _).numbered rfl now) now⟩
  | ptpFrameRx dt port msg => exact ⟨_, rfl, ite_numbered now (ite_numbered now (ite_numbered now (ptpTake_numbered now)))⟩
  | ppsEdge dt => exact ⟨_, rfl, ite_numbered now (ite_numbered (servo_numbered now) now)⟩
  | timeSourceLost dt => exact ⟨_, rfl, ite_numbered now (ite_numbered now (timeSrc_numbered now))⟩
  | pourFrameRx dt side lane frame =>
    exact ⟨_, rfl, ite_numbered now (ite_numbered (pourTake_numbered now) (ite_numbered ((slag_changes _ _ _).numbered rfl now) now))⟩
  | noMasterTimeout dt =>
    refine ⟨_, rfl, ?_⟩
    split
    · exact ite_numbered (conflictSet_numbered now) now
    · exact now
  | modeAckTimeout dt =>
    refine ⟨_, rfl, ?_⟩
    split
    · exact ite_numbered (flkPump_numbered (flkDeny_numbered ((outward_changes _ _ _).numbered rfl now))) now
    · exact now
  | flkReadyTimeout dt =>
    refine ⟨_, rfl, foldl_numbered now fun _ _ h' => ?_⟩
    split
    · split
      · exact flkDeny_numbered ((reqWithdraw_changes _ _).numbered rfl h')
      · exact h'
    · exact h'
  | trainingFrameRx dt l f => exact ⟨_, rfl, ite_numbered ((trainFrame_changes _ _ _).numbered rfl now) now⟩
  | trainingFallback l =>
    refine ⟨_, rfl, ?_⟩
    split
    · exact ite_numbered ((modLane_changes _ _ _).numbered rfl due) now
    · exact now
  | laneUp dt l => exact ⟨_, rfl, ite_numbered (synceUpdate_numbered (laneUp_numbered now)) now⟩
  | detectorAssert dt l det => exact ⟨_, rfl, ite_numbered (synceUpdate_numbered (detectorAssert_numbered now)) now⟩
  | detectorClear dt l det => exact ⟨_, rfl, ite_numbered (synceUpdate_numbered ((detectorClear_changes _ _ _).numbered rfl now)) now⟩
  | retryStart l =>
    refine ⟨_, rfl, ?_⟩
    split
    · exact (startAttempt_changes _ _ _).numbered rfl due
    · exact now
  | attemptFail l =>
    refine ⟨_, rfl, ?_⟩
    split
    · exact ite_numbered now (synceUpdate_numbered (attemptFail_numbered due))
    · exact now
  | prbsSyncLost dt l errs nbits =>
    refine ⟨_, rfl, ite_numbered (post_numbered ((errorPulses_changes _ _).numbered rfl ?_)) now⟩
    exact (modLane_changes _ _ _).numbered rfl now
  | surveyPeriodEnd powers => exact ⟨_, rfl, ite_numbered (ite_numbered now ((surveyReport_changes _ _).numbered rfl now)) now⟩
  | potFault dt pot residue =>
    exact ⟨_, rfl, ite_numbered now (potCount_numbered ((potStop_changes _ _).numbered rfl (post_numbered now)))⟩
  | potRetestEnd dt pot pass => exact ⟨_, rfl, ite_numbered now (ite_numbered ((modPot_changes _ _ _).numbered rfl now) (potCount_numbered now))⟩
  | powerDetectorReport dt path mean => exact ⟨_, rfl, detectorReport_numbered now⟩
  | temperSolveEnd dt path sol => exact ⟨_, rfl, solveTemper_numbered now⟩
  | divergeRetry path => exact ⟨_, rfl, divergeRetry_numbered h⟩
  | temperRefreshDue dt path => exact ⟨_, rfl, (refreshDue_changes _ _).numbered rfl now⟩
  | dpdStale dt path => exact ⟨_, rfl, staleCheck_numbered now⟩
  | rxOverload dt path code => exact ⟨_, rfl, overload_numbered now⟩
  | anlGuardPeriod dt noise grants => exact ⟨_, rfl, guardPeriod_numbered now⟩
  | anlSolveEnd dt res => exact ⟨_, rfl, solveEnd_numbered now⟩
  | anlRepeatTimeout dt => exact ⟨_, rfl, (repeatTimeout_changes _).numbered rfl now⟩
  | noGuard dt => exact ⟨_, rfl, noGuardEnd_numbered now⟩
  | anlAgeTrigger dt => exact ⟨_, rfl, ite_numbered ((anlTrigger_changes _ _).numbered rfl now) now⟩
  | anlSaveEnd dt ok => exact ⟨_, rfl, saveEnd_numbered now⟩
  | hkConversionDone dt code => exact ⟨_, rfl, conversionDone_numbered now⟩
  | hkRound dt => exact ⟨_, rfl, hkRound_numbered now⟩
  | comparatorCrossing dt k above => exact ⟨_, rfl, ite_numbered (cmpCross_numbered now) now⟩
  | comparatorRearm dt k => exact ⟨_, rfl, ite_numbered ((modCmp_changes _ _ _).numbered rfl now) now⟩
  | quench dt cause sensor temp => exact ⟨_, rfl, ite_numbered (quenchLatch_numbered now) now⟩
  | biasUpdateTick dt => exact ⟨_, rfl, (biasUpdate_changes _).numbered rfl now⟩
  | domainEntryDone dt dom sigs => exact ⟨_, rfl, ite_numbered ((hkCheck_changes _ _).numbered rfl (entryDone_numbered now)) now⟩
  | domainExitStart dt dom => exact ⟨_, rfl, ite_numbered now now⟩
  | domainExitDone dt dom sigs =>
    have came : ∀ {u}, Numbered (hkCheck u (exitDone (arrive dt s) dom.val sigs)).host :=
      (hkCheck_changes _ _).numbered rfl (exitDone_numbered now)
    exact ⟨_, rfl, ite_numbered (ite_numbered (answerWaiting_numbered came) came) now⟩
  | ctlEntryStart => exact ⟨_, rfl, ctlEntry_numbered h⟩
  | pwakeEdge dt => exact ⟨_, rfl, wake_numbered now⟩
  | holdingWindowEnd dt hits => exact ⟨_, rfl, windowEnd_numbered now⟩
  | darkCheck dt orx level =>
    have checked : Numbered (arrive dt s).host := now
    exact ⟨_, rfl, ite_numbered checked (ite_numbered ((hbCount_changes _ _).numbered rfl (post_numbered checked)) checked)⟩
  | hbSnapshotDue dt => exact ⟨_, rfl, ite_numbered (snapAsk_numbered now) now⟩
  | hbFreeScan dt => exact ⟨_, rfl, ite_numbered now (snapStart_numbered now)⟩
  | checkerSync dt l => exact ⟨_, rfl, ite_numbered ((modLane_changes _ _ _).numbered rfl now) now⟩

/-- A step executes the row at the front of the queue; on an empty queue nothing happens. -/
theorem step_numbered {s t : State} (h : Numbered s.host) (stepped : step s = .next t) : Numbered t.host := by
  unfold step at stepped
  split at stepped
  · cases stepped
    exact h
  · next i rest _ =>
    obtain ⟨u, executed, kept⟩ := exec_numbered i (s := { s with pending := rest }) h
    rw [executed] at stepped
    cases stepped
    exact kept

end Sys2Proof.Machine

open Sys2Proof Sys2Proof.Machine

/-- Settles O59: every function that may touch the list of commands keeps the numbers, and so does every row. -/
theorem commandNumbersStayDistinct : Obligations.CommandNumbersStayDistinct := by
  unfold Obligations.CommandNumbersStayDistinct
  exact fun _ _ h stepped => step_numbered h stepped

end

section
/-! Lanes one by one (R109–R118): what each operation of training, faults and retries makes of its own lane, and that it leaves every
other lane as it was. -/

namespace Sys2Proof.Machine

/-! ### Lanes that an operation leaves -/

theorem laneOf_congr {s t : State} (h : t.lanes.lane = s.lanes.lane) (l : Nat) : laneOf t l = laneOf s l := by rw [laneOf, laneOf, h]

/-- What leaves the lanes leaves each of them. -/
theorem laneOf_of_changes {parts : List Part} {s t : State} (h : changesOnly parts s t) (hl : Part.lanes ∉ parts) (l : Nat) :
    laneOf t l = laneOf s l := laneOf_congr (congrArg Lanes.lane (h .lanes hl)) l

/-- Time alone changes no lane. -/
@[simp] theorem laneOf_arriveAt (due : Nat) (s : State) (l : Nat) : laneOf (arriveAt due s) l = laneOf s l := rfl

theorem arriveAt_mem (due : Nat) (s : State) : (arriveAt due s).host.mem = s.host.mem := rfl

/-- VALID of Synchronous Ethernet is none of a lane's own (R128). -/
@[simp] theorem laneOf_synceUpdate (s : State) (l : Nat) : laneOf (synceUpdate s) l = laneOf s l := by
  unfold synceUpdate
  extract_lets c was _ s1
  split
  · exact laneOf_of_changes (post_changes s1 0x0005 4 s1.lanes.synceSrc c) (by decide) l
  · rfl

@[simp] theorem laneOf_laneResolve (s : State) (l : Nat) (ok : Bool) (m : Nat) : laneOf (laneResolve s l ok) m = laneOf s m :=
  laneOf_of_changes (laneResolve_changes s l ok) (by decide) m

/-- A command that is done leaves the lanes (R71). -/
@[simp] theorem laneOf_cmdDone (s : State) (c : Cmd) (l : Nat) : laneOf (cmdDone s c) l = laneOf s l :=
  laneOf_of_changes (cmdDone_changes s c) (by decide) l

/-- A lane that stops sending is due to leave, and waits to join no more (R115). -/
theorem laneOf_laneLeave_same (s : State) {l : Nat} (h : l < 40) :
    ∃ j n, laneOf (laneLeave s l) l = { laneOf s l with joinDue := j, leaveIn := n } := by
  unfold laneLeave
  extract_lets x s1 s2
  have stopped : laneOf s1 l = { laneOf s l with joinDue := false } := laneOf_modLane_same s h _
  have leaving : laneOf s2 l = { laneOf s1 l with leaveIn := 2 } := laneOf_modLane_same s1 h _
  have dropped : laneOf (if l < 16 then dropUplink s2 (fun m => m.port.code == portOfLane s2 l) 2 else s2) l = laneOf s2 l :=
    laneOf_of_changes (changesOnly_ite (dropUplink_changes s2 _ 2) (changesOnly_refl _ s2)) (by decide) l
  split
  · exact ⟨_, _, by rw [dropped, leaving, stopped]⟩
  · exact ⟨_, _, stopped⟩

theorem laneOf_laneLeave_ne (s : State) {l m : Nat} (h : l ≠ m) : laneOf (laneLeave s l) m = laneOf s m := by
  unfold laneLeave
  extract_lets x s1 s2
  have stopped : laneOf s1 m = laneOf s m := laneOf_modLane_ne s h _
  have dropped : laneOf (if l < 16 then dropUplink s2 (fun m => m.port.code == portOfLane s2 l) 2 else s2) m = laneOf s2 m :=
    laneOf_of_changes (changesOnly_ite (dropUplink_changes s2 _ 2) (changesOnly_refl _ s2)) (by decide) m
  split
  · exact dropped.trans ((laneOf_modLane_ne s1 h _).trans stopped)
  · exact stopped

/-! ### Attempts -/

/-- A lane's training takes the FEC setting that waited (R129). -/
theorem laneOf_fecTake_same (s : State) {l : Nat} (h : l < 40) : laneOf (fecTake s l) l = { laneOf s l with fecPend := none } := by
  unfold fecTake
  split
  · next none_waits => rw [← none_waits]
  · exact laneOf_modLane_same s h fun x => { x with fecPend := none }

/-- A lane whose attempt starts: when, of which kind, and among which retries (R111, R116). -/
theorem startAttempt_own (kind : AttemptKind) (s : State) {l : Nat} (h : l < 40) :
    (∃ a, (laneOf (startAttempt kind s l) l).attempt = some a ∧ a.kind = kind ∧ a.startAt = s.tb.now) ∧
    (laneOf (startAttempt kind s l) l).retryAt = none ∧
    (laneOf (startAttempt kind s l) l).retries =
      if kind = .retry then s.tb.now :: recent s.tb.now (laneOf s l).retries else (laneOf s l).retries := by
  unfold startAttempt
  extract_lets x mode taps s1
  rw [laneOf_fecTake_same s1 h, laneOf_modLane_same s h]
  exact ⟨⟨_, rfl, rfl, rfl⟩, rfl, rfl⟩

/-- A lane that comes UP (R112). -/
theorem laneOf_laneUp_same (s : State) {l : Nat} (h : l < 40) : laneOf (laneUp s l) l = { laneOf s l with
    state := .up, attempt := none, blockLock := true, los := false, lol := false, hiBer := false, align := false
    joinDue := !inLts s l, badPour := 0, goodPour := 0, quietSyms := 0, pour := false } := by
  unfold laneUp
  extract_lets s1 s2
  have side : laneOf s2 l = laneOf s1 l :=
    laneOf_of_changes (changesOnly_ite (modSide_changes s1 _ _) (changesOnly_refl _ s1)) (by decide) l
  rw [laneOf_laneResolve, laneOf_of_changes (post_changes s2 0x0002 4 l _) (by decide), side]
  exact laneOf_modLane_same s h _

theorem laneOf_laneUp_ne (s : State) {l m : Nat} (h : l ≠ m) : laneOf (laneUp s l) m = laneOf s m := by
  unfold laneUp
  extract_lets s1 s2
  have side : laneOf s2 m = laneOf s1 m :=
    laneOf_of_changes (changesOnly_ite (modSide_changes s1 _ _) (changesOnly_refl _ s1)) (by decide) m
  rw [laneOf_laneResolve, laneOf_of_changes (post_changes s2 0x0002 4 l _) (by decide), side]
  exact laneOf_modLane_ne s h _

/-! ### Rows of training -/

theorem exec_laneUp {s : State} {l : Fin 40} (hon : domOn s (laneDom l) = true) (trained : trainedUp s l = true) (dt : Nat) :
    exec (.laneUp dt l) s = .next (synceUpdate (laneUp (arrive dt s) l)) := by
  have may : (domOn (arrive dt s) (laneDom l) && trainedUp (arrive dt s) l) = true := Bool.and_eq_true_iff.2 ⟨hon, trained⟩
  exact congrArg Host.Outcome.next (if_pos may)

/-- A retry for a mate's fault is an attempt that does not count (R114, R116). -/
def retryKind (x : Lane) : AttemptKind := if x.peer then .plain else .retry

theorem exec_retryStart {s : State} {l : Fin 40} {a : Nat} (h : (laneOf s l).retryAt = some a) :
    exec (.retryStart l) s = .next (startAttempt (retryKind (laneOf s l)) (arriveAt a s) l) := by
  change execRetryStart l s = _
  simp only [execRetryStart, h, retryKind]

end Sys2Proof.Machine

open Sys2Proof Sys2Proof.Machine

/-- Settles O10: LANE_UP and RETRY_START by what they make of their own lane. -/
theorem lanesRetryComeUpAndJoin : Obligations.LanesRetryComeUpAndJoin := by
  unfold Obligations.LanesRetryComeUpAndJoin
  refine ⟨fun dt l s hon trained => ?_, fun l s a due => ?_⟩
  · have own := (laneOf_synceUpdate (laneUp (arrive dt s) l) l).trans (laneOf_laneUp_same (arrive dt s) l.isLt)
    have did : changesOnly (withReports [.lanes, .run, .pwr]) s (synceUpdate (laneUp (arrive dt s) l)) :=
      changesOnly_trans (changesOnly_mono (arrive_changes dt s) (by decide)) (changesOnly_trans
        (changesOnly_mono (laneUp_changes _ l) (by decide)) (changesOnly_mono (synceUpdate_changes _) (by decide)))
    refine ⟨_, exec_laneUp hon trained dt, ?_⟩
    rw [own]
    exact ⟨rfl, rfl, rfl, rfl, rfl, rfl, rfl, rfl, rfl,
      fun m hm => (laneOf_synceUpdate _ m).trans (laneOf_laneUp_ne _ (Ne.symm hm)), did⟩
  · let kind := retryKind (laneOf s l)
    have started := startAttempt_changes kind (arriveAt a s) l
    have now : (startAttempt kind (arriveAt a s) l).tb.now = (arriveAt a s).tb.now := congrArg Tb.now (started .tb (by decide))
    obtain ⟨trains, others⟩ := startAttempt_lane kind (arriveAt a s) l.isLt
    obtain ⟨⟨x, attempt, -, start⟩, retryAt, retries⟩ := startAttempt_own kind (arriveAt a s) l.isLt
    refine ⟨_, exec_retryStart due, now.trans (arriveAt_now a s), trains, ⟨x, attempt, start.trans now.symm⟩, retryAt, ?_,
      fun m hm => others m (Ne.symm hm), (congrArg HostIf.mem (started .host (by decide)) :), ?_⟩
    · rw [retries, now]
      unfold kind retryKind
      cases (laneOf s l).peer <;> rfl
    · exact changesOnly_trans (changesOnly_mono (arriveAt_changes a s) (by decide)) (changesOnly_mono started (by decide))
end

section
/-! Training frames, detectors that clear, and PRBS checkers (R109–R114, R125, R128). -/

namespace Sys2Proof.Machine

/-! ### Training -/

/-- The lane of an attempt after a training frame: PRE, then POST, each one step within its range (R109, R110). -/
def tapsStepped (f : TrainFrame) (a : Attempt) (x : Lane) : Lane :=
  let pre := tapStep f.pre 12 x.post x.pre
  { x with pre := pre, post := tapStep f.post 24 pre x.post, attempt := some { a with got := true, ready := f.partnerReady && f.eyeDone } }

/-- Beside its own lane a training frame touches the answer and, of a cascade lane, the side alone (R110, R202). -/
theorem trainFrame_lane {s : State} {l : Nat} (hl : l < 40) {a : Attempt} (attempt : (laneOf s l).attempt = some a) (free : a.mode ≠ .fixed)
    (fell : a.fell = false) (f : TrainFrame) :
    laneOf (trainFrame s l f) l = tapsStepped f a (laneOf s l) ∧ ∀ m, m ≠ l → laneOf (trainFrame s l f) m = laneOf s m := by
  have steps : ¬ (a.mode = .fixed ∨ a.fell = true) := by simp [free, fell]
  unfold trainFrame
  rw [attempt]
  dsimp -zeta only
  rw [if_neg steps]
  extract_lets x pre post s1 s2
  have answered : ∀ m, laneOf (if 16 ≤ l then modSide s2 ((l - 16) / 12) fun d => { d with connected := some true } else s2) m =
      laneOf s1 m := fun m => by split <;> rfl
  exact ⟨(answered l).trans (laneOf_modLane_same s hl _), fun m hm => (answered m).trans (laneOf_modLane_ne s (Ne.symm hm) _)⟩

theorem exec_trainingFrameRx {s : State} {l : Fin 40} (hon : domOn s (laneDom l) = true) (dt : Nat) (f : TrainFrame) :
    exec (.trainingFrameRx dt l f) s = .next (trainFrame (arrive dt s) l f) := by
  have on : domOn (arrive dt s) (laneDom l) = true := hon
  exact congrArg Host.Outcome.next (if_pos on)

/-- The lane of an attempt that falls back to PRESET (R111). -/
def fallenBack (a : Attempt) (x : Lane) : Lane :=
  { x with pre := tapsPreset.1, post := tapsPreset.2, preset := true, attempt := some { a with fell := true } }

theorem exec_trainingFallback {s : State} {l : Fin 40} {a : Attempt} (attempt : (laneOf s l).attempt = some a) (auto : a.mode = .auto)
    (got : a.got = false) (fell : a.fell = false) :
    exec (.trainingFallback l) s = .next (modLane (arriveAt (a.startAt + 245760000) s) l (fallenBack a)) := by
  have falls : a.mode = .auto ∧ !a.got ∧ !a.fell := by simp [auto, got, fell]
  change execTrainingFallback l s = _
  simp only [execTrainingFallback, attempt, if_pos falls]
  rfl

/-! ### Detectors -/

/-- LOS clearing on this lane starts a first training (R57, R114). -/
abbrev clearTrains (s : State) (l : Nat) (det : Detector) : Prop :=
  clkOn s = true ∧ det = .los ∧ l < 16 ∧ (laneOf s l).state = .down ∧ (laneOf s l).retired = false ∧ inLts s l = false

/-- A detector's flag is no part of what decides on a training. -/
theorem detSet_keeps (det : Detector) (b : Bool) (x : Lane) :
    (detSet det b x).state = x.state ∧ (detSet det b x).retired = x.retired ∧ (detSet det b x).retries = x.retries := by
  cases det <;> exact ⟨rfl, rfl, rfl⟩

theorem detectorClear_eq (s : State) {l : Nat} (h : l < 40) (det : Detector) : detectorClear s l det =
    if clearTrains s l det then startAttempt .first (modLane s l (detSet det false)) l else modLane s l (detSet det false) := by
  obtain ⟨state, retired, -⟩ := detSet_keeps det false (laneOf s l)
  unfold detectorClear
  extract_lets s1
  have own : laneOf s1 l = detSet det false (laneOf s l) := laneOf_modLane_same s h _
  have clock : clkOn s1 = clkOn s := rfl
  have lts : inLts s1 l = inLts s l := rfl
  simp only [clearTrains, own, state, retired, clock, lts, Bool.not_eq_true']
  rfl

/-- A detector that clears clears its flag, and may start the lane's first training; no other lane changes (R113, R114). -/
theorem detectorClear_lane (s : State) {l : Nat} (h : l < 40) (det : Detector) :
    (if clearTrains s l det then
      (laneOf (detectorClear s l det) l).state = .training ∧
        ∃ a, (laneOf (detectorClear s l det) l).attempt = some a ∧ a.kind = .first ∧ a.startAt = s.tb.now
     else laneOf (detectorClear s l det) l = detSet det false (laneOf s l)) ∧
    ∀ m, m ≠ l → laneOf (detectorClear s l det) m = laneOf s m := by
  let cleared := modLane s l (detSet det false)
  have cleared_ne : ∀ m, m ≠ l → laneOf cleared m = laneOf s m := fun m hm => laneOf_modLane_ne s (Ne.symm hm) _
  rw [detectorClear_eq s h]
  by_cases trains : clearTrains s l det
  · obtain ⟨attempt, -, -⟩ := startAttempt_own .first cleared h
    obtain ⟨training, others⟩ := startAttempt_lane .first cleared h
    rw [if_pos trains, if_pos trains]
    exact ⟨⟨training, attempt⟩, fun m hm => (others m (Ne.symm hm)).trans (cleared_ne m hm)⟩
  · rw [if_neg trains, if_neg trains]
    exact ⟨laneOf_modLane_same s h _, cleared_ne⟩

theorem exec_detectorClear {s : State} {l : Fin 40} (hon : domOn s (laneDom l) = true) (dt : Nat) (det : Detector) :
    exec (.detectorClear dt l det) s = .next (synceUpdate (detectorClear (arrive dt s) l det)) := by
  have on : domOn (arrive dt s) (laneDom l) = true := hon
  exact congrArg Host.Outcome.next (if_pos on)

/-! ### PRBS checkers -/

theorem exec_checkerSync {s : State} {l : Fin 40} (lts : inLts s l = true) (runs : (laneOf s l).chk ≠ 0) (dt : Nat) :
    exec (.checkerSync dt l) s = .next (modLane (arrive dt s) l fun x => { x with chkSync := true }) := by
  have checks : inLts (arrive dt s) l = true ∧ (laneOf (arrive dt s) l).chk ≠ 0 := ⟨lts, runs⟩
  exact congrArg Host.Outcome.next (if_pos checks)

/-- A checker out of sync, with what it counted (R125). -/
def syncLost (e n : Nat) (x : Lane) : Lane :=
  { x with chkSync := false, prbsErr := satTo 0xFFFFFFFF (x.prbsErr + e), prbsBits := x.prbsBits + BitVec.ofNat 64 n }

theorem exec_prbsSyncLost {s : State} {l : Fin 40} (sync : (laneOf s l).chkSync = true) (dt e n : Nat) :
    ∃ t, exec (.prbsSyncLost dt l e n) s = .next t ∧ changesOnly [.host, .pwr, .out] (modLane (arrive dt s) l (syncLost e n)) t := by
  have insync : (laneOf (arrive dt s) l).chkSync = true := sync
  refine ⟨_, congrArg Host.Outcome.next (if_pos insync), ?_⟩
  exact changesOnly_trans (changesOnly_mono (errorPulses_changes _ e) (by decide)) (changesOnly_mono (post_changes _ _ _ _ _) (by decide))

end Sys2Proof.Machine

open Sys2Proof Sys2Proof.Machine

/-- Settles O11: each row is one change of its own lane, after the counts that pass and before what it reports. -/
theorem trainingDetectorsAndChecker : Obligations.TrainingDetectorsAndChecker := by
  unfold Obligations.TrainingDetectorsAndChecker
  refine ⟨⟨fun dt l f s a hon attempt free fell => ?_, fun l s a attempt auto got fell => ?_⟩, fun dt l det s hon => ?_,
    fun dt l s lts runs => ?_, fun dt l e n s sync => ?_⟩
  · obtain ⟨own, others⟩ := trainFrame_lane (s := arrive dt s) l.isLt attempt free fell f
    have did := trainFrame_changes (arrive dt s) l f
    refine ⟨_, exec_trainingFrameRx hon dt f, ?_⟩
    rw [own]
    exact ⟨rfl, rfl, rfl, rfl, others, (congrArg HostIf.mem (did .host (by decide)) :),
      changesOnly_trans (changesOnly_mono (arrive_changes dt s) (by decide)) (changesOnly_mono did (by decide))⟩
  · exact ⟨_, exec_trainingFallback attempt auto got fell, (congrArg Tb.now (modLane_tb _ l _)).trans (arriveAt_now _ s),
      (laneOf_modLane_same _ l.isLt _).trans (congrArg (fallenBack a) (laneOf_arriveAt _ s l)),
      fun m hm => (laneOf_modLane_ne _ (Ne.symm hm) _).trans (laneOf_arriveAt _ s m),
      (congrArg HostIf.mem (modLane_host _ l _)).trans (arriveAt_mem _ s),
      changesOnly_trans (changesOnly_mono (arriveAt_changes _ s) (by decide)) (changesOnly_mono (modLane_changes _ l _) (by decide))⟩
  · obtain ⟨own, others⟩ := detectorClear_lane (arrive dt s) l.isLt det
    have did := detectorClear_changes (arrive dt s) l det
    have updated := synceUpdate_changes (detectorClear (arrive dt s) l det)
    have now : (synceUpdate (detectorClear (arrive dt s) l det)).tb.now = (arrive dt s).tb.now :=
      congrArg Tb.now ((updated .tb (by decide)).trans (did .tb (by decide)))
    refine ⟨_, exec_detectorClear hon dt det, ?_, fun m hm => (laneOf_synceUpdate _ m).trans (others m hm), ?_⟩
    · rw [laneOf_synceUpdate, now]
      exact own
    · exact changesOnly_trans (changesOnly_mono (arrive_changes dt s) (by decide))
        (changesOnly_trans (changesOnly_mono did (by decide)) (changesOnly_mono updated (by decide)))
  · exact ⟨_, exec_checkerSync lts runs dt, laneOf_modLane_same _ l.isLt _, fun m hm => laneOf_modLane_ne _ (Ne.symm hm) _, rfl,
      changesOnly_trans (changesOnly_mono (arrive_changes dt s) (by decide)) (changesOnly_mono (modLane_changes _ l _) (by decide))⟩
  · obtain ⟨t, run, reported⟩ := exec_prbsSyncLost sync dt e n
    have lane := laneOf_of_changes reported (by decide)
    exact ⟨t, run, (lane l).trans (laneOf_modLane_same _ l.isLt _), fun m hm => (lane m).trans (laneOf_modLane_ne _ (Ne.symm hm) _),
      changesOnly_trans (changesOnly_mono (arrive_changes dt s) (by decide)) (changesOnly_trans
        (changesOnly_mono (modLane_changes _ l _) (by decide)) (changesOnly_mono reported (by decide)))⟩
end

section
/-! Lane faults and attempts that run out of time (R114–R118, R378). -/

namespace Sys2Proof.Machine

/-! ### The lane that faults -/

/-- A lane that faulted has left, and has no attempt: what is still open is whether it waits for a retry or is retired (R114, R115). -/
def faultLeft (s : State) (l cause : Nat) : State :=
  laneLeave (laneErr (post (modLane s l fun x => { x with lastFault := cause, attempt := none }) 0x0001 4 l cause) l) l

theorem laneFault_eq (s : State) (l cause : Nat) :
    laneFault s l cause =
      let n := (recent (faultLeft s l cause).tb.now (laneOf (faultLeft s l cause) l).retries).length
      let u := if 3 ≤ n then laneRetire (faultLeft s l cause) l 1
        else noteFault (modLane (faultLeft s l cause) l fun x =>
          { x with state := .retryWait, retryAt := some ((faultLeft s l cause).tb.now + 491520) }) 2 l (n + 1)
      (portMates u l).foldl mateWait u := rfl

theorem faultLeft_now (s : State) (l cause : Nat) : (faultLeft s l cause).tb.now = s.tb.now := by
  unfold faultLeft
  generalize hp : post (modLane s l fun x => { x with lastFault := cause, attempt := none }) 0x0001 4 l cause = p
  have posted : p.tb = s.tb := hp ▸ post_tb ..
  exact congrArg Tb.now ((laneLeave_changes (laneErr p l) l .tb (by decide)).trans posted)

theorem laneOf_faultLeft (s : State) {l : Nat} (h : l < 40) (cause : Nat) :
    ∃ j n e, laneOf (faultLeft s l cause) l = { laneOf s l with
      lastFault := cause, attempt := none, joinDue := j, leaveIn := n, hourErr := e } := by
  unfold faultLeft
  generalize hp : post (modLane s l fun x => { x with lastFault := cause, attempt := none }) 0x0001 4 l cause = p
  have posted : laneOf p l = { laneOf s l with lastFault := cause, attempt := none } := by
    rw [← hp, laneOf_of_changes (post_changes _ _ _ _ _) (by decide)]
    exact laneOf_modLane_same s h _
  obtain ⟨j, n, left⟩ := laneOf_laneLeave_same (laneErr p l) h
  rw [left, laneErr, laneOf_modLane_same p h, posted]
  exact ⟨_, _, _, rfl⟩

/-- A retired lane is down, and waits for nothing (R116, R117). -/
theorem laneOf_laneRetire_same (s : State) {l : Nat} (h : l < 40) (by_ : Nat) :
    ∃ j n, laneOf (laneRetire s l by_) l = { laneOf s l with
      joinDue := j, leaveIn := n, retired := true, state := .down, attempt := none, retryAt := none, peer := false } := by
  obtain ⟨j, n, left⟩ := laneOf_laneLeave_same s h
  unfold laneRetire
  extract_lets s1 s2 s3
  have noted : laneOf (noteRetired s3 2 l by_) l = laneOf s2 l := (laneOf_of_changes (noteRetired_changes s3 2 l by_) (by decide) l).trans
    (laneOf_of_changes (post_changes s2 0x0003 4 l _) (by decide) l)
  refine ⟨j, n, ?_⟩
  rw [laneOf_laneResolve, noted, laneOf_modLane_same s1 h, left]

/-- A mate that is made to wait is the only lane that changes (R114). -/
theorem laneOf_mateWait_ne (s : State) {l m : Nat} (h : m ≠ l) : laneOf (mateWait s m) l = laneOf s l := by
  unfold mateWait
  extract_lets x wait
  split
  · rfl
  · split
    · exact (laneOf_modLane_ne _ h wait).trans (laneOf_laneLeave_ne s h)
    · exact (laneOf_laneResolve _ m false l).trans (laneOf_modLane_ne s h wait)
    · rfl

theorem portMates_ne {s : State} {l m : Nat} (h : m ∈ portMates s l) : m ≠ l := by
  unfold portMates at h
  split at h
  · simpa using (List.mem_filter.1 h).2
  · cases h

/-- The lanes that wait with a lane leave it as its own fault left it (R114). -/
theorem laneOf_mates (s : State) (l : Nat) : laneOf ((portMates s l).foldl mateWait s) l = laneOf s l :=
  List.foldlRecOn (motive := fun t => laneOf t l = laneOf s l) (portMates s l) mateWait rfl
    fun t same _ hm => (laneOf_mateWait_ne t (portMates_ne hm)).trans same

/-! ### What a fault decides -/

/-- A lane's fault of a cause has been dealt with (R114, R116): with fewer than three retries in 60 s it waits 1 ms for the next, and it
is retired otherwise. -/
def FaultDecided (now : Nat) (x y : Lane) (cause : Nat) : Prop :=
  y.lastFault = cause ∧ y.attempt = none ∧
  ((recent now x.retries).length < 3 → y.state = .retryWait ∧ y.retryAt = some (now + 491520) ∧ y.retired = x.retired) ∧
  (3 ≤ (recent now x.retries).length → y.state = .down ∧ y.retired = true ∧ y.retryAt = none)

/-- Only the lane's retries and whether it was retired matter to what its fault decides. -/
theorem FaultDecided.congr {now cause : Nat} {x x' y : Lane} (h : FaultDecided now x y cause) (retries : x.retries = x'.retries)
    (retired : x.retired = x'.retired) : FaultDecided now x' y cause := by
  rwa [FaultDecided, ← retries, ← retired]

theorem laneFault_decided (s : State) {l : Nat} (h : l < 40) (cause : Nat) :
    FaultDecided s.tb.now (laneOf s l) (laneOf (laneFault s l cause) l) cause := by
  obtain ⟨j, n, e, left⟩ := laneOf_faultLeft s h cause
  have retries : (laneOf (faultLeft s l cause) l).retries = (laneOf s l).retries := by rw [left]
  rw [laneFault_eq, retries, faultLeft_now]
  extract_lets k u
  rw [laneOf_mates]
  by_cases many : 3 ≤ k
  · obtain ⟨j', n', down⟩ := laneOf_laneRetire_same (faultLeft s l cause) h 1
    have own : laneOf u l = laneOf (laneRetire (faultLeft s l cause) l 1) l := congrArg (laneOf · l) (if_pos many)
    rw [own, down, left]
    exact ⟨rfl, rfl, fun few => absurd few (Nat.not_lt.2 many), fun _ => ⟨rfl, rfl, rfl⟩⟩
  · have own : laneOf u l = { laneOf (faultLeft s l cause) l with state := .retryWait, retryAt := some (s.tb.now + 491520) } :=
      (congrArg (laneOf · l) (if_neg many)).trans
        ((laneOf_of_changes (noteFault_changes _ 2 l (k + 1)) (by decide) l).trans (laneOf_modLane_same _ h _))
    rw [own, left]
    exact ⟨rfl, rfl, fun _ => ⟨rfl, rfl, rfl⟩, fun all => absurd all many⟩

/-! ### Detectors that assert, and attempts that fail -/

theorem detectorAssert_fault {s : State} {l : Nat} (h : l < 40) (lts : inLts s l = false) (up : (laneOf s l).state = .up)
    (live : (laneOf s l).retired = false) (det : Detector) :
    detectorAssert s l det = laneFault (modLane s l (detSet det true)) l det.code := by
  obtain ⟨state, retired, -⟩ := detSet_keeps det true (laneOf s l)
  have own : laneOf (modLane s l (detSet det true)) l = detSet det true (laneOf s l) := laneOf_modLane_same s h _
  have lts' : ¬ inLts (modLane s l (detSet det true)) l = true := by simpa [inLts, ltsMask] using lts
  have faults : (laneOf (modLane s l (detSet det true)) l).state = .up ∧ !(laneOf (modLane s l (detSet det true)) l).retired := by
    simp [own, state, retired, up, live]
  exact (if_neg lts').trans (if_pos faults)

/-- A detector's fault decides as any other (R113, R114). -/
theorem detectorAssert_decided {s : State} {l : Nat} (h : l < 40) (lts : inLts s l = false) (up : (laneOf s l).state = .up)
    (live : (laneOf s l).retired = false) (det : Detector) :
    FaultDecided s.tb.now (laneOf s l) (laneOf (detectorAssert s l det) l) det.code := by
  obtain ⟨-, retired, retries⟩ := detSet_keeps det true (laneOf s l)
  have own : laneOf (modLane s l (detSet det true)) l = detSet det true (laneOf s l) := laneOf_modLane_same s h _
  rw [detectorAssert_fault h lts up live det]
  exact (laneFault_decided (modLane s l (detSet det true)) h det.code).congr (by rw [own, retries]) (by rw [own, retired])

theorem exec_detectorAssert {s : State} {l : Fin 40} (hon : domOn s (laneDom l) = true) (dt : Nat) (det : Detector) :
    exec (.detectorAssert dt l det) s = .next (synceUpdate (detectorAssert (arrive dt s) l det)) := by
  have on : domOn (arrive dt s) (laneDom l) = true := hon
  exact congrArg Host.Outcome.next (if_pos on)

/-- The lane with its attempt ranOut. -/
def attemptOver (s : State) (l : Nat) : State := modLane s l fun x => { x with attempt := none }

/-- A retrain attempt that runs out is a fault of cause 7 (R116). -/
theorem attemptFail_retrain {s : State} {l : Nat} {a : Attempt} (attempt : (laneOf s l).attempt = some a) (kind : a.kind = .retry ∨ a.kind = .plain) :
    attemptFail s l = laneResolve (laneFault (attemptOver s l) l 7) l false := by
  unfold attemptFail
  rw [attempt]
  obtain kind | kind := kind <;> (dsimp -zeta only; rw [kind]; rfl)

theorem attemptFail_decided {s : State} {l : Nat} (h : l < 40) {a : Attempt} (attempt : (laneOf s l).attempt = some a)
    (kind : a.kind = .retry ∨ a.kind = .plain) : FaultDecided s.tb.now (laneOf s l) (laneOf (attemptFail s l) l) 7 := by
  have own : laneOf (attemptOver s l) l = { laneOf s l with attempt := none } := laneOf_modLane_same s h _
  rw [attemptFail_retrain attempt kind, laneOf_laneResolve]
  exact (laneFault_decided (attemptOver s l) h 7).congr (by rw [own]) (by rw [own])

/-- A first attempt or one in LTS that runs out leaves the lane down, and no other lane changes (R114, R118). -/
theorem attemptFail_down {s : State} {l : Nat} {a : Attempt} (attempt : (laneOf s l).attempt = some a) (kind : a.kind = .first ∨ a.kind = .lts)
    (m : Nat) : laneOf (attemptFail s l) m = laneOf (modLane (attemptOver s l) l fun x => { x with state := .down }) m := by
  unfold attemptFail
  rw [attempt]
  dsimp -zeta only
  extract_lets s1 s2
  obtain kind | kind := kind
  · rw [kind]
    dsimp -zeta only
    have side : laneOf (if 16 ≤ l ∧ !a.got then sideCheck s2 ((l - 16) / 12) else s2) m = laneOf s2 m :=
      laneOf_of_changes (changesOnly_ite (sideCheck_changes s2 _) (changesOnly_refl _ s2)) (by decide) m
    exact side.trans (laneOf_laneResolve _ l false m)
  · rw [kind]
    exact laneOf_laneResolve _ l false m

theorem exec_attemptFail {s : State} {l : Fin 40} {a : Attempt} (attempt : (laneOf s l).attempt = some a)
    (ranOut : ¬ (a.mode = .auto ∧ a.got = false ∧ a.fell = false)) :
    exec (.attemptFail l) s = .next (synceUpdate (attemptFail (arriveAt (attemptLimit a) s) l)) := by
  have ends : ¬ (a.mode = .auto ∧ !a.got ∧ !a.fell) := by simpa using ranOut
  change execAttemptFail l s = _
  simp only [execAttemptFail, attempt, if_neg ends]

/-- The attempt's end comes at its limit, or now if that has passed; Synchronous Ethernet follows (R116, R128; log 1). -/
theorem attemptFail_row (s : State) (l due : Nat) :
    (synceUpdate (attemptFail (arriveAt due s) l)).tb.now = max s.tb.now due ∧
    changesOnly (withReports [.lanes, .fh, .run, .pwr, .hb]) s (synceUpdate (attemptFail (arriveAt due s) l)) := by
  have failed := attemptFail_changes (arriveAt due s) l
  have updated := synceUpdate_changes (attemptFail (arriveAt due s) l)
  have now : (synceUpdate (attemptFail (arriveAt due s) l)).tb = (arriveAt due s).tb :=
    (updated .tb (by decide)).trans (failed .tb (by decide))
  exact ⟨(congrArg Tb.now now).trans (arriveAt_now due s), changesOnly_trans (changesOnly_mono (arriveAt_changes due s) (by decide))
    (changesOnly_trans (changesOnly_mono failed (by decide)) (changesOnly_mono updated (by decide)))⟩

end Sys2Proof.Machine

open Sys2Proof Sys2Proof.Machine

/-- Settles O12: a detector's fault and a retrain attempt that runs out decide alike, and any other attempt leaves the lane down. -/
theorem laneFaultRetriesOrRetires : Obligations.LaneFaultRetriesOrRetires := by
  unfold Obligations.LaneFaultRetriesOrRetires
  intro after
  have decided : ∀ {s t : State} {l cause : Nat} {y : Lane}, FaultDecided t.tb.now (laneOf s l) y cause → laneOf t l = y → after s t l cause :=
    fun h own => by subst own; exact h
  refine ⟨fun dt l det s hon lts up live => ?_, fun l s a attempt ranOut kind => ?_, fun l s a attempt ranOut kind => ?_⟩
  · have did := detectorAssert_changes (arrive dt s) l det
    have updated := synceUpdate_changes (detectorAssert (arrive dt s) l det)
    have now : (synceUpdate (detectorAssert (arrive dt s) l det)).tb = (arrive dt s).tb :=
      (updated .tb (by decide)).trans (did .tb (by decide))
    refine ⟨_, exec_detectorAssert hon dt det, decided ?_ (laneOf_synceUpdate _ l), changesOnly_trans
      (changesOnly_mono (arrive_changes dt s) (by decide)) (changesOnly_trans (changesOnly_mono did (by decide)) (changesOnly_mono updated (by decide)))⟩
    rw [now]
    exact detectorAssert_decided (s := arrive dt s) l.isLt lts up live det
  · obtain ⟨now, did⟩ := attemptFail_row s l (attemptLimit a)
    refine ⟨_, exec_attemptFail attempt ranOut, now, decided ?_ (laneOf_synceUpdate _ l), did⟩
    rw [now, ← arriveAt_now]
    exact attemptFail_decided (s := arriveAt (attemptLimit a) s) l.isLt attempt kind
  · obtain ⟨now, did⟩ := attemptFail_row s l (attemptLimit a)
    have lane : ∀ m, laneOf (synceUpdate (attemptFail (arriveAt (attemptLimit a) s) l)) m =
        laneOf (modLane (attemptOver (arriveAt (attemptLimit a) s) l) l fun x => { x with state := .down }) m :=
      fun m => (laneOf_synceUpdate _ m).trans (attemptFail_down (s := arriveAt (attemptLimit a) s) attempt kind m)
    refine ⟨_, exec_attemptFail attempt ranOut, now, ?_, fun m hm => ?_, did⟩
    · rw [lane, laneOf_modLane_same _ l.isLt, attemptOver, laneOf_modLane_same _ l.isLt, laneOf_arriveAt]
    · rw [lane, laneOf_modLane_ne _ (Ne.symm hm), attemptOver, laneOf_modLane_ne _ (Ne.symm hm), laneOf_arriveAt]
end

section
/-! Commands without a tick that are done with their acceptance: ASSAY_CTX, HLD_CFG, four actions of LANE_CTRL, and THM_CFG (R71, R123,
R129, R162, R164, R354, R365, R373). -/

namespace Sys2Proof.Machine

/-! ### A row whose command is done at once -/

theorem cmdDone_cmds (s : State) (c : Cmd) : (cmdDone s c).host.cmds = s.host.cmds.filter fun y => y.seq ≠ c.seq := by
  unfold cmdDone
  split <;> exact cmdEnd_cmds _ _ _ _

/-- A row whose command's effect keeps to some parts, and ends the command: the list of commands is as it was (R71). -/
theorem rowDone {x : CommandRow} {s u : State} {e : Cmd} {parts : List Part} (hacc : rowAccepted x s)
    (htick : x.f.tick (rowStart x s) = .none) (did : x.f.effect (rowListed x s (rowRunning x s)) (rowRunning x s) = cmdDone u e)
    (own : e.seq = s.host.nextSeq) (only : changesOnly parts (rowListed x s (rowRunning x s)) u) (host : Part.host ∉ parts) :
    runCmd x.f x.dt x.ref x.d s = cmdDone u e ∧ (cmdDone u e).host.cmds = s.host.cmds ∧
      changesOnly (withReports parts) s (cmdDone u e) := by
  refine ⟨by rw [runCmd_of_rowAccepted hacc htick, did], ?_, ?_⟩
  · obtain ⟨-, hok, -, -⟩ := hacc
    have same : u.host = (rowListed x s (rowRunning x s)).host := only .host host
    rw [cmdDone_cmds, same, own]
    exact rowListed_without x hok (y := rowRunning x s) rfl
  · have listed : changesOnly (withReports parts) s (rowListed x s (rowRunning x s)) :=
      changesOnly_mono (rowListed_changes x s _) (by simp [reportParts, withReports])
    exact changesOnly_trans listed (changesOnly_trans (changesOnly_mono only fun _ => mem_withReports_of_mem)
      (changesOnly_reports (cmdDone_changes u e)))

/-! ### ASSAY_CTX (R162, R164) -/

theorem find_insertBy_ne {α : Type} {lt : α → α → Bool} {p : α → Bool} {x : α} (h : p x = false) (l : List α) :
    (insertBy lt x l).find? p = l.find? p := by
  induction l with
  | nil => simp [insertBy, h]
  | cons y ys ih =>
    unfold insertBy
    split
    · rw [List.find?_cons_of_neg (by simp [h])]
    · rw [List.find?_cons, List.find?_cons, ih]

theorem find_insertBy_same {α : Type} {lt : α → α → Bool} {p : α → Bool} {x : α} (h : p x = true) {l : List α} (others : ∀ y ∈ l, p y = false) :
    (insertBy lt x l).find? p = some x := by
  induction l with
  | nil => simp [insertBy, h]
  | cons y ys ih =>
    rw [List.forall_mem_cons] at others
    obtain ⟨hy, rest⟩ := others
    unfold insertBy
    split
    · exact List.find?_cons_of_pos h
    · rw [List.find?_cons_of_neg (by simp [hy])]
      exact ih rest

theorem assayOf_cmdDone (s : State) (c : Cmd) (i : Nat) : assayOf (cmdDone s c) i = assayOf s i := by rw [assayOf, assayOf, cmdDone_fh]

/-- A context reads as it was put (R162). -/
theorem assayOf_assayPut_same (s : State) (i : Nat) (x : AssayCtx) : assayOf (assayPut s i x) i = x := by
  have gone : ∀ y ∈ s.fh.assay.filter (fun y => !(y.1 == i)), (y.1 == i) = false := fun y hy => by simpa using (List.mem_filter.1 hy).2
  unfold assayOf assayPut
  dsimp only
  split
  · next default => rw [List.find?_eq_none.2 fun y hy => by simp [gone y hy], default]; rfl
  · rw [find_insertBy_same (by simp) gone]; rfl

theorem assayOf_assayPut_ne (s : State) {i j : Nat} (h : j ≠ i) (x : AssayCtx) : assayOf (assayPut s i x) j = assayOf s j := by
  have other : (s.fh.assay.filter fun y => !(y.1 == i)).find? (fun y => y.1 == j) = s.fh.assay.find? fun y => y.1 == j := by
    rw [List.find?_filter]
    refine congrArg (List.find? · _) (funext fun y => ?_)
    by_cases hy : y.1 = j <;> simp [hy, h]
  unfold assayOf assayPut
  dsimp only
  split
  · rw [other]
  · rw [find_insertBy_ne (by simpa using Ne.symm h), other]

/-- The contexts as ASSAY_CTX leaves them: one written, one reset, or all as they were. -/
def assayCtxSet (s : State) (d : Desc) : State :=
  match dB d 16 with
  | 1 => assayPut s (dH d 18) { crc := BitVec.ofNat 32 (dW d 20) ^^^ 0xFFFFFFFF, next := some (dB d 24) }
  | 2 => assayPut s (dH d 18) {}
  | _ => s

theorem assayCtxEffect_done (s : State) (c : Cmd) : ∃ e, assayCtxEffect s c = cmdDone (assayCtxSet s c.d) e ∧ e.seq = c.seq := by
  unfold assayCtxEffect
  extract_lets i s1 x
  have after : s1 = assayCtxSet s c.d := rfl
  rw [← after]
  exact ⟨_, rfl, rfl⟩

/-- Only the context named changes, and nothing else of the fronthaul (R164). -/
theorem assayCtxSet_fh (s : State) (d : Desc) :
    (assayCtxSet s d).fh = { s.fh with assay := (assayCtxSet s d).fh.assay } ∧
    (∀ j, j ≠ dH d 18 → assayOf (assayCtxSet s d) j = assayOf s j) ∧ changesOnly [.fh] s (assayCtxSet s d) := by
  unfold assayCtxSet
  split
  · exact ⟨rfl, fun j hj => assayOf_assayPut_ne s hj _, assayPut_changes s _ _⟩
  · exact ⟨rfl, fun j hj => assayOf_assayPut_ne s hj _, assayPut_changes s _ _⟩
  · exact ⟨rfl, fun _ _ => rfl, changesOnly_refl _ s⟩

/-- READ, WRITE and RESET (R164). -/
theorem assayCtxSet_own (s : State) (d : Desc) :
    (dB d 16 = 0 → assayCtxSet s d = s) ∧
    (dB d 16 = 1 → assayOf (assayCtxSet s d) (dH d 18) = { crc := BitVec.ofNat 32 (dW d 20) ^^^ 0xFFFFFFFF, next := some (dB d 24) }) ∧
    (dB d 16 = 2 → assayOf (assayCtxSet s d) (dH d 18) = {}) := by
  refine ⟨fun read => ?_, fun write => ?_, fun reset => ?_⟩
  · simp only [assayCtxSet, read]
  · rw [assayCtxSet, write]
    exact assayOf_assayPut_same s _ _
  · rw [assayCtxSet, reset]
    exact assayOf_assayPut_same s _ _

/-! ### HLD_CFG (R354) -/

/-- What a change of Holding makes of it follows from Holding alone. -/
theorem hldTake_congr {s t : State} (h : t.hld = s.hld) (v : BitVec 384) : (hldTake t v).hld = (hldTake s v).hld := by
  unfold hldTake
  rw [h]

/-- The settings as they wait for the next window, or are set while none runs (R354; log 40). -/
def hldSet (s : State) (v : BitVec 384) : State :=
  if s.hld.state = .blind ∨ s.hld.state = .watch then { s with hld := { s.hld with pend := s.hld.pend ++ [v] } } else hldTake s v

theorem hldSet_changes (s : State) (v : BitVec 384) : changesOnly [.hld] s (hldSet s v) :=
  changesOnly_ite ((changesOnly_set_hld (by decide)).2 (changesOnly_refl _ s)) (hldTake_changes s v)

/-! ### LANE_CTRL (R123, R129) -/

/-- A lane as TRAIN_MODE, SET_TAPS, LOOPBACK or COUNT_CLEAR sets it. -/
def ctrlLane (d : Desc) (y : Lane) : Lane :=
  if dB d 16 = 1 then { y with mode := if dB d 23 = 0 then .auto else if dB d 23 = 1 then .on else .fixed }
  else if dB d 16 = 2 then { y with setTaps := some (dB d 23, dB d 24) }
  else if dB d 16 = 6 then { y with loopback := dB d 23, squelch := bit (dB d 24) 0, gen := if dB d 23 = 3 then 0 else y.gen }
  else { y with prbsErr := 0, prbsBits := 0 }

/-- Each lane of a list set. -/
def lanesSet (f : Lane → Lane) (l : List Nat) (s : State) : State := l.foldl (fun s i => modLane s i f) s

theorem lanesSet_changes (f : Lane → Lane) (l : List Nat) (s : State) : changesOnly [.lanes] s (lanesSet f l s) :=
  changesOnly_foldl [.lanes] _ (fun t i => modLane_changes t i f) l s

theorem laneOf_lanesSet_not_mem (f : Lane → Lane) {l : List Nat} {m : Nat} (h : m ∉ l) (s : State) : laneOf (lanesSet f l s) m = laneOf s m :=
  List.foldlRecOn (motive := fun t => laneOf t m = laneOf s m) l (fun s i => modLane s i f) rfl
    fun t same _ hi => (laneOf_modLane_ne t (ne_of_mem_of_not_mem hi h) f).trans same

theorem laneOf_lanesSet_mem (f : Lane → Lane) {l : List Nat} (once : l.Nodup) (lanes : ∀ i ∈ l, i < 40) {m : Nat} (h : m ∈ l) (s : State) :
    laneOf (lanesSet f l s) m = f (laneOf s m) := by
  induction l generalizing s with
  | nil => cases h
  | cons i l ih =>
    rw [List.forall_mem_cons] at lanes
    obtain ⟨hi, rest⟩ := lanes
    obtain ⟨first, once⟩ := List.nodup_cons.1 once
    change laneOf (lanesSet f l (modLane s i f)) m = _
    by_cases own : m = i
    · rw [own, laneOf_lanesSet_not_mem f first, laneOf_modLane_same s hi]
    · rw [ih once rest ((List.mem_cons.1 h).resolve_left own), laneOf_modLane_ne s (Ne.symm own)]

theorem setBits_nodup (n mask : Nat) : (setBits n mask).Nodup := List.nodup_range.filter _

theorem mem_setBits {n mask i : Nat} : i ∈ setBits n mask ↔ i < n ∧ bit mask i = true := by simp [setBits, bit]

/-- These actions act on the lanes that LANES names (R129). -/
theorem ctrlLanes_named {d : Desc} (action : dB d 16 = 1 ∨ dB d 16 = 2 ∨ dB d 16 = 6 ∨ dB d 16 = 7) (s : State) :
    ctrlLanes s d = setBits 40 (dLanes d) := by
  obtain action | action | action | action := action <;> simp only [ctrlLanes, action]

/-- TRAIN_MODE, SET_TAPS, LOOPBACK and COUNT_CLEAR set each lane alike, and are done (R129). -/
theorem laneCtrlEffect_set (s : State) {c : Cmd} (action : dB c.d 16 = 1 ∨ dB c.d 16 = 2 ∨ dB c.d 16 = 6 ∨ dB c.d 16 = 7) :
    laneCtrlEffect s c = cmdDone (lanesSet (ctrlLane c.d) (ctrlLanes s c.d) s) c := by
  have sets : ∃ f : Lane → Lane, laneCtrlEffect s c = cmdDone (lanesSet f (ctrlLanes s c.d) s) c ∧ ∀ y, ctrlLane c.d y = f y := by
    unfold laneCtrlEffect
    extract_lets d x y ls each
    obtain action | action | action | action := action <;> rw [action]
    · refine ⟨_, rfl, fun z => ?_⟩
      simp only [ctrlLane, action, if_true]
      change { z with mode := if x = 0 then .auto else if x = 1 then .on else .fixed } = _
      generalize x = k
      obtain _ | _ | k := k <;> rfl
    · exact ⟨_, rfl, fun z => by simp [ctrlLane, action, d, x, y]⟩
    · exact ⟨_, rfl, fun z => by simp [ctrlLane, action, d, x, y]⟩
    · exact ⟨_, rfl, fun z => by simp [ctrlLane, action]⟩
  obtain ⟨f, did, same⟩ := sets
  rw [did, funext same]

/-! ### THM_CFG (R365, R373) -/

/-- A fan's force set for a time, or ended (R365, R373). -/
def fanForced (d : Desc) (s : State) (f : Nat) : State := modFan s f fun x =>
  if dH d 20 = 0 then { x with force := none }
  else
    let x := { x with force := some (dB d 18, s.tb.now + dH d 20 * 491520000) }
    { x with duty := if fanFull s x then 255 else dB d 18 }

/-- What a fan's force is from a count on. -/
def forceFrom (d : Desc) (now : Nat) : Option (Nat × Nat) := if dH d 20 = 0 then none else some (dB d 18, now + dH d 20 * 491520000)

theorem fanForced_same (d : Desc) (s : State) {f : Nat} (h : f < 4) : (vget (fanForced d s f).thm.fan f {}).force = forceFrom d s.tb.now := by
  have own := vget_vmod_same s.thm.fan h (fun x =>
    if dH d 20 = 0 then { x with force := none }
    else
      let x := { x with force := some (dB d 18, s.tb.now + dH d 20 * 491520000) }
      { x with duty := if fanFull s x then 255 else dB d 18 }) {}
  unfold fanForced modFan forceFrom
  rw [own]
  split <;> rfl

theorem fanForced_ne (d : Desc) (s : State) {f g : Nat} (h : f ≠ g) : vget (fanForced d s f).thm.fan g {} = vget s.thm.fan g {} :=
  vget_vmod_ne _ h _ _

/-- Each fan of a list forced. -/
def fansForced (d : Desc) (l : List Nat) (s : State) : State := l.foldl (fanForced d) s

theorem fansForced_changes (d : Desc) (l : List Nat) (s : State) : changesOnly [.thm] s (fansForced d l s) :=
  changesOnly_foldl [.thm] _ (fun t f => modFan_changes t f _) l s

theorem fansForced_not_mem (d : Desc) {l : List Nat} {g : Nat} (h : g ∉ l) (s : State) :
    vget (fansForced d l s).thm.fan g {} = vget s.thm.fan g {} :=
  List.foldlRecOn (motive := fun t : State => vget t.thm.fan g {} = vget s.thm.fan g {}) l (fanForced d) rfl
    fun t same _ hf => (fanForced_ne d t (ne_of_mem_of_not_mem hf h)).trans same

theorem fansForced_mem (d : Desc) {l : List Nat} {g : Nat} (hg : g < 4) (h : g ∈ l) (s : State) :
    (vget (fansForced d l s).thm.fan g {}).force = forceFrom d s.tb.now := by
  induction l generalizing s with
  | nil => cases h
  | cons f l ih =>
    change (vget (fansForced d l (fanForced d s f)).thm.fan g {}).force = _
    by_cases again : g ∈ l
    · exact ih again (fanForced d s f)
    · obtain rfl : g = f := (List.mem_cons.1 h).resolve_right again
      rw [fansForced_not_mem d again, fanForced_same d s hg]

theorem thmCfgEffect_force (s : State) {c : Cmd} (force : dB c.d 16 = 0) :
    thmCfgEffect s c = cmdDone (fansForced c.d (setBits 4 (dB c.d 17)) s) c :=
  congrArg (cmdDone · c) (if_pos force)

/-- The next conversion leaves the test mode (R358, R373). -/
theorem hkNext_test (s : State) (ch : Nat) : (hkNext s ch).hka.test = s.hka.test := by
  unfold hkNext
  split
  · rfl
  · split
    · rfl
    · split <;> rfl

/-- The test mode set, and the scan that begins with it (R373). -/
def testModeSet (s : State) (d : Desc) : State := hkNext { s with hka := { s.hka with test := decide (dB d 17 = 1) } } 159

theorem testModeSet_changes (s : State) (d : Desc) : changesOnly [.hka] s (testModeSet s d) :=
  changesOnly_trans ((changesOnly_set_hka (by decide)).2 (changesOnly_refl _ s)) (hkNext_changes _ 159)

theorem thmCfgEffect_test (s : State) {c : Cmd} (test : dB c.d 16 ≠ 0) : thmCfgEffect s c = cmdDone (testModeSet s c.d) c :=
  congrArg (cmdDone · c) (if_neg test)

end Sys2Proof.Machine

open Sys2Proof Sys2Proof.Machine

/-- Settles O55: each command's effect is one change, after which the command is done. -/
theorem contextsTapsLanesAndFansAreSet : Obligations.ContextsTapsLanesAndFansAreSet := by
  unfold Obligations.ContextsTapsLanesAndFansAreSet
  refine ⟨?_, ?_, ?_, ?_⟩
  · intro dt r d s x hacc e
    let u := rowListed x s (rowRunning x s)
    obtain ⟨c, did, own⟩ := assayCtxEffect_done u (rowRunning x s)
    obtain ⟨fh, others, only⟩ := assayCtxSet_fh u e
    obtain ⟨read, write, reset⟩ := assayCtxSet_own u e
    obtain ⟨run, cmds, changes⟩ := rowDone (u := assayCtxSet u e) hacc rfl did own only (by decide)
    have contexts := assayOf_cmdDone (assayCtxSet u e) c
    refine ⟨_, congrArg Host.Outcome.next run, cmds, changes, ?_, fun j hj => (contexts j).trans (others j hj), fun h => ?_,
      fun h => (contexts _).trans (write h), fun h => (contexts _).trans (reset h)⟩
    · rw [cmdDone_fh]
      exact fh
    · rw [cmdDone_fh, read h]
      rfl
  · intro dt r d s x hacc
    let u := rowListed x s (rowRunning x s)
    let v := BitVec.ofNat 384 ((rowStart x s).d.toNat / 2 ^ 128)
    obtain ⟨run, cmds, changes⟩ := rowDone (u := hldSet u v) (e := rowRunning x s) hacc rfl rfl rfl (hldSet_changes u v) (by decide)
    refine ⟨_, congrArg Host.Outcome.next run, cmds, changes, fun runs => ?_, fun blind watch => ?_⟩
    · rw [cmdDone_hld]
      exact congrArg State.hld (if_pos runs)
    · rw [cmdDone_hld]
      exact (congrArg State.hld (if_neg (not_or.2 ⟨blind, watch⟩))).trans (hldTake_congr rfl v)
  · intro dt r d s x hacc e action
    let u := rowListed x s (rowRunning x s)
    have only := lanesSet_changes (ctrlLane e) (ctrlLanes u e) u
    obtain ⟨run, cmds, changes⟩ := rowDone (u := lanesSet (ctrlLane e) (ctrlLanes u e) u) hacc rfl (laneCtrlEffect_set u action) rfl only (by decide)
    have named := ctrlLanes_named action
    refine ⟨_, congrArg Host.Outcome.next run, cmds, changes, fun l out => ?_, fun l inside => ?_⟩
    · rw [named] at out
      rw [laneOf_cmdDone, named]
      exact laneOf_lanesSet_not_mem _ out u
    · rw [named] at inside
      rw [laneOf_cmdDone, named]
      exact laneOf_lanesSet_mem (ctrlLane e) (setBits_nodup 40 _) (fun i hi => (mem_setBits.1 hi).1) inside u
  · intro dt r d s x hacc e
    let u := rowListed x s (rowRunning x s)
    by_cases force : dB e 16 = 0
    · have only := fansForced_changes e (setBits 4 (dB e 17)) u
      obtain ⟨run, cmds, changes⟩ := rowDone (u := fansForced e (setBits 4 (dB e 17)) u) hacc rfl (thmCfgEffect_force u force) rfl only (by decide)
      refine ⟨_, congrArg Host.Outcome.next run, cmds, changesOnly_mono changes (by decide), fun _ => ⟨?_, fun f _ out => ?_, fun f hf inside => ?_⟩,
        fun h => absurd force h⟩
      · rw [cmdDone_hka]
        exact only .hka (by decide)
      · rw [cmdDone_thm]
        exact fansForced_not_mem e (fun h => by simp [mem_setBits, out] at h) u
      · rw [cmdDone_thm, cmdDone_tb, show (fansForced e (setBits 4 (dB e 17)) u).tb = u.tb from only .tb (by decide)]
        exact fansForced_mem e hf (mem_setBits.2 ⟨hf, inside⟩) u
    · have only := testModeSet_changes u e
      obtain ⟨run, cmds, changes⟩ := rowDone (u := testModeSet u e) hacc rfl (thmCfgEffect_test u force) rfl only (by decide)
      refine ⟨_, congrArg Host.Outcome.next run, cmds, changesOnly_mono changes (by decide), fun h => absurd h force, fun _ => ⟨?_, ?_⟩⟩
      · rw [cmdDone_thm]
        exact only .thm (by decide)
      · rw [cmdDone_hka]
        exact hkNext_test _ 159
end

section
/-! One-way delay measurement and PTP frames (R160, R309, R312): what each message makes of the exchanges, of what is sent and of the
timebase. -/

namespace Sys2Proof.Machine

/-! ### Ports -/

/-- A port's lowest lane is a fronthaul lane (R106). -/
theorem port_lane_lt (p : Port) : p.lane.val < 16 := by
  cases p with
  | single n => exact n.isLt
  | four k => change 4 * k.val < 16; omega

/-! ### Exchanges of one-way delay measurement -/

/-- A request kept open with its time: the device's own, or a received one that waits for its follow-up (R160). -/
def owdOpened (s : State) (p : Port) (m : OwdMsg) (own : Bool) (t : Nat × Nat) : State :=
  { s with fh := { s.fh with owdReq := s.fh.owdReq ++ [{ port := p, mid := m.mid, own := own, stamp := stampNs t.1 t.2, src := m.src }] } }

/-- The response to a request kept open carries the time at which that request came (R160). -/
def owdAnswer (s : State) (p : Port) (m : OwdMsg) (r : OwdReq) : State :=
  owdSend (owdDrop s r) p r.src.toNat (owdPayload m.mid 2 ((r.stamp / 1000000000).toNat % 2 ^ 48) (r.stamp % 1000000000).toNat)

section
variable {m : OwdMsg}

theorem owdArrive_request (h : m.action.toNat = 0) (s : State) (p : Port) : owdArrive s p 0 m =
    owdSend s p m.src.toNat (owdPayload m.mid 2 (stampNow s (portAdjRx s p)).1 (stampNow s (portAdjRx s p)).2) := by
  simp [owdArrive, h]

theorem owdArrive_twoStep (h : m.action.toNat = 1) (s : State) (p : Port) :
    owdArrive s p 0 m = owdOpened s p m false (stampNow s (portAdjRx s p)) := by
  simp [owdArrive, h, owdOpened]

theorem owdArrive_followUp (h : m.action.toNat = 5) {s : State} {p : Port} {r : OwdReq} (found : owdFind s p m.mid false = some r) :
    owdArrive s p 0 m = owdAnswer s p m r := by
  simp [owdArrive, h, found, owdAnswer]

theorem owdArrive_response (h : m.action.toNat = 2) {s : State} {p : Port} {r : OwdReq} (found : owdFind s p m.mid true = some r) :
    owdArrive s p 0 m = owdRecord (owdDrop s r) p (stampNs m.sec.toNat m.ns.toNat - r.stamp) := by
  simp [owdArrive, h, found]

theorem owdArrive_remote (h : m.action.toNat = 3) (s : State) (p : Port) : owdArrive s p 0 m =
    owdSend (owdOpened s p m true (stampNow s (portAdjTx s p))) p m.src.toNat
      (owdPayload m.mid 0 (stampNow s (portAdjTx s p)).1 (stampNow s (portAdjTx s p)).2) := by
  simp [owdArrive, h, owdOpened]

theorem owdArrive_remoteTwoStep (h : m.action.toNat = 4) (s : State) (p : Port) : owdArrive s p 0 m =
    owdSend (owdSend (owdOpened s p m true (stampNow s (portAdjTx s p))) p m.src.toNat (owdPayload m.mid 1 0 0)) p m.src.toNat
      (owdPayload m.mid 5 (stampNow s (portAdjTx s p)).1 (stampNow s (portAdjTx s p)).2) := by
  simp [owdArrive, h, owdOpened]

end

/-- An exchange that ended is open no more. -/
theorem owdReq_owdDrop (s : State) (r : OwdReq) : r ∉ (owdDrop s r).fh.owdReq := by simp [owdDrop]

theorem exec_owdMessageRx {s : State} {p : Port} (up : portUp s p = true) (dt : Nat) (m : OwdMsg) :
    exec (.owdMessageRx dt p m) s = .next (owdArrive (arrive dt s) p 0 m) :=
  congrArg Host.Outcome.next (if_pos up)

/-! ### PTP frames -/

/-- Time alone stops no timebase. -/
@[simp] theorem tbOn_arrive (dt : Nat) (s : State) : tbOn (arrive dt s) = tbOn s := rfl

theorem exec_ptpFrameRx_foreign {s : State} {p : Port} (on : tbOn s = true) (foreign : p.code ≠ s.tb.ptpPort.toNat) (dt : Nat)
    (m : PtpMsg) : exec (.ptpFrameRx dt p m) s = .next { arrive dt s with
      tb := { (arrive dt s).tb with ptpForeign := min 255 (s.tb.ptpForeign + 1) } } := by
  have runs : ¬ (!tbOn (arrive dt s)) = true := by simpa using on
  exact congrArg Host.Outcome.next ((if_neg runs).trans (if_pos foreign))

theorem exec_ptpFrameRx_taken {s : State} {p : Port} {m : PtpMsg} (on : tbOn s = true) (port : p.code = s.tb.ptpPort.toNat)
    (domain : m.domain = s.tb.ptpDomain) (dt : Nat) : exec (.ptpFrameRx dt p m) s = .next (ptpTake (arrive dt s) p m) := by
  have runs : ¬ (!tbOn (arrive dt s)) = true := by simpa using on
  exact congrArg Host.Outcome.next ((if_neg runs).trans ((if_neg (not_not_intro port)).trans (if_neg (not_not_intro domain))))

theorem ptpTake_announce {m : PtpMsg} (kind : m.kind = .announce) (best : m.best = true) (s : State) (p : Port) :
    ptpTake s p m = { s with tb := { s.tb with ptpSelected := true, ptpClass := m.clockClass } } := by
  simp only [ptpTake, kind, best, if_true]

theorem ptpTake_sync {m : PtpMsg} (kind : m.kind = .sync) (twoStep : m.twoStep = true) (s : State) (p : Port) :
    ptpTake s p m = { s with tb := { s.tb with ptpSync := some (m.seq, stamp16 s (portAdjRx s p)) } } := by
  simp only [ptpTake, kind, twoStep, if_true]

/-- What changes the timebase alone once a row has arrived changes nothing but the reports. -/
theorem arrive_set_tb_changes (dt : Nat) (s : State) (x : Tb) : changesOnly reportParts s { arrive dt s with tb := x } :=
  (changesOnly_set_tb (by decide)).2 (arrive_changes dt s)

end Sys2Proof.Machine

open Sys2Proof Sys2Proof.Machine

/-- Settles O38: a one-way delay message by its action, a PTP frame by its port, its domain and its kind. -/
theorem oneWayDelayAndPtpFrames : Obligations.OneWayDelayAndPtpFrames := by
  unfold Obligations.OneWayDelayAndPtpFrames
  refine ⟨fun dt p m s up => ?_, fun dt p m s on => ⟨fun foreign => ?_, fun port domain kind best => ?_, fun port domain kind twoStep => ?_⟩⟩
  · intro a now out
    have only := owdArrive_changes a p 0 m
    refine ⟨_, exec_owdMessageRx up dt m, (congrArg HostIf.mem (only .host (by decide)) :),
      changesOnly_trans (changesOnly_mono (arrive_changes dt s) (by decide)) (changesOnly_mono only (by decide)),
      fun act => ?_, fun act => ?_, fun r act found => ?_, fun r act found => ?_, fun act => ?_⟩
    · rw [owdArrive_request act]
      exact ⟨rfl, rfl⟩
    · rw [owdArrive_twoStep act]
      exact ⟨rfl, rfl⟩
    · rw [owdArrive_followUp act (s := a) found]
      exact ⟨owdReq_owdDrop a r, rfl, rfl⟩
    · rw [owdArrive_response act (s := a) found]
      exact ⟨owdReq_owdDrop a r, rfl, vget_vmod_same _ (port_lane_lt p) _ 0⟩
    · rcases act with act | act
      · rw [owdArrive_remote act, act]
        exact ⟨rfl, rfl⟩
      · rw [owdArrive_remoteTwoStep act, act]
        exact ⟨rfl, rfl⟩
  · exact ⟨_, exec_ptpFrameRx_foreign on foreign dt m, rfl, rfl, arrive_set_tb_changes dt s _⟩
  · rw [exec_ptpFrameRx_taken on port domain, ptpTake_announce kind best]
    exact ⟨_, rfl, rfl, rfl, arrive_set_tb_changes dt s _⟩
  · rw [exec_ptpFrameRx_taken on port domain, ptpTake_sync kind twoStep]
    exact ⟨_, rfl, rfl, rfl, arrive_set_tb_changes dt s _⟩
end

section
/-! Pour frames that break R206 (R115, R146, R206, R209): what sending on the cascade leaves alone, and what a discarded frame counts. -/

namespace Sys2Proof.Machine

/-! ### Frames sent on the cascade -/

/-- What frames sent on cascade lanes leave: the Tundish and its books, every Slag cause but that of a leaving lane, and the sides'
state (R115, R122, R207). -/
structure CascadeSent (s t : State) : Prop where
  books : t.fh.books = s.fh.books
  held : t.fh.held = s.fh.held
  direct : t.fh.direct = s.fh.direct
  slag : ∀ c, c ≠ 2 → vget t.fh.slag c 0 = vget s.fh.slag c 0
  side : t.run.side = s.run.side

theorem CascadeSent.refl (s : State) : CascadeSent s s := ⟨rfl, rfl, rfl, fun _ _ => rfl, rfl⟩

theorem CascadeSent.trans {s t u : State} (h : CascadeSent s t) (k : CascadeSent t u) : CascadeSent s u :=
  ⟨k.books.trans h.books, k.held.trans h.held, k.direct.trans h.direct, fun c hc => (k.slag c hc).trans (h.slag c hc), k.side.trans h.side⟩

theorem CascadeSent.foldl {α : Type} {f : State → α → State} (h : ∀ s x, CascadeSent s (f s x)) (l : List α) (s : State) :
    CascadeSent s (l.foldl f s) :=
  List.foldlRecOn (motive := CascadeSent s) l f (.refl s) fun t sent x _ => sent.trans (h t x)

/-- A lane that leaves the distribution sends nothing more, one in it sends, any other is silent (R115, R122). -/
theorem sendData_sent (s : State) (d lane cls symid layer cc : Nat) (payload : List Byte) (bad : Bool) :
    CascadeSent s (sendData s d lane cls symid layer cc payload bad) := by
  unfold sendData
  extract_lets x
  split
  · exact ⟨rfl, rfl, rfl, fun c hc => vget_vmod_ne _ (Ne.symm hc) _ 0, rfl⟩
  · split
    · exact ⟨rfl, rfl, rfl, fun _ _ => rfl, rfl⟩
    · exact .refl s

theorem copyBad_sent (s : State) (d lane : Nat) (f : PourFrame) : CascadeSent s (copyBad s d lane f) := by
  unfold copyBad
  extract_lets h c k
  split
  · exact .refl s
  · split
    · exact sendData_sent s _ _ _ _ _ _ _ _
    · exact .refl s

/-- A frame with an invalid block is not sent on (R215). -/
theorem copyBad_of_codeErr {f : PourFrame} (code : f.codeErr = true) (s : State) (d lane : Nat) : copyBad s d lane f = s :=
  if_pos (.inl code)

/-! ### Faults of cascade lanes -/

/-- Nothing of the fronthaul is queued for a cascade lane (R115). -/
theorem laneLeave_fh {l : Nat} (cascade : 16 ≤ l) (s : State) : (laneLeave s l).fh = s.fh := by
  unfold laneLeave
  extract_lets x s1 s2
  rw [if_neg (not_lt.2 cascade)]
  split <;> rfl

theorem laneRetire_fh {l : Nat} (cascade : 16 ≤ l) (s : State) (by_ : Nat) : (laneRetire s l by_).fh = s.fh := by
  unfold laneRetire
  extract_lets s1 s2 s3
  calc (laneResolve (noteRetired s3 2 l by_) l false).fh
    _ = (noteRetired s3 2 l by_).fh := laneResolve_changes _ l false .fh (by decide)
    _ = s3.fh := noteRetired_changes s3 2 l by_ .fh (by decide)
    _ = s2.fh := post_changes s2 0x0003 4 l _ .fh (by decide)
    _ = s.fh := laneLeave_fh cascade s

theorem faultLeft_fh {l : Nat} (cascade : 16 ≤ l) (s : State) (cause : Nat) : (faultLeft s l cause).fh = s.fh :=
  (laneLeave_fh cascade _).trans (post_changes (modLane s l _) 0x0001 4 l cause .fh (by decide))

/-- A cascade lane belongs to no port. -/
theorem portMates_cascade {l : Nat} (cascade : 16 ≤ l) (s : State) : portMates s l = [] :=
  if_neg fun h => absurd h.1 (not_lt.2 cascade)

theorem laneFault_fh {l : Nat} (cascade : 16 ≤ l) (s : State) (cause : Nat) : (laneFault s l cause).fh = s.fh := by
  rw [laneFault_eq]
  extract_lets n u
  rw [portMates_cascade cascade u, List.foldl_nil]
  refine Eq.trans ?_ (faultLeft_fh cascade s cause)
  unfold u
  split
  · exact laneRetire_fh cascade _ 1
  · exact noteFault_changes _ 2 l (n + 1) .fh (by decide)

theorem detectorAssert_fh {l : Nat} (cascade : 16 ≤ l) (s : State) (det : Detector) : (detectorAssert s l det).fh = s.fh := by
  unfold detectorAssert
  extract_lets s1
  split
  · exact post_changes _ 0x0001 4 l _ .fh (by decide)
  · split
    · exact laneFault_fh cascade s1 _
    · rfl

/-! ### Discarded frames -/

/-- A discarded frame counted: under CASCADE, on its side, and on its lane (R146, R209). -/
def pourCounted (s : State) (d lane : Nat) : State :=
  modLane (laneErr (modSide (slag s 17 1) d fun x => { x with disc := satTo 0xFFFFFFFF (x.disc + 1) }) (16 + 12 * d + lane))
    (16 + 12 * d + lane) fun x => { x with badPour := x.badPour + 1, goodPour := 0 }

theorem pourDrop_eq (s : State) (d lane : Nat) : pourDrop s d lane =
    let u := pourCounted s d lane
    if 4 ≤ (laneOf u (16 + 12 * d + lane)).badPour ∧ !(laneOf u (16 + 12 * d + lane)).pour then
      synceUpdate (detectorAssert u (16 + 12 * d + lane) .pour) else u := rfl

/-- The run of bad frames grows by one (R209). -/
theorem laneOf_pourCounted (s : State) {d lane : Nat} (h : 16 + 12 * d + lane < 40) :
    ∃ e, laneOf (pourCounted s d lane) (16 + 12 * d + lane) = { laneOf s (16 + 12 * d + lane) with
      hourErr := e, badPour := (laneOf s (16 + 12 * d + lane)).badPour + 1, goodPour := 0 } := by
  unfold pourCounted laneErr
  rw [laneOf_modLane_same _ h, laneOf_modLane_same _ h]
  exact ⟨_, rfl⟩

/-- Whether or not the POUR detector asserts, of the fronthaul only the count of the cause changes. -/
theorem pourDrop_fh (s : State) (d lane : Nat) : (pourDrop s d lane).fh = (slag s 17 1).fh := by
  rw [pourDrop_eq]
  extract_lets u
  split
  · exact (synceUpdate_changes _ .fh (by decide)).trans (detectorAssert_fh (by omega) u .pour)
  · rfl

theorem pourDrop_disc (s : State) {d : Nat} (h : d < 2) (lane : Nat) :
    (sideOf (pourDrop s d lane) d).disc = min 0xFFFFFFFF ((sideOf s d).disc + 1) := by
  have run : (pourDrop s d lane).run = (pourCounted s d lane).run := by
    rw [pourDrop_eq]
    extract_lets u
    split
    · exact (synceUpdate_changes _ .run (by decide)).trans (detectorAssert_changes u _ .pour .run (by decide))
    · rfl
  rw [sideOf, run]
  exact congrArg Side.disc (vget_vmod_same s.run.side h _ {})

/-- Before the fourth bad frame in a row the lane goes on (R209). -/
theorem laneOf_pourDrop {s : State} {d lane : Nat} (h : 16 + 12 * d + lane < 40) (few : (laneOf s (16 + 12 * d + lane)).badPour < 3) :
    ∃ e, laneOf (pourDrop s d lane) (16 + 12 * d + lane) = { laneOf s (16 + 12 * d + lane) with
      hourErr := e, badPour := (laneOf s (16 + 12 * d + lane)).badPour + 1, goodPour := 0 } := by
  obtain ⟨e, counted⟩ := laneOf_pourCounted s h
  refine ⟨e, Eq.trans ?_ counted⟩
  rw [pourDrop_eq]
  extract_lets u
  have run : (laneOf u (16 + 12 * d + lane)).badPour = (laneOf s (16 + 12 * d + lane)).badPour + 1 := by rw [counted]
  rw [if_neg (by omega)]

/-- A frame that breaks R206 on an UP cascade lane. -/
theorem exec_pourFrameRx_bad {s : State} {d : Fin 2} {l : Fin 12} {f : PourFrame} (up : laneIsUp s (16 + 12 * d.val + l.val) = true)
    (on : domOn s 6 = true) (bad : pourBadFrame f = true) (dt : Nat) :
    exec (.pourFrameRx dt d l f) s = .next (pourDrop (copyBad (arrive dt s) d l f) d l) := by
  have runs : ¬ (!domOn (arrive dt s) 6) = true := by
    rw [show domOn (arrive dt s) 6 = true from on]
    decide
  exact congrArg Host.Outcome.next ((if_neg runs).trans ((if_pos up).trans (if_pos bad)))

end Sys2Proof.Machine

open Sys2Proof Sys2Proof.Machine

/-- Settles O40: what is sent on of the frame leaves the counts, and the discard counts once. -/
theorem brokenPourFrameIsDiscarded : Obligations.BrokenPourFrameIsDiscarded := by
  unfold Obligations.BrokenPourFrameIsDiscarded
  intro dt d l f s up on bad
  let u := copyBad (arrive dt s) d l f
  have sent : CascadeSent (arrive dt s) u := copyBad_sent _ _ _ f
  have left := copyBad_changes (arrive dt s) d l f
  have lane : laneOf u (16 + 12 * d.val + l.val) = laneOf s (16 + 12 * d.val + l.val) := laneOf_of_changes left (by decide) _
  have upstate : (laneOf s (16 + 12 * d.val + l.val)).state = .up := by
    simp only [laneIsUp, Bool.and_eq_true, beq_iff_eq] at up
    exact up.1.1
  refine ⟨_, exec_pourFrameRx_bad up on bad dt, ?_, ?_, ?_, fun code => ?_, fun few => ?_, ?_⟩
  · rw [pourDrop_fh, ← show vget u.fh.slag 17 0 = vget s.fh.slag 17 0 from sent.slag 17 (by decide)]
    exact vget_vmod_same u.fh.slag (by decide) _ 0
  · rw [pourDrop_disc u d.isLt, sideOf, sent.side]
    rfl
  · rw [pourDrop_fh]
    exact sent.books
  · rw [pourDrop_fh, copyBad_of_codeErr code]
    rfl
  · rw [← lane] at few ⊢
    obtain ⟨e, after⟩ := laneOf_pourDrop (s := u) (by omega) few
    rw [after]
    exact ⟨rfl, (congrArg Lane.state lane).trans upstate⟩
  · exact changesOnly_trans (changesOnly_mono (arrive_changes dt s) (by decide)) (changesOnly_trans (changesOnly_mono left (by decide))
      (changesOnly_mono (pourDrop_changes u d l) (by decide)))
end

section
/-! Uplink windows (R157, R158, R192, R193, R216, R278): messages queued for a port or counted, layers and partial-sum records marked as
they leave. -/

namespace Sys2Proof.Machine

/-! ### Messages of an uplink section -/

/-- On a port that carries traffic a message is queued. -/
theorem queueUplink_queued {s : State} {code : Nat} (up : portUp s (portOfCode code) = true)
    (stays : portLeaving s (portOfCode code) = false) (c key k : Nat) (stl nc : Bool) (comp start num : Nat) (data : List Byte) :
    ∃ m : UlMsg, (m.port = portOfCode code ∧ m.cc = c ∧ m.sym = k) ∧
      queueUplink s code c key k stl nc comp start num data = { s with fh := { s.fh with ulQueue := s.fh.ulQueue ++ [m] } } := by
  refine ⟨⟨portOfCode code, c, k, _⟩, ⟨rfl, rfl, rfl⟩, (if_neg ?_).trans (if_neg ?_)⟩
  · rw [up]; decide
  · rw [stays]; decide

/-- On a port that carries none it is counted (R146, R158). -/
theorem queueUplink_counted {s : State} {code : Nat} (down : portUp s (portOfCode code) = false) (c key k : Nat) (stl nc : Bool)
    (comp start num : Nat) (data : List Byte) : queueUplink s code c key k stl nc comp start num data = slag s 18 1 := by
  refine if_pos ?_
  rw [down]; rfl

/-- Messages queued one after another. -/
theorem foldl_queued {α : Type} {f : State → α → State} {p : Port} {P : UlMsg → Prop}
    (h : ∀ s x, portUp s p = true → portLeaving s p = false →
      ∃ m, P m ∧ f s x = { s with fh := { s.fh with ulQueue := s.fh.ulQueue ++ [m] } }) :
    ∀ (l : List α) (s : State), portUp s p = true → portLeaving s p = false →
      ∃ q : List UlMsg, q.length = l.length ∧ (∀ m ∈ q, P m) ∧
        l.foldl f s = { s with fh := { s.fh with ulQueue := s.fh.ulQueue ++ q } }
  | [], s, _, _ => ⟨[], rfl, by simp, by simp⟩
  | x :: xs, s, up, stays => by
    obtain ⟨m, hm, first⟩ := h s x up stays
    obtain ⟨q, len, all, rest⟩ := foldl_queued h xs { s with fh := { s.fh with ulQueue := s.fh.ulQueue ++ [m] } } up stays
    refine ⟨m :: q, by simp [len], by simpa using ⟨hm, all⟩, ?_⟩
    rw [List.foldl_cons, first, rest]
    simp

/-- Messages counted one after another, up to the largest count. -/
theorem foldl_counted {α : Type} {f : State → α → State} {p : Port} (h : ∀ s x, portUp s p = false → f s x = slag s 18 1) :
    ∀ (l : List α) (s : State), portUp s p = false →
      (l.foldl f s).fh.ulQueue = s.fh.ulQueue ∧
        (vget s.fh.slag 18 0 ≤ 0xFFFFFFFF → vget (l.foldl f s).fh.slag 18 0 = min 0xFFFFFFFF (vget s.fh.slag 18 0 + l.length))
  | [], s, _ => ⟨rfl, fun le => (min_eq_right le).symm⟩
  | x :: xs, s, down => by
    have one : vget (slag s 18 1).fh.slag 18 0 = min 0xFFFFFFFF (vget s.fh.slag 18 0 + 1) := vget_vmod_same _ (by decide) _ 0
    obtain ⟨queue, count⟩ := foldl_counted h xs (slag s 18 1) down
    rw [List.foldl_cons, h s x down]
    refine ⟨queue, fun _ => ?_⟩
    rw [count (by omega), one, List.length_cons]
    omega

/-! ### Samples of a path -/

/-- The runs of blocks of a path's samples, one message each (R157). -/
def streamRuns (s : State) (c : Nat) : List (Nat × Nat) :=
  msgRuns (blockCount s 1 c s.cru.ulSym) 128 (fhOf s c).comp (fhOf s c).mtu

theorem assembleStream_queued {s : State} {c : Nat} (up : portUp s (portOfCode (fhOf s c).astPort) = true)
    (stays : portLeaving s (portOfCode (fhOf s c).astPort) = false) (path : Nat) (samples : List Sample) :
    ∃ q : List UlMsg, q.length = (streamRuns s c).length ∧
      (∀ m ∈ q, m.port = portOfCode (fhOf s c).astPort ∧ m.cc = c ∧ m.sym = s.cru.ulSym) ∧
      assembleStream s c path samples = { s with fh := { s.fh with ulQueue := s.fh.ulQueue ++ q } } :=
  foldl_queued (fun _ _ up stays => queueUplink_queued up stays c _ _ _ _ _ _ _ _) (streamRuns s c) s up stays

theorem assembleStream_counted {s : State} {c : Nat} (down : portUp s (portOfCode (fhOf s c).astPort) = false) (path : Nat)
    (samples : List Sample) : (assembleStream s c path samples).fh.ulQueue = s.fh.ulQueue ∧
      (vget s.fh.slag 18 0 ≤ 0xFFFFFFFF →
        vget (assembleStream s c path samples).fh.slag 18 0 = min 0xFFFFFFFF (vget s.fh.slag 18 0 + (streamRuns s c).length)) :=
  foldl_counted (fun _ _ down => queueUplink_counted down c _ _ _ _ _ _ _ _) (streamRuns s c) s down

/-! ### Layers -/

/-- A layer of a carrier is done once it is noted among those sent. -/
theorem ulDone_noted {s t : State} (c : Fin 2) {id : Nat} {r : List LayerRef} (sent : t.cru.ulSent = s.cru.ulSent ++ r) :
    ulDone t c id = (ulDone s c id || r.any fun r => r.cc.val == c.val && r.layer == id) := by
  rw [ulDone, ulDone, sent, List.any_append]

theorem layerRef_fin (c : Fin 2) (id : Nat) : layerRef c id = [⟨c, id⟩] := dif_pos c.isLt

/-- An assembled layer is noted behind those sent before it: its messages note nothing. -/
theorem assembleLayer_sent (s : State) (c : Nat) (e : Entry) (nc : Bool) :
    (assembleLayer s c e nc).cru.ulSent = s.cru.ulSent ++ layerRef c e.layer := by
  unfold assembleLayer
  extract_lets k f runs s1
  refine congrArg (· ++ layerRef c e.layer) ?_
  unfold s1
  split
  · rfl
  · refine List.foldlRecOn (motive := fun t : State => t.cru.ulSent = s.cru.ulSent) runs _ rfl fun t same r _ => ?_
    extract_lets vals own sum z zs cru s2
    refine (congrArg Cru.ulSent (queueUplink_changes _ _ _ _ _ _ _ _ _ _ _ .cru (by decide))).trans (Eq.trans ?_ same)
    unfold s2
    split <;> rfl

theorem ulDone_assembleLayer (s : State) (c : Fin 2) (e : Entry) (nc : Bool) : ulDone (assembleLayer s c e nc) c e.layer = true := by
  rw [ulDone_noted c (assembleLayer_sent s c e nc), layerRef_fin]
  simp

/-- UPLINK_ASSEMBLY of a layer at its end member: a layer that is done, or lacks sums, sends nothing. -/
theorem exec_uplinkAssembly_layer {s : State} {c : Fin 2} {id : Nat} {e : Entry} (flow : samplesFlow s = true)
    (ul : isUl s s.cru.ulSym = true) (bfs : bit (setAt s c s.cru.ulSym) 2 = true)
    (found : ((placedAt s c 1 s.cru.ulSym).find? fun e => e.layer == id && e.isEnd) = some e) (dt : Nat) (l : List Sample) :
    exec (.uplinkAssembly dt c false id l) s = .next (if ulDone s c id then arrive dt s
      else if missingMembers s c e = 0 then assembleLayer (arrive dt s) c e false else arrive dt s) := by
  have flows : samplesFlow (arrive dt s) = true := flow
  have uplink : isUl (arrive dt s) (arrive dt s).cru.ulSym = true := ul
  have serves : bit (setAt (arrive dt s) c (arrive dt s).cru.ulSym) 2 = true := bfs
  have placed : ((placedAt (arrive dt s) c 1 (arrive dt s).cru.ulSym).find? fun e => e.layer == id && e.isEnd) = some e := found
  have done : ulDone (arrive dt s) c id = ulDone s c id := rfl
  have missing : missingMembers (arrive dt s) c e = missingMembers s c e := rfl
  change execUplinkAssembly dt c false id l s = _
  unfold execUplinkAssembly
  generalize arrive dt s = a at *
  simp [flows, uplink, serves, placed, done, missing]

/-- UPLINK_ASSEMBLY of a path's samples on a carrier that streams. -/
theorem exec_uplinkAssembly_stream {s : State} {c : Fin 2} {id : Nat} (flow : samplesFlow s = true) (ul : isUl s s.cru.ulSym = true)
    (path : id < 64) (streams : bit (setAt s c s.cru.ulSym) 1 = true) (dt : Nat) (l : List Sample) :
    exec (.uplinkAssembly dt c true id l) s = .next (assembleStream (arrive dt s) c id l) := by
  have does : samplesFlow (arrive dt s) ∧ bit (setAt (arrive dt s) c (arrive dt s).cru.ulSym) 1 ∧ id < 64 ∧
    isUl (arrive dt s) (arrive dt s).cru.ulSym := ⟨flow, streams, path, ul⟩
  exact congrArg Host.Outcome.next (if_pos does)

/-! ### Partial-sum records -/

/-- A frame of a layer's flow leaves on a lane that is in the distribution (R207). -/
theorem sendData_out {s : State} {d lane : Nat} (stays : (laneOf s (16 + 12 * d + lane)).leaveIn = 0)
    (carries : (laneOf s (16 + 12 * d + lane)).inDist = true) (cls symid layer cc : Nat) (payload : List Byte) (bad : Bool) :
    ∃ h, (sendData s d lane cls symid layer cc payload bad).out = s.out ++ [.pour d lane h payload bad] := by
  have here : ¬ 0 < (laneOf s (16 + 12 * d + lane)).leaveIn := by omega
  rw [show sendData s d lane cls symid layer cc payload bad = sendPour s d lane cls 0 symid layer cc payload bad from
    (if_neg here).trans (if_pos carries)]
  exact ⟨_, rfl⟩

/-- One record leaves on the lane toward the end member (R216). -/
theorem sendPartial_out {s : State} {d lane : Nat} (stays : (laneOf s (16 + 12 * d + lane)).leaveIn = 0)
    (carries : (laneOf s (16 + 12 * d + lane)).inDist = true) (c : Nat) (e : Entry) (r : Nat × Nat) :
    ∃ h b, (sendPartial s c e d lane r).out = s.out ++ [.pour d lane h b false] := by
  unfold sendPartial
  extract_lets k own sum stl cru u
  obtain ⟨h, out⟩ := sendData_out (s := u) stays carries 1 (symId u k) e.layer c (psumRecord c e.layer (symId u k) r.1 r.2
    (1 <<< ownId u ||| contribOf u c e.layer r.1 r.2) stl (sectionVals u 0 c k r.1 r.2) sum.1) false
  exact ⟨h, _, out⟩

/-- Of the Crucible a record changes the count of saturated parts alone (R192). -/
theorem sendPartial_cru (s : State) (c : Nat) (e : Entry) (d lane : Nat) (r : Nat × Nat) :
    ∃ n, (sendPartial s c e d lane r).cru = { s.cru with satUl := n } :=
  ⟨_, sendData_changes _ d lane 1 _ e.layer c _ false .cru (by decide)⟩

/-- The next n records of a layer sent on a lane. -/
def partialsLeft (s : State) (c : Nat) (e : Entry) (d lane n : Nat) : State :=
  ((psumRuns s c).drop (partsSent s c e.layer) |>.take n).foldl (fun s r => sendPartial s c e d lane r) s

theorem partialsLeft_cru (s : State) (c : Nat) (e : Entry) (d lane n : Nat) :
    ∃ m, (partialsLeft s c e d lane n).cru = { s.cru with satUl := m } := by
  refine List.foldlRecOn (motive := fun t : State => ∃ m, t.cru = { s.cru with satUl := m }) _ _ ⟨s.cru.satUl, rfl⟩ fun t kept r _ => ?_
  obtain ⟨m, before⟩ := kept
  obtain ⟨k, after⟩ := sendPartial_cru t c e d lane r
  exact ⟨k, by rw [after, before]⟩

theorem partialsLeft_air (s : State) (c : Nat) (e : Entry) (d lane n : Nat) : (partialsLeft s c e d lane n).air = s.air :=
  changesOnly_foldl [.fh, .cru, .run, .out] _ (fun t r => sendPartial_changes t c e d lane r) _ s .air (by decide)

/-- With a record still to leave and a lane that carries it, one record leaves. -/
theorem partialsLeft_out {s : State} {c : Nat} {e : Entry} {d lane : Nat} (more : partsSent s c e.layer < (psumRuns s c).length)
    (stays : (laneOf s (16 + 12 * d + lane)).leaveIn = 0) (carries : (laneOf s (16 + 12 * d + lane)).inDist = true) :
    ∃ h b, (partialsLeft s c e d lane 1).out = s.out ++ [.pour d lane h b false] := by
  unfold partialsLeft
  rw [List.drop_eq_getElem_cons more]
  exact sendPartial_out stays carries c e _

/-- The records that left are noted, and the layer is done once all of them have (R216). -/
theorem sendPartials_eq {s : State} {c : Nat} {e : Entry} {d lane : Nat} (toward : towardEnd s c e = some (d, lane)) (n : Nat) :
    sendPartials s c e n = { partialsLeft s c e d lane n with cru := { (partialsLeft s c e d lane n).cru with
      ulParts := (layerRef c e.layer).map (fun x => (x, partsSent s c e.layer + n)) ++
        (partialsLeft s c e d lane n).cru.ulParts.filter fun x => !(x.1.cc.val == c && x.1.layer == e.layer)
      ulSent := (partialsLeft s c e d lane n).cru.ulSent ++
        (if (psumRuns (partialsLeft s c e d lane n) c).length ≤ partsSent s c e.layer + n then layerRef c e.layer else []) } } := by
  unfold sendPartials
  rw [toward]
  rfl

theorem partsSent_sendPartials {s : State} {c : Fin 2} {e : Entry} {d lane : Nat} (toward : towardEnd s c e = some (d, lane)) (n : Nat) :
    partsSent (sendPartials s c e n) c e.layer = partsSent s c e.layer + n := by
  rw [sendPartials_eq toward, layerRef_fin, partsSent]
  simp

theorem ulDone_sendPartials {s : State} {c : Fin 2} {e : Entry} {d lane : Nat} (toward : towardEnd s c e = some (d, lane)) (n : Nat)
    (undone : ulDone s c e.layer = false) :
    ulDone (sendPartials s c e n) c e.layer = decide ((psumRuns s c).length ≤ partsSent s c e.layer + n) := by
  obtain ⟨m, cru⟩ := partialsLeft_cru s c e d lane n
  have runs : psumRuns (partialsLeft s c e d lane n) c = psumRuns s c := by
    rw [psumRuns, psumRuns, carrierOf, carrierOf, partialsLeft_air]
  have sent : (sendPartials s c e n).cru.ulSent = s.cru.ulSent ++
      (if (psumRuns s c).length ≤ partsSent s c e.layer + n then layerRef c e.layer else []) := by
    rw [sendPartials_eq toward, runs, cru]
  rw [ulDone_noted c sent, undone, layerRef_fin]
  split <;> simp [*]

theorem sendPartials_psums {s : State} {c : Nat} {e : Entry} {d lane : Nat} (toward : towardEnd s c e = some (d, lane)) (n : Nat) :
    (sendPartials s c e n).cru.psums = s.cru.psums := by
  obtain ⟨m, cru⟩ := partialsLeft_cru s c e d lane n
  rw [sendPartials_eq toward, cru]

/-- PSUM_RECORD_SEND of a layer whose records are still to leave. -/
theorem exec_psumRecordSend {s : State} {c : Fin 2} {id : Nat} {e : Entry}
    (found : ((placedAt s c 1 s.cru.ulSym).find? fun e => e.layer == id && !e.isEnd && !e.isLocal) = some e)
    (undone : ulDone s c id = false) (runs : suspended s c = false) (dt : Nat) :
    exec (.psumRecordSend dt c id) s = .next (sendPartials (arrive dt s) c e 1) := by
  have placed : ((placedAt (arrive dt s) c 1 (arrive dt s).cru.ulSym).find? fun e => e.layer == id && !e.isEnd && !e.isLocal) = some e := found
  have open_ : ulDone (arrive dt s) c id = false := undone
  have serves : suspended (arrive dt s) c = false := runs
  change execPsumRecordSend dt c id s = _
  unfold execPsumRecordSend
  generalize arrive dt s = a at *
  simp [placed, open_, serves]

end Sys2Proof.Machine

open Sys2Proof Sys2Proof.Machine

/-- Settles O30: a layer or record that leaves is noted once, and a path's messages are queued or counted one by one. -/
theorem uplinkLayersLeaveOnce : Obligations.UplinkLayersLeaveOnce := by
  unfold Obligations.UplinkLayersLeaveOnce
  refine ⟨fun dt c id l s e flow ul bfs found => ?_, fun dt c id l s flow ul path streams => ?_,
    fun dt c id s e d lane found undone runs toward => ?_⟩
  · have waits := arrive_changes dt s
    have named : e.layer = id := by
      have holds := List.find?_some found
      simp only [Bool.and_eq_true, beq_iff_eq] at holds
      exact holds.1
    rw [exec_uplinkAssembly_layer flow ul bfs found]
    by_cases leaves : ulDone s c id = false ∧ missingMembers s c e = 0
    · obtain ⟨undone, whole⟩ := leaves
      have left := assembleLayer_changes (arrive dt s) c e false
      rw [undone, if_neg Bool.false_ne_true, if_pos whole]
      refine ⟨_, rfl, (congrArg HostIf.mem (left .host (by decide)) :), ?_, fun _ _ => named ▸ ulDone_assembleLayer _ c e false, fun idle => ?_⟩
      · exact changesOnly_trans (changesOnly_mono waits (by decide)) (changesOnly_mono left (by decide))
      · exact absurd whole (idle.resolve_left Bool.false_ne_true)
    · have idle : (if ulDone s c id then arrive dt s else if missingMembers s c e = 0 then assembleLayer (arrive dt s) c e false
          else arrive dt s) = arrive dt s := by
        split
        · rfl
        · next undone => exact if_neg fun whole => leaves ⟨Bool.eq_false_of_not_eq_true undone, whole⟩
      rw [idle]
      exact ⟨_, rfl, rfl, changesOnly_mono waits (by decide), fun undone whole => absurd ⟨undone, whole⟩ leaves, fun _ => ⟨rfl, rfl⟩⟩
  · intro f n p
    have left := assembleStream_changes (arrive dt s) c id l
    refine ⟨_, exec_uplinkAssembly_stream flow ul path streams dt l, left .cru (by decide), (congrArg HostIf.mem (left .host (by decide)) :),
      changesOnly_trans (changesOnly_mono (arrive_changes dt s) (by decide)) (changesOnly_mono left (by decide)),
      fun up stays => ?_, fun down => assembleStream_counted (s := arrive dt s) down id l⟩
    obtain ⟨q, len, all, queued⟩ := assembleStream_queued (s := arrive dt s) (c := c) up stays id l
    rw [queued]
    exact ⟨rfl, q, rfl, len, all⟩
  · have named : e.layer = id := by
      have holds := List.find?_some found
      simp only [Bool.and_eq_true, beq_iff_eq] at holds
      exact holds.1.1
    subst named
    have left := sendPartials_changes (arrive dt s) c e 1
    have side : towardEnd (arrive dt s) c e = some (d, lane) := toward
    refine ⟨_, exec_psumRecordSend found undone runs dt, partsSent_sendPartials side 1, ulDone_sendPartials side 1 undone,
      sendPartials_psums side 1, fun more stays carries => ?_, (congrArg HostIf.mem (left .host (by decide)) :),
      changesOnly_trans (changesOnly_mono (arrive_changes dt s) (by decide)) (changesOnly_mono left (by decide))⟩
    rw [sendPartials_eq side]
    exact partialsLeft_out (s := arrive dt s) more stays carries
end

section
/-! Fronthaul frames (R115, R131–R134, R145–R151): the checks of a frame and what each discards, and the downlink message that is held. -/

namespace Sys2Proof.Machine

/-! ### The frame's checks -/

/-- The codewords corrected in a frame counted in the port's lane while its FEC is on (R107). -/
def fecCounted (s : State) (p : Port) (f : FhFrame) : State :=
  if portFecOn s p then modLane s p.lane.val fun l => { l with fecCorr := satTo 0xFFFFFFFF (l.fecCorr + f.corrected) } else s

/-- A frame with at most one tag that carries eCPRI (R131). -/
def frameEcpri (f : FhFrame) : Bool := (frameHead f.bytes).2.1 ≤ 1 && (frameHead f.bytes).2.2 == 0xAEFE

/-- The messages identified in a frame, at least one (R132, R146). -/
def frameCount (f : FhFrame) : Nat :=
  if frameEcpri f then max 1 (splitMsgs 2300 (f.bytes.drop (frameHead f.bytes).1)).1.length else 1

/-- A frame that is long enough and free of errors on the line. -/
structure FrameSound (s : State) (p : Port) (f : FhFrame) : Prop where
  long : 60 ≤ f.bytes.length
  fcs : f.fcsBad = false
  fec : f.fecBad = false ∨ portFecOn s p = false

/-- Such a frame passes the checks of its length, its FCS and its codewords. -/
theorem FrameSound.passes {s : State} {p : Port} {f : FhFrame} (sound : FrameSound s p f) {α : Sort _} (a b c d : α) :
    (if f.bytes.length < 60 then a else if f.fcsBad then b else if f.fecBad ∧ portFecOn s p then c else d) = d := by
  obtain ⟨long, fcs, fec⟩ := sound
  rw [if_neg (not_lt.2 long), fcs, if_neg Bool.false_ne_true, if_neg]
  rcases fec with h | h <;> simp [h]

theorem fecCounted_changes (s : State) (p : Port) (f : FhFrame) : changesOnly [.lanes] s (fecCounted s p f) :=
  changesOnly_ite (modLane_changes s _ _) (changesOnly_refl _ s)

theorem laneOf_fecCounted (s : State) (p : Port) (f : FhFrame) (m : Nat) :
    laneOf (fecCounted s p f) m = if portFecOn s p = true ∧ m = p.lane.val
      then { laneOf s m with fecCorr := min 0xFFFFFFFF ((laneOf s m).fecCorr + f.corrected) } else laneOf s m := by
  unfold fecCounted
  by_cases fec : portFecOn s p = true
  · rw [if_pos fec]
    by_cases own : m = p.lane.val
    · subst own
      rw [laneOf_modLane_same s p.lane.isLt, if_pos ⟨fec, rfl⟩]
      rfl
    · rw [laneOf_modLane_ne s (Ne.symm own), if_neg fun h => own h.2]
  · rw [if_neg fec, if_neg fun h => fec h.1]

@[simp] theorem leaveIn_fecCounted (s : State) (p : Port) (f : FhFrame) (m : Nat) :
    (laneOf (fecCounted s p f) m).leaveIn = (laneOf s m).leaveIn := by
  rw [laneOf_fecCounted]
  split <;> rfl

@[simp] theorem portLeaving_fecCounted (s : State) (p q : Port) (f : FhFrame) : portLeaving (fecCounted s p f) q = portLeaving s q := by
  cases q <;> simp [portLeaving]

@[simp] theorem portFecOn_fecCounted (s : State) (p q : Port) (f : FhFrame) : portFecOn (fecCounted s p f) q = portFecOn s q := by
  unfold fecCounted
  split <;> rfl

@[simp] theorem portMac_fecCounted (s : State) (p q : Port) (f : FhFrame) : portMac (fecCounted s p f) q = portMac s q := by
  unfold fecCounted
  split <;> rfl

section
variable {s : State} {p : Port} {f : FhFrame}

theorem frameTake_short (short : f.bytes.length < 60) : frameTake s p f = (fecCounted s p f, []) := if_pos short

theorem frameTake_fcsBad (long : 60 ≤ f.bytes.length) (fcs : f.fcsBad = true) :
    frameTake s p f = (slag (fecCounted s p f) 0 (frameCount f), []) := (if_neg (not_lt.2 long)).trans (if_pos fcs)

/-- An uncorrectable codeword also counts in the port's lane (R107). -/
theorem frameTake_fecBad (long : 60 ≤ f.bytes.length) (fcs : f.fcsBad = false) (fec : f.fecBad = true) (on : portFecOn s p = true) :
    frameTake s p f = (slag (laneErr (modLane (fecCounted s p f) p.lane.val fun l =>
      { l with fecUnc := satTo 0xFFFFFFFF (l.fecUnc + 1) }) p.lane.val) 1 (frameCount f), []) :=
  (if_neg (not_lt.2 long)).trans ((if_neg (by simp [fcs])).trans (if_pos ⟨fec, (portFecOn_fecCounted s p p f).trans on⟩))

theorem FrameSound.counted (sound : FrameSound s p f) : FrameSound (fecCounted s p f) p f :=
  ⟨sound.long, sound.fcs, sound.fec.imp_right (portFecOn_fecCounted s p p f).trans⟩

theorem frameTake_leaving (sound : FrameSound s p f) (leaves : portLeaving s p = true) :
    frameTake s p f = (slag (fecCounted s p f) 2 (frameCount f), []) :=
  (sound.counted.passes _ _ _ _).trans (if_pos ((portLeaving_fecCounted s p p f).trans leaves))

/-- A frame of a port that stays in the distribution goes on to the check of its address. -/
theorem portStays_counted (stays : portLeaving s p = false) : ¬ portLeaving (fecCounted s p f) p = true := by
  rw [portLeaving_fecCounted, stays]
  decide

theorem frameTake_foreign (sound : FrameSound s p f) (stays : portLeaving s p = false) (other : beAt f.bytes 0 6 ≠ portMac s p)
    (single : beAt f.bytes 0 6 ≠ 2 ^ 48 - 1) : frameTake s p f = (slag (fecCounted s p f) 3 (frameCount f), []) := by
  refine (sound.counted.passes _ _ _ _).trans ((if_neg (portStays_counted stays)).trans (if_pos ⟨?_, ?_⟩))
  · exact fun own => other (own.trans (portMac_fecCounted s p p f))
  · rw [beq_eq_false_iff_ne.2 single]
    rfl

/-- A frame to the port's own address passes the check of its address. -/
theorem addressOwn_counted (own : beAt f.bytes 0 6 = portMac s p) (b : Bool) :
    ¬ (beAt f.bytes 0 6 ≠ portMac (fecCounted s p f) p ∧ b = true) := fun h => h.1 (by rw [portMac_fecCounted, own])

theorem frameTake_notEcpri (sound : FrameSound s p f) (stays : portLeaving s p = false) (own : beAt f.bytes 0 6 = portMac s p)
    (alien : frameEcpri f = false) : frameTake s p f = (slag (fecCounted s p f) 4 (frameCount f), []) :=
  (sound.counted.passes _ _ _ _).trans ((if_neg (portStays_counted stays)).trans ((if_neg (addressOwn_counted own _)).trans
    (if_pos (congrArg Bool.not alien))))

/-- A frame of one whole message, to the port's own address, goes on to the checks of its message. -/
theorem frameTake_message (sound : FrameSound s p f) (stays : portLeaving s p = false) (own : beAt f.bytes 0 6 = portMac s p)
    (single : beAt f.bytes 0 6 ≠ 2 ^ 48 - 1) (ecpri : frameEcpri f = true) {m : RxMsg}
    (one : splitMsgs 2300 (f.bytes.drop (frameHead f.bytes).1) = ([m], true, 0))
    (fits : (f.bytes.drop (frameHead f.bytes).1).length ≤ 9000) (whole : msgShort m = false) :
    frameTake s p f = takeMsg p (beAt f.bytes 6 6) (f.bytes.length + 4) (fecCounted s p f, []) m := by
  have taken : ¬ (!frameEcpri f) = true := by simp [ecpri]
  refine (sound.counted.passes _ _ _ _).trans ((if_neg (portStays_counted stays)).trans ((if_neg (addressOwn_counted own _)).trans
    ((if_neg taken).trans ?_)))
  rw [one, if_neg single, if_neg, if_neg]
  · rfl
  · exact lt_irrefl _
  · simpa [whole] using fits

end

/-! ### One message offered -/

/-- A state that differs in its lanes and in what Assay has snooped: the checks of a message read neither. -/
def received (s : State) (lanes : Lanes) (assay : List (Nat × AssayCtx)) : State :=
  { s with lanes := lanes, fh := { s.fh with assay := assay } }

theorem fecCounted_received (s : State) (p : Port) (f : FhFrame) : ∃ L, fecCounted s p f = received s L s.fh.assay := by
  unfold fecCounted
  split
  · exact ⟨_, rfl⟩
  · exact ⟨s.lanes, rfl⟩

theorem assaySnoop_received (s : State) (L : Lanes) (A : List (Nat × AssayCtx)) (i seq : Nat) (bs : List Byte) :
    ∃ B, assaySnoop (received s L A) i seq bs = received s L B := ⟨_, rfl⟩

theorem readSections_received (s : State) (L : Lanes) (A : List (Nat × AssayCtx)) (kind c k : Nat) :
    ∀ (n : Nat) (bs : List Byte), readSections (received s L A) kind c k n bs = readSections s kind c k n bs
  | 0, _ => rfl
  | n + 1, bs => by
    simp only [readSections, readSections_received s L A kind c k n]
    rfl

theorem parseMsg_received (s : State) (L : Lanes) (A : List (Nat × AssayCtx)) (m : RxMsg) :
    parseMsg (received s L A) m = parseMsg s m := by
  simp only [parseMsg, readSections_received]
  rfl

/-- A message with a body holds its flow key and sequence number (R132). -/
theorem msgShort_eq_false {s : State} {m : RxMsg} {x : Parsed} (parsed : parseMsg s m = .ok x) : msgShort m = false := by
  have long : ¬ (rxPayload m).length < 4 := fun short => by simp [parseMsg, short] at parsed
  simp [msgShort, long]

/-- A downlink message that passes the checks of its carrier, its symbol, its window, its layer and its blocks (R146). -/
structure Admits (s : State) (x : Parsed) : Prop where
  data : x.ctrl = false
  takes : takesKind s x = true
  dl : isDl s x.sym = true
  window : windowCause s x = none
  layer : layerShed s x = false
  blocks : overlaps s x = false

theorem Admits.received {s : State} {x : Parsed} (h : Admits s x) (L : Lanes) (A : List (Nat × AssayCtx)) (dom : Nat) :
    Admits (received s L A) { x with dom := dom } := ⟨h.data, h.takes, h.dl, h.window, h.layer, h.blocks⟩

/-- A type 0 message that is parsed is snooped and offered (R133, R146). -/
theorem takeMsg_offered {s : State} {m : RxMsg} {x : Parsed} (rev : m.rev = 1) (type : m.type = 0) (parsed : parseMsg s m = .ok x)
    (p : Port) (src n : Nat) (l : List (Parsed × List Byte)) : takeMsg p src n (s, l) m =
      let r := offerMsg (assaySnoop s (assayIndex (flowKey false x.cc x.kind x.id)) x.seq m.all) { x with dom := laneDom p.lane.val }
      (r.1, if r.2 then l ++ [(x, m.all)] else l) := by
  simp [takeMsg, rev, type, parsed]

/-- What the Tundish or a direct stream buffer keeps of a message (R145, R148). -/
def tundishMsg (x : Parsed) (credited : Bool) : HeldMsg :=
  { cc := x.cc, kind := x.kind, id := x.id, sym := x.sym, secs := x.secs, credited := credited, dom := x.dom }

/-- No book counts a KIND 1 message (R151). -/
theorem offerMsg_eq_offerCore {x : Parsed} (kind : x.kind = 1) (s : State) : offerMsg s x = offerCore s x := by
  unfold offerMsg
  extract_lets r id
  split
  · exact if_pos kind
  · rfl

/-- A KIND 1 message joins the direct stream buffers (R145). -/
theorem offerMsg_direct {s : State} {x : Parsed} (admits : Admits s x) (kind : x.kind = 1) :
    offerMsg s x = ({ s with fh := { s.fh with direct := s.fh.direct ++ [tundishMsg x false] } }, true) := by
  obtain ⟨data, takes, dl, window, layer, blocks⟩ := admits
  rw [offerMsg_eq_offerCore kind]
  simp [offerCore, holdMsg, tundishMsg, data, takes, dl, window, layer, blocks, kind]

/-! ### The credit book -/

/-- The first of a list that meets a condition, after a change of all that meet it, if it still meets it. -/
theorem find?_map_of_found {α : Type} {p : α → Bool} {f : α → α} {b : α} (kept : p (f b) = true) :
    ∀ {l : List α}, l.find? p = some b → (l.map fun x => if p x then f x else x).find? p = some (f b)
  | x :: xs, found => by
    by_cases hx : p x = true
    · obtain rfl : x = b := by simpa [List.find?_cons, hx] using found
      simp [hx, kept]
    · have later : xs.find? p = some b := by simpa [List.find?_cons, hx] using found
      simpa [List.find?_cons, hx] using find?_map_of_found kept later

/-- The book of a flow after a change that leaves it that flow's. -/
theorem bookOf_modBook {s : State} {c : Nat} {ctrl : Bool} {id : Nat} {b : Book} (found : bookOf s c ctrl id = some b) {f : Book → Book}
    (same : (f b).cc = b.cc ∧ (f b).ctrl = b.ctrl ∧ (f b).id = b.id) : bookOf (modBook s c ctrl id f) c ctrl id = some (f b) := by
  obtain ⟨cc, kind, flow⟩ := same
  have own := List.find?_some found
  exact find?_map_of_found (by rwa [cc, kind, flow]) found

/-- The message expected next advances the number expected and nothing else (R152). -/
theorem bookSeq_expected {b : Book} {seq : Nat} (next : b.nextSeq = some seq) :
    bookSeq seq b = { b with nextSeq := some ((seq + 1) % 256) } := by
  simp [bookSeq, seqGap, next, bookLost]

/-- A book with one arrival more, and one with one occupied slot more (R150). -/
def bookArrived (b : Book) : Book := { b with arrived := b.arrived + 1 }
def bookOccupied (b : Book) : Book := { b with occupied := b.occupied + 1 }

/-- A message's effect on its book is noted there with the count of its arrival (R153). -/
theorem offerMsg_noted {s : State} {x : Parsed} {b : Book} (data : x.ctrl = false) (kind : x.kind = 0)
    (found : bookOf s x.cc false x.id = some b) :
    offerMsg s x = (modBook (offerCore s x).1 x.cc false x.id (bookTally s.tb.now b), (offerCore s x).2) := by
  simp [offerMsg, data, kind, found]

/-- The blocks held stand when a book changes. -/
@[simp] theorem overlaps_modBook (s : State) (c : Nat) (ctrl : Bool) (id : Nat) (f : Book → Book) (x : Parsed) :
    overlaps (modBook s c ctrl id f) x = overlaps s x := rfl

/-- A flow whose book expects the message and has credit: the book takes the number, the arrival and the slot in turn (R151). -/
theorem offerCore_credited {s : State} {x : Parsed} {b : Book} (admits : Admits s x) (kind : x.kind = 0)
    (numbered : bookOf (modBook s x.cc false x.id (bookSeq x.seq)) x.cc false x.id = some b) (accepts : b.closing ≠ 2)
    (credit : 0 < bookHeld b) : offerCore s x = (holdMsg (modBook (modBook (modBook s x.cc false x.id (bookSeq x.seq))
      x.cc false x.id bookArrived) x.cc false x.id bookOccupied) x true, true) := by
  obtain ⟨data, takes, dl, window, layer, blocks⟩ := admits
  simp [offerCore, data, takes, dl, window, layer, blocks, kind, numbered, accepts, credit]
  rfl

/-- A KIND 0 message of a flow with credit joins the Tundish, and its book counts one arrival and one occupied slot (R148–R151). -/
theorem offerMsg_credited {s : State} {x : Parsed} {b : Book} (admits : Admits s x) (kind : x.kind = 0)
    (found : bookOf s x.cc false x.id = some b) (next : b.nextSeq = some x.seq) (open_ : b.closing = 0) (credit : 0 < bookHeld b) :
    ∃ t c, offerMsg s x = (t, true) ∧ t.fh.direct = s.fh.direct ∧ t.fh.held = s.fh.held ++ [tundishMsg x true] ∧
      bookOf t x.cc false x.id = some c ∧ c.arrived = b.arrived + 1 ∧ c.occupied = b.occupied + 1 ∧ c.limit = b.limit := by
  have expected := bookSeq_expected next
  have numbered := bookOf_modBook found (f := bookSeq x.seq) (by rw [expected]; exact ⟨rfl, rfl, rfl⟩)
  have arrived := bookOf_modBook numbered (f := bookArrived) ⟨rfl, rfl, rfl⟩
  have occupied := bookOf_modBook arrived (f := bookOccupied) ⟨rfl, rfl, rfl⟩
  have core := offerCore_credited admits kind numbered (by rw [expected]; simp [open_]) (by rwa [expected])
  rw [offerMsg_noted admits.data kind found, core]
  have hold : ∀ u : State, holdMsg u x true = { u with fh := { u.fh with
      held := u.fh.held ++ [tundishMsg x true], peak := max u.fh.peak (u.fh.held.length + 1) } } := fun u => by
    simp [holdMsg, tundishMsg, admits.data, kind]
  rw [hold]
  refine ⟨_, _, rfl, rfl, rfl, bookOf_modBook (f := bookTally s.tb.now b) occupied ⟨rfl, rfl, rfl⟩, ?_⟩
  rw [expected]
  exact ⟨rfl, rfl, rfl⟩

/-! ### The row -/

theorem exec_fhFrameRx {s : State} {p : Port} (up : portUp s p = true) (dt : Nat) (f : FhFrame) : exec (.fhFrameRx dt p f) s =
    .next ((frameTake (arrive dt s) p f).2.foldl sendCopies (frameTake (arrive dt s) p f).1) :=
  congrArg Host.Outcome.next (if_pos up)

/-- Copies are made of the messages of layers (R215). -/
theorem sendCopies_of_direct {x : Parsed × List Byte} (kind : x.1.kind = 1) (s : State) : sendCopies s x = s :=
  if_pos (.inr (by rw [kind]; decide))

theorem sendCopies_sent (s : State) (x : Parsed × List Byte) : CascadeSent s (sendCopies s x) := by
  unfold sendCopies
  extract_lets m
  split
  · exact .refl s
  · split
    · split
      · exact .refl s
      · refine .foldl (fun t y => ?_) _ s
        extract_lets l
        split
        · exact .refl t
        · exact sendData_sent t _ _ _ _ _ _ _ _
    · exact .refl s

theorem fhFrameRx_changes (dt : Nat) (p : Port) (f : FhFrame) (s : State) : changesOnly (withReports [.lanes, .fh, .run]) s
    ((frameTake (arrive dt s) p f).2.foldl sendCopies (frameTake (arrive dt s) p f).1) :=
  changesOnly_trans (changesOnly_mono (arrive_changes dt s) (by decide)) (changesOnly_trans
    (changesOnly_mono (frameTake_changes _ p f) (by decide))
    (changesOnly_foldl _ _ (fun t x => changesOnly_mono (sendCopies_changes t x) (by decide)) _ _))

/-- A frame discarded under a cause changes nothing else but the count of codewords corrected (R146). -/
theorem exec_fhFrameRx_discarded {s : State} {p : Port} (up : portUp s p = true) {dt : Nat} {f : FhFrame} {cause n : Nat}
    (took : frameTake (arrive dt s) p f = (slag (fecCounted (arrive dt s) p f) cause n, [])) :
    ∃ t, exec (.fhFrameRx dt p f) s = .next t ∧ t.tb.now = s.tb.now + dt ∧
      t.fh = { s.fh with slag := vmod s.fh.slag cause fun x => satTo 0xFFFFFFFF (x + n) } ∧
      (∀ m, laneOf t m = if portFecOn s p = true ∧ m = p.lane.val
        then { laneOf s m with fecCorr := min 0xFFFFFFFF ((laneOf s m).fecCorr + f.corrected) } else laneOf s m) ∧
      t.out = [] ∧ t.host.mem = s.host.mem ∧ changesOnly (withReports [.lanes, .fh]) s t := by
  have counted := fecCounted_changes (arrive dt s) p f
  rw [exec_fhFrameRx up, took]
  refine ⟨_, rfl, (congrArg Tb.now (counted .tb (by decide)) :), ?_, laneOf_fecCounted (arrive dt s) p f, counted .out (by decide),
    (congrArg HostIf.mem (counted .host (by decide)) :), changesOnly_trans (changesOnly_mono (arrive_changes dt s) (by decide))
      (changesOnly_trans (changesOnly_mono counted (by decide)) (changesOnly_mono (slag_changes _ cause n) (by decide)))⟩
  have fh : (fecCounted (arrive dt s) p f).fh = s.fh := counted .fh (by decide)
  rw [← fh]
  rfl

/-- A frame with an uncorrectable codeword counts in its lane too (R107). -/
theorem exec_fhFrameRx_fecBad {s : State} {p : Port} (up : portUp s p = true) {f : FhFrame} (long : 60 ≤ f.bytes.length)
    (fcs : f.fcsBad = false) (fec : f.fecBad = true) (on : portFecOn s p = true) (dt : Nat) :
    ∃ t, exec (.fhFrameRx dt p f) s = .next t ∧ t.fh.slag = (vmod s.fh.slag 1 fun x => satTo 0xFFFFFFFF (x + frameCount f)) ∧
      (laneOf t p.lane.val).fecUnc = min 0xFFFFFFFF ((laneOf s p.lane.val).fecUnc + 1) ∧ changesOnly (withReports [.lanes, .fh]) s t := by
  have took : frameTake (arrive dt s) p f = _ := frameTake_fecBad long fcs fec on
  have only := frameTake_changes (arrive dt s) p f
  rw [exec_fhFrameRx up]
  rw [took] at only ⊢
  refine ⟨_, rfl, ?_, ?_, changesOnly_trans (changesOnly_mono (arrive_changes dt s) (by decide)) (changesOnly_mono only (by decide))⟩
  · have fh : (fecCounted (arrive dt s) p f).fh = s.fh := fecCounted_changes _ p f .fh (by decide)
    rw [← fh]
    rfl
  · have same : (laneOf (fecCounted (arrive dt s) p f) p.lane.val).fecUnc = (laneOf s p.lane.val).fecUnc := by
      rw [laneOf_fecCounted]
      split <;> rfl
    rw [← same]
    exact (congrArg Lane.fecUnc (laneOf_modLane_same _ p.lane.isLt _)).trans (congrArg Lane.fecUnc (laneOf_modLane_same _ p.lane.isLt _))

/-- A frame of one type 0 message to the port's own address, which is parsed (R131–R142). -/
structure FrameCarries (s : State) (p : Port) (f : FhFrame) (m : RxMsg) (x : Parsed) : Prop where
  own : beAt f.bytes 0 6 = portMac s p
  single : beAt f.bytes 0 6 ≠ 2 ^ 48 - 1
  ecpri : frameEcpri f = true
  one : splitMsgs 2300 (f.bytes.drop (frameHead f.bytes).1) = ([m], true, 0)
  fits : (f.bytes.drop (frameHead f.bytes).1).length ≤ 9000
  rev : m.rev = 1
  type : m.type = 0
  parsed : parseMsg s m = .ok x

/-- Such a frame offers its message, in a state in which lanes and Assay alone have changed. -/
theorem frameTake_offered {s : State} {p : Port} {f : FhFrame} {m : RxMsg} {x : Parsed} (sound : FrameSound s p f)
    (stays : portLeaving s p = false) (carries : FrameCarries s p f m x) : ∃ L A, frameTake s p f =
      let r := offerMsg (received s L A) { x with dom := laneDom p.lane.val }
      (r.1, if r.2 then [(x, m.all)] else []) := by
  obtain ⟨own, single, ecpri, one, fits, rev, type, parsed⟩ := carries
  obtain ⟨L, counted⟩ := fecCounted_received s p f
  obtain ⟨A, snooped⟩ := assaySnoop_received s L s.fh.assay (assayIndex (flowKey false x.cc x.kind x.id)) x.seq m.all
  refine ⟨L, A, ?_⟩
  rw [frameTake_message sound stays own single ecpri one fits (msgShort_eq_false parsed), counted,
    takeMsg_offered rev type ((parseMsg_received s L s.fh.assay m).trans parsed), snooped]
  rfl

/-- A message that is held is copied to the cascade where its layer asks for it (R215). -/
theorem exec_fhFrameRx_held {s : State} {p : Port} (up : portUp s p = true) {dt : Nat} {f : FhFrame} {m : RxMsg} {x : Parsed}
    (sound : FrameSound s p f) (stays : portLeaving s p = false) (carries : FrameCarries (arrive dt s) p f m x) :
    ∃ L A, ∀ t, offerMsg (received (arrive dt s) L A) { x with dom := laneDom p.lane.val } = (t, true) →
      exec (.fhFrameRx dt p f) s = .next (sendCopies t (x, m.all)) ∧
      changesOnly (withReports [.lanes, .fh, .run]) s (sendCopies t (x, m.all)) := by
  obtain ⟨L, A, took⟩ := frameTake_offered (s := arrive dt s) ⟨sound.long, sound.fcs, sound.fec⟩ stays carries
  refine ⟨L, A, fun t offered => ?_⟩
  have only := fhFrameRx_changes dt p f s
  rw [took, offered] at only
  rw [exec_fhFrameRx up, took, offered]
  exact ⟨rfl, only⟩

theorem exec_fhFrameRx_direct {s : State} {p : Port} (up : portUp s p = true) {dt : Nat} {f : FhFrame} {m : RxMsg} {x : Parsed}
    (sound : FrameSound s p f) (stays : portLeaving s p = false) (carries : FrameCarries (arrive dt s) p f m x)
    (admits : Admits (arrive dt s) x) (kind : x.kind = 1) :
    ∃ t, exec (.fhFrameRx dt p f) s = .next t ∧ t.fh.slag = s.fh.slag ∧ t.fh.held = s.fh.held ∧ t.fh.books = s.fh.books ∧
      t.fh.direct = s.fh.direct ++ [tundishMsg { x with dom := laneDom p.lane.val } false] ∧
      changesOnly (withReports [.lanes, .fh, .run]) s t := by
  obtain ⟨L, A, held⟩ := exec_fhFrameRx_held up sound stays carries
  obtain ⟨run, only⟩ := held _ (offerMsg_direct (admits.received L A (laneDom p.lane.val)) kind)
  rw [sendCopies_of_direct (x := (x, m.all)) kind] at run only
  exact ⟨_, run, rfl, rfl, rfl, rfl, only⟩

theorem exec_fhFrameRx_credited {s : State} {p : Port} (up : portUp s p = true) {dt : Nat} {f : FhFrame} {m : RxMsg} {x : Parsed}
    (sound : FrameSound s p f) (stays : portLeaving s p = false) (carries : FrameCarries (arrive dt s) p f m x)
    (admits : Admits (arrive dt s) x) (kind : x.kind = 0) {b : Book} (found : bookOf s x.cc false x.id = some b)
    (next : b.nextSeq = some x.seq) (open_ : b.closing = 0) (credit : 0 < bookHeld b) :
    ∃ t c, exec (.fhFrameRx dt p f) s = .next t ∧ t.fh.direct = s.fh.direct ∧
      t.fh.held = s.fh.held ++ [tundishMsg { x with dom := laneDom p.lane.val } true] ∧
      bookOf t x.cc false x.id = some c ∧ c.arrived = b.arrived + 1 ∧ c.occupied = b.occupied + 1 ∧ c.limit = b.limit ∧
      changesOnly (withReports [.lanes, .fh, .run]) s t := by
  obtain ⟨L, A, offers⟩ := exec_fhFrameRx_held up sound stays carries
  obtain ⟨t, c, offered, direct, held, booked, arrived, occupied, limit⟩ :=
    offerMsg_credited (admits.received L A (laneDom p.lane.val)) kind (b := b) found next open_ credit
  obtain ⟨run, only⟩ := offers t offered
  have sent := sendCopies_sent t (x, m.all)
  refine ⟨_, c, run, sent.direct.trans direct, sent.held.trans held, ?_, arrived, occupied, limit, only⟩
  rw [bookOf, sent.books]
  exact booked

end Sys2Proof.Machine

open Sys2Proof Sys2Proof.Machine

/-- Settles O37: the checks of a frame in their order, and of one message that passes them by its KIND. -/
theorem framesAreDiscardedOrHeld : Obligations.FramesAreDiscardedOrHeld := by
  unfold Obligations.FramesAreDiscardedOrHeld
  refine ⟨fun dt p f s up => ?_, fun dt p f s m x up => ?_⟩
  · intro head ecpri n counted fails
    refine ⟨fun short => ?_, fun long fcs => ?_, fun long fcs fec leaves => ?_, fun long fcs fec on => ?_,
      fun long fcs fec stays other single => ?_, fun long fcs fec stays own alien => ?_⟩
    · have did := fecCounted_changes (arrive dt s) p f
      rw [exec_fhFrameRx up, frameTake_short short]
      exact ⟨_, rfl, (congrArg Tb.now (did .tb (by decide)) :), did .out (by decide), did .fh (by decide),
        laneOf_fecCounted (arrive dt s) p f,
        changesOnly_trans (changesOnly_mono (arrive_changes dt s) (by decide)) (changesOnly_mono did (by decide))⟩
    · exact exec_fhFrameRx_discarded up (frameTake_fcsBad long fcs)
    · exact exec_fhFrameRx_discarded up (frameTake_leaving ⟨long, fcs, fec⟩ leaves)
    · exact exec_fhFrameRx_fecBad up long fcs fec on dt
    · exact exec_fhFrameRx_discarded up (frameTake_foreign ⟨long, fcs, fec⟩ stays other single)
    · have took := frameTake_notEcpri (s := arrive dt s) ⟨long, fcs, fec⟩ stays own alien
      rw [show frameCount f = 1 from if_neg (by rw [show frameEcpri f = false from alien]; decide)] at took
      exact exec_fhFrameRx_discarded up took
  · intro a long fcs fec stays own single tags etype one fits rev type parsed data takes dl window layer blocks
    have sound : FrameSound s p f := ⟨long, fcs, .inl fec⟩
    have carries : FrameCarries a p f m x := ⟨own, single, by simp [frameEcpri, tags, etype], one, fits, rev, type, parsed⟩
    have admits : Admits a x := ⟨data, takes, dl, window, layer, blocks⟩
    refine ⟨fun kind => ?_, fun b kind found next open_ credit => ?_⟩
    · have held := exec_fhFrameRx_direct up sound stays carries admits kind
      rwa [tundishMsg, kind] at held
    · have held := exec_fhFrameRx_credited up sound stays carries admits kind found next open_ credit
      rwa [tundishMsg, kind] at held
end

section
/-! Pot faults (R195, R376, R377): what a counted fault makes of its pot, and what the end of a retest does. -/

namespace Sys2Proof.Machine

/-! ### The pot that faults -/

theorem potOf_modPot_same (s : State) {i : Nat} (h : i < 8) (f : Pot → Pot) : potOf (modPot s i f) i = f (potOf s i) :=
  vget_vmod_same _ h f _

theorem potOf_modPot_ne (s : State) {i j : Nat} (h : i ≠ j) (f : Pot → Pot) : potOf (modPot s i f) j = potOf s j := vget_vmod_ne _ h f _

/-- A pot with a further fault at a count, `l` the recent ones before it (R376, R377). -/
def potFaulted (now : Nat) (l : List Nat) (x : Pot) : Pot :=
  if l.length < 3 then { x with faults := now :: l, state := 1, testing := false, passed := false }
  else { x with faults := l, state := 2, retired := true, testing := false, passed := false }

/-- Of the Crucible a counted fault changes its pot alone: what it reports lies outside. -/
theorem potCount_cru (s : State) (i : Nat) :
    (potCount s i).cru = (modPot s i (potFaulted s.tb.now (recent s.tb.now (potOf s i).faults))).cru := by
  unfold potCount potFaulted
  extract_lets l
  split
  · exact noteFault_changes _ 1 i _ .cru (by decide)
  · exact noteRetired_changes _ 1 i 1 .cru (by decide)

theorem potOf_potCount (s : State) {i : Nat} (h : i < 8) :
    potOf (potCount s i) i = potFaulted s.tb.now (recent s.tb.now (potOf s i).faults) (potOf s i) := by
  rw [potOf, potCount_cru]
  exact potOf_modPot_same s h _

theorem potCount_units (s : State) (i : Nat) : (potCount s i).cru.units = s.cru.units := by
  rw [potCount_cru]
  rfl

/-- The pot after a fault of pot i is counted, by the faults less than 60 s old: three of them retire it (R377). -/
structure PotCounted (s t : State) (i : Nat) : Prop where
  transient : (recent t.tb.now (potOf s i).faults).length < 3 → (potOf t i).state = 1 ∧ (potOf t i).retired = (potOf s i).retired
  permanent : 3 ≤ (recent t.tb.now (potOf s i).faults).length → (potOf t i).state = 2 ∧ (potOf t i).retired = true
  ended : (potOf t i).testing = false

/-- A counted fault tells of the pot as it was in any earlier state that held the same pot. -/
theorem potCounted_potCount {s u : State} {i : Nat} (h : i < 8) (same : potOf u i = potOf s i) : PotCounted s (potCount u i) i := by
  have now : (potCount u i).tb.now = u.tb.now := congrArg Tb.now (potCount_changes u i .tb (by decide))
  have pot := potOf_potCount u h
  rw [same] at pot
  by_cases few : (recent u.tb.now (potOf s i).faults).length < 3
  · rw [potFaulted, if_pos few] at pot
    refine ⟨fun _ => ?_, fun many => ?_, by rw [pot]⟩
    · rw [pot]
      exact ⟨rfl, rfl⟩
    · rw [now] at many
      omega
  · rw [potFaulted, if_neg few] at pot
    refine ⟨fun fewer => ?_, fun _ => ?_, by rw [pot]⟩
    · rw [now] at fewer
      omega
    · rw [pot]
      exact ⟨rfl, rfl⟩

/-! ### The rows -/

/-- A pot in service reports its fault, gives up its units and counts the fault (R195). -/
theorem exec_potFault {s : State} {i : Fin 8} (on : domOn s 8 = true) (lives : (potOf s i).retired = false)
    (works : (potOf s i).state ≠ 1) (dt : Nat) (r : Bool) : ∃ data, exec (.potFault dt i r) s =
    .next (potCount (potStop (post (arrive dt s) 0x0201 0 i data) i) i) := by
  refine ⟨_, congrArg Host.Outcome.next (if_neg ?_)⟩
  rintro (off | retired | stopped)
  · rw [show domOn (arrive dt s) 8 = true from on] at off
    contradiction
  · rw [show (potOf (arrive dt s) i).retired = false from lives] at retired
    contradiction
  · exact works stopped

/-- The end of a retest, by its result (R376). -/
theorem exec_potRetestEnd {s : State} {i : Fin 8} (testing : (potOf s i).testing = true) (dt : Nat) (pass : Bool) :
    exec (.potRetestEnd dt i pass) s = .next (if pass then modPot (arrive dt s) i fun p => { p with testing := false, passed := true }
      else potCount (arrive dt s) i) := by
  refine congrArg Host.Outcome.next (if_neg ?_)
  rw [show (potOf (arrive dt s) i).testing = true from testing]
  decide

end Sys2Proof.Machine

open Sys2Proof Sys2Proof.Machine

/-- Settles O32: a fault and a failed retest count alike, a passed retest leaves the pot waiting. -/
theorem potFaultDealsUnitsAndRetestEnds : Obligations.PotFaultDealsUnitsAndRetestEnds := by
  unfold Obligations.PotFaultDealsUnitsAndRetestEnds
  intro counted
  refine ⟨fun dt i r s on lives works => ?_, fun dt i s testing => ?_, fun dt i s testing => ?_⟩
  · obtain ⟨data, run⟩ := exec_potFault on lives works dt r
    let reported := post (arrive dt s) 0x0201 0 i data
    have report := post_changes (arrive dt s) 0x0201 0 i data
    have cru : reported.cru = s.cru := report .cru (by decide)
    have pots : potOf (potStop reported i) i = potOf s i := (congrArg (fun x : Cru => vget x.pot i.val {}) cru :)
    obtain ⟨transient, permanent, -⟩ := potCounted_potCount i.isLt pots
    refine ⟨_, run, ⟨transient, permanent⟩, ?_, ?_⟩
    · rw [potCount_units]
      exact vget_vmod_same _ i.isLt _ _
    · exact changesOnly_trans (changesOnly_mono (arrive_changes dt s) (by decide)) (changesOnly_trans
        (changesOnly_mono report (by decide)) (changesOnly_trans (changesOnly_mono (potStop_changes reported i) (by decide))
          (changesOnly_mono (potCount_changes _ i) (by decide))))
  · exact ⟨_, exec_potRetestEnd testing dt true, potOf_modPot_same (arrive dt s) i.isLt _,
      fun j other => potOf_modPot_ne (arrive dt s) (Ne.symm other) _, rfl,
      changesOnly_trans (changesOnly_mono (arrive_changes dt s) (by decide)) (changesOnly_mono (modPot_changes _ i _) (by decide))⟩
  · obtain ⟨transient, permanent, ended⟩ := potCounted_potCount (s := s) (u := arrive dt s) i.isLt rfl
    exact ⟨_, exec_potRetestEnd testing dt false, ⟨transient, permanent⟩, ended,
      changesOnly_trans (changesOnly_mono (arrive_changes dt s) (by decide)) (changesOnly_mono (potCount_changes _ i) (by decide))⟩
end

section
/-! The ends of captures and of the wait for an LO (R198, R256, R277, R286–R288): the words in their memory, and the command gone from
the list. -/

namespace Sys2Proof.Machine

/-! ### The command that ends -/

theorem runningOf_eq_some {s : State} {ref : CmdRef} {op : Nat} {c : Cmd} (found : runningOf s ref op = some c) :
    cmdOf s ref = some c ∧ dOp c.d = op ∧ cmdRuns c = true := by
  simpa [runningOf, Option.filter_eq_some_iff, and_assoc] using found

/-- After its end no command of that number is left (R71). -/
theorem cmdEnd_gone (s : State) (c : Cmd) (status : Nat) (trunc : Bool) :
    ∀ x ∈ (cmdEnd s c status trunc).host.cmds, x.seq ≠ c.seq := by
  simp [cmdEnd_cmds]

theorem cmdDone_gone (s : State) (c : Cmd) : ∀ x ∈ (cmdDone s c).host.cmds, x.seq ≠ c.seq := by
  simp [cmdDone_cmds]

/-! ### Captures that end -/

theorem captureFinish_gone (s : State) (c : Cmd) (l : List CapWord) : ∀ x ∈ (captureFinish s c l).host.cmds, x.seq ≠ c.seq :=
  cmdDone_gone _ _

/-- Giving back the ORx leaves the capture memories. -/
theorem capRelease_ldl (s : State) (c : Cmd) : (capRelease s c).ldl = s.ldl := capRelease_changes s c .ldl (by decide)

/-- A capture of receive paths fills the receive buffer (R287). -/
theorem captureFinish_receive (s : State) {c : Cmd} (target : dB c.d 16 ≠ 3) (l : List CapWord) :
    (captureFinish s c l).rx.capBytes = capBytesOf s c.d c.note.toNat (dB c.d 17) ∧
    (captureFinish s c l).ldl = { s.ldl with
      rxCap := captureWrite s.ldl.rxCap 0 (capBytesOf s c.d c.note.toNat (dB c.d 17)) (capWord s c) l } := by
  have kept : capRelease s c = s := if_neg target
  simp only [captureFinish, kept, if_neg target, cmdDone_rx, cmdDone_ldl, and_self]

/-- A capture at an ORx fills the ORx buffer (R288). -/
theorem captureFinish_orx (s : State) {c : Cmd} (target : dB c.d 16 = 3) (l : List CapWord) :
    (captureFinish s c l).ldl = { s.ldl with
      orxCap := captureWrite s.ldl.orxCap 0 (capBytesOf s c.d c.note.toNat (dB c.d 17)) (fun w => w.word.toNat) l } := by
  simp only [captureFinish, if_pos target, cmdDone_ldl, capRelease_ldl]

/-! ### The rows -/

theorem exec_captureEnd {s : State} {ref : CmdRef} {c : Cmd} (runs : runningOf s ref 0x0041 = some c) {dt : Nat}
    (passed : dB c.d 17 ≤ capDone (arrive dt s) c) (l : List CapWord) :
    exec (.captureEnd dt ref l) s = .next (captureFinish (arrive dt s) c l) := by
  change execCaptureEnd dt ref l s = _
  have found : runningOf (arrive dt s) ref 0x0041 = some c := runs
  simp only [execCaptureEnd, found, if_pos passed]

/-- The state that a sounding capture's words are written into DRAM of (R198). -/
def sounded (s : State) (c : Cmd) (l : List CapWord) : State :=
  { s with ldl := { s.ldl with dram := captureWrite s.ldl.dram (dQ c.d 24) (soundBytes c.d) (soundWord s c) l } }

theorem sounded_changes (s : State) (c : Cmd) (l : List CapWord) : changesOnly [.dev, .ldl] s (sounded s c l) :=
  (changesOnly_set_ldl (by decide) (.inl (by decide))).2 (changesOnly_refl _ s)

theorem exec_soundingCaptureEnd {s : State} {ref : CmdRef} {c : Cmd} {due : Option Nat} (found : cmdOf s ref = some c)
    (stage : c.stage = .running due) (op : dOp c.d = 0x0052) {dt : Nat}
    (passed : c.note.toNat + dB c.d 17 ≤ symNow (arrive dt s)) (l : List CapWord) :
    ∃ result, exec (.soundingCaptureEnd dt ref l) s = .next (cmdDone (sounded (arrive dt s) c l) { c with result := result }) := by
  change ∃ result, execSoundingCaptureEnd dt ref l s = _
  have listed : cmdOf (arrive dt s) ref = some c := found
  simp only [execSoundingCaptureEnd, listed, stage, if_pos (And.intro op passed)]
  exact ⟨_, rfl⟩

theorem exec_captureNoGrant {s : State} {ref : CmdRef} {c : Cmd} {due : Nat} (runs : runningOf s ref 0x0041 = some c)
    (stage : c.stage = .running (some due)) (ungranted : c.note = 0) : exec (.captureNoGrant ref) s =
      .next (cmdEnd (capRelease (arriveAt due s) c) { c with cause := 67, result := 0 } 2) := by
  change execCaptureNoGrant ref s = _
  simp only [execCaptureNoGrant, runs, stage, if_pos ungranted]

theorem exec_loTimeout {s : State} {ref : CmdRef} {c : Cmd} {due : Nat} (found : cmdOf s ref = some c)
    (stage : c.stage = .running (some due)) (op : dOp c.d = 0x0030) :
    exec (.loTimeout ref) s = .next (cmdDone (arriveAt due s) { c with cause := 65 }) := by
  change Host.Outcome.next (loTimeout ref s) = _
  simp only [loTimeout, found, stage, if_pos op]

end Sys2Proof.Machine

open Sys2Proof Sys2Proof.Machine

/-- Settles O35: an end takes its command from the list, that of a capture after its words are written. -/
theorem capturesEndWithTheirData : Obligations.CapturesEndWithTheirData := by
  unfold Obligations.CapturesEndWithTheirData
  intro gone
  refine ⟨fun dt ref l s c runs passed => ?_, fun dt ref l s c due found stage op passed => ?_,
    fun ref s c due runs stage ungranted => ?_, fun ref s c due found stage op => ?_⟩
  · refine ⟨_, exec_captureEnd runs passed l, captureFinish_gone _ c l, fun receive => ?_, fun orx => ?_, ?_,
      changesOnly_trans (changesOnly_mono (arrive_changes dt s) (by decide))
        (changesOnly_mono (captureFinish_changes _ c l) (by decide))⟩
    · obtain ⟨bytes, ldl⟩ := captureFinish_receive (arrive dt s) receive l
      rw [bytes, ldl]
      exact ⟨rfl, rfl, rfl⟩
    · rw [captureFinish_orx (arrive dt s) orx l]
      exact ⟨rfl, rfl⟩
    · by_cases target : dB c.d 16 = 3
      · rw [captureFinish_orx (arrive dt s) target l]
        rfl
      · rw [(captureFinish_receive (arrive dt s) target l).2]
        rfl
  · obtain ⟨result, run⟩ := exec_soundingCaptureEnd found stage op passed l
    refine ⟨_, run, cmdDone_gone _ _, ?_, ?_, changesOnly_trans (changesOnly_mono (arrive_changes dt s) (by decide)) (changesOnly_trans
      (changesOnly_mono (sounded_changes _ c l) (by decide)) (changesOnly_mono (cmdDone_changes _ _) (by decide)))⟩ <;>
    · rw [cmdDone_ldl]
      rfl
  · have left := capRelease_changes (arriveAt due s) c
    refine ⟨_, exec_captureNoGrant runs stage ungranted, cmdEnd_gone _ _ 2 false, ?_, changesOnly_trans
      (changesOnly_mono (arriveAt_changes due s) (by decide)) (changesOnly_trans (changesOnly_mono left (by decide))
        (changesOnly_mono (cmdEnd_changes _ _ 2 false) (by decide)))⟩
    rw [cmdEnd_tb, ← arriveAt_now]
    exact congrArg Tb.now (left .tb (by decide))
  · refine ⟨_, exec_loTimeout found stage op, cmdDone_gone _ _, ?_, cmdDone_tx _ _, changesOnly_trans
      (changesOnly_mono (arriveAt_changes due s) (by decide)) (changesOnly_mono (cmdDone_changes _ _) (by decide))⟩
    rw [cmdDone_tb, arriveAt_now]
end

section
/-! Pour frames that are taken (R191, R192, R207, R209, R210, R215, R216): what each class does with a valid frame, and what the lane and
the side keep of it. -/

namespace Sys2Proof.Machine

/-! ### Valid frames -/

/-- A valid frame ends the lane's run of bad ones, whether or not the POUR detector clears (R209). -/
theorem badPour_pourGood (s : State) {d lane : Nat} (h : 16 + 12 * d + lane < 40) :
    (laneOf (pourGood s d lane) (16 + 12 * d + lane)).badPour = 0 := by
  unfold pourGood
  extract_lets l u
  have ended : (laneOf u l).badPour = 0 := congrArg Lane.badPour (laneOf_modLane_same s h _)
  split
  · have trains : ¬ clearTrains u l .pour := fun c => absurd c.2.1 (by decide)
    have cleared := (detectorClear_lane u h .pour).1
    rw [if_neg trains] at cleared
    rw [cleared]
    exact ended
  · exact ended

/-- Outside the lanes a valid frame leaves what its class has made of it. -/
theorem pourGood_keeps (s : State) (d lane : Nat) : (pourGood s d lane).fh = s.fh ∧ (pourGood s d lane).cru = s.cru ∧
    (pourGood s d lane).run = s.run :=
  have only := pourGood_changes s d lane
  ⟨only .fh (by decide), only .cru (by decide), only .run (by decide)⟩

/-- A valid frame counts as none discarded and begins the lane's run of bad frames at 0 (R209). -/
def PourTaken (s t : State) (d lane : Nat) : Prop :=
  (sideOf t d).disc = (sideOf s d).disc ∧ (laneOf t (16 + 12 * d + lane)).badPour = 0

theorem pourTaken_pourGood {s u : State} {d lane : Nat} (h : 16 + 12 * d + lane < 40) (side : u.run.side = s.run.side) :
    PourTaken s (pourGood u d lane) d lane := by
  obtain ⟨-, -, run⟩ := pourGood_keeps u d lane
  refine ⟨?_, badPour_pourGood u h⟩
  rw [sideOf, run, side, sideOf]

/-! ### Partial sums -/

/-- A record is of the symbol for which it is read. -/
theorem sym_of_psumRead {s : State} {h k : Nat} {bs : List Byte} {p : Psum} (read : psumRead s h k bs = some p) : p.sym = k := by
  unfold psumRead at read
  extract_lets w0 w1 c start num vals len at read
  split at read
  · cases read
  · obtain ⟨vs, -, rfl⟩ := Option.map_eq_some_iff.1 read
    rfl

/-- A record kept until its window is combined (R192). -/
def psumKept (s : State) (p : Psum) : State := { s with cru := { s.cru with psums := s.cru.psums ++ [p] } }

/-- A record of a coming symbol of a layer that this member combines is kept (R192). -/
theorem psumTake_kept {s : State} {h : Nat} {bs : List Byte} {p : Psum} {e : Entry}
    (read : psumRead s h (symNamed s (s.cru.ulSym - 14) (bits h 50 32)) bs = some p) (here : entryAt s p.cc 1 p.layer p.sym = some e)
    (shed : e.shed = false) (coming : s.cru.ulSym < p.sym) (d lane : Nat) :
    psumTake s d lane h bs = (psumKept s p, true) := by
  have sym := sym_of_psumRead read
  rw [sym] at here coming
  unfold psumTake
  extract_lets k
  rw [read]
  simp only [k, here]
  exact if_neg (by rw [shed]; rintro (gone | past | open_) <;> [cases gone; omega; omega])

/-! ### Downlink copies -/

/-- A message of a layer held here that a copy brings in time, of blocks not yet held (R146, R215). -/
structure CopyAdmits (s : State) (x : Parsed) (e : Entry) : Prop where
  data : x.ctrl = false
  kind : x.kind = 0
  present : x.past = false
  inTime : s.tb.now + 26419 ≤ tickT s x.sym
  here : entryAt s x.cc 0 x.id x.sym = some e
  placed : e.shed = false
  takes : takesKind s x = true
  blocks : overlaps s x = false

theorem CopyAdmits.received {s : State} {x : Parsed} {e : Entry} (h : CopyAdmits s x e) (L : Lanes) (A : List (Nat × AssayCtx)) :
    CopyAdmits (received s L A) x e := ⟨h.data, h.kind, h.present, h.inTime, h.here, h.placed, h.takes, h.blocks⟩

/-- A KIND 0 message held is in the Tundish, and no book counts it (R215). -/
theorem holdMsg_uncredited (s : State) {x : Parsed} (data : x.ctrl = false) (kind : x.kind = 0) :
    holdMsg s x false = { s with fh := { s.fh with
      held := s.fh.held ++ [tundishMsg x false], peak := max s.fh.peak (s.fh.held.length + 1) } } := by
  simp [holdMsg, tundishMsg, data, kind]

/-- Such a copy is held without credit; what is sent on leaves the Tundish (R215). -/
theorem copyTake_held {s : State} {bs : List Byte} {m : RxMsg} {k : List RxMsg} {x : Parsed} {e : Entry}
    (carried : (splitMsgs 2 bs).1 = m :: k) (parsed : parseMsg s m = .ok x) (admits : CopyAdmits s x e) (d lane h : Nat) :
    ∃ t, copyTake s d lane h bs = (t, true) ∧ CascadeSent (holdMsg s x false) t := by
  obtain ⟨data, kind, present, inTime, here, placed, takes, blocks⟩ := admits
  have valid : ¬ ((x.ctrl = true ∨ x.kind ≠ 0 ∨ x.past = true ∨ tickT s x.sym < s.tb.now + 26419)) := by
    rw [data, kind, present]
    simpa using inTime
  simp only [copyTake, carried, parsed, if_neg valid, here, placed, takes, blocks]
  refine ⟨_, rfl, ?_⟩
  simp only [Bool.false_eq_true, Bool.not_true, if_false]
  split
  · exact sendData_sent _ _ _ _ _ _ _ _ _
  · exact .refl _

/-! ### TICK -/

/-- A control frame sent on counts in its stream alone (R206, R210). -/
theorem passOn_run (s : State) (d sub symid : Nat) (bs : List Byte) :
    ∃ q, (passOn s d sub symid bs).run = { s.run with seqTx := q } := by
  unfold passOn
  split
  · exact ⟨_, rfl⟩
  · exact ⟨_, rfl⟩

/-! ### The row -/

theorem exec_pourFrameRx {s : State} {d : Fin 2} {l : Fin 12} (up : laneIsUp s (16 + 12 * d.val + l.val) = true) (on : domOn s 6 = true)
    (dt : Nat) (f : PourFrame) : exec (.pourFrameRx dt d l f) s = .next (pourTake (arrive dt s) d l f) := by
  have runs : ¬ (!domOn (arrive dt s) 6) = true := by
    rw [show domOn (arrive dt s) 6 = true from on]
    decide
  exact congrArg Host.Outcome.next ((if_neg runs).trans (if_pos up))

/-- On a lane that is not UP and leaves no distribution nothing is received. -/
theorem exec_pourFrameRx_down {s : State} {d : Fin 2} {l : Fin 12} (down : laneIsUp s (16 + 12 * d.val + l.val) = false)
    (stays : (laneOf s (16 + 12 * d.val + l.val)).leaveIn = 0) (dt : Nat) (f : PourFrame) :
    exec (.pourFrameRx dt d l f) s = .next (arrive dt s) := by
  change execPourFrameRx dt d l f s = _
  have isDown : laneIsUp (arrive dt s) (16 + 12 * d.val + l.val) = false := down
  have isIn : (laneOf (arrive dt s) (16 + 12 * d.val + l.val)).leaveIn = 0 := stays
  simp [execPourFrameRx, isDown, isIn]

section
variable {f : PourFrame} (frame : pourBadFrame f = false) (header : pourBadHeader f = false) (s : State) (d lane : Nat)
include frame header

/-- A frame that breaks neither R206 nor R207 is snooped, acts by its class, and ends valid or discarded as its class answers. -/
theorem pourTake_class : ∃ A,
    let u := received s s.lanes A
    let ends := fun (r : State × Bool) => if r.2 then pourGood r.1 d lane else pourDrop r.1 d lane
    (bits f.hdr.toNat 2 0 = 0 → pourTake s d lane f = ends (copyTake u d lane f.hdr.toNat f.payload)) ∧
    (bits f.hdr.toNat 2 0 = 1 → pourTake s d lane f = ends (psumTake u d lane f.hdr.toNat f.payload)) ∧
    (bits f.hdr.toNat 2 0 = 2 → pourTake s d lane f =
      ends (ctrlTake u d (bits f.hdr.toNat 7 3) (bits f.hdr.toNat 50 32) f.payload, true)) := by
  obtain ⟨A, snooped⟩ := assaySnoop_received s s.lanes s.fh.assay (0x2000 + (d * 256 + lane * 8 + bits f.hdr.toNat 2 0))
    (bits f.hdr.toNat 15 8) (bytesLE 12 f.hdr.toNat ++ f.payload)
  have snoop : assaySnoop s _ _ _ = _ := snooped
  refine ⟨A, fun cls => ?_, fun cls => ?_, fun cls => ?_⟩ <;>
  · rw [cls] at snoop
    simp only [pourTake, frame, header, cls, snoop, Nat.reduceLT, Bool.false_eq_true, if_false]

theorem pourTake_psum (cls : bits f.hdr.toNat 2 0 = 1) {p : Psum} {e : Entry}
    (read : psumRead s f.hdr.toNat (symNamed s (s.cru.ulSym - 14) (bits f.hdr.toNat 50 32)) f.payload = some p)
    (here : entryAt s p.cc 1 p.layer p.sym = some e) (shed : e.shed = false) (coming : s.cru.ulSym < p.sym) :
    ∃ A, pourTake s d lane f = pourGood (psumKept (received s s.lanes A) p) d lane := by
  obtain ⟨A, -, psum, -⟩ := pourTake_class frame header s d lane
  refine ⟨A, (psum cls).trans ?_⟩
  rw [psumTake_kept (s := received s s.lanes A) read here shed coming d lane]
  rfl

theorem pourTake_copy (cls : bits f.hdr.toNat 2 0 = 0) {m : RxMsg} {k : List RxMsg} {x : Parsed} {e : Entry}
    (carried : (splitMsgs 2 f.payload).1 = m :: k) (parsed : parseMsg s m = .ok x) (admits : CopyAdmits s x e) :
    ∃ t, pourTake s d lane f = pourGood t d lane ∧ t.fh.held = s.fh.held ++ [tundishMsg x false] ∧ t.fh.books = s.fh.books ∧
      t.run.side = s.run.side := by
  obtain ⟨A, copy, -, -⟩ := pourTake_class frame header s d lane
  obtain ⟨t, took, sent⟩ := copyTake_held carried ((parseMsg_received s s.lanes A m).trans parsed) (admits.received s.lanes A)
    d lane f.hdr.toNat
  rw [holdMsg_uncredited _ admits.data admits.kind] at sent
  refine ⟨t, (copy cls).trans ?_, sent.held, sent.books, sent.side⟩
  rw [took]
  rfl

theorem pourTake_tick (cls : bits f.hdr.toNat 2 0 = 2) (tick : bits f.hdr.toNat 7 3 = 2) (member : s.gen.master = false) :
    ∃ t q, pourTake s d lane f = pourGood t d lane ∧ t.run = { s.run with missedTicks := 0, seqTx := q } := by
  obtain ⟨A, -, -, ctrl⟩ := pourTake_class frame header s d lane
  let cleared : State := { received s s.lanes A with run := { s.run with missedTicks := 0 } }
  have took : ctrlTake (received s s.lanes A) d 2 (bits f.hdr.toNat 50 32) f.payload =
      passOn cleared d 2 (bits f.hdr.toNat 50 32) f.payload :=
    if_neg (by rw [show (received s s.lanes A).gen.master = false from member]; decide)
  obtain ⟨q, run⟩ := passOn_run cleared d 2 (bits f.hdr.toNat 50 32) f.payload
  refine ⟨_, q, (ctrl cls).trans ?_, run⟩
  rw [tick, took]
  rfl

end

end Sys2Proof.Machine

open Sys2Proof Sys2Proof.Machine

/-- Settles O41: a frame on an UP lane stays within the cascade's parts, and a valid one is taken by its class. -/
theorem pourFramesAreTakenByClass : Obligations.PourFramesAreTakenByClass := by
  unfold Obligations.PourFramesAreTakenByClass
  refine ⟨fun dt d l f s up on => ?_, fun dt d l f s up on frame header => ?_, fun dt d l f s down stays => ?_⟩
  · have only := pourTake_changes (arrive dt s) d l f
    exact ⟨_, exec_pourFrameRx up on dt f, (congrArg Tb.now (only .tb (by decide)) :),
      changesOnly_trans (changesOnly_mono (arrive_changes dt s) (by decide)) (changesOnly_mono only (by decide))⟩
  · intro h a taken
    have lane : 16 + 12 * d.val + l.val < 40 := by omega
    rw [exec_pourFrameRx up on dt f]
    refine ⟨fun p e cls read here shed coming => ?_,
      fun m k x e cls carried parsed data kind present inTime here placed takes blocks => ?_, fun cls tick member => ?_⟩
    · obtain ⟨A, took⟩ := pourTake_psum frame header a d l cls read here shed coming
      obtain ⟨fh, cru, -⟩ := pourGood_keeps (psumKept (received a a.lanes A) p) d l
      rw [took]
      exact ⟨_, rfl, cru, (congrArg Fh.slag fh :), pourTaken_pourGood lane rfl⟩
    · obtain ⟨t, took, held, books, side⟩ :=
        pourTake_copy frame header a d l cls carried parsed ⟨data, kind, present, inTime, here, placed, takes, blocks⟩
      obtain ⟨fh, -, -⟩ := pourGood_keeps t d l
      rw [tundishMsg, kind] at held
      rw [took]
      exact ⟨_, rfl, (congrArg Fh.held fh).trans held, (congrArg Fh.books fh).trans books, pourTaken_pourGood lane side⟩
    · obtain ⟨t, q, took, run⟩ := pourTake_tick frame header a d l cls tick member
      obtain ⟨-, -, good⟩ := pourGood_keeps t d l
      rw [took]
      exact ⟨_, rfl, (congrArg Run.missedTicks (good.trans run) :), (congrArg Run.state (good.trans run) :),
        pourTaken_pourGood lane (congrArg Run.side run :)⟩
  · exact ⟨_, exec_pourFrameRx_down down stays dt f, rfl, arrive_changes dt s⟩
end

section
/-! The timeouts of the flask (R46, R204): a conflict set and requests withdrawn, and what both leave of the flask's state. -/

namespace Sys2Proof.Machine

/-! ### Requests withdrawn -/

/-- Of a flask's state only its requests and the sequence numbers of what it sends change. -/
def OnlyRequests (s t : State) : Prop := t.run = { s.run with modeReqs := t.run.modeReqs, seqTx := t.run.seqTx }

theorem OnlyRequests.of_run {s t : State} (h : t.run = s.run) : OnlyRequests s t := by rw [OnlyRequests, h]

theorem OnlyRequests.trans {s t u : State} (h : OnlyRequests s t) (k : OnlyRequests t u) : OnlyRequests s u := by
  rw [OnlyRequests, k, h]

theorem sendCtl_run (s : State) (d sub : Nat) (payload : List Byte) :
    ∃ n, (sendCtl s d sub payload).run = { s.run with seqTx := n } := by
  unfold sendCtl
  split <;> exact ⟨_, rfl⟩

theorem toMaster_run (s : State) (sub : Nat) (payload : List Byte) :
    ∃ n, (toMaster s sub payload).run = { s.run with seqTx := n } := by
  unfold toMaster
  split
  · exact ⟨_, rfl⟩
  · exact sendCtl_run s _ sub payload

theorem outward_run (s : State) (sub : Nat) (payload : List Byte) :
    ∃ n, (outward s sub payload).run = { s.run with seqTx := n } := by
  obtain ⟨_, first⟩ := sendCtl_run s 0 sub payload
  obtain ⟨n, second⟩ := sendCtl_run (sendCtl s 0 sub payload) 1 sub payload
  exact ⟨n, second.trans (by rw [first])⟩

/-- The word of a withdrawal leaves the requests themselves (R46). -/
theorem reqWithdraw_run (s : State) (q : FlkReq) : ∃ n, (reqWithdraw s q).run = { s.run with seqTx := n } := by
  unfold reqWithdraw
  extract_lets bytes
  split
  · exact outward_run s 5 bytes
  · split
    · exact toMaster_run s 5 bytes
    · exact ⟨_, rfl⟩

theorem flkDeny_run (s : State) (q : FlkReq) :
    (flkDeny s q).run = { s.run with modeReqs := s.run.modeReqs.filter fun x => !(x == q) } :=
  reqRefuse_changes _ q _ .run (by decide)

/-- Denied, the only request leaves none (R46). -/
theorem flkDeny_only {s : State} {q : FlkReq} (only : s.run.modeReqs = [q]) : (flkDeny s q).run.modeReqs = [] := by
  rw [flkDeny_run, only]
  simp

theorem reqWithdraw_flkDeny_onlyRequests (s : State) (q : FlkReq) : OnlyRequests s (flkDeny (reqWithdraw s q) q) := by
  obtain ⟨n, sent⟩ := reqWithdraw_run s q
  rw [OnlyRequests, flkDeny_run, sent]

/-- Without requests nothing goes on. -/
theorem flkPump_of_noRequests {s : State} (empty : s.run.modeReqs = []) : flkPump s = s := by
  simp [flkPump, flkTake, empty]

/-! ### Conflict -/

/-- A conflict withdraws requests and keeps what it has noted (R204). -/
theorem conflictSet_noted {s : State} (fresh : s.run.state ≠ .conflict) (code id : Nat) :
    let t := conflictSet s code id
    t.run.state = .conflict ∧ t.run.conflict = code ∧ t.run.conflictId = id ∧ t.run.ready = false := by
  intro t
  let noted : State := { s with run := { s.run with state := .conflict, conflict := code, conflictId := id, ready := false } }
  have kept : OnlyRequests noted t := by
    unfold t conflictSet
    rw [if_neg fresh]
    exact List.foldlRecOn (motive := OnlyRequests noted) _ _ (.of_run (flkEvent_changes noted 5 code id .run (by decide)))
      fun u before q _ => before.trans (reqWithdraw_flkDeny_onlyRequests u q)
  exact ⟨congrArg Run.state kept, congrArg Run.conflict kept, congrArg Run.conflictId kept, congrArg Run.ready kept⟩

/-! ### The rows -/

theorem exec_noMasterTimeout {s : State} {k : Nat} (known : s.run.knownAt = some k) (seeks : s.run.state = .discovering)
    (member : s.gen.master = false) (alone : masterSide s = none) (dt : Nat) :
    exec (.noMasterTimeout dt) s =
      .next (if k + 491520000 ≤ s.tb.now + dt then conflictSet (arrive dt s) 2 (ownId s) else arrive dt s) := by
  change execNoMasterTimeout dt s = _
  have side : masterSide (arrive dt s) = none := alone
  have now : (arrive dt s).tb.now = s.tb.now + dt := rfl
  have own : ownId (arrive dt s) = ownId s := rfl
  simp [execNoMasterTimeout, known, seeks, member, side, now, own]

theorem exec_modeAckTimeout {s : State} {q : FlkReq} (only : s.run.modeReqs = [q]) (announced : q.sym.isSome = true)
    (change : q.back = false) (master : s.gen.master = true) (dt : Nat) :
    let a := arrive dt s
    exec (.modeAckTimeout dt) s = .next (if q.since + 491520 ≤ s.tb.now + dt ∧ ackMissing s q ≠ 0 then
      flkPump (flkDeny (outward a 5 (modeBytes a q cMaster)) q) else a) := by
  change execModeAckTimeout dt s = _
  have missing : ackMissing (arrive dt s) q = ackMissing s q := rfl
  have now : (arrive dt s).tb.now = s.tb.now + dt := rfl
  simp [execModeAckTimeout, only, announced, change, master, missing, now]

theorem exec_flkReadyTimeout {s : State} {q : FlkReq} {r : CmdRef} {c : Cmd} (only : s.run.modeReqs = [q]) (own : q.ref = some r)
    (found : cmdOf s r = some c) (dt : Nat) :
    let a := arrive dt s
    exec (.flkReadyTimeout dt) s = .next (if c.acceptAt + 983040000 ≤ s.tb.now + dt ∧ s.run.state ≠ .inService then
      flkDeny (reqWithdraw a q) q else a) := by
  change execFlkReadyTimeout dt s = _
  have mine : ((arrive dt s).run.modeReqs.filter fun x => x.ref.isSome) = [q] := by simp [only, own]
  have waits : q.ref.bind (cmdOf (arrive dt s)) = some c := by
    rw [own]
    exact found
  have now : (arrive dt s).tb.now = s.tb.now + dt := rfl
  unfold execFlkReadyTimeout
  extract_lets a
  rw [mine, List.foldl_cons, List.foldl_nil, waits, ← now]
  rfl

end Sys2Proof.Machine

open Sys2Proof Sys2Proof.Machine

/-- Settles O42: each timeout by its row, which past its time sets the conflict or withdraws the request and before it only waits. -/
theorem flaskConflictAndTimeouts : Obligations.FlaskConflictAndTimeouts := by
  unfold Obligations.FlaskConflictAndTimeouts
  refine ⟨fun dt k s known seeks member alone => ?_, fun dt s q only announced change master => ?_, fun dt s q r c only own found => ?_⟩ <;>
    have waited : changesOnly (withReports [.mod, .fh, .run, .pwr]) s (arrive dt s) := changesOnly_mono (arrive_changes dt s) (by decide)
  · refine ⟨_, exec_noMasterTimeout known seeks member alone dt, fun past => ?_, fun before => ?_, ?_⟩
    · rw [if_pos past]
      have fresh : (arrive dt s).run.state ≠ .conflict := fun conflict => FlkState.noConfusion (seeks.symm.trans conflict)
      exact conflictSet_noted fresh 2 (ownId s)
    · rw [if_neg (not_le.2 before), arrive_run]
    · exact changesOnly_ite (changesOnly_trans waited (changesOnly_mono (conflictSet_changes _ 2 _) (by decide))) waited
  · refine ⟨_, exec_modeAckTimeout only announced change master dt, fun past missing => ?_, fun before => ?_, ?_⟩
    · obtain ⟨n, sent⟩ := outward_run (arrive dt s) 5 (modeBytes (arrive dt s) q cMaster)
      have empty := flkDeny_only ((congrArg Run.modeReqs sent).trans only)
      rw [if_pos ⟨past, missing⟩, flkPump_of_noRequests empty, empty]
    · rw [if_neg fun h => not_le.2 before h.1, arrive_run]
    · have told := changesOnly_trans waited (changesOnly_mono (outward_changes _ 5 (modeBytes (arrive dt s) q cMaster)) (by decide))
      have denied := changesOnly_trans told (changesOnly_mono (flkDeny_changes _ q) (by decide))
      exact changesOnly_ite (changesOnly_trans denied (changesOnly_mono (flkPump_changes _) (by decide))) waited
  · refine ⟨_, exec_flkReadyTimeout only own found dt, fun past out => ?_, fun service => ?_, ?_⟩
    · obtain ⟨n, told⟩ := reqWithdraw_run (arrive dt s) q
      rw [if_pos ⟨past, out⟩, flkDeny_only ((congrArg Run.modeReqs told).trans only)]
    · rw [if_neg fun h => h.2 service, arrive_run]
    · have told := changesOnly_trans waited (changesOnly_mono (reqWithdraw_changes (arrive dt s) q) (by decide))
      exact changesOnly_ite (changesOnly_trans told (changesOnly_mono (flkDeny_changes _ q) (by decide))) waited
end

section
/-! The transmit and receive paths one by one (R232, R243, R281): what a change of one path makes of it, and that it leaves every other. -/

namespace Sys2Proof.Machine

theorem txOf_modTx_same (s : State) {p : Nat} (h : p < 64) (f : TxPath → TxPath) : txOf (modTx s p f) p = f (txOf s p) :=
  vget_vmod_same _ h f _

theorem txOf_modTx_ne (s : State) {p q : Nat} (h : p ≠ q) (f : TxPath → TxPath) : txOf (modTx s p f) q = txOf s q := vget_vmod_ne _ h f _

theorem dpdOf_modDpd_same (s : State) {p : Nat} (h : p < 64) (f : Dpd → Dpd) : dpdOf (modDpd s p f) p = f (dpdOf s p) :=
  vget_vmod_same _ h f _

theorem dpdOf_modDpd_ne (s : State) {p q : Nat} (h : p ≠ q) (f : Dpd → Dpd) : dpdOf (modDpd s p f) q = dpdOf s q := vget_vmod_ne _ h f _

theorem rxOf_modRx_same (s : State) {p : Nat} (h : p < 64) (f : RxPath → RxPath) : rxOf (modRx s p f) p = f (rxOf s p) :=
  vget_vmod_same _ h f _

theorem rxOf_modRx_ne (s : State) {p q : Nat} (h : p ≠ q) (f : RxPath → RxPath) : rxOf (modRx s p f) q = rxOf s q := vget_vmod_ne _ h f _

/-- An event posted leaves the linearisation of every path. -/
@[simp] theorem dpdOf_post (s : State) (code cls inst data p : Nat) : dpdOf (post s code cls inst data) p = dpdOf s p := by
  rw [dpdOf, dpdOf, post_tx]

end Sys2Proof.Machine
end

section
/-! The lock check (R256, R257, R282): what it records of a symbol, which neither the symbols it counts as lost nor the commands it ends
change. -/

namespace Sys2Proof.Machine

/-- What a lock check leaves: the symbol checked, and for every quad whether it may send and receive it. -/
structure LockChecked (k : Nat) (sends receives : Vector Bool 4) (s : State) : Prop where
  symbol : s.tx.checkedSym = some k
  sends : s.tx.lockOk = sends
  receives : s.rx.lockOk = receives

section
variable {k : Nat} {sends receives : Vector Bool 4} {s t : State}

theorem LockChecked.of_eq (h : LockChecked k sends receives s) (tx : t.tx = s.tx) (rx : t.rx = s.rx) : LockChecked k sends receives t :=
  ⟨by rw [tx, h.symbol], by rw [tx, h.sends], by rw [rx, h.receives]⟩

/-- A loss that is posted at the first of a run, and counted alone after it. -/
theorem LockChecked.noted (h : LockChecked k sends receives s) (first : Bool) (code cls inst data : Nat) :
    LockChecked k sends receives (if first then post s code cls inst data else s) := by
  split
  · exact h.of_eq (post_tx s _ _ _ _) (post_rx s _ _ _ _)
  · exact h

theorem LockChecked.lateTx (h : LockChecked k sends receives s) (j q : Nat) (ok : Bool) :
    LockChecked k sends receives (lateTx s j q ok) := by
  unfold Machine.lateTx
  split
  · exact h
  · split
    · exact ⟨h.symbol, h.sends, h.receives⟩
    · extract_lets first old counted
      have kept : LockChecked k sends receives counted := ⟨h.symbol, h.sends, h.receives⟩
      exact kept.noted first _ _ _ _

theorem LockChecked.lateRx (h : LockChecked k sends receives s) (j q : Nat) (ok : Bool) :
    LockChecked k sends receives (lateRx s j q ok) := by
  unfold Machine.lateRx
  split
  · exact h
  · split
    · exact ⟨h.symbol, h.sends, h.receives⟩
    · extract_lets first old counted
      have kept : LockChecked k sends receives counted := ⟨h.symbol, h.sends, h.receives⟩
      exact kept.noted first _ _ _ _

theorem LockChecked.lockPassed (h : LockChecked k sends receives s) (pass : Nat) : LockChecked k sends receives (lockPassed s pass) :=
  h.of_eq (lockPassed_changes s pass .tx (by decide)) (lockPassed_changes s pass .rx (by decide))

/-- What keeps the record for each number keeps it for all. -/
theorem LockChecked.forAll {f : State → Nat → State} (each : ∀ {s} i, LockChecked k sends receives s → LockChecked k sends receives (f s i))
    (n : Nat) (h : LockChecked k sends receives s) : LockChecked k sends receives (forAll n s f) := by
  unfold Machine.forAll
  induction List.range n generalizing s with
  | nil => exact h
  | cons i l ih => exact ih (each i h)

end

theorem lockChecked_lockCheckAt (k : Nat) (s : State) :
    LockChecked k (Vector.ofFn fun q => quadReady s q.val 0 k) (Vector.ofFn fun q => quadReady s q.val 1 k) (lockCheckAt k s) := by
  unfold lockCheckAt
  extract_lets okTx okRx pass rx received tx checked sent
  have record : LockChecked k (Vector.ofFn fun q => okTx q.val) (Vector.ofFn fun q => okRx q.val) checked := ⟨rfl, rfl, rfl⟩
  have counted : LockChecked k _ _ sent := record.forAll (fun q h => h.lateTx k q _) 4
  exact (counted.forAll (fun q h => h.lateRx k q _) 4).lockPassed pass

/-- The state that the check of the next symbol looks at: 1,024 counts before its tick, with the levels of the grant lands (R256,
R257). -/
def lockCheckStart (grants : BitVec 4) (s : State) : State :=
  let a := arriveAt (tickT s s.tb.airNext - 1024) s
  { a with tx := { a.tx with cox := vall a.tx.cox fun i x => { x with grantLand := bit grants.toNat i } } }

theorem lockCheckStart_now (grants : BitVec 4) (s : State) :
    (lockCheckStart grants s).tb.now = max s.tb.now (tickT s s.tb.airNext - 1024) := arriveAt_now _ s

theorem lockCheckStart_changes (grants : BitVec 4) (s : State) : changesOnly [.tb, .host, .out, .tx] s (lockCheckStart grants s) :=
  (changesOnly_set_tx (by decide)).2 (changesOnly_mono (arriveAt_changes _ s) (by decide))

/-- The grants say nothing of the synthesisers. -/
theorem quadReady_lockCheckStart (grants : BitVec 4) (s : State) (q out k : Nat) :
    quadReady (lockCheckStart grants s) q out k = quadReady (arriveAt (tickT s s.tb.airNext - 1024) s) q out k := rfl

theorem exec_lockCheck {s : State} (on : tbOn s = true) (fresh : s.tx.checkedSym ≠ some s.tb.airNext) (grants : BitVec 4) :
    exec (.lockCheck grants) s = .next (lockCheckAt s.tb.airNext (lockCheckStart grants s)) :=
  congrArg Host.Outcome.next (if_pos (by simp [on, fresh]))

end Sys2Proof.Machine

open Sys2Proof Sys2Proof.Machine

/-- Settles O31: the check leaves its record of the state at its own count. -/
theorem lockCheckDecidesTheNextSymbol : Obligations.LockCheckDecidesTheNextSymbol := by
  unfold Obligations.LockCheckDecidesTheNextSymbol
  intro g s on fresh
  have checked := lockCheckAt_changes s.tb.airNext (lockCheckStart g s)
  have clock : (lockCheckAt s.tb.airNext (lockCheckStart g s)).tb = (lockCheckStart g s).tb := checked .tb (by decide)
  obtain ⟨symbol, sends, receives⟩ := lockChecked_lockCheckAt s.tb.airNext (lockCheckStart g s)
  refine ⟨_, exec_lockCheck on fresh g, ?_, symbol, fun q hq => ?_, fun q hq => ?_, ?_⟩
  · rw [clock, lockCheckStart_now]
  · rw [sends, vget_ofFn hq, quadReady_lockCheckStart]
  · rw [receives, vget_ofFn hq, quadReady_lockCheckStart]
  · exact changesOnly_trans (changesOnly_mono (lockCheckStart_changes g s) (by decide)) (changesOnly_mono checked (by decide))
end

section
/-! The drive stage's detector and the overload watch (R236, R253, R260, R279–R281). -/

namespace Sys2Proof.Machine

/-! ### The detector -/

/-- A path after a report of its detector: the meter, and the mean taken in for the round (R236, R363). -/
def metered (mean : Int) (t : TxPath) : TxPath :=
  { t with
    meterOut := clampI (-32768) 32767 mean
    rnd := (t.rnd.1 + mwOf (clampI (-5120) 3000 mean), t.rnd.2 + 1) }

/-- A path muted for overpower: its run ends at once (R253, R260). -/
def overMuted (s : State) (t : TxPath) : TxPath := { pathCut s { t with regOver := true } with inRun := false }

theorem detectorReport_eq_of_not_over {s : State} {p : Nat} {mean : Int} (hp : p < 64)
    (fits : ¬(pathMax s + 64 < mean ∧ (txOf s p).regOver = false)) : detectorReport p mean s = modTx s p (metered mean) := by
  refine if_neg fun excess => fits ?_
  obtain ⟨above, fresh⟩ := excess
  rw [txOf_modTx_same s hp] at fresh
  exact ⟨above, by simpa using fresh⟩

/-- The transmit paths of a report that mutes: what the report posts, and Anneal's run that it fails, lie outside. -/
theorem detectorReport_tx_of_over {s : State} {p : Nat} {mean : Int} (hp : p < 64) (above : pathMax s + 64 < mean)
    (fresh : (txOf s p).regOver = false) : (detectorReport p mean s).tx =
      (linesIdle (modTx (modTx s p (metered mean)) p fun t => { t with regOver := true }) fun i => i == p).tx := by
  unfold detectorReport
  extract_lets shown idle told
  have unmuted : (txOf shown p).regOver = false := (congrArg TxPath.regOver (txOf_modTx_same s hp _)).trans fresh
  rw [if_pos ⟨above, by simp [unmuted]⟩]
  have posted : told.tx = idle.tx := post_tx idle _ _ _ _
  split
  · split
    · exact (anlFail_changes told 14 .tx (by decide)).trans posted
    · exact posted
  · exact posted

theorem txOf_detectorReport_over {s : State} {p : Nat} {mean : Int} (hp : p < 64) (above : pathMax s + 64 < mean)
    (fresh : (txOf s p).regOver = false) : txOf (detectorReport p mean s) p = overMuted s (metered mean (txOf s p)) := by
  rw [txOf, detectorReport_tx_of_over hp above fresh, ← txOf, txOf_linesIdle _ _ hp, if_pos (beq_self_eq_true p), txOf_modTx_same _ hp,
    txOf_modTx_same s hp]
  rfl

theorem txOf_detectorReport_ne (s : State) {p q : Nat} (mean : Int) (hp : p < 64) (hq : q < 64) (other : q ≠ p) :
    txOf (detectorReport p mean s) q = txOf s q := by
  by_cases excess : pathMax s + 64 < mean ∧ (txOf s p).regOver = false
  · rw [txOf, detectorReport_tx_of_over hp excess.1 excess.2, ← txOf, txOf_linesIdle _ _ hq, if_neg (by simpa using other),
      txOf_modTx_ne _ other.symm, txOf_modTx_ne _ other.symm]
  · rw [detectorReport_eq_of_not_over hp excess, txOf_modTx_ne _ other.symm]

theorem meterOut_detectorReport (s : State) {p : Nat} (mean : Int) (hp : p < 64) :
    (txOf (detectorReport p mean s) p).meterOut = clampI (-32768) 32767 mean := by
  by_cases excess : pathMax s + 64 < mean ∧ (txOf s p).regOver = false
  · rw [txOf_detectorReport_over hp excess.1 excess.2]
    rfl
  · rw [detectorReport_eq_of_not_over hp excess, txOf_modTx_same s hp]
    rfl

/-! ### A muted path's lines -/

/-- A path muted for overpower belongs to no run (R232, R259). -/
theorem inRuns_of_regOver {s : State} {p : Nat} (mute : (txOf s p).regOver = true) : inRuns s p = false := by
  simp [inRuns, whyNow, mute, b2n]

/-- Nor does it inject (R320). -/
theorem injecting_of_regOver {s : State} {p : Nat} (mute : (txOf s p).regOver = true) : injecting s p = false := by
  have bars : anlInjects s p = false := by simp [anlInjects, mute]
  have idle (k : Nat) : injectsIn s k p = false := by simp only [injectsIn, bars, Bool.and_false, Bool.false_and]
  unfold injecting
  split
  · exact idle _
  · rfl

/-- Nothing holds the PA enable of a muted path active, once its own line is at rest (R260). -/
theorem paenLine_of_regOver {s : State} {p : Nat} (mute : (txOf s p).regOver = true) (rests : (txOf s p).paen = false)
    (past : (txOf s p).paenOff = 0) : paenLine s p = false := by
  simp [paenLine, willRadiate, inRuns_of_regOver mute, injecting_of_regOver mute, rests, past]

/-! ### The overload watch -/

/-- A receive path at an overload: what it takes in settles until the present symbol ends (R281). -/
def overloaded (s : State) (r : RxPath) : RxPath :=
  { r with
    ovlAgain := r.ovl, ovl := true, ovlRun := true, lnap := true, ovlCnt := satTo 0xFFFFFFFF (r.ovlCnt + 1)
    settles := r.settles ++ [(s.tb.now, tickT s (symNow s + 1))] }

/-- With its watch on and outside the protection of a run, an overload changes its own receive path alone. -/
theorem overload_rx {s : State} {p : Nat} (watched : (rxOf s p).protEn = true) (on : domOn s (10 + p / 16) = true)
    (apart : runProtects s p = false) (code : BitVec 16) : (overload s p code).rx = (modRx s p (overloaded s)).rx := by
  unfold overload
  extract_lets r k told
  rw [if_neg (by simp [r, watched, on, apart])]
  obtain ⟨tb, rx⟩ : told.tb = s.tb ∧ told.rx = s.rx := by
    simp only [told]
    split
    · exact ⟨rfl, rfl⟩
    · exact ⟨post_tb s _ _ _ _, post_rx s _ _ _ _⟩
  simp only [modRx, rx, tickT, tb]
  rfl

/-! ### The rows -/

theorem exec_powerDetectorReport (dt : Nat) (p : Fin 64) (mean : Int) (s : State) :
    exec (.powerDetectorReport dt p mean) s = .next (detectorReport p.val mean (arrive dt s)) := rfl

theorem exec_rxOverload (dt : Nat) (p : Fin 64) (code : BitVec 16) (s : State) :
    exec (.rxOverload dt p code) s = .next (overload (arrive dt s) p.val code) := rfl

end Sys2Proof.Machine

open Sys2Proof Sys2Proof.Machine

/-- Settles O33: a report above the limit cuts its path's run and bars it from the next one, and an overload changes its path alone. -/
theorem overpowerMutesAndOverloadProtects : Obligations.OverpowerMutesAndOverloadProtects := by
  unfold Obligations.OverpowerMutesAndOverloadProtects
  refine ⟨fun dt p mean s => ?_, fun dt p code s watched on apart => ?_⟩
  · refine ⟨_, exec_powerDetectorReport dt p mean s, meterOut_detectorReport _ mean p.isLt, fun above fresh => ?_, fun within => ?_,
      fun q hq other => txOf_detectorReport_ne _ mean p.isLt hq other, ?_⟩
    · have muted : txOf (detectorReport p.val mean (arrive dt s)) p.val = overMuted (arrive dt s) (metered mean (txOf s p.val)) :=
        txOf_detectorReport_over p.isLt above fresh
      have mute : (txOf (detectorReport p.val mean (arrive dt s)) p.val).regOver = true := by
        rw [muted]
        rfl
      exact ⟨mute, by rw [muted]; rfl, paenLine_of_regOver mute (by rw [muted]; rfl) (by rw [muted]; rfl)⟩
    · rw [detectorReport_eq_of_not_over (s := arrive dt s) p.isLt fun excess => not_lt.2 within excess.1, txOf_modTx_same _ p.isLt]
      exact ⟨rfl, rfl⟩
    · exact changesOnly_trans (changesOnly_mono (arrive_changes dt s) (by decide))
        (changesOnly_mono (detectorReport_changes p.val mean _) (by decide))
  · have rx := overload_rx (s := arrive dt s) watched on apart code
    have own : rxOf (overload (arrive dt s) p.val code) p.val = overloaded (arrive dt s) (rxOf s p.val) := by
      rw [rxOf, rx]
      exact rxOf_modRx_same _ p.isLt _
    refine ⟨_, exec_rxOverload dt p code s, by rw [own]; rfl, by rw [own]; rfl, by rw [own]; rfl, by rw [own]; rfl, fun q other => ?_, ?_⟩
    · rw [rxOf, rx]
      exact rxOf_modRx_ne _ other.symm _
    · exact changesOnly_trans (changesOnly_mono (arrive_changes dt s) (by decide))
        (changesOnly_mono (overload_changes _ p.val code) (by decide))
end

section
/-! Temper's solves and timers (R241–R244, R246, R376): each changes the linearisation of its own path, and the set in force waits for the
symbol tick. -/

namespace Sys2Proof.Machine

/-! ### A row that changes one path's linearisation -/

/-- Between two states one path's linearisation alone has changed, and nothing outside but what time and the outward reports hold. -/
structure DpdTurned (s t : State) (p : Nat) (x : Dpd) : Prop where
  own : dpdOf t p = x
  others : ∀ q, q ≠ p → dpdOf t q = dpdOf s q
  mem : t.host.mem = s.host.mem
  changes : changesOnly (withReports [.tx]) s t

theorem dpdTurned_arrive (dt : Nat) (s : State) {p : Nat} (hp : p < 64) (f : Dpd → Dpd) :
    DpdTurned s (modDpd (arrive dt s) p f) p (f (dpdOf s p)) where
  own := dpdOf_modDpd_same _ hp f
  others _ other := dpdOf_modDpd_ne _ other.symm f
  mem := rfl
  changes := changesOnly_trans (changesOnly_mono (arrive_changes dt s) (by decide)) (changesOnly_mono (modDpd_changes _ p f) (by decide))

/-! ### Solves -/

/-- The path adapts, its retirement is not in effect, and Temper observed it no more than 1 ms ago (R241, R243). -/
def Solvable (s : State) (p : Nat) : Prop :=
  (dpdOf s p).state = 1 ∧ (txOf s p).retiredNow = false ∧ (dpdOf s p).obs.any (fun n => decide (s.tb.now ≤ n + 491520)) = true

/-- A rejected solve counts, and uses the observation up (R243). -/
def solveRejected (x : Dpd) : Dpd := { x with rejects := satTo 255 (x.rejects + 1), obs := none }

/-- An accepted solve that is not poor: its set is held pending, and it is the path's last update (R242–R244). -/
def solveAccepted (s : State) (p : Nat) (sol : TemperSol) (x : Dpd) : Dpd :=
  { x with
    pend := some (temperPend s x sol), updates := satTo 0xFFFF (x.updates + 1), lastAt := s.tb.now
    effAt := (txOf s p).eff, compAt := (txOf s p).comp, obs := none, due := false, half := false, stale := false, poor := 0 }

theorem solveTemper_of_rejected {s : State} {p : Nat} {sol : TemperSol} (solvable : Solvable s p)
    (worse : (dpdOf s p).nmse + 32 < sol.nmse) : solveTemper p sol s = modDpd s p solveRejected := by
  obtain ⟨adapts, stays, seen⟩ := solvable
  obtain ⟨n, obs, recent⟩ := (Option.any_eq_true _ _).1 seen
  simp only [solveTemper, adapts, stays, obs, recent]
  rw [if_neg (by decide), if_pos worse]
  rfl

theorem solveTemper_of_accepted {s : State} {p : Nat} {sol : TemperSol} (solvable : Solvable s p)
    (close : sol.nmse ≤ (dpdOf s p).nmse + 32) (good : sol.nmse ≤ -(64 * (s.tx.divThr : Int))) :
    solveTemper p sol s = modDpd s p (solveAccepted s p sol) := by
  obtain ⟨adapts, stays, seen⟩ := solvable
  obtain ⟨n, obs, recent⟩ := (Option.any_eq_true _ _).1 seen
  have fine : decide (-(64 * (s.tx.divThr : Int)) < sol.nmse) = false := decide_eq_false (not_lt.2 good)
  simp only [solveTemper, adapts, stays, obs, recent, fine]
  rw [if_neg (by decide), if_neg (not_lt.2 close), if_neg (by simp)]
  rfl

/-! ### The rows -/

theorem exec_temperSolveEnd (dt : Nat) (p : Fin 64) (sol : TemperSol) (s : State) :
    exec (.temperSolveEnd dt p sol) s = .next (solveTemper p.val sol (arrive dt s)) := rfl

theorem exec_temperRefreshDue (dt : Nat) (p : Fin 64) (s : State) :
    exec (.temperRefreshDue dt p) s = .next (refreshDue p.val (arrive dt s)) := rfl

theorem exec_dpdStale {s : State} {dt : Nat} {p : Fin 64} (sends : (txOf s p).radiating = true)
    (old : 4 * refreshCounts s ≤ s.tb.now + dt - (dpdOf s p).lastAt) (fresh : (dpdOf s p).stale = false) : ∃ data,
    exec (.dpdStale dt p) s = .next (post (modDpd (arrive dt s) p fun x => { x with stale := true }) 0x0806 6 p data) :=
  ⟨_, congrArg Host.Outcome.next (if_pos ⟨sends, old, by rw [Bool.not_eq_true']; exact fresh⟩)⟩

/-- The path that tries again: it adapts, and the identity set comes at the next symbol tick (R246, R376). -/
def retried (x : Dpd) : Dpd :=
  { x with retryAt := none, before := coefIdentity, beforeNmse := 0, restore := true, pend := none, state := 1, due := true }

theorem exec_divergeRetry {s : State} {p : Fin 64} {due : Nat} (waits : (dpdOf s p).retryAt = some due) :
    exec (.divergeRetry p) s = .next (modDpd (arriveAt due s) p retried) := by
  change Host.Outcome.next (divergeRetry p.val s) = _
  simp only [divergeRetry, waits]
  rfl

end Sys2Proof.Machine

open Sys2Proof Sys2Proof.Machine

/-- Settles O34: what each row makes of its own path. -/
theorem temperSolvesAndTimers : Obligations.TemperSolvesAndTimers := by
  unfold Obligations.TemperSolvesAndTimers
  refine ⟨fun dt p sol s adapts stays seen => ?_, fun dt p s => ?_, fun dt p s sends old fresh => ?_, fun p s due waits => ?_⟩
  · have solvable : Solvable (arrive dt s) p := ⟨adapts, stays, seen⟩
    refine ⟨fun worse => ?_, fun close good => ?_⟩
    · obtain ⟨own, others, mem, changes⟩ := dpdTurned_arrive dt s p.isLt solveRejected
      rw [exec_temperSolveEnd, solveTemper_of_rejected solvable worse]
      exact ⟨_, rfl, own.trans (by rw [solveRejected, satTo]), others, mem, changes⟩
    · obtain ⟨own, others, mem, changes⟩ := dpdTurned_arrive dt s p.isLt (solveAccepted (arrive dt s) p sol)
      rw [exec_temperSolveEnd, solveTemper_of_accepted solvable close good]
      refine ⟨_, rfl, ?_⟩
      rw [own]
      exact ⟨rfl, rfl, rfl, rfl, rfl, rfl, rfl, rfl, rfl, others, mem, changes⟩
  · obtain ⟨own, others, mem, changes⟩ := dpdTurned_arrive dt s p.isLt fun x => { x with
      half := x.half || decide (refreshCounts s ≤ 2 * ((arrive dt s).tb.now - (dpdOf s p).lastAt))
      due := x.due || decide (refreshCounts s ≤ (arrive dt s).tb.now - (dpdOf s p).lastAt) }
    exact ⟨_, exec_temperRefreshDue dt p s, own, others, mem, changes⟩
  · obtain ⟨data, run⟩ := exec_dpdStale sends old fresh
    obtain ⟨own, others, -, changes⟩ := dpdTurned_arrive dt s p.isLt fun x => { x with stale := true }
    refine ⟨_, run, ?_, fun q other => ?_, ?_⟩
    · rw [dpdOf_post, own]
    · rw [dpdOf_post, others q other]
    · exact changesOnly_trans (changesOnly_mono changes (by decide)) (changesOnly_mono (post_changes _ _ _ _ _) (by decide))
  · obtain ⟨own, others, mem, changes⟩ := dpdTurned_arrive (due - s.tb.now) s p.isLt retried
    refine ⟨_, exec_divergeRetry waits, arriveAt_now due s, ?_⟩
    rw [arriveAt, own]
    exact ⟨rfl, rfl, rfl, rfl, rfl, rfl, rfl, others, mem, changes⟩
end

section
/-! What disciplines the timebase without a step (R307–R310, R314): TB_CFG, 1PPS edges and the loss of the time source. -/

namespace Sys2Proof.Machine

/-! ### The time of day goes on -/

/-- The timebase is set or corrected, and its reports sent, without a step: the time of day, the count, the presence of 1PPS edges and the
list of commands stand. -/
structure NoStep (s t : State) : Prop where
  tod : t.tb.tod = s.tb.tod
  now : t.tb.now = s.tb.now
  pps : t.tb.ppsPresent = s.tb.ppsPresent
  cmds : t.host.cmds = s.host.cmds
  changes : changesOnly (withReports [.pwr]) s t

theorem NoStep.refl (s : State) : NoStep s s := ⟨rfl, rfl, rfl, rfl, changesOnly_refl _ s⟩

theorem NoStep.trans {s t u : State} (h : NoStep s t) (k : NoStep t u) : NoStep s u where
  tod := k.tod.trans h.tod
  now := k.now.trans h.now
  pps := k.pps.trans h.pps
  cmds := k.cmds.trans h.cmds
  changes := changesOnly_trans h.changes k.changes

theorem NoStep.ite {c : Prop} [Decidable c] {s t u : State} (ht : NoStep s t) (hu : NoStep s u) : NoStep s (if c then t else u) := by
  split
  · exact ht
  · exact hu

theorem NoStep.set_tb (s : State) (x : Tb) (tod : x.tod = s.tb.tod := by rfl) (now : x.now = s.tb.now := by rfl)
    (pps : x.ppsPresent = s.tb.ppsPresent := by rfl) : NoStep s { s with tb := x } :=
  ⟨tod, now, pps, rfl, (changesOnly_set_tb (by decide)).2 (changesOnly_refl _ s)⟩

theorem post_noStep (s : State) (code cls inst data : Nat) : NoStep s (post s code cls inst data) := by
  have tb := post_tb s code cls inst data
  exact ⟨by rw [tb], by rw [tb], by rw [tb], (post_reported s _ _ _ _).cmds, changesOnly_mono (post_changes s _ _ _ _) (by decide)⟩

theorem jumpRefuse_noStep (s : State) (ofs : Int) : NoStep s (jumpRefuse s ofs) :=
  (NoStep.set_tb s _).trans (post_noStep _ _ _ _ _)

theorem jumpRefuse_tb (s : State) (ofs : Int) : (jumpRefuse s ofs).tb =
    { s.tb with jumpRefused := true, refused := clampI (-2147483648) 2147483647 (ofs / 16) } := post_tb _ _ _ _ _

theorem timeSrc_tb (s : State) (what : Nat) : (timeSrc s what).tb = s.tb := post_tb _ _ _ _ _

/-! ### TB_CFG (R307–R309, R314) -/

/-- The source that SOURCE names (R308). -/
def sourceNamed (d : Desc) : TbSource :=
  match dB d 20 with
  | 0 => .none
  | 1 => .pps
  | 2 => .ptp
  | _ => .external

/-- SOURCE: another source acquires anew, and what was left to correct is dropped (R307, R308). -/
def sourceSet (s : State) (src : TbSource) : State :=
  if src = s.tb.source then s
  else { s with tb := { s.tb with
    source := src, acquire := true, prevOffset := none, phaseLeft := 0, ptpMs := none, ptpSync := none, ptpReq := none
    state := if src = .pps ∨ src = .ptp then .acquiring else .freerun } }

/-- ADJ_PHASE: a shift within TB_JUMP_LIM adds to what is left, a larger one is refused (R307). -/
def phaseAsked (s : State) (x : Int) : State :=
  if 16 * s.tb.jumpLim < x.natAbs then jumpRefuse s x
  else { s with tb := { s.tb with phaseLeft := s.tb.phaseLeft + x * phaseUnit } }

/-- PTP: port, domain, address and priority; what was measured through the old ones is dropped (R309). -/
def ptpConfigured (b : Tb) (d : Desc) : Tb :=
  { b with
    ptpPort := BitVec.ofNat 8 (dB d 20), ptpDomain := BitVec.ofNat 8 (dB d 21), ptpAddr := dB d 22 == 1
    ptpPrio := BitVec.ofNat 8 (dB d 23), ptpSelected := false, ptpSyncOk := false, ptpClass := 0xFF, ptpMs := none, ptpSync := none
    ptpReq := none }

/-- The timebase as TB_CFG sets it, by its action (R314). -/
def tbCfgSet (s : State) (d : Desc) : State :=
  match dB d 16 with
  | 0 => sourceSet s (sourceNamed d)
  | 1 => { s with tb := { s.tb with ftrimTarget := sx 32 (dW d 20) } }
  | 2 => phaseAsked s (sx 64 (dQ d 20))
  | 3 => { s with tb := { s.tb with jumpLim := dW d 20, slew := dH d 24 } }
  | 4 => { s with tb := { s.tb with gridPend := some (dW d 20, dH d 24) } }
  | 5 => { s with tb := { s.tb with ppsInDelay := sx 32 (dW d 20), ppsOutDelay := sx 32 (dW d 24), ppsOutEn := dB d 28 == 1 } }
  | 6 => { s with tb := { s.tb with inc := BitVec.ofNat 64 (dQ d 20) } }
  | _ => { s with tb := ptpConfigured s.tb d }

theorem tbCfgEffect_eq (s : State) (c : Cmd) : tbCfgEffect s c = cmdDone (tbCfgSet s c.d) c := rfl

theorem sourceSet_noStep (s : State) (src : TbSource) : NoStep s (sourceSet s src) := .ite (.refl s) (.set_tb s _)

theorem phaseAsked_noStep (s : State) (x : Int) : NoStep s (phaseAsked s x) := .ite (jumpRefuse_noStep s x) (.set_tb s _)

theorem tbCfgSet_noStep (s : State) (d : Desc) : NoStep s (tbCfgSet s d) := by
  unfold tbCfgSet
  split
  case h_1 => exact sourceSet_noStep s _
  case h_3 => exact phaseAsked_noStep s _
  all_goals exact .set_tb s _

theorem sourceNamed_of_code (d : Desc) : (dB d 20 = 0 → sourceNamed d = .none) ∧ (dB d 20 = 1 → sourceNamed d = .pps) ∧
    (dB d 20 = 2 → sourceNamed d = .ptp) ∧ (dB d 20 = 3 → sourceNamed d = .external) := by
  refine ⟨fun h => ?_, fun h => ?_, fun h => ?_, fun h => ?_⟩ <;> simp only [sourceNamed, h]

theorem sourceSet_source (s : State) (src : TbSource) : (sourceSet s src).tb.source = src := by
  unfold sourceSet
  split
  · next same => exact same.symm
  · rfl

/-- A source that changed is acquired anew, with no correction left (R307, R308). -/
theorem sourceSet_acquires {s : State} {src : TbSource} (changed : (sourceSet s src).tb.source ≠ s.tb.source) :
    (sourceSet s src).tb.acquire = true ∧ (sourceSet s src).tb.phaseLeft = 0 := by
  rw [sourceSet_source] at changed
  rw [sourceSet, if_neg changed]
  exact ⟨rfl, rfl⟩

theorem phaseAsked_within {s : State} {x : Int} (within : x.natAbs ≤ 16 * s.tb.jumpLim) :
    (phaseAsked s x).tb = { s.tb with phaseLeft := s.tb.phaseLeft + x * phaseUnit } := by
  rw [phaseAsked, if_neg (not_lt.2 within)]

theorem phaseAsked_beyond {s : State} {x : Int} (beyond : 16 * s.tb.jumpLim < x.natAbs) :
    (phaseAsked s x).tb = { s.tb with jumpRefused := true, refused := clampI (-2147483648) 2147483647 (x / 16) } := by
  rw [phaseAsked, if_pos beyond, jumpRefuse_tb]

/-- A row without a tick whose effect leaves the command list and ends its own command: the list is as it was (R71). -/
theorem rowDone_noStep {x : CommandRow} {s u : State} {e : Cmd} (hacc : rowAccepted x s) (htick : x.f.tick (rowStart x s) = .none)
    (did : x.f.effect (rowListed x s (rowRunning x s)) (rowRunning x s) = cmdDone u e) (own : e.seq = s.host.nextSeq)
    (set : NoStep (rowListed x s (rowRunning x s)) u) : runCmd x.f x.dt x.ref x.d s = cmdDone u e ∧
      (cmdDone u e).host.cmds = s.host.cmds ∧ changesOnly (withReports [.pwr]) s (cmdDone u e) := by
  refine ⟨by rw [runCmd_of_rowAccepted hacc htick, did], ?_, ?_⟩
  · obtain ⟨-, hok, -, -⟩ := hacc
    rw [cmdDone_cmds, set.cmds, own]
    exact rowListed_without x hok (y := rowRunning x s) rfl
  · have listed : changesOnly (withReports [.pwr]) s (rowListed x s (rowRunning x s)) :=
      changesOnly_mono (rowListed_changes x s _) (by decide)
    exact changesOnly_trans listed (changesOnly_trans set.changes (changesOnly_reports (cmdDone_changes u e)))

end Sys2Proof.Machine

open Sys2Proof Sys2Proof.Machine

/-- Settles O53: the command's effect is one change of the timebase, by its action, after which it is done. -/
theorem timebaseConfigTakesEffect : Obligations.TimebaseConfigTakesEffect := by
  unfold Obligations.TimebaseConfigTakesEffect
  intro dt r d s x hacc a e w
  let u := rowListed x s (rowRunning x s)
  have set := tbCfgSet_noStep u e
  obtain ⟨run, cmds, changes⟩ := rowDone_noStep hacc rfl (tbCfgEffect_eq u (rowRunning x s)) rfl set
  have tb : (cmdDone (tbCfgSet u e) (rowRunning x s)).tb = (tbCfgSet u e).tb := cmdDone_tb _ _
  refine ⟨_, congrArg Host.Outcome.next run, cmds, changes, ?_⟩
  rw [show (rowRunning x s).d = e from rfl, tb]
  refine ⟨set.tod, fun action => ?_, fun action => ?_, fun action within => ?_, fun action beyond => ?_, fun action => ?_, fun action => ?_,
    fun action => ?_, fun action => ?_, fun action => ?_⟩ <;> simp only [tbCfgSet, action]
  · obtain ⟨none, pps, ptp, external⟩ := sourceNamed_of_code e
    rw [sourceSet_source]
    exact ⟨none, pps, ptp, external, fun changed => sourceSet_acquires (by rwa [sourceSet_source])⟩
  · rfl
  · exact phaseAsked_within (s := u) within
  · rw [phaseAsked_beyond (s := u) beyond]
    exact ⟨rfl, rfl, rfl⟩
  · rfl
  · rfl
  · rfl
  · rfl
  · exact ⟨rfl, rfl, rfl, rfl, rfl⟩
end

section
/-! The servo: a 1PPS edge, and the loss of the time source (R307, R308, R310). -/

namespace Sys2Proof.Machine

/-- The offset of the selected source is recorded (R308). -/
def offsetNoted (s : State) (ofs : Int) : State := { s with tb := { s.tb with srcOfs := clampI (-2147483648) 2147483647 ofs } }

/-- The timebase that acquires: a step is due at the next frame tick (R308). -/
def acquired (b : Tb) (ofs : Int) : Tb :=
  { b with acquire := false, state := .acquiring, stepDue := some (-(ofs * todNs) / 16), prevOffset := some ofs }

/-- The timebase that tracks: the offset is to be slewed, with the trim the servo answers (R307, R308). -/
def tracked (b : Tb) (ofs trim : Int) : Tb :=
  { b with
    phaseLeft := -ofs * phaseUnit, ftrimTarget := trim, prevOffset := some ofs
    state := if b.state == .holdover then .locked else b.state }

section
variable {s : State} (own : flaskTimed s = false) (runs : s.run.state ≠ .suspended) (ofs : Int)
include own runs

/-- The servo takes an offset of the device's own source where the flask neither times it nor holds it suspended (R310). -/
theorem servo_not_barred : ¬ (flaskTimed (offsetNoted s ofs) = true ∨ (offsetNoted s ofs).run.state = .suspended) :=
  not_or.2 ⟨fun timed => absurd (own.symm.trans timed) (by decide), runs⟩

theorem servo_acquires (acquires : s.tb.acquire = true) (idle : anyBfs s = false) :
    servo s ofs = { s with tb := acquired (offsetNoted s ofs).tb ofs } :=
  (if_neg (servo_not_barred own runs ofs)).trans ((if_pos acquires).trans (if_neg (ne_true_of_eq_false idle)))

theorem servo_refuses (refused : (s.tb.acquire = true ∧ anyBfs s = true) ∨ (s.tb.acquire = false ∧ 16 * s.tb.jumpLim < ofs.natAbs)) :
    servo s ofs = jumpRefuse (offsetNoted s ofs) ofs := by
  refine (if_neg (servo_not_barred own runs ofs)).trans ?_
  obtain ⟨acquires, bfs⟩ | ⟨tracks, beyond⟩ := refused
  · exact (if_pos acquires).trans (if_pos bfs)
  · exact (if_neg (ne_true_of_eq_false tracks)).trans (if_pos beyond)

theorem servo_tracks (tracks : s.tb.acquire = false) (within : ofs.natAbs ≤ 16 * s.tb.jumpLim) : ∃ trim,
    (servo s ofs).tb = tracked (offsetNoted s ofs).tb ofs trim := by
  have taken : ∃ trim, let t : State := { s with tb := tracked (offsetNoted s ofs).tb ofs trim }
      servo s ofs = if s.tb.state == .holdover then timeSrc t 1 else t :=
    ⟨_, (if_neg (servo_not_barred own runs ofs)).trans ((if_neg (ne_true_of_eq_false tracks)).trans (if_neg (not_lt.2 within)))⟩
  obtain ⟨trim, taken⟩ := taken
  refine ⟨trim, ?_⟩
  rw [taken]
  split
  · exact timeSrc_tb _ 1
  · rfl

end

theorem timeSrc_noStep (s : State) (what : Nat) : NoStep s (timeSrc s what) := post_noStep _ _ _ _ _

/-- An offset corrects the timebase, or asks for a step, without a step of its own (R307). -/
theorem servo_noStep (s : State) (ofs : Int) : NoStep s (servo s ofs) := by
  let u := offsetNoted s ofs
  have noted : NoStep s u := .set_tb s _
  have refused : NoStep u (jumpRefuse u ofs) := jumpRefuse_noStep u ofs
  have tracks (trim : Int) : NoStep u { u with tb := tracked u.tb ofs trim } := .set_tb u _
  exact noted.trans (.ite (.refl u) (.ite (.ite refused (.set_tb u _)) (.ite refused
    (.ite ((tracks _).trans (timeSrc_noStep _ 1)) (tracks _)))))

/-! ### The rows -/

/-- An edge shows that 1PPS is there (R308). -/
def edgeSeen (s : State) : State := { s with tb := { s.tb with ppsPresent := true } }

theorem exec_ppsEdge {s : State} (on : tbOn s = true) (pps : s.tb.source = .pps) (dt : Nat) :
    exec (.ppsEdge dt) s = .next (servo (edgeSeen (arrive dt s)) (ppsOffset (arrive dt s))) :=
  congrArg Host.Outcome.next ((if_neg (by rw [show tbOn (arrive dt s) = true from on]; decide)).trans (if_pos pps))

/-- The timebase in HOLDOVER: what its source reported is dropped, and what was left to correct (R308). -/
def heldOver (b : Tb) : Tb :=
  { b with
    ppsPresent := b.ppsPresent && b.source != .pps, ptpSyncOk := b.ptpSyncOk && b.source != .ptp
    ptpSelected := b.ptpSelected && b.source != .ptp, state := .holdover, phaseLeft := 0, prevOffset := none }

theorem exec_timeSourceLost {s : State} (on : tbOn s = true) (source : s.tb.source = .pps ∨ s.tb.source = .ptp)
    (state : s.tb.state = .locked ∨ s.tb.state = .acquiring) (dt : Nat) : exec (.timeSourceLost dt) s =
      .next (timeSrc { arrive dt s with tb := heldOver (arrive dt s).tb } 2) := by
  refine congrArg Host.Outcome.next ((if_neg ?_).trans (if_neg ?_))
  · rw [show tbOn (arrive dt s) = true from on]
    rintro (off | ⟨notPps, notPtp⟩)
    · exact absurd off (by decide)
    · exact source.elim notPps notPtp
  · rintro ⟨notLocked, notAcquiring⟩
    exact state.elim notLocked notAcquiring

end Sys2Proof.Machine

open Sys2Proof Sys2Proof.Machine

/-- Settles O39: the servo acquires, refuses or tracks, and steps in no case; a loss holds the timebase as it is. -/
theorem ppsServoAndHoldover : Obligations.PpsServoAndHoldover := by
  unfold Obligations.PpsServoAndHoldover
  refine ⟨fun dt s on pps own runs => ?_, fun dt s on source state => ?_⟩
  · intro a ofs
    let seen := edgeSeen a
    have took := servo_noStep seen ofs
    have seenChanges : changesOnly (withReports [.pwr]) s seen :=
      (changesOnly_set_tb (by decide)).2 (changesOnly_mono (arrive_changes dt s) (by decide))
    refine ⟨_, exec_ppsEdge on pps dt, took.tod, took.now, took.pps, changesOnly_trans seenChanges took.changes,
      fun acquires idle => ?_, fun refused => ?_, fun tracks within => ?_⟩
    · rw [servo_acquires (s := seen) own runs ofs acquires idle]
      exact ⟨rfl, rfl, rfl, rfl⟩
    · rw [servo_refuses (s := seen) own runs ofs refused, jumpRefuse_tb]
      exact ⟨rfl, rfl, rfl, rfl⟩
    · obtain ⟨trim, tb⟩ := servo_tracks (s := seen) own runs ofs tracks within
      rw [tb]
      exact ⟨rfl, rfl, fun held => if_pos (beq_iff_eq.2 held)⟩
  · have told := timeSrc_tb { arrive dt s with tb := heldOver (arrive dt s).tb } 2
    have kept := timeSrc_noStep { arrive dt s with tb := heldOver (arrive dt s).tb } 2
    refine ⟨_, exec_timeSourceLost on source state dt, ?_⟩
    rw [told]
    refine ⟨rfl, rfl, rfl, rfl, rfl, fun pps => ?_, fun ptp => ?_, changesOnly_trans ?_ kept.changes⟩
    · simp [heldOver, arrive, wait, pps]
    · simp [heldOver, arrive, wait, ptp]
    · exact (changesOnly_set_tb (by decide)).2 (changesOnly_mono (arrive_changes dt s) (by decide))
end

section
/-! Reference sources (R290, R291, R294, R437): what the cleaner makes of the sources that are qualified. -/

namespace Sys2Proof.Machine

/-- The best source follows from the qualification, the priorities, the lanes and the flask (R290). -/
theorem bestSource_of_changes {l : List Part} {s t : State} (h : changesOnly l s t) (qual : t.syn.qual = s.syn.qual)
    (cfg : t.syn.refCfg = s.syn.refCfg) (hl : ∀ p ∈ [Part.lanes, .mod, .run, .gen], p ∉ l := by decide) : bestSource t = bestSource s := by
  have lanes : t.lanes = s.lanes := h .lanes (hl _ (by decide))
  have mod : t.mod = s.mod := h .mod (hl _ (by decide))
  have run : t.run = s.run := h .run (hl _ (by decide))
  have gen : t.gen = s.gen := h .gen (hl _ (by decide))
  have up : laneIsUp t = laneIsUp s := funext fun l => by simp only [laneIsUp, laneOf, inLts, ltsMask, lanes, mod]
  have lane : cascadeLane t = cascadeLane s := by rw [cascadeLane, cascadeLane, up, masterSide, masterSide, sideOf, sideOf, sideOf, sideOf, run]
  have ok : srcOk t = srcOk s := funext fun c => by simp only [srcOk, flaskTimed, qual, lanes, run, gen, lane]
  simp only [bestSource, ok, cfg]

/-! ### The resumption after REF_LOST -/

theorem synTune_qual (s : State) (n : Nat) : (synTune s n).syn.qual = s.syn.qual := by
  unfold synTune
  split <;> rfl

theorem synSearch_qual (s : State) (n : Nat) : (synSearch s n).syn.qual = s.syn.qual := by
  unfold synSearch
  split
  · exact synTune_qual s n
  · split <;> rfl

theorem synSearchAll_qual (s : State) : (synSearchAll s).syn.qual = s.syn.qual := by
  unfold synSearchAll forAll
  exact List.foldlRecOn (motive := fun y => y.syn.qual = s.syn.qual) _ synSearch rfl fun y same n _ => (synSearch_qual y n).trans same

theorem refResume_qual (s : State) (c : Nat) : (refResume s c).syn.qual = s.syn.qual := by
  unfold refResume
  extract_lets s1 s2 s3
  have timed : s3.syn = s2.syn := by
    unfold s3
    split
    · exact tbResume_changes s2 .syn (by decide)
    · rfl
  have aligned : (alignAgain (synSearchAll s3)).syn = (synSearchAll s3).syn := alignAgain_changes _ .syn (by decide)
  have released : (anlRelease (alignAgain (synSearchAll s3)) 0).syn = (alignAgain (synSearchAll s3)).syn := anlRelease_changes _ 0 .syn (by decide)
  rw [released, aligned, synSearchAll_qual, timed]

/-! ### The selection -/

/-- What the cleaner selects leaves which sources are qualified (R290, R291). -/
theorem refSelect_qual (s : State) : (refSelect s).syn.qual = s.syn.qual := by
  unfold refSelect
  extract_lets b _ old s1
  split
  · split <;> rfl
  · split
    · split
      · rfl
      · exact refResume_qual s b
    · split
      · rfl
      · split
        · rfl
        · split
          · rfl
          · rw [post_syn]

/-- Before SYN is first on the cleaner locks to the best source, if there is one (R437). -/
theorem refSelect_first {s : State} (never : s.syn.everOn = false) : refSelect s =
    if bestSource s = 0 then { s with syn := { s.syn with refState := .acquiring, active := .none } }
    else { s with syn := { s.syn with
      refState := .locked, active := Source.ofCode (bestSource s), lastActive := Source.ofCode (bestSource s) } } := by
  simp [refSelect, never]

theorem refSelect_first_best {s : State} (never : s.syn.everOn = false) : bestSource (refSelect s) = bestSource s := by
  rw [refSelect_first never]
  split <;> rfl

/-- With no source left the cleaner searches from now on, and remembers the source it had (R291). -/
theorem refSelect_searches {s : State} (ever : s.syn.everOn = true) (there : s.syn.refLost = false) (active : s.syn.active ≠ .none)
    (gone : bestSource s = 0) : refSelect s = { s with syn := { s.syn with
      active := .none, lastActive := s.syn.active, refState := .searching, holdoverAt := some s.tb.now } } := by
  have changed : ¬ (0 = s.syn.active.code) := by
    cases code : s.syn.active with
    | none => exact absurd code active
    | refIn | bypassIn | synce | cascade => decide
  simp [refSelect, ever, there, gone, changed]

/-- While the reference is there the selection leaves what the best source follows from. -/
theorem refSelect_best {s : State} (ever : s.syn.everOn = true) (there : s.syn.refLost = false) :
    bestSource (refSelect s) = bestSource s := by
  unfold refSelect
  extract_lets b _ old s1
  rw [if_neg (by simp [ever]), if_neg (by simp [there])]
  split
  · rfl
  · split
    · rfl
    · split
      · rfl
      · exact (bestSource_of_changes (s := s1) (post_changes s1 _ _ _ _) (by rw [post_syn]) (by rw [post_syn])).trans rfl

/-! ### The rows -/

/-- A source that has qualified, and one that is lost. -/
def sourceAdded (s : State) (src : Source) : State := { s with syn := { s.syn with qual := s.syn.qual ||| 1#5 <<< src.code } }
def sourceGone (s : State) (src : Source) : State := { s with syn := { s.syn with qual := s.syn.qual &&& ~~~(1#5 <<< src.code) } }

theorem exec_sourceQualified {s : State} {src : Source} (named : src ≠ .none) (up : vget s.pwr.dom 3 .off ≠ .off)
    (kept : vget s.pwr.dom 3 .off ≠ .retention) (dt : Nat) : exec (.sourceQualified dt src) s =
      .next (hkCheck (arrive dt s) (refSelect (sourceAdded (arrive dt s) src))) :=
  congrArg Host.Outcome.next (if_neg (not_or.2 ⟨named, not_or.2 ⟨up, kept⟩⟩))

theorem exec_sourceLost {src : Source} (named : src ≠ .none) (dt : Nat) (s : State) : exec (.sourceLost dt src) s =
    .next (refSelect (sourceGone (arrive dt s) src)) :=
  congrArg Host.Outcome.next (if_neg named)

end Sys2Proof.Machine

open Sys2Proof Sys2Proof.Machine

/-- Settles O7: the selection leaves the qualification, and takes the best of it. -/
theorem sourceEventsSetQualification : Obligations.SourceEventsSetQualification := by
  unfold Obligations.SourceEventsSetQualification
  refine ⟨fun dt src s named up kept => ?_, fun dt src s named => ?_⟩
  · let a := sourceAdded (arrive dt s) src
    have checked := hkCheck_changes (arrive dt s) (refSelect a)
    have syn : (hkCheck (arrive dt s) (refSelect a)).syn = (refSelect a).syn := checked .syn (by decide)
    refine ⟨_, exec_sourceQualified named up kept dt, ?_, fun never there => ?_, ?_⟩
    · rw [syn]
      exact refSelect_qual a
    · have best : bestSource (hkCheck (arrive dt s) (refSelect a)) = bestSource a :=
        (bestSource_of_changes checked (by rw [syn]) (by rw [syn])).trans (refSelect_first_best (s := a) never)
      rw [best] at there ⊢
      rw [syn, refSelect_first (s := a) never, if_neg there]
      exact ⟨rfl, rfl⟩
    · have added : changesOnly [.syn] (arrive dt s) a := (changesOnly_set_syn (by decide)).2 (changesOnly_refl _ _)
      exact changesOnly_trans (changesOnly_mono (arrive_changes dt s) (by decide)) (changesOnly_trans (changesOnly_mono added (by decide))
        (changesOnly_trans (changesOnly_mono (refSelect_changes a) (by decide)) (changesOnly_mono checked (by decide))))
  · let a := sourceGone (arrive dt s) src
    refine ⟨_, exec_sourceLost named dt s, refSelect_qual a, fun ever there active gone => ?_, ?_⟩
    · rw [refSelect_best (s := a) ever there] at gone
      rw [refSelect_searches (s := a) ever there active gone]
      exact ⟨rfl, rfl, rfl, rfl⟩
    · have left : changesOnly [.syn] (arrive dt s) a := (changesOnly_set_syn (by decide)).2 (changesOnly_refl _ _)
      exact changesOnly_trans (changesOnly_mono (arrive_changes dt s) (by decide)) (changesOnly_trans (changesOnly_mono left (by decide))
        (changesOnly_mono (refSelect_changes a) (by decide)))
end

section
/-! Synthesisers that lose lock, try again, search and lock (R298–R301, R376–R378). -/

namespace Sys2Proof.Machine

theorem synthOf_congr {s t : State} (h : t.syn = s.syn) (n : Nat) : synthOf t n = synthOf s n := by rw [synthOf, synthOf, h]

theorem synthOf_arriveAt (due : Nat) (s : State) (n : Nat) : synthOf (arriveAt due s) n = synthOf s n := synthOf_congr (arrive_syn _ s) n

theorem synthOf_modSynth_same (s : State) {n : Nat} (h : n < 5) (f : Synth → Synth) : synthOf (modSynth s n f) n = f (synthOf s n) :=
  vget_vmod_same _ h f _

theorem synthOf_modSynth_ne (s : State) {n m : Nat} (h : m ≠ n) (f : Synth → Synth) : synthOf (modSynth s n f) m = synthOf s m :=
  vget_vmod_ne _ h.symm f _

/-! ### Searches -/

theorem synthOf_synTune_ne (s : State) {n m : Nat} (h : m ≠ n) : synthOf (synTune s n) m = synthOf s m := by
  unfold synTune
  split
  · exact synthOf_modSynth_ne s h _
  · rfl

/-- A search moves its own synthesiser alone (R298). -/
theorem synthOf_synSearch_ne (s : State) {n m : Nat} (h : m ≠ n) : synthOf (synSearch s n) m = synthOf s m := by
  unfold synSearch
  split
  · rw [synthOf_modSynth_ne _ h, synthOf_synTune_ne s h]
  · split
    · rfl
    · exact synthOf_modSynth_ne s h _

/-- A synthesiser that can run, with a span centre to lock to, searches from now on (R298). -/
theorem synthOf_synSearch_same {s : State} {n : Nat} (hn : n < 5) (runs : synCanRun s n = true) (centre : (spanCentre s).isSome) :
    synthOf (synSearch s n) n = { synthOf (synTune s n) n with state := .search, attemptAt := some s.tb.now, retryAt := none } := by
  rw [synSearch, if_pos ⟨runs, centre⟩, synthOf_modSynth_same _ hn]

/-! ### Retirement and faults -/

/-- A synthesiser as its retirement, and as a transient fault, leaves it (R300, R376, R377). -/
def synRetired (y : Synth) : Synth := { y with state := .retired, retired := true, attemptAt := none, retryAt := none }
def synGated (now : Nat) (l : List Nat) (y : Synth) : Synth :=
  { y with faults := now :: l, state := .gated, attemptAt := none, retryAt := some (now + 49152) }

/-- The spare that comes in searches; every other synthesiser stands (R301). -/
theorem synthOf_spareIn_ne (s : State) (q : Nat) {m : Nat} (h : m ≠ 4) : synthOf (spareIn s q) m = synthOf s m := by
  unfold spareIn
  refine (synthOf_congr (anlTrigger_changes _ 4 .syn (by decide)) m).trans ((synthOf_congr (post_syn _ _ _ _ _) m).trans ?_)
  exact synthOf_synSearch_ne _ h

/-- Of the synthesisers a retirement moves its own, and the spare where it comes in for one of a quad (R301, R378). -/
theorem synthOf_synRetire (s : State) {n : Nat} (hn : n < 5) (by_ : Nat) :
    synthOf (synRetire s n by_) n = synRetired (synthOf s n) ∧ ∀ m < 4, m ≠ n → synthOf (synRetire s n by_) m = synthOf s m := by
  unfold synRetire
  extract_lets q s1 s2 s3
  have syn : s3.syn = s1.syn := by
    refine Eq.trans ?_ (noteRetired_syn s1 3 n by_)
    unfold s3
    cases q with
    | some q => exact quadLost_changes s2 q .syn (by decide)
    | none => rfl
  have gone : synthOf s3 n = synRetired (synthOf s n) := (synthOf_congr syn n).trans (synthOf_modSynth_same s hn _)
  have others : ∀ m, m ≠ n → synthOf s3 m = synthOf s m := fun m hm => (synthOf_congr syn m).trans (synthOf_modSynth_ne s hm _)
  split
  · next spare =>
    exact ⟨(synthOf_spareIn_ne s3 n (by omega)).trans gone, fun m hm ne => (synthOf_spareIn_ne s3 n (by omega)).trans (others m ne)⟩
  · exact ⟨gone, fun m _ ne => others m ne⟩

/-- A fault: with fewer than three others in 60 s the synthesiser is gated and tries again 100 µs later, otherwise it retires (R377). -/
theorem synthOf_synFault (s : State) {n : Nat} (hn : n < 5) :
    ((recent s.tb.now (synthOf s n).faults).length < 3 →
      synthOf (synFault s n) n = synGated s.tb.now (recent s.tb.now (synthOf s n).faults) (synthOf s n)) ∧
    (3 ≤ (recent s.tb.now (synthOf s n).faults).length →
      synthOf (synFault s n) n = synRetired { synthOf s n with faults := recent s.tb.now (synthOf s n).faults }) ∧
    ∀ m < 4, m ≠ n → synthOf (synFault s n) m = synthOf s m := by
  unfold synFault
  extract_lets l
  split
  · next few =>
    refine ⟨fun _ => ?_, fun many => absurd few (not_lt.2 many), fun m _ ne => ?_⟩
    · exact (synthOf_congr (noteFault_syn _ _ _ _) n).trans (synthOf_modSynth_same s hn _)
    · exact (synthOf_congr (noteFault_syn _ _ _ _) m).trans (synthOf_modSynth_ne s ne _)
  · next many =>
    obtain ⟨own, others⟩ := synthOf_synRetire (modSynth s n fun y => { y with faults := l }) hn 1
    refine ⟨fun few => absurd few many, fun _ => ?_, fun m hm ne => ?_⟩
    · rw [own, synthOf_modSynth_same s hn]
    · rw [others m hm ne, synthOf_modSynth_ne s ne]

/-- Between two states a synthesiser has taken a fault: gated to try again 100 µs later while it is one of at most three in 60 s, else
retired; every other synthesiser but the spare stands (R300, R376, R377). -/
structure SynFaulted (s t : State) (n : Nat) : Prop where
  few : (recent t.tb.now (synthOf s n).faults).length < 3 → (synthOf t n).state = .gated ∧
    (synthOf t n).retryAt = some (t.tb.now + 49152) ∧ (synthOf t n).faults = t.tb.now :: recent t.tb.now (synthOf s n).faults
  many : 3 ≤ (recent t.tb.now (synthOf s n).faults).length → (synthOf t n).state = .retired ∧ (synthOf t n).retired = true
  others : ∀ m < 4, m ≠ n → synthOf t m = synthOf s m
  changes : changesOnly (withReports [.syn, .tx, .rx, .anl, .pwr, .hb]) s t

section
variable {s u : State} {n : Nat} (hn : n < 5)
include hn

theorem synFault_relocks : (synthOf (synFault u n) n).relocks = (synthOf u n).relocks := by
  obtain ⟨few, many, -⟩ := synthOf_synFault u hn
  obtain h | h := Nat.lt_or_ge (recent u.tb.now (synthOf u n).faults).length 3
  · rw [few h]
    rfl
  · rw [many h]
    rfl

/-- A fault counts against the faults before the row, where nothing before it in the row touches them. -/
theorem synFault_faulted (faults : (synthOf u n).faults = (synthOf s n).faults) (before : ∀ m, m ≠ n → synthOf u m = synthOf s m)
    (did : changesOnly (withReports [.syn, .tx, .rx, .anl, .pwr, .hb]) s u) : SynFaulted s (synFault u n) n := by
  have changes := synFault_changes u n
  have tb : (synFault u n).tb = u.tb := changes .tb (by decide)
  obtain ⟨few, many, others⟩ := synthOf_synFault u hn
  rw [faults] at few many
  refine ⟨fun h => ?_, fun h => ?_, fun m hm ne => (others m hm ne).trans (before m ne),
    changesOnly_trans did (changesOnly_mono changes (by decide))⟩
  · rw [tb] at h ⊢
    rw [few h]
    exact ⟨rfl, rfl, rfl⟩
  · rw [tb] at h
    rw [many h]
    exact ⟨rfl, rfl⟩

end

/-! ### The rows -/

/-- The loss of lock counted and told, before the fault it is (R300). -/
def lockLost (s : State) (n : Nat) : State :=
  let s := post (modSynth s n fun y => { y with relocks := satTo 255 (y.relocks + 1) }) 0x0A01 0 n (symIdNow s <<< 32)
  match quadOf s n with
  | some q => quadLost s q
  | none => s

/-- Of the synthesisers, the loss of lock changes its own count of relocks (R300). -/
theorem lockLost_syn (s : State) (n : Nat) :
    (lockLost s n).syn = (modSynth s n fun y => { y with relocks := satTo 255 (y.relocks + 1) }).syn := by
  unfold lockLost
  extract_lets s1
  have told : s1.syn = _ := post_syn _ _ _ _ _
  split
  · next q _ => exact (quadLost_changes s1 q .syn (by decide)).trans told
  · exact told

theorem lockLost_changes (s : State) (n : Nat) : changesOnly [.syn, .host, .tx, .rx, .anl, .pwr, .hb, .out] s (lockLost s n) := by
  unfold lockLost
  extract_lets s1
  have told : changesOnly [.syn, .host, .tx, .rx, .anl, .pwr, .hb, .out] s s1 :=
    changesOnly_trans (changesOnly_mono (modSynth_changes s n _) (by decide)) (changesOnly_mono (post_changes _ _ _ _ _) (by decide))
  split
  · next q _ => exact changesOnly_trans told (changesOnly_mono (quadLost_changes s1 q) (by decide))
  · exact told

theorem exec_synUnlock {s : State} {n : Fin 5} (locked : (synthOf s n).state = .locked) (dt : Nat) :
    exec (.synUnlock dt n) s = .next (synFault (lockLost (arrive dt s) n) n) :=
  congrArg Host.Outcome.next (if_neg (not_not.2 locked))

theorem exec_relockFail {s : State} {n : Fin 5} {a : Nat} (attempt : (synthOf s n).attemptAt = some a) :
    exec (.relockFail n) s = .next (synFault (arriveAt (a + 491520) s) n) := by
  change execRelockFail n s = _
  rw [execRelockFail, attempt]

theorem exec_relockStart {s : State} {n : Fin 5} {a : Nat} (waits : (synthOf s n).retryAt = some a) :
    exec (.relockStart n) s = .next (synSearch (arriveAt a s) n) := by
  change execRelockStart n s = _
  rw [execRelockStart, waits]

/-- The lock found is taken and told; the paths of the quad begin anew, and no synthesiser but its own changes (R275, R298). -/
theorem exec_synLock {s : State} {n : Fin 5} (searches : (synthOf s n).state = .search ∨ (synthOf s n).state = .locking) (dt : Nat)
    (band : BitVec 8) : ∃ t, exec (.synLock dt n band) s = .next t ∧
      t.syn = (modSynth s n fun y => { y with state := .locked, band := band, attemptAt := none }).syn ∧
      changesOnly (withReports [.syn, .rx, .pwr]) s t := by
  let told := post (modSynth (arrive dt s) n fun y => { y with state := .locked, band := band, attemptAt := none }) 0x0A02 5 n band.toNat
  have syn : told.syn = _ := post_syn _ _ _ _ _
  have did : changesOnly (withReports [.syn, .rx, .pwr]) s told :=
    changesOnly_trans (changesOnly_mono (arrive_changes dt s) (by decide)) (changesOnly_trans
      (changesOnly_mono (modSynth_changes _ n _) (by decide)) (changesOnly_mono (post_changes _ _ _ _ _) (by decide)))
  have run : exec (.synLock dt n band) s = .next (match quadOf told n with
    | some q => quadResets told q
    | none => told) := congrArg Host.Outcome.next (if_pos searches)
  rw [run]
  cases quadOf told n with
  | none => exact ⟨_, rfl, syn, did⟩
  | some q =>
    have resets := quadResets_changes told q
    exact ⟨_, rfl, (resets .syn (by decide)).trans syn, changesOnly_trans did (changesOnly_mono resets (by decide))⟩

end Sys2Proof.Machine

open Sys2Proof Sys2Proof.Machine

/-- Settles O9: a fault is one function of the synthesiser's recent faults, a search and a lock change their own synthesiser. -/
theorem synthesiserFaultsRetriesAndLocks : Obligations.SynthesiserFaultsRetriesAndLocks := by
  unfold Obligations.SynthesiserFaultsRetriesAndLocks
  extract_lets after
  have faulted : ∀ {s t : State} {n : Nat}, SynFaulted s t n → after s t n := fun h => ⟨h.few, h.many, h.others, h.changes⟩
  refine ⟨⟨fun dt n s locked => ?_, fun n s a attempt => ?_⟩, fun n s a waits runs centre => ?_, fun dt n band s searches => ?_⟩
  · let u := lockLost (arrive dt s) n
    have syn : u.syn = _ := lockLost_syn (arrive dt s) n
    have own : synthOf u n = _ := (synthOf_congr syn n).trans (synthOf_modSynth_same _ n.isLt _)
    have now : (synFault u n).tb = (arrive dt s).tb := (synFault_changes u n .tb (by decide)).trans (lockLost_changes _ n .tb (by decide))
    refine ⟨_, exec_synUnlock locked dt, by rw [now]; rfl, ?_, faulted (synFault_faulted n.isLt (by rw [own]; rfl) (fun m ne => ?_) ?_)⟩
    · rw [synFault_relocks n.isLt, own]
      rfl
    · exact (synthOf_congr syn m).trans (synthOf_modSynth_ne _ ne _)
    · exact changesOnly_trans (changesOnly_mono (arrive_changes dt s) (by decide)) (changesOnly_mono (lockLost_changes _ n) (by decide))
  · have now := (synFault_changes (arriveAt (a + 491520) s) n) .tb (by decide)
    refine ⟨_, exec_relockFail attempt, (congrArg Tb.now now).trans (arriveAt_now _ s), faulted (synFault_faulted n.isLt ?_ ?_ ?_)⟩
    · rw [synthOf_arriveAt]
    · exact fun m _ => synthOf_arriveAt _ s m
    · exact changesOnly_mono (arrive_changes _ s) (by decide)
  · have own := synthOf_synSearch_same (s := arriveAt a s) n.isLt runs centre
    have did := synSearch_changes (arriveAt a s) n
    have tb : (synSearch (arriveAt a s) n).tb = (arriveAt a s).tb := did .tb (by decide)
    refine ⟨_, exec_relockStart waits, by rw [tb, arriveAt_now], by rw [own], by rw [own, tb], by rw [own],
      fun m ne => synthOf_synSearch_ne _ ne, ?_, ?_⟩
    · rw [show (synSearch (arriveAt a s) n).host = (arriveAt a s).host from did .host (by decide)]
      rfl
    · exact changesOnly_trans (changesOnly_mono (arrive_changes _ s) (by decide)) (changesOnly_mono did (by decide))
  · obtain ⟨t, run, syn, did⟩ := exec_synLock searches dt band
    exact ⟨t, run, (synthOf_congr syn n).trans (synthOf_modSynth_same s n.isLt _),
      fun m ne => (synthOf_congr syn m).trans (synthOf_modSynth_ne s ne _), did⟩
end

section
/-! The loss of the reference and of the sample clock (R291, R293, R295, R376, R377): every path off the air at once. -/

namespace Sys2Proof.Machine

/-! ### Paths off the air -/

/-- A path sends nothing and its own line holds no PA enable (R260). -/
structure AtRest (t : TxPath) : Prop where
  radiating : t.radiating = false
  paen : t.paen = false
  paenOff : t.paenOff = 0

theorem pathCut_atRest (s : State) (t : TxPath) : AtRest (pathCut s t) := ⟨rfl, rfl, rfl⟩

theorem txOf_congr {s t : State} (path : t.tx.path = s.tx.path) (p : Nat) : txOf t p = txOf s p := by rw [txOf, txOf, path]

theorem atRest_linesIdle (s : State) {chosen : Nat → Bool} {p : Nat} (hp : p < 64) (taken : chosen p = true) :
    AtRest (txOf (linesIdle s chosen) p) := by
  rw [txOf_linesIdle s chosen hp, if_pos taken]
  exact ⟨rfl, rfl, rfl⟩

/-- Lines cut leave the chosen paths at rest, and the others as they were (R260). -/
theorem atRest_linesCut {s : State} {chosen : Nat → Bool} {p : Nat} (hp : p < 64) (h : chosen p = true ∨ AtRest (txOf s p)) :
    AtRest (txOf (linesCut s chosen) p) := by
  have own : txOf (linesCut s chosen) p = if chosen p then pathCut s (txOf s p) else txOf s p := by
    simp only [txOf, linesCut, vget_vall _ _ hp]
  rw [own]
  split
  · exact pathCut_atRest s _
  · next other => exact h.resolve_left other

/-- Without the sample clock no synthesiser counts as locked, and nothing injects (R295, R297, R320). -/
theorem injecting_of_pllDown {s : State} (down : s.syn.pllLocked = false) (p : Nat) : injecting s p = false := by
  have lo (q k : Nat) : quadLocked s q k = false := by simp [quadLocked, down]
  unfold injecting
  split
  · simp [injectsIn, lo]
  · rfl

/-- Without the sample clock a path at rest that will not send shows an inactive PA enable. -/
theorem AtRest.quiet {s : State} {p : Nat} (h : AtRest (txOf s p)) (down : s.syn.pllLocked = false) (silent : willRadiate s p = false) :
    (txOf s p).radiating = false ∧ paenLine s p = false :=
  ⟨h.radiating, by simp [paenLine, h.paen, h.paenOff, silent, injecting_of_pllDown down]⟩

/-! ### The quads that lose their LO -/

/-- A quad's loss of its LO is noted, so that it counts once in a symbol (R300). -/
def quadNoted (s : State) (q : Nat) : State := { s with tx := { s.tx with retuned := s.tx.retuned ||| 1#4 <<< q } }

theorem linesCut_quadNoted (s : State) (q : Nat) (chosen : Nat → Bool) :
    (linesCut (quadNoted s q) chosen).tx.retuned = s.tx.retuned ||| 1#4 <<< q ∧
    (linesCut (quadNoted s q) chosen).tx.lockOk = s.tx.lockOk := by
  simp only [linesCut, quadNoted, and_self]

/-- A quad's loss of its LO cuts its paths and bars them from the next symbol (R256, R260, R300). -/
theorem quadLost_tx {s : State} {q : Nat} (fresh : bit s.tx.retuned.toNat q = false) :
    (quadLost s q).tx.path = (linesCut (quadNoted s q) fun p => decide (p / 16 = q)).tx.path ∧
    (quadLost s q).tx.retuned = s.tx.retuned ||| 1#4 <<< q ∧ (quadLost s q).tx.lockOk = vmod s.tx.lockOk q fun _ => false := by
  unfold quadLost
  rw [if_neg (ne_true_of_eq_false fresh)]
  extract_lets k x noted cut failed settled late
  have anneal : failed.tx = cut.tx := anlLoLost_changes cut q .tx (by decide)
  clear_value failed
  have receive : changesOnly [.host, .rx, .pwr, .hb, .out] failed settled := changesOnly_ite
    (changesOnly_all 16 (lateRx_changes failed k q false) fun y i h => changesOnly_trans h (changesOnly_mono
      (changesOnly_trans (modRx_changes y _ _) (settle_changes _ _ _ _)) (by decide)))
    (changesOnly_refl _ _)
  clear_value settled
  have next : changesOnly [.host, .rx, .pwr, .hb, .out] settled late := changesOnly_ite (lateRx_changes settled _ q false) (changesOnly_refl _ _)
  have tx : late.tx = (linesCut (quadNoted s q) fun p => decide (p / 16 = q)).tx :=
    (next .tx (by decide)).trans ((receive .tx (by decide)).trans anneal)
  clear_value late
  obtain ⟨retuned, lockOk⟩ := linesCut_quadNoted s q fun p => decide (p / 16 = q)
  rw [← tx] at retuned lockOk ⊢
  exact ⟨rfl, retuned, congrArg (fun v => vmod v q fun _ => false) lockOk⟩

/-- A path whose LO is gone: at rest, and barred from the next symbol by its quad's lock check. -/
structure LoGone (s : State) (p : Nat) : Prop where
  rests : AtRest (txOf s p)
  barred : vget s.tx.lockOk (p / 16) false = false

theorem loGone_quadLost {s : State} {q p : Nat} (hp : p < 64) (fresh : bit s.tx.retuned.toNat q = false) (h : p / 16 = q ∨ LoGone s p) :
    LoGone (quadLost s q) p := by
  obtain ⟨path, -, lockOk⟩ := quadLost_tx fresh
  refine ⟨?_, ?_⟩
  · rw [txOf_congr path]
    exact atRest_linesCut hp (h.imp (fun own => decide_eq_true own) fun gone => gone.rests)
  · rw [lockOk]
    by_cases own : q = p / 16
    · subst own
      exact vget_vmod_same _ (by omega) _ _
    · exact (vget_vmod_ne _ own _ _).trans (h.resolve_left (Ne.symm own)).barred

theorem LoGone.of_tx {s t : State} {p : Nat} (h : LoGone s p) (tx : t.tx = s.tx) : LoGone t p :=
  ⟨by rw [txOf, tx]; exact h.rests, by rw [tx]; exact h.barred⟩

/-- Without the sample clock a path whose LO is gone shows an inactive PA enable. -/
theorem LoGone.quiet {s : State} {p : Nat} (h : LoGone s p) (down : s.syn.pllLocked = false) :
    (txOf s p).radiating = false ∧ paenLine s p = false :=
  h.rests.quiet down (by simp [willRadiate, h.barred])

/-- The quads lost one after another, none of them twice: every path of theirs is off the air (R293, R295). -/
theorem quadsLost_gone {s : State} (fresh : s.tx.retuned = 0) (n : Nat) (hn : n ≤ 4) :
    (forAll n s quadLost).tx.retuned = BitVec.ofNat 4 (2 ^ n - 1) ∧ ∀ p < 64, p / 16 < n → LoGone (forAll n s quadLost) p := by
  induction n with
  | zero => exact ⟨fresh, fun _ _ h => absurd h (Nat.not_lt_zero _)⟩
  | succ n ih =>
    obtain ⟨noted, gone⟩ := ih (Nat.le_of_succ_le hn)
    have step : forAll (n + 1) s quadLost = quadLost (forAll n s quadLost) n := by
      rw [forAll, List.range_succ, List.foldl_append]
      rfl
    have unlost : ∀ n < 4, bit (BitVec.ofNat 4 (2 ^ n - 1)).toNat n = false ∧
        BitVec.ofNat 4 (2 ^ n - 1) ||| 1#4 <<< n = BitVec.ofNat 4 (2 ^ (n + 1) - 1) := by decide
    obtain ⟨new, after⟩ := unlost n hn
    rw [← noted] at new after
    obtain ⟨-, retuned, -⟩ := quadLost_tx new
    rw [step]
    exact ⟨retuned.trans after, fun p hp h => loGone_quadLost hp new
      ((Nat.lt_succ_iff_lt_or_eq.1 h).symm.imp_right (gone p hp))⟩

theorem quadsLost_changes (s : State) : changesOnly [.host, .tx, .rx, .anl, .pwr, .hb, .out] s (forAll 4 s quadLost) :=
  changesOnly_foldl _ quadLost quadLost_changes _ s

/-! ### REF_LOST (R293, R294) -/

/-- The reference is gone: the sample clock and the synthesisers with it, every path at rest, and the carriers wait to resume. -/
structure RefGone (t : State) : Prop where
  lost : t.syn.refLost = true
  state : t.syn.refState = .lost
  pll : t.syn.pllLocked = false
  synths : ∀ n < 5, (synthOf t n).state = .retired ∨ (synthOf t n).state = .off ∨ (synthOf t n).state = .gated
  rests : ∀ p < 64, AtRest (txOf t p)
  held : t.mod.refHeld = true

theorem RefGone.of_changes {l : List Part} {s t : State} (gone : RefGone s) (h : changesOnly l s t)
    (hl : ∀ p ∈ [Part.syn, .mod, .tx], p ∉ l := by decide) : RefGone t := by
  have syn : t.syn = s.syn := h .syn (hl _ (by decide))
  have mod : t.mod = s.mod := h .mod (hl _ (by decide))
  have tx : t.tx = s.tx := h .tx (hl _ (by decide))
  refine ⟨by rw [syn]; exact gone.lost, by rw [syn]; exact gone.state, by rw [syn]; exact gone.pll, fun n hn => ?_,
    fun p hp => ?_, by rw [mod]; exact gone.held⟩
  · rw [synthOf_congr syn]
    exact gone.synths n hn
  · rw [txOf, tx]
    exact gone.rests p hp

theorem refLostNow_gone (s : State) : RefGone (refLostNow s) := by
  unfold refLostNow
  extract_lets lost stopped _ _ u
  have gone : RefGone u := by
    refine ⟨rfl, rfl, rfl, fun n hn => ?_, fun p hp => ?_, rfl⟩
    · rw [synthOf, vget_vall _ _ hn]
      dsimp only
      split
      · exact .inl rfl
      · split
        · exact .inr (.inl rfl)
        · exact .inr (.inr rfl)
    · have stop : stopped.tx = (linesIdle lost fun _ => true).tx := tbStop_changes _ .tx (by decide)
      have same : txOf u p = txOf (linesIdle lost fun _ => true) p := txOf_congr (congrArg Tx.path stop) p
      rw [same]
      exact atRest_linesIdle lost hp rfl
  exact (((gone.of_changes (post_changes u _ _ _ _)).of_changes (hbCount_changes _ 10)).of_changes (anlFail_changes _ 14)).of_changes
    (biasForce_changes _)

theorem RefGone.quiet {t : State} (gone : RefGone t) {p : Nat} (hp : p < 64) : (txOf t p).radiating = false ∧ paenLine t p = false :=
  (gone.rests p hp).quiet gone.pll (by simp [willRadiate, tbOn, clkOn, gone.lost])

theorem exec_refLost {s : State} {t0 : Nat} (searches : s.syn.holdoverAt = some t0) :
    exec .refLost s = .next (hkCheck s (refLostNow (arriveAt (t0 + 4915200) s))) := by
  change execRefLost s = _
  rw [execRefLost, searches]

/-! ### The sample clock (R295, R376, R377) -/

/-- Of SYN a fault of the sample clock changes its list of faults and whether it is permanent (R377). -/
theorem pllFault_syn (s : State) :
    ((recent s.tb.now s.syn.pllFaults).length < 3 →
      (pllFault s).syn = { s.syn with pllFaults := s.tb.now :: recent s.tb.now s.syn.pllFaults }) ∧
    (3 ≤ (recent s.tb.now s.syn.pllFaults).length →
      (pllFault s).syn = { s.syn with pllFaults := recent s.tb.now s.syn.pllFaults, pllRetired := true }) := by
  unfold pllFault
  extract_lets l
  refine ⟨fun few => ?_, fun many => ?_⟩
  · rw [if_pos few, noteFault_syn]
  · rw [if_neg (not_lt.2 many), noteRetired_syn]

theorem pllFault_keeps (s : State) : (pllFault s).syn.pllLocked = s.syn.pllLocked ∧ (pllFault s).syn.synth = s.syn.synth := by
  obtain ⟨few, many⟩ := pllFault_syn s
  obtain h | h := Nat.lt_or_ge (recent s.tb.now s.syn.pllFaults).length 3
  · rw [few h]
    exact ⟨rfl, rfl⟩
  · rw [many h]
    exact ⟨rfl, rfl⟩

/-- The sample clock is no longer locked, and that is told (R295). -/
def pllUnlocked (s : State) : State := post { s with syn := { s.syn with pllLocked := false } } 0x0A01 0 5 (symIdNow s <<< 32)

theorem pllUnlocked_changes (s : State) : changesOnly [.syn, .host, .pwr, .out] s (pllUnlocked s) := by
  have unlocked : changesOnly [.syn] s { s with syn := { s.syn with pllLocked := false } } :=
    (changesOnly_set_syn (by decide)).2 (changesOnly_refl _ s)
  exact changesOnly_trans (changesOnly_mono unlocked (by decide)) (changesOnly_mono (post_changes _ _ _ _ _) (by decide))

theorem exec_samplePllUnlock {s : State} (locked : s.syn.pllLocked = true) (on : clkOn s = true) (dt : Nat) :
    exec (.samplePllUnlock dt) s = .next (pllFault (forAll 4 (pllUnlocked (arrive dt s)) quadLost)) :=
  congrArg Host.Outcome.next (if_pos ⟨locked, on⟩)

section
variable {s : State} (unlocked : s.syn.pllLocked = false) (lives : s.syn.pllRetired = false) (on : clkOn s = true) (dt : Nat)
include unlocked lives on

/-- The attempt of a sample clock that is neither locked nor permanent ends in lock, or as a fault (R295, R376). -/
theorem relock_not_barred : ¬ ((arrive dt s).syn.pllLocked = true ∨ (arrive dt s).syn.pllRetired = true ∨ (!clkOn (arrive dt s)) = true) := by
  rw [arrive_syn, show clkOn (arrive dt s) = true from on, unlocked, lives]
  decide

theorem exec_samplePllRelock_locks : exec (.samplePllRelock dt true) s =
    .next (post { arrive dt s with syn := { (arrive dt s).syn with pllLocked := true } } 0x0A02 5 5 0) :=
  congrArg Host.Outcome.next ((if_neg (relock_not_barred unlocked lives on dt)).trans (if_pos rfl))

theorem exec_samplePllRelock_fails : exec (.samplePllRelock dt false) s = .next (pllFault (arrive dt s)) :=
  congrArg Host.Outcome.next ((if_neg (relock_not_barred unlocked lives on dt)).trans (if_neg (by decide)))

end

end Sys2Proof.Machine

open Sys2Proof Sys2Proof.Machine

/-- Settles O8: every quad is lost once, so every path is at rest, and without the clock nothing starts one. -/
theorem clockLossSilencesPathsAndRelockEnds : Obligations.ClockLossSilencesPathsAndRelockEnds := by
  unfold Obligations.ClockLossSilencesPathsAndRelockEnds
  refine ⟨⟨fun s t0 searches => ?_, fun dt s locked on fresh => ?_⟩, fun dt ok s unlocked lives on => ?_⟩
  · have did := refLostNow_changes (arriveAt (t0 + 4915200) s)
    have checked := hkCheck_changes s (refLostNow (arriveAt (t0 + 4915200) s))
    have gone := (refLostNow_gone (arriveAt (t0 + 4915200) s)).of_changes checked
    have tb := (checked .tb (by decide)).trans (did .tb (by decide))
    have changes : changesOnly (withReports [.syn, .mod, .tx, .rx, .anl, .pwr, .hka, .bias, .hb]) s _ :=
      changesOnly_trans (changesOnly_mono (arrive_changes _ s) (by decide))
        (changesOnly_trans (changesOnly_mono did (by decide)) (changesOnly_mono checked (by decide)))
    refine ⟨_, exec_refLost searches, ?_⟩
    generalize hkCheck s (refLostNow (arriveAt (t0 + 4915200) s)) = t at gone tb changes ⊢
    exact ⟨gone.lost, gone.state, gone.pll, (congrArg Tb.now tb).trans (arriveAt_now _ s), gone.synths, fun p hp => gone.quiet hp,
      gone.held, changes⟩
  · let u := pllUnlocked (arrive dt s)
    let v := forAll 4 u quadLost
    have told := pllUnlocked_changes (arrive dt s)
    have lost := quadsLost_changes u
    have fault := pllFault_changes v
    obtain ⟨clock, -⟩ := pllFault_keeps v
    have down : (pllFault v).syn.pllLocked = false := by
      rw [clock, show v.syn = u.syn from lost .syn (by decide), show u.syn = _ from post_syn _ _ _ _ _]
    have tx : (pllFault v).tx = v.tx := fault .tx (by decide)
    have unlost : u.tx.retuned = 0 := by rw [show u.tx = s.tx from told .tx (by decide), fresh]
    obtain ⟨-, all⟩ := quadsLost_gone unlost 4 le_rfl
    refine ⟨_, exec_samplePllUnlock locked on dt, down, fun p hp => ?_, ?_⟩
    · exact ((all p hp (by omega)).of_tx tx).quiet down
    · exact changesOnly_trans (changesOnly_mono (arrive_changes dt s) (by decide)) (changesOnly_trans (changesOnly_mono told (by decide))
        (changesOnly_trans (changesOnly_mono lost (by decide)) (changesOnly_mono fault (by decide))))
  · have came : changesOnly (withReports [.syn, .pwr, .hb]) s (arrive dt s) := changesOnly_mono (arrive_changes dt s) (by decide)
    cases ok with
    | true =>
      refine ⟨_, exec_samplePllRelock_locks unlocked lives on dt, ?_⟩
      rw [post_syn]
      refine ⟨rfl, fun h => absurd h (by decide), fun h => absurd h (by decide), rfl, ?_⟩
      exact changesOnly_trans ((changesOnly_set_syn (by decide)).2 came) (changesOnly_mono (post_changes _ _ _ _ _) (by decide))
    | false =>
      obtain ⟨few, many⟩ := pllFault_syn (arrive dt s)
      obtain ⟨clock, synth⟩ := pllFault_keeps (arrive dt s)
      refine ⟨_, exec_samplePllRelock_fails unlocked lives on dt, clock.trans unlocked, fun _ h => ?_, fun _ h => ?_, synth,
        changesOnly_trans came (changesOnly_mono (pllFault_changes _) (by decide))⟩
      · rw [few h]
        exact ⟨rfl, lives⟩
      · rw [many h]
end

section
/-! Anneal's runs (R322, R325, R328, R329): how one begins, is over, fails, is tried again or blocks Anneal. The corrections in force see none
of it. -/

namespace Sys2Proof.Machine

/-! ### The end of a run -/

@[simp] theorem endRefs_anl (s : State) (l : List CmdRef) (status cause : Nat) : (endRefs s l status cause).anl = s.anl :=
  endRefs_changes s l status cause .anl (by decide)

/-- A run that is over, a latched one begun behind it or not, leaves the corrections and the count of accepted runs. -/
theorem anlOver_keeps (s : State) (st : AnlState) :
    (anlOver s st).anl.corr = s.anl.corr ∧ (anlOver s st).anl.done = s.anl.done ∧ (anlOver s st).anl.lastAt = s.anl.lastAt := by
  cases latched : s.anl.next with
  | none => simp only [anlOver, latched, and_self]
  | some r =>
    simp only [anlOver, latched]
    split <;> exact ⟨rfl, rfl, rfl⟩

/-- Anneal with its run over and none behind it. -/
def runOver (a : Anl) (st : AnlState) : Anl := { a with run := none, state := st, stale := 0, pending := false }

theorem anlOver_anl_of_noNext {s : State} (h : s.anl.next = none) (st : AnlState) : (anlOver s st).anl = runOver s.anl st := by
  simp only [anlOver, h, runOver]

/-! ### Failures (R328, R329) -/

/-- What every failure of a run writes down, before what its cause asks for. -/
def failureNoted (a : Anl) (code : Nat) : Anl :=
  { a with
    lastCause := code, failed := satTo 0xFFFF (a.failed + 1), stale := 0, gpN := 0, obs := 0
    apply := a.apply.filter fun p => !p.ofRun }

/-- A failure that may be tried again waits for measurement 1. -/
def failureRetried (a : Anl) (r : AnlRun) (now : Nat) : Anl :=
  { a with attempt := a.attempt + 1, state := .waiting, asked := false, run := some { r with meas := 1, frames := 0, since := now } }

/-- A failure posted and written down. -/
def failureTold (s : State) (code : Nat) : State :=
  let t := post s 0x0B02 6 0xFFFF (code ||| s.anl.attempt <<< 8 ||| symIdNow s <<< 32)
  { t with anl := failureNoted t.anl code }

/-- The readings of the sensors at which Anneal is blocked (R329). -/
def blockTemps (s : State) : Vector Int 4 := Vector.ofFn fun q => ((sensorOf s (16 + q.val)).temp).getD 0

/-- Blocked: no run is latched, and Anneal waits for other temperatures. -/
def blockNoted (a : Anl) (temps : Vector Int 4) : Anl := { a with next := none, blockTemp := temps }

/-- Anneal blocked: the commands of a latched run end as well. -/
def failureBlocks (s : State) (code : Nat) : State :=
  let t := endRefs s ((s.anl.next.map (·.refs)).getD []) 2 (anlCause code)
  let u := hbCount (post t 0x0B03 6 0xFFFF code) 11
  anlOver { u with anl := blockNoted u.anl (blockTemps u) } .blocked

theorem failureTold_anl (s : State) (code : Nat) : (failureTold s code).anl = failureNoted s.anl code := by simp [failureTold]

theorem failureTold_now (s : State) (code : Nat) : (failureTold s code).tb.now = s.tb.now := by simp [failureTold]

theorem failureBlocks_anl (s : State) (code : Nat) :
    ∃ temps, (failureBlocks s code).anl = runOver (blockNoted s.anl temps) .blocked := by
  unfold failureBlocks
  extract_lets t u
  refine ⟨blockTemps u, ?_⟩
  rw [anlOver_anl_of_noNext rfl, show u.anl = s.anl by simp [u, t]]

section
variable {s : State} {r : AnlRun} (runs : s.anl.run = some r)
include runs

/-- A failure, by its cause and the attempts left (R328, R329). -/
theorem anlFail_of_run (code : Nat) :
    let t := failureTold s code
    let ended := endRefs t r.refs 2 (anlCause code)
    anlFail s code =
      if code ≤ 9 ∧ t.anl.attempt < 4 then { t with anl := failureRetried t.anl r t.tb.now }
      else if code ≤ 9 ∨ code = 11 ∨ code = 12 then failureBlocks ended code
      else if code = 10 then anlOver ended .idle
      else { ended with anl := { ended.anl with
        run := none, state := .idle, latched := r.trigger, pending := ended.anl.next.isSome } } := by
  unfold anlFail
  rw [runs]
  rfl

theorem anlFail_retries {code : Nat} (retry : code ≤ 9) (left : s.anl.attempt < 4) :
    (anlFail s code).anl = failureRetried (failureNoted s.anl code) r s.tb.now := by
  have again : code ≤ 9 ∧ (failureTold s code).anl.attempt < 4 := ⟨retry, by rwa [failureTold_anl]⟩
  rw [(anlFail_of_run runs code).trans (if_pos again), failureTold_anl, failureTold_now]

/-- NO_GUARD blocks at once. -/
theorem anlFail_noGuard : ∃ temps, (anlFail s 11).anl = runOver (blockNoted (failureNoted s.anl 11) temps) .blocked := by
  obtain ⟨temps, blocked⟩ := failureBlocks_anl (endRefs (failureTold s 11) r.refs 2 (anlCause 11)) 11
  refine ⟨temps, ?_⟩
  rw [(anlFail_of_run runs 11).trans ((if_neg (by simp)).trans (if_pos (by simp))), blocked, endRefs_anl, failureTold_anl]

/-- A run that the host stops is over, when none is latched behind it. -/
theorem anlFail_stopped (alone : s.anl.next = none) :
    (anlFail s 10).anl = runOver (failureNoted s.anl 10) .idle := by
  have none_next : (endRefs (failureTold s 10) r.refs 2 (anlCause 10)).anl.next = none := by
    rw [endRefs_anl, failureTold_anl]
    exact alone
  rw [(anlFail_of_run runs 10).trans ((if_neg (by simp)).trans ((if_neg (by simp)).trans (if_pos rfl))), anlOver_anl_of_noNext none_next,
    endRefs_anl, failureTold_anl]

end

/-- No failure changes a correction in force (R328). -/
theorem anlFail_corr (s : State) (code : Nat) : (anlFail s code).anl.corr = s.anl.corr := by
  cases runs : s.anl.run with
  | none => simp only [anlFail, runs]
  | some r =>
    have told : (failureTold s code).anl.corr = s.anl.corr := (congrArg Anl.corr (failureTold_anl s code) :)
    have ended : (endRefs (failureTold s code) r.refs 2 (anlCause code)).anl.corr = s.anl.corr := by rw [endRefs_anl, told]
    rw [anlFail_of_run runs]
    split
    · exact told
    split
    · obtain ⟨temps, blocked⟩ := failureBlocks_anl (endRefs (failureTold s code) r.refs 2 (anlCause code)) code
      rw [blocked]
      exact ended
    split
    · exact (anlOver_keeps _ _).1.trans ended
    · exact ended

end Sys2Proof.Machine
end

section
/-! A guard period granted to Anneal (R319, R320, R322, R326, R327): the frames that it adds to a measurement. -/

namespace Sys2Proof.Machine

/-- A run whose measurement has n frames: sixteen end measurement 1 (R322). -/
def runMeasured (r : AnlRun) (n now : Nat) : AnlRun :=
  if 16 ≤ n ∧ r.meas = 1 then { r with meas := 2, frames := 0, m1End := now } else { r with frames := n }

/-- The injection frames that a guard period in use holds (R319). -/
def guardHolds (s : State) : Nat := guardFrames (s.anl.gpEnd - s.anl.gpAt)

/-- A guard period whose frames were taken: the run that had frames before it is now m, of the frames that it holds. -/
def guardTaken (s : State) (before holds : Nat) (m : AnlRun) : State :=
  { s with anl := { s.anl with
    gpFrom := before, gpN := min (16 - before) holds, run := some m, asked := false, partner := none
    state := if m.meas = 1 then .meas1 else .meas2 } }

theorem guardTaken_anl (s : State) (before holds : Nat) (m : AnlRun) :
    (guardTaken s before holds m).anl.corr = s.anl.corr ∧ (guardTaken s before holds m).anl.stale = s.anl.stale ∧
      (guardTaken s before holds m).anl.gpEnd = s.anl.gpEnd :=
  ⟨rfl, rfl, rfl⟩

/-- A guard period in use, its preconditions met: the frames that fit are added to the run's measurement. -/
def guardDone (x : State × AnlRun) : State :=
  guardTaken x.1 x.2.frames (guardHolds x.1) (runMeasured x.2 (x.2.frames + guardHolds x.1) x.1.tb.now)

theorem guardPeriod_measures {s : State} {noise : Int} {grants : BitVec 4} {r : AnlRun} {x : State × AnlRun}
    (opens : guardOpen (landsSampled s grants) r = x) (runs : s.anl.run = some r) (usable : guardUsable (landsSampled s grants) r = true)
    (based : x.2.baseline = true ∨ (baselineOf x.1).isSome) (met : anlPrecondition x.1 x.2 noise = 0) :
    guardPeriod noise grants s = guardDone x := by
  have sampled : (landsSampled s grants).anl.run = some r := runs
  have haveBase : ¬ ((!x.2.baseline) = true ∧ (baselineOf x.1).isNone = true) := by
    rintro ⟨calibrates, none_there⟩
    obtain baseline | there := based
    · simp [baseline] at calibrates
    · simp [Option.isNone_iff_eq_none.1 none_there] at there
  unfold guardPeriod
  simp only [sampled, usable, opens]
  refine (if_neg (by simp)).trans ((if_neg haveBase).trans ((if_neg (not_not.2 met)).trans ?_))
  simp only [guardDone, guardTaken, guardHolds, runMeasured, decide_eq_true_eq]
  rfl

/-- What the beginning of a guard period leaves, and the paths that its first one makes stale (R326). -/
theorem guardOpen_anl (s : State) (r : AnlRun) :
    (guardOpen s r).1.anl.corr = s.anl.corr ∧
      (r.meas = 1 → r.frames = 0 → (guardOpen s r).1.anl.stale = (guardOpen s r).2.paths) :=
  ⟨rfl, fun first fresh => if_pos ⟨first, fresh⟩⟩

end Sys2Proof.Machine

open Sys2Proof Sys2Proof.Machine

/-- Settles O13: the frames are added to what the guard period finds, and the run is split by whether sixteen are reached. -/
theorem guardPeriodMeasures : Obligations.GuardPeriodMeasures := by
  unfold Obligations.GuardPeriodMeasures
  intro dt noise grants s r s1 x n runs usable based met
  have run : guardPeriod noise grants (arrive dt s) = guardDone x := guardPeriod_measures rfl runs usable based met
  have sampled : changesOnly [.tx] (arrive dt s) s1 := landsSampled_changes _ grants
  have opened : changesOnly [.mod, .anl] s1 x.1 := guardOpen_changes s1 r
  have host : x.1.host = (arrive dt s).host := (opened .host (by decide)).trans (sampled .host (by decide))
  have changes : changesOnly (withReports [.mod, .tx, .anl]) s x.1 :=
    changesOnly_trans (changesOnly_mono (arrive_changes dt s) (by decide))
      (changesOnly_trans (changesOnly_mono sampled (by decide)) (changesOnly_mono opened (by decide)))
  have anneal : s1.anl = s.anl := (sampled .anl (by decide)).trans (arrive_changes dt s .anl (by decide))
  obtain ⟨kept, stale⟩ : x.1.anl.corr = s1.anl.corr ∧ (r.meas = 1 → r.frames = 0 → x.1.anl.stale = x.2.paths) := guardOpen_anl s1 r
  have corr : x.1.anl.corr = s.anl.corr := kept.trans (congrArg Anl.corr anneal)
  clear_value x
  obtain ⟨corrLeft, staleLeft, endLeft⟩ :=
    guardTaken_anl x.1 x.2.frames (guardHolds x.1) (runMeasured x.2 (x.2.frames + guardHolds x.1) x.1.tb.now)
  refine ⟨guardDone x, congrArg Host.Outcome.next run, fun few => ?_, fun full first => ?_, fun full later => ?_,
    fun first fresh => staleLeft.trans (stale first fresh), rfl, ?_, endLeft, corrLeft.trans corr,
    (congrArg HostIf.mem host :), (changesOnly_set_anl (by decide)).2 changes⟩
  · exact congrArg some (if_neg fun h => absurd h.1 (Nat.not_le.2 few))
  · have ended : runMeasured x.2 (x.2.frames + guardHolds x.1) x.1.tb.now =
        { x.2 with meas := 2, frames := 0, m1End := x.1.tb.now } := if_pos ⟨full, first⟩
    exact ⟨congrArg some ended, if_neg (by rw [ended]; exact Nat.succ_ne_self 1)⟩
  · exact congrArg some (if_neg fun h => later h.2)
  · exact congrArg (min _) (Nat.add_sub_cancel_left ..).symm
end

section
/-! The end of a solve (R322, R323, R328, R334): corrections scheduled, a baseline taken, or the run tried again. -/

namespace Sys2Proof.Machine

/-- The solve of a run with both measurements taken, by whether they agree and what the run is for. -/
theorem solveEnd_of_run {s : State} {r : AnlRun} (runs : s.anl.run = some r) (second : r.meas = 2) (full : 16 ≤ r.frames)
    (measured : s.anl.state = .meas2) (l : List AnlResult) :
    solveEnd l s = if (anlUsed s r l).any fun x => !anlAgree s x then anlFail s 8
      else if r.baseline then anlDone (anlBaseline s r) r (symNow s) 0 0 else anlSchedule s r l := by
  have solved : ¬ (r.meas ≠ 2 ∨ r.frames < 16 ∨ s.anl.state ≠ .meas2) := by
    simp only [ne_eq, second, measured, not_true_eq_false, false_or, or_false, not_lt]
    exact full
  unfold solveEnd
  rw [runs]
  exact if_neg solved

/-- Anneal with two sets of corrections waiting for their ticks. -/
def corrected (a : Anl) (p q : AnlApply) (edges : Vector (BitVec 32) 16) : Anl :=
  { a with state := .applying, apply := a.apply ++ [p, q], edgeRes := edges }

/-- Results that agree leave two sets of corrections due, and no correction changed (R322, R330). -/
theorem anlSchedule_anl (s : State) (r : AnlRun) (l : List AnlResult) : ∃ p q edges,
    (anlSchedule s r l).anl = corrected s.anl p q edges := by
  have faulted : ∀ (f : AnlResult → Nat) (out : List AnlResult),
      (out.foldl (fun s x => pathFault (post s 0x0B04 0 x.path.val (f x)) x.path.val) s).anl = s.anl := fun f out =>
    changesOnly_foldl [.host, .tx, .pwr, .hb, .out] _ (fun s x => changesOnly_trans (changesOnly_mono (post_changes s _ _ _ _) (by decide))
      (changesOnly_mono (pathFault_changes _ _) (by decide))) out s .anl (by decide)
  unfold anlSchedule
  extract_lets used out ok sent s1 res base corr trims txa rxa
  have kept : s1.anl = s.anl := faulted _ out
  exact ⟨txa, rxa, _, congrArg (corrected · txa rxa _) kept⟩

/-- An accepted run counts, at this moment, and changes no correction (R325, R336). -/
theorem anlDone_keeps (s : State) (r : AnlRun) (k : Nat) (result : BitVec 64) (n : Nat) :
    (anlDone s r k result n).anl.corr = s.anl.corr ∧ (anlDone s r k result n).anl.done = satTo 0xFFFF (s.anl.done + 1) ∧
      (anlDone s r k result n).anl.lastAt = s.tb.now := by
  unfold anlDone
  extract_lets src s1 s2
  have ended : changesOnly [.host, .out] s1 s2 := by
    refine changesOnly_foldl _ _ (fun s f => ?_) r.refs s1
    split
    · exact changesOnly_refl _ s
    · exact cmdDone_changes s _
  have anl : (post s2 0x0B01 6 0xFFFF (r.trigger ||| n <<< 8 ||| symId s2 k <<< 32)).anl = s1.anl :=
    (post_anl s2 _ _ _ _).trans (ended .anl (by decide))
  obtain ⟨corr, done, lastAt⟩ := anlOver_keeps (post s2 0x0B01 6 0xFFFF (r.trigger ||| n <<< 8 ||| symId s2 k <<< 32)) .idle
  rw [anl] at corr done lastAt
  exact ⟨corr, done, lastAt⟩

/-- A baseline taken changes nothing else of Anneal (R334). -/
theorem anlBaseline_keeps (s : State) (r : AnlRun) :
    (anlBaseline s r).anl.corr = s.anl.corr ∧ (anlBaseline s r).anl.done = s.anl.done ∧ (anlBaseline s r).tb = s.tb := by
  unfold anlBaseline
  split <;> exact ⟨rfl, rfl, rfl⟩

end Sys2Proof.Machine

open Sys2Proof Sys2Proof.Machine

/-- Settles O14: by whether the two measurements agree, and for those that do by what the run is for. -/
theorem solveSchedulesOrRetries : Obligations.SolveSchedulesOrRetries := by
  unfold Obligations.SolveSchedulesOrRetries
  intro dt l s r runs second full measured
  let u := arrive dt s
  have solved := solveEnd_of_run (s := u) runs second full measured l
  have did : changesOnly [.host, .tx, .anl, .pwr, .hb, .out] u (solveEnd l u) := solveEnd_changes l u
  have now : (solveEnd l u).tb = u.tb := did .tb (by decide)
  have changes : changesOnly (withReports [.tx, .anl, .pwr, .hb]) s (solveEnd l u) :=
    changesOnly_trans (changesOnly_mono (arrive_changes dt s) (by decide)) (changesOnly_mono did (by decide))
  refine ⟨solveEnd l u, rfl, ?_⟩
  cases agree : (anlUsed s r l).all fun x => anlAgree s x with
  | true =>
    have same : (anlUsed u r l).any (fun x => !anlAgree u x) = false :=
      List.not_all_eq_any_not.symm.trans (congrArg (!·) agree)
    rw [same, if_neg Bool.false_ne_true] at solved
    cases baseline : r.baseline with
    | true =>
      rw [baseline, if_pos rfl] at solved
      obtain ⟨corr, done, lastAt⟩ := anlDone_keeps (anlBaseline u r) r (symNow u) 0 0
      obtain ⟨corr0, done0, tb0⟩ := anlBaseline_keeps u r
      rw [now]
      rw [← solved] at corr done lastAt
      refine ⟨corr.trans corr0, fun _ h => ?_, fun _ _ => ⟨done.trans ?_, lastAt.trans ?_⟩, fun h => ?_, changes⟩
      · cases h
      · rw [done0]; rfl
      · rw [tb0]
      · cases h
    | false =>
      rw [baseline, if_neg Bool.false_ne_true] at solved
      obtain ⟨p, q, edges, anl⟩ := anlSchedule_anl u r l
      rw [← solved] at anl
      rw [anl]
      refine ⟨rfl, fun _ _ => ⟨rfl, List.length_append, runs⟩, fun _ h => ?_, fun h => ?_, changes⟩
      · cases h
      · cases h
  | false =>
    have apart : (anlUsed u r l).any (fun x => !anlAgree u x) = true :=
      List.not_all_eq_any_not.symm.trans (congrArg (!·) agree)
    rw [if_pos apart] at solved
    have corr : (solveEnd l u).anl.corr = s.anl.corr := by
      rw [solved]
      exact anlFail_corr u 8
    refine ⟨corr, fun h => ?_, fun h => ?_, fun _ left => ?_, changes⟩
    · cases h
    · cases h
    · rw [now, solved, anlFail_retries (s := u) runs (by decide) left]
      exact ⟨rfl, rfl, rfl, rfl, rfl, rfl⟩
end

section
/-! Anneal's timers (R322, R325, R328) and the two copies of its record (R333, R334). -/

namespace Sys2Proof.Machine

theorem repeatTimeout_of_run {s : State} {r : AnlRun} (runs : s.anl.run = some r) (second : r.meas = 2) (fresh : r.frames = 0)
    (late : r.m1End + 49152000 ≤ s.tb.now) :
    repeatTimeout s = { s with anl := { s.anl with run := some { r with meas := 1, since := s.tb.now }, state := .waiting, obs := 0 } } := by
  unfold repeatTimeout
  rw [runs]
  exact if_pos ⟨second, fresh, late⟩

theorem noGuardEnd_of_run {s : State} {r : AnlRun} (runs : s.anl.run = some r) (waits : s.anl.state = .waiting)
    (late : r.since + 491520000 ≤ s.tb.now) : noGuardEnd s = anlFail s 11 := by
  unfold noGuardEnd
  rw [runs]
  exact if_pos ⟨waits, late⟩

/-- A trigger that nothing bars begins a run of its own (R325). -/
theorem anlTrigger_begins {s : State} (free : s.anl.state ≠ .blocked) (sends : txBarred s = false) (carriers : anlCarriers s ≠ [])
    (idle : s.anl.run = none) (code : Nat) : anlTrigger s code = anlBegin s (anlNewRun s code [] false none 0) := by
  have allowed : ¬ (s.anl.state = .blocked ∨ txBarred s = true) := by simp [free, sends]
  refine (if_neg allowed).trans ((if_neg carriers).trans ?_)
  simp only [anlAsk, idle]

/-- Anneal once a SAVE is over, with what its older copy then holds and which copy is the newest. -/
def saveOver (a : Anl) (copy : Option CalRecord) (newest : Nat) : Anl :=
  { a with saving := none, copies := vmod a.copies (1 - a.newest) fun _ => copy, newest := newest }

theorem saveEnd_anl {s : State} {ref : CmdRef} (saves : s.anl.saving = some ref) (ok : Bool) :
    (saveEnd ok s).anl = if ok then saveOver s.anl (some (calRecordOf s)) (1 - s.anl.newest) else saveOver s.anl none s.anl.newest := by
  unfold saveEnd
  rw [saves]
  cases ok with
  | true => exact doneRef_anl _ _ _
  | false => exact endRef_anl _ _ _ _ _

/-- The older copy changes, the newest stands. -/
theorem saveOver_copies {a : Anl} (two : a.newest < 2) (copy : Option CalRecord) (newest : Nat) :
    vget (saveOver a copy newest).copies (1 - a.newest) none = copy ∧
      vget (saveOver a copy newest).copies a.newest none = vget a.copies a.newest none :=
  ⟨vget_vmod_same _ (by omega) _ _, vget_vmod_ne _ (by omega) _ _⟩

end Sys2Proof.Machine

open Sys2Proof Sys2Proof.Machine

/-- Settles O15: each timer by the equation of its row at or past its due count, and the SAVE by its outcome. -/
theorem annealTimersAndSavedCopies : Obligations.AnnealTimersAndSavedCopies := by
  unfold Obligations.AnnealTimersAndSavedCopies
  refine ⟨⟨?_, ?_, ?_⟩, ?_⟩
  · intro dt s r runs second fresh late
    have came : changesOnly (withReports [.anl]) s (arrive dt s) := changesOnly_mono (arrive_changes dt s) (by decide)
    exact ⟨_, congrArg Host.Outcome.next (repeatTimeout_of_run (s := arrive dt s) runs second fresh late), rfl, rfl,
      (changesOnly_set_anl (by decide)).2 came⟩
  · intro dt s r runs waits late
    obtain ⟨temps, anl⟩ := anlFail_noGuard (s := arrive dt s) runs
    refine ⟨_, congrArg Host.Outcome.next (noGuardEnd_of_run (s := arrive dt s) runs waits late), ?_⟩
    rw [anl]
    exact ⟨rfl, rfl, rfl, rfl, rfl, rfl, changesOnly_trans (changesOnly_mono (arrive_changes dt s) (by decide))
      (changesOnly_mono (anlFail_changes _ 11) (by decide))⟩
  · intro dt s aging ran old free sends carriers idle
    have begins := anlTrigger_begins (s := arrive dt s) free sends carriers idle 3
    have row : exec (.anlAgeTrigger dt) s = .next (anlTrigger (arrive dt s) 3) := congrArg Host.Outcome.next (if_pos ⟨aging, ran, old⟩)
    rw [begins] at row
    exact ⟨_, row, rfl, rfl, rfl, ⟨_, rfl, rfl, rfl, rfl, rfl⟩, rfl,
      changesOnly_trans (changesOnly_mono (arrive_changes dt s) (by decide)) (changesOnly_mono (anlBegin_changes _ _) (by decide))⟩
  · intro dt ok s ref saves two
    let u := arrive dt s
    have anl := saveEnd_anl (s := u) saves ok
    have changes : changesOnly (withReports [.anl]) s (saveEnd ok u) :=
      changesOnly_trans (changesOnly_mono (arrive_changes dt s) (by decide)) (changesOnly_mono (saveEnd_changes ok u) (by decide))
    refine ⟨saveEnd ok u, rfl, ?_⟩
    rw [anl]
    cases ok with
    | true =>
      obtain ⟨older, newest⟩ := saveOver_copies (a := s.anl) two (some (calRecordOf u)) (1 - s.anl.newest)
      exact ⟨rfl, rfl, newest, fun _ => ⟨rfl, older⟩, fun h => absurd h (by decide), changes⟩
    | false =>
      obtain ⟨older, newest⟩ := saveOver_copies (a := s.anl) two none s.anl.newest
      exact ⟨rfl, rfl, newest, fun h => absurd h (by decide), fun _ => ⟨rfl, older⟩, changes⟩
end

section
/-! Commands that begin something longer: DOMAIN_SET (R340, R341), HB_CLEAR and HB_READ SNAPSHOT (R386, R389, R390), ANL_RUN (R334–R336). -/

namespace Sys2Proof.Machine

/-! ### Events and what they leave of the domains -/

/-- Nothing but reports, and POWER events that AON holds (R346): the domains and their change stand. -/
structure Told (s t : State) : Prop extends Reported s t where
  pwr : t.pwr = { s.pwr with evtq := t.pwr.evtq, evtqLost := t.pwr.evtqLost }

theorem Told.refl (s : State) : Told s s := ⟨.refl s, rfl⟩

theorem Told.trans {s t u : State} (h : Told s t) (k : Told t u) : Told s u :=
  ⟨h.toReported.trans k.toReported, k.pwr.trans (by rw [h.pwr])⟩

theorem Told.dom {s t : State} (h : Told s t) : t.pwr.dom = s.pwr.dom := by rw [h.pwr]
theorem Told.target {s t : State} (h : Told s t) : t.pwr.target = s.pwr.target := by rw [h.pwr]
theorem Told.change {s t : State} (h : Told s t) : t.pwr.cmd = s.pwr.cmd := by rw [h.pwr]

theorem Told.ite {c : Prop} [Decidable c] {s t u : State} (ht : Told s t) (hu : Told s u) : Told s (if c then t else u) := by
  split
  · exact ht
  · exact hu

theorem Told.foldl {α : Type} {f : State → α → State} (h : ∀ s a, Told s (f s a)) : ∀ (l : List α) (s : State), Told s (l.foldl f s)
  | [], s => .refl s
  | a :: l, s => (h s a).trans (Told.foldl h l (f s a))

theorem Told.of_changes {l : List Part} {s t : State} (h : changesOnly l s t) (host : .host ∉ l := by decide) (pwr : .pwr ∉ l := by decide) :
    Told s t := ⟨.of_host (h .host host), by rw [show t.pwr = s.pwr from h .pwr pwr]⟩

theorem evtTo_told (e : Event) (s : State) {r : Nat} (lo : 16 ≤ r) (hi : r < 36) : Told s (evtTo e s r) :=
  ⟨evtTo_reported e s lo, by rw [show (evtTo e s r).pwr = s.pwr from evtTo_changes e s r lo hi .pwr (by decide)]⟩

theorem postEvent_told (s : State) (e : Event) : Told s (postEvent s e) := by
  refine ⟨postEvent_reported s e, ?_⟩
  unfold postEvent
  split
  · refine (Told.foldl (fun s i => ?_) _ s).pwr
    by_cases hi : 32 + i < 36
    · exact .ite (evtTo_told e s (by omega) hi) (.refl s)
    · rw [ringOf_none s _ hi]
      exact .refl s
  · split
    · split <;> rfl
    · rfl

theorem synceUpdate_told (s : State) : Told s (synceUpdate s) := by
  unfold synceUpdate
  extract_lets c was src t
  have valid : Told s t := ⟨.of_host rfl, rfl⟩
  exact .ite (valid.trans (postEvent_told t _)) valid

/-! ### A domain leaves on (R341) -/

theorem domLeave_told (s : State) (d : Nat) : Told s (domLeave s d) := by
  unfold domLeave
  split
  · extract_lets q s1 s2 s3
    have idle : Told s s1 := .of_changes (linesIdle_changes s _)
    have stopped : Told s1 s2 := .of_changes (synStop_changes s1 q)
    have spare : Told s2 s3 := .ite (.of_changes (synStop_changes s2 4)) (.refl s2)
    exact idle.trans (stopped.trans (spare.trans (.of_changes (biasForce_changes s3))))
  split
  · extract_lets s1
    have direct : Told s s1 := .of_changes (dropDirect_changes s _ _)
    refine direct.trans (Told.trans (.foldl (fun s l => ?_) (lanesOf d) s1) (synceUpdate_told _))
    exact (Told.of_changes (laneLeave_changes s l)).trans (.of_changes (modLane_changes _ l _))
  split
  · extract_lets s1
    have held : Told s s1 := (Told.of_changes (dropHeld_changes s _ _)).trans (.of_changes (dropCtrl_changes _ _ _))
    exact held.trans (.of_changes (dropUplink_changes s1 _ _))
  · exact .of_changes (biasForce_changes s)

/-- An entry begins: its domain alone is moving, to its target; the change in progress and the commands stand. -/
theorem entryStart_begins (s : State) (d : Nat) (x : DomState) :
    (entryStart s d x).pwr.dom = vmod s.pwr.dom d (fun _ => .moving) ∧ (entryStart s d x).pwr.target = vmod s.pwr.target d (fun _ => x) ∧
      (entryStart s d x).pwr.cmd = s.pwr.cmd ∧ (entryStart s d x).host.cmds = s.host.cmds := by
  unfold entryStart
  extract_lets old s1 src s2
  have stopped : Told s s1 := .ite (.of_changes (tbStop_changes s)) (.refl s)
  have left : Told s2 (if old = .on then domLeave s2 d else s2) := .ite (domLeave_told s2 d) (.refl s2)
  exact ⟨left.dom.trans (congrArg (vmod · d fun _ => .moving) stopped.dom), left.target.trans (congrArg (vmod · d fun _ => x) stopped.target),
    left.change.trans stopped.change, left.cmds.trans stopped.cmds⟩

/-! ### A change of one domain (R340) -/

theorem lt_of_mem_entryOrder {k : Nat} (h : k ∈ entryOrder) : k < 14 ∧ k ≠ 1 := by
  revert k
  decide

/-- A change names domain k and no other, and has not reached it. -/
def namesOnly (c : DomCmd) (k : Nat) : Prop := (∀ j, c.names.getLsbD j = decide (j = k)) ∧ c.reached.getLsbD k = false

/-- With no entry running, the entry of the one domain named begins. -/
theorem entryNext_of_one {s : State} {c : DomCmd} {k : Nat} (cmd : s.pwr.cmd = some c) (one : namesOnly c k) (entry : k ∈ entryOrder)
    (still : ∀ j < 14, vget s.pwr.dom j .off ≠ .moving) (away : domTarget c.target.toNat k ≠ .on)
    (now : k < 10 ∨ domOn s k = false ∨ tbOn s = false) : entryNext false s = entryStart s k (domTarget c.target.toNat k) := by
  obtain ⟨names, fresh⟩ := one
  have free : (entryOrder.any fun d => vget s.pwr.dom d .off == .moving && vget s.pwr.target d .on != .on) = false := by
    rw [List.any_eq_false]
    intro d hd moving
    exact still d (lt_of_mem_entryOrder hd).1 (beq_iff_eq.1 (Bool.and_eq_true_iff.1 moving).1)
  have first : (entryOrder.find? fun d => c.names.getLsbD d && !c.reached.getLsbD d && domTarget c.target.toNat d != .on) = some k := by
    cases found : entryOrder.find? fun d => c.names.getLsbD d && !c.reached.getLsbD d && domTarget c.target.toNat d != .on with
    | none =>
      have := List.find?_eq_none.1 found k entry
      simp [names, fresh, away] at this
    | some d =>
      have taken := List.find?_some found
      simp only [names, Bool.and_eq_true, decide_eq_true_eq] at taken
      rw [taken.1.1]
  have go : ¬ (10 ≤ k ∧ domOn s k ∧ tbOn s ∧ !false) := by
    rintro ⟨quad, on, tb, -⟩
    rcases now with low | off | halted
    · omega
    · simp [on] at off
    · simp [tb] at halted
  simp only [entryNext, cmd, free, first, if_neg go, Bool.false_eq_true, if_false]

/-- Of the domains that a change names, those that it must still wait for; CTL leaves on after the record (R340). -/
def changeLeft (c : DomCmd) : List Nat :=
  let ctlOut := c.names.getLsbD 1 && domTarget c.target.toNat 1 != .on && !c.reached.getLsbD 1
  (setBits 14 c.names.toNat).filter fun d => !c.reached.getLsbD d && !(d == 1 && ctlOut)

theorem domFinish_of_left {s : State} {c : DomCmd} (cmd : s.pwr.cmd = some c) (going : changeLeft c ≠ []) : domFinish s = s := by
  have waits : (!(changeLeft c).isEmpty) = true := by simpa using going
  unfold domFinish
  rw [cmd]
  exact if_pos waits

theorem changeLeft_of_one {c : DomCmd} {k : Nat} (one : namesOnly c k) (hk : k < 14) (notCtl : k ≠ 1) : changeLeft c ≠ [] := by
  obtain ⟨names, fresh⟩ := one
  have named : k ∈ setBits 14 c.names.toNat := List.mem_filter.2 ⟨List.mem_range.2 hk, (names k).trans (decide_eq_true rfl)⟩
  exact List.ne_nil_of_mem (List.mem_filter.2 ⟨named, by simp [fresh, notCtl]⟩)

/-- The change that a DOMAIN_SET commands. -/
def domainChange (c : Cmd) : DomCmd :=
  { ref := some c.ref, names := BitVec.ofNat 14 (domNames c.d), target := BitVec.ofNat 28 (domTargets c.d) }

theorem domTarget_domainChange (c : Cmd) {k : Nat} (hk : k < 14) : domTarget (domainChange c).target.toNat k = domTarget (domTargets c.d) k := by
  unfold domTarget
  rw [show bits (domainChange c).target.toNat (2 * k + 1) (2 * k) = _ from bits_ofNat (domTargets c.d) (by omega) (by omega)]

theorem domainChange_names {c : Cmd} {k : Nat} (one : domNames c.d = 2 ^ k) (hk : k < 14) : namesOnly (domainChange c) k := by
  refine ⟨fun j => ?_, BitVec.getLsbD_zero⟩
  simp only [domainChange, one, BitVec.getLsbD_ofNat, Nat.testBit_two_pow]
  by_cases h : j = k
  · subst h; simp [hk]
  · simp [h, Ne.symm h]

/-- A change of one domain away from on begins its entry; what else the device does waits (R340, R341). -/
theorem domBegin_of_one {s : State} {c : Cmd} {k : Nat} (one : domNames c.d = 2 ^ k) (entry : k ∈ entryOrder)
    (away : domTarget (domTargets c.d) k ≠ .on) (apart : vget s.pwr.dom k .off ≠ domTarget (domTargets c.d) k)
    (still : ∀ j < 14, vget s.pwr.dom j .off ≠ .moving) (now : k < 10 ∨ domOn s k = false ∨ tbOn s = false) :
    domBegin s (domainChange c) =
      entryStart { s with pwr := { s.pwr with cmd := some (domainChange c) } } k (domTarget (domTargets c.d) k) := by
  obtain ⟨hk, notCtl⟩ := lt_of_mem_entryOrder entry
  have names := domainChange_names one hk
  have target := domTarget_domainChange c hk
  have none_there : ((List.range 14).filter fun d =>
      (domainChange c).names.getLsbD d && vget s.pwr.dom d .off == domTarget (domainChange c).target.toNat d) = [] := by
    rw [List.filter_eq_nil_iff]
    intro d _ there
    rw [names.1 d, Bool.and_eq_true, decide_eq_true_eq, beq_iff_eq] at there
    obtain ⟨rfl, there⟩ := there
    exact apart (there.trans target)
  unfold domBegin
  extract_lets at_
  rw [show at_ = [] from none_there]
  let u : State := { s with pwr := { s.pwr with cmd := some (domainChange c) } }
  have starts : entryNext false u = entryStart u k (domTarget (domTargets c.d) k) :=
    (entryNext_of_one (s := u) rfl names entry still (by rwa [target]) now).trans (by rw [target])
  obtain ⟨-, -, cmd, -⟩ := entryStart_begins u k (domTarget (domTargets c.d) k)
  exact (congrArg domFinish starts).trans (domFinish_of_left (cmd.trans rfl) (changeLeft_of_one names hk notCtl))

end Sys2Proof.Machine
end

section
namespace Sys2Proof.Machine

/-! ### Authorised commands (R389) -/

theorem authChecked_of_open {s : State} (h : authOpen s = true) :
    authChecked s true = { s with hb := { s.hb with nonceCtr := s.hb.nonceCtr + 1 } } := by
  simp [authChecked, h]

theorem authOpen_of_authOk {s : State} {op action tag : Nat} (h : authOk s op action tag = true) : authOpen s = true :=
  (Bool.and_eq_true_iff.1 h).1

/-! ### HB_CLEAR and snapshots (R384, R386, R390) -/

/-- A record fills its 96 bytes (R384). -/
theorem hbRecord_length (s : State) (type qty inst cause : Nat) {body : List Byte} (h : body.length ≤ 76) :
    (hbRecord s type qty inst cause body).length = 96 := by
  simp only [hbRecord, List.length_append, bytesLE_length, List.length_replicate]
  omega

/-- What replaces a listed command stands in the list. -/
theorem mem_cmdPut {s : State} {y c : Cmd} (h : y ∈ s.host.cmds) (own : y.seq = c.seq) : c ∈ (cmdPut s c).host.cmds :=
  List.mem_map.2 ⟨y, h, if_pos own⟩

theorem rowRunning_listed (x : CommandRow) (s : State) : rowRunning x s ∈ (rowListed x s (rowRunning x s)).host.cmds := by
  simp [rowListed]

theorem hbClear_authOpen {s : State} {c : Cmd} (free : s.hb.snaps = []) (h : hbClearDef.check s c = none) : authOpen s = true := by
  have refused : (if !hbClearRange c.d then some ⟨cField, 0⟩ else if s.hb.snaps.isEmpty then hbClearRefuse s c.d else none) = none := h
  rw [free] at refused
  split at refused
  · exact absurd refused (Option.some_ne_none _)
  · obtain ⟨passed, -⟩ := firstRefuse_none_of_cons refused
    exact authOpen_of_authOk (by simpa using passed)

/-- The CLEAR record that a HB_CLEAR writes: the free record and the nonce (R390). -/
def clearRecord (s : State) : List Byte := hbRecord s 3 0 0 4 (bytesLE 4 s.hb.next ++ bytesLE 4 (nonceNow s).toNat)

/-- The Heat Book once a HB_CLEAR has begun. -/
def clearBegun (s : State) (ref : CmdRef) : Hb :=
  { s.hb with
    nonceCtr := s.hb.nonceCtr + 1, clearing := some ref, erased := s.hb.next
    clearLog := memWriteBytes 0xFF s.hb.clearLog (96 * s.hb.clearNext) (clearRecord s), clearNext := s.hb.clearNext + 1 }

theorem hbClearEffect_of_free {s : State} {c : Cmd} (h : authOpen s = true) (free : s.hb.snaps = []) :
    hbClearDef.effect s c = cmdPut { s with hb := clearBegun s c.ref } { c with note := 1 } := by
  refine (if_pos (List.isEmpty_iff.2 free)).trans ?_
  simp only [hbClearGo, authChecked_of_open h, clearBegun, clearRecord]

theorem hbClearEffect_of_busy {s : State} {c : Cmd} (busy : s.hb.snaps ≠ []) : hbClearDef.effect s c = cmdPut s { c with note := 0 } :=
  if_neg fun free => busy (List.isEmpty_iff.1 free)

/-- The CLEAR record keeps to its place of the log. -/
theorem clearBegun_log (s : State) (ref : CmdRef) {a : Nat} (h : a < 96 * s.hb.clearNext ∨ 96 * s.hb.clearNext + 96 ≤ a) :
    memRead 0xFF (clearBegun s ref).clearLog a = memRead 0xFF s.hb.clearLog a := by
  have length : (clearRecord s).length = 96 := hbRecord_length s 3 0 0 4 (by simp)
  have outside : a < 96 * s.hb.clearNext ∨ 96 * s.hb.clearNext + (clearRecord s).length ≤ a := by rwa [length]
  simp only [clearBegun, memRead_memWriteBytes_other _ _ _ _ _ outside]

theorem snapAsk_of_room {s : State} (writes : s.hb.fail = false) (notFull : s.hb.full = false) (room : s.hb.next + 130 ≤ recArea) (cause : Nat)
    (ref : Option CmdRef) : snapAsk s cause ref = { s with hb := { s.hb with snaps := s.hb.snaps ++ [⟨cause, ref⟩] } } := by
  have free : ¬ (s.hb.fail = true ∨ s.hb.full = true) := by simp [writes, notFull]
  refine (if_neg free).trans (if_neg ?_)
  rintro ⟨-, full⟩
  exact absurd room (Nat.not_le.2 full)

theorem hbReadEffect_of_snapshot {s : State} {c : Cmd} (snapshot : dB c.d 16 = 1) : hbReadEffect s c = snapAsk s 3 (some c.ref) :=
  if_neg (by rw [snapshot]; decide)

theorem hbRead_snapshot_open {s : State} {c : Cmd} (h : hbReadCheck s c = none) (snapshot : dB c.d 16 = 1) :
    s.hb.fail = false ∧ s.hb.full = false := by
  obtain ⟨-, h⟩ := firstRefuse_none_of_cons h
  obtain ⟨writes, h⟩ := firstRefuse_none_of_cons h
  obtain ⟨room, -⟩ := firstRefuse_none_of_cons h
  exact ⟨by simpa [snapshot] using writes, by simpa [snapshot] using room⟩

/-! ### ANL_RUN (R334, R336) -/

theorem anlRun_noTick {c : Cmd} (run : dB c.d 16 ≠ 0) (baseline : dB c.d 16 ≠ 3) : anlRunDef.tick c = .none := by
  simp [anlRunDef, run, baseline]

theorem anlRunEffect_stop_idle {s : State} {c : Cmd} (stop : dB c.d 16 = 1) (idle : s.anl.run = none) :
    anlRunEffect s c = cmdDone s { c with cause := cNotActive } := by
  simp only [anlRunEffect, stop, idle]

theorem anlRunEffect_stop_run {s : State} {c : Cmd} (stop : dB c.d 16 = 1) {r : AnlRun} (runs : s.anl.run = some r) :
    anlRunEffect s c = cmdDone (anlFail s 10) c := by
  simp only [anlRunEffect, stop, runs]

theorem anlRunEffect_save {s : State} {c : Cmd} (save : dB c.d 16 = 4) :
    anlRunEffect s c = { authChecked s true with anl := { s.anl with saving := some c.ref } } := by
  simp only [anlRunEffect, save]

/-- LOAD and EDGE_SET leave new corrections of every path waiting. -/
theorem anlRunEffect_waits {s : State} {c : Cmd} (wait : dB c.d 16 = 2 ∨ dB c.d 16 = 5) : ∃ f, anlRunEffect s c = anlWait s c f := by
  obtain load | edge := wait
  · exact ⟨fun p => anlLoadEntry s (dQ c.d 24) p, by simp only [anlRunEffect, load]⟩
  · exact ⟨fun _ => anlEdgeEntry c.d, by simp only [anlRunEffect, edge]⟩

/-- A SAVE that is accepted has passed the check of its tag (R389). -/
theorem anlRun_save_authOpen {s : State} {c : Cmd} (h : anlRunCheck s c = none) (save : dB c.d 16 = 4) : authOpen s = true := by
  by_contra shut
  have wrong : authOk s 0x0080 4 (dW c.d 20) = false := by simp [authOk, shut]
  simp only [anlRunCheck, save, wrong] at h
  split at h
  · cases h
  · by_cases there : missing s [9] = 0 <;> simp [domRefuse, there] at h

/-- What an action of ANL_RUN does beside its own register file, whichever it is. -/
theorem anlRunEffect_from {x : CommandRow} {s : State} :
    changesOnly (withReports [.anl, .pwr, .hb]) s (anlRunEffect (rowListed x s (rowRunning x s)) (rowRunning x s)) :=
  changesOnly_trans (changesOnly_mono (rowListed_changes x s _) (by decide)) (changesOnly_mono (anlRunEffect_changes _ _) (by decide))

end Sys2Proof.Machine

open Sys2Proof Sys2Proof.Machine

/-- Settles O56: each command by the state that its effect, on the list with the command running, leaves. -/
theorem longCommandsBeginAndRun : Obligations.LongCommandsBeginAndRun := by
  unfold Obligations.LongCommandsBeginAndRun
  refine ⟨?_, ?_, ?_, ?_⟩
  · intro dt r d s k x hacc e one entry away apart still now
    let u := rowListed x s (rowRunning x s)
    let v : State := { u with pwr := { u.pwr with cmd := some (domainChange (rowRunning x s)) } }
    let w := entryStart v k (domTarget (domTargets e) k)
    have run : exec (.domainSet dt r d) s = .next (hkCheck s w) := congrArg (fun t => Host.Outcome.next (hkCheck s t))
      ((runCmd_of_rowAccepted hacc rfl).trans (domBegin_of_one (s := u) (c := rowRunning x s) one entry away apart still now))
    obtain ⟨hk, -⟩ := lt_of_mem_entryOrder entry
    obtain ⟨dom, target, change, cmds⟩ := entryStart_begins v k (domTarget (domTargets e) k)
    have listed : changesOnly (withReports [.syn, .lanes, .fh, .tx, .rx, .pwr, .hka, .bias]) s v :=
      (changesOnly_set_pwr (by decide)).2 (changesOnly_mono (rowListed_changes x s _) (by decide))
    have checked : changesOnly [.hka] w (hkCheck s w) := hkCheck_changes s w
    have pwr : (hkCheck s w).pwr = w.pwr := checked .pwr (by decide)
    have host : (hkCheck s w).host = w.host := checked .host (by decide)
    refine ⟨hkCheck s w, run, ?_, ?_, fun j other => ?_, ?_, ?_, ?_⟩
    · rw [pwr, dom, vget_vmod_same _ hk]
    · rw [pwr, target, vget_vmod_same _ hk]
    · rw [pwr, dom, vget_vmod_ne _ other.symm]
      rfl
    · rw [pwr, change]
      rfl
    · rw [host, cmds]
      rfl
    · exact changesOnly_trans listed (changesOnly_trans (changesOnly_mono (entryStart_changes v k _) (by decide))
        (changesOnly_mono checked (by decide)))
  · intro dt r d s x hacc
    let u := rowListed x s (rowRunning x s)
    have run : exec (.hbClear dt r d) s = .next (hbClearDef.effect u (rowRunning x s)) := congrArg _ (runCmd_of_rowAccepted hacc rfl)
    have listed := rowListed_changes x s (rowRunning x s)
    obtain ⟨-, -, -, passes⟩ := hacc
    refine ⟨fun free => ?_, fun busy => ?_⟩
    · have opened : authOpen u = true := hbClear_authOpen (s := rowState x s) free (check_of_cmdCheck passes)
      have begun : changesOnly (withReports [.hb, .flash]) s { u with hb := clearBegun u r } :=
        (changesOnly_set_hb (by decide) (.inl (by decide))).2 (changesOnly_mono listed (by decide))
      rw [hbClearEffect_of_free (s := u) opened free] at run
      exact ⟨_, run, rfl, rfl, rfl, rfl, rfl, fun a outside => clearBegun_log u r outside,
        ⟨_, mem_cmdPut (s := { u with hb := clearBegun u r }) (rowRunning_listed x s) rfl, rfl, rfl⟩,
        changesOnly_trans begun (changesOnly_mono (cmdPut_changes _ _) (by decide))⟩
    · rw [hbClearEffect_of_busy (s := u) busy] at run
      exact ⟨_, run, ⟨_, mem_cmdPut (rowRunning_listed x s) rfl, rfl, rfl⟩, rfl,
        changesOnly_trans listed (changesOnly_mono (cmdPut_changes _ _) (by decide))⟩
  · intro dt r d s x hacc snapshot room
    let u := rowListed x s (rowRunning x s)
    have run : exec (.hbRead dt r d) s = .next (hbReadEffect u (rowRunning x s)) := congrArg _ (runCmd_of_rowAccepted hacc rfl)
    have listed : changesOnly (withReports [.hb]) s u := changesOnly_mono (rowListed_changes x s _) (by decide)
    obtain ⟨-, -, -, passes⟩ := hacc
    obtain ⟨writes, notFull⟩ := hbRead_snapshot_open (s := rowState x s) (c := rowStart x s) (check_of_cmdCheck passes) snapshot
    rw [hbReadEffect_of_snapshot (c := rowRunning x s) snapshot, snapAsk_of_room (s := u) writes notFull room] at run
    exact ⟨_, run, rfl, rfl, (changesOnly_set_hb (by decide) (.inr (by exact ⟨rfl, rfl⟩))).2 listed⟩
  · intro dt r d s x hacc e
    let u := rowListed x s (rowRunning x s)
    let c := rowRunning x s
    have effect : dB e 16 ≠ 0 → dB e 16 ≠ 3 → runCmd anlRunDef dt r d s = anlRunEffect u c := fun run baseline =>
      runCmd_of_rowAccepted hacc (anlRun_noTick run baseline)
    refine ⟨_, rfl, fun stop idle => ?_, fun stop running alone => ?_, fun wait => ?_, fun save => ?_⟩
    · obtain ⟨run, cmds, changes⟩ := rowDone (parts := []) hacc (anlRun_noTick (by rw [stop]; decide) (by rw [stop]; decide))
        (anlRunEffect_stop_idle (s := u) stop idle) rfl (changesOnly_refl _ _) (by decide)
      rw [show runCmd anlRunDef dt r d s = _ from run]
      exact ⟨cmdDone_anl _ _, cmds, changes⟩
    · obtain ⟨y, runs⟩ := Option.isSome_iff_exists.1 running
      have anl : (anlRunEffect u c).anl = runOver (failureNoted s.anl 10) .idle := by
        rw [anlRunEffect_stop_run (s := u) (c := c) stop runs, cmdDone_anl]
        exact anlFail_stopped (s := u) runs alone
      rw [effect (by rw [stop]; decide) (by rw [stop]; decide), anl]
      exact ⟨rfl, rfl, rfl, anlRunEffect_from⟩
    · obtain ⟨f, waits⟩ := anlRunEffect_waits (s := u) (c := c) wait
      have listed : changesOnly (withReports [.anl]) s u := changesOnly_mono (rowListed_changes x s _) (by decide)
      rw [effect (by omega) (by omega), waits]
      exact ⟨rfl, rfl, ⟨_, _, rfl, rfl, rfl, rfl, rfl⟩, changesOnly_trans listed (changesOnly_mono (anlWait_changes u _ f) (by decide))⟩
    · have saves := effect (by rw [save]; decide) (by rw [save]; decide)
      obtain ⟨-, -, -, passes⟩ := hacc
      have opened : authOpen u = true := anlRun_save_authOpen (s := rowState x s) (c := rowStart x s) (check_of_cmdCheck passes) save
      have drawn : changesOnly (withReports [.anl, .hb]) s (authChecked u true) :=
        changesOnly_trans (changesOnly_mono (rowListed_changes x s _) (by decide)) (changesOnly_mono (authChecked_changes u true) (by decide))
      rw [saves, anlRunEffect_save (c := c) save]
      rw [authChecked_of_open opened] at drawn ⊢
      exact ⟨rfl, rfl, rfl, (changesOnly_set_anl (by decide)).2 drawn⟩
end

section
/-! The step of the queue (log 7), and the fuse writer (R393, R395). -/

namespace Sys2Proof.Machine

/-- What a row does after the counts that pass before it (log 1). -/
theorem changesOnly_arrived {k l : List Part} {dt : Nat} {s t : State} (h : changesOnly k (arrive dt s) t)
    (sub : ∀ p ∈ k, p ∈ withReports l := by decide) : changesOnly (withReports l) s t :=
  changesOnly_trans (changesOnly_mono (arrive_changes dt s) (by simp [withReports])) (changesOnly_mono h sub)

/-- The fuses alone. -/
theorem fuses_changes (s : State) (x : Fus) : changesOnly [.fus] s { s with fus := x } := by
  intro p hp
  cases p
  case hmem => exact ⟨fun _ => rfl, fun _ _ => rfl⟩
  case dev => exact ⟨rfl, rfl, rfl, rfl⟩
  case flash => exact ⟨rfl, rfl⟩
  case fus => exact absurd List.mem_cons_self hp
  all_goals rfl

/-! ### Fuses blown one after another (R395) -/

/-- Programming one fuse leaves every other bit. -/
theorem fuseBlow_getLsbD (a : BitVec 4096) (i : Fin 4096) (b : Nat) :
    (fuseBlow a i).getLsbD b = (a.getLsbD b || decide (b = i) && fuseOpen a i) := by
  unfold fuseBlow
  split
  · next isOpen => rw [getLsbD_or_one_shiftLeft a i b i.isLt, isOpen, Bool.and_true]
  · next closed => simp [closed]

/-- The locks only close: what is open once fuses have been blown was open before. -/
theorem fuseOpen_of_kept {a a' : BitVec 4096} (kept : ∀ b, a.getLsbD b = true → a'.getLsbD b = true) {b : Nat}
    (h : fuseOpen a' b = true) : fuseOpen a b = true := by
  have lock : ∀ i, (!bit a'.toNat i) = true → (!bit a.toNat i) = true := fun i shut => by
    rw [Bool.not_eq_true'] at shut ⊢
    exact Bool.eq_false_of_not_eq_true fun blown => Bool.false_ne_true (shut.symm.trans (kept i blown))
  unfold fuseOpen at h ⊢
  dsimp only at h ⊢
  split_ifs at h ⊢ with identity windows limits
  · exact lock 2831 h
  · exact lock 2616 h
  · exact lock 2823 h
  · exact h

/-- A fuse newly blown by a list was listed, and its field was open before the list. -/
theorem foldl_fuseBlow_new {b : Nat} : ∀ (l : List (Fin 4096)) (a : BitVec 4096), a.getLsbD b = false →
    (l.foldl (fun a i => fuseBlow a i.val) a).getLsbD b = true → (∃ i ∈ l, i.val = b) ∧ fuseOpen a b = true
  | [], _, blank, blown => absurd (blank.symm.trans blown) Bool.false_ne_true
  | i :: l, a, blank, blown => by
    by_cases first : (fuseBlow a i).getLsbD b = true
    · have own : b = i.val ∧ fuseOpen a i = true := by simpa [fuseBlow_getLsbD, blank] using first
      obtain ⟨rfl, isOpen⟩ := own
      exact ⟨⟨i, List.mem_cons_self, rfl⟩, isOpen⟩
    · obtain ⟨⟨j, listed, rfl⟩, isOpen⟩ := foldl_fuseBlow_new l (fuseBlow a i) (Bool.eq_false_of_not_eq_true first) blown
      exact ⟨⟨j, List.mem_cons_of_mem i listed, rfl⟩, fuseOpen_of_kept (fun c => fuseBlow_kept a i) isOpen⟩

end Sys2Proof.Machine

open Sys2Proof Sys2Proof.Machine

/-- Settles O1, by the two cases of the queue. -/
theorem stepRunsFront : Obligations.StepRunsFront := by
  unfold Obligations.StepRunsFront
  refine ⟨fun c rest s => rfl, fun s idle => ?_⟩
  unfold step
  rw [idle]

/-- Settles O5, by induction on the list of fuses: what is blown stays, and the locks only close. -/
theorem fuseProgramBlowsOnlyOpenFuses : Obligations.FuseProgramBlowsOnlyOpenFuses := by
  unfold Obligations.FuseProgramBlowsOnlyOpenFuses
  intro dt l s
  refine ⟨_, rfl, fun b blown => foldl_fuseBlow_kept l _ blown, fun b blank blown => ?_, ?_, rfl, rfl,
    changesOnly_arrived (fuses_changes (arrive dt s) _)⟩
  · obtain ⟨⟨i, listed, same⟩, isOpen⟩ := foldl_fuseBlow_new l s.fus.array blank blown
    exact ⟨Fin.ext same ▸ listed, isOpen⟩
  · rintro b rfl isOpen
    change (fuseBlow s.fus.array b).getLsbD b = true
    simp [fuseBlow_getLsbD, isOpen]
end

section
/-! A Holding window whose votes are decided at its own count, not at that of the command before it (R347, R260). -/

namespace Sys2Proof.Machine

/-- Holding watches with tap 0 enabled on path 0, whose quad is on and whose TRSW leaves the transmit position at the next count. The tap
may not vote at this count, and may at the next one. -/
def watchEndingTransmit : State :=
  { State.reset with
    pwr := { State.reset.pwr with dom := Vector.replicate 14 .on }
    tx := { State.reset.tx with path := vmod State.reset.tx.path 0 fun t => { t with trswOff := State.reset.tb.now + 1 } }
    hld := { State.reset.hld with state := .watch, tap := vmod State.reset.hld.tap 0 fun _ => { en := true, path := 0 } } }

/-- The tap does not vote before the row, and has a vote after it, while Holding goes on watching. -/
theorem windowEnd_watchEndingTransmit :
    tapVotes watchEndingTransmit 0 = false ∧ (tapOf watchEndingTransmit 0).votes = [] ∧
      (windowEnd (arrive 1 watchEndingTransmit) 0).hld.state = .watch ∧
      (tapOf (windowEnd (arrive 1 watchEndingTransmit) 0) 0).votes = [false] := by
  decide +kernel

end Sys2Proof.Machine

open Sys2Proof Sys2Proof.Machine

/-- Refutes O22: which taps may vote is read at the count of the row itself, and TRSW of a tap's quad may leave the transmit position in
the counts before it; such a tap votes although it might not at the state before. -/
theorem not_holdingWindowVotesAndDarkCheck : ¬ Obligations.HoldingWindowVotesAndDarkCheck := by
  unfold Obligations.HoldingWindowVotesAndDarkCheck
  rintro ⟨⟨-, watch⟩, -⟩
  obtain ⟨barred, none_yet, watches, voted⟩ := windowEnd_watchEndingTransmit
  obtain ⟨t, run, keeps, -⟩ := watch 1 0 watchEndingTransmit rfl rfl
  obtain rfl : windowEnd (arrive 1 watchEndingTransmit) 0 = t := Host.Outcome.next.inj run
  obtain same | left := keeps 0 (by decide) barred
  · rw [same, none_yet] at voted
    cases voted
  · exact left watches
end

section
/-! The bias outputs at an update tick (R370, R371). -/

namespace Sys2Proof.Machine

/-- What a released entry leaves of the queue before the entries behind it: a span entry leaves the switch at code 0. -/
def leftByEntry (e : BiasEntry) (l : List BiasEntry) : List BiasEntry :=
  match e with
  | .span n => .spanSwitch n :: l
  | _ => l

theorem biasRelease_of_waiting {b : BiasOut} {e : BiasEntry} {l : List BiasEntry} (queue : b.queue = e :: l) (free : b.released = none)
    (now : Nat) : biasRelease now b = { b with released := some e, queue := leftByEntry e l, last := now } := by
  unfold biasRelease
  rw [free, queue]
  cases e <;> rfl

theorem biasRelease_of_none {b : BiasOut} (idle : b.released ≠ none ∨ b.queue = []) (now : Nat) : biasRelease now b = b := by
  unfold biasRelease
  obtain held | empty := idle
  · exact if_pos (Option.isSome_iff_ne_none.2 held)
  · rw [empty]
    exact ite_self b

/-- A release shows nothing yet and stores no code (R370). -/
theorem biasRelease_output (b : BiasOut) (now : Nat) : (biasRelease now b).shown = b.shown ∧ (biasRelease now b).code = b.code := by
  unfold biasRelease
  split
  · exact ⟨rfl, rfl⟩
  · split <;> exact ⟨rfl, rfl⟩

/-- Every output's release at the present count. -/
def biasReleased (s : State) : State := { s with bias := { s.bias with out := vall s.bias.out fun _ b => biasRelease s.tb.now b } }

theorem exec_biasUpdateTick {s : State} (runs : tbOn s = true) (dt : Nat) :
    exec (.biasUpdateTick dt) s = .next (biasReleased (arrive dt s)) :=
  congrArg Host.Outcome.next (if_pos (c := tbOn (biasReleased (arrive dt s)) = true) runs)

theorem biasReleased_out (s : State) {o : Nat} (h : o < 128) :
    vget (biasReleased s).bias.out o {} = biasRelease s.tb.now (vget s.bias.out o {}) := by
  simp only [biasReleased, vget_vall _ _ h]

theorem biasReleased_changes (s : State) : changesOnly [.bias] s (biasReleased s) :=
  (changesOnly_set_bias (by decide)).2 (changesOnly_refl _ s)

end Sys2Proof.Machine

open Sys2Proof Sys2Proof.Machine

/-- Settles O19, by the release at each output. -/
theorem biasUpdateReleasesHeadEntries : Obligations.BiasUpdateReleasesHeadEntries := by
  unfold Obligations.BiasUpdateReleasesHeadEntries
  intro dt s runs
  have out : ∀ {o}, o < 128 → vget (biasReleased (arrive dt s)).bias.out o {} = biasRelease (arrive dt s).tb.now (vget s.bias.out o {}) :=
    fun ho => biasReleased_out (arrive dt s) ho
  refine ⟨_, exec_biasUpdateTick runs dt, fun o ho e l queue free => ?_, fun o ho idle => ?_, fun o ho => ?_, rfl,
    changesOnly_arrived (biasReleased_changes _)⟩
  · rw [out ho, biasRelease_of_waiting queue free]
    cases e <;> exact ⟨rfl, rfl⟩
  · rw [out ho, biasRelease_of_none idle]
  · rw [out ho]
    exact biasRelease_output _ _
end

section
/-! Comparators that cross and re-arm (R360), and the end of a fan's force (R365). -/

namespace Sys2Proof.Machine

/-! ### Comparators -/

theorem cmpOf_modCmp_same (s : State) {k : Nat} (h : k < 16) (f : Cmp → Cmp) : cmpOf (modCmp s k f) k = f (cmpOf s k) :=
  vget_vmod_same _ h f _

theorem cmpOf_modCmp_ne (s : State) {k j : Nat} (h : k ≠ j) (f : Cmp → Cmp) : cmpOf (modCmp s k f) j = cmpOf s j := vget_vmod_ne _ h f _

theorem cmpOf_congr {s t : State} (h : t.hka = s.hka) (k : Nat) : cmpOf t k = cmpOf s k := by rw [cmpOf, cmpOf, h]

/-- Every comparator shows the side that it showed. -/
def SidesStand (s t : State) : Prop := ∀ j, (cmpOf t j).state = (cmpOf s j).state

theorem SidesStand.trans {s t u : State} (h : SidesStand s t) (k : SidesStand t u) : SidesStand s u := fun j => (k j).trans (h j)

theorem SidesStand.of_hka {s t : State} (h : t.hka = s.hka) : SidesStand s t := fun j => congrArg Cmp.state (cmpOf_congr h j)

theorem SidesStand.of_cmp {s t : State} (h : t.hka.cmp = s.hka.cmp) : SidesStand s t := fun j => by rw [cmpOf, cmpOf, h]

/-- A comparator that begins or ceases to wait for its conversion shows the same side. -/
theorem modCmp_waits (s : State) (k : Nat) (w : Bool) : SidesStand s (modCmp s k fun c => { c with waits := w }) := fun j => by
  by_cases own : k = j
  · subst own
    by_cases hk : k < 16
    · rw [cmpOf_modCmp_same s hk]
    · simp only [cmpOf, vget, hk, dif_neg, not_false_iff]
  · rw [cmpOf_modCmp_ne s own]

/-- The next conversion moves no comparator (R358). -/
theorem hkNext_sides (s : State) (ch : Nat) : SidesStand s (hkNext s ch) := by
  unfold hkNext
  split
  · exact fun _ => rfl
  split
  · exact .of_cmp rfl
  split
  · exact fun _ => rfl
  · exact .trans (.of_cmp rfl) (modCmp_waits _ _ _)

/-- What follows a crossing, its event, its wake and its conversion, leaves every comparator's side (R360). -/
theorem cmpCross_sides (s : State) (k st : Nat) : SidesStand (modCmp s k fun c => { c with state := st }) (cmpCross s k st) := by
  unfold cmpCross
  extract_lets s1 c s2
  have posted : SidesStand (modCmp s k fun c => { c with state := st }) s1 := .of_hka (post_hka _ _ _ _ _)
  have woken : SidesStand s1 s2 := by
    unfold s2
    split
    · exact .of_hka (wake_changes s1 _ .hka (by decide))
    · exact fun _ => rfl
  refine posted.trans (woken.trans ?_)
  split
  · exact (modCmp_waits s2 k true).trans (hkNext_sides _ 0)
  · exact fun _ => rfl

theorem exec_comparatorCrossing {s : State} {k : Fin 16} {above : Bool} (live : cmpLive s k = true)
    (crosses : (cmpOf s k).state ≠ if above then 2 else 1) (dt : Nat) :
    exec (.comparatorCrossing dt k above) s = .next (cmpCross (arrive dt s) k.val (if above then 2 else 1)) :=
  congrArg Host.Outcome.next (if_pos (⟨live, crosses⟩ : cmpLive (arrive dt s) k = true ∧ (cmpOf (arrive dt s) k).state ≠ if above then 2 else 1))

theorem exec_comparatorRearm {s : State} {k : Fin 16} (live : cmpLive s k = true) (dt : Nat) :
    exec (.comparatorRearm dt k) s = .next (modCmp (arrive dt s) k.val fun c => { c with state := 0 }) :=
  congrArg Host.Outcome.next (if_pos (c := cmpLive (arrive dt s) k = true) live)

/-! ### A fan's force -/

theorem exec_fanForceEnd {s : State} {f : Fin 4} {x : Nat × Nat} (forced : (vget s.thm.fan f.val {}).force = some x) :
    exec (.fanForceEnd f) s = .next (modFan (arriveAt x.2 s) f.val fun y => { y with force := none }) := by
  change execFanForceEnd f s = _
  unfold execFanForceEnd
  rw [forced]

end Sys2Proof.Machine

open Sys2Proof Sys2Proof.Machine

/-- Settles O17: a crossing sets one comparator's side and what follows it none, a re-arming and the end of a force change one element. -/
theorem comparatorsCrossAndFanForceEnds : Obligations.ComparatorsCrossAndFanForceEnds := by
  unfold Obligations.ComparatorsCrossAndFanForceEnds
  refine ⟨⟨fun dt k above s live crosses => ?_, fun dt k s live => ?_⟩, fun f s x forced => ?_⟩
  · have sides := cmpCross_sides (arrive dt s) k (if above then 2 else 1)
    refine ⟨_, exec_comparatorCrossing live crosses dt, ?_, fun j _ other => ?_, changesOnly_arrived (cmpCross_changes _ _ _)⟩
    · rw [sides k, cmpOf_modCmp_same _ k.isLt]
    · rw [sides j, cmpOf_modCmp_ne _ other.symm]
      rfl
  · exact ⟨_, exec_comparatorRearm live dt, cmpOf_modCmp_same _ k.isLt _, fun j other => cmpOf_modCmp_ne _ other.symm _, rfl,
      changesOnly_arrived (modCmp_changes _ _ _)⟩
  · exact ⟨_, exec_fanForceEnd forced, arriveAt_now x.2 s, vget_vmod_same _ f.isLt _ _, fun g other => vget_vmod_ne _ other.symm _ _, rfl,
      changesOnly_arrived (modFan_changes _ _ _)⟩
end

section
/-! The Heat Book (R383–R387, R390, R391): what its operations leave of each other's registers, and its rows. -/

namespace Sys2Proof.Machine

/-! ### What the operations leave of the Heat Book -/

/-- The Heat Book h with what a tag's check and the beginning of a HB_CLEAR may change taken from g (R389, R390). -/
def clearFrom (h g : Hb) : Hb :=
  { h with
    nonceCtr := g.nonceCtr, authFails := g.authFails, authLocked := g.authLocked
    clearing := g.clearing, erased := g.erased, clearLog := g.clearLog, clearNext := g.clearNext }

theorem authChecked_hb (s : State) (ok : Bool) : (authChecked s ok).hb = clearFrom s.hb (authChecked s ok).hb := by
  unfold authChecked
  split
  · rfl
  · split <;> rfl

theorem hbClearGo_hb (s : State) (c : Cmd) : (hbClearGo s c).hb = clearFrom s.hb (hbClearGo s c).hb := by
  obtain ⟨a, b, l, n, begun⟩ : ∃ a b l n, (hbClearGo s c).hb =
      { (authChecked s true).hb with clearing := a, erased := b, clearLog := l, clearNext := n } := ⟨_, _, _, _, cmdPut_hb _ _⟩
  rw [begun, authChecked_hb]
  rfl

theorem hbClearRefused_hb (s : State) (c : Cmd) (r : Refuse) : (hbClearRefused s c r).hb = clearFrom s.hb (hbClearRefused s c r).hb := by
  unfold hbClearRefused
  split
  · rfl
  · exact authChecked_hb s _

/-- A HB_CLEAR that goes on, or is refused, leaves the records and what is counted (R390). -/
theorem hbClearNext_hb (s : State) : (hbClearNext s).hb = clearFrom s.hb (hbClearNext s).hb := by
  unfold hbClearNext
  split
  · rfl
  split
  · rfl
  split
  · rw [cmdRefuse_hb]
    exact hbClearRefused_hb s _ _
  · exact hbClearGo_hb s _

@[simp] theorem hbClearNext_recs (s : State) : (hbClearNext s).hb.recs = s.hb.recs := by rw [hbClearNext_hb]; rfl
@[simp] theorem hbClearNext_next (s : State) : (hbClearNext s).hb.next = s.hb.next := by rw [hbClearNext_hb]; rfl
@[simp] theorem hbClearNext_full (s : State) : (hbClearNext s).hb.full = s.hb.full := by rw [hbClearNext_hb]; rfl
@[simp] theorem hbClearNext_fail (s : State) : (hbClearNext s).hb.fail = s.hb.fail := by rw [hbClearNext_hb]; rfl
@[simp] theorem hbClearNext_hPow (s : State) : (hbClearNext s).hb.hPow = s.hb.hPow := by rw [hbClearNext_hb]; rfl
@[simp] theorem hbClearNext_hTemp (s : State) : (hbClearNext s).hb.hTemp = s.hb.hTemp := by rw [hbClearNext_hb]; rfl

theorem foldl_endRef_hb {α : Type} {f : State → α → State} (h : ∀ s a, (f s a).hb = s.hb) (l : List α) (s : State) : (l.foldl f s).hb = s.hb :=
  List.foldlRecOn (motive := fun t : State => t.hb = s.hb) l f rfl fun t same a _ => (h t a).trans same

/-- Snapshots that end unwritten leave the list, and nothing else of the Heat Book (R387, R391). -/
theorem snapsDrop_hb (s : State) (cause : Nat) : (snapsDrop s cause).hb = { s.hb with snaps := [] } := by
  unfold snapsDrop
  refine foldl_endRef_hb (fun s x => ?_) _ _
  split
  · exact endRef_hb _ _ _ _ _
  · rfl

/-- A snapshot that cannot start leaves the Heat Book full, and the list of snapshots empty (R387). -/
theorem snapStart_hb (s : State) : (snapStart s).hb = { s.hb with full := (snapStart s).hb.full, snaps := (snapStart s).hb.snaps } := by
  unfold snapStart
  split
  · extract_lets h s1
    have full : s1.hb = { s.hb with full := s1.hb.full } := by
      unfold s1
      split
      · rfl
      · rw [post_hb]
    rw [snapsDrop_hb, full]
  · rfl

@[simp] theorem snapStart_recs (s : State) : (snapStart s).hb.recs = s.hb.recs := by rw [snapStart_hb]
@[simp] theorem snapStart_next (s : State) : (snapStart s).hb.next = s.hb.next := by rw [snapStart_hb]
@[simp] theorem snapStart_scanned (s : State) : (snapStart s).hb.scanned = s.hb.scanned := by rw [snapStart_hb]

/-- A failure makes the Heat Book read-only (R391) and enters the last-gasp file. -/
theorem hbFailure_hb (s : State) (kind cause off : Nat) (data : BitVec 128) :
    (hbFailure s kind cause off data).hb = { s.hb with
      lg := (hbFailure s kind cause off data).hb.lg, lgLost := (hbFailure s kind cause off data).hb.lgLost, fail := true, cause := cause } := by
  unfold hbFailure lgAdd
  rw [post_hb]
  split <;> rfl

@[simp] theorem hbFailure_fail (s : State) (kind cause off : Nat) (data : BitVec 128) : (hbFailure s kind cause off data).hb.fail = true := by
  rw [hbFailure_hb]

@[simp] theorem hbFailure_next (s : State) (kind cause off : Nat) (data : BitVec 128) :
    (hbFailure s kind cause off data).hb.next = s.hb.next := by rw [hbFailure_hb]

/-! ### HB_SNAPSHOT (R386, R391) -/

/-- The Heat Book once the snapshot in progress is written and verified (R386). -/
def snapWritten (s : State) (x : SnapReq) (rest : List SnapReq) : Hb :=
  { s.hb with
    recs := memWriteBytes 0xFF s.hb.recs (96 * s.hb.next) (hbImage s x.cause)
    next := s.hb.next + 130, snap := (s.hb.snap + 1) % 65536, snaps := rest }

/-- The state in which the next snapshot starts: the event is posted, and a host's command is done. -/
def snapReported (s : State) (x : SnapReq) (rest : List SnapReq) : State :=
  let t := post { s with hb := snapWritten s x rest } 0x0E10 10 0xFFFF (s.hb.next ||| x.cause <<< 32)
  match x.ref with
  | some r => doneRef t r (s.hb.next <<< 32)
  | none => t

theorem snapReported_hb (s : State) (x : SnapReq) (rest : List SnapReq) : (snapReported s x rest).hb = snapWritten s x rest := by
  unfold snapReported
  split
  · rw [doneRef_hb, post_hb]
  · rw [post_hb]

theorem snapReported_changes (s : State) (x : SnapReq) (rest : List SnapReq) :
    changesOnly [.flash, .host, .hb, .pwr, .out] s (snapReported s x rest) := by
  have written : changesOnly [.flash, .host, .hb, .pwr, .out] s { s with hb := snapWritten s x rest } :=
    (changesOnly_set_hb (by decide) (.inl (by decide))).2 (changesOnly_refl _ s)
  unfold snapReported
  extract_lets t
  have told : changesOnly [.flash, .host, .hb, .pwr, .out] s t := changesOnly_step (post_changes _ _ _ _ _) (by decide) written
  split
  · exact changesOnly_step (doneRef_changes _ _ _) (by decide) told
  · exact told

theorem exec_hbSnapshot_written {s : State} {x : SnapReq} {l : List SnapReq} (snaps : s.hb.snaps = x :: l) (runs : snapRuns s = true)
    (idle : s.hb.clearing = none) (dt : Nat) :
    exec (.hbSnapshot dt none) s = .next (hbClearNext (snapStart (snapReported (arrive dt s) x l))) := by
  have goes : ¬ ((!snapRuns (arrive dt s)) = true ∨ (arrive dt s).hb.clearing.isSome = true) := by
    simp [show snapRuns (arrive dt s) = true from runs, idle]
  refine congrArg Host.Outcome.next ((if_neg goes).trans ?_)
  simp only [arrive_hb, snaps]
  rfl

/-- The Heat Book with the records of a snapshot up to one whose write did not verify (R391). -/
def snapBroken (s : State) (x : SnapReq) (k : Nat) : Hb :=
  { s.hb with
    recs := memWriteBytes 0xFF (memWriteBytes 0xFF s.hb.recs (96 * s.hb.next) ((hbImage s x.cause).take (96 * k))) (96 * (s.hb.next + k))
      (badBytes s (0x30000 + 96 * (s.hb.next + k)) 96)
    next := s.hb.next + k + 1, snap := (s.hb.snap + 1) % 65536 }

theorem exec_hbSnapshot_broken {s : State} {x : SnapReq} {l : List SnapReq} (snaps : s.hb.snaps = x :: l) (runs : snapRuns s = true)
    (idle : s.hb.clearing = none) (dt : Nat) {k : Nat} (hk : k < 130) : ∃ off data,
    exec (.hbSnapshot dt (some k)) s =
      .next (hbClearNext (snapsDrop (hbFailure { arrive dt s with hb := snapBroken (arrive dt s) x k } 1 1 off data) 64)) := by
  have goes : ¬ ((!snapRuns (arrive dt s)) = true ∨ (arrive dt s).hb.clearing.isSome = true) := by
    simp [show snapRuns (arrive dt s) = true from runs, idle]
  refine ⟨0x30000 + 96 * (s.hb.next + k), head16 ((hbImage (arrive dt s) x.cause).drop (96 * k)),
    congrArg Host.Outcome.next ((if_neg goes).trans ?_)⟩
  simp only [snapBroken, arrive_hb, snaps, Option.filter_some, hk, decide_true, if_true]

/-! ### The end of an erase (R390, R391) -/

/-- The Heat Book once the area is erased: no record, and nothing counted (R390). -/
def hbErased (h : Hb) : Hb :=
  { h with
    clearing := none, recs := [], next := 0, full := false, counts := Vector.replicate 19 0, hVin := {}
    hPow := Vector.replicate 64 {}, hTemp := Vector.replicate 24 {}, hLane := Vector.replicate 40 {} }

theorem exec_hbClearEraseEnd_erased {s : State} {ref : CmdRef} (clears : s.hb.clearing = some ref) (dt : Nat) :
    exec (.hbClearEraseEnd dt none) s =
      .next (hbClearNext (doneRef (post { arrive dt s with hb := hbErased s.hb } 0x0E13 10 0xFFFF s.hb.erased) ref)) := by
  change execHbClearEraseEnd dt none s = _
  unfold execHbClearEraseEnd
  simp only [arrive_hb, clears]
  rfl

/-- A failed clear is a failure of the Heat Book, after which the snapshots that wait and the command end (R391). -/
theorem exec_hbClearEraseEnd_failed {s : State} {ref : CmdRef} (clears : s.hb.clearing = some ref) (dt : Nat) (f : Fin 2) :
    ∃ (u : State) (kind cause off : Nat) (data : BitVec 128), changesOnly [.flash, .hb] (arrive dt s) u ∧
      exec (.hbClearEraseEnd dt (some f)) s = .next (hbClearNext (endRef (snapsDrop (hbFailure u kind cause off data) 64) ref 2 66)) := by
  change ∃ (u : State) (kind cause off : Nat) (data : BitVec 128), _ ∧ execHbClearEraseEnd dt (some f) s = _
  unfold execHbClearEraseEnd
  simp only [arrive_hb, clears]
  by_cases record : f = 0
  · rw [if_pos record]
    exact ⟨_, _, _, _, _, (changesOnly_set_hb (by decide) (.inl (by decide))).2 (changesOnly_refl _ _), rfl⟩
  · rw [if_neg record]
    exact ⟨_, _, _, _, _, (changesOnly_set_hb (by decide) (.inl (by decide))).2 (changesOnly_refl _ _), rfl⟩

/-! ### Hours and the scan (R383, R385, R386) -/

/-- The state at the end of an operating hour: every lane's errors taken into its histogram, and begun again at 0 (R385). -/
def hourTaken (s : State) : State :=
  { s with
    hb := { s.hb with
      hourFrom := s.tb.now
      hLane := vall s.hb.hLane fun l h => histAdd (laneBin (laneOf s l).hourErr) (laneOf s l).hourErr h }
    lanes := { s.lanes with lane := vall s.lanes.lane fun _ x => { x with hourErr := 0 } } }

theorem hourTaken_changes (s : State) : changesOnly [.lanes, .hb] s (hourTaken s) := by
  intro p hp
  cases p <;> simp at hp
  case hmem => exact ⟨fun r => by simp only [ringPlace, ringOf, hourTaken], fun a _ => by simp only [hourTaken]⟩
  all_goals simp only [Part.same, hourTaken, and_self]

/-- The hour's bit, programmed or waiting. -/
def hourBit (s : State) (hours waits : Nat) : State := { s with hb := { s.hb with hours := hours, flashWait := waits } }

theorem hourBit_changes (s : State) (hours waits : Nat) : changesOnly [.hb] s (hourBit s hours waits) :=
  (changesOnly_set_hb (by decide) (.inr (by exact ⟨rfl, rfl⟩))).2 (changesOnly_refl _ s)

theorem laneOf_hourTaken (s : State) {l : Nat} (h : l < 40) : laneOf (hourTaken s) l = { laneOf s l with hourErr := 0 } := by
  simp only [laneOf, hourTaken, vget_vall _ _ h]

/-- The programming of an hour that verifies touches nothing but the hours (R383). -/
theorem hourProgram_verified (s : State) : ∃ n, hourProgram true s = { s with hb := { s.hb with hours := n } } ∧
    (s.hb.fail = false → s.hb.hours < 524288 → n = s.hb.hours + 1) := by
  unfold hourProgram
  split
  · next stops =>
    refine ⟨s.hb.hours, rfl, fun writes room => absurd stops ?_⟩
    simp [writes, Nat.not_le.2 room]
  · exact ⟨s.hb.hours + 1, rfl, fun _ _ => rfl⟩

theorem exec_hourComplete (dt : Nat) (s : State) : ∃ n w,
    exec (.hourComplete dt true) s = .next (hourBit (hourTaken (arrive dt s)) n w) ∧
    (domOn s 1 = true → s.hb.fail = false → s.hb.hours < 524288 → n = s.hb.hours + 1) ∧
    (domOn s 1 = false → n = s.hb.hours ∧ w = s.hb.flashWait + 1) := by
  let u := hourTaken (arrive dt s)
  by_cases on : domOn s 1 = true
  · obtain ⟨n, did, counts⟩ := hourProgram_verified u
    exact ⟨n, s.hb.flashWait, congrArg Host.Outcome.next ((if_pos (c := domOn u 1 = true) on).trans did), fun _ => counts,
      fun off => absurd (on.symm.trans off) (by decide)⟩
  · exact ⟨s.hb.hours, s.hb.flashWait + 1, congrArg Host.Outcome.next (if_neg (c := domOn u 1 = true) on), fun h => absurd h on,
      fun _ => ⟨rfl, rfl⟩⟩

/-- The first free record of the area (R386). -/
def firstFree (m : Memory) : Nat := m.foldl (fun i c => if c.1 / 96 = i then i + 1 else i) 0

theorem exec_hbFreeScan {s : State} (on : domOn s 1 = true) (fresh : s.hb.scanned = false) (dt : Nat) :
    exec (.hbFreeScan dt) s = .next (snapStart { arrive dt s with hb := { s.hb with scanned := true, next := firstFree s.hb.recs } }) := by
  have goes : ¬ ((!domOn (arrive dt s) 1) = true ∨ (arrive dt s).hb.scanned = true) := by
    simp [show domOn (arrive dt s) 1 = true from on, fresh]
  exact congrArg Host.Outcome.next (if_neg goes)

theorem exec_hbSnapshotDue {s : State} (due : s.hb.lastSnapHours + s.hb.interval ≤ s.hb.hours) (dt : Nat) :
    exec (.hbSnapshotDue dt) s = .next (snapAsk { arrive dt s with hb := { s.hb with lastSnapHours := s.hb.hours } } 1 none) :=
  congrArg Host.Outcome.next (if_pos (c := (arrive dt s).hb.lastSnapHours + (arrive dt s).hb.interval ≤ (arrive dt s).hb.hours) due)

end Sys2Proof.Machine

open Sys2Proof Sys2Proof.Machine

/-- Settles O23: what each row makes of the Heat Book, through the snapshot and the clear that may follow it. -/
theorem snapshotsFallDueAreWrittenAndErased : Obligations.SnapshotsFallDueAreWrittenAndErased := by
  unfold Obligations.SnapshotsFallDueAreWrittenAndErased
  refine ⟨fun dt s x l snaps runs idle => ⟨?_, fun k hk => ?_⟩, fun dt s due writes notFull room => ?_, fun dt s ref clears => ?_,
    fun dt f s ref clears => ?_⟩
  · have started := changesOnly_step (snapStart_changes _) (by decide) (snapReported_changes (arrive dt s) x l)
    refine ⟨_, exec_hbSnapshot_written snaps runs idle dt, ?_, ?_,
      changesOnly_arrived (changesOnly_step (hbClearNext_changes _) (by decide) started)⟩
    · simp only [hbClearNext_next, snapStart_next, snapReported_hb, snapWritten, arrive_hb]
    · simp only [hbClearNext_recs, snapStart_recs, snapReported_hb, snapWritten, arrive_hb]
  · obtain ⟨off, data, run⟩ := exec_hbSnapshot_broken snaps runs idle dt hk
    have broken : changesOnly [.flash, .host, .hb, .pwr, .fus, .out] (arrive dt s) { arrive dt s with hb := snapBroken (arrive dt s) x k } :=
      (changesOnly_set_hb (by decide) (.inl (by decide))).2 (changesOnly_refl _ _)
    have dropped := changesOnly_step (snapsDrop_changes _ 64) (by decide) (changesOnly_step (hbFailure_changes _ 1 1 off data) (by decide) broken)
    refine ⟨_, run, ?_, ?_, changesOnly_arrived (changesOnly_step (hbClearNext_changes _) (by decide) dropped)⟩
    · simp only [hbClearNext_fail, snapsDrop_hb, hbFailure_fail]
    · simp only [hbClearNext_next, snapsDrop_hb, hbFailure_next, snapBroken, arrive_hb]
  · let u : State := { arrive dt s with hb := { s.hb with lastSnapHours := s.hb.hours } }
    have run := exec_hbSnapshotDue due dt
    rw [snapAsk_of_room (s := u) writes notFull room] at run
    have asked : changesOnly [.hb] (arrive dt s) { u with hb := { u.hb with snaps := u.hb.snaps ++ [⟨1, none⟩] } } :=
      (changesOnly_set_hb (x := arrive dt s) (by decide) (.inr (by exact ⟨rfl, rfl⟩))).2 (changesOnly_refl _ _)
    exact ⟨_, run, rfl, rfl, rfl, changesOnly_arrived asked⟩
  · have erased : changesOnly [.flash, .host, .hb, .pwr, .out] (arrive dt s) { arrive dt s with hb := hbErased s.hb } :=
      (changesOnly_set_hb (by decide) (.inl (by decide))).2 (changesOnly_refl _ _)
    have ended := changesOnly_step (doneRef_changes _ ref 0) (by decide) (changesOnly_step (post_changes _ 0x0E13 10 0xFFFF s.hb.erased) (by decide) erased)
    refine ⟨_, exec_hbClearEraseEnd_erased clears dt, ?_, ?_, ?_, ?_, ?_,
      changesOnly_arrived (changesOnly_step (hbClearNext_changes _) (by decide) ended)⟩
    · rw [hbClearNext_recs, doneRef_hb, post_hb, hbErased]
    · rw [hbClearNext_next, doneRef_hb, post_hb, hbErased]
    · rw [hbClearNext_full, doneRef_hb, post_hb, hbErased]
    · rw [hbClearNext_hPow, doneRef_hb, post_hb, hbErased]
    · rw [hbClearNext_hTemp, doneRef_hb, post_hb, hbErased]
  · obtain ⟨u, kind, cause, off, data, broken, run⟩ := exec_hbClearEraseEnd_failed clears dt f
    have failed := changesOnly_step (hbFailure_changes u kind cause off data) (l := [.flash, .host, .hb, .pwr, .fus, .out]) (by decide)
      (changesOnly_mono broken (by decide))
    have ended := changesOnly_step (endRef_changes _ ref 2 66 0) (by decide) (changesOnly_step (snapsDrop_changes _ 64) (by decide) failed)
    refine ⟨_, run, ?_, changesOnly_arrived (changesOnly_step (hbClearNext_changes _) (by decide) ended)⟩
    rw [hbClearNext_fail, endRef_hb, snapsDrop_hb, hbFailure_fail]

/-- Settles O24: an hour's bit by where CTL is, and the scan by the snapshot that it may let start. -/
theorem hourAndScanAdvanceTheHeatBook : Obligations.HourAndScanAdvanceTheHeatBook := by
  unfold Obligations.HourAndScanAdvanceTheHeatBook
  refine ⟨fun dt s => ?_, fun dt s on fresh => ?_⟩
  · obtain ⟨n, w, run, counts, waits⟩ := exec_hourComplete dt s
    have own : ∀ l < 40, laneOf (hourTaken (arrive dt s)) l = { laneOf s l with hourErr := 0 } := fun l hl => laneOf_hourTaken (arrive dt s) hl
    exact ⟨_, run, counts, waits, fun l hl => ⟨congrArg Lane.hourErr (own l hl), own l hl⟩, rfl,
      changesOnly_arrived (changesOnly_step (hourBit_changes _ n w) (by decide) (hourTaken_changes (arrive dt s)))⟩
  · let u : State := { arrive dt s with hb := { s.hb with scanned := true, next := firstFree s.hb.recs } }
    have found : changesOnly [.host, .pwr, .hb, .out] (arrive dt s) u :=
      (changesOnly_set_hb (by decide) (.inr (by exact ⟨rfl, rfl⟩))).2 (changesOnly_refl _ _)
    exact ⟨_, exec_hbFreeScan on fresh dt, snapStart_scanned u, snapStart_recs u,
      fun none_there => (snapStart_next u).trans (congrArg firstFree none_there),
      changesOnly_arrived (changesOnly_step (snapStart_changes u) (by decide) found)⟩
end

section
/-! Power domains (R340–R346): what the operations leave of the domains, and the rows of entries, exits and wakes. -/

namespace Sys2Proof.Machine

/-! ### The power section but for the events held (R346) -/

/-- The state of the power section without the POWER events that AON holds. -/
def pwrBook (s : State) : PwrS := { s.pwr with evtq := [], evtqLost := 0 }

theorem book_of_changes {l : List Part} {s t : State} (h : changesOnly l s t) (pwr : .pwr ∉ l := by decide) : pwrBook t = pwrBook s := by
  rw [pwrBook, pwrBook, show t.pwr = s.pwr from h .pwr pwr]

theorem book_of_told {s t : State} (h : Told s t) : pwrBook t = pwrBook s := by
  rw [pwrBook, h.pwr]
  rfl

theorem book_ite {c : Prop} [Decidable c] {s t u : State} (ht : pwrBook t = pwrBook s) (hu : pwrBook u = pwrBook s) :
    pwrBook (if c then t else u) = pwrBook s := by
  split
  · exact ht
  · exact hu

theorem book_foldl {α : Type} {f : State → α → State} (h : ∀ s x, pwrBook (f s x) = pwrBook s) :
    ∀ (l : List α) (s : State), pwrBook (l.foldl f s) = pwrBook s
  | [], _ => rfl
  | x :: l, s => (book_foldl h l (f s x)).trans (h s x)

theorem post_book (s : State) (code cls inst data : Nat) : pwrBook (post s code cls inst data) = pwrBook s :=
  book_of_told (postEvent_told s _)

theorem anlCold_book (s : State) : pwrBook (anlCold s) = pwrBook s := by
  unfold anlCold
  extract_lets a pick
  clear_value pick
  split
  · rfl
  · exact (post_book _ _ _ _ _).trans rfl

/-- The power section as domain d begins to move to x. -/
def moveBegun (p : PwrS) (d : Nat) (x : DomState) : PwrS :=
  { p with
    dom := vmod p.dom d fun _ => .moving, target := vmod p.target d fun _ => x
    origin := vmod p.origin d fun _ => vget p.dom d .off }

theorem entryStart_book (s : State) (d : Nat) (x : DomState) : pwrBook (entryStart s d x) = moveBegun (pwrBook s) d x := by
  unfold entryStart
  extract_lets old s1 s2 s3
  have stopped : s1.pwr = s.pwr := by
    show (if d = 2 ∧ old = .on then tbStop s else s).pwr = s.pwr
    split
    · exact tbStop_changes s .pwr (by decide)
    · rfl
  have left : pwrBook (if old = .on then domLeave s3 d else s3) = pwrBook s3 := book_ite (book_of_told (domLeave_told s3 d)) rfl
  rw [left]
  simp only [s3, s2, pwrBook, stopped, moveBegun, old]

/-- The registers of a domain other than CTL that comes up cold are none of the power section. -/
theorem coldReset_book (s : State) {d : Nat} (notCtl : d ≠ 1) : pwrBook (coldReset s d) = pwrBook s := by
  unfold coldReset
  split
  · simp only [coldQuad, pwrBook]
  split
  · exact absurd rfl notCtl
  iterate 4 simp only [pwrBook]
  · exact (anlCold_book _).trans rfl
  · exact book_ite (book_of_changes (coldLanes_changes s d)) rfl

theorem domResume_book (s : State) {d : Nat} (notCtl : d ≠ 1) (cold : Bool) : pwrBook (domResume s d cold) = pwrBook s := by
  unfold domResume
  split
  · extract_lets q s1
    exact (book_of_changes (anlTrigger_changes s1 6)).trans
      ((book_of_changes (biasForce_changes _)).trans (book_of_changes (synSearch_changes s _)))
  split
  · exact absurd rfl notCtl
  · refine book_ite ((book_of_changes (tbResume_changes _)).trans ?_) rfl
    exact book_ite rfl rfl
  · exact (book_of_changes (synSearchAll_changes _)).trans rfl
  · exact book_of_changes (bankZero_changes s)
  · refine book_ite (book_foldl (fun s l => ?_) _ s) rfl
    have tries : ∀ kind, pwrBook (startAttempt kind s l) = pwrBook s := fun kind => book_of_changes (startAttempt_changes kind s l)
    exact book_ite rfl (book_ite (tries .lts) (book_ite rfl (tries _)))

/-! ### One domain while others move -/

/-- Domain d is as it was, and no bank has been recorded as spoiled. -/
structure DomainStands (d : Nat) (s t : State) : Prop where
  dom : ∀ x, vget t.pwr.dom d x = vget s.pwr.dom d x
  kept : t.pwr.kept = s.pwr.kept
  bank : t.pwr.bankSpoiled = s.pwr.bankSpoiled
  spoiled : t.pwr.spoiled = s.pwr.spoiled

namespace DomainStands

variable {d : Nat} {s t u : State}

theorem refl (d : Nat) (s : State) : DomainStands d s s := ⟨fun _ => rfl, rfl, rfl, rfl⟩

theorem trans (h : DomainStands d s t) (k : DomainStands d t u) : DomainStands d s u :=
  ⟨fun x => (k.dom x).trans (h.dom x), k.kept.trans h.kept, k.bank.trans h.bank, k.spoiled.trans h.spoiled⟩

theorem of_book (h : pwrBook t = pwrBook s) : DomainStands d s t :=
  ⟨fun x => (congrArg (fun p : PwrS => vget p.dom d x) h :), (congrArg PwrS.kept h :), (congrArg PwrS.bankSpoiled h :),
    (congrArg PwrS.spoiled h :)⟩

theorem ite {c : Prop} [Decidable c] (ht : DomainStands d s t) (hu : DomainStands d s u) : DomainStands d s (if c then t else u) := by
  split
  · exact ht
  · exact hu

end DomainStands

theorem startExit_stands (d : Nat) (s : State) (mask : Nat) : DomainStands d s (startExit s mask) := by
  unfold startExit
  exact .ite (.refl d s) ⟨fun _ => rfl, rfl, rfl, rfl⟩

theorem applyWake_stands (d : Nat) (s : State) (src action : Nat) (replayed : Bool) : DomainStands d s (applyWake s src action replayed) := by
  unfold applyWake
  refine .ite (.refl d s) ?_
  extract_lets src1 s1 src2 s2
  have noted : DomainStands d s s1 := .of_book rfl
  have acted : DomainStands d s1 s2 := by
    refine .ite (.refl d s1) (.ite ?_ (startExit_stands d s1 2))
    refine .trans ?_ (.of_book (book_of_changes (sidleWake_changes _)))
    refine .trans ?_ (.of_book (book_of_changes (flkBack_changes _)))
    refine .trans ?_ (startExit_stands d _ _)
    exact ⟨fun _ => rfl, rfl, rfl, rfl⟩
  exact noted.trans (acted.trans (.of_book (post_book s2 _ _ _ _)))

theorem decidedNext_stands (d : Nat) (s : State) : DomainStands d s (decidedNext s) :=
  .of_book (book_of_changes (decidedNext_changes s))

theorem wakesReplay_stands (d : Nat) (s : State) : DomainStands d s (wakesReplay s) := by
  unfold wakesReplay
  refine .ite (.refl d s) ?_
  extract_lets l best src1 src2 s1
  have cleared : DomainStands d s s1 := ⟨fun _ => rfl, rfl, rfl, rfl⟩
  exact cleared.trans ((applyWake_stands d s1 _ _ _).trans (decidedNext_stands d _))

/-- CTL's exit moves CTL alone. -/
theorem hostExit_stands {d : Nat} (notCtl : d ≠ 1) (s : State) : DomainStands d s (hostExit s) := by
  unfold hostExit
  refine .ite (.refl d s) ?_
  extract_lets s1
  exact (startExit_stands d s 2).trans ⟨fun x => vget_vmod_ne _ notCtl.symm _ x, rfl, rfl, rfl⟩

theorem domFinish_stands {d : Nat} (notCtl : d ≠ 1) (s : State) : DomainStands d s (domFinish s) := by
  unfold domFinish
  split
  · exact .refl d s
  next c _ =>
  extract_lets ctlOut left src1 s1 result s2
  have ended : DomainStands d s s1 := ⟨fun _ => rfl, rfl, rfl, rfl⟩
  have told : DomainStands d s1 s2 := by
    refine .of_book ?_
    unfold s2
    split
    · next r _ => exact book_ite (book_of_changes (endRef_changes s1 r _ _ _)) (book_of_changes (doneRef_changes s1 r _))
    · rfl
  exact .ite (.refl d s) (ended.trans (told.trans ((wakesReplay_stands d s2).trans (hostExit_stands notCtl _))))

theorem domReached_stands (d : Nat) (s : State) (e : Nat) (cold : Bool) : DomainStands d s (domReached s e cold) := by
  unfold domReached
  split
  · exact .refl d s
  · exact ⟨fun _ => rfl, rfl, rfl, rfl⟩

theorem entryStart_stands {d e : Nat} (apart : e ≠ d) (s : State) (x : DomState) : DomainStands d s (entryStart s e x) := by
  have book := entryStart_book s e x
  exact ⟨fun y => (congrArg (fun p : PwrS => vget p.dom d y) book :).trans (vget_vmod_ne _ apart _ y),
    (congrArg PwrS.kept book :), (congrArg PwrS.bankSpoiled book :), (congrArg PwrS.spoiled book :)⟩

/-- A change begins no entry of a domain that it has brought where it goes. -/
theorem entryNext_stands {d : Nat} (atTick : Bool) (s : State)
    (there : ∀ c, s.pwr.cmd = some c → c.names.getLsbD d = true → c.reached.getLsbD d = true) : DomainStands d s (entryNext atTick s) := by
  unfold entryNext
  split
  · exact .refl d s
  next c cmd =>
  refine .ite (.refl d s) ?_
  split
  · exact .refl d s
  next e found =>
  refine .ite (.refl d s) (entryStart_stands ?_ s _)
  rintro rfl
  have chosen := List.find?_some found
  simp only [Bool.and_eq_true, Bool.not_eq_true'] at chosen
  obtain ⟨⟨named, waits⟩, -⟩ := chosen
  exact Bool.false_ne_true (waits.symm.trans (there c cmd named))

/-- A domain that has reached its target is none that its change still waits for. -/
theorem domReached_there (s : State) {d : Nat} (hd : d < 14) (cold : Bool) :
    ∀ c, (domReached s d cold).pwr.cmd = some c → c.names.getLsbD d = true → c.reached.getLsbD d = true := by
  unfold domReached
  split
  · next none => exact fun c some => absurd (none.symm.trans some) (Option.some_ne_none c).symm
  · intro c now named
    cases now
    show (if _ then _ else _ : BitVec 14).getLsbD d = true
    rw [if_pos named]
    simp [hd]

/-! ### Banks checked at an exit (R343) -/

theorem bankSpoil_book (d : Nat) (s : State) (b : Nat) :
    pwrBook (bankSpoil d s b) = { pwrBook s with
      bankSpoiled := true, spoilIndex := b, spoilCount := satTo 0xFFFF (s.pwr.spoilCount + 1), spoiled := s.pwr.spoiled ||| 1#32 <<< b } := by
  unfold bankSpoil
  extract_lets src s1
  exact (book_of_changes (lgEvent_changes _ _ _)).trans ((book_of_changes (hbCount_changes _ 9)).trans (post_book s1 _ _ _ _))

/-- Bank k has been recorded as spoiled. -/
def bankNoted (s : State) (k : Nat) : Prop := s.pwr.bankSpoiled = true ∧ s.pwr.spoiled.getLsbD k = true

theorem bankSpoil_noted (d : Nat) (s : State) {b k : Nat} (hk : k < 32) (h : bankNoted s k ∨ k = b) : bankNoted (bankSpoil d s b) k := by
  have book := bankSpoil_book d s b
  have noted : (bankSpoil d s b).pwr.spoiled = s.pwr.spoiled ||| 1#32 <<< b := (congrArg PwrS.spoiled book :)
  refine ⟨(congrArg PwrS.bankSpoiled book :), ?_⟩
  rw [noted, BitVec.getLsbD_or, Bool.or_eq_true]
  obtain before | rfl := h
  · exact .inl before.2
  · exact .inr (by simp [hk])

/-- The banks that an exit checks and finds spoiled: those of a kept domain that show another signature. -/
def badBanks (s : State) (d : Nat) (sigs : List (BitVec 32)) : List Nat :=
  if vget s.pwr.origin d .off == .retention && vget s.pwr.kept d false then
    (List.range (banksOf d).2).filter fun i => !(sigs.getD i 0 == vget s.pwr.sign ((banksOf d).1 + i) 0)
  else []

/-- The banks of domain d recorded as spoiled, one after another. -/
def banksNoted (d : Nat) (l : List Nat) (s : State) : State := l.foldl (fun s i => bankSpoil d s ((banksOf d).1 + i)) s

theorem banksNoted_of_mem (d : Nat) {k : Nat} (hk : k < 32) : ∀ {l : List Nat} {s : State},
    (bankNoted s k ∨ ∃ i ∈ l, k = (banksOf d).1 + i) → bankNoted (banksNoted d l s) k
  | [], _, .inl before => before
  | [], _, .inr ⟨_, mem, _⟩ => nomatch mem
  | i :: l, s, h => by
    refine banksNoted_of_mem d hk (l := l) ?_
    obtain before | ⟨j, mem, rfl⟩ := h
    · exact .inl (bankSpoil_noted d s hk (.inl before))
    · obtain rfl | mem := List.mem_cons.1 mem
      · exact .inl (bankSpoil_noted d s hk (.inr rfl))
      · exact .inr ⟨j, mem, rfl⟩

/-- Domain d shows x and keeps nothing; the banks recorded are those of u. -/
structure ExitEnded (d : Nat) (x : DomState) (u t : State) : Prop where
  dom : ∀ y, vget t.pwr.dom d y = x
  kept : ∀ y, vget t.pwr.kept d y = false
  bank : t.pwr.bankSpoiled = u.pwr.bankSpoiled
  spoiled : t.pwr.spoiled = u.pwr.spoiled

theorem ExitEnded.of_stands {d : Nat} {x : DomState} {u s t : State} (h : ExitEnded d x u s) (k : DomainStands d s t) : ExitEnded d x u t :=
  ⟨fun y => (k.dom y).trans (h.dom y), fun y => by rw [k.kept, h.kept y], k.bank.trans h.bank, k.spoiled.trans h.spoiled⟩

/-- A domain other than CTL ends its exit on, with the spoiled banks recorded. -/
theorem exitDone_ended (s : State) {d : Nat} (hd : d < 14) (notCtl : d ≠ 1) (sigs : List (BitVec 32)) :
    ExitEnded d .on (banksNoted d (badBanks s d sigs) s) (exitDone s d sigs) := by
  unfold exitDone
  extract_lets kept b bad cold s1 src s2 s3 s4 s5 s6
  have checked : s1 = banksNoted d (badBanks s d sigs) s := rfl
  have restored : pwrBook s3 = pwrBook s2 := book_ite (coldReset_book s2 notCtl) rfl
  have on : ExitEnded d .on s1 (setDom s3 d .on) :=
    ⟨fun y => vget_vmod_same _ hd _ y,
      fun y => (congrArg (fun p : PwrS => vget p.kept d y) restored :).trans (vget_vmod_same _ hd _ y),
      (congrArg PwrS.bankSpoiled restored :), (congrArg PwrS.spoiled restored :)⟩
  have told : pwrBook s6 = pwrBook (setDom s3 d .on) :=
    (congrArg pwrBook (if_neg notCtl)).trans ((post_book s4 _ _ _ _).trans (domResume_book _ notCtl cold))
  exact checked ▸ on.of_stands ((DomainStands.of_book told).trans ((domReached_stands d s6 d _).trans (domFinish_stands notCtl _)))

theorem badBanks_of_same {s : State} {d : Nat} {sigs : List (BitVec 32)}
    (same : ∀ i < (banksOf d).2, sigs.getD i 0 = vget s.pwr.sign ((banksOf d).1 + i) 0) : badBanks s d sigs = [] := by
  unfold badBanks
  split
  · refine List.filter_eq_nil_iff.2 fun i hi => ?_
    rw [same i (List.mem_range.1 hi)]
    simp
  · rfl

theorem mem_badBanks {s : State} {d i : Nat} {sigs : List (BitVec 32)} (origin : vget s.pwr.origin d .off = .retention)
    (kept : vget s.pwr.kept d false = true) (hi : i < (banksOf d).2)
    (other : sigs.getD i 0 ≠ vget s.pwr.sign ((banksOf d).1 + i) 0) : i ∈ badBanks s d sigs := by
  unfold badBanks
  rw [if_pos (by simp [origin, kept])]
  refine List.mem_filter.2 ⟨List.mem_range.2 hi, ?_⟩
  simpa using other

/-! ### An entry's end (R341) -/

/-- A domain other than CTL ends its entry at its target. -/
theorem entryDone_dom (s : State) {d : Nat} (hd : d < 14) (notCtl : d ≠ 1) (sigs : List (BitVec 32)) (y : DomState) :
    vget (entryDone s d sigs).pwr.dom d y = vget s.pwr.target d .off := by
  unfold entryDone
  extract_lets x old b s1 src2 s2 src3 s3 s4 s5
  have told : pwrBook s4 = pwrBook (setDom s3 d x) := post_book _ _ _ _ _
  have going : DomainStands d (setDom s3 d x) s5 :=
    (DomainStands.of_book told).trans ((domReached_stands d s4 d false).trans
      ((entryNext_stands false _ (domReached_there s4 hd false)).trans (domFinish_stands notCtl _)))
  rw [if_neg notCtl]
  exact (going.dom y).trans (vget_vmod_same _ hd _ y)

/-! ### The rows of entries and exits -/

theorem exec_domainEntryDone {s : State} {d : Fin 14} (moves : vget s.pwr.dom d .off = .moving) (away : vget s.pwr.target d .on ≠ .on)
    (dt : Nat) (sigs : List (BitVec 32)) :
    exec (.domainEntryDone dt d sigs) s = .next (hkCheck (arrive dt s) (entryDone (arrive dt s) d sigs)) :=
  congrArg Host.Outcome.next (if_pos ⟨moves, away⟩)

/-- Domain d begins its exit. -/
def exitBegun (s : State) (d : Nat) : State :=
  { s with pwr := { s.pwr with
    origin := vmod s.pwr.origin d fun _ => vget s.pwr.dom d .off
    dom := vmod s.pwr.dom d fun _ => .moving, target := vmod s.pwr.target d fun _ => .on } }

theorem exec_domainExitStart {s : State} {d : Fin 14} (can : exitCan s d = true) (dt : Nat) :
    exec (.domainExitStart dt d) s = .next (exitBegun (arrive dt s) d) :=
  congrArg Host.Outcome.next (if_pos can)

theorem exec_domainExitDone {s : State} {d : Fin 14} (notCtl : d.val ≠ 1) (ends : exitEnds s d = true) (dt : Nat) (sigs : List (BitVec 32)) :
    exec (.domainExitDone dt d sigs) s = .next (hkCheck (arrive dt s) (exitDone (arrive dt s) d sigs)) :=
  congrArg Host.Outcome.next ((if_pos ends).trans (if_neg notCtl))

theorem hkChecked_changes {k : List Part} {s t : State} (h : changesOnly k s t) (was : State) : changesOnly (.hka :: k) s (hkCheck was t) :=
  changesOnly_trans (changesOnly_mono h fun _ hp => List.mem_cons_of_mem _ hp)
    (changesOnly_mono (hkCheck_changes was t) fun _ hp => List.mem_cons.2 (.inl (List.mem_singleton.1 hp)))

theorem hkCheck_pwr (was s : State) : (hkCheck was s).pwr = s.pwr := hkCheck_changes was s .pwr (by decide)

/-- CTL's entry as it begins: alone in its change. -/
def ctlLeaving (s : State) (at_ : Nat) (x : DomState) : State :=
  { arriveAt at_ s with pwr := { s.pwr with ctlEntryAt := none, cmd := some { names := 2, target := BitVec.ofNat 28 (domCode x <<< 2) } } }

theorem ctlEntry_of_due {s : State} {at_ : Nat} {x : DomState} (due : s.pwr.ctlEntryAt = some (at_, x)) :
    ctlEntry s = entryStart (ctlLeaving s at_ x) 1 x := by
  simp only [ctlEntry, due]
  rfl

/-! ### Wakes (R344–R346) -/

theorem exec_pwakeEdge (dt : Nat) (s : State) : exec (.pwakeEdge dt) s = .next (wake (arrive dt s) 4) := rfl

/-- CTL alone comes on. -/
def ctlChange : DomCmd := { names := 2, target := 8 }

theorem startExit_ctl {s : State} (off : domOn s 1 = false) : startExit s 2 = { s with pwr := { s.pwr with cmd := some ctlChange } } := by
  have ctl : ∀ d ∈ List.range 14, (bit 2 d && vget s.pwr.dom d .off != .on) = decide (d = 1) := by
    intro d _
    by_cases one : d = 1
    · subst one
      have there : bit 2 1 = true := rfl
      simpa [there, domOn] using off
    · have : bit 2 d = false := (Nat.testBit_two_pow (n := 1) (m := d)).trans (decide_eq_false (Ne.symm one))
      simp [this, one]
  have up : ((List.range 14).filter fun d => bit 2 d && vget s.pwr.dom d .off != .on) = [1] :=
    (List.filter_congr ctl).trans (by decide)
  unfold startExit
  rw [up]
  rfl

/-- A wake of source src recorded, and CTL's change begun. -/
def ctlWoken (s : State) (src : Nat) : State :=
  { s with hld := { s.hld with lastSrc := src }, pwr := { s.pwr with cmd := some ctlChange } }

/-- With CTL off, a wake under ENVELOPE's action records its source and brings CTL up. -/
theorem applyWake_ctl {s : State} (off : domOn s 1 = false) (calm : s.thm.quench = false) (src : Nat) :
    applyWake s src 1 false = postWake (ctlWoken s src) src 1 false := by
  have began : startExit { s with hld := { s.hld with lastSrc := src } } 2 = _ := startExit_ctl off
  unfold applyWake
  rw [if_neg (by decide)]
  dsimp only
  rw [calm, if_neg Bool.false_ne_true, if_neg (by decide), began]
  rfl

theorem decidedNext_lastSrc (s : State) : (decidedNext s).hld.lastSrc = s.hld.lastSrc := by
  unfold decidedNext
  split
  · split <;> rfl
  · rfl

theorem wake_ctl {s : State} {src : Nat} (off : domOn s 1 = false) (calm : s.thm.quench = false) (idle : pwrBusy s = false)
    (action : wakeAction s src = 1) : wake s src = decidedNext (postWake (ctlWoken s src) src 1 false) := by
  rw [wake, idle, if_neg Bool.false_ne_true, action, applyWake_ctl off calm]

/-- What the report of a wake leaves of it. -/
theorem ctlWoken_told (s : State) (src : Nat) :
    (decidedNext (postWake (ctlWoken s src) src 1 false)).hld.lastSrc = src ∧
      (decidedNext (postWake (ctlWoken s src) src 1 false)).pwr.cmd = some ctlChange ∧
      (decidedNext (postWake (ctlWoken s src) src 1 false)).pwr.dom = s.pwr.dom := by
  have book : pwrBook (decidedNext (postWake (ctlWoken s src) src 1 false)) = pwrBook (ctlWoken s src) :=
    (book_of_changes (decidedNext_changes _)).trans (post_book _ _ _ _ _)
  have noted : (postWake (ctlWoken s src) src 1 false).hld = (ctlWoken s src).hld := post_hld _ _ _ _ _
  exact ⟨(decidedNext_lastSrc _).trans (congrArg Hld.lastSrc noted), (congrArg PwrS.cmd book :), (congrArg PwrS.dom book :)⟩

theorem hostExit_of_busy {s : State} (busy : pwrBusy s = true) : hostExit s = s := if_pos (.inr (.inl busy))

/-- A waiting request begins CTL's exit from retention. -/
theorem hostExit_begins {s : State} (waits : s.host.waiting ≠ []) (idle : pwrBusy s = false) (sleeps : vget s.pwr.dom 1 .on = .retention) :
    vget (hostExit s).pwr.dom 1 .on = .moving ∧ vget (hostExit s).pwr.target 1 .off = .on := by
  unfold hostExit
  rw [if_neg (by simp [waits, idle, sleeps])]
  exact ⟨vget_vmod_same _ (by decide) _ _, vget_vmod_same _ (by decide) _ _⟩

/-- A request waits for CTL behind those that wait. -/
def hostHolds (s : State) (req : BusReq) : State := { s with host := { s.host with waiting := s.host.waiting ++ [req] } }

theorem exec_ctlWakeRequest {s : State} (sleeps : vget s.pwr.dom 1 .on = .retention) (dt : Nat) (req : BusReq) :
    exec (.ctlWakeRequest dt req) s = .next (hostExit (hostHolds (arrive dt s) req)) := by
  refine congrArg Host.Outcome.next ?_
  simp only [arrive_pwr, sleeps]
  rfl

theorem hostHolds_changes (s : State) (req : BusReq) : changesOnly [.host] s (hostHolds s req) :=
  (changesOnly_set_host (by decide) (.inr (by exact ⟨rfl, rfl⟩))).2 (changesOnly_refl _ s)

end Sys2Proof.Machine

open Sys2Proof Sys2Proof.Machine

/-- Settles O20, from what an entry's and an exit's end leave of the other domains. -/
theorem domainEntriesExitsAndSpoiledBanks : Obligations.DomainEntriesExitsAndSpoiledBanks := by
  unfold Obligations.DomainEntriesExitsAndSpoiledBanks
  refine ⟨⟨?_, ?_, ?_, ?_⟩, ?_⟩
  · intro dt d sigs s notCtl moves away
    refine ⟨_, exec_domainEntryDone moves away dt sigs, ?_,
      changesOnly_arrived (hkChecked_changes (entryDone_changes _ d sigs) _)⟩
    rw [hkCheck_pwr, entryDone_dom _ d.isLt notCtl, vget_fin, vget_fin]
    rfl
  · intro dt d s can
    exact ⟨_, exec_domainExitStart can dt, vget_vmod_same _ d.isLt _ _, vget_vmod_same _ d.isLt _ _, vget_vmod_same _ d.isLt _ _,
      fun e apart => vget_vmod_ne _ apart.symm _ _, rfl,
      changesOnly_arrived (k := [.pwr]) ((changesOnly_set_pwr (by decide)).2 (changesOnly_refl _ _))⟩
  · intro dt d sigs s notCtl ends
    have ended := exitDone_ended (arrive dt s) d.isLt notCtl sigs
    refine ⟨_, exec_domainExitDone notCtl ends dt sigs, ?_, ?_,
      changesOnly_arrived (hkChecked_changes (exitDone_changes _ d sigs) _)⟩
    · rw [hkCheck_pwr, ended.dom]
    · rw [hkCheck_pwr, ended.kept]
  · intro s at_ x due
    have book := entryStart_book (ctlLeaving s at_ x) 1 x
    have row : exec .ctlEntryStart s = .next (entryStart (ctlLeaving s at_ x) 1 x) := congrArg Host.Outcome.next (ctlEntry_of_due due)
    have changes := ctlEntry_changes s
    rw [ctlEntry_of_due due] at changes
    refine ⟨_, row, ?_, (congrArg PwrS.ctlEntryAt book :), ?_, ?_, ?_, changesOnly_mono changes (by decide)⟩
    · rw [show (entryStart (ctlLeaving s at_ x) 1 x).tb = _ from entryStart_changes _ 1 x .tb (by decide)]
      exact arriveAt_now at_ s
    · exact (congrArg (fun p : PwrS => vget p.dom 1 .off) book :).trans (vget_vmod_same _ (by decide) _ _)
    · exact (congrArg (fun p : PwrS => vget p.target 1 .on) book :).trans (vget_vmod_same _ (by decide) _ _)
    · exact (congrArg (fun p : PwrS => vget p.origin 1 .on) book :).trans (vget_vmod_same _ (by decide) _ _)
  · intro dt d sigs s notCtl ends origin kept
    have ended := exitDone_ended (arrive dt s) d.isLt notCtl sigs
    refine ⟨_, exec_domainExitDone notCtl ends dt sigs, fun i hi low other => ?_, fun same => ?_, ?_⟩
    · rw [hkCheck_pwr, ended.bank, ended.spoiled]
      exact banksNoted_of_mem d low (.inr ⟨i, mem_badBanks (s := arrive dt s) origin kept hi other, rfl⟩)
    · rw [hkCheck_pwr, ended.bank, ended.spoiled, badBanks_of_same (s := arrive dt s) same]
      exact ⟨rfl, rfl⟩
    · rw [hkCheck_pwr, ended.dom]

/-- Settles O21, by the cases of a wake. -/
theorem wakesLatchOrActAndRequestsWait : Obligations.WakesLatchOrActAndRequestsWait := by
  unfold Obligations.WakesLatchOrActAndRequestsWait
  refine ⟨?_, ?_, ?_⟩
  · intro dt s busy
    have latched : wake (arrive dt s) 4 = { arrive dt s with pwr := { s.pwr with wakeLatch := s.pwr.wakeLatch ||| 8 } } := if_pos busy
    refine ⟨_, (exec_pwakeEdge dt s).trans (congrArg Host.Outcome.next latched), rfl, rfl, ?_⟩
    exact changesOnly_arrived (k := [.pwr]) ((changesOnly_set_pwr (by decide)).2 (changesOnly_refl _ _))
  · intro dt s idle calm action off
    have acts := wake_ctl (s := arrive dt s) off calm idle action
    obtain ⟨source, change, doms⟩ := ctlWoken_told (arrive dt s) 4
    have changes := wake_changes (arrive dt s) 4
    rw [acts] at changes
    exact ⟨_, (exec_pwakeEdge dt s).trans (congrArg Host.Outcome.next acts), source, ⟨ctlChange, change, rfl⟩, doms,
      changesOnly_arrived changes⟩
  · intro dt req s sleeps
    let held : State := hostHolds (arrive dt s) req
    have host : (hostExit held).host = held.host := hostExit_changes held .host (by decide)
    refine ⟨_, exec_ctlWakeRequest sleeps dt req, ?_, fun idle => ?_, fun busy => ?_, ?_, changesOnly_arrived (k := [.host, .pwr])
      (changesOnly_trans (changesOnly_mono (hostHolds_changes _ req) (by decide)) (changesOnly_mono (hostExit_changes held) (by decide)))⟩
    · rw [host]
      rfl
    · exact hostExit_begins (s := held) (by simp [held, hostHolds]) idle sleeps
    · rw [hostExit_of_busy (s := held) busy]
      rfl
    · rw [host]
      rfl
end

section
/-! The housekeeping round and the converter's queue (R357–R368): what each part of a round leaves of the thermal state. -/

namespace Sys2Proof.Machine

/-! ### The converter's queue (R359) -/

/-- The next conversion touches no result. -/
theorem hkNext_hka (s : State) (ch : Nat) :
    (hkNext s ch).hka = { s.hka with busy := (hkNext s ch).hka.busy, cmp := (hkNext s ch).hka.cmp } := by
  unfold hkNext
  split
  · rfl
  split
  · rfl
  · split <;> rfl

theorem hkQueue_of_room {s : State} (room : s.hka.queue.length < 512) (w : BitVec 32) :
    (hkQueue s w).hka = { s.hka with queue := s.hka.queue ++ [w] } :=
  congrArg State.hka (if_pos room)

theorem hkQueue_of_full {s : State} (full : 512 ≤ s.hka.queue.length) (w : BitVec 32) :
    (hkQueue s w).hka = { s.hka with lost := min 0xFFFF (s.hka.lost + 1), lostSince := true } := by
  unfold hkQueue
  rw [if_neg (by omega)]
  extract_lets first src s1
  split
  · exact post_hka s1 _ _ _ _
  · rfl

/-- A result joins the queue or is counted lost; the channels' newest codes stand. -/
theorem hkQueue_last (s : State) (w : BitVec 32) : (hkQueue s w).hka.last = s.hka.last := by
  by_cases room : s.hka.queue.length < 512
  · rw [hkQueue_of_room room]
  · rw [hkQueue_of_full (by omega)]

/-- Channel ch has its code; no conversion is in progress. -/
def hkStored (s : State) (ch : Nat) (code : BitVec 24) : State :=
  { s with hka := { s.hka with busy := none, last := vmod s.hka.last ch fun _ => some (code, s.thm.rounds) } }

/-- The word of a channel and its code (R359). -/
def hkWord (ch : Nat) (code : BitVec 24) : BitVec 32 := BitVec.ofNat 32 (ch * 2 ^ 24 + code.toNat)

theorem conversionDone_of_busy {s : State} {ch : Nat} (busy : s.hka.busy = some ch) (code : BitVec 24) :
    conversionDone code s = hkNext (hkQueue (hkStored s ch code) (hkWord ch code)) ch := by
  have word : BitVec.ofNat 32 (ch <<< 24 ||| code.toNat) = hkWord ch code := by
    rw [hkWord, ← Nat.shiftLeft_add_eq_or_of_lt code.isLt, Nat.shiftLeft_eq]
  simp only [conversionDone, busy, word]
  rfl

theorem wordGet_qpop (s : State) (req : BitVec 16) : wordGet s req 0x60030 = (hkPop s, hkHead s) := if_pos rfl

theorem hkHead_lt (s : State) : hkHead s < 2 ^ 32 := by
  unfold hkHead
  cases s.hka.queue with
  | nil => decide
  | cons w l => exact w.isLt

theorem exec_hkaQpopRead {s : State} (on : domOn s 1 = true) (lit : darkAt s 0x60030 = none) (dt : Nat) :
    exec (.hkaQpopRead dt) s = .next (respond (hkPop (arrive dt s)) (.data (BitVec.ofNat 64 (hkHead s)))) :=
  congrArg Host.Outcome.next (busIf_read (off := 0x60030) on rfl rfl lit (wordGet_qpop _ _) (hkHead_lt s))

/-! ### Quench and the heater (R366, R368) -/

theorem heaterSet_thm (s : State) (on : Bool) : (heaterSet s on).thm = { s.thm with heatOn := on } := by
  unfold heaterSet
  split
  · next same => rw [← same]
  · exact post_thm _ _ _ _ _

/-- What Quench shows as it latches (R367, R368 steps 1 and 6). -/
def quenchShown (s : State) (cause sensor : Nat) (temp : Int) : Thm :=
  { s.thm with
    quench := true, qCause := cause, qSensor := sensor, qTemp := BitVec.ofNat 16 (tc 16 temp)
    fan := vall s.thm.fan fun i f => { f with duty := if fanTest s i then 0 else 255, force := none } }

/-- Of the thermal state, Quench changes its own registers, the fans and the heater. -/
theorem quenchLatch_thm (s : State) (cause sensor : Nat) (temp : Int) :
    (quenchLatch s cause sensor temp).thm = { quenchShown s cause sensor temp with heatOn := false } := by
  unfold quenchLatch
  extract_lets gen thm s1 bias s2 s3 s4 s5 s6 data s7
  have shown : s1.thm = quenchShown s cause sensor temp := rfl
  have dark : s2.thm = s1.thm := (biasForce_changes _ .thm (by decide)).trans rfl
  have idle : s3.thm = s2.thm := linesIdle_changes s2 _ .thm (by decide)
  have off : s4.thm = s3.thm := by
    have each : ∀ (l : List Nat) (s : State), (l.foldl domQuench s).thm = s.thm := fun l => by
      induction l with
      | nil => exact fun _ => rfl
      | cons d l ih => exact fun s => (ih _).trans (domQuench_changes s d .thm (by decide))
    exact (domFinish_changes _ .thm (by decide)).trans ((entryNext_changes false _ .thm (by decide)).trans (each _ s3))
  have cold : s5.thm = { s4.thm with heatOn := false } := heaterSet_thm s4 false
  have stopped : s6.thm = s5.thm := anlFail_changes s5 14 .thm (by decide)
  have told : s7.thm = s6.thm := (hbCount_changes _ 8 .thm (by decide)).trans (post_thm _ _ _ _ _)
  have noted : (snapAsk (lgEvent s7 0x0D01 data) 2 none).thm = s7.thm :=
    (snapAsk_changes _ 2 none .thm (by decide)).trans (lgEvent_changes s7 _ _ .thm (by decide))
  rw [noted, told, stopped, cold, off, idle, dark, shown]

/-! ### The parts of a round (R361–R366) -/

/-- The count of rounds and the Quench latch stand. -/
structure RoundStands (s t : State) : Prop where
  rounds : t.thm.rounds = s.thm.rounds
  quench : t.thm.quench = s.thm.quench

namespace RoundStands

variable {s t u : State}

theorem refl (s : State) : RoundStands s s := ⟨rfl, rfl⟩

theorem trans (h : RoundStands s t) (k : RoundStands t u) : RoundStands s u := ⟨k.rounds.trans h.rounds, k.quench.trans h.quench⟩

theorem of_changes {l : List Part} (h : changesOnly l s t) (thm : .thm ∉ l := by decide) : RoundStands s t := by
  have same : t.thm = s.thm := h .thm thm
  exact ⟨congrArg Thm.rounds same, congrArg Thm.quench same⟩

theorem ite {c : Prop} [Decidable c] (ht : RoundStands s t) (hu : RoundStands s u) : RoundStands s (if c then t else u) := by
  split
  · exact ht
  · exact hu

theorem foldl {α : Type} {f : State → α → State} (h : ∀ s a, RoundStands s (f s a)) : ∀ (l : List α) (s : State), RoundStands s (l.foldl f s)
  | [], s => .refl s
  | a :: l, s => (h s a).trans (foldl h l (f s a))

theorem forAll {f : State → Nat → State} (h : ∀ s i, RoundStands s (f s i)) (n : Nat) (s : State) : RoundStands s (Machine.forAll n s f) :=
  foldl h _ s

theorem modSensor (s : State) (i : Nat) (f : Sensor → Sensor) : RoundStands s (modSensor s i f) := ⟨rfl, rfl⟩

theorem modGroup (s : State) (i : Nat) (f : Group → Group) : RoundStands s (modGroup s i f) := ⟨rfl, rfl⟩

theorem post (s : State) (code cls inst data : Nat) : RoundStands s (post s code cls inst data) := .of_changes (post_changes s _ _ _ _)

end RoundStands

theorem sensorBroken_stands (s : State) (i why c : Nat) : RoundStands s (sensorBroken s i why c) := by
  unfold sensorBroken
  extract_lets s1 s2 l
  have told : RoundStands s s2 := (RoundStands.modSensor s i _).trans (.post s1 _ _ _ _)
  exact .ite (told.trans ((RoundStands.modSensor s2 i _).trans (.of_changes (noteFault_changes _ 4 i _))))
    (told.trans ((RoundStands.modSensor s2 i _).trans (.of_changes (noteRetired_changes _ 4 i 1))))

theorem rangeCheck_stands (s : State) (i : Nat) : RoundStands s (rangeCheck s i) := by
  unfold rangeCheck
  split
  · exact .ite (.refl s) (sensorBroken_stands s i 1 _)
  · exact .refl s

theorem crossCheck_stands (pre s : State) (i : Nat) : RoundStands s (crossCheck pre s i) := by
  unfold crossCheck
  split
  · refine .ite (.refl s) (.ite (.modSensor s i _) ?_)
    extract_lets s1
    have counted : RoundStands s s1 := .modSensor s i _
    exact .ite counted (counted.trans (sensorBroken_stands s1 i 2 _))
  · exact .refl s

theorem readmit_stands (pre s : State) (i : Nat) : RoundStands s (readmit pre s i) := by
  unfold readmit
  extract_lets x good
  exact .ite (.refl s) (.ite (.modSensor s i _) (.ite (.modSensor s i _) (.ite (.modSensor s i _) (.modSensor s i _))))

theorem sensorRound_stands (s : State) : RoundStands s (sensorRound s) := by
  unfold sensorRound
  extract_lets s1 s2 s3
  have ranged : RoundStands s s1 := .forAll rangeCheck_stands 24 s
  have crossed : RoundStands s1 s2 := .forAll (crossCheck_stands s1) 24 s1
  have back : RoundStands s2 s3 := .forAll (readmit_stands s2) 24 s2
  have valued : ∀ (u : State) (x : Vector Sensor 24), RoundStands u { u with thm := { u.thm with sense := x } } := fun _ _ => ⟨rfl, rfl⟩
  exact ranged.trans (crossed.trans (back.trans (valued s3 _)))

/-- A round may latch Quench; it never clears it. -/
theorem quenchRound_thm (s : State) :
    (quenchRound s).thm.rounds = s.thm.rounds ∧ (s.thm.quench = true → (quenchRound s).thm.quench = true) := by
  unfold quenchRound
  split
  · exact ⟨rfl, id⟩
  split
  · rw [quenchLatch_thm]
    exact ⟨rfl, fun _ => rfl⟩
  · exact ⟨rfl, id⟩

theorem setCeil_stands (s : State) (g : Nat) (c : Int) : RoundStands s (setCeil s g c) := by
  unfold setCeil
  exact .ite (.refl s) ⟨rfl, rfl⟩

theorem groupCeil_stands (s : State) (g : Nat) (ts : Int) (p : Nat) (pred : Int) : RoundStands s (groupCeil s g ts p pred) := by
  unfold groupCeil
  extract_lets x lim c
  exact .ite ((setCeil_stands s g c).trans (.post _ _ _ _ _)) (.ite (setCeil_stands s g _) (.refl s))

theorem groupRound_stands (dc : Nat) (s : State) (g : Nat) : RoundStands s (groupRound dc s g) := by
  unfold groupRound
  extract_lets x
  refine .ite (setCeil_stands s g _) ?_
  split
  · exact (RoundStands.modGroup s g _).trans (groupCeil_stands _ g _ _ _)
  · exact .refl s

theorem fanRound_stands (s : State) : RoundStands s (fanRound s) := ⟨rfl, rfl⟩

theorem heaterRound_of_quench {s : State} (quenched : s.thm.quench = true) : heaterRound s = heaterSet s false := if_pos (.inl quenched)

theorem heaterSet_stands (s : State) (on : Bool) : RoundStands s (heaterSet s on) := by
  have thm := heaterSet_thm s on
  exact ⟨(congrArg Thm.rounds thm :), (congrArg Thm.quench thm :)⟩

theorem heaterRound_stands (s : State) : RoundStands s (heaterRound s) := by
  unfold heaterRound
  extract_lets h
  refine .ite (heaterSet_stands s false) ?_
  split
  · exact .refl s
  · exact .ite (heaterSet_stands s true) (.ite (heaterSet_stands s false) (.refl s))

/-- The round up to its ceilings: the sensors, Quench and the groups. -/
def roundJudged (s : State) : State :=
  forAll 8 (quenchRound (sensorRound { s with thm := { s.thm with rounds := s.thm.rounds + 1 } })) (groupRound (s.tb.now - s.thm.roundAt))

theorem roundJudged_thm (s : State) :
    (roundJudged s).thm.rounds = s.thm.rounds + 1 ∧ (s.thm.quench = true → (roundJudged s).thm.quench = true) := by
  let counted : State := { s with thm := { s.thm with rounds := s.thm.rounds + 1 } }
  have sensed := sensorRound_stands counted
  obtain ⟨rounds, latched⟩ := quenchRound_thm (sensorRound counted)
  have ceiled : RoundStands (quenchRound (sensorRound counted)) (roundJudged s) := .forAll (groupRound_stands _) 8 _
  exact ⟨ceiled.rounds.trans (rounds.trans sensed.rounds), fun q => ceiled.quench.trans (latched (sensed.quench.trans q))⟩

/-- The round with its fans and heater. -/
def roundCooled (s : State) : State := heaterRound (fanRound (roundJudged s))

theorem roundCooled_stands (s : State) : RoundStands (roundJudged s) (roundCooled s) :=
  (fanRound_stands (roundJudged s)).trans (heaterRound_stands (fanRound (roundJudged s)))

/-- What a round does after the fans and the heater: none of it thermal. -/
def roundNoted (s : State) : State := hbRound (anlRound s (compRound (roundCooled s)))

theorem roundNoted_thm (s : State) : (roundNoted s).thm = (roundCooled s).thm :=
  (hbRound_changes _ .thm (by decide)).trans ((anlRound_changes s _ .thm (by decide)).trans (compRound_changes _ .thm (by decide)))

theorem roundNoted_mod (s : State) : (roundNoted s).mod = (roundJudged s).mod :=
  (hbRound_changes _ .mod (by decide)).trans ((anlRound_changes s _ .mod (by decide)).trans
    ((compRound_changes _ .mod (by decide)).trans ((heaterRound_changes _ .mod (by decide)).trans (fanRound_changes _ .mod (by decide)))))

/-- Each path's power average begins anew, and the round has its date. -/
def roundDated (s : State) : State :=
  { s with
    thm := { s.thm with roundAt := s.tb.now }
    tx := { s.tx with path := vall s.tx.path fun _ t => { t with rnd := (0, 0) } } }

theorem hkRound_parts (s : State) : hkRound s = roundDated (roundNoted s) := by
  simp only [hkRound, roundDated, roundNoted, roundCooled, roundJudged]

/-- While Quench is latched every fan not assigned to Link Test runs at 255 and the heater is off (R365, R366). -/
theorem roundCooled_of_quench {s : State} (quenched : (roundJudged s).thm.quench = true) :
    (∀ f < 4, (vget (roundCooled s).thm.fan f {}).duty = if fanTest (roundJudged s) f then 0 else 255) ∧ (roundCooled s).thm.heatOn = false := by
  have cooled : (roundCooled s).thm = { (fanRound (roundJudged s)).thm with heatOn := false } := by
    rw [roundCooled, heaterRound_of_quench (s := fanRound (roundJudged s)) quenched, heaterSet_thm]
  rw [cooled]
  refine ⟨fun f hf => ?_, rfl⟩
  have full : ∀ x, fanDuty (roundJudged s) x = 255 := fun x => if_pos (by simp [fanFull, quenched])
  simp only [fanRound, vget_vall _ _ hf, full]

end Sys2Proof.Machine

open Sys2Proof Sys2Proof.Machine

/-- Settles O16, from the parts of a round. -/
theorem conversionsRoundsAndQueue : Obligations.ConversionsRoundsAndQueue := by
  unfold Obligations.ConversionsRoundsAndQueue
  refine ⟨⟨?_, ?_⟩, ?_⟩
  · intro dt code s ch busy hch
    let u : State := hkStored (arrive dt s) ch code
    have done : conversionDone code (arrive dt s) = hkNext (hkQueue u (hkWord ch code)) ch := conversionDone_of_busy (s := arrive dt s) busy code
    have changes := conversionDone_changes code (arrive dt s)
    have next := hkNext_hka (hkQueue u (hkWord ch code)) ch
    rw [done] at changes
    have last : (hkNext (hkQueue u (hkWord ch code)) ch).hka.last = u.hka.last := (congrArg Hka.last next :).trans (hkQueue_last u _)
    have queue : (hkNext (hkQueue u (hkWord ch code)) ch).hka.queue = (hkQueue u (hkWord ch code)).hka.queue := (congrArg Hka.queue next :)
    have lost : (hkNext (hkQueue u (hkWord ch code)) ch).hka.lost = (hkQueue u (hkWord ch code)).hka.lost := (congrArg Hka.lost next :)
    refine ⟨_, congrArg Host.Outcome.next done, ?_, fun j _ apart => ?_, fun room => ?_, fun full => ?_, changesOnly_arrived changes⟩
    · rw [last]
      exact vget_vmod_same _ hch _ _
    · rw [last]
      exact vget_vmod_ne _ apart.symm _ _
    · rw [queue, lost, hkQueue_of_room (s := u) room]
      exact ⟨rfl, rfl⟩
    · rw [queue, lost, hkQueue_of_full (s := u) full]
      exact ⟨rfl, rfl⟩
  · intro dt s on lit
    refine ⟨_, exec_hkaQpopRead on lit dt, fun w l entries => ?_, fun empty => ?_, rfl, changesOnly_arrived (k := [.host, .hka])
      (changesOnly_trans (changesOnly_mono (hkPop_changes _) (by decide)) (changesOnly_mono (respond_changes _ _) (by decide)))⟩
    · have popped : s.hka.queue.tail = l := by rw [entries]; rfl
      have head : hkHead s = w.toNat := by rw [hkHead, entries]; rfl
      exact ⟨popped, by rw [head]; rfl⟩
    · have popped : s.hka.queue.tail = [] := by rw [empty]; rfl
      have head : hkHead s = 0xFFFFFFFF := by rw [hkHead, empty]; rfl
      exact ⟨popped, by rw [head]; rfl⟩
  · intro dt s
    obtain ⟨rounds, latched⟩ := roundJudged_thm (arrive dt s)
    have cooled := roundCooled_stands (arrive dt s)
    have thm := roundNoted_thm (arrive dt s)
    have changes := hkRound_changes (arrive dt s)
    rw [hkRound_parts] at changes
    have now : (roundDated (roundNoted (arrive dt s))).tb = (arrive dt s).tb := changes .tb (by decide)
    refine ⟨_, congrArg Host.Outcome.next (hkRound_parts (arrive dt s)), ?_, (congrArg Tb.now now :), rfl, fun p hp => ?_, fun quenched => ?_,
      fun was => ?_, changesOnly_arrived changes⟩
    · exact (congrArg Thm.rounds thm :).trans (cooled.rounds.trans rounds)
    · simp only [txOf, roundDated, vget_vall _ _ hp]
    · have judged : (roundJudged (arrive dt s)).thm.quench = true :=
        cooled.quench.symm.trans ((congrArg Thm.quench thm :).symm.trans quenched)
      obtain ⟨fans, heat⟩ := roundCooled_of_quench judged
      have land : ∀ f, fanTest (roundDated (roundNoted (arrive dt s))) f = fanTest (roundJudged (arrive dt s)) f := fun f => by
        rw [fanTest, fanTest, ← roundNoted_mod]
        rfl
      refine ⟨fun f hf => ?_, (congrArg Thm.heatOn thm :).trans heat⟩
      rw [land, ← fans f hf]
      exact (congrArg (fun x : Thm => (vget x.fan f {}).duty) thm :)
    · exact (congrArg Thm.quench thm :).trans (cooled.quench.trans (latched was))
end

section
/-! Quench (R367, R368, R372): what holds once it has latched, and the domains it takes off. -/

namespace Sys2Proof.Machine

/-! ### Lines and outputs while Quench is latched (R232, R260, R320, R372) -/

/-- A path belongs to no run while Quench is latched (R232, R259). -/
theorem inRuns_of_quench {s : State} (quenched : s.thm.quench = true) (p : Nat) : inRuns s p = false := by
  simp [inRuns, whyNow, quenched, b2n]

/-- Nor does it inject (R320). -/
theorem injecting_of_quench {s : State} (quenched : s.thm.quench = true) (p : Nat) : injecting s p = false := by
  have bars : anlInjects s p = false := by simp [anlInjects, quenched]
  unfold injecting
  split
  · simp only [injectsIn, bars, Bool.and_false, Bool.false_and]
  · rfl

theorem biasForced_of_quench {s : State} (quenched : s.thm.quench = true) (o : Nat) : biasForced s o = true := by
  unfold biasForced
  simp [quenched]

theorem biasOut_biasForce (s : State) {o : Nat} (ho : o < 128) :
    vget (biasForce s).bias.out o {} =
      if biasForced s o then { vget s.bias.out o {} with shown := 0 } else vget s.bias.out o {} := by
  simp only [biasForce, vget_vall _ _ ho]

/-- Quench is latched, nothing is sent, every bias output shows code 0 with an empty queue, and QUENCH_N is low. -/
structure QuenchSafe (s : State) : Prop where
  quench : s.thm.quench = true
  rest : ∀ p < 64, AtRest (txOf s p)
  shown : ∀ o < 128, (vget s.bias.out o {}).shown = 0
  queue : ∀ o < 128, (vget s.bias.out o {}).queue = []
  low : s.gen.quenchN = false

namespace QuenchSafe

variable {s t : State}

theorem of_changes {l : List Part} (h : QuenchSafe s) (did : changesOnly l s t)
    (apart : ∀ p ∈ [Part.thm, .tx, .bias, .gen], p ∉ l := by decide) : QuenchSafe t := by
  have thm : t.thm = s.thm := did .thm (apart _ (by decide))
  have tx : t.tx = s.tx := did .tx (apart _ (by decide))
  have bias : t.bias = s.bias := did .bias (apart _ (by decide))
  have gen : t.gen = s.gen := did .gen (apart _ (by decide))
  refine ⟨by rw [thm]; exact h.quench, fun p hp => ?_, by rw [bias]; exact h.shown, by rw [bias]; exact h.queue, by rw [gen]; exact h.low⟩
  rw [txOf_congr (congrArg Tx.path tx)]
  exact h.rest p hp

theorem ite {c : Prop} [Decidable c] (ht : QuenchSafe s) (hu : QuenchSafe t) : QuenchSafe (if c then s else t) := by
  split
  · exact ht
  · exact hu

theorem linesIdle (h : QuenchSafe s) (chosen : Nat → Bool) : QuenchSafe (linesIdle s chosen) := by
  have did := linesIdle_changes s chosen
  have thm : (Machine.linesIdle s chosen).thm = s.thm := did .thm (by decide)
  have bias : (Machine.linesIdle s chosen).bias = s.bias := did .bias (by decide)
  have gen : (Machine.linesIdle s chosen).gen = s.gen := did .gen (by decide)
  refine ⟨by rw [thm]; exact h.quench, fun p hp => ?_, by rw [bias]; exact h.shown, by rw [bias]; exact h.queue, by rw [gen]; exact h.low⟩
  cases taken : chosen p with
  | true => exact atRest_linesIdle s hp taken
  | false =>
    rw [txOf_linesIdle s chosen hp, taken]
    exact h.rest p hp

theorem biasForce (h : QuenchSafe s) : QuenchSafe (biasForce s) := by
  have out : ∀ o < 128, vget (Machine.biasForce s).bias.out o {} = { vget s.bias.out o {} with shown := 0 } := fun o ho =>
    (biasOut_biasForce s ho).trans (if_pos (biasForced_of_quench h.quench o))
  refine ⟨by rw [biasForce_thm]; exact h.quench, fun p hp => ?_, fun o ho => by rw [out o ho], fun o ho => by rw [out o ho]; exact h.queue o ho,
    by rw [biasForce_gen]; exact h.low⟩
  rw [txOf_congr (congrArg Tx.path (biasForce_tx s))]
  exact h.rest p hp

theorem domLeave (h : QuenchSafe s) (d : Nat) : QuenchSafe (domLeave s d) := by
  unfold Machine.domLeave
  refine .ite ?_ (.ite ?_ (.ite ?_ h.biasForce))
  · extract_lets q s1 s2 s3
    have idle : QuenchSafe s1 := h.linesIdle _
    have stopped : QuenchSafe s2 := idle.of_changes (synStop_changes s1 q)
    have served : QuenchSafe s3 := .ite (stopped.of_changes (synStop_changes s2 4)) stopped
    exact served.biasForce
  · extract_lets s1
    have direct : QuenchSafe s1 := h.of_changes (dropDirect_changes s _ _)
    have left := changesOnly_foldl [.lanes, .fh]
      (fun s l => modLane (laneLeave s l) l fun x => { x with attempt := none, retryAt := none, peer := false })
      (fun s l => changesOnly_trans (changesOnly_mono (laneLeave_changes s l) (by decide)) (changesOnly_mono (modLane_changes _ l _) (by decide)))
      (lanesOf d) s1
    exact (direct.of_changes left).of_changes (synceUpdate_changes _)
  · extract_lets s1
    have held : QuenchSafe s1 := (h.of_changes (dropHeld_changes s _ _)).of_changes (dropCtrl_changes _ _ _)
    exact held.of_changes (dropUplink_changes s1 _ _)

/-- A path at rest that belongs to no run shows an inactive PA enable. -/
theorem quiet (h : QuenchSafe s) : txQuiet s := by
  refine ⟨fun p hp => ?_, h.shown⟩
  obtain ⟨radiating, paen, paenOff⟩ := h.rest p hp
  exact ⟨radiating, by simp [paenLine, willRadiate, inRuns_of_quench h.quench, injecting_of_quench h.quench, paen, paenOff]⟩

end QuenchSafe

/-! ### Domains off at once (R340, R368 step 4) -/

/-- A quad, TMP and CRU have lost nothing of what a domain's end clears. -/
theorem domLeft_of_high (s : State) {d : Nat} (high : 8 ≤ d) : domLeft s d = s := by
  unfold domLeft
  rw [if_neg (by omega), if_neg (by omega), if_neg (by omega), if_neg (by omega)]

/-- Domain d is off, and the change in progress does not bring it elsewhere. -/
structure QuenchOff (d : Nat) (s : State) : Prop where
  dom : ∀ x, vget s.pwr.dom d x = .off
  there : ∀ c, s.pwr.cmd = some c → c.names.getLsbD d = true → c.reached.getLsbD d = true

theorem QuenchOff.of_book {d : Nat} {s t : State} (h : QuenchOff d s) (book : pwrBook t = pwrBook s) : QuenchOff d t := by
  have cmd : t.pwr.cmd = s.pwr.cmd := (congrArg PwrS.cmd book :)
  exact ⟨fun x => (congrArg (fun p : PwrS => vget p.dom d x) book :).trans (h.dom x), fun c now => h.there c (cmd.symm.trans now)⟩

/-- What Quench takes from the change in progress for domain d: its name, unless it is off as that change has left it. -/
def quenchUnnamed (s : State) (d : Nat) : State :=
  match s.pwr.cmd with
  | some c =>
    if c.names.getLsbD d && (vget s.pwr.dom d .off != .off || !c.reached.getLsbD d) then
      { s with pwr := { s.pwr with cmd := some { c with
          names := c.names &&& ~~~(1#14 <<< d), reached := c.reached &&& ~~~(1#14 <<< d), quenched := true } } }
    else s
  | none => s

/-- Domain d shown off, with nothing kept. -/
def quenchDown (s : State) (d : Nat) : State :=
  setDom { s with pwr := { s.pwr with kept := vmod s.pwr.kept d fun _ => false, target := vmod s.pwr.target d fun _ => .off } } d .off

theorem domQuench_of_high (s : State) {d : Nat} (high : 8 ≤ d) :
    domQuench s d =
      if vget s.pwr.dom d .off = .off then quenchUnnamed s d
      else postDom (quenchDown (if vget s.pwr.dom d .off = .on then domLeave (quenchUnnamed s d) d else quenchUnnamed s d) d) d 0 := by
  unfold domQuench
  simp only [domLeft_of_high _ high]
  unfold quenchUnnamed
  cases s.pwr.cmd <;> rfl

theorem quenchUnnamed_changes (s : State) (d : Nat) : changesOnly [.pwr] s (quenchUnnamed s d) := by
  unfold quenchUnnamed
  split
  · split
    · exact (changesOnly_set_pwr (by decide)).2 (changesOnly_refl _ s)
    · exact changesOnly_refl _ s
  · exact changesOnly_refl _ s

theorem quenchDown_changes (s : State) (d : Nat) : changesOnly [.pwr] s (quenchDown s d) :=
  (changesOnly_set_pwr (by decide)).2 ((changesOnly_set_pwr (by decide)).2 (changesOnly_refl _ s))

theorem domQuench_safe {s : State} (h : QuenchSafe s) {d : Nat} (high : 8 ≤ d) : QuenchSafe (domQuench s d) := by
  rw [domQuench_of_high s high]
  have unnamed : QuenchSafe (quenchUnnamed s d) := h.of_changes (quenchUnnamed_changes s d)
  refine .ite unnamed ?_
  have left : QuenchSafe (if vget s.pwr.dom d .off = .on then domLeave (quenchUnnamed s d) d else quenchUnnamed s d) :=
    .ite (unnamed.domLeave d) unnamed
  exact (left.of_changes (quenchDown_changes _ d)).of_changes (postDom_changes _ d 0)

theorem quenchUnnamed_dom (s : State) (d : Nat) : (quenchUnnamed s d).pwr.dom = s.pwr.dom := by
  unfold quenchUnnamed
  split
  · split <;> rfl
  · rfl

/-- A domain that Quench takes off is no longer one that the change in progress waits for. -/
theorem quenchUnnamed_there (s : State) {d : Nat} (hd : d < 14) (c : DomCmd) (now : (quenchUnnamed s d).pwr.cmd = some c)
    (named : c.names.getLsbD d = true) : vget s.pwr.dom d .off = .off ∧ c.reached.getLsbD d = true := by
  unfold quenchUnnamed at now
  split at now
  · next old was =>
    split at now
    · cases now
      simp [hd] at named
    · next keeps =>
      obtain rfl : old = c := Option.some_inj.1 (was.symm.trans now)
      simpa [named] using keeps
  · next none => exact absurd (none.symm.trans now) (Option.some_ne_none c).symm

/-- What is taken for one domain leaves every other as it was. -/
theorem quenchUnnamed_other {s : State} {d : Nat} (e : Nat) (h : QuenchOff d s) : QuenchOff d (quenchUnnamed s e) := by
  refine ⟨fun x => by rw [quenchUnnamed_dom]; exact h.dom x, fun c now named => ?_⟩
  unfold quenchUnnamed at now
  split at now
  · next old was =>
    split at now
    · cases now
      rw [BitVec.getLsbD_and, Bool.and_eq_true] at named ⊢
      exact ⟨h.there old was named.1, named.2⟩
    · exact h.there c now named
  · exact h.there c now named

theorem domQuench_off {s : State} {d : Nat} (high : 8 ≤ d) (hd : d < 14) : QuenchOff d (domQuench s d) := by
  rw [domQuench_of_high s high]
  split
  · next off =>
    refine ⟨fun x => ?_, fun c now named => (quenchUnnamed_there s hd c now named).2⟩
    rw [quenchUnnamed_dom, vget_fin s.pwr.dom ⟨d, hd⟩ x, ← vget_fin s.pwr.dom ⟨d, hd⟩ .off]
    exact off
  · next notOff =>
    have left : pwrBook (if vget s.pwr.dom d .off = .on then domLeave (quenchUnnamed s d) d else quenchUnnamed s d) = pwrBook (quenchUnnamed s d) :=
      book_ite (book_of_told (domLeave_told _ d)) rfl
    refine QuenchOff.of_book ?_ (post_book _ _ _ _ _)
    refine ⟨fun x => vget_vmod_same _ hd _ x, fun c now named => ?_⟩
    exact absurd (quenchUnnamed_there s hd c ((congrArg PwrS.cmd left :).symm.trans now) named).1 notOff

theorem domQuench_off_other {s : State} {d e : Nat} (high : 8 ≤ e) (apart : e ≠ d) (h : QuenchOff d s) : QuenchOff d (domQuench s e) := by
  rw [domQuench_of_high s high]
  have unnamed := quenchUnnamed_other e h
  split
  · exact unnamed
  · have left : QuenchOff d (if vget s.pwr.dom e .off = .on then domLeave (quenchUnnamed s e) e else quenchUnnamed s e) :=
      unnamed.of_book (book_ite (book_of_told (domLeave_told _ e)) rfl)
    refine QuenchOff.of_book ?_ (post_book _ _ _ _ _)
    exact ⟨fun x => (vget_vmod_ne _ apart _ x).trans (left.dom x), left.there⟩

theorem lt_of_mem_quenchDoms {d : Nat} (h : d ∈ quenchDoms) : 8 ≤ d ∧ d < 14 := by
  revert d
  decide

/-- Domains taken off one after another. -/
theorem domsQuenched_safe : ∀ {l : List Nat} {s : State}, (∀ e ∈ l, 8 ≤ e) → QuenchSafe s → QuenchSafe (l.foldl domQuench s)
  | [], _, _, h => h
  | e :: l, _, high, h =>
    domsQuenched_safe (l := l) (List.forall_mem_cons.1 high).2 (domQuench_safe h (high e List.mem_cons_self))

theorem domsQuenched_off {d : Nat} (hd : d < 14) : ∀ {l : List Nat} {s : State}, (∀ e ∈ l, 8 ≤ e) → (d ∈ l ∨ QuenchOff d s) →
    QuenchOff d (l.foldl domQuench s)
  | [], _, _, .inr off => off
  | e :: l, s, high, h => by
    obtain ⟨own, rest⟩ := List.forall_mem_cons.1 high
    refine domsQuenched_off hd (l := l) rest ?_
    by_cases same : e = d
    · subst same
      exact .inr (domQuench_off own hd)
    · obtain mem | off := h
      · exact .inl ((List.mem_cons.1 mem).resolve_left (Ne.symm same))
      · exact .inr (domQuench_off_other own same off)

/-! ### Quench's other parts leave the domains (R329, R366, R386) -/

theorem heaterSet_book (s : State) (on : Bool) : pwrBook (heaterSet s on) = pwrBook s := book_ite rfl (post_book _ _ _ _ _)

/-- A safety condition ends a run in progress (R328). -/
theorem anlFail_safety_book (s : State) : pwrBook (anlFail s 14) = pwrBook s := by
  cases runs : s.anl.run with
  | none => simp only [anlFail, runs]
  | some r =>
    rw [anlFail_of_run runs, if_neg (by simp), if_neg (by simp), if_neg (by simp)]
    have told : pwrBook (failureTold s 14) = pwrBook s := post_book s _ _ _ _
    exact (book_of_changes (endRefs_changes (failureTold s 14) r.refs 2 _)).trans told

theorem snapAsk_book (s : State) (cause : Nat) (ref : Option CmdRef) : pwrBook (snapAsk s cause ref) = pwrBook s := by
  unfold snapAsk snapStart
  refine book_ite rfl (book_ite ?_ rfl)
  extract_lets src1 src2 s1
  exact (book_of_changes (snapsDrop_changes s1 65)).trans (book_ite rfl (post_book _ _ _ _ _))

/-! ### Quench latches -/

/-- Quench's own registers, the fans and QUENCH_N (R368 steps 1 and 6). -/
def quenchNoted (s : State) (cause sensor : Nat) (temp : Int) : State :=
  { s with gen := { s.gen with quenchN := false }, thm := quenchShown s cause sensor temp }

/-- Every bias queue flushed. -/
def biasFlushed (s : State) : State :=
  { s with bias := { s.bias with out := vall s.bias.out fun _ b => { b with queue := [], released := none } } }

/-- The bias outputs flushed and forced. -/
def quenchBias (s : State) : State := biasForce (biasFlushed s)

/-- The state with Quench's registers, the bias outputs and the lines at rest, before the domains go. -/
def quenchCalm (s : State) (cause sensor : Nat) (temp : Int) : State :=
  linesIdle (quenchBias (quenchNoted s cause sensor temp)) fun _ => true

/-- The domains off, and the change in progress without them. -/
def quenchDark (s : State) (cause sensor : Nat) (temp : Int) : State :=
  domFinish (entryNext false (quenchDoms.foldl domQuench (quenchCalm s cause sensor temp)))

/-- The heater off, Anneal's run ended, and the reports. -/
def quenchTold (s : State) (sensor data : Nat) : State :=
  snapAsk (lgEvent (hbCount (post (anlFail (heaterSet s false) 14) 0x0D01 1 sensor data) 8) 0x0D01 data) 2 none

theorem quenchLatch_parts (s : State) (cause sensor : Nat) (temp : Int) :
    quenchLatch s cause sensor temp = quenchTold (quenchDark s cause sensor temp) sensor (cause ||| tc 16 temp <<< 16) := by
  simp only [quenchLatch, quenchTold, quenchDark, quenchCalm, quenchBias, biasFlushed, quenchNoted, quenchShown]

theorem quenchBias_out {s : State} (quenched : s.thm.quench = true) {o : Nat} (ho : o < 128) :
    vget (quenchBias s).bias.out o {} = { vget s.bias.out o {} with shown := 0, queue := [], released := none } := by
  have flushed : (biasFlushed s).thm.quench = true := quenched
  have forced := biasForced_of_quench flushed o
  rw [quenchBias, biasOut_biasForce _ ho, if_pos forced]
  simp only [biasFlushed, vget_vall _ _ ho]

theorem entryNext_safe {s : State} (h : QuenchSafe s) : QuenchSafe (entryNext false s) := by
  unfold entryNext
  split
  · exact h
  refine .ite h ?_
  split
  · exact h
  · refine .ite h ?_
    unfold entryStart
    extract_lets old s1 src s2
    have stopped : QuenchSafe s1 := .ite (h.of_changes (tbStop_changes s)) h
    have moved : QuenchSafe s2 := stopped.of_changes (l := [.pwr]) ((changesOnly_set_pwr (by decide)).2 (changesOnly_refl _ s1))
    exact .ite (moved.domLeave _) moved

theorem quenchCalm_safe (s : State) (cause sensor : Nat) (temp : Int) : QuenchSafe (quenchCalm s cause sensor temp) := by
  have did := linesIdle_changes (quenchBias (quenchNoted s cause sensor temp)) fun _ => true
  have bias : (quenchCalm s cause sensor temp).bias = (quenchBias (quenchNoted s cause sensor temp)).bias := did .bias (by decide)
  have out : ∀ o < 128, vget (quenchCalm s cause sensor temp).bias.out o {} =
      { vget s.bias.out o {} with shown := 0, queue := [], released := none } := fun o ho => by
    rw [bias, quenchBias_out rfl ho]
    rfl
  refine ⟨?_, fun p hp => atRest_linesIdle _ hp rfl, fun o ho => by rw [out o ho], fun o ho => by rw [out o ho], ?_⟩
  · rw [show (quenchCalm s cause sensor temp).thm = _ from did .thm (by decide), quenchBias, biasForce_thm]
    rfl
  · rw [show (quenchCalm s cause sensor temp).gen = _ from did .gen (by decide), quenchBias, biasForce_gen]
    rfl

theorem quenchDark_safe (s : State) (cause sensor : Nat) (temp : Int) : QuenchSafe (quenchDark s cause sensor temp) :=
  have off := domsQuenched_safe (l := quenchDoms) (fun _ mem => (lt_of_mem_quenchDoms mem).1) (quenchCalm_safe s cause sensor temp)
  (entryNext_safe off).of_changes (domFinish_changes _)

/-- A domain that is off stays off while the change in progress goes on without it. -/
theorem QuenchOff.goesOn {d : Nat} {s : State} (off : QuenchOff d s) (notCtl : d ≠ 1) (x : DomState) :
    vget (domFinish (entryNext false s)).pwr.dom d x = .off := by
  have next : DomainStands d s (domFinish (entryNext false s)) := (entryNext_stands false s off.there).trans (domFinish_stands notCtl _)
  rw [next.dom, off.dom]

theorem quenchDark_off (s : State) (cause sensor : Nat) (temp : Int) {d : Nat} (mem : d ∈ quenchDoms) (x : DomState) :
    vget (quenchDark s cause sensor temp).pwr.dom d x = .off := by
  obtain ⟨high, hd⟩ := lt_of_mem_quenchDoms mem
  unfold quenchDark
  exact (domsQuenched_off hd (fun _ mem => (lt_of_mem_quenchDoms mem).1) (.inl mem)).goesOn (by omega) x

theorem quenchTold_safe {s : State} (h : QuenchSafe s) (sensor data : Nat) : QuenchSafe (quenchTold s sensor data) := by
  have cold : QuenchSafe (heaterSet s false) := by
    have did := heaterSet_changes s false
    have thm := heaterSet_thm s false
    have tx : (heaterSet s false).tx = s.tx := did .tx (by decide)
    have bias : (heaterSet s false).bias = s.bias := did .bias (by decide)
    have gen : (heaterSet s false).gen = s.gen := did .gen (by decide)
    refine ⟨by rw [thm]; exact h.quench, fun p hp => ?_, by rw [bias]; exact h.shown, by rw [bias]; exact h.queue, by rw [gen]; exact h.low⟩
    rw [txOf_congr (congrArg Tx.path tx)]
    exact h.rest p hp
  have stopped := cold.of_changes (anlFail_changes _ 14)
  have posted := (stopped.of_changes (post_changes _ 0x0D01 1 sensor data)).of_changes (hbCount_changes _ 8)
  exact (posted.of_changes (lgEvent_changes _ 0x0D01 data)).of_changes (snapAsk_changes _ 2 none)

theorem quenchTold_book (s : State) (sensor data : Nat) : pwrBook (quenchTold s sensor data) = pwrBook s := by
  have stopped : pwrBook (anlFail (heaterSet s false) 14) = pwrBook s := (anlFail_safety_book _).trans (heaterSet_book s false)
  have posted := (book_of_changes (hbCount_changes (post (anlFail (heaterSet s false) 14) 0x0D01 1 sensor data) 8)).trans (post_book _ _ _ _ _)
  exact (snapAsk_book _ 2 none).trans ((book_of_changes (lgEvent_changes _ 0x0D01 data)).trans (posted.trans stopped))

theorem quenchTold_dom (s : State) (sensor data d : Nat) (x : DomState) :
    vget (quenchTold s sensor data).pwr.dom d x = vget s.pwr.dom d x :=
  (DomainStands.of_book (quenchTold_book s sensor data)).dom x

/-- Quench makes the device safe (R368). -/
theorem quenchLatch_safe (s : State) (cause sensor : Nat) (temp : Int) : QuenchSafe (quenchLatch s cause sensor temp) := by
  rw [quenchLatch_parts]
  exact quenchTold_safe (quenchDark_safe s cause sensor temp) sensor _

theorem quenchLatch_off (s : State) (cause sensor : Nat) (temp : Int) {d : Nat} (mem : d ∈ quenchDoms) (x : DomState) :
    vget (quenchLatch s cause sensor temp).pwr.dom d x = .off := by
  rw [quenchLatch_parts, quenchTold_dom, quenchDark_off s cause sensor temp mem]

/-- Every fan not assigned to Link Test runs at 255, unforced. -/
theorem quenchLatch_fan (s : State) (cause sensor : Nat) (temp : Int) {f : Nat} (hf : f < 4) :
    vget (quenchLatch s cause sensor temp).thm.fan f {} =
      { vget s.thm.fan f {} with duty := if fanTest (quenchLatch s cause sensor temp) f then 0 else 255, force := none } := by
  have mod : (quenchLatch s cause sensor temp).mod = s.mod := quenchLatch_changes s cause sensor temp .mod (by decide)
  have land : fanTest (quenchLatch s cause sensor temp) f = fanTest s f := by rw [fanTest, fanTest, mod]
  rw [land, quenchLatch_thm]
  simp only [quenchShown, vget_vall _ _ hf]

end Sys2Proof.Machine

open Sys2Proof Sys2Proof.Machine

/-- Settles O18, from what holds once Quench has latched and each of its steps. -/
theorem quenchMakesSafe : Obligations.QuenchMakesSafe := by
  unfold Obligations.QuenchMakesSafe
  intro dt cause sensor temp s free met
  have latched : (!(arrive dt s).thm.quench) = true ∧ quenchMet (arrive dt s) cause sensor temp = true := ⟨by rw [arrive_thm, free]; rfl, met⟩
  have row : exec (.quench dt cause sensor temp) s = .next (quenchLatch (arrive dt s) cause sensor temp) :=
    congrArg Host.Outcome.next (if_pos latched)
  have safe := quenchLatch_safe (arrive dt s) cause sensor temp
  have thm := quenchLatch_thm (arrive dt s) cause sensor temp
  refine ⟨_, row, safe.quench, (congrArg Thm.qCause thm :), (congrArg Thm.qSensor thm :), safe.low, (congrArg Thm.heatOn thm :), safe.quiet,
    safe.queue, fun d mem => quenchLatch_off _ _ _ _ mem _, fun f hf => ?_, changesOnly_arrived (quenchLatch_changes _ cause sensor temp)⟩
  rw [quenchLatch_fan _ _ _ _ hf]
  exact ⟨rfl, rfl⟩
end
